-- ==== Sys2Proof/Word.lean ====
section
/-!
DEFINITION. Words of the Marsomin: bytes, 64-bit slot words and scalar registers, 128-bit
capabilities and type words, 512-bit bundles and 1,024-bit rows (R4, R187, R307).
-/

namespace Sys2Proof

/-- A byte of memory (R4). -/
abbrev Byte := BitVec 8
/-- A scalar register, a slot word, a system register (R187, R308). -/
abbrev Word := BitVec 64
/-- A capability's bits, a type word, a mask register (R187, R188, R201). -/
abbrev Quad := BitVec 128
/-- A vector register or a deep-file row (R187, R190). -/
abbrev Row := BitVec 1024
/-- A bundle: eight slot words, word 0 lowest (R307). -/
abbrev Bundle := BitVec 512

end Sys2Proof
end

