-- ==== Sys2Proof/Machine/Bits.lean ====
section
/-!
DEFINITION. Bit fields, two's complement, lanes and byte strings (R4, R7 to R9).
-/

namespace Sys2Proof.Machine

/-- Bits [hi:lo] of a number. -/
def bits (n lo w : Nat) : Nat := (n >>> lo) % 2 ^ w

/-- A field of a word as a number. -/
def fld (w : Word) (lo n : Nat) : Nat := bits w.toNat lo n

/-- A `w`-bit pattern read as two's complement. -/
def toS (w n : Nat) : Int := if n % 2 ^ w < 2 ^ (w - 1) then (n % 2 ^ w : Nat) else (n % 2 ^ w : Nat) - (2 ^ w : Nat)

/-- The `w`-bit pattern of an integer, modulo 2^w. -/
def ofI (w : Nat) (i : Int) : Nat := (i % (2 ^ w : Nat)).toNat

/-- A word from an integer, modulo 2^64. -/
def word (i : Int) : Word := BitVec.ofInt 64 i

/-- Sat(i, lo, hi), and whether it clamped. -/
def sat (lo hi i : Int) : Int × Bool := if i < lo then (lo, true) else if hi < i then (hi, true) else (i, false)

/-- The least and greatest value of `w` bits, signed or unsigned. -/
def rangeOf (signed : Bool) (w : Nat) : Int × Int :=
  if signed then (-(2 ^ (w - 1) : Nat), (2 ^ (w - 1) : Nat) - 1) else (0, (2 ^ w : Nat) - 1)

/-- The set bits of the low `w` bits. -/
def popCount : Nat → Nat → Nat
  | 0, _ => 0
  | w + 1, n => n % 2 + popCount w (n / 2)

/-- The leading zero bits within `w` bits; `w` where the number is 0. -/
def leadZeros (w n : Nat) : Nat := if n % 2 ^ w = 0 then w else w - 1 - Nat.log2 (n % 2 ^ w)

/-- The trailing zero bits within `w` bits; `w` where the number is 0. -/
def trailZeros : Nat → Nat → Nat
  | 0, _ => 0
  | w + 1, n => if n % 2 = 1 then 0 else 1 + trailZeros w (n / 2)

/-- The lowest set bit of a number below 2^w, or none. -/
def lowBit (w n : Nat) : Option Nat := if n % 2 ^ w = 0 then none else some (trailZeros w n)

/-- ⌈a / b⌉. -/
def ceilDiv (a b : Nat) : Nat := (a + b - 1) / b

/-- Lane `i` of width `w` of a row (R9). -/
def lane (v : Row) (w i : Nat) : Nat := bits v.toNat (w * i) w

/-- The number whose `w`-bit digits are the list, lowest first. -/
def digits (w : Nat) : List Nat → Nat
  | [] => 0
  | x :: t => x % 2 ^ w + 2 ^ w * digits w t

/-- A row from its lanes, lane 0 first; lanes not listed are 0. -/
def rowOf (w : Nat) (l : List Nat) : Row := BitVec.ofNat 1024 (digits w l)

/-- The row whose lane `i` is `f i`. -/
def mapLanes (w : Nat) (f : Nat → Nat) : Row := rowOf w ((List.range (1024 / w)).map f)

/-- The bytes of a number, lowest first (R4). -/
def bytesOf (n v : Nat) : List Byte := (List.range n).map (fun i => BitVec.ofNat 8 (v >>> (8 * i)))

/-- The number a byte string holds, lowest byte first (R4). -/
def ofBytes (l : List Byte) : Nat := digits 8 (l.map BitVec.toNat)

/-- `n` bytes of a byte string from position `i`; 0 beyond its end. -/
def slice (l : List Byte) (i n : Nat) : List Byte :=
  (l.drop i).take n ++ List.replicate (n - (l.length - i)) 0

/-- The field of a byte string, little-endian. -/
def getLe (l : List Byte) (i n : Nat) : Nat := ofBytes (slice l i n)

/-- Replace byte strings within another from position `i`. -/
def patch (l : List Byte) (i : Nat) (p : List Byte) : List Byte :=
  l.take i ++ p.take (l.length - i) ++ l.drop (i + p.length)

/-- The bytes of a row. -/
def rowBytes (v : Row) : List Byte := bytesOf 128 v.toNat

/-- A row from bytes; bytes not given are 0. -/
def rowOfBytes (l : List Byte) : Row := BitVec.ofNat 1024 (ofBytes (l.take 128))

/-- The row mask whose bytes are those of a 128-bit byte mask. -/
def byteMask (m : Quad) : Row :=
  rowOf 8 ((List.range 128).map (fun i => if m.getLsbD i then 255 else 0))

/-- Merge: the bytes of `new` where the mask has a bit, of `old` elsewhere. -/
def mergeRow (m : Quad) (old new : Row) : Row := old &&& ~~~byteMask m ||| new &&& byteMask m

/-- All bytes. -/
def allBytes : Quad := BitVec.allOnes 128

/-- CRC-32C, reflected form 0x82F6_3B78 (R200). -/
def crcBit (r : BitVec 32) : BitVec 32 :=
  if r.getLsbD 0 then (r >>> 1) ^^^ 0x82F63B78 else r >>> 1

/-- One byte of CRC-32C. -/
def crcByte (r : BitVec 32) (b : Byte) : BitVec 32 :=
  crcBit (crcBit (crcBit (crcBit (crcBit (crcBit (crcBit (crcBit (r ^^^ b.setWidth 32))))))))

/-- CRC-32C of a byte string (R200, R33). -/
def crc32c (l : List Byte) : BitVec 32 := ~~~l.foldl crcByte 0xFFFFFFFF

/-- Insertion into a list sorted by a key; equal keys keep their order. -/
def insertBy {α : Type} (key : α → Nat) (x : α) : List α → List α
  | [] => [x]
  | y :: t => if key x < key y then x :: y :: t else y :: insertBy key x t

/-- A stable sort by a key. -/
def sortBy {α : Type} (key : α → Nat) (l : List α) : List α :=
  l.foldl (fun acc x => insertBy key x acc) []

/-- Replace element `i` of a list. -/
def setAt {α : Type} : List α → Nat → α → List α
  | [], _, _ => []
  | _ :: t, 0, a => a :: t
  | x :: t, i + 1, a => x :: setAt t i a

end Sys2Proof.Machine
end

