-- ==== Sys2Proof/Syntax.lean ====
section
/-!
DEFINITION. The syntax of the machine: one constructor of `Instr` for each row of
spec/opcode_table.json. 127 rows are events of the module's agents; their arguments are what the
agent or the outside world brings to the step. 319 rows are slot instructions of the compute
cores; they carry the fields of their slot word as R308 and R309 lay them out, unresolved, so
that decoding drops no bit.
-/

namespace Sys2Proof

/-- The eight slots of a bundle, in word order (R307). -/
inductive Slot where
  | sc | va | vb | mt | ld | st | eg | sy
  deriving DecidableEq, Repr

/-- The two vector slots, which share one opcode space (R319). -/
inductive VSlot where
  | a | b
  deriving DecidableEq, Repr

/-- The fields [55:47] of every slot word: variant, write bit and predicate (R308). -/
structure Hd where
  fmt : BitVec 4
  w : Bool
  pred : BitVec 3
  pn : Bool
  deriving DecidableEq, Repr

/-- Format R (R309). -/
structure RFmt where
  dst : BitVec 9
  sa : BitVec 9
  sb : BitVec 9
  sc : BitVec 9
  imm : BitVec 11
  deriving DecidableEq, Repr

/-- Format I (R309). -/
structure IFmt where
  dst : BitVec 9
  sa : BitVec 9
  imm : BitVec 29
  deriving DecidableEq, Repr

/-- Format L (R309). -/
structure LFmt where
  dst : BitVec 9
  imm : BitVec 38
  deriving DecidableEq, Repr

/-- Format M (R309): DT, AB and DISP29. -/
structure MFmt where
  dt : BitVec 9
  ab : BitVec 9
  disp : BitVec 29
  deriving DecidableEq, Repr

/-- Format B (R309): IMM18, the reserved bit [10] and TGT. -/
structure BFmt where
  dst : BitVec 9
  sa : BitVec 9
  imm : BitVec 18
  rsv : BitVec 1
  tgt : BitVec 10
  deriving DecidableEq, Repr

/-- Format E (R309): bits [28:11] are SB and SC, or IMM18, as the instruction says. -/
structure EFmt where
  dst : BitVec 9
  sa : BitVec 9
  sb : BitVec 9
  sc : BitVec 9
  flag : BitVec 5
  mod : BitVec 6
  deriving DecidableEq, Repr

/-- IMM18 of format E, the bits of SB above those of SC (R309). -/
def EFmt.imm18 (f : EFmt) : BitVec 18 := f.sb ++ f.sc

/-- What a scrub or a read finds in a stored word (R21, R22). -/
inductive EccFinding where
  | clean | correctable | uncorrectable | sharedStructure
  /-- A correctable error in another structure of a die. -/
  | corrected (die : Nat)
  /-- An uncorrectable error in a register of class s, a, v, x, t, d, p, m or k, numbered 0 to 8. -/
  | register (core ctx cls n : Nat)
  /-- An uncorrectable error in a deep-file row. -/
  | row (core n : Nat)
  /-- An uncorrectable error in an accumulator entry. -/
  | entry (core n : Nat)
  /-- An error in an entry of a translation structure: 0 TLB, 1 walk cache, 2 space cache, 3 object cache. -/
  | translation (table n : Nat)
  deriving DecidableEq, Repr

/-- A boot manifest with the images it covers, as read (R28). `digests` are the SHA-256 digests it lists, `images` the
images found, `key` the signer's public key, `nextKey` the next signer's, and `cmdKey` the key that signs the
commands of the management port (R27, R80). -/
structure Manifest where
  readable : Bool
  key : List Byte
  sv : BitVec 32
  digests : List (BitVec 256)
  images : List (List Byte)
  nextKey : List Byte
  cmdKey : List Byte
  sig : List Byte
  deriving DecidableEq, Repr

/-- A request of the management port: its header and body, and the signature over them (R79, R80), which a command that needs
none does not read. The empty one, which the turns of such commands bring unless they name another, is no request. -/
structure MgmtReq where
  bytes : List Byte
  sig : List Byte
  deriving DecidableEq, Repr

/-- The kinds of fabric message (R36, R45). -/
inductive MsgKind where
  | sendReq | sendGrant | sendRefuse | sendBusy | typedData | block | ack | nak
  | post | barrier | collective | px | pxReply | mailbox
  deriving DecidableEq, Repr, Inhabited

/-- A fabric message: the header of R36, its class (R45), and its bytes. Protocol fields whose
place in the message the spec does not give stand as 8-byte words at the front of `data`. -/
structure Msg where
  src : BitVec 24
  dst : BitVec 24
  kind : MsgKind
  cls : BitVec 2
  tag : BitVec 16
  tw : Quad
  data : List Byte
  deriving DecidableEq, Repr

/-- The rings the device produces into and software consumes from (R70, R71, R119). -/
inductive DevRing where
  | completion | fault | storageOut
  deriving DecidableEq, Repr

/-- The parties whose accesses are translated (R86, R108, R300). -/
inductive Requester where
  | ctx (core ctx : Nat)
  | ce (core : Nat)
  | me (core : Nat)
  | loadBlock (core id : Nat)
  | merge (cluster : Nat)
  | pix (n : Nat)
  | media (ring : Nat)
  | edgeFill (task : Nat)
  | fabric (core job : Nat)
  deriving DecidableEq, Repr

/-- The steps of the machine, in the order of spec/opcode_table.json. -/
inductive Instr where
  /-- MODULE_RESET (R26). A module reset ends any freeze and starts the secure boot chain from the
  Oarov boot ROM. -/
  | moduleReset
  /-- BOOT_STAGE (R28). A boot stage verifies the manifest and images of the next stage and runs it,
  or enters recovery mode. -/
  | bootStage (m : Manifest)
  /-- POWER_SAMPLE (R16). Once per millisecond the controller samples every power domain and the
  highest die temperature into the telemetry ring. -/
  | powerSample (mw : Vector (BitVec 32) 6) (temp : BitVec 32)
  /-- THROTTLE_RAISE (R17). When the 10 ms average exceeds the limit, throttle level L rises by 1,
  at most once per 10 ms. -/
  | throttleRaise
  /-- THROTTLE_LOWER (R17). When the average stays below 95 % of the limit for 100 ms, L falls by 1. -/
  | throttleLower
  /-- POWER_ALARM (R17). With L at 7 and the average still over the limit for 100 ms, the controller
  sets POWER_ALARM. -/
  | powerAlarm
  /-- CORE_FREQUENCY_CHANGE (R19). A core changes FCUR and WEIGHT at one of its cycle boundaries
  after a change of L. -/
  | coreFrequencyChange (core : Nat)
  /-- PATROL_SCRUB (R23). Patrol scrubbers read and correct L2 lines and memory words on their
  periodic schedule. -/
  | patrolScrub (pa : Nat) (e : EccFinding)
  /-- FREEZE_PIN (R24). FREEZE_N held low for at least 1 µs asserts the freeze with cause 0x01. -/
  | freezePin
  /-- THERMAL_TRIP (R24). A die at its 105 °C trip temperature asserts the freeze with cause 0x03. -/
  | thermalTrip (die : Nat)
  /-- OAROV_FIRMWARE_FAULT (R24). A fatal fault inside the Oarov firmware asserts the freeze with
  cause 0x05. -/
  | oarovFirmwareFault
  /-- MGMT_FREEZE (R80). A signed freeze command over the management port asserts the freeze with
  cause 0x02. -/
  | mgmtFreeze (q : MgmtReq)
  /-- MGMT_READ_OUT (R27). A signed read-out command makes the controller stream the frozen state in
  sections. -/
  | mgmtReadOut (q : MgmtReq)
  /-- MGMT_POWER_LIMIT (R17). A signed power-limit command sets the limit from 1,200 to 2,400 W or
  is refused. -/
  | mgmtPowerLimit (q : MgmtReq) (watts : Nat)
  /-- MGMT_IMAGE_REPLACEMENT (R30). A signed command in recovery mode replaces a firmware image. -/
  | mgmtImageReplacement (q : MgmtReq) (stage : Nat) (m : Manifest)
  /-- MGMT_LOADER_KEY_ENROL (R28). A signed command enrolls the owner's operating-system loader key. -/
  | mgmtLoaderKeyEnrol (q : MgmtReq) (key : List Byte)
  /-- MGMT_REGISTER_READ (R77). A management-port request reads Oarov controller registers. -/
  | mgmtRegisterRead (off : Nat) (q : MgmtReq := ⟨[], []⟩)
  /-- MGMT_TELEMETRY_READ (R16). A management-port request reads the telemetry sample window. -/
  | mgmtTelemetryRead (sel : BitVec 3) (q : MgmtReq := ⟨[], []⟩)
  /-- MGMT_CERTIFICATE_READ (R31). A management-port request reads the identity certificate. -/
  | mgmtCertificateRead (q : MgmtReq := ⟨[], []⟩)
  /-- MGMT_ATTESTATION (R32). A nonce over the management port yields a signed attestation report,
  or NOT_BOOTED. -/
  | mgmtAttestation (nonce : BitVec 256) (q : MgmtReq := ⟨[], []⟩)
  /-- MBCMD_ATTESTATION (R78). A write of MBCMD starts an attestation request from the system-core
  mailbox, or sets a bad-command status. -/
  | mbcmdAttestation (v : Word)
  /-- MAILBOX_DONE (R78). The mailbox request completes, writes the report and status, and raises
  interrupt source 4. -/
  | mailboxDone
  /-- REGISTER_WRITE (R6). A write to a device or system register without behaviour of its own
  stores or ignores the value by its access code. -/
  | registerWrite (addr : Nat) (width : Nat) (v : Word)
  /-- FLIT_RECEIVE (R35). A received flit is corrected, CRC-checked and sequence-checked, delivered
  or dropped with a retry request. -/
  | flitReceive (link : Nat) (bytes : List Byte)
  /-- RETRY_REQUEST_RECEIVE (R35). A retry request makes the sender replay its unacknowledged flits
  from the named SEQ. -/
  | retryRequestReceive (link : Nat) (seq : BitVec 12)
  /-- LINK_FLIT_SLOT (R46). Every 2 ns each link direction arbitrates the classes and sends one
  flit, refilling the C0 token bucket. -/
  | linkFlitSlot (link : Nat)
  /-- LINK_RETRAIN (R43). Writing LNKCTL.RETRAIN as 1 while ENABLE is 1 moves a DOWN link to
  TRAINING. -/
  | linkRetrain (link : Nat)
  /-- LINK_DISABLE (R43). Writing LNKCTL.ENABLE as 0 forces the link DOWN with cause DISABLED. -/
  | linkDisable (link : Nat)
  /-- LINK_TRAINED (R43). Lane lock and capability exchange bring the link UP, or DOWN with
  PEER_MISMATCH. -/
  | linkTrained (link : Nat) (peerMod : BitVec 12) (peerZb : Bool)
  /-- LINK_TRAINING_TIMEOUT (R43). 100 ms in TRAINING without lock takes the link DOWN with
  LANE_LOSS. -/
  | linkTrainingTimeout (link : Nat)
  /-- LANE_LOCK_LOSS (R43). A lane losing lock takes an UP link DOWN with LANE_LOSS. -/
  | laneLockLoss (link : Nat)
  /-- LINK_STALL (R39). A link with queued flits that sends none for 10 ms sets LINK_STALL. -/
  | linkStall (link : Nat)
  /-- MESSAGE_FORWARD (R38). A message arriving for another module is routed on a valid UP choice of
  the route table, or completes NO_ROUTE. -/
  | messageForward (m : Msg)
  /-- SEND_REQUEST_ARRIVE (R53). A typed-send request at the destination core is matched and type-
  checked, then granted, refused, queued or refused BUSY. -/
  | sendRequestArrive (m : Msg)
  /-- SEND_GRANT_ARRIVE (R52). A grant lets the sender's data travel on C1. -/
  | sendGrantArrive (m : Msg)
  /-- SEND_REFUSAL_ARRIVE (R54). A refusal completes the send with TYPE_REJECTED, or a BUSY refusal
  schedules a retry. -/
  | sendRefusalArrive (m : Msg)
  /-- SEND_RETRY_TIMER (R55). A randomised delay expires and the send retries its request, or
  completes NO_RECEIVER after 1 s. -/
  | sendRetryTimer (core : Nat) (job : Nat)
  /-- TYPED_DATA_ARRIVE (R436). Typed send data lands in the receive storage and the receive
  completes at its last byte. -/
  | typedDataArrive (m : Msg)
  /-- BLOCK_TRANSFER_ARRIVE (R437). Block-transfer data lands at the destination through the
  issuer's space, followed by the optional remote post. -/
  | blockTransferArrive (m : Msg)
  /-- TRANSFER_ACK_ARRIVE (R437). The destination's acknowledgement of the last byte completes a
  SEND or BXFER and posts its flag. -/
  | transferAckArrive (m : Msg)
  /-- REMOTE_POST_ARRIVE (R444). A remote post is applied to a flag at the destination by R165, or
  dropped and counted. -/
  | remotePostArrive (m : Msg)
  /-- REMOTE_BARRIER_ARRIVAL (R168). A level-5 barrier arrival from another module is counted at the
  group's collective engine. -/
  | remoteBarrierArrival (m : Msg)
  /-- PX_REMOTE_COMMAND (R142). An argument block addressed to endpoint 0x401 is queued at port 0
  and answered by a C3 message. -/
  | pxRemoteCommand (m : Msg)
  /-- COLL_JOB_START (R59). A collective job starts once every local contributor of the group and
  sequence number has issued. -/
  | collJobStart (g : Nat)
  /-- COLL_CONTRIBUTION_ARRIVE (R60). A contribution from another member enters the exact
  accumulator or ends the job with MISMATCH. -/
  | collContributionArrive (m : Msg)
  /-- COLL_JOB_COMPLETE (R62). The collective writes its rounded results to the destinations and
  posts each contributor's flag. -/
  | collJobComplete (g : Nat)
  /-- COLL_TIMEOUT (R59). A collective job with no progress for 1 s ends with TIMEOUT. -/
  | collTimeout (g : Nat)
  /-- LAUNCH_QUEUE_TAIL_WRITE (R68). A write of LQTAIL produces launch records, or is refused and
  sets OVERRUN. -/
  | launchQueueTailWrite (n : Nat) (v : Word)
  /-- LAUNCH_RECORD_READ (R69). The work distributor takes the next launch record, checks it by R67
  and creates a task or a completion entry. -/
  | launchRecordRead
  /-- CONSUMER_HEAD_WRITE (R70). A software write of the head of a device-produced ring consumes
  entries, or is refused and sets OVERRUN. -/
  | consumerHeadWrite (r : DevRing) (v : Word)
  /-- TASK_COMPLETE (R70). A task whose contexts and engine jobs have all finished applies its
  successor decrement and writes its completion entry. -/
  | taskComplete (task : Nat)
  /-- COMPLETION_DRAIN (R70). A completion waiting on a full completion queue is written once room
  appears. -/
  | completionDrain
  /-- FAULT_RECORD_DRAIN (R71). A fault record waiting on a full fault queue is written once room
  appears. -/
  | faultRecordDrain
  /-- TRANSLATION_CHANNEL_TAIL_WRITE (R72). A write of TCTAIL produces channel commands, or is
  refused and sets OVERRUN. -/
  | translationChannelTailWrite (v : Word)
  /-- PTWRITE (R72). The channel writes DATA single-copy atomic to a physical address, dropping
  cached copies of table entries. -/
  | ptwrite
  /-- INVAL (R72). The channel drops every TLB and walk-cache entry of a space that covers a range. -/
  | inval
  /-- REPLAY (R300). The channel resumes an outstanding fault, returning the context a level and
  reissuing its record. -/
  | replay
  /-- KILL (R305). The channel kills the context of an outstanding fault. -/
  | kill
  /-- RETIRE (R76). The channel advances a space's generation and drops stale entries, or refuses
  with SPACE_LIVE. -/
  | retire
  /-- MARK (R72). The channel writes DATA into TCMARK. -/
  | mark
  /-- TLB_MISS_WALK (R112). A translation miss starts or joins a walk, waiting in arrival order for
  a walker. -/
  | tlbMissWalk (r : Requester)
  /-- PAGE_WALK_COMPLETE (R108). A walk ends by installing a translation, setting A or D, or raising
  a TRANSLATION fault. -/
  | pageWalkComplete (r : Requester)
  /-- KEY_LOAD (R123). KCMD 1 starts loading KDATA into the key slot named by KSEL. -/
  | keyLoad
  /-- KEY_CLEAR (R123). KCMD 2 starts emptying the key slot named by KSEL. -/
  | keyClear
  /-- KEY_COMMAND_FINISH (R123). Once moves under the key drain, lines are written back, the key is
  installed or emptied and BUSY clears. -/
  | keyCommandFinish
  /-- TIER_FRAME_POP (R114). A read of TFPOP pops the top free frame of a tier. -/
  | tierFramePop (t : Nat)
  /-- TIER_FRAME_PUSH (R114). A write of TFPUSH pushes a frame, or drops it setting OVF or BADPUSH. -/
  | tierFramePush (t : Nat) (v : Word)
  /-- TIER_CLOCK_STEP (R116). An active tier engine advances its clock hand one frame and skips,
  ages or chooses it as victim. -/
  | tierClockStep (t : Nat)
  /-- DEMOTION_START (R117). A move pops a destination frame and sets M by compare-and-swap, or
  stalls or abandons. -/
  | demotionStart (t : Nat)
  /-- DEMOTION_DRAIN (R117). Once no access, lease or pin is held, the page's lines are written back
  and dropped and the copy begins. -/
  | demotionDrain (t : Nat)
  /-- DEMOTION_FINISH (R117). After the copy the leaf and frame tables are rewritten and the source
  frame pushed. -/
  | demotionFinish (t : Nat)
  /-- STORAGE_OUT_RECORD (R119). A demotion to storage writes a storage-out record once the ring has
  room and raises interrupt source 3. -/
  | storageOutRecord (t : Nat)
  /-- MEDIA_RING_CONFIG_WRITE (R83). A write of MJBASE or MJSIZE configures a media ring and sets
  HEAD to 0. -/
  | mediaRingConfigWrite (n : Nat) (size : Bool) (v : Word)
  /-- MEDIA_CARD_POLL (R84). Once per microsecond an engine rereads the card at HEAD until OWN is 1. -/
  | mediaCardPoll (n : Nat)
  /-- DECODE_CARD (R87). A VDE takes an owned decode card, checks it and decodes units into frame
  slots. -/
  | decodeCard (n : Nat)
  /-- RESIZE_CARD (R88). An RZE takes an owned resize card, checks it and writes the typed output
  image. -/
  | resizeCard (n : Nat)
  /-- MEDIA_CARD_COMPLETE (R84). A finished card writes its status, clears OWN, advances HEAD and
  posts and decrements. -/
  | mediaCardComplete (n : Nat)
  /-- NVME_COMPLETION (R93). An NVMe Read completion is taken for a storage job, completing the job
  after the last one. -/
  | nvmeCompletion (e : Nat) (cid : Nat) (sf : BitVec 15) (data : List Byte)
  /-- NVME_COMMAND_TIMEOUT (R92). A command exceeding 30 s sets TIMEOUT and gives the job status
  TIMEOUT. -/
  | nvmeCommandTimeout (e : Nat) (cid : Nat)
  /-- CXL_LINK_DOWN (R94). A CXL port link going down makes its range read poisoned and drop writes. -/
  | cxlLinkDown (p : Nat)
  /-- PX_DISABLE (R125). A write of PXCFG with ENABLE 0 clears ENABLE and READY, unless the pool is
  busy. -/
  | pxDisable (p : Nat) (v : Word)
  /-- PX_INIT (R126). Writing PXCTL.INIT checks the pool configuration and starts initialisation or
  sets CFGERR. -/
  | pxInit (p : Nat)
  /-- PX_INIT_COMPLETE (R126). Initialisation finishes the metadata and stacks, clears INITBUSY and
  sets READY, or fails. -/
  | pxInitComplete (p : Nat)
  /-- PX_REQUANT_START (R145). Writing PXCTL.RQ starts a requantisation pass toward generation TGT. -/
  | pxRequantStart (p : Nat)
  /-- PX_REQUANT_STEP (R145). One requantisation step re-encodes a page into a new slot and swaps
  its entry. -/
  | pxRequantStep (p : Nat)
  /-- PX_RECLAIM (R148). A write of PXRECL moves retired slots swapped before T onto the slot stack. -/
  | pxReclaim (p : Nat) (t : Word)
  /-- LOOKUP (R135). The prefix engine finds the longest match of a token list and writes RESULT and
  AUX. -/
  | lookup
  /-- INSERT (R137). The prefix engine enters a sequence into the index, donating it or copying it. -/
  | insert
  /-- FORK (R136). The prefix engine creates sequences sharing the pages of a match or a source
  sequence. -/
  | fork
  /-- APPEND (R138). The prefix engine appends tokens to sequences, copying on write and allocating
  pages. -/
  | append
  /-- RELEASE (R139). The prefix engine releases sequences and frees pages whose reference count
  reaches 0. -/
  | release
  /-- TASK_PLACEMENT_ASSIGN (R158). The front end gives a READY task to the die agent with the most
  FREE cores. -/
  | taskPlacementAssign (task : Nat)
  /-- PLACEMENT_SELECT (R158). A die agent chooses a candidate set and sends reserve requests, or
  waits. -/
  | placementSelect (task : Nat)
  /-- RESERVE_REQUEST (R157). A core grants or refuses a reserve request for a task. -/
  | reserveRequest (core : Nat) (task : Nat)
  /-- PHASE1_RESULT (R158). With all answers in, the placement commits or aborts and counts a
  failure. -/
  | phase1Result (task : Nat)
  /-- RESERVATION_TIMEOUT (R157). A RESERVED core without commit or release for 10 µs returns to
  FREE or HELD. -/
  | reservationTimeout (core : Nat)
  /-- PLACEMENT_BACKOFF_EXPIRY (R158). A backoff delay expires and the placement selects again. -/
  | placementBackoffExpiry (task : Nat)
  /-- HOLD_SLOT_GRANT (R159). A freed hold slot goes to the waiting placement of highest effective
  priority. -/
  | holdSlotGrant (die : Nat)
  /-- QUANTUM_BOUNDARY (R161). At each quantum boundary an agent swaps out victims for waiters by
  priority and run time. -/
  | quantumBoundary (die : Nat)
  /-- STOP_REQUEST (R303). A die agent asks a gang's contexts to report LASTCUT + 1. -/
  | stopRequest (task : Nat)
  /-- STOP_CUT_BROADCAST (R303). With all reports in, the agent sends the maximum C to every core. -/
  | stopCutBroadcast (task : Nat)
  /-- STOP_TIMEOUT (R163). A gang not reaching a gate within 1 ms has its swap abandoned. -/
  | stopTimeout (task : Nat)
  /-- SWAP_OUT (R163). Once stopped and its jobs drained, a gang's images are written to swap slots. -/
  | swapOut (task : Nat)
  /-- SWAP_IN (R164). A swapped gang's images are loaded back onto its own cores and replayed. -/
  | swapIn (task : Nat)
  /-- TAKE_CLAIM (R155). The agent applies a chunk claim at the task's cursor in proportion to
  WEIGHT. -/
  | takeClaim (core : Nat) (ctx : Nat)
  /-- DEVICE_LAUNCH (R152). The work distributor checks a device-launched record and creates a task. -/
  | deviceLaunch (core : Nat) (ctx : Nat)
  /-- XROUTE_APPLY (R173). The agent of die 0 routes a token to its first expert with room, or drops
  it. -/
  | xrouteApply (core : Nat) (ctx : Nat)
  /-- XROUTE_RESUME (R176). A completed expert frees its pages and waiting XROUTEs proceed in
  arrival order. -/
  | xrouteResume (task : Nat)
  /-- RESULT_LAND (R183). A fixed-latency result lands in its register and latch at its due cycle. -/
  | resultLand (core : Nat)
  /-- LOAD_RETURN (R406). Load, pop or atomic data returns and lands in its scoreboarded
  destination. -/
  | loadReturn (core : Nat) (ctx : Nat)
  /-- VAR_RESULT_RETURN (R421). A variable-latency engine result lands in its destination and latch. -/
  | varResultReturn (core : Nat) (ctx : Nat)
  /-- TRAP_ENTRY (R290). A cause taken between bundles pushes a trap level and vectors the context,
  or kills it. -/
  | trapEntry (core : Nat) (ctx : Nat)
  /-- WATCHDOG (R295). A bundle blocked on one condition for 2^30 ticks with TWDOG set takes
  WATCHDOG. -/
  | watchdog (core : Nat) (ctx : Nat)
  /-- SLEEP_EXPIRY (R450). TICK reaches a sleeping bundle's deadline and it may issue. -/
  | sleepExpiry (core : Nat) (ctx : Nat)
  /-- COPY_JOB_START (R246). The copy engine starts its next job from its shadow table. -/
  | copyJobStart (core : Nat)
  /-- COPY_JOB_COMPLETE (R241). A copy job completes, writes CESTAT and posts its flag. -/
  | copyJobComplete (core : Nat)
  /-- MATRIX_JOB_START (R256). The matrix engine starts its next job. -/
  | matrixJobStart (core : Nat)
  /-- MATRIX_JOB_COMPLETE (R241). A matrix job completes, writes MESTAT and posts its flag. -/
  | matrixJobComplete (core : Nat)
  /-- MERGE_OPEN_APPLY (R428). The merge network applies an open, opening the session or refusing
  it. -/
  | mergeOpenApply (cluster : Nat)
  /-- MERGE_PUSH_APPLY (R267). The merge network applies a push's records, emitting, spilling or
  failing. -/
  | mergePushApply (cluster : Nat)
  /-- MERGE_CLOSE_APPLY (R270). Close merges store and runs, writes output and status and posts the
  flag. -/
  | mergeCloseApply (cluster : Nat)
  /-- MERGE_STATUS_APPLY (R430). The merge network answers a status query from the session's state. -/
  | mergeStatusApply (cluster : Nat)
  /-- LOAD_BLOCK_SETTLED (R197). A load-block fill settles PINNED or NOPIN and increments its flag. -/
  | loadBlockSettled (core : Nat) (id : Nat)
  /-- RPLACK_COMPLETE (R440). Once the last replay record has performed, RPLACK writes its
  acknowledgement and posts. -/
  | rplackComplete (core : Nat) (ctx : Nat)
  /-- NOP (R307). An all-zero slot word does nothing. -/
  | nop (k : Slot)
  /-- ADD (R341). Integer add, optionally 32-bit or saturating. -/
  | add (h : Hd) (f : RFmt)
  /-- SUB (R341). Integer subtract, optionally 32-bit or saturating. -/
  | sub (h : Hd) (f : RFmt)
  /-- MUL (R341). Low bits of the integer product. -/
  | mul (h : Hd) (f : RFmt)
  /-- MULH (R341). High 64 bits of the signed product. -/
  | mulh (h : Hd) (f : RFmt)
  /-- MULHU (R341). High 64 bits of the unsigned product. -/
  | mulhu (h : Hd) (f : RFmt)
  /-- DIV (R342). Signed division truncating toward zero. -/
  | div (h : Hd) (f : RFmt)
  /-- DIVU (R342). Unsigned division. -/
  | divu (h : Hd) (f : RFmt)
  /-- REM (R342). Signed remainder. -/
  | rem (h : Hd) (f : RFmt)
  /-- REMU (R342). Unsigned remainder. -/
  | remu (h : Hd) (f : RFmt)
  /-- AND (R341). Bitwise AND. -/
  | and (h : Hd) (f : RFmt)
  /-- OR (R341). Bitwise OR. -/
  | or (h : Hd) (f : RFmt)
  /-- XOR (R341). Bitwise XOR. -/
  | xor (h : Hd) (f : RFmt)
  /-- ANDN (R341). a AND NOT b. -/
  | andn (h : Hd) (f : RFmt)
  /-- SHL (R341). Shift left by register. -/
  | shl (h : Hd) (f : RFmt)
  /-- SHR (R341). Logical shift right by register. -/
  | shr (h : Hd) (f : RFmt)
  /-- SRA (R341). Arithmetic shift right by register. -/
  | sra (h : Hd) (f : RFmt)
  /-- ROL (R341). Rotate left. -/
  | rol (h : Hd) (f : RFmt)
  /-- MIN (R341). Signed minimum. -/
  | min (h : Hd) (f : RFmt)
  /-- MAX (R341). Signed maximum. -/
  | max (h : Hd) (f : RFmt)
  /-- MINU (R341). Unsigned minimum. -/
  | minu (h : Hd) (f : RFmt)
  /-- MAXU (R341). Unsigned maximum. -/
  | maxu (h : Hd) (f : RFmt)
  /-- CLZ (R341). Count leading zeros. -/
  | clz (h : Hd) (f : RFmt)
  /-- CTZ (R341). Count trailing zeros. -/
  | ctz (h : Hd) (f : RFmt)
  /-- POPC (R341). Population count. -/
  | popc (h : Hd) (f : RFmt)
  /-- SEXT (R341). Sign-extend from bit k − 1. -/
  | sext (h : Hd) (f : RFmt)
  /-- ZEXT (R341). Zero-extend from bit k − 1. -/
  | zext (h : Hd) (f : RFmt)
  /-- SEL (R341). Select a or b by a predicate. -/
  | sel (h : Hd) (f : RFmt)
  /-- CMP (R345). Compare two registers into a predicate. -/
  | cmp (h : Hd) (f : RFmt)
  /-- CMPI (R343). Compare a register with an immediate into a predicate. -/
  | cmpi (h : Hd) (f : IFmt)
  /-- ADDI (R343). Add an immediate. -/
  | addi (h : Hd) (f : IFmt)
  /-- ANDI (R343). AND with an immediate. -/
  | andi (h : Hd) (f : IFmt)
  /-- ORI (R343). OR with an immediate. -/
  | ori (h : Hd) (f : IFmt)
  /-- XORI (R343). XOR with an immediate. -/
  | xori (h : Hd) (f : IFmt)
  /-- SHLI (R343). Shift left by an immediate. -/
  | shli (h : Hd) (f : IFmt)
  /-- SHRI (R343). Logical shift right by an immediate. -/
  | shri (h : Hd) (f : IFmt)
  /-- SRAI (R343). Arithmetic shift right by an immediate. -/
  | srai (h : Hd) (f : IFmt)
  /-- LI (R344). Load a sign-extended 38-bit constant. -/
  | li (h : Hd) (f : LFmt)
  /-- LIH (R344). Load the high 26 bits, keeping bits [37:0]. -/
  | lih (h : Hd) (f : LFmt)
  /-- PLOG (R346). Combine two predicates by a truth table. -/
  | plog (h : Hd) (f : RFmt)
  /-- FADD (R347). Scalar FP32 add. -/
  | fadd (h : Hd) (f : RFmt)
  /-- FSUB (R347). Scalar FP32 subtract. -/
  | fsub (h : Hd) (f : RFmt)
  /-- FMUL (R347). Scalar FP32 multiply. -/
  | fmul (h : Hd) (f : RFmt)
  /-- FMA (R347). Scalar FP32 fused multiply-add. -/
  | fma (h : Hd) (f : RFmt)
  /-- FDIV (R347). Scalar FP32 divide. -/
  | fdiv (h : Hd) (f : RFmt)
  /-- FSQRT (R347). Scalar FP32 square root. -/
  | fsqrt (h : Hd) (f : RFmt)
  /-- FMIN (R347). Scalar FP32 minimum. -/
  | fmin (h : Hd) (f : RFmt)
  /-- FMAX (R347). Scalar FP32 maximum. -/
  | fmax (h : Hd) (f : RFmt)
  /-- FCMP (R347). Scalar FP32 compare into a predicate. -/
  | fcmp (h : Hd) (f : RFmt)
  /-- FCVT (R348). Scalar format conversion. -/
  | fcvt (h : Hd) (f : RFmt)
  /-- FSGN (R347). Sign injection. -/
  | fsgn (h : Hd) (f : RFmt)
  /-- FCLS (R347). Classify an FP32 value. -/
  | fcls (h : Hd) (f : RFmt)
  /-- BR (R350). Branch within the current edge. -/
  | br (h : Hd) (f : BFmt)
  /-- CALL (R350). Branch and write the return link. -/
  | call (h : Hd) (f : BFmt)
  /-- JR (R350). Jump to a register's bundle index in the current edge. -/
  | jr (h : Hd) (f : RFmt)
  /-- LOOP (R351). Start a hardware loop over a run of bundles. -/
  | loop (h : Hd) (f : BFmt)
  /-- EDGE (R352). Transfer to a bundle of the other edge. -/
  | edge (h : Hd) (f : BFmt)
  /-- BKJ (R352). Jump through DISPT by bucket. -/
  | bkj (h : Hd) (f : RFmt)
  /-- TRAP (R353). Commit and take TRAP_INSTRUCTION. -/
  | trap (h : Hd) (f : RFmt)
  /-- TRET (R292). Return from a trap level and replay the snapshot and record. -/
  | tret (h : Hd) (f : RFmt)
  /-- EXIT (R353). Make the context IDLE. -/
  | exit (h : Hd) (f : RFmt)
  /-- CMOV (R354). Move a capability with its tag. -/
  | cmov (h : Hd) (f : RFmt)
  /-- CBND (R354). Narrow a capability's length bound by a register. -/
  | cbnd (h : Hd) (f : RFmt)
  /-- CBNDI (R354). Narrow a capability's length bound by an immediate. -/
  | cbndi (h : Hd) (f : IFmt)
  /-- CRST (R354). Restrict a capability's rights. -/
  | crst (h : Hd) (f : IFmt)
  /-- COFF (R354). Add a register to a capability's offset. -/
  | coff (h : Hd) (f : RFmt)
  /-- COFFI (R354). Add an immediate to a capability's offset. -/
  | coffi (h : Hd) (f : IFmt)
  /-- CSETO (R354). Set a capability's offset. -/
  | cseto (h : Hd) (f : RFmt)
  /-- CCHK (R355). Check a capability's tag, rights and bounds. -/
  | cchk (h : Hd) (f : RFmt)
  /-- CGET (R355). Read a field of a capability. -/
  | cget (h : Hd) (f : RFmt)
  /-- CCLR (R355). Write an a-register untagged from an a-register. -/
  | cclr (h : Hd) (f : RFmt)
  /-- CCLR_MK (R355). Write an a-register untagged from two s registers. -/
  | cclrMk (h : Hd) (f : RFmt)
  /-- CSUB (R355). Difference of two capability offsets. -/
  | csub (h : Hd) (f : RFmt)
  /-- DSET (R356). Bind a dimension variable from a register. -/
  | dset (h : Hd) (f : RFmt)
  /-- DSETI (R356). Bind a dimension variable from an immediate. -/
  | dseti (h : Hd) (f : IFmt)
  /-- DGET (R356). Read a dimension variable. -/
  | dget (h : Hd) (f : RFmt)
  /-- DUNB (R356). Unbind a dimension variable. -/
  | dunb (h : Hd) (f : RFmt)
  /-- MFSR (R357). Read a system register. -/
  | mfsr (h : Hd) (f : IFmt)
  /-- MTSR (R357). Write a system register. -/
  | mtsr (h : Hd) (f : IFmt)
  /-- MFSRC (R357). Read a capability system register with its tag. -/
  | mfsrc (h : Hd) (f : IFmt)
  /-- MTSRC (R357). Write a capability system register with its tag. -/
  | mtsrc (h : Hd) (f : IFmt)
  /-- VADD (R365). Vector integer add. -/
  | vadd (u : VSlot) (h : Hd) (f : RFmt)
  /-- VSUB (R365). Vector integer subtract. -/
  | vsub (u : VSlot) (h : Hd) (f : RFmt)
  /-- VADDS (R365). Vector saturating add. -/
  | vadds (u : VSlot) (h : Hd) (f : RFmt)
  /-- VSUBS (R365). Vector saturating subtract. -/
  | vsubs (u : VSlot) (h : Hd) (f : RFmt)
  /-- VMUL (R365). Vector low-half multiply. -/
  | vmul (u : VSlot) (h : Hd) (f : RFmt)
  /-- VMULH (R365). Vector high-half multiply. -/
  | vmulh (u : VSlot) (h : Hd) (f : RFmt)
  /-- VMIN (R365). Vector integer minimum. -/
  | vmin (u : VSlot) (h : Hd) (f : RFmt)
  /-- VMAX (R365). Vector integer maximum. -/
  | vmax (u : VSlot) (h : Hd) (f : RFmt)
  /-- VABS (R365). Vector integer absolute value. -/
  | vabs (u : VSlot) (h : Hd) (f : RFmt)
  /-- VAND (R365). Vector AND. -/
  | vand (u : VSlot) (h : Hd) (f : RFmt)
  /-- VOR (R365). Vector OR. -/
  | vor (u : VSlot) (h : Hd) (f : RFmt)
  /-- VXOR (R365). Vector XOR. -/
  | vxor (u : VSlot) (h : Hd) (f : RFmt)
  /-- VANDN (R365). Vector AND NOT. -/
  | vandn (u : VSlot) (h : Hd) (f : RFmt)
  /-- VSHL (R365). Vector shift left by lanes. -/
  | vshl (u : VSlot) (h : Hd) (f : RFmt)
  /-- VSHR (R365). Vector logical shift right by lanes. -/
  | vshr (u : VSlot) (h : Hd) (f : RFmt)
  /-- VSRA (R365). Vector arithmetic shift right by lanes. -/
  | vsra (u : VSlot) (h : Hd) (f : RFmt)
  /-- VSHLI (R365). Vector shift left by an immediate. -/
  | vshli (u : VSlot) (h : Hd) (f : RFmt)
  /-- VSHRI (R365). Vector logical shift right by an immediate. -/
  | vshri (u : VSlot) (h : Hd) (f : RFmt)
  /-- VSRAI (R365). Vector arithmetic shift right by an immediate. -/
  | vsrai (u : VSlot) (h : Hd) (f : RFmt)
  /-- VCLZ (R365). Vector count leading zeros. -/
  | vclz (u : VSlot) (h : Hd) (f : RFmt)
  /-- VPOPC (R365). Vector population count. -/
  | vpopc (u : VSlot) (h : Hd) (f : RFmt)
  /-- VADDI (R365). Vector add an immediate. -/
  | vaddi (u : VSlot) (h : Hd) (f : IFmt)
  /-- VLI (R365). Load an immediate into every lane. -/
  | vli (u : VSlot) (h : Hd) (f : IFmt)
  /-- VFADD (R366). Vector FP add. -/
  | vfadd (u : VSlot) (h : Hd) (f : RFmt)
  /-- VFSUB (R366). Vector FP subtract. -/
  | vfsub (u : VSlot) (h : Hd) (f : RFmt)
  /-- VFMUL (R366). Vector FP multiply. -/
  | vfmul (u : VSlot) (h : Hd) (f : RFmt)
  /-- VFMA (R366). Vector fused multiply-add. -/
  | vfma (u : VSlot) (h : Hd) (f : RFmt)
  /-- VFMS (R366). Vector fused multiply-subtract. -/
  | vfms (u : VSlot) (h : Hd) (f : RFmt)
  /-- VFNMA (R366). Vector negated fused multiply-add. -/
  | vfnma (u : VSlot) (h : Hd) (f : RFmt)
  /-- VFMIN (R366). Vector FP minimum. -/
  | vfmin (u : VSlot) (h : Hd) (f : RFmt)
  /-- VFMAX (R366). Vector FP maximum. -/
  | vfmax (u : VSlot) (h : Hd) (f : RFmt)
  /-- VFABS (R366). Vector FP absolute value. -/
  | vfabs (u : VSlot) (h : Hd) (f : RFmt)
  /-- VFNEG (R366). Vector FP negate. -/
  | vfneg (u : VSlot) (h : Hd) (f : RFmt)
  /-- VFDIV (R366). Vector FP divide. -/
  | vfdiv (u : VSlot) (h : Hd) (f : RFmt)
  /-- VFSQRT (R366). Vector FP square root. -/
  | vfsqrt (u : VSlot) (h : Hd) (f : RFmt)
  /-- VFRCP (R366). Vector FP reciprocal. -/
  | vfrcp (u : VSlot) (h : Hd) (f : RFmt)
  /-- VEXP2 (R367). Vector base-2 exponential. -/
  | vexp2 (u : VSlot) (h : Hd) (f : RFmt)
  /-- VLOG2 (R367). Vector base-2 logarithm. -/
  | vlog2 (u : VSlot) (h : Hd) (f : RFmt)
  /-- VSIN (R367). Vector sine. -/
  | vsin (u : VSlot) (h : Hd) (f : RFmt)
  /-- VCOS (R367). Vector cosine. -/
  | vcos (u : VSlot) (h : Hd) (f : RFmt)
  /-- VTANH (R367). Vector hyperbolic tangent. -/
  | vtanh (u : VSlot) (h : Hd) (f : RFmt)
  /-- VRSQ (R367). Vector reciprocal square root. -/
  | vrsq (u : VSlot) (h : Hd) (f : RFmt)
  /-- VSIG (R367). Vector logistic sigmoid. -/
  | vsig (u : VSlot) (h : Hd) (f : RFmt)
  /-- VERF (R367). Vector error function. -/
  | verf (u : VSlot) (h : Hd) (f : RFmt)
  /-- VCMP (R368). Vector integer compare into a mask. -/
  | vcmp (u : VSlot) (h : Hd) (f : RFmt)
  /-- VFCMP (R368). Vector FP compare into a mask. -/
  | vfcmp (u : VSlot) (h : Hd) (f : RFmt)
  /-- VSEL (R368). Select subwords by a mask. -/
  | vsel (u : VSlot) (h : Hd) (f : RFmt)
  /-- VMLOG (R368). Combine two masks by a truth table. -/
  | vmlog (u : VSlot) (h : Hd) (f : RFmt)
  /-- VMTV (R368). Expand a mask into a vector. -/
  | vmtv (u : VSlot) (h : Hd) (f : RFmt)
  /-- VVTM (R368). Form a mask from subword sign bits. -/
  | vvtm (u : VSlot) (h : Hd) (f : RFmt)
  /-- VIOTA (R368). Prefix count of mask bits per lane. -/
  | viota (u : VSlot) (h : Hd) (f : RFmt)
  /-- VCVT (R370). Vector floating-format conversion. -/
  | vcvt (u : VSlot) (h : Hd) (f : RFmt)
  /-- VCVTI (R370). Vector conversion from float to integer. -/
  | vcvti (u : VSlot) (h : Hd) (f : RFmt)
  /-- VCVTF (R370). Vector conversion from integer to float. -/
  | vcvtf (u : VSlot) (h : Hd) (f : RFmt)
  /-- VSATN (R370). Vector saturating integer narrow. -/
  | vsatn (u : VSlot) (h : Hd) (f : RFmt)
  /-- VWIDEN (R370). Vector integer widen. -/
  | vwiden (u : VSlot) (h : Hd) (f : RFmt)
  /-- VQBX (R371). Quantise lanes into BX blocks. -/
  | vqbx (u : VSlot) (h : Hd) (f : RFmt)
  /-- VDQBX (R371). Dequantise BX blocks into lanes. -/
  | vdqbx (u : VSlot) (h : Hd) (f : RFmt)
  /-- VQS8 (R372). Quantise to scaled 8-bit elements or scales. -/
  | vqs8 (u : VSlot) (h : Hd) (f : RFmt)
  /-- VDQS8 (R372). Dequantise scaled 8-bit elements. -/
  | vdqs8 (u : VSlot) (h : Hd) (f : RFmt)
  /-- VPERM (R373). Permute lanes of two vectors by an index vector. -/
  | vperm (u : VSlot) (h : Hd) (f : RFmt)
  /-- VPERMI (R373). Permute lanes by XOR with an immediate. -/
  | vpermi (u : VSlot) (h : Hd) (f : RFmt)
  /-- VBCST (R373). Broadcast one lane. -/
  | vbcst (u : VSlot) (h : Hd) (f : RFmt)
  /-- VSPLAT (R373). Broadcast a scalar to every lane. -/
  | vsplat (u : VSlot) (h : Hd) (f : RFmt)
  /-- VSHUF (R373). Shuffle within groups of four lanes. -/
  | vshuf (u : VSlot) (h : Hd) (f : RFmt)
  /-- VROTM (R373). Rotate bytes of two concatenated vectors. -/
  | vrotm (u : VSlot) (h : Hd) (f : RFmt)
  /-- VZIP (R373). Interleave halves of two vectors. -/
  | vzip (u : VSlot) (h : Hd) (f : RFmt)
  /-- VUNZIP (R373). De-interleave two vectors. -/
  | vunzip (u : VSlot) (h : Hd) (f : RFmt)
  /-- VINS (R373). Insert a scalar into one lane. -/
  | vins (u : VSlot) (h : Hd) (f : RFmt)
  /-- VCOMPR (R373). Compress active lanes to the bottom. -/
  | vcompr (u : VSlot) (h : Hd) (f : RFmt)
  /-- VEXPD (R373). Expand lanes into active positions. -/
  | vexpd (u : VSlot) (h : Hd) (f : RFmt)
  /-- VMOV (R373). Vector move. -/
  | vmov (u : VSlot) (h : Hd) (f : RFmt)
  /-- VCXS (R374). One compare-exchange stage of a sorting network. -/
  | vcxs (u : VSlot) (h : Hd) (f : RFmt)
  /-- VRADD (R375). Integer sum reduction. -/
  | vradd (u : VSlot) (h : Hd) (f : RFmt)
  /-- VRFADD (R375). FP sum reduction rounded once. -/
  | vrfadd (u : VSlot) (h : Hd) (f : RFmt)
  /-- VRMAX (R375). Integer maximum reduction. -/
  | vrmax (u : VSlot) (h : Hd) (f : RFmt)
  /-- VRMIN (R375). Integer minimum reduction. -/
  | vrmin (u : VSlot) (h : Hd) (f : RFmt)
  /-- VRFMAX (R375). FP maximum reduction. -/
  | vrfmax (u : VSlot) (h : Hd) (f : RFmt)
  /-- VRFMIN (R375). FP minimum reduction. -/
  | vrfmin (u : VSlot) (h : Hd) (f : RFmt)
  /-- VSCAN (R375). Integer prefix sum. -/
  | vscan (u : VSlot) (h : Hd) (f : RFmt)
  /-- VFSCAN (R375). FP prefix sum rounded once per lane. -/
  | vfscan (u : VSlot) (h : Hd) (f : RFmt)
  /-- VDOT (R376). Integer dot product per lane. -/
  | vdot (u : VSlot) (h : Hd) (f : RFmt)
  /-- VFDOT (R376). FP dot product per lane. -/
  | vfdot (u : VSlot) (h : Hd) (f : RFmt)
  /-- VDFRD (R377). Read a deep-file row by computed number. -/
  | vdfrd (u : VSlot) (h : Hd) (f : RFmt)
  /-- VDFWR (R377). Write a deep-file row by computed number. -/
  | vdfwr (u : VSlot) (h : Hd) (f : RFmt)
  /-- VLUTA (R379). Add codebook table entries by code. -/
  | vluta (u : VSlot) (h : Hd) (f : RFmt)
  /-- VBINA (R380). Accumulate probabilities into bins by code. -/
  | vbina (u : VSlot) (h : Hd) (f : RFmt)
  /-- TSET (R384). Set a tile's type word. -/
  | tset (h : Hd) (f : RFmt)
  /-- TCPY (R384). Copy a tile register. -/
  | tcpy (h : Hd) (f : RFmt)
  /-- TGETL (R385). Read the low half of a type word. -/
  | tgetl (h : Hd) (f : RFmt)
  /-- TGETH (R385). Read the high half of a type word. -/
  | tgeth (h : Hd) (f : RFmt)
  /-- TSTO (R384). Set a tile's storage descriptor. -/
  | tsto (h : Hd) (f : RFmt)
  /-- TSTOI (R384). Set a deep-file descriptor from an immediate. -/
  | tstoi (h : Hd) (f : IFmt)
  /-- TGETS (R385). Read a tile's descriptor. -/
  | tgets (h : Hd) (f : RFmt)
  /-- TCLR (R384). Clear a tile register. -/
  | tclr (h : Hd) (f : RFmt)
  /-- TEXT (R385). Read a resolved extent. -/
  | text (h : Hd) (f : RFmt)
  /-- TSEXT (R384). Replace an extent from a register. -/
  | tsext (h : Hd) (f : RFmt)
  /-- TSEXTI (R384). Replace an extent from an immediate. -/
  | tsexti (h : Hd) (f : IFmt)
  /-- TRSHP (R389). Reshape a tile, type-only or by copy job. -/
  | trshp (h : Hd) (f : RFmt)
  /-- TTRN (R390). Transpose a tile, type-only or by copy job. -/
  | ttrn (h : Hd) (f : RFmt)
  /-- TCAST (R388). Convert a tile's format. -/
  | tcast (h : Hd) (f : RFmt)
  /-- TSLC (R391). Slice a tile by register operands. -/
  | tslc (h : Hd) (f : RFmt)
  /-- TSLCI (R391). Slice a tile by immediates. -/
  | tslci (h : Hd) (f : IFmt)
  /-- TCHK (R386). Check two tiles agree and bind variables. -/
  | tchk (h : Hd) (f : RFmt)
  /-- TBIND (R387). Give a tile a window as storage. -/
  | tbind (h : Hd) (f : RFmt)
  /-- TINFO (R385). Read derived information about a tile. -/
  | tinfo (h : Hd) (f : RFmt)
  /-- MTW (R392). Write an MTAB word. -/
  | mtw (h : Hd) (f : RFmt)
  /-- MTWI (R392). Write half an MTAB word from an immediate. -/
  | mtwi (h : Hd) (f : LFmt)
  /-- MTR (R392). Read an MTAB word. -/
  | mtr (h : Hd) (f : RFmt)
  /-- MGO (R396). Start a nest-mode matrix job from MTAB. -/
  | mgo (h : Hd) (f : RFmt)
  /-- MGO_TM (R262). Run MTAB in template mode, issuing template bundles per iteration. -/
  | mgoTm (h : Hd) (f : RFmt)
  /-- MSTEP (R400). Form one atom of step-mode terms for the inner array. -/
  | mstep (h : Hd) (f : RFmt)
  /-- MSCL (R401). Promote the inner array into an ACM tile. -/
  | mscl (h : Hd) (f : RFmt)
  /-- MACLR (R398). Clear an ACM tile. -/
  | maclr (h : Hd) (f : RFmt)
  /-- MARD (R398). Read ACM entries into a vector. -/
  | mard (h : Hd) (f : RFmt)
  /-- MAWR (R398). Write a vector into ACM entries. -/
  | mawr (h : Hd) (f : RFmt)
  /-- MEPI (R397). Epilogue from ACM with scale, bias and ReLU into a tile. -/
  | mepi (h : Hd) (f : RFmt)
  /-- MEPIQ (R397). Epilogue from ACM quantised to BX. -/
  | mepiq (h : Hd) (f : RFmt)
  /-- MSTZ (R402). Clear the inner array and NaN flags. -/
  | mstz (h : Hd) (f : RFmt)
  /-- MMUL (R395). Issue a matrix job C := C + A × B. -/
  | mmul (h : Hd) (f : RFmt)
  /-- TFILL (R388). Fill a tile with one value by copy job. -/
  | tfill (h : Hd) (f : RFmt)
  /-- TCOPY (R388). Copy a tile image by copy job. -/
  | tcopy (h : Hd) (f : RFmt)
  /-- TQBX (R388). Quantise a tile to BX by copy job. -/
  | tqbx (h : Hd) (f : RFmt)
  /-- TDQBX (R388). Dequantise a BX tile by copy job. -/
  | tdqbx (h : Hd) (f : RFmt)
  /-- TZB (R388). Compress a tile to ZB by copy job. -/
  | tzb (h : Hd) (f : RFmt)
  /-- TZX (R388). Expand a ZB tile by copy job. -/
  | tzx (h : Hd) (f : RFmt)
  /-- TWEX (R253). Window-expand a tile by copy job. -/
  | twex (h : Hd) (f : RFmt)
  /-- LDB (R408). Load a sign-extended byte. -/
  | ldb (h : Hd) (f : MFmt)
  /-- LDBZ (R408). Load a zero-extended byte. -/
  | ldbz (h : Hd) (f : MFmt)
  /-- LDH (R408). Load a sign-extended halfword. -/
  | ldh (h : Hd) (f : MFmt)
  /-- LDHZ (R408). Load a zero-extended halfword. -/
  | ldhz (h : Hd) (f : MFmt)
  /-- LDW (R408). Load a sign-extended word. -/
  | ldw (h : Hd) (f : MFmt)
  /-- LDWZ (R408). Load a zero-extended word. -/
  | ldwz (h : Hd) (f : MFmt)
  /-- LDD (R408). Load a doubleword. -/
  | ldd (h : Hd) (f : MFmt)
  /-- LDV (R408). Load a 128-byte row. -/
  | ldv (h : Hd) (f : MFmt)
  /-- LDVX (R408). Load a row at an indexed offset. -/
  | ldvx (h : Hd) (f : RFmt)
  /-- LDG (R410). Gather one unit per active lane. -/
  | ldg (h : Hd) (f : RFmt)
  /-- LDCAP (R412). Load a capability with its tag. -/
  | ldcap (h : Hd) (f : MFmt)
  /-- LDT (R413). Typed tile load from a window. -/
  | ldt (h : Hd) (f : MFmt)
  /-- LDTX (R413). Typed tile load at an indexed offset. -/
  | ldtx (h : Hd) (f : RFmt)
  /-- LDS (R415). Load 64 scale bytes into half a vector. -/
  | lds (h : Hd) (f : MFmt)
  /-- LDSX (R415). Load 64 strided scale bytes into half a vector. -/
  | ldsx (h : Hd) (f : RFmt)
  /-- POP (R416). Pop a rink row into a vector. -/
  | pop (h : Hd) (f : RFmt)
  /-- LBD (R417). Declare or release a load block. -/
  | lbd (h : Hd) (f : EFmt)
  /-- LDDX (R408). Load a doubleword at an indexed offset. -/
  | lddx (h : Hd) (f : RFmt)
  /-- LDWX (R408). Load a word at an indexed offset. -/
  | ldwx (h : Hd) (f : RFmt)
  /-- LDBX (R408). Load a byte at an indexed offset. -/
  | ldbx (h : Hd) (f : RFmt)
  /-- LDHX (R408). Load a halfword at an indexed offset. -/
  | ldhx (h : Hd) (f : RFmt)
  /-- LDVM (R409). Masked row load. -/
  | ldvm (h : Hd) (f : RFmt)
  /-- LDCX (R412). Load a capability at an indexed offset. -/
  | ldcx (h : Hd) (f : RFmt)
  /-- STB (R408). Store a byte. -/
  | stb (h : Hd) (f : MFmt)
  /-- STH (R408). Store a halfword. -/
  | sth (h : Hd) (f : MFmt)
  /-- STW (R408). Store a word. -/
  | stw (h : Hd) (f : MFmt)
  /-- STD (R408). Store a doubleword. -/
  | std (h : Hd) (f : MFmt)
  /-- STV (R408). Store a 128-byte row. -/
  | stv (h : Hd) (f : MFmt)
  /-- STVX (R408). Store a row at an indexed offset. -/
  | stvx (h : Hd) (f : RFmt)
  /-- STVM (R409). Masked row store. -/
  | stvm (h : Hd) (f : RFmt)
  /-- SCT (R411). Scatter one unit per active lane. -/
  | sct (h : Hd) (f : RFmt)
  /-- STCAP (R412). Store a capability, setting or clearing the granule tag. -/
  | stcap (h : Hd) (f : MFmt)
  /-- STT (R413). Typed tile store into a window. -/
  | stt (h : Hd) (f : MFmt)
  /-- STTX (R413). Typed tile store at an indexed offset. -/
  | sttx (h : Hd) (f : RFmt)
  /-- PUSH (R416). Push a vector into a rink. -/
  | push (h : Hd) (f : RFmt)
  /-- STBX (R408). Store a byte at an indexed offset. -/
  | stbx (h : Hd) (f : RFmt)
  /-- STHX (R408). Store a halfword at an indexed offset. -/
  | sthx (h : Hd) (f : RFmt)
  /-- STWX (R408). Store a word at an indexed offset. -/
  | stwx (h : Hd) (f : RFmt)
  /-- STDX (R408). Store a doubleword at an indexed offset. -/
  | stdx (h : Hd) (f : RFmt)
  /-- AADD (R418). Atomic add. -/
  | aadd (h : Hd) (f : RFmt)
  /-- AMIN (R418). Atomic signed minimum. -/
  | amin (h : Hd) (f : RFmt)
  /-- AMAX (R418). Atomic signed maximum. -/
  | amax (h : Hd) (f : RFmt)
  /-- AMINU (R418). Atomic unsigned minimum. -/
  | aminu (h : Hd) (f : RFmt)
  /-- AMAXU (R418). Atomic unsigned maximum. -/
  | amaxu (h : Hd) (f : RFmt)
  /-- AAND (R418). Atomic AND. -/
  | aand (h : Hd) (f : RFmt)
  /-- AOR (R418). Atomic OR. -/
  | aor (h : Hd) (f : RFmt)
  /-- AXOR (R418). Atomic XOR. -/
  | axor (h : Hd) (f : RFmt)
  /-- AXCH (R418). Atomic exchange. -/
  | axch (h : Hd) (f : RFmt)
  /-- ACAS (R418). Atomic compare-and-swap. -/
  | acas (h : Hd) (f : RFmt)
  /-- AFADD (R418). Atomic FP32 add. -/
  | afadd (h : Hd) (f : RFmt)
  /-- CTW (R423). Write a CTAB word. -/
  | ctw (h : Hd) (f : RFmt)
  /-- CTWI (R423). Write half a CTAB word from an immediate. -/
  | ctwi (h : Hd) (f : LFmt)
  /-- CTR (R423). Read a CTAB word. -/
  | ctr (h : Hd) (f : RFmt)
  /-- CGOMM (R424). Copy go from memory to memory. -/
  | cgomm (h : Hd) (f : EFmt)
  /-- CGOMD (R424). Copy go from memory to deep file. -/
  | cgomd (h : Hd) (f : EFmt)
  /-- CGOME (R425). Copy go from memory to an edge, including bundle expand. -/
  | cgome (h : Hd) (f : EFmt)
  /-- CGOMA (R424). Copy go from memory to ACM. -/
  | cgoma (h : Hd) (f : EFmt)
  /-- CGOMK (R424). Copy go from memory to a rink. -/
  | cgomk (h : Hd) (f : EFmt)
  /-- CGODM (R424). Copy go from deep file to memory. -/
  | cgodm (h : Hd) (f : EFmt)
  /-- CGODD (R424). Copy go from deep file to deep file. -/
  | cgodd (h : Hd) (f : EFmt)
  /-- CGODE (R424). Copy go from deep file to an edge. -/
  | cgode (h : Hd) (f : EFmt)
  /-- CGODA (R424). Copy go from deep file to ACM. -/
  | cgoda (h : Hd) (f : EFmt)
  /-- CGODK (R424). Copy go from deep file to a rink. -/
  | cgodk (h : Hd) (f : EFmt)
  /-- CGOAM (R424). Copy go from ACM to memory. -/
  | cgoam (h : Hd) (f : EFmt)
  /-- CGOAD (R424). Copy go from ACM to deep file. -/
  | cgoad (h : Hd) (f : EFmt)
  /-- CGOAE (R424). Copy go from ACM to an edge. -/
  | cgoae (h : Hd) (f : EFmt)
  /-- CGOAA (R424). Copy go from ACM to ACM. -/
  | cgoaa (h : Hd) (f : EFmt)
  /-- CGOAK (R424). Copy go from ACM to a rink. -/
  | cgoak (h : Hd) (f : EFmt)
  /-- RKDEF (R426). Define a rink. -/
  | rkdef (h : Hd) (f : EFmt)
  /-- MOPEN (R428). Issue a merge-session open. -/
  | mopen (h : Hd) (f : EFmt)
  /-- MPUSH (R429). Push records to a merge stream. -/
  | mpush (h : Hd) (f : EFmt)
  /-- MPUSHE (R429). Push records and end a merge stream. -/
  | mpushe (h : Hd) (f : EFmt)
  /-- MCLOSE (R430). Issue a merge-session close. -/
  | mclose (h : Hd) (f : EFmt)
  /-- MSTAT (R430). Query the merge session's state. -/
  | mstat (h : Hd) (f : EFmt)
  /-- PXLKP (R431). Issue a prefix LOOKUP command. -/
  | pxlkp (h : Hd) (f : EFmt)
  /-- PXINS (R431). Issue a prefix INSERT command. -/
  | pxins (h : Hd) (f : EFmt)
  /-- PXFRK (R431). Issue a prefix FORK command. -/
  | pxfrk (h : Hd) (f : EFmt)
  /-- PXAPP (R431). Issue a prefix APPEND command. -/
  | pxapp (h : Hd) (f : EFmt)
  /-- PXREL (R431). Issue a prefix RELEASE command. -/
  | pxrel (h : Hd) (f : EFmt)
  /-- XROUTE (R432). Route one token through an expert group. -/
  | xroute (h : Hd) (f : EFmt)
  /-- TAKE (R433). Claim a tile chunk. -/
  | take (h : Hd) (f : EFmt)
  /-- LAUNCH (R434). Launch a task from a record in memory. -/
  | launch (h : Hd) (f : EFmt)
  /-- SEND (R435). Offer a typed tile to a fabric endpoint. -/
  | send (h : Hd) (f : EFmt)
  /-- RECV (R436). Post a receive for one source. -/
  | recv (h : Hd) (f : EFmt)
  /-- RECVA (R436). Post a receive for any source. -/
  | recva (h : Hd) (f : EFmt)
  /-- COLL (R438). Contribute to a collective. -/
  | coll (h : Hd) (f : EFmt)
  /-- SGRD (R439). Read drive blocks into a window. -/
  | sgrd (h : Hd) (f : EFmt)
  /-- RPLACK (R440). Acknowledge the performance of the last replay record. -/
  | rplack (h : Hd) (f : EFmt)
  /-- BXFER (R437). Block transfer to a core endpoint. -/
  | bxfer (h : Hd) (f : EFmt)
  /-- WAIT (R443). Wait until a flag's count reaches n. -/
  | wait (h : Hd) (f : EFmt)
  /-- WAIT_PH (R443). Wait until a flag's phase differs from a register. -/
  | waitPh (h : Hd) (f : EFmt)
  /-- WAITS (R443). Wait for n and consume it. -/
  | waits (h : Hd) (f : EFmt)
  /-- POST (R444). Post n to a local flag. -/
  | post (h : Hd) (f : EFmt)
  /-- POSTS (R444). Post a register's value to a local flag. -/
  | posts (h : Hd) (f : EFmt)
  /-- RPOST (R444). Send a post to a flag of a remote endpoint. -/
  | rpost (h : Hd) (f : EFmt)
  /-- EXPT (R444). Expect n more posts on a flag. -/
  | expt (h : Hd) (f : EFmt)
  /-- ARV (R446). Arrive at a barrier. -/
  | arv (h : Hd) (f : EFmt)
  /-- ARVW (R446). Arrive at a barrier and wait for the phase. -/
  | arvw (h : Hd) (f : EFmt)
  /-- BWAIT (R446). Wait until no arrival is pending at a barrier. -/
  | bwait (h : Hd) (f : EFmt)
  /-- STRAG (R447). Read the last straggler record. -/
  | strag (h : Hd) (f : EFmt)
  /-- GATE (R448). Commit an immediate cut number. -/
  | gate (h : Hd) (f : EFmt)
  /-- GATE_S (R448). Commit a cut number from a register. -/
  | gateS (h : Hd) (f : EFmt)
  /-- EFENCE (R449). Wait for earlier engine jobs of the context. -/
  | efence (h : Hd) (f : EFmt)
  /-- IFENCE (R199). Discard prefetched bundles and order later fetches after edge writes. -/
  | ifence (h : Hd) (f : EFmt)
  /-- YIELD (R450). Block once to let other contexts issue. -/
  | yield (h : Hd) (f : EFmt)
  /-- SLEEP (R450). Block until TICK reaches an immediate deadline. -/
  | sleep (h : Hd) (f : EFmt)
  /-- SLEEP_S (R450). Block until TICK reaches a register deadline. -/
  | sleepS (h : Hd) (f : EFmt)
  /-- FRD (R445). Read a flag's state. -/
  | frd (h : Hd) (f : EFmt)
  /-- FCLR (R445). Clear a flag's count, expectation and overflow. -/
  | fclr (h : Hd) (f : EFmt)
  /-- BPHASE (R447). Read a barrier's phase and pending bit. -/
  | bphase (h : Hd) (f : EFmt)
  /-- WAITM (R443). Wait on a mask of flags, optionally consuming. -/
  | waitm (h : Hd) (f : EFmt)
  /-- CXL_LINK_UP (R94). A CXL port's link returns, and reads and writes of its range again reach
  the device. -/
  | cxlLinkUp (p : Nat)
  /-- RINK_ROW_FILLED (R195). Once all 128 bytes of the oldest reserved rink row have landed, the
  copy engine moves it from INFL to FILLED. -/
  | rinkRowFilled (core : Nat) (k : Nat)
  /-- PX_REMOTE_REPLY_ARRIVE (R142). The C3 reply to a remote prefix-index command arrives at its
  source endpoint with bytes 16 to 31 and posts the named flag there. -/
  | pxRemoteReplyArrive (m : Msg)
  deriving DecidableEq, Repr

end Sys2Proof
end

