-- ==== Sys2Proof/Decode.lean ====
section
/-!
DEFINITION. Decoding: from the 64 bytes of a bundle to its eight slot instructions, and from a slot
word to one of them, by the opcode maps R318 to R324; and the encoder, written from the same tables.
-/

namespace Sys2Proof

/-- Why a slot word stands for no instruction: an unassigned point (R317), or a NOP with a bit set
(R311). -/
inductive DecodeError where
  | unassigned (k : Slot) (op : BitVec 8)
  | nopBits (k : Slot)
  deriving DecidableEq, Repr

/-- The opcode field (R308). -/
def opOf (w : Word) : BitVec 8 := w.extractLsb' 56 8

/-- Bits [55:47] (R308). -/
def hdOf (w : Word) : Hd :=
  { fmt := w.extractLsb' 52 4, w := w.getLsbD 51, pred := w.extractLsb' 48 3, pn := w.getLsbD 47 }

/-- Bits [46:0] in format R (R309). -/
def rOf (w : Word) : RFmt :=
  { dst := w.extractLsb' 38 9, sa := w.extractLsb' 29 9, sb := w.extractLsb' 20 9,
    sc := w.extractLsb' 11 9, imm := w.extractLsb' 0 11 }

/-- Bits [46:0] in format I (R309). -/
def iOf (w : Word) : IFmt :=
  { dst := w.extractLsb' 38 9, sa := w.extractLsb' 29 9, imm := w.extractLsb' 0 29 }

/-- Bits [46:0] in format L (R309). -/
def lOf (w : Word) : LFmt := { dst := w.extractLsb' 38 9, imm := w.extractLsb' 0 38 }

/-- Bits [46:0] in format M (R309). -/
def mOf (w : Word) : MFmt :=
  { dt := w.extractLsb' 38 9, ab := w.extractLsb' 29 9, disp := w.extractLsb' 0 29 }

/-- Bits [46:0] in format B (R309). -/
def bOf (w : Word) : BFmt :=
  { dst := w.extractLsb' 38 9, sa := w.extractLsb' 29 9, imm := w.extractLsb' 11 18,
    rsv := w.extractLsb' 10 1, tgt := w.extractLsb' 0 10 }

/-- Bits [46:0] in format E (R309). -/
def eOf (w : Word) : EFmt :=
  { dst := w.extractLsb' 38 9, sa := w.extractLsb' 29 9, sb := w.extractLsb' 20 9,
    sc := w.extractLsb' 11 9, flag := w.extractLsb' 6 5, mod := w.extractLsb' 0 6 }

/-- The high bits of a slot word: opcode, variant, W, PRED, PN (R308). -/
def mkHd (op : BitVec 8) (h : Hd) : BitVec 17 :=
  op ++ h.fmt ++ BitVec.ofBool h.w ++ h.pred ++ BitVec.ofBool h.pn

/-- A word of format R. -/
def mkR (op : BitVec 8) (h : Hd) (f : RFmt) : Word :=
  mkHd op h ++ (f.dst ++ f.sa ++ f.sb ++ f.sc ++ f.imm)

/-- A word of format I. -/
def mkI (op : BitVec 8) (h : Hd) (f : IFmt) : Word := mkHd op h ++ (f.dst ++ f.sa ++ f.imm)

/-- A word of format L. -/
def mkL (op : BitVec 8) (h : Hd) (f : LFmt) : Word := mkHd op h ++ (f.dst ++ f.imm)

/-- A word of format M. -/
def mkM (op : BitVec 8) (h : Hd) (f : MFmt) : Word := mkHd op h ++ (f.dt ++ f.ab ++ f.disp)

/-- A word of format B. -/
def mkB (op : BitVec 8) (h : Hd) (f : BFmt) : Word :=
  mkHd op h ++ (f.dst ++ f.sa ++ f.imm ++ f.rsv ++ f.tgt)

/-- A word of format E. -/
def mkE (op : BitVec 8) (h : Hd) (f : EFmt) : Word :=
  mkHd op h ++ (f.dst ++ f.sa ++ f.sb ++ f.sc ++ f.flag ++ f.mod)

/-- The opcodes with a meaning of their own, one for each slot instruction (R316 to R324). -/
inductive Op where
  | nop
  | add
  | sub
  | mul
  | mulh
  | mulhu
  | div
  | divu
  | rem
  | remu
  | and
  | or
  | xor
  | andn
  | shl
  | shr
  | sra
  | rol
  | min
  | max
  | minu
  | maxu
  | clz
  | ctz
  | popc
  | sext
  | zext
  | sel
  | cmp
  | cmpi
  | addi
  | andi
  | ori
  | xori
  | shli
  | shri
  | srai
  | li
  | lih
  | plog
  | fadd
  | fsub
  | fmul
  | fma
  | fdiv
  | fsqrt
  | fmin
  | fmax
  | fcmp
  | fcvt
  | fsgn
  | br
  | call
  | jr
  | loop
  | edge
  | bkj
  | trap
  | tret
  | exit
  | cmov
  | cbnd
  | cbndi
  | crst
  | coff
  | coffi
  | cseto
  | cchk
  | cget
  | cclr
  | cclrMk
  | csub
  | dset
  | dseti
  | dget
  | dunb
  | mfsr
  | mtsr
  | mfsrc
  | mtsrc
  | fcls
  | vadd
  | vsub
  | vadds
  | vsubs
  | vmul
  | vmulh
  | vmin
  | vmax
  | vabs
  | vand
  | vor
  | vxor
  | vandn
  | vshl
  | vshr
  | vsra
  | vshli
  | vshri
  | vsrai
  | vclz
  | vpopc
  | vaddi
  | vli
  | vfadd
  | vfsub
  | vfmul
  | vfma
  | vfms
  | vfnma
  | vfmin
  | vfmax
  | vfabs
  | vfneg
  | vfdiv
  | vfsqrt
  | vfrcp
  | vexp2
  | vlog2
  | vsin
  | vcos
  | vtanh
  | vrsq
  | vsig
  | verf
  | vcmp
  | vfcmp
  | vsel
  | vmlog
  | vmtv
  | vvtm
  | viota
  | vcvt
  | vcvti
  | vcvtf
  | vsatn
  | vwiden
  | vqbx
  | vdqbx
  | vqs8
  | vdqs8
  | vperm
  | vpermi
  | vbcst
  | vsplat
  | vshuf
  | vrotm
  | vzip
  | vunzip
  | vins
  | vcompr
  | vexpd
  | vmov
  | vcxs
  | vradd
  | vrfadd
  | vrmax
  | vrmin
  | vrfmax
  | vrfmin
  | vscan
  | vfscan
  | vdot
  | vfdot
  | vdfrd
  | vdfwr
  | vluta
  | vbina
  | tset
  | tcpy
  | tgetl
  | tgeth
  | tsto
  | tstoi
  | tgets
  | tclr
  | text
  | tsext
  | tsexti
  | trshp
  | ttrn
  | tcast
  | tslc
  | tslci
  | tchk
  | tbind
  | tinfo
  | mtw
  | mtwi
  | mtr
  | mgo
  | mgoTm
  | mstep
  | mscl
  | maclr
  | mard
  | mawr
  | mepi
  | mepiq
  | mstz
  | mmul
  | tfill
  | tcopy
  | tqbx
  | tdqbx
  | tzb
  | tzx
  | twex
  | ldb
  | ldbz
  | ldh
  | ldhz
  | ldw
  | ldwz
  | ldd
  | ldv
  | ldvx
  | ldg
  | ldcap
  | ldt
  | ldtx
  | lds
  | ldsx
  | pop
  | lbd
  | lddx
  | ldwx
  | ldbx
  | ldhx
  | ldvm
  | ldcx
  | stb
  | sth
  | stw
  | std
  | stv
  | stvx
  | stvm
  | sct
  | stcap
  | stt
  | sttx
  | push
  | stbx
  | sthx
  | stwx
  | stdx
  | aadd
  | amin
  | amax
  | aminu
  | amaxu
  | aand
  | aor
  | axor
  | axch
  | acas
  | afadd
  | ctw
  | ctwi
  | ctr
  | cgomm
  | cgomd
  | cgome
  | cgoma
  | cgomk
  | cgodm
  | cgodd
  | cgode
  | cgoda
  | cgodk
  | cgoam
  | cgoad
  | cgoae
  | cgoaa
  | cgoak
  | rkdef
  | mopen
  | mpush
  | mpushe
  | mclose
  | mstat
  | pxlkp
  | pxins
  | pxfrk
  | pxapp
  | pxrel
  | xroute
  | take
  | launch
  | send
  | recv
  | recva
  | coll
  | sgrd
  | rplack
  | bxfer
  | wait
  | waitPh
  | waits
  | post
  | posts
  | rpost
  | expt
  | arv
  | arvw
  | bwait
  | strag
  | gate
  | gateS
  | efence
  | ifence
  | yield
  | sleep
  | sleepS
  | frd
  | fclr
  | bphase
  | waitm
  deriving DecidableEq, Repr

/-- The OP field of each opcode (R318 to R324). -/
def Op.code : Op → BitVec 8
  | .nop => 0x00
  | .add => 0x01
  | .sub => 0x02
  | .mul => 0x03
  | .mulh => 0x04
  | .mulhu => 0x05
  | .div => 0x06
  | .divu => 0x07
  | .rem => 0x08
  | .remu => 0x09
  | .and => 0x0A
  | .or => 0x0B
  | .xor => 0x0C
  | .andn => 0x0D
  | .shl => 0x0E
  | .shr => 0x0F
  | .sra => 0x10
  | .rol => 0x11
  | .min => 0x12
  | .max => 0x13
  | .minu => 0x14
  | .maxu => 0x15
  | .clz => 0x16
  | .ctz => 0x17
  | .popc => 0x18
  | .sext => 0x19
  | .zext => 0x1A
  | .sel => 0x1B
  | .cmp => 0x1C
  | .cmpi => 0x1D
  | .addi => 0x1E
  | .andi => 0x1F
  | .ori => 0x20
  | .xori => 0x21
  | .shli => 0x22
  | .shri => 0x23
  | .srai => 0x24
  | .li => 0x25
  | .lih => 0x26
  | .plog => 0x27
  | .fadd => 0x28
  | .fsub => 0x29
  | .fmul => 0x2A
  | .fma => 0x2B
  | .fdiv => 0x2C
  | .fsqrt => 0x2D
  | .fmin => 0x2E
  | .fmax => 0x2F
  | .fcmp => 0x30
  | .fcvt => 0x31
  | .fsgn => 0x32
  | .br => 0x33
  | .call => 0x34
  | .jr => 0x35
  | .loop => 0x36
  | .edge => 0x37
  | .bkj => 0x38
  | .trap => 0x39
  | .tret => 0x3A
  | .exit => 0x3B
  | .cmov => 0x3C
  | .cbnd => 0x3D
  | .cbndi => 0x3E
  | .crst => 0x3F
  | .coff => 0x40
  | .coffi => 0x41
  | .cseto => 0x42
  | .cchk => 0x43
  | .cget => 0x44
  | .cclr => 0x45
  | .cclrMk => 0x45
  | .csub => 0x4F
  | .dset => 0x46
  | .dseti => 0x47
  | .dget => 0x48
  | .dunb => 0x49
  | .mfsr => 0x4A
  | .mtsr => 0x4B
  | .mfsrc => 0x4C
  | .mtsrc => 0x4D
  | .fcls => 0x4E
  | .vadd => 0x01
  | .vsub => 0x02
  | .vadds => 0x03
  | .vsubs => 0x04
  | .vmul => 0x05
  | .vmulh => 0x06
  | .vmin => 0x07
  | .vmax => 0x08
  | .vabs => 0x09
  | .vand => 0x0A
  | .vor => 0x0B
  | .vxor => 0x0C
  | .vandn => 0x0D
  | .vshl => 0x0E
  | .vshr => 0x0F
  | .vsra => 0x10
  | .vshli => 0x11
  | .vshri => 0x12
  | .vsrai => 0x13
  | .vclz => 0x14
  | .vpopc => 0x15
  | .vaddi => 0x16
  | .vli => 0x52
  | .vfadd => 0x17
  | .vfsub => 0x18
  | .vfmul => 0x19
  | .vfma => 0x1A
  | .vfms => 0x1B
  | .vfnma => 0x1C
  | .vfmin => 0x1D
  | .vfmax => 0x1E
  | .vfabs => 0x1F
  | .vfneg => 0x20
  | .vfdiv => 0x21
  | .vfsqrt => 0x22
  | .vfrcp => 0x23
  | .vexp2 => 0x24
  | .vlog2 => 0x25
  | .vsin => 0x26
  | .vcos => 0x27
  | .vtanh => 0x28
  | .vrsq => 0x29
  | .vsig => 0x2A
  | .verf => 0x2B
  | .vcmp => 0x2C
  | .vfcmp => 0x2D
  | .vsel => 0x2E
  | .vmlog => 0x2F
  | .vmtv => 0x30
  | .vvtm => 0x31
  | .viota => 0x53
  | .vcvt => 0x32
  | .vcvti => 0x33
  | .vcvtf => 0x34
  | .vsatn => 0x56
  | .vwiden => 0x57
  | .vqbx => 0x35
  | .vdqbx => 0x36
  | .vqs8 => 0x37
  | .vdqs8 => 0x38
  | .vperm => 0x39
  | .vpermi => 0x3A
  | .vbcst => 0x3B
  | .vsplat => 0x3C
  | .vshuf => 0x3D
  | .vrotm => 0x3E
  | .vzip => 0x3F
  | .vunzip => 0x40
  | .vins => 0x41
  | .vcompr => 0x42
  | .vexpd => 0x43
  | .vmov => 0x51
  | .vcxs => 0x4C
  | .vradd => 0x44
  | .vrfadd => 0x45
  | .vrmax => 0x46
  | .vrmin => 0x47
  | .vrfmax => 0x48
  | .vrfmin => 0x49
  | .vscan => 0x4A
  | .vfscan => 0x4B
  | .vdot => 0x54
  | .vfdot => 0x55
  | .vdfrd => 0x4F
  | .vdfwr => 0x50
  | .vluta => 0x4D
  | .vbina => 0x4E
  | .tset => 0x01
  | .tcpy => 0x02
  | .tgetl => 0x03
  | .tgeth => 0x04
  | .tsto => 0x05
  | .tstoi => 0x06
  | .tgets => 0x07
  | .tclr => 0x08
  | .text => 0x09
  | .tsext => 0x0A
  | .tsexti => 0x0B
  | .trshp => 0x0C
  | .ttrn => 0x0D
  | .tcast => 0x0E
  | .tslc => 0x0F
  | .tslci => 0x10
  | .tchk => 0x11
  | .tbind => 0x12
  | .tinfo => 0x13
  | .mtw => 0x14
  | .mtwi => 0x15
  | .mtr => 0x16
  | .mgo => 0x17
  | .mgoTm => 0x17
  | .mstep => 0x18
  | .mscl => 0x19
  | .maclr => 0x1A
  | .mard => 0x1B
  | .mawr => 0x1C
  | .mepi => 0x1D
  | .mepiq => 0x1E
  | .mstz => 0x1F
  | .mmul => 0x20
  | .tfill => 0x21
  | .tcopy => 0x22
  | .tqbx => 0x23
  | .tdqbx => 0x24
  | .tzb => 0x25
  | .tzx => 0x26
  | .twex => 0x27
  | .ldb => 0x01
  | .ldbz => 0x02
  | .ldh => 0x03
  | .ldhz => 0x04
  | .ldw => 0x05
  | .ldwz => 0x06
  | .ldd => 0x07
  | .ldv => 0x08
  | .ldvx => 0x09
  | .ldg => 0x0A
  | .ldcap => 0x0B
  | .ldt => 0x0C
  | .ldtx => 0x0D
  | .lds => 0x0E
  | .ldsx => 0x0F
  | .pop => 0x10
  | .lbd => 0x11
  | .lddx => 0x12
  | .ldwx => 0x13
  | .ldbx => 0x14
  | .ldhx => 0x15
  | .ldvm => 0x16
  | .ldcx => 0x17
  | .stb => 0x01
  | .sth => 0x02
  | .stw => 0x03
  | .std => 0x04
  | .stv => 0x05
  | .stvx => 0x06
  | .stvm => 0x07
  | .sct => 0x08
  | .stcap => 0x09
  | .stt => 0x0A
  | .sttx => 0x0B
  | .push => 0x0C
  | .stbx => 0x0D
  | .sthx => 0x0E
  | .stwx => 0x0F
  | .stdx => 0x10
  | .aadd => 0x11
  | .amin => 0x12
  | .amax => 0x13
  | .aminu => 0x14
  | .amaxu => 0x15
  | .aand => 0x16
  | .aor => 0x17
  | .axor => 0x18
  | .axch => 0x19
  | .acas => 0x1A
  | .afadd => 0x1B
  | .ctw => 0x01
  | .ctwi => 0x02
  | .ctr => 0x03
  | .cgomm => 0x04
  | .cgomd => 0x05
  | .cgome => 0x06
  | .cgoma => 0x07
  | .cgomk => 0x08
  | .cgodm => 0x09
  | .cgodd => 0x0A
  | .cgode => 0x0B
  | .cgoda => 0x0C
  | .cgodk => 0x0D
  | .cgoam => 0x0E
  | .cgoad => 0x0F
  | .cgoae => 0x10
  | .cgoaa => 0x11
  | .cgoak => 0x12
  | .rkdef => 0x13
  | .mopen => 0x14
  | .mpush => 0x15
  | .mpushe => 0x16
  | .mclose => 0x17
  | .mstat => 0x18
  | .pxlkp => 0x19
  | .pxins => 0x1A
  | .pxfrk => 0x1B
  | .pxapp => 0x1C
  | .pxrel => 0x1D
  | .xroute => 0x1E
  | .take => 0x1F
  | .launch => 0x20
  | .send => 0x21
  | .recv => 0x22
  | .recva => 0x23
  | .coll => 0x24
  | .sgrd => 0x25
  | .rplack => 0x26
  | .bxfer => 0x27
  | .wait => 0x01
  | .waitPh => 0x01
  | .waits => 0x02
  | .post => 0x03
  | .posts => 0x04
  | .rpost => 0x05
  | .expt => 0x06
  | .arv => 0x07
  | .arvw => 0x08
  | .bwait => 0x09
  | .strag => 0x0A
  | .gate => 0x0B
  | .gateS => 0x0B
  | .efence => 0x0C
  | .ifence => 0x0D
  | .yield => 0x0E
  | .sleep => 0x0F
  | .sleepS => 0x0F
  | .frd => 0x10
  | .fclr => 0x11
  | .bphase => 0x12
  | .waitm => 0x13

/-- The SC opcode space (R318): the opcode of an OP value and a variant. -/
def scOp (op fmt : Nat) : Option Op :=
  match op with
  | 0x01 => some .add
  | 0x02 => some .sub
  | 0x03 => some .mul
  | 0x04 => some .mulh
  | 0x05 => some .mulhu
  | 0x06 => some .div
  | 0x07 => some .divu
  | 0x08 => some .rem
  | 0x09 => some .remu
  | 0x0A => some .and
  | 0x0B => some .or
  | 0x0C => some .xor
  | 0x0D => some .andn
  | 0x0E => some .shl
  | 0x0F => some .shr
  | 0x10 => some .sra
  | 0x11 => some .rol
  | 0x12 => some .min
  | 0x13 => some .max
  | 0x14 => some .minu
  | 0x15 => some .maxu
  | 0x16 => some .clz
  | 0x17 => some .ctz
  | 0x18 => some .popc
  | 0x19 => some .sext
  | 0x1A => some .zext
  | 0x1B => some .sel
  | 0x1C => some .cmp
  | 0x1D => some .cmpi
  | 0x1E => some .addi
  | 0x1F => some .andi
  | 0x20 => some .ori
  | 0x21 => some .xori
  | 0x22 => some .shli
  | 0x23 => some .shri
  | 0x24 => some .srai
  | 0x25 => some .li
  | 0x26 => some .lih
  | 0x27 => some .plog
  | 0x28 => some .fadd
  | 0x29 => some .fsub
  | 0x2A => some .fmul
  | 0x2B => some .fma
  | 0x2C => some .fdiv
  | 0x2D => some .fsqrt
  | 0x2E => some .fmin
  | 0x2F => some .fmax
  | 0x30 => some .fcmp
  | 0x31 => some .fcvt
  | 0x32 => some .fsgn
  | 0x33 => some .br
  | 0x34 => some .call
  | 0x35 => some .jr
  | 0x36 => some .loop
  | 0x37 => some .edge
  | 0x38 => some .bkj
  | 0x39 => some .trap
  | 0x3A => some .tret
  | 0x3B => some .exit
  | 0x3C => some .cmov
  | 0x3D => some .cbnd
  | 0x3E => some .cbndi
  | 0x3F => some .crst
  | 0x40 => some .coff
  | 0x41 => some .coffi
  | 0x42 => some .cseto
  | 0x43 => some .cchk
  | 0x44 => some .cget
  | 0x45 => some (if fmt = 1 then .cclrMk else .cclr)
  | 0x46 => some .dset
  | 0x47 => some .dseti
  | 0x48 => some .dget
  | 0x49 => some .dunb
  | 0x4A => some .mfsr
  | 0x4B => some .mtsr
  | 0x4C => some .mfsrc
  | 0x4D => some .mtsrc
  | 0x4E => some .fcls
  | 0x4F => some .csub
  | _ => none

/-- The V opcode space (R319): the opcode of an OP value and a variant. -/
def vOp (op _fmt : Nat) : Option Op :=
  match op with
  | 0x01 => some .vadd
  | 0x02 => some .vsub
  | 0x03 => some .vadds
  | 0x04 => some .vsubs
  | 0x05 => some .vmul
  | 0x06 => some .vmulh
  | 0x07 => some .vmin
  | 0x08 => some .vmax
  | 0x09 => some .vabs
  | 0x0A => some .vand
  | 0x0B => some .vor
  | 0x0C => some .vxor
  | 0x0D => some .vandn
  | 0x0E => some .vshl
  | 0x0F => some .vshr
  | 0x10 => some .vsra
  | 0x11 => some .vshli
  | 0x12 => some .vshri
  | 0x13 => some .vsrai
  | 0x14 => some .vclz
  | 0x15 => some .vpopc
  | 0x16 => some .vaddi
  | 0x17 => some .vfadd
  | 0x18 => some .vfsub
  | 0x19 => some .vfmul
  | 0x1A => some .vfma
  | 0x1B => some .vfms
  | 0x1C => some .vfnma
  | 0x1D => some .vfmin
  | 0x1E => some .vfmax
  | 0x1F => some .vfabs
  | 0x20 => some .vfneg
  | 0x21 => some .vfdiv
  | 0x22 => some .vfsqrt
  | 0x23 => some .vfrcp
  | 0x24 => some .vexp2
  | 0x25 => some .vlog2
  | 0x26 => some .vsin
  | 0x27 => some .vcos
  | 0x28 => some .vtanh
  | 0x29 => some .vrsq
  | 0x2A => some .vsig
  | 0x2B => some .verf
  | 0x2C => some .vcmp
  | 0x2D => some .vfcmp
  | 0x2E => some .vsel
  | 0x2F => some .vmlog
  | 0x30 => some .vmtv
  | 0x31 => some .vvtm
  | 0x32 => some .vcvt
  | 0x33 => some .vcvti
  | 0x34 => some .vcvtf
  | 0x35 => some .vqbx
  | 0x36 => some .vdqbx
  | 0x37 => some .vqs8
  | 0x38 => some .vdqs8
  | 0x39 => some .vperm
  | 0x3A => some .vpermi
  | 0x3B => some .vbcst
  | 0x3C => some .vsplat
  | 0x3D => some .vshuf
  | 0x3E => some .vrotm
  | 0x3F => some .vzip
  | 0x40 => some .vunzip
  | 0x41 => some .vins
  | 0x42 => some .vcompr
  | 0x43 => some .vexpd
  | 0x44 => some .vradd
  | 0x45 => some .vrfadd
  | 0x46 => some .vrmax
  | 0x47 => some .vrmin
  | 0x48 => some .vrfmax
  | 0x49 => some .vrfmin
  | 0x4A => some .vscan
  | 0x4B => some .vfscan
  | 0x4C => some .vcxs
  | 0x4D => some .vluta
  | 0x4E => some .vbina
  | 0x4F => some .vdfrd
  | 0x50 => some .vdfwr
  | 0x51 => some .vmov
  | 0x52 => some .vli
  | 0x53 => some .viota
  | 0x54 => some .vdot
  | 0x55 => some .vfdot
  | 0x56 => some .vsatn
  | 0x57 => some .vwiden
  | _ => none

/-- The MT opcode space (R320): the opcode of an OP value and a variant. -/
def mtOp (op fmt : Nat) : Option Op :=
  match op with
  | 0x01 => some .tset
  | 0x02 => some .tcpy
  | 0x03 => some .tgetl
  | 0x04 => some .tgeth
  | 0x05 => some .tsto
  | 0x06 => some .tstoi
  | 0x07 => some .tgets
  | 0x08 => some .tclr
  | 0x09 => some .text
  | 0x0A => some .tsext
  | 0x0B => some .tsexti
  | 0x0C => some .trshp
  | 0x0D => some .ttrn
  | 0x0E => some .tcast
  | 0x0F => some .tslc
  | 0x10 => some .tslci
  | 0x11 => some .tchk
  | 0x12 => some .tbind
  | 0x13 => some .tinfo
  | 0x14 => some .mtw
  | 0x15 => some .mtwi
  | 0x16 => some .mtr
  | 0x17 => some (if fmt = 3 then .mgoTm else .mgo)
  | 0x18 => some .mstep
  | 0x19 => some .mscl
  | 0x1A => some .maclr
  | 0x1B => some .mard
  | 0x1C => some .mawr
  | 0x1D => some .mepi
  | 0x1E => some .mepiq
  | 0x1F => some .mstz
  | 0x20 => some .mmul
  | 0x21 => some .tfill
  | 0x22 => some .tcopy
  | 0x23 => some .tqbx
  | 0x24 => some .tdqbx
  | 0x25 => some .tzb
  | 0x26 => some .tzx
  | 0x27 => some .twex
  | _ => none

/-- The LD opcode space (R321): the opcode of an OP value and a variant. -/
def ldOp (op _fmt : Nat) : Option Op :=
  match op with
  | 0x01 => some .ldb
  | 0x02 => some .ldbz
  | 0x03 => some .ldh
  | 0x04 => some .ldhz
  | 0x05 => some .ldw
  | 0x06 => some .ldwz
  | 0x07 => some .ldd
  | 0x08 => some .ldv
  | 0x09 => some .ldvx
  | 0x0A => some .ldg
  | 0x0B => some .ldcap
  | 0x0C => some .ldt
  | 0x0D => some .ldtx
  | 0x0E => some .lds
  | 0x0F => some .ldsx
  | 0x10 => some .pop
  | 0x11 => some .lbd
  | 0x12 => some .lddx
  | 0x13 => some .ldwx
  | 0x14 => some .ldbx
  | 0x15 => some .ldhx
  | 0x16 => some .ldvm
  | 0x17 => some .ldcx
  | _ => none

/-- The ST opcode space (R322): the opcode of an OP value and a variant. -/
def stOp (op _fmt : Nat) : Option Op :=
  match op with
  | 0x01 => some .stb
  | 0x02 => some .sth
  | 0x03 => some .stw
  | 0x04 => some .std
  | 0x05 => some .stv
  | 0x06 => some .stvx
  | 0x07 => some .stvm
  | 0x08 => some .sct
  | 0x09 => some .stcap
  | 0x0A => some .stt
  | 0x0B => some .sttx
  | 0x0C => some .push
  | 0x0D => some .stbx
  | 0x0E => some .sthx
  | 0x0F => some .stwx
  | 0x10 => some .stdx
  | 0x11 => some .aadd
  | 0x12 => some .amin
  | 0x13 => some .amax
  | 0x14 => some .aminu
  | 0x15 => some .amaxu
  | 0x16 => some .aand
  | 0x17 => some .aor
  | 0x18 => some .axor
  | 0x19 => some .axch
  | 0x1A => some .acas
  | 0x1B => some .afadd
  | _ => none

/-- The EG opcode space (R323): the opcode of an OP value and a variant. -/
def egOp (op _fmt : Nat) : Option Op :=
  match op with
  | 0x01 => some .ctw
  | 0x02 => some .ctwi
  | 0x03 => some .ctr
  | 0x04 => some .cgomm
  | 0x05 => some .cgomd
  | 0x06 => some .cgome
  | 0x07 => some .cgoma
  | 0x08 => some .cgomk
  | 0x09 => some .cgodm
  | 0x0A => some .cgodd
  | 0x0B => some .cgode
  | 0x0C => some .cgoda
  | 0x0D => some .cgodk
  | 0x0E => some .cgoam
  | 0x0F => some .cgoad
  | 0x10 => some .cgoae
  | 0x11 => some .cgoaa
  | 0x12 => some .cgoak
  | 0x13 => some .rkdef
  | 0x14 => some .mopen
  | 0x15 => some .mpush
  | 0x16 => some .mpushe
  | 0x17 => some .mclose
  | 0x18 => some .mstat
  | 0x19 => some .pxlkp
  | 0x1A => some .pxins
  | 0x1B => some .pxfrk
  | 0x1C => some .pxapp
  | 0x1D => some .pxrel
  | 0x1E => some .xroute
  | 0x1F => some .take
  | 0x20 => some .launch
  | 0x21 => some .send
  | 0x22 => some .recv
  | 0x23 => some .recva
  | 0x24 => some .coll
  | 0x25 => some .sgrd
  | 0x26 => some .rplack
  | 0x27 => some .bxfer
  | _ => none

/-- The SY opcode space (R324): the opcode of an OP value and a variant. -/
def syOp (op fmt : Nat) : Option Op :=
  match op with
  | 0x01 => some (if fmt = 1 then .waitPh else .wait)
  | 0x02 => some .waits
  | 0x03 => some .post
  | 0x04 => some .posts
  | 0x05 => some .rpost
  | 0x06 => some .expt
  | 0x07 => some .arv
  | 0x08 => some .arvw
  | 0x09 => some .bwait
  | 0x0A => some .strag
  | 0x0B => some (if fmt = 1 then .gateS else .gate)
  | 0x0C => some .efence
  | 0x0D => some .ifence
  | 0x0E => some .yield
  | 0x0F => some (if fmt = 1 then .sleepS else .sleep)
  | 0x10 => some .frd
  | 0x11 => some .fclr
  | 0x12 => some .bphase
  | 0x13 => some .waitm
  | _ => none

/-- The opcode of slot word `w` in slot `k`. An all-zero word is NOP in every slot (R307). -/
def findOp (k : Slot) (w : Word) : Except DecodeError Op :=
  if opOf w = 0 then (if w = 0 then .ok .nop else .error (.nopBits k))
  else
    let op := (opOf w).toNat
    let fmt := (hdOf w).fmt.toNat
    let r := match k with
      | .sc => scOp op fmt
      | .va | .vb => vOp op fmt
      | .mt => mtOp op fmt
      | .ld => ldOp op fmt
      | .st => stOp op fmt
      | .eg => egOp op fmt
      | .sy => syOp op fmt
    match r with
    | some i => .ok i
    | none => .error (.unassigned k (opOf w))

/-- The vector slot that a bundle slot is. -/
def Slot.vector (k : Slot) : VSlot := if k = .vb then .b else .a

/-- The instruction of an opcode: the word's fields in the format of the opcode (R309). -/
noncomputable def Op.instr (k : Slot) (w : Word) : Op → Instr
  | .nop => .nop k
  | .add => .add (hdOf w) (rOf w)
  | .sub => .sub (hdOf w) (rOf w)
  | .mul => .mul (hdOf w) (rOf w)
  | .mulh => .mulh (hdOf w) (rOf w)
  | .mulhu => .mulhu (hdOf w) (rOf w)
  | .div => .div (hdOf w) (rOf w)
  | .divu => .divu (hdOf w) (rOf w)
  | .rem => .rem (hdOf w) (rOf w)
  | .remu => .remu (hdOf w) (rOf w)
  | .and => .and (hdOf w) (rOf w)
  | .or => .or (hdOf w) (rOf w)
  | .xor => .xor (hdOf w) (rOf w)
  | .andn => .andn (hdOf w) (rOf w)
  | .shl => .shl (hdOf w) (rOf w)
  | .shr => .shr (hdOf w) (rOf w)
  | .sra => .sra (hdOf w) (rOf w)
  | .rol => .rol (hdOf w) (rOf w)
  | .min => .min (hdOf w) (rOf w)
  | .max => .max (hdOf w) (rOf w)
  | .minu => .minu (hdOf w) (rOf w)
  | .maxu => .maxu (hdOf w) (rOf w)
  | .clz => .clz (hdOf w) (rOf w)
  | .ctz => .ctz (hdOf w) (rOf w)
  | .popc => .popc (hdOf w) (rOf w)
  | .sext => .sext (hdOf w) (rOf w)
  | .zext => .zext (hdOf w) (rOf w)
  | .sel => .sel (hdOf w) (rOf w)
  | .cmp => .cmp (hdOf w) (rOf w)
  | .cmpi => .cmpi (hdOf w) (iOf w)
  | .addi => .addi (hdOf w) (iOf w)
  | .andi => .andi (hdOf w) (iOf w)
  | .ori => .ori (hdOf w) (iOf w)
  | .xori => .xori (hdOf w) (iOf w)
  | .shli => .shli (hdOf w) (iOf w)
  | .shri => .shri (hdOf w) (iOf w)
  | .srai => .srai (hdOf w) (iOf w)
  | .li => .li (hdOf w) (lOf w)
  | .lih => .lih (hdOf w) (lOf w)
  | .plog => .plog (hdOf w) (rOf w)
  | .fadd => .fadd (hdOf w) (rOf w)
  | .fsub => .fsub (hdOf w) (rOf w)
  | .fmul => .fmul (hdOf w) (rOf w)
  | .fma => .fma (hdOf w) (rOf w)
  | .fdiv => .fdiv (hdOf w) (rOf w)
  | .fsqrt => .fsqrt (hdOf w) (rOf w)
  | .fmin => .fmin (hdOf w) (rOf w)
  | .fmax => .fmax (hdOf w) (rOf w)
  | .fcmp => .fcmp (hdOf w) (rOf w)
  | .fcvt => .fcvt (hdOf w) (rOf w)
  | .fsgn => .fsgn (hdOf w) (rOf w)
  | .br => .br (hdOf w) (bOf w)
  | .call => .call (hdOf w) (bOf w)
  | .jr => .jr (hdOf w) (rOf w)
  | .loop => .loop (hdOf w) (bOf w)
  | .edge => .edge (hdOf w) (bOf w)
  | .bkj => .bkj (hdOf w) (rOf w)
  | .trap => .trap (hdOf w) (rOf w)
  | .tret => .tret (hdOf w) (rOf w)
  | .exit => .exit (hdOf w) (rOf w)
  | .cmov => .cmov (hdOf w) (rOf w)
  | .cbnd => .cbnd (hdOf w) (rOf w)
  | .cbndi => .cbndi (hdOf w) (iOf w)
  | .crst => .crst (hdOf w) (iOf w)
  | .coff => .coff (hdOf w) (rOf w)
  | .coffi => .coffi (hdOf w) (iOf w)
  | .cseto => .cseto (hdOf w) (rOf w)
  | .cchk => .cchk (hdOf w) (rOf w)
  | .cget => .cget (hdOf w) (rOf w)
  | .cclr => .cclr (hdOf w) (rOf w)
  | .cclrMk => .cclrMk (hdOf w) (rOf w)
  | .csub => .csub (hdOf w) (rOf w)
  | .dset => .dset (hdOf w) (rOf w)
  | .dseti => .dseti (hdOf w) (iOf w)
  | .dget => .dget (hdOf w) (rOf w)
  | .dunb => .dunb (hdOf w) (rOf w)
  | .mfsr => .mfsr (hdOf w) (iOf w)
  | .mtsr => .mtsr (hdOf w) (iOf w)
  | .mfsrc => .mfsrc (hdOf w) (iOf w)
  | .mtsrc => .mtsrc (hdOf w) (iOf w)
  | .fcls => .fcls (hdOf w) (rOf w)
  | .vadd => .vadd k.vector (hdOf w) (rOf w)
  | .vsub => .vsub k.vector (hdOf w) (rOf w)
  | .vadds => .vadds k.vector (hdOf w) (rOf w)
  | .vsubs => .vsubs k.vector (hdOf w) (rOf w)
  | .vmul => .vmul k.vector (hdOf w) (rOf w)
  | .vmulh => .vmulh k.vector (hdOf w) (rOf w)
  | .vmin => .vmin k.vector (hdOf w) (rOf w)
  | .vmax => .vmax k.vector (hdOf w) (rOf w)
  | .vabs => .vabs k.vector (hdOf w) (rOf w)
  | .vand => .vand k.vector (hdOf w) (rOf w)
  | .vor => .vor k.vector (hdOf w) (rOf w)
  | .vxor => .vxor k.vector (hdOf w) (rOf w)
  | .vandn => .vandn k.vector (hdOf w) (rOf w)
  | .vshl => .vshl k.vector (hdOf w) (rOf w)
  | .vshr => .vshr k.vector (hdOf w) (rOf w)
  | .vsra => .vsra k.vector (hdOf w) (rOf w)
  | .vshli => .vshli k.vector (hdOf w) (rOf w)
  | .vshri => .vshri k.vector (hdOf w) (rOf w)
  | .vsrai => .vsrai k.vector (hdOf w) (rOf w)
  | .vclz => .vclz k.vector (hdOf w) (rOf w)
  | .vpopc => .vpopc k.vector (hdOf w) (rOf w)
  | .vaddi => .vaddi k.vector (hdOf w) (iOf w)
  | .vli => .vli k.vector (hdOf w) (iOf w)
  | .vfadd => .vfadd k.vector (hdOf w) (rOf w)
  | .vfsub => .vfsub k.vector (hdOf w) (rOf w)
  | .vfmul => .vfmul k.vector (hdOf w) (rOf w)
  | .vfma => .vfma k.vector (hdOf w) (rOf w)
  | .vfms => .vfms k.vector (hdOf w) (rOf w)
  | .vfnma => .vfnma k.vector (hdOf w) (rOf w)
  | .vfmin => .vfmin k.vector (hdOf w) (rOf w)
  | .vfmax => .vfmax k.vector (hdOf w) (rOf w)
  | .vfabs => .vfabs k.vector (hdOf w) (rOf w)
  | .vfneg => .vfneg k.vector (hdOf w) (rOf w)
  | .vfdiv => .vfdiv k.vector (hdOf w) (rOf w)
  | .vfsqrt => .vfsqrt k.vector (hdOf w) (rOf w)
  | .vfrcp => .vfrcp k.vector (hdOf w) (rOf w)
  | .vexp2 => .vexp2 k.vector (hdOf w) (rOf w)
  | .vlog2 => .vlog2 k.vector (hdOf w) (rOf w)
  | .vsin => .vsin k.vector (hdOf w) (rOf w)
  | .vcos => .vcos k.vector (hdOf w) (rOf w)
  | .vtanh => .vtanh k.vector (hdOf w) (rOf w)
  | .vrsq => .vrsq k.vector (hdOf w) (rOf w)
  | .vsig => .vsig k.vector (hdOf w) (rOf w)
  | .verf => .verf k.vector (hdOf w) (rOf w)
  | .vcmp => .vcmp k.vector (hdOf w) (rOf w)
  | .vfcmp => .vfcmp k.vector (hdOf w) (rOf w)
  | .vsel => .vsel k.vector (hdOf w) (rOf w)
  | .vmlog => .vmlog k.vector (hdOf w) (rOf w)
  | .vmtv => .vmtv k.vector (hdOf w) (rOf w)
  | .vvtm => .vvtm k.vector (hdOf w) (rOf w)
  | .viota => .viota k.vector (hdOf w) (rOf w)
  | .vcvt => .vcvt k.vector (hdOf w) (rOf w)
  | .vcvti => .vcvti k.vector (hdOf w) (rOf w)
  | .vcvtf => .vcvtf k.vector (hdOf w) (rOf w)
  | .vsatn => .vsatn k.vector (hdOf w) (rOf w)
  | .vwiden => .vwiden k.vector (hdOf w) (rOf w)
  | .vqbx => .vqbx k.vector (hdOf w) (rOf w)
  | .vdqbx => .vdqbx k.vector (hdOf w) (rOf w)
  | .vqs8 => .vqs8 k.vector (hdOf w) (rOf w)
  | .vdqs8 => .vdqs8 k.vector (hdOf w) (rOf w)
  | .vperm => .vperm k.vector (hdOf w) (rOf w)
  | .vpermi => .vpermi k.vector (hdOf w) (rOf w)
  | .vbcst => .vbcst k.vector (hdOf w) (rOf w)
  | .vsplat => .vsplat k.vector (hdOf w) (rOf w)
  | .vshuf => .vshuf k.vector (hdOf w) (rOf w)
  | .vrotm => .vrotm k.vector (hdOf w) (rOf w)
  | .vzip => .vzip k.vector (hdOf w) (rOf w)
  | .vunzip => .vunzip k.vector (hdOf w) (rOf w)
  | .vins => .vins k.vector (hdOf w) (rOf w)
  | .vcompr => .vcompr k.vector (hdOf w) (rOf w)
  | .vexpd => .vexpd k.vector (hdOf w) (rOf w)
  | .vmov => .vmov k.vector (hdOf w) (rOf w)
  | .vcxs => .vcxs k.vector (hdOf w) (rOf w)
  | .vradd => .vradd k.vector (hdOf w) (rOf w)
  | .vrfadd => .vrfadd k.vector (hdOf w) (rOf w)
  | .vrmax => .vrmax k.vector (hdOf w) (rOf w)
  | .vrmin => .vrmin k.vector (hdOf w) (rOf w)
  | .vrfmax => .vrfmax k.vector (hdOf w) (rOf w)
  | .vrfmin => .vrfmin k.vector (hdOf w) (rOf w)
  | .vscan => .vscan k.vector (hdOf w) (rOf w)
  | .vfscan => .vfscan k.vector (hdOf w) (rOf w)
  | .vdot => .vdot k.vector (hdOf w) (rOf w)
  | .vfdot => .vfdot k.vector (hdOf w) (rOf w)
  | .vdfrd => .vdfrd k.vector (hdOf w) (rOf w)
  | .vdfwr => .vdfwr k.vector (hdOf w) (rOf w)
  | .vluta => .vluta k.vector (hdOf w) (rOf w)
  | .vbina => .vbina k.vector (hdOf w) (rOf w)
  | .tset => .tset (hdOf w) (rOf w)
  | .tcpy => .tcpy (hdOf w) (rOf w)
  | .tgetl => .tgetl (hdOf w) (rOf w)
  | .tgeth => .tgeth (hdOf w) (rOf w)
  | .tsto => .tsto (hdOf w) (rOf w)
  | .tstoi => .tstoi (hdOf w) (iOf w)
  | .tgets => .tgets (hdOf w) (rOf w)
  | .tclr => .tclr (hdOf w) (rOf w)
  | .text => .text (hdOf w) (rOf w)
  | .tsext => .tsext (hdOf w) (rOf w)
  | .tsexti => .tsexti (hdOf w) (iOf w)
  | .trshp => .trshp (hdOf w) (rOf w)
  | .ttrn => .ttrn (hdOf w) (rOf w)
  | .tcast => .tcast (hdOf w) (rOf w)
  | .tslc => .tslc (hdOf w) (rOf w)
  | .tslci => .tslci (hdOf w) (iOf w)
  | .tchk => .tchk (hdOf w) (rOf w)
  | .tbind => .tbind (hdOf w) (rOf w)
  | .tinfo => .tinfo (hdOf w) (rOf w)
  | .mtw => .mtw (hdOf w) (rOf w)
  | .mtwi => .mtwi (hdOf w) (lOf w)
  | .mtr => .mtr (hdOf w) (rOf w)
  | .mgo => .mgo (hdOf w) (rOf w)
  | .mgoTm => .mgoTm (hdOf w) (rOf w)
  | .mstep => .mstep (hdOf w) (rOf w)
  | .mscl => .mscl (hdOf w) (rOf w)
  | .maclr => .maclr (hdOf w) (rOf w)
  | .mard => .mard (hdOf w) (rOf w)
  | .mawr => .mawr (hdOf w) (rOf w)
  | .mepi => .mepi (hdOf w) (rOf w)
  | .mepiq => .mepiq (hdOf w) (rOf w)
  | .mstz => .mstz (hdOf w) (rOf w)
  | .mmul => .mmul (hdOf w) (rOf w)
  | .tfill => .tfill (hdOf w) (rOf w)
  | .tcopy => .tcopy (hdOf w) (rOf w)
  | .tqbx => .tqbx (hdOf w) (rOf w)
  | .tdqbx => .tdqbx (hdOf w) (rOf w)
  | .tzb => .tzb (hdOf w) (rOf w)
  | .tzx => .tzx (hdOf w) (rOf w)
  | .twex => .twex (hdOf w) (rOf w)
  | .ldb => .ldb (hdOf w) (mOf w)
  | .ldbz => .ldbz (hdOf w) (mOf w)
  | .ldh => .ldh (hdOf w) (mOf w)
  | .ldhz => .ldhz (hdOf w) (mOf w)
  | .ldw => .ldw (hdOf w) (mOf w)
  | .ldwz => .ldwz (hdOf w) (mOf w)
  | .ldd => .ldd (hdOf w) (mOf w)
  | .ldv => .ldv (hdOf w) (mOf w)
  | .ldvx => .ldvx (hdOf w) (rOf w)
  | .ldg => .ldg (hdOf w) (rOf w)
  | .ldcap => .ldcap (hdOf w) (mOf w)
  | .ldt => .ldt (hdOf w) (mOf w)
  | .ldtx => .ldtx (hdOf w) (rOf w)
  | .lds => .lds (hdOf w) (mOf w)
  | .ldsx => .ldsx (hdOf w) (rOf w)
  | .pop => .pop (hdOf w) (rOf w)
  | .lbd => .lbd (hdOf w) (eOf w)
  | .lddx => .lddx (hdOf w) (rOf w)
  | .ldwx => .ldwx (hdOf w) (rOf w)
  | .ldbx => .ldbx (hdOf w) (rOf w)
  | .ldhx => .ldhx (hdOf w) (rOf w)
  | .ldvm => .ldvm (hdOf w) (rOf w)
  | .ldcx => .ldcx (hdOf w) (rOf w)
  | .stb => .stb (hdOf w) (mOf w)
  | .sth => .sth (hdOf w) (mOf w)
  | .stw => .stw (hdOf w) (mOf w)
  | .std => .std (hdOf w) (mOf w)
  | .stv => .stv (hdOf w) (mOf w)
  | .stvx => .stvx (hdOf w) (rOf w)
  | .stvm => .stvm (hdOf w) (rOf w)
  | .sct => .sct (hdOf w) (rOf w)
  | .stcap => .stcap (hdOf w) (mOf w)
  | .stt => .stt (hdOf w) (mOf w)
  | .sttx => .sttx (hdOf w) (rOf w)
  | .push => .push (hdOf w) (rOf w)
  | .stbx => .stbx (hdOf w) (rOf w)
  | .sthx => .sthx (hdOf w) (rOf w)
  | .stwx => .stwx (hdOf w) (rOf w)
  | .stdx => .stdx (hdOf w) (rOf w)
  | .aadd => .aadd (hdOf w) (rOf w)
  | .amin => .amin (hdOf w) (rOf w)
  | .amax => .amax (hdOf w) (rOf w)
  | .aminu => .aminu (hdOf w) (rOf w)
  | .amaxu => .amaxu (hdOf w) (rOf w)
  | .aand => .aand (hdOf w) (rOf w)
  | .aor => .aor (hdOf w) (rOf w)
  | .axor => .axor (hdOf w) (rOf w)
  | .axch => .axch (hdOf w) (rOf w)
  | .acas => .acas (hdOf w) (rOf w)
  | .afadd => .afadd (hdOf w) (rOf w)
  | .ctw => .ctw (hdOf w) (rOf w)
  | .ctwi => .ctwi (hdOf w) (lOf w)
  | .ctr => .ctr (hdOf w) (rOf w)
  | .cgomm => .cgomm (hdOf w) (eOf w)
  | .cgomd => .cgomd (hdOf w) (eOf w)
  | .cgome => .cgome (hdOf w) (eOf w)
  | .cgoma => .cgoma (hdOf w) (eOf w)
  | .cgomk => .cgomk (hdOf w) (eOf w)
  | .cgodm => .cgodm (hdOf w) (eOf w)
  | .cgodd => .cgodd (hdOf w) (eOf w)
  | .cgode => .cgode (hdOf w) (eOf w)
  | .cgoda => .cgoda (hdOf w) (eOf w)
  | .cgodk => .cgodk (hdOf w) (eOf w)
  | .cgoam => .cgoam (hdOf w) (eOf w)
  | .cgoad => .cgoad (hdOf w) (eOf w)
  | .cgoae => .cgoae (hdOf w) (eOf w)
  | .cgoaa => .cgoaa (hdOf w) (eOf w)
  | .cgoak => .cgoak (hdOf w) (eOf w)
  | .rkdef => .rkdef (hdOf w) (eOf w)
  | .mopen => .mopen (hdOf w) (eOf w)
  | .mpush => .mpush (hdOf w) (eOf w)
  | .mpushe => .mpushe (hdOf w) (eOf w)
  | .mclose => .mclose (hdOf w) (eOf w)
  | .mstat => .mstat (hdOf w) (eOf w)
  | .pxlkp => .pxlkp (hdOf w) (eOf w)
  | .pxins => .pxins (hdOf w) (eOf w)
  | .pxfrk => .pxfrk (hdOf w) (eOf w)
  | .pxapp => .pxapp (hdOf w) (eOf w)
  | .pxrel => .pxrel (hdOf w) (eOf w)
  | .xroute => .xroute (hdOf w) (eOf w)
  | .take => .take (hdOf w) (eOf w)
  | .launch => .launch (hdOf w) (eOf w)
  | .send => .send (hdOf w) (eOf w)
  | .recv => .recv (hdOf w) (eOf w)
  | .recva => .recva (hdOf w) (eOf w)
  | .coll => .coll (hdOf w) (eOf w)
  | .sgrd => .sgrd (hdOf w) (eOf w)
  | .rplack => .rplack (hdOf w) (eOf w)
  | .bxfer => .bxfer (hdOf w) (eOf w)
  | .wait => .wait (hdOf w) (eOf w)
  | .waitPh => .waitPh (hdOf w) (eOf w)
  | .waits => .waits (hdOf w) (eOf w)
  | .post => .post (hdOf w) (eOf w)
  | .posts => .posts (hdOf w) (eOf w)
  | .rpost => .rpost (hdOf w) (eOf w)
  | .expt => .expt (hdOf w) (eOf w)
  | .arv => .arv (hdOf w) (eOf w)
  | .arvw => .arvw (hdOf w) (eOf w)
  | .bwait => .bwait (hdOf w) (eOf w)
  | .strag => .strag (hdOf w) (eOf w)
  | .gate => .gate (hdOf w) (eOf w)
  | .gateS => .gateS (hdOf w) (eOf w)
  | .efence => .efence (hdOf w) (eOf w)
  | .ifence => .ifence (hdOf w) (eOf w)
  | .yield => .yield (hdOf w) (eOf w)
  | .sleep => .sleep (hdOf w) (eOf w)
  | .sleepS => .sleepS (hdOf w) (eOf w)
  | .frd => .frd (hdOf w) (eOf w)
  | .fclr => .fclr (hdOf w) (eOf w)
  | .bphase => .bphase (hdOf w) (eOf w)
  | .waitm => .waitm (hdOf w) (eOf w)

/-- The instruction of slot word `w` in slot `k`. (DEDUCED, log 48.) -/
noncomputable def decodeSlot (k : Slot) (w : Word) : Except DecodeError Instr := (findOp k w).map (Op.instr k w)

/-- The vector slot as a bundle slot. -/
def VSlot.slot : VSlot → Slot
  | .a => .va
  | .b => .vb

/-- The slot and the word of a slot instruction (R308, R309, R318 to R324); none for an event. -/
def encodeWord : Instr → Option (Slot × Word)
  | .nop k => some (k, 0)
  | .add h f => some (.sc, mkR Op.add.code h f)
  | .sub h f => some (.sc, mkR Op.sub.code h f)
  | .mul h f => some (.sc, mkR Op.mul.code h f)
  | .mulh h f => some (.sc, mkR Op.mulh.code h f)
  | .mulhu h f => some (.sc, mkR Op.mulhu.code h f)
  | .div h f => some (.sc, mkR Op.div.code h f)
  | .divu h f => some (.sc, mkR Op.divu.code h f)
  | .rem h f => some (.sc, mkR Op.rem.code h f)
  | .remu h f => some (.sc, mkR Op.remu.code h f)
  | .and h f => some (.sc, mkR Op.and.code h f)
  | .or h f => some (.sc, mkR Op.or.code h f)
  | .xor h f => some (.sc, mkR Op.xor.code h f)
  | .andn h f => some (.sc, mkR Op.andn.code h f)
  | .shl h f => some (.sc, mkR Op.shl.code h f)
  | .shr h f => some (.sc, mkR Op.shr.code h f)
  | .sra h f => some (.sc, mkR Op.sra.code h f)
  | .rol h f => some (.sc, mkR Op.rol.code h f)
  | .min h f => some (.sc, mkR Op.min.code h f)
  | .max h f => some (.sc, mkR Op.max.code h f)
  | .minu h f => some (.sc, mkR Op.minu.code h f)
  | .maxu h f => some (.sc, mkR Op.maxu.code h f)
  | .clz h f => some (.sc, mkR Op.clz.code h f)
  | .ctz h f => some (.sc, mkR Op.ctz.code h f)
  | .popc h f => some (.sc, mkR Op.popc.code h f)
  | .sext h f => some (.sc, mkR Op.sext.code h f)
  | .zext h f => some (.sc, mkR Op.zext.code h f)
  | .sel h f => some (.sc, mkR Op.sel.code h f)
  | .cmp h f => some (.sc, mkR Op.cmp.code h f)
  | .cmpi h f => some (.sc, mkI Op.cmpi.code h f)
  | .addi h f => some (.sc, mkI Op.addi.code h f)
  | .andi h f => some (.sc, mkI Op.andi.code h f)
  | .ori h f => some (.sc, mkI Op.ori.code h f)
  | .xori h f => some (.sc, mkI Op.xori.code h f)
  | .shli h f => some (.sc, mkI Op.shli.code h f)
  | .shri h f => some (.sc, mkI Op.shri.code h f)
  | .srai h f => some (.sc, mkI Op.srai.code h f)
  | .li h f => some (.sc, mkL Op.li.code h f)
  | .lih h f => some (.sc, mkL Op.lih.code h f)
  | .plog h f => some (.sc, mkR Op.plog.code h f)
  | .fadd h f => some (.sc, mkR Op.fadd.code h f)
  | .fsub h f => some (.sc, mkR Op.fsub.code h f)
  | .fmul h f => some (.sc, mkR Op.fmul.code h f)
  | .fma h f => some (.sc, mkR Op.fma.code h f)
  | .fdiv h f => some (.sc, mkR Op.fdiv.code h f)
  | .fsqrt h f => some (.sc, mkR Op.fsqrt.code h f)
  | .fmin h f => some (.sc, mkR Op.fmin.code h f)
  | .fmax h f => some (.sc, mkR Op.fmax.code h f)
  | .fcmp h f => some (.sc, mkR Op.fcmp.code h f)
  | .fcvt h f => some (.sc, mkR Op.fcvt.code h f)
  | .fsgn h f => some (.sc, mkR Op.fsgn.code h f)
  | .br h f => some (.sc, mkB Op.br.code h f)
  | .call h f => some (.sc, mkB Op.call.code h f)
  | .jr h f => some (.sc, mkR Op.jr.code h f)
  | .loop h f => some (.sc, mkB Op.loop.code h f)
  | .edge h f => some (.sc, mkB Op.edge.code h f)
  | .bkj h f => some (.sc, mkR Op.bkj.code h f)
  | .trap h f => some (.sc, mkR Op.trap.code h f)
  | .tret h f => some (.sc, mkR Op.tret.code h f)
  | .exit h f => some (.sc, mkR Op.exit.code h f)
  | .cmov h f => some (.sc, mkR Op.cmov.code h f)
  | .cbnd h f => some (.sc, mkR Op.cbnd.code h f)
  | .cbndi h f => some (.sc, mkI Op.cbndi.code h f)
  | .crst h f => some (.sc, mkI Op.crst.code h f)
  | .coff h f => some (.sc, mkR Op.coff.code h f)
  | .coffi h f => some (.sc, mkI Op.coffi.code h f)
  | .cseto h f => some (.sc, mkR Op.cseto.code h f)
  | .cchk h f => some (.sc, mkR Op.cchk.code h f)
  | .cget h f => some (.sc, mkR Op.cget.code h f)
  | .cclr h f => some (.sc, mkR Op.cclr.code h f)
  | .cclrMk h f => some (.sc, mkR Op.cclrMk.code h f)
  | .csub h f => some (.sc, mkR Op.csub.code h f)
  | .dset h f => some (.sc, mkR Op.dset.code h f)
  | .dseti h f => some (.sc, mkI Op.dseti.code h f)
  | .dget h f => some (.sc, mkR Op.dget.code h f)
  | .dunb h f => some (.sc, mkR Op.dunb.code h f)
  | .mfsr h f => some (.sc, mkI Op.mfsr.code h f)
  | .mtsr h f => some (.sc, mkI Op.mtsr.code h f)
  | .mfsrc h f => some (.sc, mkI Op.mfsrc.code h f)
  | .mtsrc h f => some (.sc, mkI Op.mtsrc.code h f)
  | .fcls h f => some (.sc, mkR Op.fcls.code h f)
  | .vadd u h f => some (u.slot, mkR Op.vadd.code h f)
  | .vsub u h f => some (u.slot, mkR Op.vsub.code h f)
  | .vadds u h f => some (u.slot, mkR Op.vadds.code h f)
  | .vsubs u h f => some (u.slot, mkR Op.vsubs.code h f)
  | .vmul u h f => some (u.slot, mkR Op.vmul.code h f)
  | .vmulh u h f => some (u.slot, mkR Op.vmulh.code h f)
  | .vmin u h f => some (u.slot, mkR Op.vmin.code h f)
  | .vmax u h f => some (u.slot, mkR Op.vmax.code h f)
  | .vabs u h f => some (u.slot, mkR Op.vabs.code h f)
  | .vand u h f => some (u.slot, mkR Op.vand.code h f)
  | .vor u h f => some (u.slot, mkR Op.vor.code h f)
  | .vxor u h f => some (u.slot, mkR Op.vxor.code h f)
  | .vandn u h f => some (u.slot, mkR Op.vandn.code h f)
  | .vshl u h f => some (u.slot, mkR Op.vshl.code h f)
  | .vshr u h f => some (u.slot, mkR Op.vshr.code h f)
  | .vsra u h f => some (u.slot, mkR Op.vsra.code h f)
  | .vshli u h f => some (u.slot, mkR Op.vshli.code h f)
  | .vshri u h f => some (u.slot, mkR Op.vshri.code h f)
  | .vsrai u h f => some (u.slot, mkR Op.vsrai.code h f)
  | .vclz u h f => some (u.slot, mkR Op.vclz.code h f)
  | .vpopc u h f => some (u.slot, mkR Op.vpopc.code h f)
  | .vaddi u h f => some (u.slot, mkI Op.vaddi.code h f)
  | .vli u h f => some (u.slot, mkI Op.vli.code h f)
  | .vfadd u h f => some (u.slot, mkR Op.vfadd.code h f)
  | .vfsub u h f => some (u.slot, mkR Op.vfsub.code h f)
  | .vfmul u h f => some (u.slot, mkR Op.vfmul.code h f)
  | .vfma u h f => some (u.slot, mkR Op.vfma.code h f)
  | .vfms u h f => some (u.slot, mkR Op.vfms.code h f)
  | .vfnma u h f => some (u.slot, mkR Op.vfnma.code h f)
  | .vfmin u h f => some (u.slot, mkR Op.vfmin.code h f)
  | .vfmax u h f => some (u.slot, mkR Op.vfmax.code h f)
  | .vfabs u h f => some (u.slot, mkR Op.vfabs.code h f)
  | .vfneg u h f => some (u.slot, mkR Op.vfneg.code h f)
  | .vfdiv u h f => some (u.slot, mkR Op.vfdiv.code h f)
  | .vfsqrt u h f => some (u.slot, mkR Op.vfsqrt.code h f)
  | .vfrcp u h f => some (u.slot, mkR Op.vfrcp.code h f)
  | .vexp2 u h f => some (u.slot, mkR Op.vexp2.code h f)
  | .vlog2 u h f => some (u.slot, mkR Op.vlog2.code h f)
  | .vsin u h f => some (u.slot, mkR Op.vsin.code h f)
  | .vcos u h f => some (u.slot, mkR Op.vcos.code h f)
  | .vtanh u h f => some (u.slot, mkR Op.vtanh.code h f)
  | .vrsq u h f => some (u.slot, mkR Op.vrsq.code h f)
  | .vsig u h f => some (u.slot, mkR Op.vsig.code h f)
  | .verf u h f => some (u.slot, mkR Op.verf.code h f)
  | .vcmp u h f => some (u.slot, mkR Op.vcmp.code h f)
  | .vfcmp u h f => some (u.slot, mkR Op.vfcmp.code h f)
  | .vsel u h f => some (u.slot, mkR Op.vsel.code h f)
  | .vmlog u h f => some (u.slot, mkR Op.vmlog.code h f)
  | .vmtv u h f => some (u.slot, mkR Op.vmtv.code h f)
  | .vvtm u h f => some (u.slot, mkR Op.vvtm.code h f)
  | .viota u h f => some (u.slot, mkR Op.viota.code h f)
  | .vcvt u h f => some (u.slot, mkR Op.vcvt.code h f)
  | .vcvti u h f => some (u.slot, mkR Op.vcvti.code h f)
  | .vcvtf u h f => some (u.slot, mkR Op.vcvtf.code h f)
  | .vsatn u h f => some (u.slot, mkR Op.vsatn.code h f)
  | .vwiden u h f => some (u.slot, mkR Op.vwiden.code h f)
  | .vqbx u h f => some (u.slot, mkR Op.vqbx.code h f)
  | .vdqbx u h f => some (u.slot, mkR Op.vdqbx.code h f)
  | .vqs8 u h f => some (u.slot, mkR Op.vqs8.code h f)
  | .vdqs8 u h f => some (u.slot, mkR Op.vdqs8.code h f)
  | .vperm u h f => some (u.slot, mkR Op.vperm.code h f)
  | .vpermi u h f => some (u.slot, mkR Op.vpermi.code h f)
  | .vbcst u h f => some (u.slot, mkR Op.vbcst.code h f)
  | .vsplat u h f => some (u.slot, mkR Op.vsplat.code h f)
  | .vshuf u h f => some (u.slot, mkR Op.vshuf.code h f)
  | .vrotm u h f => some (u.slot, mkR Op.vrotm.code h f)
  | .vzip u h f => some (u.slot, mkR Op.vzip.code h f)
  | .vunzip u h f => some (u.slot, mkR Op.vunzip.code h f)
  | .vins u h f => some (u.slot, mkR Op.vins.code h f)
  | .vcompr u h f => some (u.slot, mkR Op.vcompr.code h f)
  | .vexpd u h f => some (u.slot, mkR Op.vexpd.code h f)
  | .vmov u h f => some (u.slot, mkR Op.vmov.code h f)
  | .vcxs u h f => some (u.slot, mkR Op.vcxs.code h f)
  | .vradd u h f => some (u.slot, mkR Op.vradd.code h f)
  | .vrfadd u h f => some (u.slot, mkR Op.vrfadd.code h f)
  | .vrmax u h f => some (u.slot, mkR Op.vrmax.code h f)
  | .vrmin u h f => some (u.slot, mkR Op.vrmin.code h f)
  | .vrfmax u h f => some (u.slot, mkR Op.vrfmax.code h f)
  | .vrfmin u h f => some (u.slot, mkR Op.vrfmin.code h f)
  | .vscan u h f => some (u.slot, mkR Op.vscan.code h f)
  | .vfscan u h f => some (u.slot, mkR Op.vfscan.code h f)
  | .vdot u h f => some (u.slot, mkR Op.vdot.code h f)
  | .vfdot u h f => some (u.slot, mkR Op.vfdot.code h f)
  | .vdfrd u h f => some (u.slot, mkR Op.vdfrd.code h f)
  | .vdfwr u h f => some (u.slot, mkR Op.vdfwr.code h f)
  | .vluta u h f => some (u.slot, mkR Op.vluta.code h f)
  | .vbina u h f => some (u.slot, mkR Op.vbina.code h f)
  | .tset h f => some (.mt, mkR Op.tset.code h f)
  | .tcpy h f => some (.mt, mkR Op.tcpy.code h f)
  | .tgetl h f => some (.mt, mkR Op.tgetl.code h f)
  | .tgeth h f => some (.mt, mkR Op.tgeth.code h f)
  | .tsto h f => some (.mt, mkR Op.tsto.code h f)
  | .tstoi h f => some (.mt, mkI Op.tstoi.code h f)
  | .tgets h f => some (.mt, mkR Op.tgets.code h f)
  | .tclr h f => some (.mt, mkR Op.tclr.code h f)
  | .text h f => some (.mt, mkR Op.text.code h f)
  | .tsext h f => some (.mt, mkR Op.tsext.code h f)
  | .tsexti h f => some (.mt, mkI Op.tsexti.code h f)
  | .trshp h f => some (.mt, mkR Op.trshp.code h f)
  | .ttrn h f => some (.mt, mkR Op.ttrn.code h f)
  | .tcast h f => some (.mt, mkR Op.tcast.code h f)
  | .tslc h f => some (.mt, mkR Op.tslc.code h f)
  | .tslci h f => some (.mt, mkI Op.tslci.code h f)
  | .tchk h f => some (.mt, mkR Op.tchk.code h f)
  | .tbind h f => some (.mt, mkR Op.tbind.code h f)
  | .tinfo h f => some (.mt, mkR Op.tinfo.code h f)
  | .mtw h f => some (.mt, mkR Op.mtw.code h f)
  | .mtwi h f => some (.mt, mkL Op.mtwi.code h f)
  | .mtr h f => some (.mt, mkR Op.mtr.code h f)
  | .mgo h f => some (.mt, mkR Op.mgo.code h f)
  | .mgoTm h f => some (.mt, mkR Op.mgoTm.code h f)
  | .mstep h f => some (.mt, mkR Op.mstep.code h f)
  | .mscl h f => some (.mt, mkR Op.mscl.code h f)
  | .maclr h f => some (.mt, mkR Op.maclr.code h f)
  | .mard h f => some (.mt, mkR Op.mard.code h f)
  | .mawr h f => some (.mt, mkR Op.mawr.code h f)
  | .mepi h f => some (.mt, mkR Op.mepi.code h f)
  | .mepiq h f => some (.mt, mkR Op.mepiq.code h f)
  | .mstz h f => some (.mt, mkR Op.mstz.code h f)
  | .mmul h f => some (.mt, mkR Op.mmul.code h f)
  | .tfill h f => some (.mt, mkR Op.tfill.code h f)
  | .tcopy h f => some (.mt, mkR Op.tcopy.code h f)
  | .tqbx h f => some (.mt, mkR Op.tqbx.code h f)
  | .tdqbx h f => some (.mt, mkR Op.tdqbx.code h f)
  | .tzb h f => some (.mt, mkR Op.tzb.code h f)
  | .tzx h f => some (.mt, mkR Op.tzx.code h f)
  | .twex h f => some (.mt, mkR Op.twex.code h f)
  | .ldb h f => some (.ld, mkM Op.ldb.code h f)
  | .ldbz h f => some (.ld, mkM Op.ldbz.code h f)
  | .ldh h f => some (.ld, mkM Op.ldh.code h f)
  | .ldhz h f => some (.ld, mkM Op.ldhz.code h f)
  | .ldw h f => some (.ld, mkM Op.ldw.code h f)
  | .ldwz h f => some (.ld, mkM Op.ldwz.code h f)
  | .ldd h f => some (.ld, mkM Op.ldd.code h f)
  | .ldv h f => some (.ld, mkM Op.ldv.code h f)
  | .ldvx h f => some (.ld, mkR Op.ldvx.code h f)
  | .ldg h f => some (.ld, mkR Op.ldg.code h f)
  | .ldcap h f => some (.ld, mkM Op.ldcap.code h f)
  | .ldt h f => some (.ld, mkM Op.ldt.code h f)
  | .ldtx h f => some (.ld, mkR Op.ldtx.code h f)
  | .lds h f => some (.ld, mkM Op.lds.code h f)
  | .ldsx h f => some (.ld, mkR Op.ldsx.code h f)
  | .pop h f => some (.ld, mkR Op.pop.code h f)
  | .lbd h f => some (.ld, mkE Op.lbd.code h f)
  | .lddx h f => some (.ld, mkR Op.lddx.code h f)
  | .ldwx h f => some (.ld, mkR Op.ldwx.code h f)
  | .ldbx h f => some (.ld, mkR Op.ldbx.code h f)
  | .ldhx h f => some (.ld, mkR Op.ldhx.code h f)
  | .ldvm h f => some (.ld, mkR Op.ldvm.code h f)
  | .ldcx h f => some (.ld, mkR Op.ldcx.code h f)
  | .stb h f => some (.st, mkM Op.stb.code h f)
  | .sth h f => some (.st, mkM Op.sth.code h f)
  | .stw h f => some (.st, mkM Op.stw.code h f)
  | .std h f => some (.st, mkM Op.std.code h f)
  | .stv h f => some (.st, mkM Op.stv.code h f)
  | .stvx h f => some (.st, mkR Op.stvx.code h f)
  | .stvm h f => some (.st, mkR Op.stvm.code h f)
  | .sct h f => some (.st, mkR Op.sct.code h f)
  | .stcap h f => some (.st, mkM Op.stcap.code h f)
  | .stt h f => some (.st, mkM Op.stt.code h f)
  | .sttx h f => some (.st, mkR Op.sttx.code h f)
  | .push h f => some (.st, mkR Op.push.code h f)
  | .stbx h f => some (.st, mkR Op.stbx.code h f)
  | .sthx h f => some (.st, mkR Op.sthx.code h f)
  | .stwx h f => some (.st, mkR Op.stwx.code h f)
  | .stdx h f => some (.st, mkR Op.stdx.code h f)
  | .aadd h f => some (.st, mkR Op.aadd.code h f)
  | .amin h f => some (.st, mkR Op.amin.code h f)
  | .amax h f => some (.st, mkR Op.amax.code h f)
  | .aminu h f => some (.st, mkR Op.aminu.code h f)
  | .amaxu h f => some (.st, mkR Op.amaxu.code h f)
  | .aand h f => some (.st, mkR Op.aand.code h f)
  | .aor h f => some (.st, mkR Op.aor.code h f)
  | .axor h f => some (.st, mkR Op.axor.code h f)
  | .axch h f => some (.st, mkR Op.axch.code h f)
  | .acas h f => some (.st, mkR Op.acas.code h f)
  | .afadd h f => some (.st, mkR Op.afadd.code h f)
  | .ctw h f => some (.eg, mkR Op.ctw.code h f)
  | .ctwi h f => some (.eg, mkL Op.ctwi.code h f)
  | .ctr h f => some (.eg, mkR Op.ctr.code h f)
  | .cgomm h f => some (.eg, mkE Op.cgomm.code h f)
  | .cgomd h f => some (.eg, mkE Op.cgomd.code h f)
  | .cgome h f => some (.eg, mkE Op.cgome.code h f)
  | .cgoma h f => some (.eg, mkE Op.cgoma.code h f)
  | .cgomk h f => some (.eg, mkE Op.cgomk.code h f)
  | .cgodm h f => some (.eg, mkE Op.cgodm.code h f)
  | .cgodd h f => some (.eg, mkE Op.cgodd.code h f)
  | .cgode h f => some (.eg, mkE Op.cgode.code h f)
  | .cgoda h f => some (.eg, mkE Op.cgoda.code h f)
  | .cgodk h f => some (.eg, mkE Op.cgodk.code h f)
  | .cgoam h f => some (.eg, mkE Op.cgoam.code h f)
  | .cgoad h f => some (.eg, mkE Op.cgoad.code h f)
  | .cgoae h f => some (.eg, mkE Op.cgoae.code h f)
  | .cgoaa h f => some (.eg, mkE Op.cgoaa.code h f)
  | .cgoak h f => some (.eg, mkE Op.cgoak.code h f)
  | .rkdef h f => some (.eg, mkE Op.rkdef.code h f)
  | .mopen h f => some (.eg, mkE Op.mopen.code h f)
  | .mpush h f => some (.eg, mkE Op.mpush.code h f)
  | .mpushe h f => some (.eg, mkE Op.mpushe.code h f)
  | .mclose h f => some (.eg, mkE Op.mclose.code h f)
  | .mstat h f => some (.eg, mkE Op.mstat.code h f)
  | .pxlkp h f => some (.eg, mkE Op.pxlkp.code h f)
  | .pxins h f => some (.eg, mkE Op.pxins.code h f)
  | .pxfrk h f => some (.eg, mkE Op.pxfrk.code h f)
  | .pxapp h f => some (.eg, mkE Op.pxapp.code h f)
  | .pxrel h f => some (.eg, mkE Op.pxrel.code h f)
  | .xroute h f => some (.eg, mkE Op.xroute.code h f)
  | .take h f => some (.eg, mkE Op.take.code h f)
  | .launch h f => some (.eg, mkE Op.launch.code h f)
  | .send h f => some (.eg, mkE Op.send.code h f)
  | .recv h f => some (.eg, mkE Op.recv.code h f)
  | .recva h f => some (.eg, mkE Op.recva.code h f)
  | .coll h f => some (.eg, mkE Op.coll.code h f)
  | .sgrd h f => some (.eg, mkE Op.sgrd.code h f)
  | .rplack h f => some (.eg, mkE Op.rplack.code h f)
  | .bxfer h f => some (.eg, mkE Op.bxfer.code h f)
  | .wait h f => some (.sy, mkE Op.wait.code h f)
  | .waitPh h f => some (.sy, mkE Op.waitPh.code h f)
  | .waits h f => some (.sy, mkE Op.waits.code h f)
  | .post h f => some (.sy, mkE Op.post.code h f)
  | .posts h f => some (.sy, mkE Op.posts.code h f)
  | .rpost h f => some (.sy, mkE Op.rpost.code h f)
  | .expt h f => some (.sy, mkE Op.expt.code h f)
  | .arv h f => some (.sy, mkE Op.arv.code h f)
  | .arvw h f => some (.sy, mkE Op.arvw.code h f)
  | .bwait h f => some (.sy, mkE Op.bwait.code h f)
  | .strag h f => some (.sy, mkE Op.strag.code h f)
  | .gate h f => some (.sy, mkE Op.gate.code h f)
  | .gateS h f => some (.sy, mkE Op.gateS.code h f)
  | .efence h f => some (.sy, mkE Op.efence.code h f)
  | .ifence h f => some (.sy, mkE Op.ifence.code h f)
  | .yield h f => some (.sy, mkE Op.yield.code h f)
  | .sleep h f => some (.sy, mkE Op.sleep.code h f)
  | .sleepS h f => some (.sy, mkE Op.sleepS.code h f)
  | .frd h f => some (.sy, mkE Op.frd.code h f)
  | .fclr h f => some (.sy, mkE Op.fclr.code h f)
  | .bphase h f => some (.sy, mkE Op.bphase.code h f)
  | .waitm h f => some (.sy, mkE Op.waitm.code h f)
  | .moduleReset => none
  | .bootStage _ => none
  | .powerSample _ _ => none
  | .throttleRaise => none
  | .throttleLower => none
  | .powerAlarm => none
  | .coreFrequencyChange _ => none
  | .patrolScrub _ _ => none
  | .freezePin => none
  | .thermalTrip _ => none
  | .oarovFirmwareFault => none
  | .mgmtFreeze _ => none
  | .mgmtReadOut _ => none
  | .mgmtPowerLimit _ _ => none
  | .mgmtImageReplacement _ _ _ => none
  | .mgmtLoaderKeyEnrol _ _ => none
  | .mgmtRegisterRead _ _ => none
  | .mgmtTelemetryRead _ _ => none
  | .mgmtCertificateRead _ => none
  | .mgmtAttestation _ _ => none
  | .mbcmdAttestation _ => none
  | .mailboxDone => none
  | .registerWrite _ _ _ => none
  | .flitReceive _ _ => none
  | .retryRequestReceive _ _ => none
  | .linkFlitSlot _ => none
  | .linkRetrain _ => none
  | .linkDisable _ => none
  | .linkTrained _ _ _ => none
  | .linkTrainingTimeout _ => none
  | .laneLockLoss _ => none
  | .linkStall _ => none
  | .messageForward _ => none
  | .sendRequestArrive _ => none
  | .sendGrantArrive _ => none
  | .sendRefusalArrive _ => none
  | .sendRetryTimer _ _ => none
  | .typedDataArrive _ => none
  | .blockTransferArrive _ => none
  | .transferAckArrive _ => none
  | .remotePostArrive _ => none
  | .remoteBarrierArrival _ => none
  | .pxRemoteCommand _ => none
  | .collJobStart _ => none
  | .collContributionArrive _ => none
  | .collJobComplete _ => none
  | .collTimeout _ => none
  | .launchQueueTailWrite _ _ => none
  | .launchRecordRead => none
  | .consumerHeadWrite _ _ => none
  | .taskComplete _ => none
  | .completionDrain => none
  | .faultRecordDrain => none
  | .translationChannelTailWrite _ => none
  | .ptwrite => none
  | .inval => none
  | .replay => none
  | .kill => none
  | .retire => none
  | .mark => none
  | .tlbMissWalk _ => none
  | .pageWalkComplete _ => none
  | .keyLoad => none
  | .keyClear => none
  | .keyCommandFinish => none
  | .tierFramePop _ => none
  | .tierFramePush _ _ => none
  | .tierClockStep _ => none
  | .demotionStart _ => none
  | .demotionDrain _ => none
  | .demotionFinish _ => none
  | .storageOutRecord _ => none
  | .mediaRingConfigWrite _ _ _ => none
  | .mediaCardPoll _ => none
  | .decodeCard _ => none
  | .resizeCard _ => none
  | .mediaCardComplete _ => none
  | .nvmeCompletion _ _ _ _ => none
  | .nvmeCommandTimeout _ _ => none
  | .cxlLinkDown _ => none
  | .pxDisable _ _ => none
  | .pxInit _ => none
  | .pxInitComplete _ => none
  | .pxRequantStart _ => none
  | .pxRequantStep _ => none
  | .pxReclaim _ _ => none
  | .lookup => none
  | .insert => none
  | .fork => none
  | .append => none
  | .release => none
  | .taskPlacementAssign _ => none
  | .placementSelect _ => none
  | .reserveRequest _ _ => none
  | .phase1Result _ => none
  | .reservationTimeout _ => none
  | .placementBackoffExpiry _ => none
  | .holdSlotGrant _ => none
  | .quantumBoundary _ => none
  | .stopRequest _ => none
  | .stopCutBroadcast _ => none
  | .stopTimeout _ => none
  | .swapOut _ => none
  | .swapIn _ => none
  | .takeClaim _ _ => none
  | .deviceLaunch _ _ => none
  | .xrouteApply _ _ => none
  | .xrouteResume _ => none
  | .resultLand _ => none
  | .loadReturn _ _ => none
  | .varResultReturn _ _ => none
  | .trapEntry _ _ => none
  | .watchdog _ _ => none
  | .sleepExpiry _ _ => none
  | .copyJobStart _ => none
  | .copyJobComplete _ => none
  | .matrixJobStart _ => none
  | .matrixJobComplete _ => none
  | .mergeOpenApply _ => none
  | .mergePushApply _ => none
  | .mergeCloseApply _ => none
  | .mergeStatusApply _ => none
  | .loadBlockSettled _ _ => none
  | .rplackComplete _ _ => none
  | .cxlLinkUp _ => none
  | .rinkRowFilled _ _ => none
  | .pxRemoteReplyArrive _ => none

/-- The number of a slot's word in its bundle (R307). -/
def Slot.num : Slot → Nat
  | .sc => 0
  | .va => 1
  | .vb => 2
  | .mt => 3
  | .ld => 4
  | .st => 5
  | .eg => 6
  | .sy => 7

/-- Word `n` of a bundle (R307). -/
def Bundle.word (b : Bundle) (n : Nat) : Word := BitVec.extractLsb' (64 * n) 64 b

/-- The bundle that holds `w` in slot `k` and NOP elsewhere. -/
def Bundle.single (k : Slot) (w : Word) : Bundle := w.setWidth 512 <<< (64 * k.num)

/-- The slots in word order (R307). -/
def slots : List Slot := [.sc, .va, .vb, .mt, .ld, .st, .eg, .sy]

/-- The eight slot instructions of a bundle, in word order. -/
noncomputable def decodeBundle (b : Bundle) : List (Except DecodeError Instr) :=
  slots.map (fun k => decodeSlot k (b.word k.num))

/-- The encoder: the bundle of one slot instruction; none for an event, which has no words. -/
def encode (i : Instr) : Option Bundle := (encodeWord i).map (fun p => Bundle.single p.1 p.2)

/-- The bytes of a bundle, byte 0 first (R4, R307). -/
def Bundle.bytes (b : Bundle) : List Byte :=
  (List.range 64).map (fun n => BitVec.extractLsb' (8 * n) 8 b)

/-- A bundle from its bytes, byte 0 first (R4, R307). -/
def Bundle.ofBytes (l : List Byte) : Bundle :=
  BitVec.ofNat 512 (l.foldr (fun x n => x.toNat + 256 * n) 0)

/-- The first slot of a bundle that holds anything, or SC where all are NOP. (PRESUMED, log 49.) -/
def Bundle.firstSlot (b : Bundle) : Slot :=
  (slots.find? (fun k => b.word k.num != 0)).getD .sc

/-- The decoder on one instruction given as a number: its bits, numbered from the first word of
the bundle, are laid out as the bundle's 64 bytes, and the first slot that holds anything is
decoded. (PRESUMED, log 49.) -/
noncomputable def decodeTableWord (nbits w : Nat) : Option Instr :=
  let b := Bundle.ofBytes (Bundle.bytes (BitVec.ofNat 512 (w % 2 ^ nbits)))
  match decodeSlot b.firstSlot (b.word b.firstSlot.num) with
  | .ok i => some i
  | .error _ => none

end Sys2Proof
end

