-- ==== Sys2Proof/Machine/SMap.lean ====
section
/-!
DEFINITION. Sparse stores: a list of (key, value) pairs in one canonical form, keys strictly
rising and no entry equal to what an unlisted key reads as. Memory, register files, the deep file,
ACM and the set of cores are all held this way, so equal stores are equal lists.
-/

namespace Sys2Proof

/-- A sparse store over natural keys. What an unlisted key reads as is given at each use. -/
abbrev SMap (V : Type) := List (Nat × V)

variable {V : Type}

/-- The value at key `k`, or `d` where it is not listed. -/
def SMap.get (d : V) : SMap V → Nat → V
  | [], _ => d
  | (j, v) :: t, k => if j = k then v else SMap.get d t k

/-- The store without key `k`. -/
def SMap.erase : SMap V → Nat → SMap V
  | [], _ => []
  | (j, v) :: t, k => if j = k then SMap.erase t k else (j, v) :: SMap.erase t k

/-- Insert before the first larger key. -/
def SMap.insert : SMap V → Nat → V → SMap V
  | [], k, v => [(k, v)]
  | (j, u) :: t, k, v => if k < j then (k, v) :: (j, u) :: t else (j, u) :: SMap.insert t k v

/-- Write key `k`. Writing what an unlisted key reads as removes the entry. -/
def SMap.set [DecidableEq V] (d : V) (l : SMap V) (k : Nat) (v : V) : SMap V :=
  if v = d then SMap.erase l k else SMap.insert (SMap.erase l k) k v

/-- Write several keys, in order. -/
def SMap.setAll [DecidableEq V] (d : V) (l : SMap V) : List (Nat × V) → SMap V
  | [] => l
  | (k, v) :: t => SMap.setAll d (SMap.set d l k v) t

/-- Keys strictly rising from above `lo`. -/
def SMap.rising : Option Nat → SMap V → Bool
  | _, [] => true
  | none, (k, _) :: t => SMap.rising (some k) t
  | some lo, (k, _) :: t => decide (lo < k) && SMap.rising (some k) t

/-- The canonical form: keys strictly rising, no entry equal to the default. -/
def SMap.wf [DecidableEq V] (d : V) (l : SMap V) : Bool :=
  SMap.rising none l && l.all (fun e => decide (e.2 ≠ d))

end Sys2Proof
end

