-- ==== Sys2Proof/Machine/CoreTypes.lean ====
section
/-!
DEFINITION. The types of the state of one compute core and its four contexts: registers (R187),
latches (R186), results in flight (R183), the memory port (R297), trap levels (R290, R291),
flags (R441), rinks (R194), load blocks (R196), engine jobs (R240, R278) and the step-mode inner
array (R260).
-/

namespace Sys2Proof.Machine

/-- The classes of architectural registers (R187). `k` names a rink, `f` a flag. -/
inductive Cls where
  | s | a | v | x | t | d | p | m | k
  deriving DecidableEq, Repr

/-- An a-register: 128 bits and the tag held outside them (R188). -/
structure Cap where
  bits : Quad
  tag : Bool
  deriving DecidableEq, Repr

/-- A tile register: type word and storage descriptor (R201, R208). -/
structure TileReg where
  tw : Quad
  desc : Word
  deriving DecidableEq, Repr

/-- A context's state (R177). -/
inductive CtxStatus where
  | idle | ready | running | blocked | parked
  deriving DecidableEq, Repr

/-- A program counter: edge bit and bundle index (R177). -/
structure Pc where
  edge : Bool
  idx : BitVec 10
  deriving DecidableEq, Repr

/-- The trap causes (R294). -/
inductive Cause where
  | illegalBundle | illegalOpcode | shapeFault | capTag | capBounds | capRights | translation
  | divZero | fpException | flagOverflow | scheduleViolation | latchLost | engineError
  | trapInstruction | mergeSpill | fabricType | eccUncorrectable | watchdog
  deriving DecidableEq, Repr

/-- The banked trap registers of one level (R291). -/
structure XBank where
  cause : Word
  pc : Word
  val : Word
  mask : Word
  vec : Word
  as : Cap
  deriving DecidableEq, Repr

/-- The per-context system registers that hold a value of their own (R358). -/
structure SysRegs where
  fpcsr : Word
  arithx : Word
  dmr : Word
  dfbase : Word
  dflen : Word
  slr : Word
  rdepth : Word
  mcap : Word
  dispt : Word
  loopst : Word
  cestat : Word
  mestat : Word
  xlvl : BitVec 2
  x1 : XBank
  x2 : XBank
  xsave : Cap
  lastcut : Word
  deriving DecidableEq, Repr

/-- The record of the step whose terms landed last (R400). `bx` is true for BX operands; `xs`
holds the promotion exponents of a BX record, indexed i × 32 + j. -/
structure StepRec where
  ma : Nat
  na : Nat
  atm : Nat
  atn : Nat
  m : Nat
  n : Nat
  bx : Bool
  xs : SMap Int
  deriving DecidableEq, Repr

/-- What a fixed-latency result writes when it lands (R183, R298). -/
inductive Payload where
  /-- Nothing but the latch (W = 0 forms write the latch alone). -/
  | none
  /-- An s, v, x, d, p or m register; only the bytes of `mask` are written in a v register. -/
  | reg (c : Cls) (n : Nat) (v : Row) (mask : Quad)
  | cap (n : Nat) (c : Cap)
  | tile (n : Nat) (t : TileReg)
  | sys (num : Nat) (v : Word)
  | csys (num : Nat) (c : Cap)
  /-- Bytes `mask` of an absolute deep-file row. -/
  | row (r : Nat) (v : Row) (mask : Quad)
  /-- ACM entries, in order (R399). -/
  | acm (ws : List (Nat × BitVec 32))
  /-- VBINA's probabilities into bins, in ascending lane order (R380): the first row of the
  table relative to DFBASE and the (code, probability) pairs. -/
  | bins (row : Nat) (ps : List (Nat × BitVec 32))
  /-- The terms of an MSTEP, sixteen to an entry in ascending k, with its NaN flags (R400). -/
  | terms (r : StepRec) (ts : List (Nat × List Int)) (nans : List Nat)
  /-- MSTZ's clear of the inner array (R402). -/
  | clearInner
  deriving DecidableEq, Repr

/-- A fixed-latency result in flight. `latch` tells whether it reaches the slot's newer latch,
`w` whether its payload is written; `replay` is false for VDFWR and VBINA, which are never
replayed (R381). `flags` are FPCSR[6:0] bits set at landing; `det`
says that its context has blocked since it issued (R184). -/
structure Result where
  slot : Slot
  seq : Nat
  due : Nat
  w : Bool
  latch : Bool
  lval : Row
  ltag : Bool
  pay : Payload
  flags : BitVec 7
  replay : Bool
  det : Bool
  deriving DecidableEq, Repr

/-- A bypass latch of the core (R186). -/
structure Latch where
  val : Row
  tag : Bool
  valid : Bool
  owner : BitVec 2
  deriving DecidableEq, Repr

/-- The destination of a load, pop, atomic or engine result that has not returned (R178, R406,
R421): registers it will write when `w`, deep-file rows it will write, and its latch slot. `ds`
are dimension variables a typed load may still bind (R413); `bseq` is its bundle; `due` is the core
cycle in which a pop lands (R416). -/
structure Pending where
  id : Nat
  bseq : Nat
  load : Bool
  slot : Slot
  w : Bool
  latch : Bool
  regs : List (Cls × Nat)
  rows : List Nat
  ds : List Nat
  due : Option Nat
  deriving DecidableEq, Repr

/-- The atomic operations (R418). -/
inductive AtomOp where
  | add | min | max | minu | maxu | and | or | xor | xch | cas | fadd
  deriving DecidableEq, Repr

/-- One single-copy-atomic unit of an access (R274, R275): object offset, length, bytes to store
with their byte enables, and the tag a capability store sets. -/
structure MUnit where
  off : Nat
  len : Nat
  data : List Byte
  en : Quad
  tag : Bool
  deriving DecidableEq, Repr

/-- What an access does with its units. -/
inductive AccKind where
  /-- A scalar load of `n` bytes into s, extended. -/
  | ldS (n : Nat) (signed : Bool)
  /-- A row load under a byte mask (R408, R409). -/
  | ldRow (mask : Quad)
  /-- A gather of lanes of `w` bits; `lanes` are the active lanes, one unit each (R410). -/
  | gather (w : Nat) (lanes : List Nat)
  | ldCap
  /-- A scale load into one half, the other half from `old` (R415). -/
  | ldScale (hi : Bool) (old : Row)
  | store
  | stCap
  | atomic (op : AtomOp) (n : Nat) (b c : Word)
  /-- A typed tile load into the rows of a tile with this type word and descriptor (R413, R414). -/
  | ldTile (tw : Quad) (desc : Word) (rows : List Nat)
  /-- A typed tile store of rows read at issue. -/
  | stTile (tw : Quad) (desc : Word) (rows : List Row)
  deriving DecidableEq, Repr

/-- A memory access in a port (R297, R298): what it does, its pending destination, its capability and
EO, its units with the first unperformed one, what it has read, the poisoned word it met first, whether
its object checks are done (R413), and the ATTEMPT of the fault it was replayed from (R75). -/
structure Acc where
  kind : AccKind
  pend : Option Nat
  w : Bool
  dst : Cls × Nat
  slot : Slot
  areg : Nat
  cap : Cap
  eo : Int
  units : List MUnit
  pos : Nat
  got : List (List Byte)
  ctag : Bool
  poison : Option Nat
  checked : Bool
  attempt : Nat
  deriving DecidableEq, Repr

/-- A tile operand as a job or an access resolved it at issue (R216). -/
structure TileOp where
  tw : Quad
  desc : Word
  cap : Cap
  deriving DecidableEq, Repr

/-- A range that a job reads or writes (R278): bytes of the space's DVA, bytes of an object whose entry was not
valid at issue, deep-file rows, ACM entries, or bundles of an edge. -/
inductive Region where
  | mem (lo hi : Nat)
  | obj (id lo hi : Nat)
  | rows (lo hi : Nat)
  | acm (lo hi : Nat)
  | edge (e : Bool) (lo hi : Nat)
  deriving DecidableEq, Repr

/-- The operand of a copy go (R247, R424): base byte address in its own store. -/
inductive CpOperand where
  | mem (c : Cap)
  | deep (row : Nat)
  | edge (e : Bool) (b : Nat)
  | acm (e : Nat)
  | rink (k : Nat)
  deriving DecidableEq, Repr

/-- The element mapping of a transform-6 copy job (R388). -/
inductive Rearr where
  | reshape | transpose | cast (rm : BitVec 2) (sat : Bool) | slice (start : Nat) | copy
  | fill (v : Word) | qbx | dqbx (rm : BitVec 2) (sat : Bool)
  deriving DecidableEq, Repr

/-- The engine command a job carries (R278, R421). -/
inductive JobKind where
  | plain (tab : SMap Word) (slr : Word) (src dst : CpOperand) (idx : Option Cap)
      (acmOp : BitVec 2) (phase : Bool)
  | expand (src : Cap) (e : Bool) (db : Nat)
  | rearrange (k : Rearr) (src dst : TileOp)
  | zbComp (src dst : TileOp)
  | zbExp (src dst : TileOp)
  | window (src dst : TileOp) (wpar : BitVec 16)
  | matmul (a b c : TileOp)
  | nest (tab : SMap Word) (slr : Word) (a b c : TileOp) (scale : Option CpOperand)
  | epilogue (c d : TileOp) (bias : Option TileOp) (alpha : BitVec 32) (relu clear : Bool)
      (rm : BitVec 2) (sat : Bool) (quant : Bool)
  | mopen (c : Cap) (cap : Nat)
  | mpush (stream : Nat) (recs : List (Word × BitVec 32)) (ending : Bool)
  | mclose
  | mstat
  | px (opc : Nat) (c : Cap)
  | pxRemote (bytes : List Byte) (src : BitVec 24) (space : BitVec 16)
  | xroute (c : Cap) (token : BitVec 32) (choices : List (BitVec 32 × BitVec 32))
  | take
  | launch (c : Cap)
  | send (t : TileOp) (dst : BitVec 24) (tag : BitVec 16)
  | recv (t : TileOp) (src : Option (BitVec 24)) (tag : BitVec 16) (treg : Nat)
  | coll (desc src dst : Cap) (grp : Nat)
  | sgrd (c : Cap) (lba : Word) (entry : Nat) (n : Nat) (len : Nat)
  | rplack (record : Bool) (upto : List Nat)
  | bxfer (a b : Cap) (dst : BitVec 24) (rflag : BitVec 5) (rp : Bool)
  /-- A read of a barrier instance by the SY slot (R447): no engine job. -/
  | query
  deriving DecidableEq, Repr

/-- An engine job (R278): issuing core and context, the space of its task, the flag it posts, the
pending destination of its result, its regions, its place in issue order, how far it has run, and
the status it will report, its own clock (R273), and the deep-file rows as a matrix job found them when it
started (R193). -/
structure Job where
  id : Nat
  bseq : Nat
  core : Nat
  ctx : Nat
  task : Nat
  space : BitVec 16
  kind : JobKind
  flag : Option (BitVec 5)
  pend : Option Nat
  reads : List Region
  writes : List Region
  started : Bool
  pos : Nat
  done : Bool
  status : BitVec 8
  detail : BitVec 16
  result : List Word
  pts : Nat
  held : SMap Row
  deriving DecidableEq, Repr

/-- An operation of the SY slot that changes a flag or a barrier, at step 5 of its bundle or, for an expectation, at
step 1 (R272, R444 to R446). An arrival carries the instance that DMR named at issue. -/
inductive SyOp where
  | post (f : Nat) (n : Nat)
  | expt (f : Nat) (n : Nat)
  | rpost (dst : BitVec 24) (f : Nat) (n : Nat)
  | arrive (j : Nat) (lvl : Nat) (dom : Nat)
  | fclr (f : Nat)
  deriving DecidableEq, Repr

/-- An entry of the memory port: an access, an engine command or an SY-slot operation that has not
left it (R297). -/
inductive PortItem where
  | acc (a : Acc)
  | cmd (j : Job)
  | sy (op : SyOp)
  deriving DecidableEq, Repr

/-- A port entry with its identity, which names it to RPLACK (R440), and its place in program
order: its bundle and its step within the bundle (R272). -/
structure PortEntry where
  id : Nat
  bseq : Nat
  stage : Nat
  item : PortItem
  deriving DecidableEq, Repr

/-- A snapshot entry: the result with its remaining cycles in `due` (R298). -/
abbrev SnapEntry := Result

/-- A running template nest (R262, R263): the bundle after the MGO, the shadow table, SLR, the
indices of the current iteration (level 0 first) and the bundle within the template. -/
structure Template where
  ret : Pc
  edge : Bool
  tab : SMap Word
  slr : Word
  iter : Nat
  off : Nat
  deriving DecidableEq, Repr

/-- A cause pending between bundles (R293). -/
structure PendCause where
  cause : Cause
  val : Word
  deriving DecidableEq, Repr

/-- A cause found at issue that waits until the context's port is empty (R297). -/
structure TrapWait where
  cause : Cause
  val : Word
  mask : BitVec 8
  deriving DecidableEq, Repr

/-- A condition that a bundle blocks on: the row of R178's table, 0 to 6 (R294), the tick since which the
bundle has stayed blocked on it, and the latest tick at which it was found to (R295). -/
structure BlockWatch where
  row : BitVec 4
  since : Nat
  last : Nat
  deriving DecidableEq, Repr

/-- One context (R177, R187). Register files are sparse; an unlisted register reads 0. -/
structure Ctx where
  status : CtxStatus
  pc : Pc
  s : SMap Word
  a : SMap Cap
  v : SMap Row
  x : SMap (BitVec 32)
  t : SMap TileReg
  d : SMap (BitVec 24)
  p : SMap Bool
  m : SMap Quad
  sr : SysRegs
  ctab : SMap Word
  mtab : SMap Word
  inner : SMap Int
  innerNan : SMap Bool
  stepRec : Option StepRec
  /-- The number that this context's next bundle has counted from its latest MSTEP, and from each
  MSTEP that still owes an MSCL (R260, R261). -/
  sinceStep : Option Nat
  owed : List Nat
  /-- Both as they stood at each trap level's entry (R261). -/
  stepSave1 : Option Nat × List Nat
  stepSave2 : Option Nat × List Nat
  flight : List Result
  pend : List Pending
  port : List PortEntry
  snap1 : List SnapEntry
  snap2 : List SnapEntry
  rec1 : List PortEntry
  rec2 : List PortEntry
  tmplSave1 : Option Template
  tmplSave2 : Option Template
  tmpl : Option Template
  causes : List PendCause
  /-- A cause found at issue that waits for the port, and the snapshot of its boundary (R297). -/
  trapWait : Option TrapWait
  trapSnap : Option (List SnapEntry)
  /-- The snapshot and record of a level returned from, until the context next issues (R299). -/
  resnap : List SnapEntry
  rerec : List PortEntry
  /-- Every condition that the next bundle blocks on (R178, R295). -/
  watch : List BlockWatch
  /-- YIELDs that have blocked once, and SLEEP deadlines, by level and bundle (R450). -/
  yielded : SMap Bool
  deadline : SMap (Option Nat)
  /-- Barriers bj at which an arrival is pending, and the one an ARVW waits on (R446). -/
  arrived : SMap Nat
  arvw : Option Nat
  /-- Port entries of the latest replay record and the fault it replayed (R440). -/
  lastReplay : Option (BitVec 32)
  replayIds : List Nat
  rplacks : List Job
  recvs : List Job
  /-- Old contents of bundles written since this context's last IFENCE, by edge × 1,024 + index
  (R199). -/
  stale : SMap Bundle
  /-- The cut report of a stop request, and whether the context is held or stopped (R303, R304). -/
  report : Option Nat
  held : Bool
  stopped : Bool
  pts : Nat
  seq : Nat
  /-- Registers that hold an uncorrectable error (R22). -/
  ecc : List (Cls × Nat)
  deriving DecidableEq, Repr

/-- A counting flag (R441). -/
structure Flag where
  cnt : BitVec 16
  exp : BitVec 16
  ph : BitVec 16
  ovf : Bool
  deriving DecidableEq, Repr

/-- A rink (R194). `landed` counts, for each reserved row in ring order, the bytes landed. -/
structure Rink where
  defd : Bool
  src : Bool
  head : Nat
  base : Nat
  slots : Nat
  free : Nat
  filled : Nat
  infl : Nat
  landed : List Nat
  deriving DecidableEq, Repr

/-- The state of a load block (R196). -/
inductive LbState where
  | free | filling | pinned | nopin
  deriving DecidableEq, Repr

/-- A load block (R196, R197): the lines by object offset, its flag, and the lines it pins. -/
structure LoadBlock where
  st : LbState
  cap : Cap
  start : Nat
  count : Nat
  flag : BitVec 5
  space : BitVec 16
  ctx : Nat
  lines : List Nat
  deriving DecidableEq, Repr

/-- A copy-engine write of one ACM entry with PHASE 0 (R251): its core cycle, the entry and what it held before, the value,
whether it was added, and the context that issued the copy. -/
structure AcmCopy where
  cycle : Nat
  entry : Nat
  old : BitVec 32
  val : BitVec 32
  add : Bool
  ctx : Nat
  deriving DecidableEq, Repr

/-- A core's reservation state (R157). -/
inductive Resv where
  | free
  | reserved (task : Nat) (since : Nat) (wasHeld : Bool)
  | owned (task : Nat)
  | held (task : Nat)
  deriving DecidableEq, Repr

/-- One compute core: four contexts and what they share. -/
structure Core where
  ctxs : SMap Ctx
  cur : BitVec 2
  cycle : Nat
  latches : SMap Latch
  flags : SMap Flag
  /-- The timestamp of the latest post of each flag (R273). -/
  flagTs : SMap Nat
  rinks : SMap Rink
  lbs : SMap LoadBlock
  deep : SMap Row
  acm : SMap (BitVec 32)
  edges : SMap Bundle
  resv : Resv
  /-- The throttle level this core has taken up; FCUR and WEIGHT follow from it and the core's
  fused STEP (R19, R20). -/
  lvl : BitVec 3
  ce : List Job
  me : List Job
  sends : List Job
  colls : List Job
  sgrds : List Job
  svcs : List Job
  /-- Typed-send requests no receive has matched, oldest first (R55). -/
  unmatched : List Msg
  /-- The (cycle, bank) pairs of matrix writes to ACM, for R251. -/
  acmWrites : List (Nat × Nat)
  acmCopies : List AcmCopy
  /-- Deep-file rows and ACM entries that hold an uncorrectable error (R22). -/
  eccRows : List Nat
  eccAcm : List Nat
  deriving DecidableEq, Repr

end Sys2Proof.Machine
end

