-- ==== Sys2Proof/Machine/Desc.lean ====
section
/-!
DEFINITION. What the field tables of the instruction chapters say of each slot instruction's word:
the variants it takes, the class and use of each register field, and the bits of [46:0] it leaves
reserved (R311, R312, R319; tables R341 to R357, R365 to R377, R383, R403, R419, R420).
-/

namespace Sys2Proof.Machine

/-- The use of a source field (R312). `named` is a register number that is not read (R387). -/
inductive SrcUse where
  | none
  | read (c : Cls)
  | named (c : Cls)
  deriving DecidableEq, Repr

/-- The use of the destination field (R311): written; written and read; a written pair; read only
(stores and copy gos, which reserve W). -/
inductive DstUse where
  | none
  | write (c : Cls)
  | readWrite (c : Cls)
  | pair (c : Cls)
  | read (c : Cls)
  deriving DecidableEq, Repr

/-- A slot instruction's field table. `resv` are the bits of [46:0] that must be 0. -/
structure Desc where
  fmts : List Nat
  dst : DstUse
  sa : SrcUse
  sb : SrcUse
  sc : SrcUse
  resv : Nat
  deriving DecidableEq, Repr

end Sys2Proof.Machine

namespace Sys2Proof

open Machine

/-- The field table of each opcode. -/
def Op.desc : Op → Desc
  | .nop => ⟨[0], .none, .none, .none, .none, 0x7FFFFFFFFFFF⟩
  | .add => ⟨[0, 1, 2, 3], .write .s, .read .s, .read .s, .none, 0xFFFFF⟩
  | .sub => ⟨[0, 1, 2, 3], .write .s, .read .s, .read .s, .none, 0xFFFFF⟩
  | .mul => ⟨[0, 1], .write .s, .read .s, .read .s, .none, 0xFFFFF⟩
  | .mulh => ⟨[0], .write .s, .read .s, .read .s, .none, 0xFFFFF⟩
  | .mulhu => ⟨[0], .write .s, .read .s, .read .s, .none, 0xFFFFF⟩
  | .div => ⟨[0, 1], .write .s, .read .s, .read .s, .none, 0xFFFFF⟩
  | .divu => ⟨[0, 1], .write .s, .read .s, .read .s, .none, 0xFFFFF⟩
  | .rem => ⟨[0, 1], .write .s, .read .s, .read .s, .none, 0xFFFFF⟩
  | .remu => ⟨[0, 1], .write .s, .read .s, .read .s, .none, 0xFFFFF⟩
  | .and => ⟨[0], .write .s, .read .s, .read .s, .none, 0xFFFFF⟩
  | .or => ⟨[0], .write .s, .read .s, .read .s, .none, 0xFFFFF⟩
  | .xor => ⟨[0], .write .s, .read .s, .read .s, .none, 0xFFFFF⟩
  | .andn => ⟨[0], .write .s, .read .s, .read .s, .none, 0xFFFFF⟩
  | .shl => ⟨[0, 1], .write .s, .read .s, .read .s, .none, 0xFFFFF⟩
  | .shr => ⟨[0, 1], .write .s, .read .s, .read .s, .none, 0xFFFFF⟩
  | .sra => ⟨[0, 1], .write .s, .read .s, .read .s, .none, 0xFFFFF⟩
  | .rol => ⟨[0, 1], .write .s, .read .s, .read .s, .none, 0xFFFFF⟩
  | .min => ⟨[0, 1], .write .s, .read .s, .read .s, .none, 0xFFFFF⟩
  | .max => ⟨[0, 1], .write .s, .read .s, .read .s, .none, 0xFFFFF⟩
  | .minu => ⟨[0, 1], .write .s, .read .s, .read .s, .none, 0xFFFFF⟩
  | .maxu => ⟨[0, 1], .write .s, .read .s, .read .s, .none, 0xFFFFF⟩
  | .clz => ⟨[0, 1], .write .s, .read .s, .none, .none, 0x1FFFFFFF⟩
  | .ctz => ⟨[0, 1], .write .s, .read .s, .none, .none, 0x1FFFFFFF⟩
  | .popc => ⟨[0, 1], .write .s, .read .s, .none, .none, 0x1FFFFFFF⟩
  | .sext => ⟨[0], .write .s, .read .s, .none, .none, 0x1FFFFFC0⟩
  | .zext => ⟨[0], .write .s, .read .s, .none, .none, 0x1FFFFFC0⟩
  | .sel => ⟨[0], .write .s, .read .s, .read .s, .read .p, 0x7FF⟩
  | .cmp => ⟨[0, 1, 2, 3, 4, 5, 8, 9, 10, 11, 12, 13], .write .p, .read .s, .read .s, .none, 0xFFFFF⟩
  | .cmpi => ⟨[0, 1, 2, 3, 4, 5, 8, 9, 10, 11, 12, 13], .write .p, .read .s, .none, .none, 0x0⟩
  | .addi => ⟨[0, 1], .write .s, .read .s, .none, .none, 0x0⟩
  | .andi => ⟨[0], .write .s, .read .s, .none, .none, 0x0⟩
  | .ori => ⟨[0], .write .s, .read .s, .none, .none, 0x0⟩
  | .xori => ⟨[0], .write .s, .read .s, .none, .none, 0x0⟩
  | .shli => ⟨[0, 1], .write .s, .read .s, .none, .none, 0x1FFFFFC0⟩
  | .shri => ⟨[0, 1], .write .s, .read .s, .none, .none, 0x1FFFFFC0⟩
  | .srai => ⟨[0, 1], .write .s, .read .s, .none, .none, 0x1FFFFFC0⟩
  | .li => ⟨[0], .write .s, .none, .none, .none, 0x0⟩
  | .lih => ⟨[0], .readWrite .s, .none, .none, .none, 0x3FFC000000⟩
  | .plog => ⟨[0], .write .p, .read .p, .read .p, .none, 0xFFFF0⟩
  | .fadd => ⟨[0, 1, 2, 3, 4], .write .s, .read .s, .read .s, .none, 0xFFFFF⟩
  | .fsub => ⟨[0, 1, 2, 3, 4], .write .s, .read .s, .read .s, .none, 0xFFFFF⟩
  | .fmul => ⟨[0, 1, 2, 3, 4], .write .s, .read .s, .read .s, .none, 0xFFFFF⟩
  | .fma => ⟨[0, 1, 2, 3, 4], .write .s, .read .s, .read .s, .read .s, 0x7FF⟩
  | .fdiv => ⟨[0, 1, 2, 3, 4], .write .s, .read .s, .read .s, .none, 0xFFFFF⟩
  | .fsqrt => ⟨[0, 1, 2, 3, 4], .write .s, .read .s, .none, .none, 0x1FFFFFFF⟩
  | .fmin => ⟨[0], .write .s, .read .s, .read .s, .none, 0xFFFFF⟩
  | .fmax => ⟨[0], .write .s, .read .s, .read .s, .none, 0xFFFFF⟩
  | .fcmp => ⟨[0, 1, 2, 3], .write .p, .read .s, .read .s, .none, 0xFFFFF⟩
  | .fcvt => ⟨[0, 1, 2, 3, 4, 5, 6, 7, 8, 9, 10, 11], .write .s, .read .s, .none, .none, 0x1FFFFFF0⟩
  | .fsgn => ⟨[0, 1, 2], .write .s, .read .s, .read .s, .none, 0xFFFFF⟩
  | .br => ⟨[0], .none, .none, .none, .none, 0x7FFFFFFFFC00⟩
  | .call => ⟨[0], .write .s, .none, .none, .none, 0x3FFFFFFC00⟩
  | .jr => ⟨[0], .none, .read .s, .none, .none, 0x7FC01FFFFFFF⟩
  | .loop => ⟨[0], .none, .read .s, .none, .none, 0x7FC01FFFFC00⟩
  | .edge => ⟨[0], .none, .none, .none, .none, 0x7FFFFFFFFC00⟩
  | .bkj => ⟨[0], .none, .read .s, .none, .none, 0x7FC01FFFFFFF⟩
  | .trap => ⟨[0], .none, .none, .none, .none, 0x7FFFFFFFF800⟩
  | .tret => ⟨[0], .none, .none, .none, .none, 0x7FFFFFFFFFFF⟩
  | .exit => ⟨[0], .none, .none, .none, .none, 0x7FFFFFFFFFFF⟩
  | .cmov => ⟨[0], .write .a, .read .a, .none, .none, 0x1FFFFFFF⟩
  | .cbnd => ⟨[0], .write .a, .read .a, .read .s, .none, 0xFFFFF⟩
  | .cbndi => ⟨[0], .write .a, .read .a, .none, .none, 0x0⟩
  | .crst => ⟨[0], .write .a, .read .a, .none, .none, 0x1FFFFF00⟩
  | .coff => ⟨[0], .write .a, .read .a, .read .s, .none, 0xFFFFF⟩
  | .coffi => ⟨[0], .write .a, .read .a, .none, .none, 0x0⟩
  | .cseto => ⟨[0], .write .a, .read .a, .read .s, .none, 0xFFFFF⟩
  | .cchk => ⟨[0], .none, .read .a, .read .s, .none, 0x7FC0000FF800⟩
  | .cget => ⟨[0, 1, 2, 3, 4, 5, 6, 7], .write .s, .read .a, .none, .none, 0x1FFFFFFF⟩
  | .cclr => ⟨[0], .write .a, .read .a, .none, .none, 0x1FFFFFFF⟩
  | .cclrMk => ⟨[1], .write .a, .none, .read .s, .read .s, 0x3FE00007FF⟩
  | .csub => ⟨[0], .write .s, .read .a, .read .a, .none, 0xFFFFF⟩
  | .dset => ⟨[0], .write .d, .read .s, .none, .none, 0x1FFFFFFF⟩
  | .dseti => ⟨[0], .write .d, .none, .none, .none, 0x3FE0000000⟩
  | .dget => ⟨[0], .write .s, .read .d, .none, .none, 0x1FFFFFFF⟩
  | .dunb => ⟨[0], .write .d, .none, .none, .none, 0x3FFFFFFFFF⟩
  | .mfsr => ⟨[0], .write .s, .none, .none, .none, 0x3FFFFFF000⟩
  | .mtsr => ⟨[0], .none, .read .s, .none, .none, 0x7FC01FFFF000⟩
  | .mfsrc => ⟨[0], .write .a, .none, .none, .none, 0x3FFFFFF000⟩
  | .mtsrc => ⟨[0], .none, .read .a, .none, .none, 0x7FC01FFFF000⟩
  | .fcls => ⟨[0], .write .s, .read .s, .none, .none, 0x1FFFFFFF⟩
  | .vadd => ⟨[0, 1, 2], .write .v, .read .v, .read .v, .none, 0xFF87F⟩
  | .vsub => ⟨[0, 1, 2], .write .v, .read .v, .read .v, .none, 0xFF87F⟩
  | .vadds => ⟨[0, 1, 2, 4, 5, 6], .write .v, .read .v, .read .v, .none, 0xFF87F⟩
  | .vsubs => ⟨[0, 1, 2, 4, 5, 6], .write .v, .read .v, .read .v, .none, 0xFF87F⟩
  | .vmul => ⟨[0, 1, 2], .write .v, .read .v, .read .v, .none, 0xFF87F⟩
  | .vmulh => ⟨[0, 1, 2, 4, 5, 6], .write .v, .read .v, .read .v, .none, 0xFF87F⟩
  | .vmin => ⟨[0, 1, 2, 4, 5, 6], .write .v, .read .v, .read .v, .none, 0xFF87F⟩
  | .vmax => ⟨[0, 1, 2, 4, 5, 6], .write .v, .read .v, .read .v, .none, 0xFF87F⟩
  | .vabs => ⟨[0, 1, 2], .write .v, .read .v, .none, .none, 0x1FFFF87F⟩
  | .vand => ⟨[0, 1, 2], .write .v, .read .v, .read .v, .none, 0xFF87F⟩
  | .vor => ⟨[0, 1, 2], .write .v, .read .v, .read .v, .none, 0xFF87F⟩
  | .vxor => ⟨[0, 1, 2], .write .v, .read .v, .read .v, .none, 0xFF87F⟩
  | .vandn => ⟨[0, 1, 2], .write .v, .read .v, .read .v, .none, 0xFF87F⟩
  | .vshl => ⟨[0, 1, 2], .write .v, .read .v, .read .v, .none, 0xFF87F⟩
  | .vshr => ⟨[0, 1, 2], .write .v, .read .v, .read .v, .none, 0xFF87F⟩
  | .vsra => ⟨[0, 1, 2], .write .v, .read .v, .read .v, .none, 0xFF87F⟩
  | .vshli => ⟨[0, 1, 2], .write .v, .read .v, .none, .none, 0x1FFFF860⟩
  | .vshri => ⟨[0, 1, 2], .write .v, .read .v, .none, .none, 0x1FFFF860⟩
  | .vsrai => ⟨[0, 1, 2], .write .v, .read .v, .none, .none, 0x1FFFF860⟩
  | .vclz => ⟨[0, 1, 2], .write .v, .read .v, .none, .none, 0x1FFFF87F⟩
  | .vpopc => ⟨[0, 1, 2], .write .v, .read .v, .none, .none, 0x1FFFF87F⟩
  | .vaddi => ⟨[0, 1, 2], .write .v, .read .v, .none, .none, 0x0⟩
  | .vli => ⟨[0, 1, 2], .write .v, .none, .none, .none, 0x3FE0000000⟩
  | .vfadd => ⟨[0, 1, 2], .write .v, .read .v, .read .v, .none, 0xFF878⟩
  | .vfsub => ⟨[0, 1, 2], .write .v, .read .v, .read .v, .none, 0xFF878⟩
  | .vfmul => ⟨[0, 1, 2], .write .v, .read .v, .read .v, .none, 0xFF878⟩
  | .vfma => ⟨[0, 1, 2], .write .v, .read .v, .read .v, .read .v, 0x78⟩
  | .vfms => ⟨[0, 1, 2], .write .v, .read .v, .read .v, .read .v, 0x78⟩
  | .vfnma => ⟨[0, 1, 2], .write .v, .read .v, .read .v, .read .v, 0x78⟩
  | .vfmin => ⟨[0, 1, 2], .write .v, .read .v, .read .v, .none, 0xFF87F⟩
  | .vfmax => ⟨[0, 1, 2], .write .v, .read .v, .read .v, .none, 0xFF87F⟩
  | .vfabs => ⟨[0, 1, 2], .write .v, .read .v, .none, .none, 0x1FFFF87F⟩
  | .vfneg => ⟨[0, 1, 2], .write .v, .read .v, .none, .none, 0x1FFFF87F⟩
  | .vfdiv => ⟨[0, 1, 2], .write .v, .read .v, .read .v, .none, 0xFF878⟩
  | .vfsqrt => ⟨[0, 1, 2], .write .v, .read .v, .none, .none, 0x1FFFF878⟩
  | .vfrcp => ⟨[0, 1, 2], .write .v, .read .v, .none, .none, 0x1FFFF878⟩
  | .vexp2 => ⟨[0, 1, 2], .write .v, .read .v, .none, .none, 0x1FFFF878⟩
  | .vlog2 => ⟨[0, 1, 2], .write .v, .read .v, .none, .none, 0x1FFFF878⟩
  | .vsin => ⟨[0, 1, 2], .write .v, .read .v, .none, .none, 0x1FFFF878⟩
  | .vcos => ⟨[0, 1, 2], .write .v, .read .v, .none, .none, 0x1FFFF878⟩
  | .vtanh => ⟨[0, 1, 2], .write .v, .read .v, .none, .none, 0x1FFFF878⟩
  | .vrsq => ⟨[0, 1, 2], .write .v, .read .v, .none, .none, 0x1FFFF878⟩
  | .vsig => ⟨[0, 1, 2], .write .v, .read .v, .none, .none, 0x1FFFF878⟩
  | .verf => ⟨[0, 1, 2], .write .v, .read .v, .none, .none, 0x1FFFF878⟩
  | .vcmp => ⟨[0, 1, 2, 4, 5, 6], .write .m, .read .v, .read .v, .none, 0xFF878⟩
  | .vfcmp => ⟨[0, 1, 2], .write .m, .read .v, .read .v, .none, 0xFF878⟩
  | .vsel => ⟨[0], .write .v, .read .v, .read .v, .read .m, 0x7FF⟩
  | .vmlog => ⟨[0], .write .m, .read .m, .read .m, .none, 0xFFFF0⟩
  | .vmtv => ⟨[0], .write .v, .read .m, .none, .none, 0x1FFFFFFF⟩
  | .vvtm => ⟨[0], .write .m, .read .v, .none, .none, 0x1FFFFFFF⟩
  | .viota => ⟨[0, 1, 2], .write .v, .read .m, .none, .none, 0x1FFFFFFF⟩
  | .vcvt => ⟨[0, 1, 2, 3, 4, 5, 6, 7, 8, 9, 10, 11, 12, 13, 14, 15], .write .v, .read .v, .read .v, .none, 0xFFFC0⟩
  | .vcvti => ⟨[0, 1, 2, 3, 4, 5, 6, 7, 8], .write .v, .read .v, .read .v, .none, 0xFFFC8⟩
  | .vcvtf => ⟨[0, 1, 2, 3, 4, 5, 6, 7, 8], .write .v, .read .v, .read .v, .none, 0xFFFC8⟩
  | .vsatn => ⟨[0, 1, 2, 3, 4], .write .v, .read .v, .read .v, .none, 0xFFFCF⟩
  | .vwiden => ⟨[0, 1, 2, 3, 4], .write .v, .read .v, .none, .none, 0x1FFFFFCF⟩
  | .vqbx => ⟨[0, 1, 2, 4, 5, 6, 8, 9, 10], .write .v, .read .v, .read .v, .none, 0xFFE00⟩
  | .vdqbx => ⟨[0, 1, 2, 4, 5, 6, 8, 9, 10], .write .v, .read .v, .read .v, .none, 0xFF800⟩
  | .vqs8 => ⟨[0, 1, 2, 4, 5, 6], .write .v, .read .v, .read .v, .none, 0xFFFC0⟩
  | .vdqs8 => ⟨[0, 1, 2], .write .v, .read .v, .read .v, .none, 0xFFE00⟩
  | .vperm => ⟨[0, 1, 2], .write .v, .read .v, .read .v, .read .v, 0x7FF⟩
  | .vpermi => ⟨[0, 1, 2], .write .v, .read .v, .none, .none, 0x1FFFFF80⟩
  | .vbcst => ⟨[0, 1, 2], .write .v, .read .v, .none, .none, 0x1FFFFF80⟩
  | .vsplat => ⟨[0, 1, 2], .write .v, .read .s, .none, .none, 0x1FFFFFFF⟩
  | .vshuf => ⟨[0, 1, 2], .write .v, .read .v, .none, .none, 0x1FFFFF00⟩
  | .vrotm => ⟨[0], .write .v, .read .v, .read .v, .read .s, 0x7FF⟩
  | .vzip => ⟨[0, 1, 2], .write .v, .read .v, .read .v, .none, 0xFFFFE⟩
  | .vunzip => ⟨[0, 1, 2], .write .v, .read .v, .read .v, .none, 0xFFFFE⟩
  | .vins => ⟨[0, 1, 2], .write .v, .read .v, .read .s, .none, 0xFFF80⟩
  | .vcompr => ⟨[0, 1, 2], .write .v, .read .v, .read .m, .none, 0xFFFFF⟩
  | .vexpd => ⟨[0, 1, 2], .write .v, .read .v, .read .m, .none, 0xFFFFF⟩
  | .vmov => ⟨[0, 1, 2], .write .v, .read .v, .none, .none, 0x1FFFF87F⟩
  | .vcxs => ⟨[0, 1, 2, 3, 4], .pair .v, .read .v, .read .v, .none, 0xFFF80⟩
  | .vradd => ⟨[0, 1, 2, 4, 5, 6], .write .s, .read .v, .none, .none, 0x1FFFF87F⟩
  | .vrfadd => ⟨[0, 1, 2], .write .s, .read .v, .none, .none, 0x1FFFF878⟩
  | .vrmax => ⟨[0, 1, 2, 4, 5, 6], .write .s, .read .v, .none, .none, 0x1FFFF87F⟩
  | .vrmin => ⟨[0, 1, 2, 4, 5, 6], .write .s, .read .v, .none, .none, 0x1FFFF87F⟩
  | .vrfmax => ⟨[0, 1, 2], .write .s, .read .v, .none, .none, 0x1FFFF87F⟩
  | .vrfmin => ⟨[0, 1, 2], .write .s, .read .v, .none, .none, 0x1FFFF87F⟩
  | .vscan => ⟨[0, 1, 2], .write .v, .read .v, .none, .none, 0x1FFFF87F⟩
  | .vfscan => ⟨[0, 1, 2], .write .v, .read .v, .none, .none, 0x1FFFF878⟩
  | .vdot => ⟨[0, 1, 2, 3], .write .v, .read .v, .read .v, .read .v, 0x7E⟩
  | .vfdot => ⟨[0, 1, 2, 3], .write .v, .read .v, .read .v, .read .v, 0x78⟩
  | .vdfrd => ⟨[0], .write .v, .read .s, .none, .none, 0x1FFFF800⟩
  | .vdfwr => ⟨[0], .none, .read .s, .read .v, .none, 0x7FC0000FF800⟩
  | .vluta => ⟨[0], .write .v, .read .v, .read .v, .read .x, 0x7C⟩
  | .vbina => ⟨[0], .none, .read .v, .read .v, .read .x, 0x7FC00000007C⟩
  | .tset => ⟨[0], .readWrite .t, .read .s, .read .s, .none, 0xFFFFF⟩
  | .tcpy => ⟨[0], .write .t, .read .t, .none, .none, 0x1FFFFFFF⟩
  | .tgetl => ⟨[0], .write .s, .read .t, .none, .none, 0x1FFFFFFF⟩
  | .tgeth => ⟨[0], .write .s, .read .t, .none, .none, 0x1FFFFFFF⟩
  | .tsto => ⟨[0], .readWrite .t, .read .s, .none, .none, 0x1FFFFFFF⟩
  | .tstoi => ⟨[0], .readWrite .t, .none, .none, .none, 0x3FFF800000⟩
  | .tgets => ⟨[0], .write .s, .read .t, .none, .none, 0x1FFFFFFF⟩
  | .tclr => ⟨[0], .write .t, .none, .none, .none, 0x3FFFFFFFFF⟩
  | .text => ⟨[0], .write .s, .read .t, .none, .none, 0x1FFFFFFC⟩
  | .tsext => ⟨[0], .readWrite .t, .read .t, .read .s, .none, 0xFFFFC⟩
  | .tsexti => ⟨[0], .readWrite .t, .read .t, .none, .none, 0x1C000000⟩
  | .trshp => ⟨[0], .readWrite .t, .read .t, .none, .none, 0x1FFFFFC0⟩
  | .ttrn => ⟨[0], .readWrite .t, .read .t, .none, .none, 0x1FFFFFC0⟩
  | .tcast => ⟨[0], .readWrite .t, .read .t, .none, .none, 0x1FFFFC00⟩
  | .tslc => ⟨[0], .readWrite .t, .read .t, .read .s, .read .s, 0x7C0⟩
  | .tslci => ⟨[0], .readWrite .t, .read .t, .none, .none, 0x0⟩
  | .tchk => ⟨[0], .none, .read .t, .read .t, .none, 0x7FC0000FFFFE⟩
  | .tbind => ⟨[0], .readWrite .t, .read .t, .named .a, .read .s, 0x7FF⟩
  | .tinfo => ⟨[0], .write .s, .read .t, .none, .none, 0x1FFFFFF0⟩
  | .mtw => ⟨[0], .none, .read .s, .none, .none, 0x7FC01FFFFFF0⟩
  | .mtwi => ⟨[0], .none, .none, .none, .none, 0x7FC100000000⟩
  | .mtr => ⟨[0], .write .s, .none, .none, .none, 0x3FFFFFFFF0⟩
  | .mgo => ⟨[0, 1, 2], .none, .read .t, .read .t, .read .t, 0x7FC000000000⟩
  | .mgoTm => ⟨[3], .none, .none, .none, .none, 0x7FFFFFFFFFFF⟩
  | .mstep => ⟨[0], .none, .read .t, .read .t, .read .s, 0x7FC0000007FF⟩
  | .mscl => ⟨[0], .none, .read .t, .read .v, .none, 0x7FC0000FFFFE⟩
  | .maclr => ⟨[0], .none, .read .t, .none, .none, 0x7FC01FFFFFFF⟩
  | .mard => ⟨[0], .write .v, .read .t, .read .s, .none, 0xFFFFF⟩
  | .mawr => ⟨[0], .none, .read .t, .read .v, .read .s, 0x7FC0000007FF⟩
  | .mepi => ⟨[0, 1, 2, 3], .readWrite .t, .read .t, .read .s, .read .t, 0x0⟩
  | .mepiq => ⟨[0, 1, 2, 3], .readWrite .t, .read .t, .read .s, .read .t, 0x3C0⟩
  | .mstz => ⟨[0], .none, .none, .none, .none, 0x7FFFFFFFFFFF⟩
  | .mmul => ⟨[0], .write .t, .read .t, .read .t, .read .t, 0x7C0⟩
  | .tfill => ⟨[0], .readWrite .t, .read .s, .none, .none, 0x1FFFFFC0⟩
  | .tcopy => ⟨[0], .readWrite .t, .read .t, .none, .none, 0x1FFFFFC0⟩
  | .tqbx => ⟨[0], .readWrite .t, .read .t, .none, .none, 0x1FFFFFC0⟩
  | .tdqbx => ⟨[0], .readWrite .t, .read .t, .none, .none, 0x1FFFFC00⟩
  | .tzb => ⟨[0], .readWrite .t, .read .t, .none, .none, 0x1FFFFFC0⟩
  | .tzx => ⟨[0], .readWrite .t, .read .t, .none, .none, 0x1FFFFFC0⟩
  | .twex => ⟨[0], .readWrite .t, .read .t, .read .s, .none, 0xFFFC0⟩
  | .ldb => ⟨[0], .write .s, .read .a, .none, .none, 0x0⟩
  | .ldbz => ⟨[0], .write .s, .read .a, .none, .none, 0x0⟩
  | .ldh => ⟨[0], .write .s, .read .a, .none, .none, 0x0⟩
  | .ldhz => ⟨[0], .write .s, .read .a, .none, .none, 0x0⟩
  | .ldw => ⟨[0], .write .s, .read .a, .none, .none, 0x0⟩
  | .ldwz => ⟨[0], .write .s, .read .a, .none, .none, 0x0⟩
  | .ldd => ⟨[0], .write .s, .read .a, .none, .none, 0x0⟩
  | .ldv => ⟨[0], .write .v, .read .a, .none, .none, 0x0⟩
  | .ldvx => ⟨[0], .write .v, .read .a, .read .s, .none, 0xFFFF8⟩
  | .ldg => ⟨[0, 1], .write .v, .read .a, .read .v, .none, 0xFF878⟩
  | .ldcap => ⟨[0], .write .a, .read .a, .none, .none, 0x0⟩
  | .ldt => ⟨[0], .readWrite .t, .read .a, .none, .none, 0x0⟩
  | .ldtx => ⟨[0], .readWrite .t, .read .a, .read .s, .none, 0xFFFF8⟩
  | .lds => ⟨[0, 1], .readWrite .v, .read .a, .none, .none, 0x0⟩
  | .ldsx => ⟨[0, 1], .readWrite .v, .read .a, .read .s, .read .s, 0x7FF⟩
  | .pop => ⟨[0], .write .v, .read .k, .none, .none, 0x1FFFFFFF⟩
  | .lbd => ⟨[0], .none, .read .a, .none, .none, 0x7FC000000030⟩
  | .lddx => ⟨[0], .write .s, .read .a, .read .s, .none, 0xFFFF8⟩
  | .ldwx => ⟨[0, 1], .write .s, .read .a, .read .s, .none, 0xFFFF8⟩
  | .ldbx => ⟨[0, 1], .write .s, .read .a, .read .s, .none, 0xFFFF8⟩
  | .ldhx => ⟨[0, 1], .write .s, .read .a, .read .s, .none, 0xFFFF8⟩
  | .ldvm => ⟨[0], .write .v, .read .a, .read .s, .none, 0xFFFC0⟩
  | .ldcx => ⟨[0], .write .a, .read .a, .read .s, .none, 0xFFFF8⟩
  | .stb => ⟨[0], .read .s, .read .a, .none, .none, 0x0⟩
  | .sth => ⟨[0], .read .s, .read .a, .none, .none, 0x0⟩
  | .stw => ⟨[0], .read .s, .read .a, .none, .none, 0x0⟩
  | .std => ⟨[0], .read .s, .read .a, .none, .none, 0x0⟩
  | .stv => ⟨[0], .read .v, .read .a, .none, .none, 0x0⟩
  | .stvx => ⟨[0], .none, .read .a, .read .s, .read .v, 0x7FC0000007F8⟩
  | .stvm => ⟨[0], .none, .read .a, .read .s, .read .v, 0x7FC0000007C0⟩
  | .sct => ⟨[0, 1], .none, .read .a, .read .v, .read .v, 0x7FC000000078⟩
  | .stcap => ⟨[0], .read .a, .read .a, .none, .none, 0x0⟩
  | .stt => ⟨[0], .read .t, .read .a, .none, .none, 0x0⟩
  | .sttx => ⟨[0], .none, .read .a, .read .s, .read .t, 0x7FC0000007F8⟩
  | .push => ⟨[0], .none, .read .k, .none, .read .v, 0x7FC01FF007FF⟩
  | .stbx => ⟨[0], .none, .read .a, .read .s, .read .s, 0x7FC0000007F8⟩
  | .sthx => ⟨[0], .none, .read .a, .read .s, .read .s, 0x7FC0000007F8⟩
  | .stwx => ⟨[0], .none, .read .a, .read .s, .read .s, 0x7FC0000007F8⟩
  | .stdx => ⟨[0], .none, .read .a, .read .s, .read .s, 0x7FC0000007F8⟩
  | .aadd => ⟨[0, 1], .write .s, .read .a, .read .s, .none, 0xFF800⟩
  | .amin => ⟨[0, 1], .write .s, .read .a, .read .s, .none, 0xFF800⟩
  | .amax => ⟨[0, 1], .write .s, .read .a, .read .s, .none, 0xFF800⟩
  | .aminu => ⟨[0, 1], .write .s, .read .a, .read .s, .none, 0xFF800⟩
  | .amaxu => ⟨[0, 1], .write .s, .read .a, .read .s, .none, 0xFF800⟩
  | .aand => ⟨[0, 1], .write .s, .read .a, .read .s, .none, 0xFF800⟩
  | .aor => ⟨[0, 1], .write .s, .read .a, .read .s, .none, 0xFF800⟩
  | .axor => ⟨[0, 1], .write .s, .read .a, .read .s, .none, 0xFF800⟩
  | .axch => ⟨[0, 1], .write .s, .read .a, .read .s, .none, 0xFF800⟩
  | .acas => ⟨[0, 1], .write .s, .read .a, .read .s, .read .s, 0x0⟩
  | .afadd => ⟨[0], .write .s, .read .a, .read .s, .none, 0xFF800⟩
  | .ctw => ⟨[0], .none, .read .s, .none, .none, 0x7FC01FFFFFF0⟩
  | .ctwi => ⟨[0], .none, .none, .none, .none, 0x7FC100000000⟩
  | .ctr => ⟨[0], .write .s, .none, .none, .none, 0x3FFFFFFFF0⟩
  | .cgomm => ⟨[0, 1, 2, 3, 4, 5, 6, 7], .read .a, .read .a, .read .a, .none, 0xFF80F⟩
  | .cgomd => ⟨[0, 1, 2, 3, 4, 5, 6, 7], .read .s, .read .a, .read .a, .none, 0xFF80F⟩
  | .cgome => ⟨[0, 1, 2, 3, 4, 5, 6, 7], .read .s, .read .a, .read .a, .none, 0xFF80F⟩
  | .cgoma => ⟨[0, 1, 2, 3, 4, 5, 6, 7], .read .s, .read .a, .read .a, .none, 0xFF808⟩
  | .cgomk => ⟨[0, 1, 2, 3, 4, 5, 6, 7], .read .k, .read .a, .read .a, .none, 0xFF80F⟩
  | .cgodm => ⟨[0, 1, 2, 3, 4, 5, 6, 7], .read .a, .read .s, .read .a, .none, 0xFF80F⟩
  | .cgodd => ⟨[0, 1, 2, 3, 4, 5, 6, 7], .read .s, .read .s, .read .a, .none, 0xFF80F⟩
  | .cgode => ⟨[0, 1, 2, 3, 4, 5, 6, 7], .read .s, .read .s, .read .a, .none, 0xFF80F⟩
  | .cgoda => ⟨[0, 1, 2, 3, 4, 5, 6, 7], .read .s, .read .s, .read .a, .none, 0xFF808⟩
  | .cgodk => ⟨[0, 1, 2, 3, 4, 5, 6, 7], .read .k, .read .s, .read .a, .none, 0xFF80F⟩
  | .cgoam => ⟨[0, 1, 2, 3, 4, 5, 6, 7], .read .a, .read .s, .read .a, .none, 0xFF80F⟩
  | .cgoad => ⟨[0, 1, 2, 3, 4, 5, 6, 7], .read .s, .read .s, .read .a, .none, 0xFF80F⟩
  | .cgoae => ⟨[0, 1, 2, 3, 4, 5, 6, 7], .read .s, .read .s, .read .a, .none, 0xFF80F⟩
  | .cgoaa => ⟨[0, 1, 2, 3, 4, 5, 6, 7], .read .s, .read .s, .read .a, .none, 0xFF808⟩
  | .cgoak => ⟨[0, 1, 2, 3, 4, 5, 6, 7], .read .k, .read .s, .read .a, .none, 0xFF80F⟩
  | .rkdef => ⟨[0], .none, .read .k, .read .s, .none, 0x7FC0000FFFFE⟩
  | .mopen => ⟨[0], .write .s, .read .a, .none, .none, 0x1FFFF83F⟩
  | .mpush => ⟨[0], .none, .read .v, .read .s, .none, 0x7FC0000FFFF0⟩
  | .mpushe => ⟨[0], .none, .read .v, .read .s, .none, 0x7FC0000FFFF0⟩
  | .mclose => ⟨[0], .none, .none, .none, .none, 0x7FFFFFFFFFFF⟩
  | .mstat => ⟨[0], .write .s, .none, .none, .none, 0x3FFFFFFFFF⟩
  | .pxlkp => ⟨[0], .none, .read .a, .none, .none, 0x7FC01FFFF83F⟩
  | .pxins => ⟨[0], .none, .read .a, .none, .none, 0x7FC01FFFF83F⟩
  | .pxfrk => ⟨[0], .none, .read .a, .none, .none, 0x7FC01FFFF83F⟩
  | .pxapp => ⟨[0], .none, .read .a, .none, .none, 0x7FC01FFFF83F⟩
  | .pxrel => ⟨[0], .none, .read .a, .none, .none, 0x7FC01FFFF83F⟩
  | .xroute => ⟨[0], .write .s, .read .a, .read .s, .read .v, 0x1F⟩
  | .take => ⟨[0], .pair .s, .none, .none, .none, 0x3FFFFFFFFF⟩
  | .launch => ⟨[0], .write .s, .read .a, .none, .none, 0x1FFFF81F⟩
  | .send => ⟨[0], .write .s, .read .t, .read .s, .read .s, 0x1F⟩
  | .recv => ⟨[0], .readWrite .t, .none, .read .s, .read .s, 0x3FE000001F⟩
  | .recva => ⟨[0], .readWrite .t, .none, .none, .read .s, 0x3FFFF0001F⟩
  | .coll => ⟨[0], .write .s, .read .a, .read .a, .read .a, 0x1F⟩
  | .sgrd => ⟨[0], .write .s, .read .a, .read .s, .read .s, 0x1F⟩
  | .rplack => ⟨[0], .none, .none, .none, .none, 0x7FFFFFFFF80F⟩
  | .bxfer => ⟨[0], .write .s, .read .a, .read .a, .read .s, 0x1F⟩
  | .wait => ⟨[0], .none, .none, .none, .none, 0x7FFFF800003F⟩
  | .waitPh => ⟨[1], .none, .read .s, .none, .none, 0x7FC01FFFF83F⟩
  | .waits => ⟨[0], .none, .none, .none, .none, 0x7FFFF800003F⟩
  | .post => ⟨[0], .none, .none, .none, .none, 0x7FFFF800003F⟩
  | .posts => ⟨[0], .none, .read .s, .none, .none, 0x7FC01FFFF83F⟩
  | .rpost => ⟨[0], .none, .read .s, .none, .none, 0x7FC01800003F⟩
  | .expt => ⟨[0], .none, .none, .none, .none, 0x7FFFF800003F⟩
  | .arv => ⟨[0], .none, .none, .none, .none, 0x7FFFFFFFFFFC⟩
  | .arvw => ⟨[0], .none, .none, .none, .none, 0x7FFFFFFFFFFC⟩
  | .bwait => ⟨[0], .none, .none, .none, .none, 0x7FFFFFFFFFFC⟩
  | .strag => ⟨[0], .pair .s, .none, .none, .none, 0x3FFFFFFFFC⟩
  | .gate => ⟨[0], .none, .none, .none, .none, 0x7FFFE00007FF⟩
  | .gateS => ⟨[1], .none, .read .s, .none, .none, 0x7FC01FFFFFFF⟩
  | .efence => ⟨[0, 1, 2, 3], .none, .none, .none, .none, 0x7FFFFFFFFFFF⟩
  | .ifence => ⟨[0], .none, .none, .none, .none, 0x7FFFFFFFFFFF⟩
  | .yield => ⟨[0], .none, .none, .none, .none, 0x7FFFFFFFFFFF⟩
  | .sleep => ⟨[0], .none, .none, .none, .none, 0x7FFFE00007FF⟩
  | .sleepS => ⟨[1], .none, .read .s, .none, .none, 0x7FC01FFFFFFF⟩
  | .frd => ⟨[0], .write .s, .none, .none, .none, 0x3FFFFFF83F⟩
  | .fclr => ⟨[0], .none, .none, .none, .none, 0x7FFFFFFFF83F⟩
  | .bphase => ⟨[0], .write .s, .none, .none, .none, 0x3FFFFFFFFC⟩
  | .waitm => ⟨[0], .none, .read .s, .none, .none, 0x7FC01FFFFFFE⟩

/-- The opcodes confined to VA or to VB (R319): whether one stands in the wrong slot. -/
def Op.wrongVector (k : Slot) : Op → Bool
  | .vfdiv => k == .va
  | .vfsqrt => k == .va
  | .vfrcp => k == .va
  | .vexp2 => k == .va
  | .vlog2 => k == .va
  | .vsin => k == .va
  | .vcos => k == .va
  | .vtanh => k == .va
  | .vrsq => k == .va
  | .vsig => k == .va
  | .verf => k == .va
  | .vdfrd => k == .vb
  | .vdfwr => k == .va
  | .vluta => k == .vb
  | .vbina => k == .va
  | _ => false

end Sys2Proof
end

