-- ==== Sys2Proof/Machine/Legal.lean ====
section
/-!
DEFINITION. The illegal-bundle rule: what each slot word names, its reserved fields and register
values, the two-writer and read-port rules over a bundle, and the trap value and slot mask of an
illegal bundle (R185, R191, R311 to R317, R357).
-/

namespace Sys2Proof.Machine

/-- The number of registers of a class (R187). -/
def Cls.count : Cls → Nat
  | .s => 64
  | .a => 32
  | .v => 384
  | .x => 8
  | .t => 32
  | .d => 16
  | .p => 8
  | .m => 8
  | .k => 8

/-- The classes whose source positions take latches (R312). -/
def Cls.latched : Cls → Bool
  | .s | .a | .v => true
  | _ => false

/-- Whether a source field value is permitted (R312). -/
def srcOk (c : Cls) (f : Nat) : Bool :=
  f < c.count || (c.latched && 384 ≤ f && f < 400) || (c == .v && 400 ≤ f && f < 408)

/-- Whether a destination field value is permitted (R312). -/
def dstOk (c : Cls) (f : Nat) : Bool := f < c.count || (c == .v && 400 ≤ f && f < 408)

end Sys2Proof.Machine

namespace Sys2Proof

open Machine

/-- Source and destination width of a conversion by its listed FMTs (R370). -/
def Op.convWidths : Op → Option (List (Nat × Nat))
  | .vcvt => some [(32, 16), (32, 16), (32, 8), (32, 8), (16, 32), (16, 32), (8, 32), (8, 32),
      (16, 16), (16, 16), (16, 8), (16, 8), (16, 8), (16, 8), (8, 16), (8, 16)]
  | .vcvti => some [(32, 32), (16, 16), (16, 16), (32, 16), (32, 8), (32, 8), (16, 8), (16, 8),
      (16, 8)]
  | .vcvtf => some [(32, 32), (16, 16), (16, 16), (16, 32), (8, 32), (8, 32), (8, 16), (8, 16),
      (8, 16)]
  | .vsatn => some [(32, 16), (32, 8), (32, 8), (16, 8), (16, 8)]
  | .vwiden => some [(16, 32), (8, 32), (8, 32), (8, 16), (8, 16)]
  | _ => none

/-- Whether a conversion's rounding field is reserved, its every result being exact (R369, R370). -/
def Op.convExact : Op → Nat → Bool
  | .vcvt, f => [4, 5, 6, 7, 14, 15].contains f
  | .vcvtf, f => 3 ≤ f && f ≤ 8
  | .vsatn, _ | .vwiden, _ => true
  | _, _ => false

end Sys2Proof

namespace Sys2Proof.Machine

/-- The system-register numbers that hold words, and those that hold capabilities (R358). -/
def plainSys (n : Nat) : Bool :=
  n ≤ 0x13 || (0x18 ≤ n && n ≤ 0x1F) || (0x20 ≤ n && n ≤ 0x2B)

/-- The capability system registers (R358). -/
def capSys (n : Nat) : Bool := n == 0x30 || n == 0x31 || n == 0x32

/-- The variant of a slot word (R308). -/
def fmtOf (w : Word) : Nat := fld w 52 4

end Sys2Proof.Machine

namespace Sys2Proof

open Machine

/-- Whether SB is a source of the word (R369, R401, R424). -/
def Op.sbUsed (i : Op) (w : Word) : Bool :=
  match i with
  | .mscl => fld w 0 1 = 1
  | .cgomm | .cgomd | .cgome | .cgoma | .cgomk | .cgodm | .cgodd
  | .cgode | .cgoda | .cgodk | .cgoam | .cgoad | .cgoae | .cgoaa
  | .cgoak => fld w 4 1 = 1
  | _ =>
    match i.convWidths with
    | some l => let (ws, wd) := l.getD (fmtOf w) (1, 0); wd < ws
    | none => true

/-- Whether SC is a source of the word (R383). -/
def Op.scUsed (i : Op) (w : Word) : Bool :=
  match i with
  | .mepi | .mepiq => fld w 10 1 = 1
  | _ => true

end Sys2Proof

namespace Sys2Proof.Machine

/-- Lane count by the permutes' FMT (R373). -/
def permLanes (f : Nat) : Nat := if f = 0 then 32 else if f = 1 then 64 else 128

end Sys2Proof.Machine

namespace Sys2Proof

open Machine

/-- Whether the word holds a modifier that its instruction calls reserved or out of range; of an unlisted
FMT, in every variant alike (R317). Rules:
(R348, R355, R357, R360, R364, R368, R369, R372 to R374, R382, R385, R396, R417, R429). (DEDUCED, log 61.) -/
def Op.badField (i : Op) (w : Word) : Bool :=
  let m3 := fld w 0 3
  match i with
  | .fcvt => 4 < m3
  | .vfadd | .vfsub | .vfmul | .vfma | .vfms | .vfnma
  | .vfdiv | .vfsqrt | .vfrcp | .vexp2 | .vlog2 | .vsin
  | .vcos | .vtanh | .vrsq | .vsig | .verf | .vrfadd
  | .vfscan | .vfdot => 4 < m3
  | .tcast | .tdqbx | .mepi => 4 < fld w 6 3
  | .vdqbx => 4 < fld w 7 3
  | .vcmp => 5 < m3
  | .vfcmp => 4 < m3
  | .vpermi | .vbcst | .vins => permLanes (fmtOf w) ≤ fld w 0 7
  | .vcxs => (if fmtOf w < 3 then 5 else 6) ≤ m3
  | .vqs8 => fmtOf w < 3 && 3 < fld w 0 6
  | .vcvt | .vcvti | .vcvtf | .vsatn | .vwiden =>
    match (i.convWidths.getD [])[fmtOf w]? with
    | some (ws, wd) =>
      let r := if wd < ws then ws / wd else wd / ws
      r ≤ fld w 4 2 || (if i.convExact (fmtOf w) then fld w 0 4 ≠ 0 else 4 < m3)
    | none => i ≠ .vcvtf && (if i.convExact (fmtOf w) then fld w 0 4 ≠ 0 else 4 < m3)
  | .cchk => 4 < fld w 8 3
  | .tinfo => 7 < fld w 0 4
  | .mgo => (fmtOf w = 0 || fmtOf w = 2) && fld w 6 5 ≠ 0
  | .lbd => 64 < fld w 22 7
  | .mpush => fld w 0 4 = 0 || 8 < fld w 0 4
  | .mpushe => 8 < fld w 0 4
  | .mfsr | .mtsr => !plainSys (fld w 0 12)
  | .mfsrc | .mtsrc => !capSys (fld w 0 12)
  | _ => false

end Sys2Proof

namespace Sys2Proof.Machine

/-- What a slot word names, and whether a reserved field is non-zero (reason 4) or a register field
holds a reserved value (reason 5). Rows are named by their index registers. -/
structure Named where
  reads : List (Cls × Nat)
  writes : List (Cls × Nat)
  rowSrc : List Nat
  rowDst : List Nat
  index : List Nat
  resv : Bool
  badReg : Bool
  deriving DecidableEq, Repr

end Sys2Proof.Machine

namespace Sys2Proof

open Machine

/-- The source positions of a word: class and field, as used (R311, R312). (DEDUCED, log 55.) -/
def Op.sources (i : Op) (w : Word) : List (Cls × Nat) :=
  let d := i.desc
  let one (u : SrcUse) (f : Nat) : List (Cls × Nat) :=
    match u with
    | .read c => [(c, f)]
    | _ => []
  let d0 := match d.dst with
    | .read c | .readWrite c => [(c, fld w 38 9)]
    | _ => []
  let areg := match i with
    | .mgo => if fmtOf w = 1 then [(Cls.a, fld w 6 5)] else []
    | _ => []
  d0 ++ one d.sa (fld w 29 9) ++ (if i.sbUsed w then one d.sb (fld w 20 9) else []) ++
    (if i.scUsed w then one d.sc (fld w 11 9) else []) ++ areg

/-- The registers a word writes with W = 1, rows by index register apart (R311, R314). -/
def Op.dests (i : Op) (w : Word) : List (Cls × Nat) :=
  if w.getLsbD 51 then
    match i.desc.dst with
    | .write c | .readWrite c => [(c, fld w 38 9)]
    | .pair c =>
      let n := fld w 38 9
      if n % 2 = 1 || c.count ≤ n then [] else [(c, n), (c, n + 1)]
    | _ => []
  else []

/-- The reserved bits of a word: where an opcode's variants differ in their fields, an FMT that is none of them
reserves what all of them do (R311, R317). (DEDUCED, log 61.) -/
def Op.reserved (i : Op) (w : Word) : Nat :=
  let both (j : Op) : Nat := if i.desc.fmts.contains (fmtOf w) then i.desc.resv else i.desc.resv &&& j.desc.resv
  match i with
  | .wait => both .waitPh
  | .gate => both .gateS
  | .sleep => both .sleepS
  | .cclr => both .cclrMk
  | i => i.desc.resv

/-- What a word names. -/
def Op.named (i : Op) (w : Word) : Named :=
  let d := i.desc
  let src := i.sources w
  let dst := i.dests w
  let df := fld w 38 9
  let wants := match d.dst with
    | .write _ | .readWrite _ | .pair _ => true
    | _ => false
  let dBad := match d.dst with
    | .write c | .readWrite c => !dstOk c df
    | .pair c => df % 2 = 1 || c.count ≤ df
    | _ => false
  let readsDst := match d.dst with
    | .readWrite _ => true
    | _ => false
  let nBad := match d.sb with
    | .named c => decide (c.count ≤ fld w 20 9)
    | _ => false
  { reads := src.filter (fun p => p.2 < p.1.count)
    writes := dst.filter (fun p => p.2 < p.1.count)
    rowSrc := (src.filter (fun p => p.1 == .v && 400 ≤ p.2 && p.2 < 408)).map (fun p => p.2 - 400)
    rowDst := (dst.filter (fun p => p.1 == .v && 400 ≤ p.2 && p.2 < 408)).map (fun p => p.2 - 400)
    index := ((src ++ dst).filter (fun p => p.1 == .v && 400 ≤ p.2 && p.2 < 408)).map (fun p => p.2 - 400) ++
      (src.filter (fun p => p.1 == .x && p.2 < 8)).map (fun p => p.2)
    resv := (w.toNat &&& i.reserved w) ≠ 0 || (!wants && w.getLsbD 51) ||
      (wants && !w.getLsbD 51 && df ≠ 0) || (!i.sbUsed w && fld w 20 9 ≠ 0) ||
      (!i.scUsed w && fld w 11 9 ≠ 0) || i.badField w
    badReg := dBad || nBad ||
      (src.drop (if readsDst then 1 else 0)).any (fun p => !srcOk p.1 p.2) }

/-- Whether the word's opcode is not permitted where it stands (R313): a variant its opcode does
not list, or the wrong vector slot. -/
def Op.illegalOp (i : Op) (k : Slot) (w : Word) : Bool :=
  !i.desc.fmts.contains (fmtOf w) || i.wrongVector k

end Sys2Proof

namespace Sys2Proof.Machine

/-- A slot of a bundle under the rule: its number, its word, and its instruction. -/
structure SlotWord where
  k : Slot
  w : Word
  i : Except DecodeError Op

/-- What a slot names; nothing where it holds no instruction. -/
def SlotWord.named (x : SlotWord) : Named :=
  match x.i with
  | .ok i => i.named x.w
  | .error (.nopBits _) => ⟨[], [], [], [], [], true, false⟩
  | .error (.unassigned _ _) => ⟨[], [], [], [], [], false, false⟩

/-- Whether a slot holds an unassigned point (R317). (DEDUCED, log 50.) -/
def SlotWord.unassigned (x : SlotWord) : Bool :=
  match x.i with
  | .error (.unassigned _ _) => true
  | _ => false

/-- The distinct elements of a list. -/
def distinct {α : Type} [DecidableEq α] : List α → List α
  | [] => []
  | x :: t => if x ∈ t then distinct t else x :: distinct t

/-- The read-port limits of R185: the kinds of operand and how many a bundle may name. -/
def portLimits : List ((Named → List Nat) × Nat) :=
  let regs (c : Cls) (n : Named) := (n.reads.filter (fun p => p.1 == c)).map (fun p => p.2)
  [(regs .v, 8), (fun n => (regs .s n).filter (fun r => r ≠ 0), 8), (regs .a, 3),
    (fun n => n.rowSrc, 2), (fun n => n.rowDst, 1), (regs .t, 4)]

/-- The slots that take part in each of the six reasons of R313, given the dimension variables that slots bind (R212,
R314) and the index registers. -/
def reasonSlots (bound : List (Slot × Nat)) (x : Nat → BitVec 32) (b : List SlotWord) (r : Nat) : List Slot :=
  let n := b.map (fun s => (s.k, s.named))
  match r with
  | 1 => (n.filter (fun p => p.2.writes.any (fun d =>
      n.any (fun q => q.1 ≠ p.1 && q.2.writes.contains d) || (d.1 = .d && bound.any (fun q => q.2 = d.2))) ||
      bound.any (fun q => q.1 = p.1 && n.any (fun o => o.2.writes.contains (.d, q.2))))).map (fun p => p.1)
  | 2 => (n.filter (fun p => portLimits.any (fun l =>
      l.1 p.2 ≠ [] && l.2 < (distinct (n.flatMap (fun q => l.1 q.2))).length))).map (fun p => p.1)
  | 3 => (b.filter (fun s => s.unassigned)).map (fun s => s.k)
  | 4 => (n.filter (fun p => p.2.resv)).map (fun p => p.1)
  | 5 => (n.filter (fun p => p.2.badReg)).map (fun p => p.1)
  | 6 => (n.filter (fun p => p.2.index.any (fun i => (x i).extractLsb' 11 9 ≠ 0))).map (fun p => p.1)
  | _ => []

/-- XMASK of a list of slots (R291). -/
def slotMask (l : List Slot) : BitVec 8 :=
  l.foldl (fun m k => m ||| (1#8 <<< k.num)) 0

/-- The illegal-bundle rule (R313), given the dimension variables that slots bind: the cause, trap value and slot mask,
or none. -/
def illegalWith (bound : List (Slot × Nat)) (x : Nat → BitVec 32) (b : List SlotWord) : Option (Cause × Word × BitVec 8) :=
  let rs := [1, 2, 3, 4, 5, 6].map (fun r => (r, reasonSlots bound x b r))
  match rs.find? (fun p => p.2 ≠ []) with
  | some (r, _) => some (.illegalBundle, BitVec.ofNat 64 r, slotMask (rs.flatMap (fun p => p.2)))
  | none =>
    let bad := b.filter (fun s => match s.i with
      | .ok i => i.illegalOp s.k s.w
      | .error _ => false)
    match bad with
    | [] => none
    | s :: _ => some (.illegalOpcode,
        BitVec.ofNat 64 ((opOf s.w).toNat + 256 * fmtOf s.w + 4096 * s.k.num), slotMask (bad.map (·.k)))

/-- The rule on a bundle that binds no dimension variable. (DEDUCED, log 50.) -/
def illegal (x : Nat → BitVec 32) (b : List SlotWord) : Option (Cause × Word × BitVec 8) := illegalWith [] x b

/-- The eight slots of a bundle with their opcodes. -/
def slotWords (b : Bundle) : List SlotWord := slots.map (fun k => ⟨k, b.word k.num, findOp k (b.word k.num)⟩)

end Sys2Proof.Machine

namespace Sys2Proof

open Machine

/-- The slot of an instruction alone in its bundle; none for an event. -/
def Instr.alone (i : Instr) : List SlotWord :=
  match encodeWord i with
  | some (k, w) => [⟨k, w, findOp k w⟩]
  | none => []

/-- Whether an instruction alone in a bundle passes R313, whatever the index registers. -/
def Instr.legal (i : Instr) : Bool := (illegal (fun _ => 0) i.alone).isNone

end Sys2Proof
end

