-- ==== Sys2Proof/Machine/Crypto.lean ====
section
/-!
DEFINITION. The two standards of cryptography whose results the machine's state holds: SHA-256 (R18, R28; FIPS 180-4) and
AES-256-XTS (R121; FIPS 197, IEEE 1619). The manual cites them and does not restate them; log 62.
-/

namespace Sys2Proof.Machine

/-- The first words of SHA-256's state. -/
def shaInit : List (BitVec 32) :=
  [0x6A09E667, 0xBB67AE85, 0x3C6EF372, 0xA54FF53A,
    0x510E527F, 0x9B05688C, 0x1F83D9AB, 0x5BE0CD19]

/-- SHA-256's round constants. -/
def shaRound : List (BitVec 32) :=
  [0x428A2F98, 0x71374491, 0xB5C0FBCF, 0xE9B5DBA5, 0x3956C25B, 0x59F111F1, 0x923F82A4, 0xAB1C5ED5,
    0xD807AA98, 0x12835B01, 0x243185BE, 0x550C7DC3, 0x72BE5D74, 0x80DEB1FE, 0x9BDC06A7, 0xC19BF174] ++
  [0xE49B69C1, 0xEFBE4786, 0x0FC19DC6, 0x240CA1CC, 0x2DE92C6F, 0x4A7484AA, 0x5CB0A9DC, 0x76F988DA,
    0x983E5152, 0xA831C66D, 0xB00327C8, 0xBF597FC7, 0xC6E00BF3, 0xD5A79147, 0x06CA6351, 0x14292967] ++
  [0x27B70A85, 0x2E1B2138, 0x4D2C6DFC, 0x53380D13, 0x650A7354, 0x766A0ABB, 0x81C2C92E, 0x92722C85,
    0xA2BFE8A1, 0xA81A664B, 0xC24B8B70, 0xC76C51A3, 0xD192E819, 0xD6990624, 0xF40E3585, 0x106AA070] ++
  [0x19A4C116, 0x1E376C08, 0x2748774C, 0x34B0BCB5, 0x391C0CB3, 0x4ED8AA4A, 0x5B9CCA4F, 0x682E6FF3,
    0x748F82EE, 0x78A5636F, 0x84C87814, 0x8CC70208, 0x90BEFFFA, 0xA4506CEB, 0xBEF9A3F7, 0xC67178F2]

/-- The next word of a block's schedule, from the words so far, newest first. -/
def shaNext (ws : List (BitVec 32)) : BitVec 32 :=
  let a := ws.getD 14 0
  let b := ws.getD 1 0
  (b.rotateRight 17 ^^^ b.rotateRight 19 ^^^ b >>> 10) + ws.getD 6 0 +
    (a.rotateRight 7 ^^^ a.rotateRight 18 ^^^ a >>> 3) + ws.getD 15 0

/-- One round over the eight words. -/
def shaStep (h : List (BitVec 32)) (kw : BitVec 32) : List (BitVec 32) :=
  match h with
  | [a, b, c, d, e, f, g, h] =>
    let t := h + (e.rotateRight 6 ^^^ e.rotateRight 11 ^^^ e.rotateRight 25) + (e &&& f ^^^ ~~~e &&& g) + kw
    let u := (a.rotateRight 2 ^^^ a.rotateRight 13 ^^^ a.rotateRight 22) + (a &&& b ^^^ a &&& c ^^^ b &&& c)
    [t + u, a, b, c, d + t, e, f, g]
  | _ => h

/-- A number from its bytes, the first the highest. -/
def ofBytesBig (l : List Byte) : Nat := ofBytes l.reverse

/-- One block of 64 bytes. -/
def shaBlock (h : List (BitVec 32)) (b : List Byte) : List (BitVec 32) :=
  let w := (List.range 16).map (fun i => BitVec.ofNat 32 (ofBytesBig ((b.drop (4 * i)).take 4)))
  let ws := ((List.range 48).foldl (fun l _ => shaNext l :: l) w.reverse).reverse
  List.zipWith (· + ·) h ((List.zipWith (· + ·) shaRound ws).foldl shaStep h)

/-- SHA-256 of a string of bytes (R18, R28): byte `i` of the digest is bits 8i+7 to 8i of the number.
(PRESUMED, log 62.) -/
def sha256 (m : List Byte) : BitVec 256 :=
  let pad := (119 - m.length % 64) % 64
  let b := m ++ [0x80] ++ List.replicate pad 0 ++ (bytesOf 8 (8 * m.length)).reverse
  let h := (List.range (b.length / 64)).foldl (fun h i => shaBlock h ((b.drop (64 * i)).take 64)) shaInit
  BitVec.ofNat 256 (ofBytes (h.flatMap (fun w => (bytesOf 4 w.toNat).reverse)))

/-- Multiplication by x in the field of AES. -/
def timesX (b : Byte) : Byte := b <<< 1 ^^^ (if b.getLsbD 7 then 0x1B else 0)
/-- The product in the field of AES. -/
def gmul (a b : Byte) : Byte :=
  ((List.range 8).foldl (fun (p : Byte × Byte) i => (if b.getLsbD i then p.1 ^^^ p.2 else p.1, timesX p.2)) (0, a)).1
/-- The inverse in the field of AES, of 0 it is 0: the 254th power. -/
def ginv (a : Byte) : Byte :=
  ((List.range 7).foldl (fun (p : Byte × Byte) _ => let s := gmul p.2 p.2; (gmul p.1 s, s)) (1, a)).1

/-- The substitution of AES, and its inverse. -/
def aesSub (b : Byte) : Byte :=
  let v := ginv b
  v ^^^ v.rotateLeft 1 ^^^ v.rotateLeft 2 ^^^ v.rotateLeft 3 ^^^ v.rotateLeft 4 ^^^ 0x63
@[inherit_doc aesSub] def aesUnsub (b : Byte) : Byte := ginv (b.rotateLeft 1 ^^^ b.rotateLeft 3 ^^^ b.rotateLeft 6 ^^^ 0x05)

/-- Bytes of two strings added. -/
def xorBytes (a b : List Byte) : List Byte := List.zipWith (· ^^^ ·) a b

/-- The rows of a block rotated by `n` times their number. -/
def aesRows (n : Nat) (b : List Byte) : List Byte :=
  (List.range 16).map (fun i => b.getD (i % 4 + 4 * ((i / 4 + n * (i % 4)) % 4)) 0)

/-- The columns of a block times a polynomial. -/
def aesColumns (p : List Byte) (b : List Byte) : List Byte :=
  (List.range 16).map (fun i => (List.range 4).foldl (fun a k => a ^^^ gmul (p.getD ((k + 4 - i % 4) % 4) 0) (b.getD (k + i / 4 * 4) 0)) 0)

/-- The next word of the key schedule of AES-256, from the words so far, newest first. -/
def aesNext (ws : List (List Byte)) : List Byte :=
  let n := ws.length
  let t := ws.headD []
  let r := (List.range (n / 8 - 1)).foldl (fun c _ => timesX c) 1
  let t := if n % 8 = 0 then xorBytes ((t.tail ++ t.take 1).map aesSub) [r, 0, 0, 0] else if n % 8 = 4 then t.map aesSub else t
  xorBytes (ws.getD 7 []) t

/-- The 15 round keys of a 32-byte key. -/
def aesKeys (key : List Byte) : List (List Byte) :=
  let w := (List.range 8).map (fun i => (key.drop (4 * i)).take 4)
  let b := ((List.range 52).foldl (fun l _ => aesNext l :: l) w.reverse).reverse.flatten
  (List.range 15).map (fun i => (b.drop (16 * i)).take 16)

/-- AES-256 of a block under its round keys. (PRESUMED, log 62.) -/
def aesEncrypt (ks : List (List Byte)) (b : List Byte) : List Byte :=
  let b := (List.range 13).foldl (fun b i =>
    xorBytes (aesColumns [2, 3, 1, 1] (aesRows 1 (b.map aesSub))) (ks.getD (i + 1) [])) (xorBytes b (ks.getD 0 []))
  xorBytes (aesRows 1 (b.map aesSub)) (ks.getD 14 [])

/-- The block that AES-256 encrypts to `b`. -/
def aesDecrypt (ks : List (List Byte)) (b : List Byte) : List Byte :=
  let b := (List.range 13).foldl (fun b i =>
    aesColumns [14, 11, 13, 9] (xorBytes ((aesRows 3 b).map aesUnsub) (ks.getD (13 - i) []))) (xorBytes b (ks.getD 14 []))
  xorBytes ((aesRows 3 b).map aesUnsub) (ks.getD 0 [])

/-- The next block's tweak: times x in the field of 128 bits. -/
def xtsNext (t : BitVec 128) : BitVec 128 := t <<< 1 ^^^ (if t.getLsbD 127 then 0x87 else 0)

/-- The four blocks of a line under AES-256-XTS (R121): `f` runs AES under the data key, `line` is the physical address
over 64, and a pair is the data key above the tweak key, byte `i` of a key in bits 8i+7 to 8i. (PRESUMED, log 62.) -/
def xtsBlocks (f : List (List Byte) → List Byte → List Byte) (pair : BitVec 512) (line : Nat) (bs : List Byte) : List Byte :=
  let dk := aesKeys (bytesOf 32 (pair.toNat / 2 ^ 256))
  let t0 := BitVec.ofNat 128 (ofBytes (aesEncrypt (aesKeys (bytesOf 32 (pair.toNat % 2 ^ 256))) (bytesOf 16 line)))
  (List.range 4).flatMap (fun j =>
    let t := bytesOf 16 ((List.range j).foldl (fun t _ => xtsNext t) t0).toNat
    xorBytes (f dk (xorBytes ((bs.drop (16 * j)).take 16) t)) t)

/-- A line as stored under a key pair, and what a stored line decrypts to (R121). -/
def xtsStored (pair : BitVec 512) (line : Nat) (bs : List Byte) : List Byte := xtsBlocks aesEncrypt pair line bs
@[inherit_doc xtsStored] def xtsPlain (pair : BitVec 512) (line : Nat) (bs : List Byte) : List Byte := xtsBlocks aesDecrypt pair line bs

end Sys2Proof.Machine
end

