-- ==== Sys2Proof/Config.lean ====
section
/-!
DEFINITION. What an implementation fixes and what the manual leaves open: constants with no body,
so that no proof can see a value of them. Free values are applied to a counter of the state, or to
the operands they depend on.
-/

namespace Sys2Proof.Config

/-- The fused speed-table entry of a core (R18). (PRESUMED, log 11.) -/
opaque speedEntry : Nat → BitVec 16
/-- The digest fused beside the speed table (R18). -/
opaque speedDigest : BitVec 256
/-- The four fused digests of root public keys and their revocation bits (R29). -/
opaque rootDigest : Nat → BitVec 256
opaque revoked : BitVec 4
/-- The thermometer fuses as manufactured (R29). -/
opaque thermoFuses : BitVec 64
/-- The fused unique secret (R31) and the part number and module serial (R32). -/
opaque uniqueSecret : BitVec 256
opaque partSerial : BitVec 128
/-- The identity certificate signed at manufacture (R31). (PRESUMED, log 11.) -/
opaque certificate : List Byte
/-- SLH-DSA-SHA2-256s verification of a signature over bytes with a public key, and the 29,792-byte signature of bytes
with the identity key that a unique secret gives (R28, R31, R32): a standard the manual cites and does not restate.
(PRESUMED, log 11.) -/
opaque slhVerify : List Byte → List Byte → List Byte → Bool
opaque slhSign : BitVec 256 → List Byte → BitVec 238336
/-- The signed bytes of a manifest (R28), whose layout the manual does not give: the digests of its images, its security
version, the next signer's key and the command key. (DESIGN CHOICE, log 10.) -/
opaque manifestBytes : List (BitVec 256) → BitVec 32 → List Byte → List Byte → List Byte
/-- The number of a command in its header, and its body from its arguments (R79, R80), which the manual does not
give: 0 freeze, 1 read-out, 2 power limit, 3 image replacement, 4 enrolment, 5 register read, 6 telemetry,
7 certificate, 8 attestation. (DESIGN CHOICE, log 16.) -/
opaque mgmtCode : Nat → Byte
opaque mgmtBody : Nat → List (List Byte) → List Byte
/-- What a block holds of an entry or a command in the read-out, where R27 gives no layout: the numbers that make
the entry, its words. (DESIGN CHOICE, log 17.) -/
opaque heldImage : List Nat → List Word
/-- The destination-class and access-kind codes of a snapshot or replay record (R27), which the manual does not
number. (DESIGN CHOICE, log 17.) -/
opaque classCode : Nat → Nat
/-- The length field of a section whose payload has 2^32 bytes or more (R27). (DESIGN CHOICE, log 17.) -/
opaque longLength : Nat → BitVec 32
/-- Whether a line that something has touched stands in its home slice, and in which state, at a TICK (R27): the manual
gives the slices no rule of replacement. (DESIGN CHOICE, log 17.) -/
opaque sliceHolds : Nat → Nat → Bool
opaque sliceState : Nat → Nat → BitVec 2
/-- The fresh random key pair of slot 0 at the n-th draw (R123). (DESIGN CHOICE, log 8.) -/
opaque freshKey : Nat → BitVec 512
/-- The Reed–Solomon parity of a flit's first 212 bytes, 12 bytes, and what correction makes of a flit that it cannot
correct (R33, R35): the manual gives the code's size, not its field or its roots. (PRESUMED, log 11.) -/
opaque rsParity : List Byte → BitVec 96
opaque rsWild : List Byte → List Byte
/-- The message-kind codes of R36, which the manual does not number. (DESIGN CHOICE, log 20.) -/
opaque kindCode : MsgKind → Byte
opaque kindOf : Byte → MsgKind
/-- A number drawn at random or left open by the manual, by draw number: backoff times (R158),
retry delays (R55), evictions (R110). (DESIGN CHOICE, log 8.) -/
opaque freeNat : Nat → Nat
/-- A byte the manual leaves undefined, by draw number (R270). (DESIGN CHOICE, log 8.) -/
opaque freeByte : Nat → Byte
/-- Whether a read of a register sees a result that is in flight across a block or a trap (R184),
by draw number. (DESIGN CHOICE, log 8; DESIGN CHOICE, log 38.) -/
opaque seesNew : Nat → Bool
/-- Whether an edge fetch without IFENCE returns the old content of a bundle (R199).
(DESIGN CHOICE, log 8; DESIGN CHOICE, log 39.) -/
opaque fetchOld : Nat → Bool
/-- A decoded picture: its size in luma samples, its bit depth, the corner and size of its conformance window or its
render size (R82), whether film grain parameters were present, and its rows of luma and of interleaved chroma samples. -/
structure Picture where
  width : Nat
  height : Nat
  depth : Nat
  cropX : Nat
  cropY : Nat
  cropW : Nat
  cropH : Nat
  grain : Bool
  luma : List (List Nat)
  chroma : List (List Nat)
  deriving DecidableEq, Repr

/-- A unit of a bitstream as the decoder finds it (R81, R86, R87): what its stream declares (the profile's number in its
standard, the chroma format with 0 for monochrome and 1 for 4:2:0, ten times the level, the bit depth, whether the
picture size keeps the level's limits, the input form is that of R81, and no tool that R81 leaves out is used), whether
it keeps to its standard and lies whole within the input, the error detail, the pictures that it brings, each with its
place in output order, how many of the pictures then held come free for output, and the decoder's state after it. -/
structure StreamUnit where
  profile : Nat
  chromaFormat : Nat
  level : Nat
  depth : Nat
  sizeOk : Bool
  formOk : Bool
  plain : Bool
  legal : Bool
  whole : Bool
  detail : BitVec 16
  pics : List (Nat × Picture)
  bumps : Nat
  after : Nat
  deriving DecidableEq, Repr

/-- The video decoder (R81, R87), by standards the manual cites: given the codec, the number that stands for the
session's state, and the input bytes, the units found. (PRESUMED, log 11.) -/
opaque vdeUnits : Nat → Nat → List Byte → List StreamUnit
/-- The number that stands for a session's state once a flush has taken every held picture from it (R87), given the codec
and the number before. (PRESUMED, log 11.) -/
opaque vdeFlushed : Nat → Nat → Nat
/-- An element of an all-gather, or of a broadcast whose root has several contributors (R58, R62), whose values the
manual does not state: given INFMT, OUTFMT and SAT, the root, the members' contributions in member order, and the
element's number, its bits before they are cut to OUTFMT. (DEDUCED, log 22.) -/
opaque collOther : Nat × Nat × Bool → Nat → List (Nat × List (List Byte)) → Nat → BitVec 32

/-- Whether another module of a group joins a level-5 barrier instance (R168): given the tick, the module, TASKID and
the barrier's number, whether contexts of such a task there have it at level 5. (DEDUCED, log 46.) -/
opaque joins : Nat → Nat → Nat → Nat → Bool

end Sys2Proof.Config
end

