-- ==== Sys2Proof/Machine/ModTypes.lean ====
section
/-!
DEFINITION. The types of the state of what the cores share: memory and translation (05), the
device rings and the translation channel (03), links and collectives (02), media and storage (04),
the prefix index (06), tasks, placement, barriers and expert groups (07), merge sessions (11), and
the Oarov controller (01, 03).
-/

namespace Sys2Proof.Machine

/-- A resolved object-table entry (R103). -/
structure ObjEntry where
  base : Nat
  len : Nat
  now : Bool
  tw : Bool
  pitch : Nat
  type : Quad
  deriving DecidableEq, Repr

/-- Where a cached translation stands (R110). -/
inductive TlbPlace where
  | micro (core : Nat) | cluster (c : Nat) | last (die : Nat)
  deriving DecidableEq, Repr

/-- A cached leaf (R110). `wrok` is the write permission a walk for a write installed (R109). -/
structure TlbEntry where
  place : TlbPlace
  sid : BitVec 12
  gen : BitVec 4
  dva : Nat
  size : Nat
  pa : Nat
  key : BitVec 9
  wrok : Bool
  ex : Bool
  leaf : Nat
  deriving DecidableEq, Repr

/-- A cached object-table entry of a core (R110). -/
structure ObjCacheEntry where
  core : Nat
  sid : BitVec 12
  gen : BitVec 4
  obj : Nat
  pa : Nat
  ent : ObjEntry
  deriving DecidableEq, Repr

/-- A cached pointer entry (R110): the table that the walk reads next at `level`. -/
structure WalkCacheEntry where
  die : Nat
  sid : BitVec 12
  gen : BitVec 4
  level : Nat
  dva : Nat
  table : Nat
  deriving DecidableEq, Repr

/-- A cached space-table entry (R102, R110). -/
structure SpaceCacheEntry where
  die : Nat
  sid : BitVec 12
  gen : BitVec 4
  pa : Nat
  root : Nat
  otbase : Nat
  otcount : Nat
  deriving DecidableEq, Repr

/-- A walk running or waiting for a walker (R112). -/
structure Walk where
  req : Requester
  die : Nat
  sid : BitVec 12
  gen : BitVec 4
  dva : Nat
  write : Bool
  exec : Bool
  running : Bool
  deriving DecidableEq, Repr

/-- Where an engine stands after a translation fault of its job (R75, R86): it waits for a command, it has been
replayed, or it has been killed. -/
inductive EngPhase where
  | waiting | replayed | killed
  deriving DecidableEq, Repr

/-- An engine's latest translation fault, by its number, until its job completes (R75, R86). -/
structure EngWait where
  req : Requester
  id : BitVec 32
  addr : Nat
  attempt : Nat
  phase : EngPhase
  deriving DecidableEq, Repr

/-- An outstanding translation fault (R71, R75). -/
structure OutFault where
  id : BitVec 32
  req : Requester
  space : BitVec 16
  attempt : Nat
  addr : Word
  deriving DecidableEq, Repr

/-- Memory: bytes, capability tags by 16-byte granule (R99), poison by 8-byte word (R22), the key
index each 64-byte line is held under (R121), and its timestamps (R273). Unlisted: 0, untagged,
clean, held under no index. -/
structure Memory where
  bytes : SMap Byte
  tags : SMap Bool
  poison : SMap Bool
  lineKey : SMap (Option (BitVec 9))
  ts : SMap (Nat × Nat)
  deriving DecidableEq, Repr

/-- A key slot's key pair (R122). -/
structure KeyPair where
  dkey : BitVec 256
  tkey : BitVec 256
  deriving DecidableEq, Repr

/-- The key registers and slots (R122, R123). `last` is the pair under which what each slot encrypted still
stands in memory, also where the slot has been emptied since. -/
structure Keys where
  sel : BitVec 9
  data : SMap Word
  slots : SMap (Option KeyPair)
  last : SMap KeyPair
  err : Bool
  busy : Bool
  loading : Bool
  deriving DecidableEq, Repr

/-- A ring's registers (R68, R70). -/
structure Ring where
  base : Word
  log2 : BitVec 5
  head : BitVec 32
  tail : BitVec 32
  overrun : Bool
  deriving DecidableEq, Repr

/-- The translation channel (R72, R74). -/
structure Channel where
  ring : Ring
  errIdx : BitVec 32
  spaceLive : Bool
  cmdErr : Bool
  mark : Word
  deriving DecidableEq, Repr

/-- A demotion in motion (R117). -/
structure Move where
  src : Nat
  dst : Option Nat
  pte : Nat
  ent : Word
  drained : Bool
  deriving DecidableEq, Repr

/-- A tier engine (R114 to R117). `victim` is the frame the clock chose. -/
structure Tier where
  high : BitVec 32
  low : BitVec 32
  fsbase : Word
  fscap : BitVec 32
  count : BitVec 32
  ftbase : Word
  enable : Bool
  next : BitVec 2
  active : Bool
  /-- COUNT has reached HIGH, or ENABLE has been 0, since the engine became ACTIVE (R115). -/
  ending : Bool
  stall : Bool
  ovf : Bool
  badpush : Bool
  hand : Nat
  victim : Option Move
  moves : List Move
  deriving DecidableEq, Repr

/-- Link states (R42). -/
inductive LinkState where
  | down | training | up
  deriving DecidableEq, Repr

/-- A queued flit: class, virtual channel, message number, bytes of payload, first and last. -/
structure QFlit where
  cls : BitVec 2
  vc : Bool
  dmod : BitVec 12
  msgNo : Nat
  first : Bool
  last : Bool
  payload : List Byte
  deriving DecidableEq, Repr

/-- A Peloz link (R33 to R46). `replay` holds the unacknowledged flits, each with its SEQ and the number of its
message; `rxRetries` counts the retry requests this end has sent for the SEQ it expects, `retries` those it has
received for `retrySeq`; `parts` are partly received messages by class and channel; `wire` is what this end
has sent; `senders` names the messages that have flits here, by number. -/
structure Link where
  enable : Bool
  zbadv : Bool
  state : LinkState
  peerMod : BitVec 12
  peerZb : Bool
  crcErr : BitVec 32
  stall : Bool
  downCause : BitVec 4
  txSeq : BitVec 12
  rxSeq : BitVec 12
  /-- Whether a flit has been received in order since training (R34, R43). -/
  rxAny : Bool
  replay : List (BitVec 12 × Nat × List Byte)
  queue : List QFlit
  tokens : Nat
  slotCount : Nat
  wrr : List (BitVec 2)
  retrySeq : BitVec 12
  retries : Nat
  rxRetries : Nat
  since : Nat
  lastSent : Nat
  parts : List ((BitVec 2 × Bool) × List Byte)
  wire : List (List Byte)
  senders : List (Nat × Msg)
  deriving DecidableEq, Repr

/-- A collective-group entry (R57) and the sequence number its last collective carried (R59). -/
structure CollGroup where
  list : Word
  v : Bool
  loc : BitVec 11
  members : BitVec 13
  lastSeq : Option (BitVec 32)
  deriving DecidableEq, Repr

/-- The fields every member must present alike (R58, R59). -/
structure CollDesc where
  op : BitVec 4
  func : BitVec 4
  infmt : BitVec 5
  outfmt : BitVec 5
  sat : Bool
  seq : BitVec 32
  root : BitVec 32
  count : Nat
  deriving DecidableEq, Repr

/-- A running collective of a group: its fields, the local contributors' jobs, the sources'
bytes that each member's contributors brought, by member index, and the last tick of progress. -/
structure CollRun where
  grp : Nat
  desc : CollDesc
  jobs : List Job
  contribs : List (Nat × List (List Byte))
  started : Bool
  tick : Nat
  status : BitVec 8
  deriving DecidableEq, Repr

/-- A media job ring (R83), the card it runs, and that card's STATUS, detail, COUNT and clock once it has run
(R84, R85, R273). -/
structure MediaRing where
  base : Word
  log2 : BitVec 5
  head : BitVec 32
  busy : Bool
  card : Option (List Byte)
  finished : Option (BitVec 16 × BitVec 16 × BitVec 32)
  pts : Nat
  deriving DecidableEq, Repr

/-- A decode session, named by space and REF (R87): `stamp` stands for the decoder's state, `frames` counts the frames
output, `ready` are the pictures that wait for a card with room in MAXOUT, and `kept` those held for reordering. -/
structure VdeSession where
  space : BitVec 16
  obj : Nat
  off : Nat
  stamp : Nat
  frames : Nat
  ready : List Config.Picture
  kept : List (Nat × Config.Picture)
  deriving DecidableEq, Repr

/-- An NVMe command outstanding at a drive entry (R92, R93). -/
structure SgCmd where
  cid : Nat
  core : Nat
  job : Nat
  off : Nat
  blocks : Nat
  tick : Nat
  deriving DecidableEq, Repr

/-- A write that the storage engine makes to a controller's doorbell (R92): the root port, the PCIe address, the value. -/
structure Doorbell where
  port : BitVec 2
  addr : Word
  val : BitVec 32
  deriving DecidableEq, Repr

/-- A drive entry (R92). -/
structure Drive where
  sq : Word
  cq : Word
  nsid : BitVec 32
  qdepth : BitVec 10
  lbash : BitVec 4
  port : BitVec 2
  dstrd : BitVec 4
  enable : Bool
  db : Word
  mdts : BitVec 8
  errors : BitVec 32
  ctrlerr : Bool
  timeout : Bool
  cmds : List SgCmd
  sqTail : BitVec 16
  cqHead : BitVec 16
  nextCid : Nat
  deriving DecidableEq, Repr

/-- A prefix-index pool (R125 to R148). Slots at or above `fresh` have never been popped; `stack`
holds the others, top first. `blocks` are the free buddy blocks (order, base); `entries` the index
entries (sequence id, tokens), and `retire` the retired slots with their ticks. -/
structure PxPool where
  cfg : Word
  obj : Word
  cb : Word
  tgt : Bool
  cfgerr : Bool
  ready : Bool
  initbusy : Bool
  rqact : Bool
  rqpos : Nat
  rqtgt : Bool
  stack : List Nat
  fresh : Nat
  slots : Nat
  blocks : List (Nat × Nat)
  entries : List (Nat × List (BitVec 32))
  retire : List (Nat × Nat)
  cb0 : Nat
  cb1 : Nat
  deriving DecidableEq, Repr

/-- The states of a task (R149). -/
inductive TaskState where
  | waiting | ready | running | swapped
  deriving DecidableEq, Repr

/-- The states of a placement (R158). -/
inductive PlaceState where
  | none | select | wait | phase1 | backoff | hold | commit
  deriving DecidableEq, Repr

/-- A launch record (R65). -/
structure LaunchRec where
  task : BitVec 20
  gen : BitVec 4
  sid : BitVec 12
  prio : BitVec 3
  cpc : BitVec 2
  gang : BitVec 4
  dfu : BitVec 8
  depcnt : BitVec 16
  entry : BitVec 32
  codeobj : BitVec 24
  argrights : BitVec 8
  argobj : BitVec 24
  argoff : BitVec 48
  arglen : BitVec 40
  tilefirst : BitVec 32
  tilecount : BitVec 32
  gran : BitVec 16
  succv : Bool
  succ : BitVec 20
  reservedOk : Bool
  deriving DecidableEq, Repr

/-- A live task (R149 to R164): its record and launch queue, where its placement stands (R158), since when it
has been READY or SWAPPED and when it last committed (R161, R162), the stop in hand with its cut and the tick a
backoff or a stop ends at (R158, R163, R303), the tick until which no waiter has it swapped out (R163), whether its edges are filled (R154),
and its place in an expert group (R175). -/
structure Task where
  rcd : LaunchRec
  queue : Nat
  state : TaskState
  dep : BitVec 16
  cursor : Nat
  cores : List Nat
  die : Nat
  place : PlaceState
  asked : List Nat
  granted : List Nat
  refused : Bool
  fails : Nat
  readyAt : Nat
  ranAt : Nat
  exempt : Nat
  killed : Bool
  bucket : BitVec 8
  expert : BitVec 16
  group : Option Nat
  cut : Option Nat
  stopAt : Option Nat
  filled : Bool
  /-- The set of cores whose gangs its agent has had swapped out to place it there (R161). -/
  onto : Option (List Nat)
  deriving DecidableEq, Repr

/-- A swapped gang's images (R163): each core with its number, and the swap slots they hold. -/
structure SwapImage where
  task : Nat
  cores : List (Nat × Core)
  slots : List Nat
  deriving DecidableEq, Repr

/-- A barrier instance (R168): task, barrier, level, domain; its phase, the arrivals of the open
phase with their ticks, and the record of the last completed phase (R170). -/
structure Barrier where
  task : Nat
  j : Nat
  lvl : Nat
  dom : Nat
  phase : BitVec 16
  arrivals : List (Nat × Nat × Nat)
  rcd : Quad
  /-- At level 5: the modules that have arrived at the group's member 0, with the ticks at which it saw them, and
  whether this module has reported its own arrival (R170). -/
  remote : List (Nat × Nat)
  sent : Bool
  deriving DecidableEq, Repr

/-- An expert's buffer (R171, R172). -/
structure Expert where
  count : Nat
  st : BitVec 8
  bucket : BitVec 8
  status : BitVec 16
  pages : List Nat
  deriving DecidableEq, Repr

/-- An initialised expert group (R171 to R176), named by space and object offset. -/
structure XGroup where
  space : BitVec 16
  obj : Nat
  off : Nat
  bad : Bool
  nexp : Nat
  capn : Nat
  pgt : Nat
  nbk : Nat
  npg : Nat
  ntok : Nat
  buckets : List Nat
  poolObj : Nat
  poolOff : Nat
  tmpl : LaunchRec
  routed : Nat
  dropped : Nat
  experts : SMap Expert
  used : List Nat
  /-- The XROUTEs that have reached the group, in arrival order; the first is the one being applied (R172). -/
  wait : List Job
  core : Nat
  /-- Whether the first use has checked and cleared the descriptor; how far the first XROUTE has come: its choice,
  whether its pass has started a buffer, whether it waits for a completion, the experts that are to start, and its
  result (R172 to R174). -/
  ready : Bool
  step : Nat
  begun : Bool
  stuck : Bool
  starting : List Nat
  result : Option Nat
  deriving DecidableEq, Repr

/-- A merge session's state (R265). -/
inductive MgState where
  | idle | opened | failed
  deriving DecidableEq, Repr

/-- A record held by the merge network: coordinate, stream, value, in arrival order (R266). -/
structure MgRec where
  coord : Word
  stream : Nat
  val : BitVec 32
  deriving DecidableEq, Repr

/-- A buffer reference (R85). -/
structure Bref where
  obj : Nat
  off : Nat
  len : Nat
  deriving DecidableEq, Repr

/-- A cluster's merge session (R265 to R270) and its command queue (R240). `runs` are the spilled
runs as offset and records; `emitted` the entries output so far; `rowCounts` the CSR rows output. -/
structure Merge where
  st : MgState
  task : Nat
  core : Nat
  space : BitVec 16
  ns : Nat
  coo : Bool
  nrows : Nat
  out : Bref
  ptr : Bref
  spill : Bref
  stat : Bref
  flag : BitVec 5
  cap : Nat
  store : List MgRec
  last : SMap (Option Word)
  ended : List Nat
  runs : List (Nat × List MgRec)
  spillEnd : Nat
  output : List (Word × BitVec 32)
  fail : BitVec 8
  received : Nat
  peak : Nat
  queue : List Job
  deriving DecidableEq, Repr

/-- The Oarov controller and the boot chain (R16, R17, R28 to R32, R77 to R80). -/
structure Oarov where
  stage : BitVec 4
  recovery : Bool
  failStage : BitVec 4
  failCheck : BitVec 4
  released : Bool
  nextKey : List Byte
  loaderKey : List Byte
  cmdKey : List Byte
  manifests : List (BitVec 256)
  runSv : BitVec 32
  limit : Nat
  level : BitVec 3
  alarm : Bool
  samples : List (List (BitVec 32))
  newest : BitVec 10
  lastRaise : Nat
  overFor : Nat
  belowFor : Nat
  telsel : BitVec 3
  lastSeq : Option Word
  mbReq : SMap Byte
  mbResp : SMap Byte
  mbSts : BitVec 3
  deriving DecidableEq, Repr

/-- A section of the freeze read-out (R27): its 24 bytes of header, its payload as 8-byte words, and its CRC-32C; or, for
a memory section, its header, the first address and the number of bytes, the stored bytes listed, the key indices of
their lines, and the CRC-32C. -/
inductive Section where
  | words (head : List Byte) (payload : List Word) (crc : BitVec 32)
  | memory (head : List Byte) (base : Nat) (size : Nat) (stored : SMap Byte) (keys : SMap (Option (BitVec 9))) (crc : BitVec 32)
  deriving DecidableEq, Repr

/-- An answer of the management port (R17, R27, R30, R32, R77, R80). -/
inductive MgmtReply where
  | ok
  | auth
  | refused
  | notBooted
  | reg (v : Word)
  | telemetry (ws : List (BitVec 32)) (corrected : List Nat)
  | certificate (bytes : List Byte)
  | report (bytes : List Byte)
  | readOut (tick : Nat) (cause : BitVec 8) (ss : List Section)
  deriving DecidableEq, Repr

/-- The freeze (R24, R25). -/
structure Freeze where
  cause : BitVec 8
  tick : Nat
  deriving DecidableEq, Repr

/-- The work-distributor registers (R160). -/
structure WdRegs where
  quant : BitVec 32
  swbase : Word
  swcnt : BitVec 13
  deplost : BitVec 16
  postdrop : BitVec 16
  uncut : BitVec 8
  swapped : BitVec 8
  deriving DecidableEq, Repr

/-- What the machine does next, where the schedule says so: an event of the table, a cycle of issue on a core, a
system core's load (R63), or freeze causes that arrive together (R24). -/
inductive Turn where
  | event (i : Instr)
  | issue (core : Nat)
  | load (addr width : Nat)
  | together (causes : List Instr)
  deriving DecidableEq, Repr

/-- How a slot instruction fared at issue (R178, R181, R315). -/
inductive Verdict where
  | none
  | disabled
  | committed
  | blocked (row : BitVec 4)
  | paused (t : Option Nat)
  | overflow (f : Nat)
  | trapped (c : Cause) (v : Word)
  deriving DecidableEq, Repr

/-- What a slot is asked for: to issue with its bundle; which condition of R178 it meets beside the rows listed
(R295); or which dimension variables its unification binds, whatever else it meets (R212, R314). -/
inductive Ask where
  | issue
  | rows (known : List (BitVec 4))
  | binds
  deriving DecidableEq, Repr

/-- The issue in progress: the core, context and bundle it belongs to, and what its slots have
asked for at commit: the next bundle, bindings of dimension variables, a new hardware loop, and
whether the bundle returns from a trap level, exits or waits at a barrier; and the deep-file rows that a slot
has written at once, as the bundle found them, for the reads of its later slots (R182). -/
structure Issue where
  core : Nat
  ctx : Nat
  pc : Pc
  verdict : Verdict
  next : Option Pc
  binds : List (Nat × Nat)
  looped : Bool
  tret : Bool
  exit : Bool
  arvw : Bool
  rows : List (Nat × Row)
  ask : Ask
  deriving DecidableEq, Repr

end Sys2Proof.Machine
end

