-- ==== Sys2Proof/Machine/State.lean ====
section
/-!
DEFINITION. The state of the machine: one Marsomin module. It holds every core with its four
contexts, memory with its tags, the device registers and rings, the engines' queues, the tasks, the
links and the Oarov controller, as plain data. `State.reset` is the module right after a module
reset, before the boot chain has run (R26, R28).
-/

namespace Sys2Proof.Machine

/-- Why the machine stops with a fault. -/
inductive Fault where
  /-- A system-core access to a device register lies outside the ranges of R63, which return an
  access fault to the system core. Raised by REGISTER_WRITE. Safe: the module itself is not
  changed. -/
  | systemAccess (addr : Nat)
  deriving DecidableEq, Repr

/-- Why a step has no meaning. -/
inductive Refusal where
  /-- The instruction has no meaning in the model yet. Raised by an arm of exec. Safe. -/
  | notModelled (mnemonic : String)
  deriving DecidableEq, Repr

/-- An untagged zero. -/
def Cap.zero : Cap := ⟨0, false⟩

/-- Type word 0, storage none (R153). -/
def TileReg.zero : TileReg := ⟨0, 0⟩

/-- The trap registers of a level at context start (R291). -/
def XBank.zero : XBank := ⟨0, 0, 0, 0, 0, Cap.zero⟩

/-- The system registers at context start (R153, R359, R291), for a gang of one core: DMR has LVL1
and LVL0 of 1 (R167), RDEPTH 1, MCAP 32,768, LASTCUT all ones. -/
def SysRegs.start : SysRegs where
  fpcsr := 0
  arithx := 0
  dmr := 0x11
  dfbase := 0
  dflen := 0
  slr := 0
  rdepth := 1
  mcap := 32768
  dispt := 0
  loopst := 0
  cestat := 0
  mestat := 0
  xlvl := 0
  x1 := XBank.zero
  x2 := XBank.zero
  xsave := Cap.zero
  lastcut := 0xFFFFFFFF

/-- A context that no gang has started: IDLE, with every register as a context start leaves it.
(DESIGN CHOICE, log 7.) -/
def Ctx.init : Ctx where
  status := .idle
  pc := ⟨false, 0⟩
  s := []
  a := []
  v := []
  x := []
  t := []
  d := []
  p := []
  m := []
  sr := SysRegs.start
  ctab := []
  mtab := []
  inner := []
  innerNan := []
  stepRec := none
  sinceStep := none
  owed := []
  stepSave1 := (none, [])
  stepSave2 := (none, [])
  flight := []
  pend := []
  port := []
  snap1 := []
  snap2 := []
  rec1 := []
  rec2 := []
  tmplSave1 := none
  tmplSave2 := none
  tmpl := none
  causes := []
  trapWait := none
  trapSnap := none
  resnap := []
  rerec := []
  watch := []
  yielded := []
  deadline := []
  arrived := []
  arvw := none
  lastReplay := none
  replayIds := []
  rplacks := []
  recvs := []
  stale := []
  report := none
  held := false
  stopped := false
  pts := 0
  seq := 0
  ecc := []

/-- A latch that holds nothing valid (R186). (DESIGN CHOICE, log 7.) -/
def Latch.init : Latch := ⟨0, false, false, 0⟩

/-- A flag at gang start (R441). -/
def Flag.init : Flag := ⟨0, 0, 0, false⟩

/-- A rink that is not defined (R194). -/
def Rink.init : Rink := ⟨false, false, 0, 0, 0, 0, 0, 0, []⟩

/-- A load block that is FREE (R196). -/
def LoadBlock.init : LoadBlock := ⟨.free, Cap.zero, 0, 0, 0, 0, 0, []⟩

/-- A core that holds no gang. (DESIGN CHOICE, log 7.) -/
def Core.init : Core where
  ctxs := []
  cur := 0
  cycle := 0
  latches := []
  flags := []
  flagTs := []
  rinks := []
  lbs := []
  deep := []
  acm := []
  edges := []
  resv := .free
  lvl := 0
  ce := []
  me := []
  sends := []
  colls := []
  sgrds := []
  svcs := []
  unmatched := []
  acmWrites := []
  acmCopies := []
  eccRows := []
  eccAcm := []

/-- A ring at reset: LOG2 0, which is CFGERR (R68). (DESIGN CHOICE, log 7.) -/
def Ring.init : Ring := ⟨0, 0, 0, 0, false⟩

/-- A tier engine at reset (R114, R116). -/
def Tier.init : Tier where
  high := 0
  low := 0
  fsbase := 0
  fscap := 0
  count := 0
  ftbase := 0
  enable := false
  next := 0
  active := false
  ending := false
  stall := false
  ovf := false
  badpush := false
  hand := 0
  victim := none
  moves := []

/-- A link at reset: DOWN, cause DISABLED, ZBADV 1 (R42). Its bucket is full and its round robin at the first turn
from reset on; training leaves both as they are. (DESIGN CHOICE, log 20.) -/
def Link.init : Link where
  enable := false
  zbadv := true
  state := .down
  peerMod := 0
  peerZb := false
  crcErr := 0
  stall := false
  downCause := 4
  txSeq := 0
  rxSeq := 0
  rxAny := false
  replay := []
  queue := []
  tokens := 8
  slotCount := 0
  wrr := [1, 1, 2, 2, 3]
  retrySeq := 0
  retries := 0
  rxRetries := 0
  since := 0
  lastSent := 0
  parts := []
  wire := []
  senders := []

/-- A collective-group entry at reset (R57). -/
def CollGroup.init : CollGroup := ⟨0, false, 0, 0, none⟩

/-- A media ring at reset (R83). -/
def MediaRing.init : MediaRing := ⟨0, 0, 0, false, none, none, 0⟩

/-- A drive entry at reset (R92). (DESIGN CHOICE, log 7.) -/
def Drive.init : Drive where
  sq := 0
  cq := 0
  nsid := 0
  qdepth := 0
  lbash := 0
  port := 0
  dstrd := 0
  enable := false
  db := 0
  mdts := 0
  errors := 0
  ctrlerr := false
  timeout := false
  cmds := []
  sqTail := 0
  cqHead := 0
  nextCid := 0

/-- A prefix-index pool at reset: CFGERR 1 (R125). -/
def PxPool.init : PxPool where
  cfg := 0
  obj := 0
  cb := 0
  tgt := false
  cfgerr := true
  ready := false
  initbusy := false
  rqact := false
  rqpos := 0
  rqtgt := false
  stack := []
  fresh := 0
  slots := 0
  blocks := []
  entries := []
  retire := []
  cb0 := 0
  cb1 := 0

/-- A cluster's merge session at reset: IDLE (R265). -/
def Merge.init : Merge where
  st := .idle
  task := 0
  core := 0
  space := 0
  ns := 0
  coo := false
  nrows := 0
  out := ⟨0, 0, 0⟩
  ptr := ⟨0, 0, 0⟩
  spill := ⟨0, 0, 0⟩
  stat := ⟨0, 0, 0⟩
  flag := 0
  cap := 0
  store := []
  last := []
  ended := []
  runs := []
  spillEnd := 0
  output := []
  fail := 0
  received := 0
  peak := 0
  queue := []

/-- The work-distributor registers at reset (R160). -/
def WdRegs.init : WdRegs := ⟨2000, 0, 0, 0, 0, 0, 0⟩

/-- The Oarov controller at reset (R17, R77): no stage verified, the dies in reset. (DESIGN CHOICE, log 16.) -/
def Oarov.init : Oarov where
  stage := 0
  recovery := false
  failStage := 0
  failCheck := 0
  released := false
  nextKey := []
  loaderKey := []
  cmdKey := []
  manifests := []
  runSv := 0
  limit := 2400
  level := 0
  alarm := false
  samples := []
  newest := 0
  lastRaise := 0
  overFor := 0
  belowFor := 0
  telsel := 0
  lastSeq := none
  mbReq := []
  mbResp := []
  mbSts := 0

/-- No issue in progress. -/
def Issue.init : Issue where
  core := 0
  ctx := 0
  pc := ⟨false, 0⟩
  verdict := .none
  next := none
  binds := []
  rows := []
  looped := false
  tret := false
  exit := false
  arvw := false
  ask := .issue

/-- The state of one module. The fields `sched`, `iss`, `fresh`, `ids`, `inbox`, `sysRead`, `mgmtOut` and
`doorbells` are the model's own: what the machine does next, the issue in progress, the draw number
of the free values, the next identity, messages on the way to an endpoint of this module, the value
the last device read gave a system core, and what the management port has answered and the storage engine has written to doorbells. `hold` names the task
of each die's hold slot, as TASKID + 1 (R159); `quantum` the last boundary each agent has taken (R161). -/
structure State where
  sched : List Turn
  iss : Issue
  fresh : Nat
  ids : Nat
  tick : Nat
  cores : SMap Core
  mem : Memory
  sptbase : Word
  spgen : SMap (BitVec 4)
  objCache : List ObjCacheEntry
  tlb : List TlbEntry
  walkCache : List WalkCacheEntry
  spaceCache : List SpaceCacheEntry
  walks : List Walk
  outFaults : List OutFault
  engWaits : List EngWait
  nextFault : BitVec 32
  faultWait : List (List Byte)
  compWait : List (List Byte)
  lq : SMap Ring
  cq : Ring
  fq : Ring
  so : Ring
  ch : Channel
  keys : Keys
  tiers : SMap Tier
  links : SMap Link
  routes : SMap (BitVec 32)
  modnum : BitVec 12
  inbox : List Msg
  cgroups : SMap CollGroup
  cruns : List CollRun
  media : SMap MediaRing
  vde : List VdeSession
  drives : SMap Drive
  doorbells : List Doorbell
  cxlDown : SMap Bool
  px : SMap PxPool
  pxq : SMap (List Job)
  pxNext : Nat
  wd : WdRegs
  tasks : List Task
  swaps : List SwapImage
  hold : SMap Nat
  quantum : SMap Nat
  bars : List Barrier
  groups : List XGroup
  merges : SMap Merge
  oarov : Oarov
  thermo : BitVec 64
  mgmtOut : List MgmtReply
  freeze : Option Freeze
  irq : SMap Bool
  sysRead : Word
  eccCount : SMap Nat
  deriving DecidableEq, Repr

/-- The module right after a module reset (R26): memory lists nothing, every register is at its
reset value, no stage of the boot chain has run, and no gang holds a core. (DESIGN CHOICE, log 6; DEDUCED, log 52.) -/
def State.reset : State where
  sched := []
  iss := Issue.init
  fresh := 0
  ids := 0
  tick := 0
  cores := []
  mem := ⟨[], [], [], [], []⟩
  sptbase := 0
  spgen := []
  objCache := []
  tlb := []
  walkCache := []
  spaceCache := []
  walks := []
  outFaults := []
  engWaits := []
  nextFault := 0
  faultWait := []
  compWait := []
  lq := []
  cq := Ring.init
  fq := Ring.init
  so := Ring.init
  ch := ⟨Ring.init, 0, false, false, 0⟩
  keys := ⟨0, [], [], [], false, false, false⟩
  tiers := []
  links := []
  routes := []
  modnum := 0
  inbox := []
  cgroups := []
  cruns := []
  media := []
  vde := []
  drives := []
  cxlDown := []
  px := []
  pxq := []
  pxNext := 0
  wd := WdRegs.init
  tasks := []
  swaps := []
  hold := []
  quantum := []
  bars := []
  groups := []
  merges := []
  oarov := Oarov.init
  thermo := Config.thermoFuses
  mgmtOut := []
  doorbells := []
  freeze := none
  irq := []
  sysRead := 0
  eccCount := []

end Sys2Proof.Machine
end

