-- ==== Sys2Proof/Machine/Memory.lean ====
section
/-!
DEFINITION. Physical memory: the ranges of R63, bytes as each key index sees them (R121), the tags
of R99, the poison of R22 and the timestamps of R273. Bytes stand as plaintext under the key index
their line was last written under; a read under another index gives what decryption gives. A line that nothing has
written has no index, and its bytes read as listed under every one.
-/

namespace Sys2Proof.Machine

/-- Whether `n` bytes at a physical address lie within LP memory, HBM or CXL memory (R63). -/
def isMemory (pa n : Nat) : Bool :=
  pa + n ≤ 0x10000000000 || (0x20000000000 ≤ pa && pa + n ≤ 0x28000000000) ||
    (0x100000000000 ≤ pa && pa + n ≤ 0x180000000000)

/-- The memory tier of a physical address (R113). -/
def tierOf (pa : Nat) : Nat := if pa < 0x10000000000 then 1 else if pa < 0x100000000000 then 0 else 2

/-- What an unlisted byte of memory reads as. DESIGN CHOICE: 0. (DESIGN CHOICE, log 6.) -/
def freshByte : Byte := 0

/-- The stored byte at a physical address. -/
def Memory.byte (m : Memory) (pa : Nat) : Byte := SMap.get freshByte m.bytes pa

/-- The key index a line is held under (R121); none where nothing has written it. (DESIGN CHOICE, log 6.) -/
def Memory.key (m : Memory) (line : Nat) : Option (BitVec 9) := SMap.get none m.lineKey line

/-- The pair under which lines of a key index stand encrypted, as one number of bits (R122). -/
def Keys.pair (k : Keys) (i : BitVec 9) : BitVec 512 :=
  let p := SMap.get ⟨0, 0⟩ k.last i.toNat
  p.dkey ++ p.tkey

/-- What decryption under one pair gives of a line that another pair encrypted (R121). (DEDUCED, log 12.) -/
def underPair (enc dec : BitVec 512) (line : Nat) (bs : List Byte) : List Byte :=
  if enc = dec then bs else xtsPlain dec line (xtsStored enc line bs)

/-- Whether a slot holds no key. Slot 0 is loaded at every boot (R123). -/
def Keys.empty (k : Keys) (i : BitVec 9) : Bool := i ≠ 0 && SMap.get none k.slots i.toNat == none

/-- The 64 stored bytes of a line. -/
def Memory.line (m : Memory) (line : Nat) : List Byte :=
  (List.range 64).map (fun i => m.byte (line * 64 + i))

/-- Whether a line reads as it is listed under a key index: it is held under it, or nothing has written it (R121). -/
def Memory.plain (m : Memory) (key : BitVec 9) (line : Nat) : Bool := (m.key line).getD key = key

/-- A line's bytes as seen under a key index (R121). -/
def State.lineUnder (s : State) (key : BitVec 9) (line : Nat) : List Byte :=
  let raw := s.mem.line line
  if s.mem.plain key line then raw else underPair (s.keys.pair ((s.mem.key line).getD key)) (s.keys.pair key) line raw

/-- A byte as seen under a key index (R121). -/
def State.byteUnder (s : State) (key : BitVec 9) (pa : Nat) : Byte :=
  if s.mem.plain key (pa / 64) then s.mem.byte pa else (s.lineUnder key (pa / 64)).getD (pa % 64) 0

/-- `n` bytes at a physical address, seen under a key index. -/
def State.memRead (s : State) (key : BitVec 9) (pa n : Nat) : List Byte :=
  (List.range n).map (fun i => s.byteUnder key (pa + i))

/-- Whether a physical address lies behind a CXL port whose link is down (R94). (DEDUCED, log 52.) -/
def State.cxlLost (s : State) (pa : Nat) : Bool :=
  0x100000000000 ≤ pa && SMap.get false s.cxlDown ((pa - 0x100000000000) / 2 ^ 41)

/-- The first poisoned 8-byte word that `n` bytes touch, by its address; under an empty slot, and
behind a CXL link that is down, every read is poisoned (R22, R94, R123). (DEDUCED, log 13.) -/
def State.poisonAt (s : State) (key : BitVec 9) (pa n : Nat) : Option Nat :=
  if n = 0 then none
  else if s.keys.empty key || s.cxlLost pa then some (pa / 8 * 8)
  else ((List.range ((pa + n - 1) / 8 - pa / 8 + 1)).map (fun i => pa / 8 + i)).findSome?
    (fun w => if SMap.get false s.mem.poison w then some (w * 8) else none)

/-- Bring a line under a key index before it is written (R121). (DEDUCED, log 12.) -/
def State.rekey (s : State) (key : BitVec 9) (line : Nat) : State :=
  if s.mem.key line = some key then s
  else
    let bs := s.lineUnder key line
    { s with mem := { s.mem with
        bytes := SMap.setAll freshByte s.mem.bytes
          ((List.range 64).map (fun i => (line * 64 + i, bs.getD i 0)))
        lineKey := SMap.set none s.mem.lineKey line (some key) } }

/-- The distinct values of a list of numbers in rising order. -/
def runsOf (l : List Nat) : List Nat := l.foldl (fun acc x => if acc.contains x then acc else acc ++ [x]) []

/-- The addresses that a write of bytes with byte enables covers. -/
def written (pa : Nat) (bs : List Byte) (en : Nat → Bool) : List Nat :=
  ((List.range bs.length).filter en).map (pa + ·)

/-- Write bytes under a key index: enabled bytes are stored, tags of touched granules take `tag`
(R99, R412), poison clears in 8-byte words written whole (R22). A write under an empty slot,
or behind a CXL link that is down, is dropped (R94, R123). (DEDUCED, log 12.) -/
def State.memWriteEn (s : State) (key : BitVec 9) (pa : Nat) (bs : List Byte) (en : Nat → Bool)
    (tag : Bool) : State :=
  if s.keys.empty key || s.cxlLost pa then s
  else
    let ad := written pa bs en
    let s := (runsOf (ad.map (· / 64))).foldl (fun s l => s.rekey key l) s
    { s with mem := { s.mem with
        bytes := SMap.setAll freshByte s.mem.bytes (ad.map (fun a => (a, bs.getD (a - pa) 0)))
        tags := SMap.setAll false s.mem.tags ((runsOf (ad.map (· / 16))).map (fun g => (g, tag)))
        poison := SMap.setAll false s.mem.poison
          (((runsOf (ad.map (· / 8))).filter
            (fun w => (List.range 8).all (fun i => ad.contains (w * 8 + i)))).map (fun w => (w, false))) } }

/-- Write bytes whole, clearing tags. -/
def State.memWrite (s : State) (key : BitVec 9) (pa : Nat) (bs : List Byte) : State :=
  s.memWriteEn key pa bs (fun _ => true) false

/-- The tag of the granule at a physical address (R99). -/
def State.tagAt (s : State) (pa : Nat) : Bool := SMap.get false s.mem.tags (pa / 16)

/-- A little-endian field of memory under key index 0 (R121). -/
def State.word0 (s : State) (pa n : Nat) : Nat := ofBytes (s.memRead 0 pa n)

/-- The timestamps of a line: wts and rts (R273). (DESIGN CHOICE, log 53.) -/
def Memory.stamp (m : Memory) (line : Nat) : Nat × Nat := SMap.get (0, 0) m.ts line

/-- A load of a line at clock `pts`: the new clock, and the line's stamps (R273). -/
def Memory.loadAt (m : Memory) (pts line : Nat) : Memory × Nat :=
  let (w, r) := m.stamp line
  let t := max pts w
  ({ m with ts := SMap.set (0, 0) m.ts line (w, max r t) }, t)

/-- A store to a line (R273). (DESIGN CHOICE, log 53.) -/
def Memory.storeAt (m : Memory) (pts line : Nat) : Memory × Nat :=
  let (_, r) := m.stamp line
  let t := max pts (r + 1)
  ({ m with ts := SMap.set (0, 0) m.ts line (t, r) }, t)

/-- An atomic on a line (R273). -/
def Memory.atomicAt (m : Memory) (pts line : Nat) : Memory × Nat :=
  let (_, r) := m.stamp line
  let t := max pts (r + 1)
  ({ m with ts := SMap.set (0, 0) m.ts line (t, t) }, t)

/-- The 64-byte lines that bytes touch. -/
def linesOf (pa n : Nat) : List Nat :=
  if n = 0 then [] else (List.range ((pa + n - 1) / 64 - pa / 64 + 1)).map (pa / 64 + ·)

/-- Take the timestamps of an access through the lines it touches: the memory and the party's clock
after it (R273). -/
def Memory.stampAll (m : Memory) (step : Memory → Nat → Nat → Memory × Nat) (pts : Nat) (ls : List Nat) :
    Memory × Nat :=
  ls.foldl (fun (a : Memory × Nat) l => step a.1 a.2 l) (m, pts)

/-- A write by a party that has no clock of its own: system cores, rings, walkers, tier engines and the like, which rank
after every compute core (R273). (DESIGN CHOICE, log 53.) -/
def State.memPut (s : State) (key : BitVec 9) (pa : Nat) (bs : List Byte) : State :=
  let s := s.memWrite key pa bs
  { s with mem := (s.mem.stampAll Memory.storeAt 0 (linesOf pa bs.length)).1 }

/-- The canonical form of memory (the model's own). -/
def Memory.wf (m : Memory) : Bool :=
  SMap.wf freshByte m.bytes && SMap.wf false m.tags && SMap.wf false m.poison &&
    SMap.wf none m.lineKey && SMap.wf (0, 0) m.ts

end Sys2Proof.Machine
end

