-- ==== Sys2Proof/Machine/Flags.lean ====
section
/-!
DEFINITION. Number formats, rounding, flags and exact arithmetic (R219 to R239): every
floating-point result and every flag of the machine is computed here.
-/

namespace Sys2Proof.Machine

/-- The sticky bits of FPCSR[6:0] (R224). -/
abbrev Fl := BitVec 7

/-- NX, UF, OF, DZ, NV, SATF and MSAT at their places in FPCSR (R224). -/
def Fl.nx : Fl := 1
@[inherit_doc Fl.nx] def Fl.uf : Fl := 2
@[inherit_doc Fl.nx] def Fl.of : Fl := 4
@[inherit_doc Fl.nx] def Fl.dz : Fl := 8
@[inherit_doc Fl.nx] def Fl.nv : Fl := 16
@[inherit_doc Fl.nx] def Fl.satf : Fl := 32
@[inherit_doc Fl.nx] def Fl.msat : Fl := 64

/-- A flag where a condition holds. -/
def Fl.when (b : Bool) (f : Fl) : Fl := if b then f else 0

/-- A floating-point format (R219): width, exponent and fraction bits, bias, whether it is E4M3, and
whether it has signalling NaNs (R220). -/
structure FFmt where
  w : Nat
  eb : Nat
  fb : Nat
  bias : Int
  e4 : Bool
  snan : Bool
  deriving DecidableEq, Repr

def fp32 : FFmt := ⟨32, 8, 23, 127, false, true⟩
def fp16 : FFmt := ⟨16, 5, 10, 15, false, true⟩
def bf16 : FFmt := ⟨16, 8, 7, 127, false, true⟩
def e4m3 : FFmt := ⟨8, 4, 3, 7, true, false⟩
def e5m2 : FFmt := ⟨8, 5, 2, 15, false, false⟩

/-- A value: NaN (signalling or quiet), an infinity, or (−1)^neg × m × 2^e exactly. -/
inductive FV where
  | nan (sig : Bool)
  | inf (neg : Bool)
  | fin (neg : Bool) (m : Nat) (e : Int)
  deriving DecidableEq, Repr

/-- The value of a bit pattern (R219, R220). -/
def unpack (f : FFmt) (n : Nat) : FV :=
  let s := n.testBit (f.w - 1)
  let ex := bits n f.fb f.eb
  let fr := bits n 0 f.fb
  if f.e4 && ex = 2 ^ f.eb - 1 && fr = 2 ^ f.fb - 1 then .nan false
  else if !f.e4 && ex = 2 ^ f.eb - 1 then
    if fr = 0 then .inf s else .nan (f.snan && fr < 2 ^ (f.fb - 1))
  else if ex = 0 then .fin s fr (1 - f.bias - f.fb)
  else .fin s (2 ^ f.fb + fr) (ex - f.bias - f.fb)

/-- The canonical quiet NaN (R220). -/
def FFmt.qnan (f : FFmt) : Nat :=
  if f.e4 then 0x7F else (2 ^ f.eb - 1) * 2 ^ f.fb + 2 ^ (f.fb - 1)

/-- The sign bit of a format. -/
def FFmt.signBit (f : FFmt) (neg : Bool) : Nat := if neg then 2 ^ (f.w - 1) else 0

/-- The largest finite magnitude as significand and exponent (R219). -/
def FFmt.maxFin (f : FFmt) : Nat × Int :=
  if f.e4 then (2 ^ (f.fb + 1) - 2, (2 ^ f.eb - 1 : Nat) - f.bias - f.fb)
  else (2 ^ (f.fb + 1) - 1, (2 ^ f.eb - 2 : Nat) - f.bias - f.fb)

/-- The bits of the largest finite magnitude. -/
def FFmt.maxBits (f : FFmt) : Nat :=
  if f.e4 then 0x7E else (2 ^ f.eb - 1) * 2 ^ f.fb - 1

/-- An infinity of a format; in E4M3, which has none, the canonical NaN (R222). -/
def FFmt.infBits (f : FFmt) (neg : Bool) : Nat :=
  if f.e4 then f.qnan else f.signBit neg + (2 ^ f.eb - 1) * 2 ^ f.fb

/-- 2^i of an integer exponent, 1 where it is negative. -/
def pow2 (i : Int) : Nat := 2 ^ i.toNat

/-- m × 2^e compared with n × 2^g. -/
def cmpMag (m : Nat) (e : Int) (n : Nat) (g : Int) : Ordering :=
  compare (m * pow2 (e - g)) (n * pow2 (g - e))

/-- The choice of R221 between two neighbours: whether the larger magnitude is taken. `rest`
compares what lies beyond the kept part with half a step, `inexact` says that it is not 0. -/
def roundsUp (mode : Nat) (neg odd : Bool) (rest : Ordering) (inexact : Bool) : Bool :=
  match mode with
  | 0 => rest == .gt || (rest == .eq && odd)
  | 1 => false
  | 2 => neg && inexact
  | _ => !neg && inexact

/-- The magnitude m × 2^e, or, with `sticky`, a real strictly between it and the next, rounded to a
multiple of 2^q: the multiple and whether it is inexact (R221). -/
def roundAt (mode : Nat) (neg : Bool) (m : Nat) (e : Int) (sticky : Bool) (q : Int) : Nat × Bool :=
  let d := (q - e).toNat
  let kept := (m * pow2 (e - q)) >>> d
  let rem := m % 2 ^ d
  let inexact := (0 < d && rem ≠ 0) || sticky
  let rest := if d = 0 then .lt else
    match compare (2 * rem) (2 ^ d) with
    | .eq => if sticky then .gt else .eq
    | o => o
  (if roundsUp mode neg (kept % 2 = 1) rest inexact then kept + 1 else kept, inexact)

/-- The delivered value of an overflow and its flags (R222). -/
def overflow (f : FFmt) (mode : Nat) (sat neg : Bool) : Nat × Fl :=
  if sat then (f.signBit neg + f.maxBits, Fl.satf ||| Fl.nx)
  else
    let toInf := match mode with
      | 0 => true
      | 1 => false
      | 2 => neg
      | _ => !neg
    (if toInf then f.infBits neg else f.signBit neg + f.maxBits, Fl.of ||| Fl.nx)

/-- RoundTo of a magnitude with a sign (R221 to R223). -/
def roundMag (f : FFmt) (mode : Nat) (sat neg : Bool) (m : Nat) (e : Int) (sticky : Bool) : Nat × Fl :=
  if m = 0 && !sticky then (f.signBit neg, 0)
  else
    let qmin := 1 - f.bias - f.fb
    let q := max ((Nat.log2 m : Int) + e - f.fb) qmin
    let (k, inexact) := roundAt mode neg m e sticky q
    if cmpMag k q f.maxFin.1 f.maxFin.2 == .gt then overflow f mode sat neg
    else
      let (k, q) := if k = 2 ^ (f.fb + 1) then (2 ^ f.fb, q + 1) else (k, q)
      let enc := if k < 2 ^ f.fb then k else (q + f.fb + f.bias).toNat * 2 ^ f.fb + (k - 2 ^ f.fb)
      (f.signBit neg + enc,
        Fl.when inexact Fl.nx ||| Fl.when (inexact && k ≠ 0 && k < 2 ^ f.fb) Fl.uf)

/-- RoundTo of a value (R220 to R223, R233). A NaN gives the canonical NaN and no flag of its own. -/
def roundTo (f : FFmt) (mode : Nat) (sat : Bool) : FV → Nat × Fl
  | .nan _ => (f.qnan, 0)
  | .inf neg =>
    if f.e4 then if sat then (f.signBit neg + f.maxBits, Fl.satf ||| Fl.nx) else (f.qnan, Fl.of ||| Fl.nx)
    else (f.infBits neg, 0)
  | .fin neg m e => roundMag f mode sat neg m e false

/-- RoundFP32 under RNE, sat 0, as bits (R235, R239). -/
def roundFp32 (v : FV) : Nat := (roundTo fp32 0 false v).1

/-- Whether a value is a signalling NaN. -/
def FV.sig : FV → Bool
  | .nan s => s
  | _ => false

/-- Whether a value is a NaN. -/
def FV.isNan : FV → Bool
  | .nan _ => true
  | _ => false

/-- Whether a value is a zero. -/
def FV.isZero : FV → Bool
  | .fin _ m _ => m = 0
  | _ => false

/-- The sign of a value; false for a NaN. -/
def FV.sign : FV → Bool
  | .nan _ => false
  | .inf n => n
  | .fin n _ _ => n

/-- The value with its sign inverted. -/
def FV.neg : FV → FV
  | .nan s => .nan s
  | .inf n => .inf (!n)
  | .fin n m e => .fin (!n) m e

/-- The flag of signalling operands (R220). -/
def sigFlag (l : List FV) : Fl := Fl.when (l.any FV.sig) Fl.nv

/-- The signed significand of a finite value; 0 for others. -/
def FV.int : FV → Int
  | .fin n m _ => if n then -(m : Int) else m
  | _ => 0

/-- The exponent of a finite value; 0 for others. -/
def FV.exp : FV → Int
  | .fin _ _ e => e
  | _ => 0

/-- A finite value from a signed significand; a zero has the sign given. -/
def FV.ofInt (zneg : Bool) (i e : Int) : FV := .fin (if i = 0 then zneg else i < 0) i.natAbs e

/-- The exact sum of two finite values; a zero sum has the sign given. -/
def addFin (zneg : Bool) (a b : FV) : FV :=
  let e := min a.exp b.exp
  FV.ofInt zneg (a.int * pow2 (a.exp - e) + b.int * pow2 (b.exp - e)) e

/-- The exact sum of a list under a mode, whose special values settle as R236 lays down; an exact zero is
−0 where every term is −0, and under RDN where terms that are not zero cancel (R221). The flag is NV for
∞ − ∞. -/
def sumV (mode : Nat) (l : List FV) : FV × Fl :=
  if l.any FV.isNan then (.nan false, sigFlag l)
  else
    let pos := l.contains (.inf false)
    let neg := l.contains (.inf true)
    if pos && neg then (.nan false, Fl.nv)
    else if pos then (.inf false, 0)
    else if neg then (.inf true, 0)
    else
      let zneg := if l.all FV.isZero then l ≠ [] && l.all FV.sign else mode = 2
      (l.foldl (addFin zneg) (.fin zneg 0 0), 0)

/-- The sum whose exact zero is −0 only where every term is −0 (R375). -/
def sumAll (l : List FV) : FV × Fl := sumV 0 l

/-- The exact sum of two values under a mode. -/
def addV (mode : Nat) (a b : FV) : FV × Fl := sumV mode [a, b]

/-- A value with −0 taken as +0 (R235). -/
def FV.plusZero (v : FV) : FV := if v.isZero then .fin false 0 0 else v

/-- The exact product (R223, R236). -/
def mulV (a b : FV) : FV × Fl :=
  match a, b with
  | .nan s, .nan t => (.nan false, Fl.when (s || t) Fl.nv)
  | .nan s, _ => (.nan false, Fl.when s Fl.nv)
  | _, .nan s => (.nan false, Fl.when s Fl.nv)
  | .inf n, .inf n' => (.inf (n != n'), 0)
  | .inf n, .fin n' m _ | .fin n' m _, .inf n => if m = 0 then (.nan false, Fl.nv) else (.inf (n != n'), 0)
  | .fin n m e, .fin n' m' e' => (.fin (n != n') (m * m') (e + e'), 0)

/-- Bits of a binary operation rounded to a format: its exact value and the flags found so far. -/
def finish (f : FFmt) (mode : Nat) (sat : Bool) (r : FV × Fl) : Nat × Fl :=
  let (b, fl) := roundTo f mode sat r.1
  (b, fl ||| r.2)

/-- a + b, rounded. -/
def fAdd (f : FFmt) (mode : Nat) (a b : FV) : Nat × Fl := finish f mode false (addV mode a b)

/-- a × b, rounded. -/
def fMul (f : FFmt) (mode : Nat) (a b : FV) : Nat × Fl := finish f mode false (mulV a b)

/-- a × b + c, rounded once; 0 × ∞ sets NV even when c is a quiet NaN (R347, R366). -/
def fMulAdd (f : FFmt) (mode : Nat) (negProd negC : Bool) (a b c : FV) : Nat × Fl :=
  let (p, fl) := mulV a b
  let p := if negProd then p.neg else p
  let c := if negC then c.neg else c
  let (r, fl') := addV mode p c
  finish f mode false (r, fl ||| fl')

/-- a / b, rounded (R223). -/
def fDiv (f : FFmt) (mode : Nat) (a b : FV) : Nat × Fl :=
  match a, b with
  | .nan s, .nan t => (f.qnan, Fl.when (s || t) Fl.nv)
  | .nan s, _ => (f.qnan, Fl.when s Fl.nv)
  | _, .nan s => (f.qnan, Fl.when s Fl.nv)
  | .inf _, .inf _ => (f.qnan, Fl.nv)
  | .inf n, .fin n' _ _ => roundTo f mode false (.inf (n != n'))
  | .fin n _ _, .inf n' => (f.signBit (n != n'), 0)
  | .fin n m e, .fin n' m' e' =>
    if m' = 0 then if m = 0 then (f.qnan, Fl.nv) else (f.infBits (n != n'), Fl.dz)
    else
      let k := 64 + Nat.log2 m'
      let x := m <<< k
      roundMag f mode false (n != n') (x / m') (e - e' - k) (x % m' ≠ 0)

/-- ⌊√n⌋ by trial of bits `i − 1` down to 0 above `r`. -/
def isqrtGo (n : Nat) : Nat → Nat → Nat
  | 0, r => r
  | i + 1, r => isqrtGo n i (if (r + 2 ^ i) * (r + 2 ^ i) ≤ n then r + 2 ^ i else r)

/-- ⌊√n⌋. -/
def isqrt (n : Nat) : Nat := isqrtGo n (Nat.log2 n / 2 + 1) 0

/-- √a, rounded; √(−0) = −0 (R347). -/
def fSqrt (f : FFmt) (mode : Nat) : FV → Nat × Fl
  | .nan s => (f.qnan, Fl.when s Fl.nv)
  | .inf neg => if neg then (f.qnan, Fl.nv) else (f.infBits false, 0)
  | .fin neg m e =>
    if m = 0 then (f.signBit neg, 0)
    else if neg then (f.qnan, Fl.nv)
    else
      let k := 128 + (e % 2).toNat
      let x := m <<< k
      let r := isqrt x
      roundMag f mode false false r ((e - k) / 2) (r * r ≠ x)

/-- The order of two values; none where either is a NaN. −0 and +0 are equal. -/
def cmpV (a b : FV) : Option Ordering :=
  match a, b with
  | .nan _, _ | _, .nan _ => none
  | .inf n, .inf n' => some (if n = n' then .eq else if n then .lt else .gt)
  | .inf n, _ => some (if n then .lt else .gt)
  | _, .inf n => some (if n then .gt else .lt)
  | .fin _ _ _, .fin _ _ _ => some (compare (addFin false a b.neg).int 0)

/-- Minimum or maximum of bit patterns: a NaN gives the canonical NaN, and −0 lies below +0
(R220, R61). -/
def fMinMax (f : FFmt) (isMax : Bool) (x y : Nat) : Nat × Fl :=
  let a := unpack f x
  let b := unpack f y
  match cmpV a b with
  | none => (f.qnan, sigFlag [a, b])
  | some .eq => (if a.sign = isMax then y else x, 0)
  | some .lt => (if isMax then y else x, 0)
  | some .gt => (if isMax then x else y, 0)

/-- The comparisons of R347 and R368: eq, lt, le, un, ne; NV for a signalling NaN, and for lt and le
for any NaN. -/
def fCompare (cc : Nat) (a b : FV) : Bool × Fl :=
  let nanny := a.isNan || b.isNan
  let fl := sigFlag [a, b] ||| Fl.when (nanny && (cc = 1 || cc = 2)) Fl.nv
  let o := cmpV a b
  (match cc with
    | 0 => o == some .eq
    | 1 => o == some .lt
    | 2 => o == some .lt || o == some .eq
    | 3 => nanny
    | _ => o != some .eq, fl)

/-- The class bit of FCLS (R347). -/
def fClass (f : FFmt) (n : Nat) : Nat :=
  match unpack f n with
  | .nan s => if s then 8 else 9
  | .inf neg => if neg then 0 else 7
  | .fin neg m _ =>
    if m = 0 then if neg then 3 else 4
    else if m < 2 ^ f.fb then if neg then 2 else 5
    else if neg then 1 else 6

/-- Conversion to an integer format, which always saturates (R234). -/
def toIntFmt (signed : Bool) (w mode : Nat) : FV → Int × Fl
  | .nan _ => (0, Fl.nv)
  | .inf neg => (if neg then (rangeOf signed w).1 else (rangeOf signed w).2, Fl.nv)
  | .fin neg m e =>
    let (k, inexact) := roundAt mode neg m e false 0
    let v : Int := if neg then -(k : Int) else k
    let (r, clamped) := sat (rangeOf signed w).1 (rangeOf signed w).2 v
    (r, if clamped then Fl.nv else Fl.when inexact Fl.nx)

/-- IntRNE of a magnitude m × 2^e (R228). -/
def intRne (m : Nat) (e : Int) : Nat := (roundAt 0 false m e false 0).1

/-- The smallest `x` in `lo .. lo + n` with `p x`, or `lo + n`. -/
def least (p : Nat → Bool) (lo : Nat) : Nat → Nat
  | 0 => lo
  | n + 1 => if p lo then lo else least p (lo + 1) n

/-- The block formats by m, the magnitude bits: bytes of a block (R226). -/
def bxBytes (m : Nat) : Nat := if m = 2 then 8 else if m = 4 then 12 else 18

/-- The greatest of the magnitudes of a list of finite values. -/
def maxMag : List FV → FV
  | [] => .fin false 0 0
  | v :: t =>
    let u := maxMag t
    if cmpMag v.int.natAbs v.exp u.int.natAbs u.exp == .lt then u else .fin false v.int.natAbs v.exp

/-- A magnitude scaled by 2^k, rounded to an integer. -/
def scaledRne (v : FV) (k : Int) : Nat := intRne v.int.natAbs (v.exp + k)

/-- Quantisation of sixteen values to a BX block with m magnitude bits (R228): the block as a
number, and its flags. -/
def bxQuant (m : Nat) (x : List FV) : Nat × Fl :=
  let bad := x.any (fun v => match v with
    | .nan _ | .inf _ => true
    | .fin _ _ _ => false)
  if bad then (255, Fl.when (x.any FV.sig) Fl.nv)
  else
    let mmax := 2 ^ m - 1
    let e := least (fun e => scaledRne (maxMag x) (127 - e) ≤ mmax) 0 254
    let sig := (List.range 4).map (fun q =>
      let a := maxMag ((x.drop (4 * q)).take 4)
      3 - least (fun j => scaledRne a (127 - e + (3 - j : Nat)) ≤ mmax) 0 3)
    let el := (List.range 16).map (fun i =>
      let v := x.getD i (.fin false 0 0)
      let k : Int := 127 - e + (sig.getD (i / 4) 0 : Nat)
      let mm := scaledRne v k
      (mm + (if v.sign then 2 ^ m else 0), cmpMag mm (-k) v.int.natAbs v.exp != .eq))
    (e + digits 2 sig * 256 + digits (m + 1) (el.map (·.1)) * 65536,
      Fl.when (el.any (·.2)) Fl.nx)

/-- The exact values of a BX block's sixteen elements (R227). -/
def bxValues (m : Nat) (b : Nat) : List FV :=
  let e := bits b 0 8
  (List.range 16).map (fun i =>
    if e = 255 then .nan false
    else
      let el := bits b (16 + (m + 1) * i) (m + 1)
      .fin (el.testBit m) (bits el 0 m) ((e : Int) - 127 - (bits b (8 + 2 * (i / 4)) 2 : Nat)))

/-- Element i's magnitude with its sign, and the shift of its quad (R226, R237). -/
def bxElem (m : Nat) (b i : Nat) : Int × Nat :=
  let el := bits b (16 + (m + 1) * i) (m + 1)
  (if el.testBit m then -(bits el 0 m : Nat) else bits el 0 m, bits b (8 + 2 * (i / 4)) 2)

/-- FP32 addition of bit patterns under RNE, as sums outside FPCSR take it (R235, R239, R418). -/
def addFp32 (a b : Nat) : Nat := (fAdd fp32 0 (unpack fp32 a) (unpack fp32 b)).1

/-- The order of two FP32 patterns in IEEE totalOrder, as an integer key (R374). -/
def totalKey (n : Nat) : Int := if n.testBit 31 then -1 - (n % 2 ^ 31 : Nat) else (n % 2 ^ 31 : Nat)

end Sys2Proof.Machine
end

