-- ==== Sys2Proof/Machine/Tiles.lean ====
section
/-!
DEFINITION. Type words, their well-formedness and combinations, images in every layout, windows,
ZB images and storage descriptors (R201 to R209, R49, R50). An image is held as one number, byte 0
lowest.
-/

namespace Sys2Proof.Machine

/-- The fields of a type word (R201). -/
def twRank (t : Quad) : Nat := bits t.toNat 0 3
@[inherit_doc twRank] def twFmt (t : Quad) : Nat := bits t.toNat 3 5
@[inherit_doc twRank] def twLay (t : Quad) : Nat := bits t.toNat 8 4
@[inherit_doc twRank] def twSaxis (t : Quad) : Nat := bits t.toNat 12 2
@[inherit_doc twRank] def twSblk (t : Quad) : Nat := bits t.toNat 14 2
@[inherit_doc twRank] def twExt (t : Quad) (i : Nat) : Nat := bits t.toNat (16 + 24 * i) 24
/-- SBLK × 4 + SAXIS (R214). -/
def twScale (t : Quad) : Nat := twSblk t * 4 + twSaxis t

/-- A type word from its fields; extents beyond the list are 0. -/
def mkTw (rank fmt lay scale : Nat) (exts : List Nat) : Quad :=
  BitVec.ofNat 128 (rank + fmt * 8 + lay * 256 + (scale % 4) * 4096 + (scale / 4) * 16384 +
    digits 24 exts * 65536)

/-- The extents below RANK, as encoded. -/
def twExts (t : Quad) : List Nat := (List.range (twRank t)).map (twExt t)

/-- A type word with its extents replaced. -/
def twWith (t : Quad) (exts : List Nat) : Quad := mkTw (twRank t) (twFmt t) (twLay t) (twScale t) exts

/-- The format codes of R201. -/
def fmtOk (f : Nat) : Bool := (1 ≤ f && f ≤ 12) || f == 14

/-- BX formats, formats that may carry external scales, and floating formats (R203). -/
def isBx (f : Nat) : Bool := f == 6 || f == 7 || f == 8
@[inherit_doc isBx] def isScaled (f : Nat) : Bool := f == 4 || f == 5 || f == 9
/-- The floating format of a code (R219). -/
def floatOf (f : Nat) : Option FFmt :=
  match f with
  | 1 => some fp32
  | 2 => some fp16
  | 3 => some bf16
  | 4 => some e4m3
  | 5 => some e5m2
  | _ => none

/-- Signedness and width of an integer format, VQ8 counted as UINT8 bits. -/
def intOf (f : Nat) : Option (Bool × Nat) :=
  match f with
  | 9 => some (true, 8)
  | 10 => some (false, 8)
  | 11 => some (true, 16)
  | 12 => some (true, 32)
  | 14 => some (false, 8)
  | _ => none

/-- Bytes of an element; 0 for BX (R204). -/
def elemSize (f : Nat) : Nat :=
  if f = 1 || f = 12 then 4 else if f = 2 || f = 3 || f = 11 then 2 else if isBx f then 0 else 1

/-- Magnitude bits of a BX format (R226). -/
def bxM (f : Nat) : Nat := if f = 6 then 2 else if f = 7 then 4 else 7

/-- Bytes of a storage unit: an element, or a BX block. -/
def unitSize (f : Nat) : Nat := if isBx f then bxBytes (bxM f) else elemSize f

/-- Whether an extent encoding is a variable (R201). -/
def isVar (e : Nat) : Bool := e.testBit 23

/-- The reserved codes and stray bits of the fields of a non-empty type word (R202). -/
def twStray (t : Quad) : List Nat :=
  let n := t.toNat
  let hi := match lowBit 16 (n >>> 112) with
    | some b => [112 + b]
    | none => []
  let ext := (List.range 4).flatMap (fun i =>
    let e := twExt t i
    let lo := 16 + 24 * i
    if i < twRank t then
      if isVar e then
        match lowBit 19 (bits e 4 19) with
        | some b => [lo + 4 + b]
        | none => []
      else if e = 0 then [lo] else []
    else match lowBit 24 e with
      | some b => [lo + b]
      | none => [])
  (if 4 < twRank t then [0] else []) ++ (if fmtOk (twFmt t) then [] else [3]) ++
    (if 6 < twLay t then [8] else []) ++ (if twSaxis t = 3 then [12] else []) ++
    (if 1 < twSblk t then [14] else []) ++ ext ++ hi

/-- The scale fields that a format allows (R203). -/
def scaleFits (f sa sb : Nat) : Bool :=
  if isBx f then (sa = 1 || sa = 2) && sb = 1
  else (sa = 0 && sb = 0) || (isScaled f && (sa = 1 || sa = 2) && sb = 1)

/-- The bit at which a forbidden combination of R203 offends (R202). A reserved code offends for itself: a reserved
LAYOUT has no ranks to clash with, and a reserved FMT no layouts or scale fields. (DEDUCED, log 61.) -/
def twClash (t : Quad) : Option Nat :=
  let r := twRank t
  let l := twLay t
  let f := twFmt t
  let sa := twSaxis t
  if 1 ≤ r && r ≤ 4 && (((l = 2 || l = 3 || l = 6) && r ≠ 2) || ((l = 4 || l = 5) && r < 2)) then some 0
  else if !fmtOk f then none
  else if (f = 14 && (l = 2 || l = 3 || l = 5)) || (isBx f && (3 < l || sa ≠ 1 + l % 2)) then some 8
  else if !scaleFits f sa (twSblk t) then some 12
  else none

/-- The lowest offending bit of a malformed type word; none where it is well formed (R202). -/
def twBad (t : Quad) : Option Nat :=
  if twRank t = 0 then lowBit 128 t.toNat
  else
    match twStray t ++ (twClash t).toList with
    | [] => none
    | x :: l => some (l.foldl min x)

/-- The product of a list. -/
def prod (l : List Nat) : Nat := l.foldl (· * ·) 1

/-- The axis of a run: extent 0 in layout 1, else the last (R204). -/
def runAxis (t : Quad) : Nat := if twLay t = 1 then 0 else twRank t - 1

/-- Bytes of a run (R204). -/
def runBytes (t : Quad) (d : List Nat) : Nat :=
  let n := d.getD (runAxis t) 0
  if isBx (twFmt t) then ceilDiv n 16 * unitSize (twFmt t) else n * elemSize (twFmt t)

/-- The number of runs (R204). -/
def runCount (t : Quad) (d : List Nat) : Nat :=
  prod ((List.range (twRank t)).map (fun i => if i = runAxis t then 1 else d.getD i 0))

/-- The k and y axes of layouts 2 and 3 (R205). -/
def portAxes (t : Quad) : Nat × Nat := if twLay t = 2 then (1, 0) else (0, 1)

/-- r of R205: positions of y in a row. -/
def portR (t : Quad) : Nat :=
  if isBx (twFmt t) then 128 / unitSize (twFmt t) else 128 / (16 * elemSize (twFmt t))

/-- Planes, block rows and block columns of layouts 4 and 5 (R206). -/
def blockGeom (t : Quad) (d : List Nat) : Nat × Nat × Nat :=
  let r := twRank t
  (prod (d.take (r - 2)), ceilDiv (d.getD (r - 2) 0) 8, ceilDiv (d.getD (r - 1) 0) 8)

/-- The capacity in bytes of a layout-5 image (R206). (DEDUCED, log 45.) -/
def zbCapacity (t : Quad) (d : List Nat) : Nat :=
  let (p, br, bc) := blockGeom t d
  p * (ceilDiv (br * bc) 64 * 8 + br * bc * 64 * elemSize (twFmt t))

/-- The 128-byte rows of an image, or for layout 5 of its capacity (R204 to R206). -/
def imageRows (t : Quad) (d : List Nat) : Nat :=
  match twRank t with
  | 0 => 0
  | _ =>
    match twLay t with
    | 2 | 3 =>
      let (k, y) := portAxes t
      ceilDiv (d.getD k 0) 16 * ceilDiv (d.getD y 0) (portR t)
    | 4 =>
      let (p, br, bc) := blockGeom t d
      ceilDiv (p * br * bc * 64 * elemSize (twFmt t)) 128
    | 5 => ceilDiv (zbCapacity t d) 128
    | _ => runCount t d * ceilDiv (runBytes t d) 128

/-- The bytes of an image in a window of a PITCH; none where the pitch gives it no image (R207). -/
def windowBytes (t : Quad) (d : List Nat) (pitch : Nat) : Option Nat :=
  match twLay t with
  | 0 | 1 => if pitch < ceilDiv (runBytes t d) 128 then none else some (runCount t d * pitch * 128)
  | 5 => if pitch = 0 then some (zbCapacity t d) else none
  | _ => if pitch = 1 then some (imageRows t d * 128) else none

/-- Whether a TYPE and PITCH make a window that fits LEN (R104). -/
def windowOk (t : Quad) (pitch len : Nat) : Bool :=
  twBad t == none && twRank t ≠ 0 && (twExts t).all (fun e => !isVar e) &&
    match windowBytes t (twExts t) pitch with
    | some n => twLay t == 5 || n ≤ len
    | none => false

/-- Row-major linear index of an index over extents. -/
def linIdx : List Nat → List Nat → Nat
  | [], _ => 0
  | _, [] => 0
  | _ :: d, i :: l => i * prod d + linIdx d l

/-- The index of a row-major linear position. -/
def unlin : List Nat → Nat → List Nat
  | [], _ => []
  | _ :: d, n => n / prod d :: unlin d (n % prod d)

/-- Every index of an image, in row-major order. -/
def allIdx (d : List Nat) : List (List Nat) := (List.range (prod d)).map (unlin d)

/-- A list without element `i`. -/
def dropAt (l : List Nat) (i : Nat) : List Nat := l.take i ++ l.drop (i + 1)

/-- The byte at which the storage unit of an index lies, in an image whose runs of layouts 0 and 1
stand `pitch` rows apart (0: packed as in the deep file), and its place in a BX block
(R204 to R207). Layout 5 is not of this form. -/
def unitPos (t : Quad) (d : List Nat) (pitch : Nat) (ix : List Nat) : Nat × Nat :=
  let f := twFmt t
  let u := unitSize f
  match twLay t with
  | 2 | 3 =>
    let (ka, ya) := portAxes t
    let k := ix.getD ka 0
    let y := ix.getD ya 0
    let r := portR t
    let row := k / 16 * ceilDiv (d.getD ya 0) r + y / r
    if isBx f then (row * 128 + y % r * u, k % 16)
    else (row * 128 + y % r * 16 * u + k % 16 * u, 0)
  | 4 =>
    let (_, br, bc) := blockGeom t d
    let n := twRank t
    let i := ix.getD (n - 2) 0
    let j := ix.getD (n - 1) 0
    let plane := linIdx (d.take (n - 2)) (ix.take (n - 2))
    ((((plane * br + i / 8) * bc + j / 8) * 64 + i % 8 * 8 + j % 8) * u, 0)
  | l =>
    let ax := runAxis t
    let od := dropAt d ax
    let oi := dropAt ix ax
    let q := if l = 1 then linIdx od.reverse oi.reverse else linIdx od oi
    let p := ix.getD ax 0
    let stride := if pitch = 0 || l = 6 then ceilDiv (runBytes t d) 128 else pitch
    if isBx f then (q * stride * 128 + p / 16 * u, p % 16) else (q * stride * 128 + p * u, 0)

/-- Bytes of an image. -/
def imgGet (img pos n : Nat) : Nat := bits img (8 * pos) (8 * n)

/-- The axis of a BX format's blocks (R203). -/
def scaleAxis (t : Quad) : Nat := if twSaxis t = 1 then twRank t - 1 else 0

/-- Place one storage unit in an image under construction. -/
def imgPut (img pos v : Nat) : Nat := img ||| v <<< (8 * pos)

/-- The image whose element at each index has the bits `f` gives; for a BX format `f` gives the
block that begins at the index. Padding is 0. Layout 5 is not of this form. -/
def buildImage (t : Quad) (d : List Nat) (pitch : Nat) (f : List Nat → Nat) : Nat :=
  (allIdx d).foldl (fun img ix =>
    let (p, k) := unitPos t d pitch ix
    if k = 0 then imgPut img p (f ix % 2 ^ (8 * unitSize (twFmt t))) else img) 0

/-- The first planes of a ZB image and their bytes: of each the bitmap, padded to 64 bits, and the present
blocks (R49). -/
def zbOf (t : Quad) (d : List Nat) (p : Nat) (f : List Nat → Nat) : Nat × Nat :=
  let (_, br, bc) := blockGeom t d
  let n := twRank t
  let b := elemSize (twFmt t)
  let block (pl k : Nat) : Nat :=
    digits (8 * b) ((List.range 64).map (fun e =>
      let i := k / bc * 8 + e / 8
      let j := k % bc * 8 + e % 8
      if i < d.getD (n - 2) 0 && j < d.getD (n - 1) 0 then f (unlin (d.take (n - 2)) pl ++ [i, j]) else 0))
  (List.range p).foldl (fun (img, pos) pl =>
    let bl := (List.range (br * bc)).map (block pl)
    let map := digits 1 (bl.map (fun x => if x = 0 then 0 else 1))
    let start := pos + ceilDiv (br * bc) 64 * 8
    (bl.filter (fun x => x ≠ 0)).foldl (fun (img, pos) x => (imgPut img pos x, pos + 64 * b))
      (imgPut img pos map, start)) (0, 0)

/-- The ZB image and its bytes. -/
def buildZb (t : Quad) (d : List Nat) (f : List Nat → Nat) : Nat × Nat := zbOf t d (blockGeom t d).1 f

/-- The byte at which each plane of a ZB image begins, and the byte after the last (R49). -/
def zbPlanes (t : Quad) (d : List Nat) (img : Nat) : List Nat :=
  let (p, br, bc) := blockGeom t d
  (List.range p).foldl (fun l _ =>
    let pos := l.getLastD 0
    l ++ [pos + ceilDiv (br * bc) 64 * 8 +
      popCount (br * bc) (bits img (8 * pos) (br * bc)) * 64 * elemSize (twFmt t)]) [0]

/-- The bytes that a ZB image occupies. -/
def zbBytes (t : Quad) (d : List Nat) (img : Nat) : Nat := (zbPlanes t d img).getLastD 0

/-- The plane of an index. -/
def zbPlane (t : Quad) (d : List Nat) (ix : List Nat) : Nat := linIdx (d.take (twRank t - 2)) (ix.take (twRank t - 2))

/-- The byte at which an element of a ZB image lies; none where its block is absent (R49, R257). -/
def zbAt (t : Quad) (d : List Nat) (img : Nat) (ix : List Nat) : Option Nat :=
  let (_, br, bc) := blockGeom t d
  let n := twRank t
  let b := elemSize (twFmt t)
  let i := ix.getD (n - 2) 0
  let j := ix.getD (n - 1) 0
  let k := i / 8 * bc + j / 8
  let pos := (zbPlanes t d img).getD (zbPlane t d ix) 0
  let map := bits img (8 * pos) (br * bc)
  if map.testBit k then some (pos + ceilDiv (br * bc) 64 * 8 + (popCount k map * 64 + i % 8 * 8 + j % 8) * b) else none

/-- The bits of an element of a ZB image; none where its block is absent. -/
def zbGet (t : Quad) (d : List Nat) (img : Nat) (ix : List Nat) : Option Nat :=
  (zbAt t d img ix).map (fun p => imgGet img p (elemSize (twFmt t)))

/-- The bits of an element's storage unit, 0 where a ZB block is absent; for BX the whole block. -/
def unitGet (t : Quad) (d : List Nat) (pitch : Nat) (img : Nat) (ix : List Nat) : Nat :=
  if twLay t = 5 then (zbGet t d img ix).getD 0
  else imgGet img (unitPos t d pitch ix).1 (unitSize (twFmt t))

/-- The exact value of the bits of an element format (R219, R231); integers are exact values too. -/
def valueOf (f n : Nat) : FV :=
  match floatOf f, intOf f with
  | some g, _ => unpack g n
  | none, some (sg, w) => FV.ofInt false (if sg then toS w n else (n % 2 ^ w : Nat)) 0
  | none, none => .fin false 0 0

/-- The exact value of an element of an image, without external scales (R227). -/
def elemValue (t : Quad) (d : List Nat) (pitch : Nat) (img : Nat) (ix : List Nat) : FV :=
  let n := unitGet t d pitch img ix
  if isBx (twFmt t) then (bxValues (bxM (twFmt t)) n).getD (unitPos t d pitch ix).2 (.fin false 0 0)
  else valueOf (twFmt t) n

/-- The 128-byte rows over which bytes of an image reach. -/
def rowsOver (a n : Nat) : List Nat := (List.range (ceilDiv (a + n) 128 - a / 128)).map (a / 128 + ·)

/-- The indices of the storage units of which a byte lies in a row of an image; layout 5 is not of this form. -/
def unitsIn (t : Quad) (r : Nat) : List (List Nat) :=
  let d := twExts t
  (allIdx d).filter (fun ix =>
    let (p, k) := unitPos t d 0 ix
    k = 0 && p < 128 * (r + 1) && 128 * r < p + unitSize (twFmt t))

/-- A row of an image from its storage units. -/
def buildRow (t : Quad) (r : Nat) (f : List Nat → Nat) : Row :=
  let img := (unitsIn t r).foldl (fun img ix =>
    imgPut img (unitPos t (twExts t) 0 ix).1 (f ix % 2 ^ (8 * unitSize (twFmt t)))) 0
  BitVec.ofNat 1024 (bits img (1024 * r) 1024)

/-- The bits of a value converted to an element format (R233, R234). -/
def convertTo (f mode : Nat) (sat : Bool) (v : FV) : Nat × Fl :=
  match floatOf f, intOf f with
  | some g, _ => let (b, fl) := roundTo g mode sat v; (b, fl ||| sigFlag [v])
  | none, some (sg, w) => let (i, fl) := toIntFmt sg w mode v; (ofI w i, fl)
  | none, none => (0, 0)

/-- The fields of a storage descriptor (R208). -/
def dKind (w : Word) : Nat := fld w 62 2
@[inherit_doc dKind] def dCount (w : Word) : Nat := fld w 11 12
@[inherit_doc dKind] def dRow (w : Word) : Nat := fld w 0 11
@[inherit_doc dKind] def dAreg (w : Word) : Nat := fld w 57 5
@[inherit_doc dKind] def dOffset (w : Word) : Nat := fld w 0 48
@[inherit_doc dKind] def dEntries (w : Word) : Nat := fld w 16 17
@[inherit_doc dKind] def dBase (w : Word) : Nat := fld w 0 16

/-- Descriptors of a deep-file range, of a window and of an ACM range (R208). -/
def mkDeep (row count : Nat) : Word := BitVec.ofNat 64 (2 ^ 62 + count * 2048 + row)
@[inherit_doc mkDeep] def mkWindow (areg off : Nat) : Word := BitVec.ofNat 64 (2 ^ 63 + areg * 2 ^ 57 + off)

/-- The lowest offending bit of a malformed descriptor (R209). -/
def descBad (w : Word) : Option Nat :=
  let n := w.toNat
  let stray := match dKind w with
    | 0 => lowBit 62 n
    | 1 => (lowBit 39 (bits n 23 39)).map (· + 23)
    | 2 => match lowBit 7 n, lowBit 9 (bits n 48 9) with
      | some b, _ => some b
      | none, b => b.map (· + 48)
    | _ => (lowBit 29 (bits n 33 29)).map (· + 33)
  if dKind w = 1 && dCount w = 0 then some 11
  else if dKind w = 3 && dEntries w = 0 then some 16
  else stray

/-- The end of a descriptor that leaves its store, and the store's size (R209, R214). -/
def descLeaves (w : Word) (dflen : Nat) : Option (Nat × Nat) :=
  match dKind w with
  | 1 => if dflen < dRow w + dCount w then some (dflen, dRow w + dCount w) else none
  | 3 => if 65536 < dBase w + dEntries w then some (65536, dBase w + dEntries w) else none
  | _ => none

/-- The units of a typed access: offset and length of each row of the image from its start
(R275, R414). For layout 5 they reach over the capacity; `total` is the image's bytes where known. -/
def typedUnits (t : Quad) (pitch start : Nat) (total : Option Nat) : List (Nat × Nat) :=
  let d := twExts t
  if twLay t ≤ 1 then
    let n := ceilDiv (runBytes t d) 128
    (List.range (runCount t d * n)).map (fun i => (start + (i / n * pitch + i % n) * 128, 128))
  else if twLay t = 5 then
    let n := total.getD (zbCapacity t d)
    (List.range (ceilDiv n 128)).map (fun i => (start + 128 * i, min 128 (n - 128 * i)))
  else (List.range (imageRows t d)).map (fun i => (start + 128 * i, 128))

/-- The 128-byte rows of an image in a window, by the DVA of their first byte (R207). -/
def windowRows (t : Quad) (pitch base : Nat) : List Nat := (typedUnits t pitch base none).map (·.1)

/-- How many of the rows `b` share a byte with one of the rows `a` (R217). -/
def sharedWindow (a b : List Nat) : Nat := (b.filter (fun x => a.any (fun y => x < y + 128 && y < x + 128))).length

end Sys2Proof.Machine
end

