-- ==== Sys2Proof/Machine/Translate.lean ====
section
/-!
DEFINITION. Spaces, object tables, page walks and the translation caches (R101 to R112). A space is
named by GEN in bits [15:12] and SID in [11:0], as in fault records.
-/

namespace Sys2Proof.Machine

/-- SID and GEN of a packed space name (R71). -/
def sidOf (sp : BitVec 16) : BitVec 12 := sp.extractLsb' 0 12
@[inherit_doc sidOf] def genOf (sp : BitVec 16) : BitVec 4 := sp.extractLsb' 12 4
/-- A packed space name. -/
def mkSpace (gen : BitVec 4) (sid : BitVec 12) : BitVec 16 := gen ++ sid

/-- The compute die of a requester's caches; the I/O die's requesters use those of die 0. -/
def rqDie : Requester → Nat
  | .ctx c _ | .ce c | .me c | .loadBlock c _ | .fabric c _ => c / 256
  | .merge cl => cl / 16
  | .pix _ | .media _ | .edgeFill _ => 0

/-- The TLBs a requester looks in, nearest first (R110). -/
def rqPlaces : Requester → List TlbPlace
  | .ctx c _ | .ce c | .me c | .loadBlock c _ | .fabric c _ => [.micro c, .cluster (c / 16), .last (c / 256)]
  | .merge cl => [.cluster cl, .last (cl / 16)]
  | .pix _ | .media _ | .edgeFill _ => [.last 0]

/-- The capacity of a TLB (R110). -/
def TlbPlace.cap : TlbPlace → Nat
  | .micro _ => 64
  | .cluster _ => 512
  | .last _ => 2048

/-- Insert an entry into a cache whose entries `same` share its structure of capacity `cap`; the one
dropped from a full structure is a free value. (DESIGN CHOICE, log 32.) -/
def cacheInsert {α : Type} (cap draw : Nat) (same : α → Bool) (e : α) (l : List α) : List α :=
  let n := (l.filter same).length
  if n < cap then l ++ [e]
  else
    let victim := Config.freeNat draw % n
    let r := l.foldl (fun (acc : List α × Nat) x =>
      if same x then (if acc.2 = victim then acc.1 else acc.1 ++ [x], acc.2 + 1) else (acc.1 ++ [x], acc.2))
      ([], 0)
    r.1 ++ [e]

/-- The space-table entry as memory holds it: ROOT, OTBASE, OTCOUNT; none for an invalid one
(R101, R102). -/
def State.spaceRaw (s : State) (sid : BitVec 12) : Option (Nat × Nat × Nat) :=
  let pa := fld s.sptbase 17 31 * 2 ^ 17 + 32 * sid.toNat
  let w0 := s.word0 pa 8
  let w1 := s.word0 (pa + 8) 8
  let n := s.word0 (pa + 16) 4
  if (s.poisonAt 0 pa 32).isSome || w0 % 2 = 0 || bits w0 48 16 ≠ 0 || bits w0 1 11 ≠ 0 ||
    bits w1 48 16 ≠ 0 || bits w1 0 6 ≠ 0 || 2 ^ 24 < n || s.word0 (pa + 20) 12 ≠ 0 then none
  else some (bits w0 12 36 * 4096, w1, n)

/-- The space-table entry that a die uses: its cached copy, or memory's (R110). -/
def State.space (s : State) (die : Nat) (sp : BitVec 16) : Option (Nat × Nat × Nat) :=
  match s.spaceCache.find? (fun e => e.die = die && e.sid = sidOf sp && e.gen = genOf sp) with
  | some e => some (e.root, e.otbase, e.otcount)
  | none => s.spaceRaw (sidOf sp)

/-- An object-table entry from its 64 bytes; none where it counts as V = 0 (R103 to R105). -/
def objOfBytes (b : List Byte) : Option ObjEntry :=
  let base := getLe b 0 8
  let len := getLe b 8 8
  let fl := getLe b 16 2
  let pitch := getLe b 18 2
  let ty : Quad := BitVec.ofNat 128 (getLe b 32 16)
  let tw := fl.testBit 1
  if !fl.testBit 0 || 2 ^ 48 ≤ base || base % 128 ≠ 0 || 2 ^ 40 ≤ len || 8 ≤ fl || getLe b 20 12 ≠ 0 ||
    getLe b 48 16 ≠ 0 then none
  else if !tw && (pitch ≠ 0 || ty ≠ 0) then none
  else if tw && !windowOk ty pitch len then none
  else some ⟨base, len, fl.testBit 2, tw, pitch, ty⟩

/-- The object-table entry as memory holds it, and its physical address. -/
def State.objRaw (s : State) (die : Nat) (sp : BitVec 16) (obj : Nat) : Option (Nat × ObjEntry) :=
  match s.space die sp with
  | none => none
  | some (_, ot, n) =>
    if n ≤ obj || (s.poisonAt 0 (ot + 64 * obj) 64).isSome then none
    else (objOfBytes (s.memRead 0 (ot + 64 * obj) 64)).map (fun e => (ot + 64 * obj, e))

/-- The object-table entry that a core uses: its cached copy, or memory's (R103, R110). -/
def State.object (s : State) (core : Nat) (sp : BitVec 16) (obj : Nat) : Option ObjEntry :=
  match s.objCache.find? (fun e => e.core = core && e.sid = sidOf sp && e.gen = genOf sp && e.obj = obj) with
  | some e => some e.ent
  | none => (s.objRaw (core / 256) sp obj).map (·.2)

/-- Hold an object's entry in a core's object cache (R110). -/
def State.cacheObject (s : State) (core : Nat) (sp : BitVec 16) (obj : Nat) : State :=
  if s.objCache.any (fun e => e.core = core && e.sid = sidOf sp && e.gen = genOf sp && e.obj = obj) then s
  else
    match s.objRaw (core / 256) sp obj with
    | none => s
    | some (pa, e) =>
      { s with
        objCache := cacheInsert 32 s.fresh (fun x => x.core = core)
          ⟨core, sidOf sp, genOf sp, obj, pa, e⟩ s.objCache
        fresh := s.fresh + 1 }

/-- How a walk ends (R108, R118): a leaf, a fault with its access code, or a page in motion. -/
inductive WalkEnd where
  | leaf (dva size pa : Nat) (key : BitVec 9) (wr ex : Bool) (pte : Nat)
  | fault (acc : Nat)
  | moving
  deriving DecidableEq, Repr

/-- The levels of the page table: first DVA bit, index bits, leaf allowed, size of the next table
(R106). -/
def walkLevels : List (Nat × Nat × Bool × Nat) :=
  [(39, 9, false, 4096), (30, 9, true, 4096), (21, 9, true, 256), (16, 5, true, 0)]

/-- The page-table entry is valid in form at its level (R107, R108). -/
def pteOk (e : Nat) (lo : Nat) (leafOk : Bool) (next : Nat) : Bool :=
  let leaf := e.testBit 1
  let addr := bits e 8 40 * 256
  bits e 60 4 = 0 && bits e 48 2 = 0 && !e.testBit 2 &&
    (if leaf then leafOk && addr % 2 ^ lo = 0 && isMemory addr (2 ^ lo)
     else next ≠ 0 && bits e 50 10 = 0 && bits e 3 5 = 0 && addr % next = 0 && isMemory addr next)

/-- The walk from a table through the levels left; `base` is the access code of a plain fault
(R106 to R108). Its second part lists the pointers passed: level, DVA prefix, table. -/
def State.walkFrom (s : State) (dva : Nat) (write exec : Bool) (base : Nat) :
    Nat → Nat → List (Nat × Nat × Bool × Nat) → WalkEnd × List (Nat × Nat × Nat)
  | _, _, [] => (.fault base, [])
  | table, lvl, (lo, w, leafOk, next) :: rest =>
    let pte := table + 8 * bits dva lo w
    let e := s.word0 pte 8
    if (s.poisonAt 0 pte 8).isSome || e % 2 = 0 || !pteOk e lo leafOk next then (.fault base, [])
    else if e.testBit 1 then
      let addr := bits e 8 40 * 256
      if e.testBit 7 then (.moving, [])
      else if write && !e.testBit 3 then (.fault (if base = 3 then 3 else 1), [])
      else if exec && !e.testBit 4 then (.fault 2, [])
      else (.leaf (dva / 2 ^ lo * 2 ^ lo) (2 ^ lo) addr (BitVec.ofNat 9 (bits e 50 9)) (e.testBit 3)
        (e.testBit 4) pte, [])
    else
      let addr := bits e 8 40 * 256
      let (r, l) := State.walkFrom s dva write exec base addr (lvl + 1) rest
      (r, (lvl + 1, dva / 2 ^ lo * 2 ^ lo, addr) :: l)

/-- The pointer a walk of a die starts from: the deepest one cached, or the root (R110). -/
def State.walkStart (s : State) (die : Nat) (sp : BitVec 16) (root dva : Nat) : Nat × Nat :=
  let at_ (lvl lo : Nat) := (s.walkCache.find? (fun e => e.die = die && e.sid = sidOf sp &&
    e.gen = genOf sp && e.level = lvl && e.dva = dva / 2 ^ lo * 2 ^ lo)).map (fun e => (lvl, e.table))
  match at_ 3 21, at_ 2 30, at_ 1 39 with
  | some x, _, _ => x
  | none, some x, _ => x
  | none, none, some x => x
  | none, none, none => (0, root)

/-- A cached translation that serves an access (R110): physical address and key index. While a command on
the key runs, accesses under it wait (R123). -/
def State.tlbFind (s : State) (rq : Requester) (sp : BitVec 16) (dva : Nat) (write exec : Bool) :
    Option (Nat × BitVec 9) :=
  ((s.tlb.find? (fun e => (rqPlaces rq).contains e.place && e.sid = sidOf sp && e.gen = genOf sp &&
    e.dva ≤ dva && dva < e.dva + e.size && (!write || e.wrok) && (!exec || e.ex))).map
    (fun e => (e.pa + (dva - e.dva), e.key))).filter (fun r => !(s.keys.busy && r.2 = s.keys.sel))

/-- How a walk left the machine: installed, faulted with address and access code, faulted for want of a space entry, or
waiting. -/
inductive Walked where
  | installed
  | faulted (addr acc : Nat)
  /-- The space has no valid entry: the fault names the object (R102, R105). -/
  | noSpace (acc : Nat)
  | waiting
  deriving DecidableEq, Repr

/-- Set A, and for a write D, in a leaf entry (R109). -/
def State.markPte (s : State) (pte : Nat) (write : Bool) : State :=
  let e := s.word0 pte 8
  let e' := e ||| 2 ^ 5 ||| (if write then 2 ^ 6 else 0)
  if e' = e then s else s.memPut 0 pte (bytesOf 8 e')

/-- Install a leaf in the TLBs of a requester (R109, R110). A translation installed by a read
carries no write permission. -/
def State.installLeaf (s : State) (rq : Requester) (sp : BitVec 16) (write : Bool) (dva size pa : Nat)
    (key : BitVec 9) (ex : Bool) (pte : Nat) : State :=
  (rqPlaces rq).foldl (fun s p =>
    let e : TlbEntry := ⟨p, sidOf sp, genOf sp, dva, size, pa, key, write, ex, pte⟩
    let l := s.tlb.filter (fun x => !(x.place = p && x.sid = e.sid && x.gen = e.gen && x.dva = dva && x.size = size))
    { s with tlb := cacheInsert p.cap s.fresh (fun x => x.place = p) e l, fresh := s.fresh + 1 }) s

/-- Run a walk to its end (R106 to R110). `base` is the requester's access code for plain faults:
0 for a read, 1 for a write, 2 for a fetch, 3 for an engine. (DESIGN CHOICE, log 32.) -/
def State.walk (s : State) (rq : Requester) (sp : BitVec 16) (dva : Nat) (write exec : Bool) (base : Nat) :
    State × Walked :=
  let die := rqDie rq
  if 2 ^ 48 ≤ dva then (s, .faulted (dva % 2 ^ 64) base)
  else
    match s.space die sp with
    | none => (s, .noSpace base)
    | some (root, ot, n) =>
      let s := if s.spaceCache.any (fun e => e.die = die && e.sid = sidOf sp && e.gen = genOf sp) then s
        else { s with
          spaceCache := cacheInsert 64 s.fresh (fun e => e.die = die)
            ⟨die, sidOf sp, genOf sp, fld s.sptbase 17 31 * 2 ^ 17 + 32 * (sidOf sp).toNat, root, ot, n⟩ s.spaceCache
          fresh := s.fresh + 1 }
      let (lvl, table) := s.walkStart die sp root dva
      let (r, ptrs) := s.walkFrom dva write exec base table lvl (walkLevels.drop lvl)
      let s := ptrs.foldl (fun s (l, d, t) => { s with
        walkCache := cacheInsert 1024 s.fresh (fun e => e.die = die) ⟨die, sidOf sp, genOf sp, l, d, t⟩ s.walkCache
        fresh := s.fresh + 1 }) s
      match r with
      | .leaf d size pa key wr ex pte =>
        ((s.markPte pte write).installLeaf rq sp (write && wr) d size pa key ex pte, .installed)
      | .fault acc => (s, .faulted dva acc)
      | .moving => (s, .waiting)

/-- Two walks of one die, SID and GEN to the same 64 KiB are one (R112). -/
def Walk.same (a b : Walk) : Bool := a.die = b.die && a.sid = b.sid && a.gen = b.gen && a.dva / 65536 = b.dva / 65536

/-- The walks that run on a die, a shared one counted once (R112). -/
def runningWalks (l : List Walk) (die : Nat) : Nat :=
  (l.foldl (fun (a : List Walk) w => if w.running && w.die = die && !a.any (fun v => v.same w) then a ++ [w] else a) []).length

/-- The walks a die runs at once (R112). -/
def walkersPerDie : Nat := 384

/-- Let waiting walks run, in arrival order, while walkers are free (R112). (DESIGN CHOICE, log 32.) -/
def startWalks (l : List Walk) : List Walk :=
  l.foldl (fun (a : List Walk) w => a ++ [if w.running then w else
    { w with running := l.any (fun v => v.running && v.same w) || a.any (fun v => v.running && v.same w) ||
        runningWalks (a ++ l.drop a.length) w.die < walkersPerDie }]) []

/-- Drop the walks of a requester; others may run (R112). -/
def State.endWalk (s : State) (r : Requester) : State :=
  { s with walks := startWalks (s.walks.filter (fun w => w.req ≠ r)) }

/-- A miss asks for a walker (R112): it joins the walks of its die, or goes on in its place there.
(DESIGN CHOICE, log 32.) -/
def State.askWalk (s : State) (rq : Requester) (sp : BitVec 16) (dva : Nat) (write exec : Bool) : State :=
  let w : Walk := ⟨rq, rqDie rq, sidOf sp, genOf sp, dva, write, exec, false⟩
  { s with walks := startWalks (if s.walks.any (fun v => v.req = rq) then
      s.walks.map (fun v => if v.req = rq then { w with running := v.running } else v) else s.walks ++ [w]) }

/-- Whether a requester's miss has a walker (R112). -/
def State.walking (s : State) (rq : Requester) : Bool := s.walks.any (fun w => w.req = rq && w.running)

/-- A translation for an engine: the TLBs, or, once a walker is free, a walk run in place; a miss that finds none, and a walk
that meets a page in motion, keep their place (R86, R108, R112, R118). (DESIGN CHOICE, log 32.) -/
def State.xlate (s : State) (rq : Requester) (sp : BitVec 16) (dva : Nat) (write exec : Bool) (base : Nat) :
    State × Except Walked (Nat × BitVec 9) :=
  match s.tlbFind rq sp dva write exec with
  | some r => (s, .ok r)
  | none =>
    let s := s.askWalk rq sp dva write exec
    if !s.walking rq then (s, .error .waiting)
    else match s.walk rq sp dva write exec base with
    | (s, .installed) =>
      match s.tlbFind rq sp dva write exec with
      | some r => (s.endWalk rq, .ok r)
      | none => (s.endWalk rq, .error .waiting)
    | (s, .waiting) => (s, .error .waiting)
    | (s, w) => (s.endWalk rq, .error w)

/-- The address field of a fault on an object with no valid entry (R105). -/
def objFaultAddr (obj : Nat) : Nat := 0x8000000000000000 + obj

/-- Drop cached translations of a space that cover a DVA range; the whole space where it has no
bytes (R72, R111). -/
def State.inval (s : State) (sp : BitVec 16) (lo n : Nat) : State :=
  let hit (sid : BitVec 12) (gen : BitVec 4) (d size : Nat) :=
    sid = sidOf sp && gen = genOf sp && (n = 0 || (d < lo + n && lo < d + size))
  let span (l : Nat) := if l = 1 then 2 ^ 39 else if l = 2 then 2 ^ 30 else 2 ^ 21
  { s with
    tlb := s.tlb.filter (fun e => !hit e.sid e.gen e.dva e.size)
    walkCache := s.walkCache.filter (fun e => !hit e.sid e.gen e.dva (span e.level))
    objCache := if n = 0 then s.objCache.filter (fun e => !(e.sid = sidOf sp && e.gen = genOf sp)) else s.objCache }

end Sys2Proof.Machine
end

