-- ==== Sys2Proof/Machine/Access.lean ====
section
/-!
DEFINITION. The one way to each part of the state: cores, contexts, registers as they stand, flags,
rinks, tasks and the space a core works in (R96, R177, R187).
-/

namespace Sys2Proof.Machine

/-- Core `n` (R37). -/
def State.core (s : State) (n : Nat) : Core := SMap.get Core.init s.cores n
/-- Write core `n`. -/
def State.setCore (s : State) (n : Nat) (c : Core) : State := { s with cores := SMap.set Core.init s.cores n c }
/-- Change core `n`. -/
def State.modCore (s : State) (n : Nat) (f : Core → Core) : State := s.setCore n (f (s.core n))

/-- Context `k` of a core. -/
def Core.ctx (c : Core) (k : Nat) : Ctx := SMap.get Ctx.init c.ctxs k
/-- Write context `k` of a core. -/
def Core.setCtx (c : Core) (k : Nat) (x : Ctx) : Core := { c with ctxs := SMap.set Ctx.init c.ctxs k x }
/-- Context `k` of core `n`. -/
def State.ctx (s : State) (n k : Nat) : Ctx := (s.core n).ctx k
/-- Write context `k` of core `n`. -/
def State.setCtx (s : State) (n k : Nat) (x : Ctx) : State := s.setCore n ((s.core n).setCtx k x)
/-- Change context `k` of core `n`. -/
def State.modCtx (s : State) (n k : Nat) (f : Ctx → Ctx) : State := s.setCtx n k (f (s.ctx n k))

/-- Scalar register `n`; s0 reads 0 (R187). -/
def Ctx.sReg (c : Ctx) (n : Nat) : Word := if n = 0 then 0 else SMap.get 0 c.s n
/-- Capability register `n`. -/
def Ctx.aReg (c : Ctx) (n : Nat) : Cap := SMap.get Cap.zero c.a n
/-- Vector register `n`. -/
def Ctx.vReg (c : Ctx) (n : Nat) : Row := SMap.get 0 c.v n
/-- Index register `n` (R191). -/
def Ctx.xReg (c : Ctx) (n : Nat) : BitVec 32 := SMap.get 0 c.x n
/-- Tile register `n`. -/
def Ctx.tReg (c : Ctx) (n : Nat) : TileReg := SMap.get TileReg.zero c.t n
/-- Dimension variable `n` (R210). -/
def Ctx.dReg (c : Ctx) (n : Nat) : BitVec 24 := SMap.get 0 c.d n
/-- Predicate `n`; p0 reads 1 (R187). -/
def Ctx.pReg (c : Ctx) (n : Nat) : Bool := if n = 0 then true else SMap.get false c.p n
/-- Mask register `n`. -/
def Ctx.mReg (c : Ctx) (n : Nat) : Quad := SMap.get 0 c.m n

/-- Set scalar register `n`; s0 ignores writes (R187). -/
def Ctx.setS (c : Ctx) (n : Nat) (v : Word) : Ctx := if n = 0 then c else { c with s := SMap.set 0 c.s n v }
/-- Set capability register `n`. -/
def Ctx.setA (c : Ctx) (n : Nat) (v : Cap) : Ctx := { c with a := SMap.set Cap.zero c.a n v }
/-- Set vector register `n`. -/
def Ctx.setV (c : Ctx) (n : Nat) (v : Row) : Ctx := { c with v := SMap.set 0 c.v n v }
/-- Set index register `n`. -/
def Ctx.setX (c : Ctx) (n : Nat) (v : BitVec 32) : Ctx := { c with x := SMap.set 0 c.x n v }
/-- Set tile register `n`. -/
def Ctx.setT (c : Ctx) (n : Nat) (v : TileReg) : Ctx := { c with t := SMap.set TileReg.zero c.t n v }
/-- Set dimension variable `n`. -/
def Ctx.setD (c : Ctx) (n : Nat) (v : BitVec 24) : Ctx := { c with d := SMap.set 0 c.d n v }
/-- Set predicate `n`; p0 ignores writes (R187). -/
def Ctx.setP (c : Ctx) (n : Nat) (v : Bool) : Ctx := if n = 0 then c else { c with p := SMap.set false c.p n v }
/-- Set mask register `n`. -/
def Ctx.setM (c : Ctx) (n : Nat) (v : Quad) : Ctx := { c with m := SMap.set 0 c.m n v }

/-- The fields of a capability (R188). -/
def Cap.off (c : Cap) : Int := toS 48 (Machine.bits c.bits.toNat 24 48)
@[inherit_doc Cap.off] def Cap.obj (c : Cap) : Nat := Machine.bits c.bits.toNat 0 24
@[inherit_doc Cap.off] def Cap.len (c : Cap) : Nat := Machine.bits c.bits.toNat 72 40
@[inherit_doc Cap.off] def Cap.rights (c : Cap) : BitVec 8 := c.bits.extractLsb' 112 8
/-- Whether a capability is valid (R96). -/
def Cap.valid (c : Cap) : Bool := c.tag && c.bits.extractLsb' 120 8 == 0
/-- A capability from its fields. -/
def mkCap (obj : Nat) (off : Int) (len : Nat) (rights rsv : BitVec 8) (tag : Bool) : Cap :=
  ⟨rsv ++ rights ++ BitVec.ofNat 40 len ++ BitVec.ofInt 48 off ++ BitVec.ofNat 24 obj, tag⟩
/-- A capability with its OFFSET replaced, modulo 2^48. -/
def Cap.withOff (c : Cap) (off : Int) : Cap :=
  mkCap c.obj off c.len c.rights (c.bits.extractLsb' 120 8) c.tag

/-- Rights as capability bits [119:112] (R97). -/
def rR : BitVec 8 := 1
@[inherit_doc rR] def rW : BitVec 8 := 2
@[inherit_doc rR] def rX : BitVec 8 := 4
@[inherit_doc rR] def rLcap : BitVec 8 := 8
@[inherit_doc rR] def rScap : BitVec 8 := 16
@[inherit_doc rR] def rE : BitVec 8 := 32
@[inherit_doc rR] def rT : BitVec 8 := 64
@[inherit_doc rR] def rG : BitVec 8 := 128

/-- DFBASE and DFLEN (R190). -/
def Ctx.dfbase (c : Ctx) : Nat := fld c.sr.dfbase 0 11
@[inherit_doc Ctx.dfbase] def Ctx.dflen (c : Ctx) : Nat := fld c.sr.dflen 0 12
/-- The absolute row of a row number relative to the partition, modulo its length (R191, R377). -/
def Ctx.row (c : Ctx) (n : Nat) : Nat := c.dfbase + n % c.dflen
/-- The absolute row that index register `i` addresses (R191). -/
def Ctx.xRow (c : Ctx) (i : Nat) : Nat := c.row ((c.xReg i).extractLsb' 0 11).toNat

/-- Deep-file row `r` of a core. -/
def Core.row (c : Core) (r : Nat) : Row := SMap.get 0 c.deep r
/-- ACM entry `e` of a core. -/
def Core.acmAt (c : Core) (e : Nat) : BitVec 32 := SMap.get 0 c.acm e
/-- The key of a bundle of an edge. -/
def edgeKey (edge : Bool) (i : Nat) : Nat := (if edge then 1024 else 0) + i % 1024
/-- Bundle `i` of an edge (R198). -/
def Core.bundle (c : Core) (edge : Bool) (i : Nat) : Bundle := SMap.get 0 c.edges (edgeKey edge i)
/-- Flag `n` of a core (R441). -/
def Core.flag (c : Core) (n : Nat) : Flag := SMap.get Flag.init c.flags n
/-- Write flag `n`. -/
def Core.setFlag (c : Core) (n : Nat) (f : Flag) : Core := { c with flags := SMap.set Flag.init c.flags n f }
/-- Rink `k` of a core (R194). -/
def Core.rink (c : Core) (k : Nat) : Rink := SMap.get Rink.init c.rinks k
/-- Write rink `k`. -/
def Core.setRink (c : Core) (k : Nat) (r : Rink) : Core := { c with rinks := SMap.set Rink.init c.rinks k r }
/-- Latch q`n` (R186). -/
def Core.latch (c : Core) (n : Nat) : Latch := SMap.get Latch.init c.latches n

/-- The task that owns a core, or that it is held or reserved for. -/
def Resv.owner : Resv → Option Nat
  | .owned t => some t
  | _ => none

/-- The live task with a TASKID. -/
def State.task (s : State) (id : Nat) : Option Task := s.tasks.find? (fun t => t.rcd.task.toNat = id)
/-- The task whose gang owns a core. -/
def State.taskOf (s : State) (core : Nat) : Option Task := (s.core core).resv.owner.bind s.task
/-- Change a live task. -/
def State.modTask (s : State) (id : Nat) (f : Task → Task) : State :=
  { s with tasks := s.tasks.map (fun t => if t.rcd.task.toNat = id then f t else t) }
/-- The space a task works in (R96). -/
def Task.space (t : Task) : BitVec 16 := mkSpace t.rcd.gen t.rcd.sid
/-- The space a core's gang works in; space 0 where no task owns it. -/
def State.spaceOf (s : State) (core : Nat) : BitVec 16 :=
  match s.taskOf core with
  | some t => t.space
  | none => 0
/-- The TASKID of a core's gang; 0 where no task owns it. -/
def State.taskIdOf (s : State) (core : Nat) : Nat :=
  match s.taskOf core with
  | some t => t.rcd.task.toNat
  | none => 0

/-- The largest frequency of a core in MHz (R18). -/
def fmax (core : Nat) : Nat := 1600 + 5 * ((Config.speedEntry core).extractLsb' 0 7).toNat
/-- FCUR of a core at the throttle level it has taken up (R19). -/
def State.fcur (s : State) (core : Nat) : Nat :=
  1600 + 5 * (((Config.speedEntry core).extractLsb' 0 7).toNat * (7 - (s.core core).lvl.toNat) / 7)
/-- WEIGHT of a core (R20). -/
def State.weight (s : State) (core : Nat) : Nat := s.fcur core * 1024 / 1600

/-- Draw a number from the free values. (DESIGN CHOICE, log 8.) -/
def State.draw (s : State) : State × Nat := ({ s with fresh := s.fresh + 1 }, s.fresh)
/-- A fresh identity. -/
def State.newId (s : State) : State × Nat := ({ s with ids := s.ids + 1 }, s.ids)

/-- The next state of an event or an instruction. -/
abbrev Out := Host.Outcome State Fault Refusal

end Sys2Proof.Machine
end

