-- ==== Sys2Proof/Machine/Rings.lean ====
section
/-!
DEFINITION. The rings of the device (R68 to R71, R119), fault records and their numbers (R71, R75,
R86), flags and their posts (R165, R441, R442), and barriers (R167 to R170).
-/

namespace Sys2Proof.Machine

/-- LOG2 outside 6 to 16 (R68). -/
def Ring.cfgErr (r : Ring) : Bool := r.log2 < 6 || 16 < r.log2
/-- The entries of a ring. -/
def Ring.size (r : Ring) : Nat := 2 ^ r.log2.toNat
/-- Entries produced and not consumed. -/
def Ring.used (r : Ring) : Nat := (r.tail - r.head).toNat
/-- Whether a device-produced ring takes no entry now. (DESIGN CHOICE, log 65.) -/
def Ring.full (r : Ring) : Bool := r.cfgErr || r.size ≤ r.used
/-- The physical address of entry `i` of a ring of `n`-byte entries. -/
def Ring.entry (r : Ring) (n : Nat) (i : BitVec 32) : Nat := r.base.toNat + i.toNat % r.size * n

/-- Raise an interrupt source of the system cores (R70, R71, R78, R119). (DEDUCED, log 51.) -/
def State.raise (s : State) (n : Nat) : State := { s with irq := SMap.set false s.irq n true }

/-- Write an entry into the fault queue, or let it wait (R71). -/
def State.pushFault (s : State) (e : List Byte) : State :=
  if s.faultWait ≠ [] || s.fq.full then { s with faultWait := s.faultWait ++ [e] }
  else { (s.memPut 0 (s.fq.entry 32 s.fq.tail) e).raise 2 with fq := { s.fq with tail := s.fq.tail + 1 } }

/-- Write an entry into the completion queue, or let it wait (R70). -/
def State.pushComp (s : State) (e : List Byte) : State :=
  if s.compWait ≠ [] || s.cq.full then { s with compWait := s.compWait ++ [e] }
  else { (s.memPut 0 (s.cq.entry 16 s.cq.tail) e).raise 1 with cq := { s.cq with tail := s.cq.tail + 1 } }

/-- The bytes of a fault record (R71): `b7` holds FATAL and the access code. -/
def faultBytes (s : State) (id : BitVec 32) (sp : BitVec 16) (attempt b7 : Nat) (q : Nat) (core xlvl ctx : Nat)
    (task : Nat) : List Byte :=
  bytesOf 4 id.toNat ++ bytesOf 2 sp.toNat ++ [BitVec.ofNat 8 attempt, BitVec.ofNat 8 b7] ++ bytesOf 8 q ++
    bytesOf 2 core ++ [BitVec.ofNat 8 (xlvl % 4 * 4 + ctx % 4), 0] ++ bytesOf 4 task ++ bytesOf 8 s.tick

/-- The first number from `n` on that names no outstanding fault and is not all ones (R71, R440). -/
def freeFault (l : List OutFault) : Nat → BitVec 32 → BitVec 32
  | 0, n => n
  | k + 1, n => if n = BitVec.allOnes 32 || l.any (fun f => f.id = n) then freeFault l k (n + 1) else n

/-- Take a FAULTID. -/
def State.faultId (s : State) : State × BitVec 32 :=
  let id := freeFault s.outFaults (s.outFaults.length + 2) s.nextFault
  ({ s with nextFault := id + 1 }, id)

/-- The ATTEMPT of a party's fault at an address: one more than that of the fault it was replayed
from, else 1 (R75). -/
def nextAttempt (prev : Nat) : Nat := min 8 (prev + 1)

/-- Write a translation fault record and hold the fault outstanding, unless it is fatal (R71, R75).
`acc` is the access code. -/
def State.faultRecord (s : State) (rq : Requester) (sp : BitVec 16) (attempt acc addr core xlvl ctx task : Nat) :
    State × BitVec 32 :=
  let (s, id) := s.faultId
  let fatal := 8 ≤ attempt
  let s := s.pushFault (faultBytes s id sp attempt ((if fatal then 128 else 0) + acc) addr core xlvl ctx task)
  (if fatal then s
   else { s with outFaults := s.outFaults ++ [⟨id, rq, sp, attempt, BitVec.ofNat 64 addr⟩] }, id)

/-- The fault record of an engine (R86): core 0xFFFF, TASKID 0, context 0. That of an edge fill names
context 0 of rank 0 of its gang (R154). -/
def State.engineFault (s : State) (rq : Requester) (sp : BitVec 16) (attempt acc addr : Nat) : State × BitVec 32 :=
  match rq with
  | .edgeFill id =>
    let core := ((s.task id).elim [] (·.cores)).headD 0
    s.faultRecord rq sp attempt acc addr core 0 0 id
  | _ => s.faultRecord rq sp attempt acc addr 0xFFFF 0 0 0

/-- Settle(f): close the open phase where its count is met (R442). -/
def Flag.settle (f : Flag) : Flag :=
  if 0 < f.exp && f.exp ≤ f.cnt then { f with cnt := f.cnt - f.exp, exp := 0, ph := f.ph + 1 } else f
/-- Post(f, n), or none where it is refused (R442). -/
def Flag.post (f : Flag) (n : Nat) : Option Flag :=
  if 65535 < f.cnt.toNat + n then none else some { f with cnt := f.cnt + BitVec.ofNat 16 n }.settle
/-- Expect(f, n), or none where it is refused (R442). -/
def Flag.expect (f : Flag) (n : Nat) : Option Flag :=
  if 65535 < f.exp.toNat + n then none else some { f with exp := f.exp + BitVec.ofNat 16 n }.settle
/-- A post by any other party: a refused one sets OVF (R442). -/
def Flag.postBy (f : Flag) (n : Nat) : Flag := (f.post n).getD { f with ovf := true }

/-- FLAG_OVERFLOW with its value (R294). -/
def flagValue (f : Nat) (g : Flag) : Word := BitVec.ofNat 64 (g.cnt.toNat * 2 ^ 16 + f)

/-- Count a dropped post, saturating (R160, R165). -/
def State.dropPost (s : State) : State :=
  if s.wd.postdrop = BitVec.allOnes 16 then s else { s with wd := { s.wd with postdrop := s.wd.postdrop + 1 } }

/-- FCLR of a flag (R445). -/
def Flag.clear (g : Flag) : Flag :=
  { g with
    cnt := 0
    exp := 0
    ovf := false }

/-- The SY-slot operations among port entries. -/
def syOps (l : List PortEntry) : List SyOp := l.filterMap (fun p => match p.item with
  | .sy op => some op
  | _ => none)
/-- The SY-slot operations that have not left a port. -/
def Ctx.portOps (x : Ctx) : List SyOp := syOps x.port
/-- The SY-slot operations that a context has committed and that have yet to take effect, those of a record included. -/
def Ctx.dueOps (x : Ctx) : List SyOp := syOps (x.rec1 ++ x.rec2 ++ x.rerec ++ x.port)

/-- Flag `f` after a context's own changes, or none where one of them would be refused. -/
def Flag.after (f : Nat) (l : List SyOp) (g : Flag) : Option Flag :=
  l.foldl (fun g op => g.bind (fun g => match op with
    | .post n m => if n = f then g.post m else some g
    | .expt n m => if n = f then g.expect m else some g
    | .fclr n => some (if n = f then g.clear else g)
    | .rpost .. | .arrive .. => some g)) (some g)

/-- Whether flag `f`, once it reads `g`, still takes the changes that bundles of contexts `ks` have committed: those were
accepted at issue, and are not refused later (R442). (DEDUCED, log 37.) -/
def Core.keeps (c : Core) (f : Nat) (ks : List Nat) (g : Flag) : Bool :=
  (ks.foldl (fun g k => g.bind (Flag.after f (c.ctx k).dueOps)) (some g)).isSome

/-- Post(f, n) by any other party than a bundle of the core, or none where it is refused (R442). -/
def Core.posted (c : Core) (f n : Nat) : Option Flag := ((c.flag f).post n).filter (c.keeps f [0, 1, 2, 3])

/-- A flag of a core takes a post, which carries its poster's clock; a refused one is no release (R273, R287, R442). -/
def Core.postFlag (c : Core) (f n ts : Nat) : Core :=
  match c.posted f n with
  | some g => { c.setFlag f g with flagTs := SMap.set 0 c.flagTs f (max ts (SMap.get 0 c.flagTs f)) }
  | none => c.setFlag f { c.flag f with ovf := true }

/-- Apply a post of `n` to flag `f` of a core, for the space of its issuer and with its clock `ts` (R165, R273): to the
core's owned gang of that space, else to the image of a swapped gang of that space, else dropped. -/
def State.postTo (s : State) (core f n : Nat) (sp : BitVec 16) (ts : Nat) : State :=
  let owned : Bool := match s.taskOf core with
    | some t => t.space = sp && t.state ≠ .swapped
    | none => false
  if owned then s.modCore core (fun c => c.postFlag f n ts)
  else
    let here (g : SwapImage) : Bool := g.cores.any (fun p => p.1 = core) &&
      (match s.task g.task with
        | some t => t.space = sp
        | none => false)
    match (s.swaps.filter here).getLast? with
    | none => s.dropPost
    | some g =>
      { s with swaps := s.swaps.map (fun h => if h = g then
          { h with cores := h.cores.map (fun p => if p.1 = core then (p.1, p.2.postFlag f n ts) else p) } else h) }

/-- A post of a flag carries its poster's clock (R273). -/
def State.stampFlag (s : State) (core f ts : Nat) : State :=
  s.modCore core (fun c => { c with flagTs := SMap.set 0 c.flagTs f (max ts (SMap.get 0 c.flagTs f)) })

/-- LVLj of DMR (R167). -/
def Ctx.lvl (c : Ctx) (j : Nat) : Nat := fld c.sr.dmr (4 * j) 3
/-- FGRP of DMR (R167). -/
def Ctx.fgrp (c : Ctx) : Nat := fld c.sr.dmr 16 8
/-- The domain instance of a level that holds a context (R167, R168). -/
def domainOf (lvl core : Nat) (c : Ctx) : Nat :=
  match lvl with
  | 1 => core
  | 2 => core / 16
  | 5 => c.fgrp
  | _ => core / 256

/-- The local participants of a barrier instance, by core and context (R168). -/
def State.participants (s : State) (task j lvl dom : Nat) : List (Nat × Nat) :=
  let cores := ((s.cores.map (·.1)).filter (fun n => (s.core n).resv.owner = some task)).map (fun n => (n, s.core n)) ++
    (s.swaps.filter (fun g => g.task = task)).flatMap (fun g => g.cores)
  cores.flatMap (fun (n, c) => ((List.range 4).filter (fun k =>
    let x := c.ctx k
    x.status ≠ .idle && x.lvl j = lvl && domainOf lvl n x = dom)).map (fun k => (n, k)))

/-- The member list of a collective group: module numbers in member order (R57). -/
def State.members (s : State) (g : Nat) : List Nat :=
  let e := SMap.get CollGroup.init s.cgroups g
  (List.range e.members.toNat).map (fun j => s.word0 (fld e.list 4 44 * 16 + 2 * j) 2)

/-- The straggler record of a phase (R170). `l` are the arrivals: place, context, tick. -/
def stragglerRecord (lvl phase : Nat) (l : List (Nat × Nat × Nat)) : Quad :=
  let l := sortBy (fun a => (a.2.2 * 4096 + a.1) * 4 + a.2.1) l
  let f := l.headD (0, 0, 0)
  let z := l.getLastD (0, 0, 0)
  let y := (l.dropLast).getLastD z
  BitVec.ofNat 128 (phase + lvl * 2 ^ 16 + z.1 % 4096 * 2 ^ 20 + z.2.1 % 4 * 2 ^ 32 + f.2.1 % 4 * 2 ^ 34 +
    f.1 % 4096 * 2 ^ 36 + l.length % 65536 * 2 ^ 48 + min (z.2.2 - f.2.2) 0xFFFFFFFF * 2 ^ 64 +
    (z.2.2 - y.2.2) % 2 ^ 32 * 2 ^ 96)

/-- A barrier instance as it stands; phase 0 with nothing arrived where there is none yet (R168). -/
def State.barrier (s : State) (task j lvl dom : Nat) : Barrier :=
  (s.bars.find? (fun b => b.task = task && b.j = j && b.lvl = lvl && b.dom = dom)).getD
    ⟨task, j, lvl, dom, 0, [], 0, [], false⟩
/-- Write a barrier instance. -/
def State.setBarrier (s : State) (b : Barrier) : State :=
  { s with bars := s.bars.filter (fun x => !(x.task = b.task && x.j = b.j && x.lvl = b.lvl && x.dom = b.dom)) ++ [b] }

/-- Clear the pending arrival of a context at bj, in its core or in its swapped image. -/
def State.clearArrival (s : State) (task core ctx j : Nat) : State :=
  let f (x : Ctx) : Ctx := { x with arrived := SMap.set 0 x.arrived j 0 }
  let s := if (s.core core).resv.owner = some task then s.modCtx core ctx f else s
  { s with swaps := s.swaps.map (fun g => if g.task = task then
      { g with cores := g.cores.map (fun p => if p.1 = core then (p.1, p.2.setCtx ctx (f (p.2.ctx ctx))) else p) } else g) }

/-- Send a message towards an endpoint: it takes effect when its arrival event runs. (DESIGN CHOICE, log 19.) -/
def State.send (s : State) (m : Msg) : State := { s with inbox := s.inbox ++ [m] }

/-- The collective engine of a module (R37). -/
def collPoint : BitVec 12 := 0x400

/-- The module that times a level-5 instance: member 0 of its group (R170). -/
def State.timer (s : State) (g : Nat) : Nat := (s.members g).headD s.modnum.toNat

/-- A message about a level-5 instance between collective engines (R45): task, barrier and phase, then the straggler
record where member 0 tells of a completed phase. (DESIGN CHOICE, log 19; DEDUCED, log 46.) -/
def State.barrierMsg (s : State) (b : Barrier) (m : Nat) (rcd : List Byte) : Msg where
  src := s.modnum ++ collPoint
  dst := BitVec.ofNat 12 m ++ collPoint
  kind := .barrier
  cls := 0
  tag := BitVec.ofNat 16 b.dom
  tw := 0
  data := bytesOf 8 b.task ++ bytesOf 8 b.j ++ bytesOf 8 b.phase.toNat ++ rcd

/-- A phase is complete: its arrivals are over, and its record stands (R168, R170). -/
def State.endPhase (s : State) (b : Barrier) (rcd : Quad) : State :=
  (b.arrivals.foldl (fun s a => s.clearArrival b.task a.1 a.2.1 b.j) s).setBarrier { b with
    phase := b.phase + 1
    arrivals := []
    remote := []
    sent := false
    rcd := rcd }

/-- Whether every local participant of an instance has arrived (R168). -/
def State.hereArrived (s : State) (b : Barrier) : Bool :=
  (s.participants b.task b.j b.lvl b.dom).all (fun p => b.arrivals.any (fun a => a.1 = p.1 && a.2.1 = p.2))

/-- Member 0 completes a level-5 phase once this module's participants and every other module of the group that
the instance joins have arrived, and tells those modules (R168, R170). Which others it joins they alone know.
(DEDUCED, log 46.) -/
def State.settleGroup (s : State) (b : Barrier) : State :=
  let ms := s.members b.dom
  let others := ms.filter (fun m => m ≠ s.modnum.toNat && Config.joins s.tick m b.task b.j)
  if s.timer b.dom = s.modnum.toNat && b.remote ≠ [] && s.hereArrived b && others.all (fun m => b.remote.any (fun r => r.1 = m)) then
    let rcd := stragglerRecord 5 b.phase.toNat (b.remote.map (fun r => (ms.idxOf r.1, 0, r.2)))
    let s := (b.remote.filter (fun r => r.1 ≠ s.modnum.toNat)).foldl (fun s r => s.send (s.barrierMsg b r.1 (bytesOf 16 rcd.toNat))) s
    s.endPhase b rcd
  else s

/-- Take a barrier's condition afresh (R168, R170): its phase is complete where every participant has arrived. At
level 5 this module's arrival is then timed at member 0 of the group. -/
def State.settleBarrier (s : State) (b : Barrier) : State :=
  let ps := s.participants b.task b.j b.lvl b.dom
  let all := ps ≠ [] && s.hereArrived b
  if b.lvl ≠ 5 then
    if all then s.endPhase b (stragglerRecord b.lvl b.phase.toNat (b.arrivals.filter (fun a => ps.contains (a.1, a.2.1)))) else s
  else
    let mine : Bool := s.timer b.dom = s.modnum.toNat
    let first : Bool := all && !b.sent
    let b := if first then { b with sent := true, remote := if mine then b.remote ++ [(s.modnum.toNat, s.tick)] else b.remote } else b
    let s := s.setBarrier b
    let s := if first && !mine then s.send (s.barrierMsg b (s.timer b.dom) []) else s
    s.settleGroup b

/-- Take every barrier condition of a task afresh (R168). -/
def State.settleBarriers (s : State) (task : Nat) : State :=
  (s.bars.filter (fun b => b.task = task)).foldl (fun s b => s.settleBarrier b) s

/-- The endpoint address of a core of this module (R37). -/
def State.endpoint (s : State) (core : Nat) : BitVec 24 := s.modnum ++ BitVec.ofNat 12 core

/-- An arrival of a context at bj in an instance (R168). -/
def State.arrive (s : State) (core ctx j lvl dom : Nat) : State :=
  let b := s.barrier (s.taskIdOf core) j lvl dom
  let b := { b with arrivals := b.arrivals ++ [(core, ctx, s.tick)] }
  (s.setBarrier b).settleBarrier b

end Sys2Proof.Machine
end

