-- ==== Sys2Proof/Machine/Ops.lean ====
section
/-!
DEFINITION. The shared operations of a core: how results land (R183, R186, R224), how a context
blocks (R178, R186), how it exits and is killed (R305, R306, R353), how an exception is taken and
returned from (R290 to R299), and how a cause becomes pending (R293).
-/

namespace Sys2Proof.Machine

/-- The cause codes (R294). -/
def Cause.code : Cause → Nat
  | .illegalBundle => 0x01
  | .illegalOpcode => 0x02
  | .shapeFault => 0x03
  | .capTag => 0x04
  | .capBounds => 0x05
  | .capRights => 0x06
  | .translation => 0x07
  | .divZero => 0x08
  | .fpException => 0x09
  | .flagOverflow => 0x0A
  | .scheduleViolation => 0x0B
  | .latchLost => 0x0C
  | .engineError => 0x0D
  | .trapInstruction => 0x0E
  | .mergeSpill => 0x0F
  | .fabricType => 0x10
  | .eccUncorrectable => 0x11
  | .watchdog => 0x12

/-- Causes between bundles that are taken at any level (R293). -/
def Cause.anyLevel : Cause → Bool
  | .translation | .trapInstruction | .watchdog => true
  | _ => false

/-- A register takes a new value: an uncorrectable error it held is gone (R22). -/
def Ctx.clearEcc (c : Ctx) (cls : Cls) (n : Nat) : Ctx := { c with ecc := c.ecc.filter (fun e => e ≠ (cls, n)) }

/-- Write a register as a result lands: only the bytes of the mask in a v register; a write of
all its bytes clears an uncorrectable error of the register (R183, R187, R22). -/
def Ctx.writeReg (c : Ctx) (cls : Cls) (n : Nat) (v : Row) (mask : Quad) : Ctx :=
  let c := if mask = allBytes then c.clearEcc cls n else c
  match cls with
  | .s => c.setS n (v.setWidth 64)
  | .a => c.setA n ⟨v.setWidth 128, false⟩
  | .v => c.setV n (mergeRow mask (c.vReg n) v)
  | .x => c.setX n (v.setWidth 32)
  | .t => c
  | .d => c.setD n (v.setWidth 24)
  | .p => c.setP n (v.getLsbD 0)
  | .m => c.setM n (v.setWidth 128)
  | .k => c

/-- Write a word system register as it lands; the value already holds the bits that do not change
(R357, R358). -/
def SysRegs.write (r : SysRegs) (n : Nat) (v : Word) : SysRegs :=
  match n with
  | 0x000 => { r with fpcsr := v }
  | 0x001 => { r with arithx := v }
  | 0x00C => { r with slr := v }
  | 0x00D => { r with rdepth := v }
  | 0x00E => { r with mcap := v }
  | 0x00F => { r with dispt := v }
  | 0x010 => { r with loopst := v }
  | 0x021 => { r with x1 := { r.x1 with cause := v } }
  | 0x022 => { r with x2 := { r.x2 with cause := v } }
  | 0x023 => { r with x1 := { r.x1 with pc := v } }
  | 0x024 => { r with x2 := { r.x2 with pc := v } }
  | 0x025 => { r with x1 := { r.x1 with val := v } }
  | 0x026 => { r with x2 := { r.x2 with val := v } }
  | 0x027 => { r with x1 := { r.x1 with mask := v } }
  | 0x028 => { r with x2 := { r.x2 with mask := v } }
  | 0x029 => { r with x1 := { r.x1 with vec := v } }
  | 0x02A => { r with x2 := { r.x2 with vec := v } }
  | _ => r

/-- Write a capability system register (R291). -/
def SysRegs.writeCap (r : SysRegs) (n : Nat) (v : Cap) : SysRegs :=
  match n with
  | 0x030 => { r with xsave := v }
  | 0x031 => { r with x1 := { r.x1 with as := v } }
  | 0x032 => { r with x2 := { r.x2 with as := v } }
  | _ => r

/-- A write of DMR as it lands: a level field takes its new code unless that is reserved, or changes
the field while an arrival at its barrier is pending (R167). -/
def Ctx.writeDmr (c : Ctx) (v : Word) : Ctx :=
  let lvl (j : Nat) : Nat :=
    let old := fld c.sr.dmr (4 * j) 3
    let new := fld v (4 * j) 3
    if 5 < new || SMap.get 0 c.arrived j ≠ 0 then old else new
  { c with sr := { c.sr with dmr := BitVec.ofNat 64 (fld v 16 8 * 2 ^ 16 + lvl 3 * 2 ^ 12 + lvl 2 * 2 ^ 8 + lvl 1 * 2 ^ 4 + lvl 0) } }

/-- Set sticky bits of FPCSR (R224). -/
def Ctx.setFlags (c : Ctx) (f : Fl) : Ctx :=
  { c with sr := { c.sr with fpcsr := c.sr.fpcsr ||| f.setWidth 64 } }

/-- Write a deep-file row under a byte mask; a write of all its bytes clears an uncorrectable error of it (R22). -/
def Core.writeRow (c : Core) (r : Nat) (v : Row) (mask : Quad) : Core :=
  { c with deep := SMap.set 0 c.deep r (mergeRow mask (c.row r) v), eccRows := if mask = allBytes then c.eccRows.filter (· ≠ r) else c.eccRows }

/-- Write ACM entries, in order. -/
def Core.writeAcm (c : Core) (ws : List (Nat × BitVec 32)) : Core :=
  { c with acm := SMap.setAll 0 c.acm ws, eccAcm := c.eccAcm.filter (fun e => !ws.any (·.1 = e)) }

/-- The deep-file row and lane of bin `c` of a table at `row` (R378). -/
def binPlace (x : Ctx) (row c : Nat) : Nat × Nat := (x.row (row + c / 32), c % 32)

/-- Add probabilities to bins in order (R380): the core after it, and the flags of the sums. -/
def Core.addBins (c : Core) (x : Ctx) (row : Nat) : List (Nat × BitVec 32) → Core × Fl
  | [] => (c, 0)
  | (code, p) :: t =>
    let (r, l) := binPlace x row code
    let (v, fl) := fAdd fp32 0 (unpack fp32 (lane (c.row r) 32 l)) (unpack fp32 p.toNat)
    let c := c.writeRow r (rowOf 32 (setAt ((List.range 32).map (lane (c.row r) 32)) l v)) allBytes
    let fl := fl ||| sigFlag [unpack fp32 (lane (c.row r) 32 l), unpack fp32 p.toNat]
    let (c, fl') := Core.addBins c x row t
    (c, fl ||| fl')

/-- Add one step's terms to the inner array (R238, R400): the array, and whether it saturated. -/
def addTerms (i : SMap Int) : List (Nat × List Int) → SMap Int × Bool
  | [] => (i, false)
  | (e, ts) :: rest =>
    let (v, sat1) := ts.foldl (fun (a : Int × Bool) t =>
      let (v, cl) := sat (rangeOf true 32).1 (rangeOf true 32).2 (a.1 + t)
      (v, a.2 || cl)) (SMap.get 0 i e, false)
    let (i, sat2) := addTerms (SMap.set 0 i e v) rest
    (i, sat1 || sat2)

/-- Record a cause between bundles; a second of the same code is discarded (R293). -/
def Ctx.pendCause (x : Ctx) (c : Cause) (v : Word) : Ctx :=
  if x.causes.any (fun p => p.cause = c) then x else { x with causes := insertBy (fun p => p.cause.code) ⟨c, v⟩ x.causes }

/-- SCHEDULE_VIOLATION of a copy write that meets a matrix write (R251): bank and entry. -/
def acmClash (e : Nat) : Word := BitVec.ofNat 64 (2 ^ 19 + e % 8 * 2 ^ 16 + e)

/-- What a copy write gives its entry (R251). -/
def AcmCopy.new (w : AcmCopy) (old : BitVec 32) : BitVec 32 := if w.add then BitVec.ofNat 32 (addFp32 old.toNat w.val.toNat) else w.val

/-- A copy write of PHASE 0 to an ACM entry, remembered for the matrix writes of its cycle (R251). -/
def Core.copyEntry (c : Core) (w : AcmCopy) : Core :=
  let old := c.acmAt w.entry
  { c with
    acm := SMap.set 0 c.acm w.entry (w.new old)
    acmCopies := c.acmCopies.filter (fun v => c.cycle ≤ v.cycle) ++ [{ w with old := old }] }

/-- Whether a matrix write stands on an entry's bank in this cycle (R251). -/
def Core.onMatrix (c : Core) (e : Nat) : Bool := c.acmWrites.any (fun w => w.1 = c.cycle && w.2 = e % 8)

/-- The copy writes of PHASE 0 of this cycle are taken back, so that a matrix write takes effect before them (R251). -/
def Core.takeBack (c : Core) : Core :=
  { c with
    acm := (c.acmCopies.filter (fun w => w.cycle = c.cycle)).reverse.foldl (fun m w => SMap.set 0 m w.entry w.old) c.acm
    acmCopies := c.acmCopies.filter (fun w => w.cycle ≠ c.cycle) }

/-- They are made again behind it, and those on the bank of a matrix write of this cycle are SCHEDULE_VIOLATION in the
context that issued the copy (R193, R251). (DEDUCED, log 47.) -/
def Core.putBack (c : Core) (l : List AcmCopy) : Core :=
  (l.filter (fun w => w.cycle = c.cycle)).foldl (fun c w =>
    let c := c.copyEntry w
    if !c.onMatrix w.entry || (c.ctx w.ctx).status = .idle then c
    else c.setCtx w.ctx ((c.ctx w.ctx).pendCause .scheduleViolation (acmClash w.entry))) c

/-- What the payload of a landing result writes, and the flags it finds only at landing. -/
def Core.landPay (c : Core) (k : Nat) (p : Payload) : Core × Fl :=
  let x := c.ctx k
  match p with
  | .none => (c, 0)
  | .reg cls n v m => (c.setCtx k (x.writeReg cls n v m), 0)
  | .cap n v => (c.setCtx k ((x.clearEcc .a n).setA n v), 0)
  | .tile n t => (c.setCtx k ((x.clearEcc .t n).setT n t), 0)
  | .sys n v => (c.setCtx k (if n = 0x009 then x.writeDmr v else { x with sr := x.sr.write n v }), 0)
  | .csys n v => (c.setCtx k { x with sr := x.sr.writeCap n v }, 0)
  | .row r v m => (c.writeRow r v m, 0)
  | .acm ws =>
    let banks := runsOf (ws.map (fun w => w.1 % 8))
    let log := c.acmWrites.filter (fun w => c.cycle ≤ w.1 + 1) ++ banks.map (fun b => (c.cycle, b))
    ({ c.takeBack.writeAcm ws with acmWrites := log }.putBack c.acmCopies, 0)
  | .bins row ps => c.addBins x row ps
  | .terms r ts nans =>
    let (i, clamped) := addTerms x.inner ts
    (c.setCtx k { x with
      inner := i
      stepRec := some r
      innerNan := SMap.setAll false x.innerNan (nans.map (fun e => (e, true))) },
      Fl.when clamped Fl.msat)
  | .clearInner => (c.setCtx k { x with inner := [], innerNan := [] }, 0)

/-- Push a result into the latches of a slot (R186). -/
def Core.landLatch (c : Core) (k : Nat) (slot : Slot) (v : Row) (tag : Bool) : Core :=
  let n := 2 * slot.num
  let older := SMap.set Latch.init c.latches (n + 1) (c.latch n)
  { c with latches := SMap.set Latch.init older n ⟨v, tag, true, BitVec.ofNat 2 k⟩ }

/-- Land one result of context `k` (R183, R186, R224): the core, and every flag that it sets. -/
def Core.landFl (c : Core) (k : Nat) (r : Result) : Core × Fl :=
  let (c, fl) := if r.w then c.landPay k r.pay else (c, 0)
  let c := if r.latch then c.landLatch k r.slot r.lval r.ltag else c
  (c.setCtx k ((c.ctx k).setFlags (r.flags ||| fl)), r.flags ||| fl)
/-- The core after it. -/
def Core.landOne (c : Core) (k : Nat) (r : Result) : Core := (c.landFl k r).1

/-- VBINA reads its eight bin rows as earlier cycles left them: a write of an earlier-issued instruction that lands on
one in the same cycle does not stay (R380). -/
def Core.rebase (c base : Core) (k : Nat) (p : Payload) : Core :=
  match p with
  | .bins row _ => (List.range 8).foldl (fun c i =>
      let r := (binPlace (c.ctx k) row (32 * i)).1
      { c with deep := SMap.set 0 c.deep r (base.row r) }) c
  | _ => c

/-- Where a landing result stands among those of its cycle: the clear of the inner array first, the
rest in issue order (R183, R402). -/
def Result.order (r : Result) : Nat :=
  match r.pay with
  | .clearInner => 0
  | _ => r.seq + 1

/-- Land every result of some contexts that is due (R183). A flag set in a cycle stays set whatever FPCSR write lands
in it (R224). -/
def Core.landOf (c : Core) (ks : List Nat) : Core :=
  let due := ks.flatMap (fun k => ((c.ctx k).flight.filter (fun r => r.due ≤ c.cycle)).map (fun r => (k, r)))
  if due.isEmpty then c
  else
    let c := ks.foldl (fun c k => c.setCtx k { c.ctx k with
      flight := (c.ctx k).flight.filter (fun r => c.cycle < r.due)
      pend := (c.ctx k).pend.filter (fun p => match p.due with
        | some d => decide (c.cycle < d)
        | none => true) }) c
    let due := sortBy (fun p => p.2.due) (sortBy (fun p => p.2.order) due)
    let (c, fls) := due.foldl (fun (a : Core × List (Nat × Fl)) p =>
      let (d, fl) := (a.1.rebase c p.1 p.2.pay).landFl p.1 p.2
      (d, a.2 ++ [(p.1, fl)])) (c, [])
    fls.foldl (fun c p => c.setCtx p.1 ((c.ctx p.1).setFlags p.2)) c

/-- Land every result that is due (R183). -/
def Core.land (c : Core) : Core := c.landOf [0, 1, 2, 3]

/-- What lands on a core; where it changes a context's barrier levels, the barriers' conditions are taken afresh
(R168, R183). -/
def State.landCore (s : State) (ci : Nat) (d : Core) : State :=
  let t := s.setCore ci d
  if [0, 1, 2, 3].any (fun k => (s.ctx ci k).sr.dmr ≠ (d.ctx k).sr.dmr) then t.settleBarriers (s.taskIdOf ci) else t

/-- The results due on a core land (R183). -/
def State.land (s : State) (ci : Nat) : State := s.landCore ci (s.core ci).land

/-- The results of a context due in the next cycle land, before the bundle that it would issue then (R183, R298).
(DEDUCED, log 41.) -/
def State.landNext (s : State) (ci k : Nat) : State :=
  let c := s.core ci
  s.landCore ci { { c with cycle := c.cycle + 1 }.landOf [k] with cycle := c.cycle }

/-- Whether a payload is bound for the inner array (R298, R400). -/
def Payload.isTerms : Payload → Bool
  | .terms _ _ _ => true
  | _ => false

/-- What a block or a trap does to a context's latches and results in flight (R184, R186): its
latches take VALID 0, its W = 0 results are cancelled, its W = 1 results leave the latches alone.
(DEDUCED, log 41.) -/
def Core.detach (c : Core) (k : Nat) : Core :=
  let x := c.ctx k
  let fl := (x.flight.filter (fun r => r.w)).map (fun r =>
    { r with latch := false, det := r.det || r.replay })
  let pd := (x.pend.map (fun p => { p with latch := false })).filter (fun p => p.w || p.rows ≠ [])
  { c.setCtx k { x with flight := fl, pend := pd } with
    latches := c.latches.map (fun e => (e.1, if e.2.owner.toNat = k then { e.2 with valid := false } else e.2)) }

/-- The conditions a bundle blocks on at a tick: one that it blocked on before keeps the tick since which it
has (R295). -/
def watchRows (l : List BlockWatch) (tick : Nat) (rows : List (BitVec 4)) : List BlockWatch :=
  rows.map (fun r => ⟨r, ((l.find? (fun w => w.row = r)).map (·.since)).getD tick, tick⟩)

/-- A context blocks on rows of R178's table (R177, R178, R295). -/
def State.blockOn (s : State) (ci k : Nat) (rows : List (BitVec 4)) : State :=
  s.modCore ci (fun c =>
    let c := c.detach k
    let x := c.ctx k
    c.setCtx k { x with status := .blocked, watch := watchRows x.watch s.tick rows })

/-- A context blocks on one row of R178's table. -/
def State.block (s : State) (ci k : Nat) (row : BitVec 4) : State := s.blockOn ci k [row]

/-- Snapshot of a context at cycle `tt` (R298): `due` holds the cycles remaining. (DEDUCED, log 41.) -/
def Ctx.snapshot (x : Ctx) (tt : Nat) : List SnapEntry :=
  (x.flight.filter (fun r => tt < r.due && r.replay)).map (fun r => { r with due := r.due - tt })

/-- Terms bound for the inner array that the snapshot of a boundary holds land at its replay alone (R261, R298).
(DEDUCED, log 41.) -/
def Ctx.dropTerms (x : Ctx) : Ctx := { x with flight := x.flight.filter (fun r => !r.pay.isTerms) }

/-- A context waits at a boundary while its port empties (R297): the snapshot is that of this cycle, and the trap's work on
its latches and results is done (R186, R298). (DEDUCED, log 41.) -/
def Core.hold (c : Core) (k : Nat) : Core :=
  let x := c.ctx k
  let c := if x.trapSnap.isSome then c
    else (c.setCtx k { x.dropTerms with trapSnap := some (x.snapshot c.cycle), watch := [] }).detach k
  c.setCtx k { c.ctx k with status := .blocked }

/-- The snapshot of a trap taken in a cycle (R298, R300): that of the boundary at which the context has waited since, with
the terms that are still on their way, else this cycle's; what a REPLAY left to replay comes first.
(DEDUCED, log 41.) -/
def Ctx.trapShot (x : Ctx) (cycle : Nat) : List SnapEntry :=
  let now := x.snapshot cycle
  x.resnap ++ (match x.trapSnap with
    | some l => l ++ now.filter (fun r => r.pay.isTerms)
    | none => now)

/-- Whether a port entry posts a receive (R436). -/
def PortEntry.isRecv (p : PortEntry) : Bool :=
  match p.item with
  | .cmd j => (match j.kind with
    | .recv .. => true
    | _ => false)
  | _ => false

/-- A context becomes IDLE (R353, R306): its results, snapshots, records, causes and inner array are
discarded, its latches take VALID 0, its receives that no request has matched are withdrawn, those still in its port among
them, and barriers no longer wait for it. A report that it has made stands (R303). -/
def State.exitCtx (s : State) (ci k : Nat) : State :=
  let task := s.taskIdOf ci
  let s := s.modCore ci (fun c =>
    let c := c.detach k
    let x := c.ctx k
    c.setCtx k { x with
      status := .idle, flight := [], pend := [], snap1 := [], snap2 := [], rec1 := [], rec2 := [],
      resnap := [], rerec := [], causes := [], trapWait := none, trapSnap := none, watch := [],
      inner := [], innerNan := [], stepRec := none, owed := [], sinceStep := none,
      recvs := x.recvs.filter (fun j => j.started), port := x.port.filter (fun p => !p.isRecv),
      tmpl := none, tmplSave1 := none, tmplSave2 := none, arvw := none, held := false, stopped := false })
  s.settleBarriers task

/-- A context is killed (R305, R306). `kind` is 1 for escalation, 2 for no vector, 0 otherwise. -/
def State.kill (s : State) (ci k kind code : Nat) : State :=
  let x := s.ctx ci k
  let task := s.taskIdOf ci
  let s := if kind = 0 then s else
    let (s, id) := s.faultId
    s.pushFault (faultBytes s id (s.spaceOf ci) 0 0x80
      (code + fld x.sr.x1.cause 0 8 * 2 ^ 8 + fld x.sr.x2.cause 0 8 * 2 ^ 16 + kind * 2 ^ 24 + 0x13 * 2 ^ 32)
      ci x.sr.xlvl.toNat k task)
  let s := s.modTask task (fun t => { t with killed := true })
  let s := s.modCtx ci k (fun x => { x with port := [] })
  s.exitCtx ci k

/-- Bank `n` of the trap registers (R291). -/
def SysRegs.bank (r : SysRegs) (n : Nat) : XBank := if n = 1 then r.x1 else r.x2
/-- Write bank `n`. -/
def SysRegs.setBank (r : SysRegs) (n : Nat) (b : XBank) : SysRegs :=
  if n = 1 then { r with x1 := b } else { r with x2 := b }

/-- XPC of a program counter (R291). -/
def Pc.word (p : Pc) : Word := (BitVec.ofBool p.edge ++ p.idx).setWidth 64
/-- The program counter an XPC or XVEC names. -/
def pcOf (w : Word) : Pc := ⟨w.getLsbD 10, w.extractLsb' 0 10⟩

/-- Taking an exception (R290): level `n` is pushed, the banked registers hold the cause, the value,
the slot mask, the program counter and a31; a31 takes the save area of the level; snapshot and
record are kept; the next bundle is the handler's. TRANSLATION parks the context instead, and its
caller writes the fault record. A cause at level 2 or without a vector kills. What is due in this cycle has landed by
then (R298). (DEDUCED, log 42.) -/
def State.takeTrap (s : State) (ci k : Nat) (cause : Cause) (val : Word) (mask : BitVec 8)
    (record : List PortEntry) : State :=
  let s := s.land ci
  let x := s.ctx ci k
  let n := x.sr.xlvl.toNat + 1
  let vec := (x.sr.bank n).vec
  if n = 3 then s.kill ci k 1 cause.code
  else if cause ≠ Cause.translation && !vec.getLsbD 11 then s.kill ci k 2 cause.code
  else
    let snap := x.trapShot (s.core ci).cycle
    s.modCore ci (fun c =>
      let c := c.detach k
      let x := (c.ctx k).dropTerms
      let b : XBank := { x.sr.bank n with
        cause := BitVec.ofNat 64 cause.code, val := val, mask := mask.setWidth 64, pc := x.pc.word, as := x.aReg 31 }
      let x := x.setA 31 (x.sr.xsave.withOff (x.sr.xsave.off + 512 * ((n : Int) - 1)))
      let sr := { x.sr.setBank n b with xlvl := BitVec.ofNat 2 n }
      let x := { x with
        sr := sr
        trapWait := none
        trapSnap := none
        resnap := []
        watch := []
        tmpl := none
        status := if cause = Cause.translation then .parked else if x.status = CtxStatus.running then .running else .ready
        pc := if cause = Cause.translation then x.pc else pcOf vec }
      let step := (x.sinceStep, x.owed)
      let x := { x with owed := [] }
      c.setCtx k (if n = 1 then { x with snap1 := snap, rec1 := record, tmplSave1 := (c.ctx k).tmpl, stepSave1 := step }
        else { x with snap2 := snap, rec2 := record, tmplSave2 := (c.ctx k).tmpl, stepSave2 := step }))

/-- Return from the current level (R292, R300): the program counter, a31 and the level are restored;
the snapshot and record wait for the context's next issue. -/
def State.trapReturn (s : State) (ci k : Nat) : State :=
  s.modCtx ci k (fun x =>
    let n := x.sr.xlvl.toNat
    let b := x.sr.bank n
    let x := x.setA 31 b.as
    { x with
      pc := pcOf b.pc
      sr := { x.sr with xlvl := BitVec.ofNat 2 (n - 1) }
      resnap := x.resnap ++ (if n = 1 then x.snap1 else x.snap2)
      rerec := x.rerec ++ (if n = 1 then x.rec1 else x.rec2)
      tmpl := if n = 1 then x.tmplSave1 else x.tmplSave2
      sinceStep := (if n = 1 then x.stepSave1 else x.stepSave2).1
      owed := (if n = 1 then x.stepSave1 else x.stepSave2).2
      tmplSave1 := if n = 1 then none else x.tmplSave1
      tmplSave2 := if n = 1 then x.tmplSave2 else none
      stepSave1 := if n = 1 then (none, []) else x.stepSave1
      stepSave2 := if n = 1 then x.stepSave2 else (none, [])
      snap1 := if n = 1 then [] else x.snap1
      rec1 := if n = 1 then [] else x.rec1
      snap2 := if n = 1 then x.snap2 else []
      rec2 := if n = 1 then x.rec2 else []
      status := if x.status = .parked then .ready else x.status })

/-- Whether an access is still to make its checks (R413). -/
def PortEntry.unchecked (p : PortEntry) (id : Nat) : Bool :=
  match p.item with
  | .acc a => !a.checked && a.pend = some id
  | _ => false

/-- Replay at Tr, the cycle in which a context next issues (R299): snapshot entries are in flight
again, the record stands at the head of the port. A typed load that is still to make its checks lands its type word as
at commit, in its latch too (R413). (DEDUCED, log 41.) -/
def Core.replay (c : Core) (k : Nat) : Core :=
  let x := c.ctx k
  c.setCtx k { x with
    flight := x.resnap.map (fun r => { r with due := c.cycle + r.due, seq := c.cycle, det := false }) ++ x.flight
    resnap := []
    port := x.rerec ++ x.port
    pend := x.pend.map (fun p => if x.rerec.any (fun q => q.unchecked p.id) then { p with latch := true } else p)
    replayIds := if x.rerec = [] then x.replayIds else x.rerec.map (·.id)
    rerec := [] }

/-- A context that is held or has stopped reissues the record of a REPLAY at once (R300); the snapshot waits for its next
issue (R299). (DEDUCED, log 41.) -/
def Core.reissue (c : Core) (k : Nat) : Core :=
  let x := c.ctx k
  c.setCtx k { x with port := x.rerec ++ x.port, replayIds := x.rerec.map (·.id), rerec := [] }

/-- A context holds at the boundary after a GATE, or stops there: its latches are lost as on a block, its snapshot is
that of the next cycle (R298, R301, R304). Terms of a step land as on a block: none are on their way at a boundary that
allows a stop. One that a fault has PARKED there has its snapshot already. (DEDUCED, log 41.) -/
def Core.halt (c : Core) (k : Nat) (stop : Bool) : Core :=
  let x := c.ctx k
  let snap := (x.snapshot (c.cycle + 1)).filter (fun r => !r.pay.isTerms)
  let c := if x.status = .parked then c else (c.setCtx k { x with trapSnap := some snap, watch := [] }).detach k
  c.setCtx k { c.ctx k with held := true, stopped := stop }
/-- A context halts, once what is due in the next cycle has landed. (DEDUCED, log 41.) -/
def State.halt (s : State) (ci k : Nat) (stop : Bool) : State := (s.landNext ci k).modCore ci (fun c => c.halt k stop)

/-- A held context goes on (R304). -/
def Ctx.release (x : Ctx) : Ctx :=
  { x with
    held := false
    trapSnap := none }

/-- A stop fails (R163, R304): a stopped context resumes by R299, a held one goes on, and its report is void. -/
def Ctx.resume (x : Ctx) : Ctx :=
  let x := if x.stopped then { x with resnap := x.resnap ++ x.trapSnap.getD [] } else x
  let x := if x.held then x.release else x
  { x with
    stopped := false
    report := none }

/-- A context is chosen (R177): it is RUNNING, and the one that was is READY. -/
def Core.choose (c : Core) (k : Nat) : Core :=
  let rest (e : Nat × Ctx) : Nat × Ctx :=
    (e.1, if e.1 ≠ k && e.2.status = CtxStatus.running then { e.2 with status := CtxStatus.ready } else e.2)
  let c := { c with ctxs := c.ctxs.map rest, cur := BitVec.ofNat 2 k }
  let x := c.ctx k
  c.setCtx k (match x.status with
    | .ready | .blocked => { x with status := .running }
    | .idle | .running | .parked => x)

/-- The lowest pending cause that may be taken now (R293). -/
def Ctx.nextCause (x : Ctx) : Option PendCause :=
  x.causes.find? (fun p => x.sr.xlvl = 0 || p.cause.anyLevel)

/-- Whether every access and command of a context has left its port and every load has returned
(R297). -/
def Ctx.quiet (x : Ctx) : Bool := x.port.isEmpty && x.pend.all (fun p => !p.load)

/-- Forget an engine's fault: its job is over. -/
def State.clearWait (s : State) (rq : Requester) : State :=
  { s with
    engWaits := s.engWaits.filter (fun w => w.req ≠ rq)
    walks := if s.walks.any (fun w => w.req = rq) then startWalks (s.walks.filter (fun w => w.req ≠ rq)) else s.walks }

end Sys2Proof.Machine
end

