-- ==== Sys2Proof/Machine/Operands.lean ====
section
/-!
DEFINITION. Operand forms: how a slot reads its sources at issue (R182, R184, R186, R187, R191), the
checks every slot takes before its own (R178, R193, R216, R294), and how its result enters flight
(R183, R186, R224, R225).
-/

namespace Sys2Proof.Machine

/-- Why a slot does not commit: it blocks on a row of R178's table; it pauses for one check or until a
tick (R450); its wait finds a post refused to another party (R442); it was only asked which dimension variables it
binds (R314); or it faults at issue. -/
inductive Stop where
  | block (row : BitVec 4)
  | pause (t : Option Nat)
  | overflow (f : Nat)
  | bound (ds : List (Nat × Nat))
  | trap (c : Cause) (v : Word)
  deriving DecidableEq, Repr

/-- What a slot has at issue: the machine, its core and context, the core and context as its reads
see them (R184), its slot and its head fields. -/
structure Env where
  s : State
  ci : Nat
  k : Nat
  core : Core
  x : Ctx
  slot : Slot
  h : Hd
  deriving DecidableEq, Repr

/-- What a slot does: a next state, or why it stops. -/
abbrev Body := Env → Except Stop State

/-- The core as a slot's reads see it. Where a block or a trap of this context lies between a result
and its landing, the read sees the old value or the new one, as a free value says (R184); a row that a slot of the
same bundle has written is read as the bundle found it (R182). (DESIGN CHOICE, log 38.) -/
def State.seen (s : State) (ci k : Nat) (slot : Slot) : Core :=
  let c := s.core ci
  let c := { c with deep := SMap.setAll 0 c.deep s.iss.rows }
  ((c.ctx k).flight.filter (fun r => r.det && r.w)).zipIdx.foldl (fun c p =>
    if Config.seesNew (Nat.pair (s.fresh * 8 + slot.num) p.2) then (c.landPay k p.1.pay).1 else c) c

/-- The environment of a slot. -/
def State.env (s : State) (slot : Slot) (h : Hd) : Env :=
  let ci := s.iss.core
  let k := s.iss.ctx
  let c := s.seen ci k slot
  ⟨s, ci, k, c, c.ctx k, slot, h⟩

/-- A slot is enabled (R308). -/
def Env.enabled (e : Env) : Bool := e.x.pReg e.h.pred.toNat != e.h.pn

/-- A latch operand (R186). -/
def Env.latch (e : Env) (f : Nat) : Except Stop Latch :=
  let l := e.core.latch (f - 384)
  if l.valid && l.owner.toNat = e.k then .ok l
  else .error (.trap .latchLost (BitVec.ofNat 64 (f - 384 + 16 * e.slot.num)))

/-- A scalar source. -/
def Env.srcS (e : Env) (f : BitVec 9) : Except Stop Word :=
  if 384 ≤ f.toNat then (e.latch f.toNat).map (fun l => l.val.setWidth 64) else .ok (e.x.sReg f.toNat)
/-- A capability source (R186, R188). -/
def Env.srcA (e : Env) (f : BitVec 9) : Except Stop Cap :=
  if 384 ≤ f.toNat then (e.latch f.toNat).map (fun l => ⟨l.val.setWidth 128, l.tag⟩) else .ok (e.x.aReg f.toNat)
/-- A vector source: a register, a latch, or a deep-file row (R191). -/
def Env.srcV (e : Env) (f : BitVec 9) : Except Stop Row :=
  if 400 ≤ f.toNat then .ok (e.core.row (e.x.xRow (f.toNat - 400)))
  else if 384 ≤ f.toNat then (e.latch f.toNat).map (fun l => l.val)
  else .ok (e.x.vReg f.toNat)
/-- A mask source. -/
def Env.srcM (e : Env) (f : BitVec 9) : Quad := e.x.mReg f.toNat
/-- A predicate source. -/
def Env.srcP (e : Env) (f : BitVec 9) : Bool := e.x.pReg f.toNat
/-- A tile source. -/
def Env.srcT (e : Env) (f : BitVec 9) : TileReg := e.x.tReg f.toNat

/-- Whether a pending result is one the slot must wait for: not of its own bundle. -/
def Env.waitsOn (e : Env) (p : Pending) : Bool := p.bseq ≠ e.x.seq

/-- Whether a source of a slot has not returned (R178, R186): a register a load or an engine result
will write, the newer latch of its slot, a deep-file row, or a dimension variable a typed load may
bind. -/
def Env.srcPending (e : Env) (src : Cls × Nat) : Bool :=
  e.x.pend.any (fun p => e.waitsOn p &&
    (if src.2 < 384 then (p.w && p.regs.contains src) || (src.1 = .d && p.ds.contains src.2)
     else if src.2 < 400 then p.latch && 2 * p.slot.num = src.2 - 384
     else p.rows.contains (e.x.xRow (src.2 - 400)) || (p.w && p.regs.contains (.x, src.2 - 400))))

/-- Whether a destination is still to be written by an earlier result (R183). (DEDUCED, log 37.) -/
def Env.dstPending (e : Env) (d : Cls × Nat) : Bool :=
  e.x.pend.any (fun p => e.waitsOn p && ((p.w && p.regs.contains d) || (d.1 = .d && p.ds.contains d.2) ||
    (400 ≤ d.2 && p.rows.contains (e.x.xRow (d.2 - 400)))))

/-- Whether one of a list of dimension variables may still be bound by a typed load (R413). -/
def Env.dimPending (e : Env) (ds : List Nat) : Bool :=
  e.x.pend.any (fun p => e.waitsOn p && ds.any (fun j => p.ds.contains j))

/-- Whether an access needs to write (R405): the write side of an atomic counts even where its compare
fails. -/
def AccKind.writes : AccKind → Bool
  | .store | .stCap | .stTile .. | .atomic .. => true
  | _ => false

/-- The jobs in a core's engines. -/
def Core.jobs (c : Core) : List Job := c.ce ++ c.me ++ c.sends ++ c.colls ++ c.sgrds ++ c.svcs
/-- The engine commands of a context that have not left its port, those of its records included. -/
def Ctx.portJobs (x : Ctx) : List Job := (x.rec1 ++ x.rec2 ++ x.rerec ++ x.port).filterMap (fun p => match p.item with
  | .cmd j => some j
  | _ => none)
/-- The engine jobs of a core not yet completed, those in its ports included (R278). -/
def State.coreJobs (s : State) (ci : Nat) : List Job :=
  let c := s.core ci
  c.jobs ++ ([0, 1, 2, 3].flatMap (fun k => (c.ctx k).portJobs ++ (c.ctx k).recvs)) ++
    ((s.merges.flatMap (fun m => m.2.queue)) ++ (s.pxq.flatMap (fun q => q.2)) ++
      (s.groups.flatMap (fun g => g.wait)) ++ (s.cruns.flatMap (fun r => r.jobs))).filter (fun j => j.core = ci)
/-- The live jobs of the gang that owns a core; those of a swapped gang are not among them. -/
def State.gangJobs (s : State) (ci : Nat) : List Job := (s.coreJobs ci).filter (fun j => j.task = s.taskIdOf ci)
/-- The live jobs of a context. -/
def State.ctxJobs (s : State) (ci k : Nat) : List Job := (s.gangJobs ci).filter (fun j => j.ctx = k)

/-- Whether a job is one whose deep-file rows are held against every context of its core: matrix jobs
(R193), the engine-backed typed forms (R216), sends and receives (R435, R436). -/
def JobKind.holdsRows : JobKind → Bool
  | .send .. | .recv .. | .rearrange .. | .zbComp .. | .zbExp .. | .window .. | .matmul .. | .nest .. | .epilogue .. => true
  | _ => false

/-- Whether a job goes to the matrix engine. -/
def JobKind.isMatrix : JobKind → Bool
  | .matmul .. | .nest .. | .epilogue .. => true
  | _ => false
/-- Whether a job goes to the copy engine. -/
def JobKind.isCopy : JobKind → Bool
  | .plain .. | .expand .. | .rearrange .. | .zbComp .. | .zbExp .. | .window .. => true
  | _ => false

/-- The kinds of the queues of R421. -/
def JobKind.isMerge : JobKind → Bool
  | .mopen .. | .mpush .. | .mclose | .mstat => true
  | _ => false
@[inherit_doc JobKind.isMerge] def JobKind.isPx : JobKind → Bool
  | .px .. | .pxRemote .. => true
  | _ => false
@[inherit_doc JobKind.isMerge] def JobKind.isSend : JobKind → Bool
  | .send .. | .bxfer .. => true
  | _ => false
@[inherit_doc JobKind.isMerge] def JobKind.isRecv : JobKind → Bool
  | .recv .. => true
  | _ => false
@[inherit_doc JobKind.isMerge] def JobKind.isColl : JobKind → Bool
  | .coll .. => true
  | _ => false
@[inherit_doc JobKind.isMerge] def JobKind.isSgrd : JobKind → Bool
  | .sgrd .. => true
  | _ => false
@[inherit_doc JobKind.isMerge] def JobKind.isWd : JobKind → Bool
  | .xroute .. | .take | .launch .. => true
  | _ => false

/-- A region as it stands now: that of an object whose entry has become valid lies in memory (R278, R281). -/
def Region.located (s : State) (ci : Nat) (sp : BitVec 16) : Region → Region
  | .obj id lo hi => match s.object ci sp id with
    | some o => .mem (o.base + lo) (o.base + hi)
    | none => .obj id lo hi
  | g => g

/-- Two byte ranges share a 64-byte line (R278). -/
def Region.onLine (a b : Region) : Bool :=
  match a, b with
  | .mem lo hi, .mem lo' hi' => lo < hi && lo' < hi' && lo / 64 ≤ (hi' - 1) / 64 && lo' / 64 ≤ (hi - 1) / 64
  | .obj o lo hi, .obj o' lo' hi' => o = o' && lo < hi && lo' < hi' && lo / 64 ≤ (hi' - 1) / 64 && lo' / 64 ≤ (hi - 1) / 64
  | _, _ => false

/-- Whether a row lies in one of a list of regions. -/
def rowIn (l : List Region) (r : Nat) : Bool := l.any (fun g => match g with
  | .rows lo hi => lo ≤ r && r < hi
  | _ => false)
/-- The jobs of a core that hold rows and were issued before this bundle. -/
def Env.holders (e : Env) : List Job :=
  (e.s.gangJobs e.ci).filter (fun j => j.kind.holdsRows && !(j.ctx = e.k && j.bseq = e.x.seq))

/-- Whether access to deep-file rows must wait for a job (R193, R216). -/
def Env.rowsHeld (e : Env) (rd wr : List Nat) : Bool :=
  let js := if rd = [] && wr = [] then [] else e.holders
  js.any (fun j => rd.any (rowIn j.writes) || wr.any (fun r => rowIn j.reads r || rowIn j.writes r))

/-- The rows that fields of class v name through index registers. -/
def Env.rowsOf (e : Env) (l : List (Cls × Nat)) : List Nat :=
  (l.filter (fun p => p.1 = .v && 400 ≤ p.2)).map (fun p => e.x.xRow (p.2 - 400))

/-- Stop where a condition holds. -/
def stopIf (b : Bool) (p : Stop) : Except Stop Unit := if b then .error p else .ok ()
/-- Whether what a slot is asked for passes over a condition that blocks (R295, R314). -/
def Env.passes (e : Env) (row : BitVec 4) : Bool :=
  match e.s.iss.ask with
  | .issue => false
  | .rows l => l.contains row
  | .binds => true
/-- Block where a condition holds. -/
def Env.blockIf (e : Env) (b : Bool) (row : BitVec 4) : Except Stop Unit := stopIf (b && !e.passes row) (.block row)
/-- Trap where a condition holds. -/
def trapIf (b : Bool) (c : Cause) (v : Nat) : Except Stop Unit := stopIf b (.trap c (BitVec.ofNat 64 v))

/-- The first source, in the order of the fields, that is a latch this context has lost (R186). (DEDUCED, log 54.) -/
def Env.lostStop (e : Env) (src : List (Cls × Nat)) : Option Stop :=
  src.findSome? (fun p => if 384 ≤ p.2 && p.2 < 400 then (match e.latch p.2 with
    | .error q => some q
    | .ok _ => none) else none)

/-- What every slot checks of R178 before its own instruction does (R178, R181). -/
def Env.waits (e : Env) (src dst : List (Cls × Nat)) : Except Stop Unit := do
  e.blockIf (src.any e.srcPending || dst.any e.dstPending) 1
  e.blockIf (e.rowsHeld (e.rowsOf src) (e.rowsOf dst)) 4

/-- The environment with every latch valid for the reader and no error marked: how a slot whose operand faults
is asked for the conditions it blocks on, which come first (R181). -/
def Env.lenient (e : Env) : Env :=
  { e with
    core := { e.core with
      latches := e.core.latches.map (fun p => (p.1, { p.2 with
        valid := true
        owner := BitVec.ofNat 2 e.k }))
      eccRows := []
      eccAcm := [] }
    x := { e.x with ecc := [] } }

/-- Whether a row is still to be written by an earlier result (R178, R406). -/
def Env.rowsPending (e : Env) (rows : List Nat) : Bool :=
  e.x.pend.any (fun p => e.waitsOn p && rows.any (fun r => p.rows.contains r))

/-- The checks of rows that a slot names by number: a result still to come (R178), a job that holds
them (R193, R216), an uncorrectable error in a row read (R294). -/
def Env.rowCheck (e : Env) (rd wr : List Nat) : Except Stop Unit := do
  e.blockIf (e.rowsPending (rd ++ wr)) 1
  e.blockIf (e.rowsHeld rd wr) 4
  match rd.find? (fun r => e.core.eccRows.contains r) with
  | some r => .error (.trap .eccUncorrectable (BitVec.ofNat 64 (2 ^ 60 + r)))
  | none => .ok ()

/-- The trap value of a capability fault (R98). -/
def capValue (areg acc rights : Nat) (eo : Int) : Word :=
  BitVec.ofNat 64 (areg % 32 * 2 ^ 59 + acc % 8 * 2 ^ 56 + rights % 256 * 2 ^ 48 + ofI 48 eo)

/-- The checks of R98 in their order: tag, rights, bounds. `areg` is the a-register's index, `acc`
the access code, `eo` the offset of the first byte, `n` the bytes; with no bytes the bounds check is
skipped. -/
def capCheck (areg acc : Nat) (c : Cap) (need : BitVec 8) (eo : Int) (n : Nat) : Except Stop Unit :=
  if !c.valid then .error (.trap .capTag (capValue areg acc 0 eo))
  else if need &&& ~~~c.rights ≠ 0 then .error (.trap .capRights (capValue areg acc (need &&& ~~~c.rights).toNat eo))
  else if n ≠ 0 && (eo < 0 || c.len < eo + n) then .error (.trap .capBounds (capValue areg acc 0 eo))
  else .ok ()

/-- A slot's result on its way (R183): it lands after the latency, in its latch and, with W = 1, in
its destination. -/
def Env.result (e : Env) (lat : Nat) (v : Row) (tag : Bool) (pay : Payload) (fl : Fl) : Result where
  slot := e.slot
  seq := e.core.cycle
  due := e.core.cycle + lat
  w := e.h.w
  latch := true
  lval := v
  ltag := tag
  pay := pay
  flags := fl
  replay := true
  det := false

/-- A check that faults gives way to a condition that blocks the bundle (R181). -/
def orWait {α : Type} (w : Except Stop Unit) (r : Except Stop α) : Except Stop α :=
  match r, w with
  | .error (.trap _ _), .error p => .error p
  | r, _ => r

/-- Put a result in flight. -/
def State.fly (s : State) (ci k : Nat) (r : Result) : State :=
  s.modCtx ci k (fun x => { x with flight := x.flight ++ [r] })
/-- Put a slot's result in flight. -/
def Env.fly (e : Env) (r : Result) : State := e.s.fly e.ci e.k r

/-- Precise floating-point exceptions (R225). -/
def Env.fpCheck (e : Env) (fl : Fl) : Except Stop Unit :=
  let on := bits fl.toNat 0 5 &&& fld e.x.sr.fpcsr 8 5
  trapIf (on ≠ 0) .fpException (e.slot.num * 2 ^ 8 + on)

/-- A result without a destination of its own writes the latch alone; one with W = 1 a register. -/
def Env.ret (e : Env) (lat : Nat) (cls : Cls) (d : BitVec 9) (v : Row) (fl : Fl := 0) : Except Stop State := do
  e.fpCheck fl
  pure (e.fly (e.result lat v false (.reg cls d.toNat v allBytes) fl))

/-- A scalar result. -/
def Env.retS (e : Env) (lat : Nat) (d : BitVec 9) (v : Word) (fl : Fl := 0) : Except Stop State :=
  e.ret lat .s d (v.setWidth 1024) fl
/-- A predicate result, which enters the latch zero-extended (R339). -/
def Env.retP (e : Env) (lat : Nat) (d : BitVec 9) (v : Bool) (fl : Fl := 0) : Except Stop State :=
  e.ret lat .p d ((BitVec.ofBool v).setWidth 1024) fl
/-- A mask result. -/
def Env.retM (e : Env) (lat : Nat) (d : BitVec 9) (v : Quad) (fl : Fl := 0) : Except Stop State :=
  e.ret lat .m d (v.setWidth 1024) fl
/-- A capability result, with its tag (R339). -/
def Env.retA (e : Env) (lat : Nat) (d : BitVec 9) (c : Cap) : Except Stop State :=
  pure (e.fly (e.result lat (c.bits.setWidth 1024) c.tag (.cap d.toNat c) 0))
/-- A vector result under a byte mask: a v register, or the row an index register addresses (R191).
The latch takes the row whole, its unwritten bytes as the destination holds them. -/
def Env.retVm (e : Env) (lat : Nat) (d : BitVec 9) (v : Row) (mask : Quad) (fl : Fl := 0) : Except Stop State := do
  e.fpCheck fl
  if 400 ≤ d.toNat then
    let r := e.x.xRow (d.toNat - 400)
    pure (e.fly (e.result lat v false (.row r v mask) fl))
  else pure (e.fly (e.result lat v false (.reg .v d.toNat v mask) fl))
/-- A vector result. -/
def Env.retV (e : Env) (lat : Nat) (d : BitVec 9) (v : Row) (fl : Fl := 0) : Except Stop State :=
  e.retVm lat d v allBytes fl
/-- A tile result, which has no latch form: the type word enters the latch. -/
def Env.effect (e : Env) (lat : Nat) (pay : Payload) : State :=
  e.fly { e.result lat 0 false pay 0 with w := true, latch := false }

end Sys2Proof.Machine
end

