-- ==== Sys2Proof/Machine/Issue.lean ====
section
/-!
DEFINITION. Issue of one slot (R181, R182, R313, R315): the shared path of every slot instruction.
-/

namespace Sys2Proof.Machine

/-- Record how the slot fared. -/
def State.setVerdict (s : State) (v : Verdict) : State := { s with iss := { s.iss with verdict := v } }

/-- Take a cause found at issue now where the context's port is empty and its loads have returned;
else hold it until they have (R297). (DEDUCED, log 42.) -/
def State.trapNow (s : State) (ci k : Nat) (c : Cause) (v : Word) (mask : BitVec 8) : State :=
  let x := s.ctx ci k
  if x.quiet then s.takeTrap ci k c v mask []
  else (s.modCore ci (fun c => c.hold k)).modCtx ci k (fun x => { x with trapWait := some ⟨c, v, mask⟩ })

/-- The key under which a context remembers a YIELD or a SLEEP of the bundle it stands at: its trap level
and its bundle (R450). -/
def Ctx.pauseKey (x : Ctx) : Nat := x.sr.xlvl.toNat * 2048 + edgeKey x.pc.edge x.pc.idx.toNat

/-- The first check of a YIELD, or of a SLEEP with its deadline: the context blocks (R450). A YIELD
clears at once. -/
def State.pauseOn (s : State) (ci k : Nat) (rows : List (BitVec 4)) (t : Option Nat) : State :=
  (s.blockOn ci k rows).modCtx ci k (fun x =>
    match t with
    | none => { x with yielded := SMap.set false x.yielded x.pauseKey true, status := .ready }
    | some t => { x with deadline := SMap.set none x.deadline x.pauseKey (some t) })
@[inherit_doc State.pauseOn]
def State.pause (s : State) (ci k : Nat) (t : Option Nat) : State := s.pauseOn ci k [6] t

/-- A wait names a flag whose post was refused to another party (R442): OVF clears and the cause is
recorded between bundles. -/
def State.overflow (s : State) (ci k f : Nat) : State :=
  let g := (s.core ci).flag f
  (s.modCore ci (fun c => c.setFlag f { g with ovf := false })).modCtx ci k (fun x =>
    x.pendCause .flagOverflow (flagValue f g))

/-- The illegal-bundle rule on a slot alone in its bundle. -/
def Env.illegalAlone (e : Env) (op : Op) (w : Word) : Option (Cause × Word × BitVec 8) :=
  illegal (fun n => e.x.xReg n) [⟨e.slot, w, .ok op⟩]

/-- The fault of a slot's operands, unless its own work meets a condition of R178, which comes first (R181).
(DEDUCED, log 54.) -/
def Env.orBlock (e : Env) (p : Stop) (body : Body) : Stop :=
  match body e.lenient with
  | .error (.block row) => .block row
  | .error (.pause t) => .pause t
  | .error (.overflow f) => .overflow f
  | _ => p

end Sys2Proof.Machine

namespace Sys2Proof

/-- What an instruction reads of the tiles it names at issue: their types; the a-register of a window besides; the rows
of their storage besides. -/
inductive TileRead where
  | types | window | storage
  deriving DecidableEq, Repr

/-- What the instructions that resolve extents read of their tiles (R178, R211, R215, R216, R385). -/
def Op.tileRead : Op → Option TileRead
  | .tchk | .trshp | .ttrn | .tcast | .text | .tinfo | .mstep | .mscl | .ldt | .ldtx | .stt | .sttx => some .types
  | .tslc | .tslci => some .window
  | .tfill | .tcopy | .tqbx | .tdqbx | .tzb | .tzx | .twex | .mmul | .mgo | .mepi | .mepiq | .maclr | .mard | .mawr
  | .send | .recv | .recva => some .storage
  | _ => none

end Sys2Proof

namespace Sys2Proof.Machine

/-- The value of a key of an association list. -/
def assoc (l : List (Nat × Nat)) (k : Nat) : Option Nat := (l.find? (fun p => p.1 = k)).map (·.2)

/-- A reference to variable j. -/
def varRef (j : Nat) : Nat := 2 ^ 23 + j

/-- The dimension variables a type word names. -/
def twVars (t : Quad) : List Nat := ((twExts t).filter isVar).map (· % 16)

/-- An extent encoding resolved: a constant, or the reference of a variable that is unbound; earlier
slots' and this slot's pending bindings count (R211, R212). -/
def Env.resolve (e : Env) (pend : List (Nat × Nat)) (n : Nat) : Nat :=
  if !isVar n then n
  else
    let j := n % 16
    let d := (e.x.dReg j).toNat
    if 2 ^ 23 ≤ d then d - 2 ^ 23
    else match assoc e.s.iss.binds j, assoc pend j with
      | some v, _ => v
      | none, some v => v
      | none, none => varRef j

/-- The resolved extents of a type word as it stands at issue. -/
def Env.extents (e : Env) (t : Quad) : List Nat := (twExts t).map (e.resolve [])

/-- Whether a tile operand waits for an earlier result: a variable that a typed load may bind, a row of its image, or
the a-register of its window (R178, R406, R413). -/
def Env.tilePending (e : Env) (u : TileRead) (t : TileReg) : Bool :=
  e.dimPending (twVars t.tw) || (u = .storage && dKind t.desc = 1 &&
      e.rowsPending ((List.range (min (dCount t.desc) (imageRows t.tw (e.extents t.tw)))).map (e.x.dfbase + dRow t.desc + ·))) ||
    (u ≠ .types && dKind t.desc = 2 && e.srcPending (.a, dAreg t.desc))

/-- The tile registers that a word names. -/
def Env.tilesOf (e : Env) (op : Op) (w : Word) : List TileReg :=
  ((op.sources w ++ op.dests w).filter (fun p => p.1 == .t)).map (fun p => e.x.tReg p.2)

/-- The conditions of R178 on the tiles that a slot names, which come before any fault of the slot (R181). -/
def Env.tileWait (e : Env) (op : Op) (w : Word) : Except Stop Unit :=
  match op.tileRead with
  | none => .ok ()
  | some u => e.blockIf ((e.tilesOf op w).any (e.tilePending u)) 1

/-- The mask register that a word names (R360, R403). -/
def Env.maskOf (e : Env) (op : Op) (w : Word) : Option Nat :=
  let named : Option Nat := if w.getLsbD 10 then some (fld w 7 3) else none
  match op with
  | .ldvm | .stvm => some (fld w 3 3)
  | .ldg | .sct => named
  | .vaddi | .vli | .vqbx | .vdqbx | .vdqs8 | .vdfrd | .vdfwr => none
  | _ => if (e.slot = .va || e.slot = .vb) && op.desc.resv >>> 7 % 16 = 0 then named else none

/-- Every register that a slot reads, with the value that a trap gives for it: the sources of its word; the index
registers of its indirect rows; its mask; the variables, and the a-registers of windows, of its tiles (R22, R294).
(DEDUCED, log 13.) -/
def Env.readRegs (e : Env) (op : Op) (w : Word) : List ((Cls × Nat) × Nat) :=
  let src := op.sources w
  src.map (fun p => (p, p.2)) ++
    ((src ++ op.dests w).filter (fun p => p.1 = .v && 400 ≤ p.2)).map (fun p => ((.x, p.2 - 400), p.2)) ++
    (e.maskOf op w).toList.map (fun n => ((.m, n), n)) ++
    (match op.tileRead with
      | none => []
      | some u => (e.tilesOf op w).flatMap (fun t => (twVars t.tw).map (fun j => ((.d, j), j)) ++
          if u ≠ .types && dKind t.desc = 2 then [((.a, dAreg t.desc), dAreg t.desc)] else []))

/-- An uncorrectable error in what a slot reads (R22, R294). (DEDUCED, log 13.) -/
def Env.eccStop (e : Env) (op : Op) (w : Word) : Option Stop :=
  match (e.readRegs op w).find? (fun p => e.x.ecc.contains p.1) with
  | some p => some (.trap .eccUncorrectable (BitVec.ofNat 64 p.2))
  | none =>
    match (e.rowsOf (op.sources w)).find? (fun r => e.core.eccRows.contains r) with
    | some r => some (.trap .eccUncorrectable (BitVec.ofNat 64 (2 ^ 60 + r)))
    | none => none

/-- An uncorrectable error in the predicate of a slot, which is read whether it enables the slot or not (R22, R308).
(DEDUCED, log 13.) -/
def Env.predStop (e : Env) : Option Stop :=
  if e.h.pred ≠ 0 && e.x.ecc.contains (.p, e.h.pred.toNat) then
    some (.trap .eccUncorrectable (e.h.pred.setWidth 64))
  else none

/-- The fault that a slot's operands raise (R22, R186, R294). (DEDUCED, log 54.) -/
def Env.operandStop (e : Env) (op : Op) (w : Word) : Option Stop := (e.eccStop op w).or (e.lostStop (op.sources w))

/-- What a slot comes to: its checks, then its own work (R181, R182, R315). `none` stands for a slot
that is not enabled. A slot that is only asked which variables it binds answers whatever else it meets (R314). -/
def Env.attempt (e : Env) (op : Op) (w : Word) (body : Body) : Except Stop (Option State) :=
  match e.illegalAlone op w with
  | some (c, v, _) => .error (.trap c v)
  | none =>
    if e.s.iss.ask = .binds then (body e.lenient).map some
    else match e.predStop with
      | some p => .error p
      | none =>
        if e.enabled then do
          e.waits (op.sources w) (op.dests w)
          orWait (e.tileWait op w) (match e.operandStop op w with
            | some p => .error (e.orBlock p body)
            | none => (body e).map some)
        else .ok none

/-- Run a slot instruction (R181): it commits, it is not enabled, it blocks its context, or its
context takes the exception. -/
def runSlot (op : Op) (k : Slot) (w : Word) (h : Hd) (s : State) (body : Body) : Out :=
  let e := s.env k h
  match e.attempt op w body with
  | .ok none => .next (s.setVerdict .disabled)
  | .ok (some t) => .next (t.setVerdict .committed)
  | .error (.block row) => .next ((s.block e.ci e.k row).setVerdict (.blocked row))
  | .error (.pause t) => .next ((s.pause e.ci e.k t).setVerdict (.paused t))
  | .error (.overflow f) => .next ((s.overflow e.ci e.k f).setVerdict (.overflow f))
  | .error (.bound ds) => .next { s with iss := { s.iss with binds := s.iss.binds ++ ds, verdict := .none } }
  | .error (.trap c v) =>
    let mask := match e.illegalAlone op w with
      | some (_, _, m) => m
      | none => slotMask [k]
    .next ((s.trapNow e.ci e.k c v mask).setVerdict (.trapped c v))

/-- Run an instruction of each format (R309). -/
def runR (op : Op) (k : Slot) (h : Hd) (f : RFmt) (s : State) (body : Body) : Out := runSlot op k (mkR op.code h f) h s body
@[inherit_doc runR]
def runI (op : Op) (k : Slot) (h : Hd) (f : IFmt) (s : State) (body : Body) : Out := runSlot op k (mkI op.code h f) h s body
@[inherit_doc runR]
def runL (op : Op) (k : Slot) (h : Hd) (f : LFmt) (s : State) (body : Body) : Out := runSlot op k (mkL op.code h f) h s body
@[inherit_doc runR]
def runM (op : Op) (k : Slot) (h : Hd) (f : MFmt) (s : State) (body : Body) : Out := runSlot op k (mkM op.code h f) h s body
@[inherit_doc runR]
def runB (op : Op) (k : Slot) (h : Hd) (f : BFmt) (s : State) (body : Body) : Out := runSlot op k (mkB op.code h f) h s body
@[inherit_doc runR]
def runE (op : Op) (k : Slot) (h : Hd) (f : EFmt) (s : State) (body : Body) : Out := runSlot op k (mkE op.code h f) h s body

end Sys2Proof.Machine
end

