-- ==== Sys2Proof/Machine/Scalar.lean ====
section
/-!
DEFINITION. Integer instructions of the SC slot (R339 to R346), and NOP (R307, R311).
-/

namespace Sys2Proof.Machine

/-- The operand width: 32 bits where FMT[0] selects `.w`, else 64 (R340). -/
def widthOf (h : Hd) : Nat := if h.fmt.getLsbD 0 then 32 else 64

/-- A result formed on `n` bits and sign-extended (R340). -/
def extend (n : Nat) (i : Int) : Word := word (toS n (ofI n i))

/-- A two-operand integer instruction: `op` gets the width and the two operands as unsigned numbers
of that width (R340, R341). -/
def Env.alu2 (e : Env) (f : RFmt) (lat : Nat) (op : Nat → Nat → Nat → Int) : Except Stop State := do
  let a ← e.srcS f.sa
  let b ← e.srcS f.sb
  let n := widthOf e.h
  e.retS lat f.dst (extend n (op n (a.toNat % 2 ^ n) (b.toNat % 2 ^ n)))

/-- A one-operand integer instruction (R341). -/
def Env.alu1 (e : Env) (f : RFmt) (op : Nat → Nat → Int) : Except Stop State := do
  let a ← e.srcS f.sa
  let n := widthOf e.h
  e.retS 1 f.dst (extend n (op n (a.toNat % 2 ^ n)))

/-- An immediate instruction: b is IMM29 sign-extended (R343). -/
def Env.aluImm (e : Env) (f : IFmt) (op : Nat → Nat → Nat → Int) : Except Stop State := do
  let a ← e.srcS f.sa
  let n := widthOf e.h
  e.retS 1 f.dst (extend n (op n (a.toNat % 2 ^ n) (ofI n f.imm.toInt)))

/-- a + b, saturating on signed operands where `s` (R341). -/
def opAdd (s : Bool) (n a b : Nat) : Int :=
  if s then (sat (rangeOf true n).1 (rangeOf true n).2 (toS n a + toS n b)).1 else (a : Int) + b
/-- a − b, saturating on signed operands where `s` (R341). -/
def opSub (s : Bool) (n a b : Nat) : Int :=
  if s then (sat (rangeOf true n).1 (rangeOf true n).2 (toS n a - toS n b)).1 else (a : Int) - b
/-- The product. -/
def opMul (_ a b : Nat) : Int := (a : Int) * b
/-- Bits [127:64] of the signed product. -/
def opMulh (_ a b : Nat) : Int := (toS 64 a * toS 64 b) / (2 ^ 64 : Nat)
/-- Bits [127:64] of the unsigned product. -/
def opMulhu (_ a b : Nat) : Int := (a * b / 2 ^ 64 : Nat)
/-- Signed quotient, truncated toward zero (R342). -/
def opDiv (n a b : Nat) : Int := if b = 0 then (2 ^ n : Nat) - 1 else (toS n a).tdiv (toS n b)
/-- Unsigned quotient (R342). -/
def opDivu (n a b : Nat) : Int := if b = 0 then (2 ^ n : Nat) - 1 else (a / b : Nat)
/-- Signed remainder (R342). -/
def opRem (n a b : Nat) : Int := if b = 0 then a else (toS n a).tmod (toS n b)
/-- Unsigned remainder (R342). -/
def opRemu (_ a b : Nat) : Int := if b = 0 then a else (a % b : Nat)
/-- Bitwise operations (R341). -/
def opAnd (_ a b : Nat) : Int := (a &&& b : Nat)
@[inherit_doc opAnd] def opOr (_ a b : Nat) : Int := (a ||| b : Nat)
@[inherit_doc opAnd] def opXor (_ a b : Nat) : Int := (a ^^^ b : Nat)
@[inherit_doc opAnd] def opAndn (n a b : Nat) : Int := (a &&& (2 ^ n - 1 - b) : Nat)
/-- Shifts and the rotation by b modulo the width (R341). -/
def opShl (n a b : Nat) : Int := (a * 2 ^ (b % n) : Nat)
@[inherit_doc opShl] def opShr (n a b : Nat) : Int := (a / 2 ^ (b % n) : Nat)
@[inherit_doc opShl] def opSra (n a b : Nat) : Int := toS n a / (2 ^ (b % n) : Nat)
@[inherit_doc opShl] def opRol (n a b : Nat) : Int := (a * 2 ^ (b % n) + a / 2 ^ (n - b % n) : Nat)
/-- Minima and maxima (R341). -/
def opMin (n a b : Nat) : Int := min (toS n a) (toS n b)
@[inherit_doc opMin] def opMax (n a b : Nat) : Int := max (toS n a) (toS n b)
@[inherit_doc opMin] def opMinu (_ a b : Nat) : Int := (min a b : Nat)
@[inherit_doc opMin] def opMaxu (_ a b : Nat) : Int := (max a b : Nat)
/-- Bit counts (R341). -/
def opClz (n a : Nat) : Int := (leadZeros n a : Nat)
@[inherit_doc opClz] def opCtz (n a : Nat) : Int := (trailZeros n a : Nat)
@[inherit_doc opClz] def opPopc (n a : Nat) : Int := (popCount n a : Nat)

/-- The saturating variants of ADD and SUB (R341). -/
def satOf (h : Hd) : Bool := h.fmt.getLsbD 1

def execNop (k : Slot) (s : State) : Out := runSlot .nop k 0 (hdOf 0) s (fun e => pure e.s)

def execAdd (h : Hd) (f : RFmt) (s : State) : Out := runR .add .sc h f s (fun e => e.alu2 f 1 (opAdd (satOf h)))
def execSub (h : Hd) (f : RFmt) (s : State) : Out := runR .sub .sc h f s (fun e => e.alu2 f 1 (opSub (satOf h)))
def execMul (h : Hd) (f : RFmt) (s : State) : Out := runR .mul .sc h f s (fun e => e.alu2 f 3 opMul)
def execMulh (h : Hd) (f : RFmt) (s : State) : Out := runR .mulh .sc h f s (fun e => e.alu2 f 3 opMulh)
def execMulhu (h : Hd) (f : RFmt) (s : State) : Out := runR .mulhu .sc h f s (fun e => e.alu2 f 3 opMulhu)

/-- Division: a zero divisor takes DIV_ZERO where ARITHX.TDIV is 1 (R296, R342). -/
def Env.divide (e : Env) (f : RFmt) (op : Nat → Nat → Nat → Int) : Except Stop State := do
  let b ← e.srcS f.sb
  trapIf (b.toNat % 2 ^ widthOf e.h = 0 && e.x.sr.arithx.getLsbD 0) .divZero (f.dst.toNat * 2 ^ 8)
  e.alu2 f 18 op

def execDiv (h : Hd) (f : RFmt) (s : State) : Out := runR .div .sc h f s (fun e => e.divide f opDiv)
def execDivu (h : Hd) (f : RFmt) (s : State) : Out := runR .divu .sc h f s (fun e => e.divide f opDivu)
def execRem (h : Hd) (f : RFmt) (s : State) : Out := runR .rem .sc h f s (fun e => e.divide f opRem)
def execRemu (h : Hd) (f : RFmt) (s : State) : Out := runR .remu .sc h f s (fun e => e.divide f opRemu)

def execAnd (h : Hd) (f : RFmt) (s : State) : Out := runR .and .sc h f s (fun e => e.alu2 f 1 opAnd)
def execOr (h : Hd) (f : RFmt) (s : State) : Out := runR .or .sc h f s (fun e => e.alu2 f 1 opOr)
def execXor (h : Hd) (f : RFmt) (s : State) : Out := runR .xor .sc h f s (fun e => e.alu2 f 1 opXor)
def execAndn (h : Hd) (f : RFmt) (s : State) : Out := runR .andn .sc h f s (fun e => e.alu2 f 1 opAndn)
def execShl (h : Hd) (f : RFmt) (s : State) : Out := runR .shl .sc h f s (fun e => e.alu2 f 1 opShl)
def execShr (h : Hd) (f : RFmt) (s : State) : Out := runR .shr .sc h f s (fun e => e.alu2 f 1 opShr)
def execSra (h : Hd) (f : RFmt) (s : State) : Out := runR .sra .sc h f s (fun e => e.alu2 f 1 opSra)
def execRol (h : Hd) (f : RFmt) (s : State) : Out := runR .rol .sc h f s (fun e => e.alu2 f 1 opRol)
def execMin (h : Hd) (f : RFmt) (s : State) : Out := runR .min .sc h f s (fun e => e.alu2 f 1 opMin)
def execMax (h : Hd) (f : RFmt) (s : State) : Out := runR .max .sc h f s (fun e => e.alu2 f 1 opMax)
def execMinu (h : Hd) (f : RFmt) (s : State) : Out := runR .minu .sc h f s (fun e => e.alu2 f 1 opMinu)
def execMaxu (h : Hd) (f : RFmt) (s : State) : Out := runR .maxu .sc h f s (fun e => e.alu2 f 1 opMaxu)
def execClz (h : Hd) (f : RFmt) (s : State) : Out := runR .clz .sc h f s (fun e => e.alu1 f opClz)
def execCtz (h : Hd) (f : RFmt) (s : State) : Out := runR .ctz .sc h f s (fun e => e.alu1 f opCtz)
def execPopc (h : Hd) (f : RFmt) (s : State) : Out := runR .popc .sc h f s (fun e => e.alu1 f opPopc)

/-- k of SEXT and ZEXT: IMM11[5:0] + 1 (R341). -/
def extBits (f : RFmt) : Nat := f.imm.toNat % 64 + 1

def execSext (h : Hd) (f : RFmt) (s : State) : Out := runR .sext .sc h f s (fun e => do
  let a ← e.srcS f.sa
  e.retS 1 f.dst (word (toS (extBits f) a.toNat)))
def execZext (h : Hd) (f : RFmt) (s : State) : Out := runR .zext .sc h f s (fun e => do
  let a ← e.srcS f.sa
  e.retS 1 f.dst (BitVec.ofNat 64 (a.toNat % 2 ^ extBits f)))
def execSel (h : Hd) (f : RFmt) (s : State) : Out := runR .sel .sc h f s (fun e => do
  let a ← e.srcS f.sa
  let b ← e.srcS f.sb
  e.retS 1 f.dst (if e.srcP f.sc then a else b))

/-- The condition of a compare on `n` bits, by FMT[2:0] (R345). -/
def condOf (c n a b : Nat) : Bool :=
  match c with
  | 0 => a = b
  | 1 => a ≠ b
  | 2 => toS n a < toS n b
  | 3 => toS n b ≤ toS n a
  | 4 => a < b
  | _ => b ≤ a

/-- A compare: FMT[3] selects 32 bits (R345). -/
def Env.compare (e : Env) (d : BitVec 9) (a b : Word) : Except Stop State :=
  let n := if e.h.fmt.getLsbD 3 then 32 else 64
  e.retP 1 d (condOf (e.h.fmt.toNat % 8) n (a.toNat % 2 ^ n) (b.toNat % 2 ^ n))

def execCmp (h : Hd) (f : RFmt) (s : State) : Out := runR .cmp .sc h f s (fun e => do
  let a ← e.srcS f.sa
  let b ← e.srcS f.sb
  e.compare f.dst a b)
def execCmpi (h : Hd) (f : IFmt) (s : State) : Out := runI .cmpi .sc h f s (fun e => do
  let a ← e.srcS f.sa
  e.compare f.dst a (word f.imm.toInt))
def execAddi (h : Hd) (f : IFmt) (s : State) : Out := runI .addi .sc h f s (fun e => e.aluImm f (opAdd false))
def execAndi (h : Hd) (f : IFmt) (s : State) : Out := runI .andi .sc h f s (fun e => e.aluImm f opAnd)
def execOri (h : Hd) (f : IFmt) (s : State) : Out := runI .ori .sc h f s (fun e => e.aluImm f opOr)
def execXori (h : Hd) (f : IFmt) (s : State) : Out := runI .xori .sc h f s (fun e => e.aluImm f opXor)

/-- A shift by IMM29[5:0] (R343). -/
def Env.shiftImm (e : Env) (f : IFmt) (op : Nat → Nat → Nat → Int) : Except Stop State := do
  let a ← e.srcS f.sa
  let n := widthOf e.h
  e.retS 1 f.dst (extend n (op n (a.toNat % 2 ^ n) (f.imm.toNat % 64)))

def execShli (h : Hd) (f : IFmt) (s : State) : Out := runI .shli .sc h f s (fun e => e.shiftImm f opShl)
def execShri (h : Hd) (f : IFmt) (s : State) : Out := runI .shri .sc h f s (fun e => e.shiftImm f opShr)
def execSrai (h : Hd) (f : IFmt) (s : State) : Out := runI .srai .sc h f s (fun e => e.shiftImm f opSra)

def execLi (h : Hd) (f : LFmt) (s : State) : Out := runL .li .sc h f s (fun e =>
  e.retS 1 f.dst (f.imm.signExtend 64))
def execLih (h : Hd) (f : LFmt) (s : State) : Out := runL .lih .sc h f s (fun e => do
  let d ← e.srcS f.dst
  e.retS 1 f.dst (f.imm.extractLsb' 0 26 ++ d.extractLsb' 0 38))

def execPlog (h : Hd) (f : RFmt) (s : State) : Out := runR .plog .sc h f s (fun e =>
  let i := (if e.srcP f.sa then 2 else 0) + (if e.srcP f.sb then 1 else 0)
  e.retP 1 f.dst (f.imm.getLsbD i))

end Sys2Proof.Machine
end

