-- ==== Sys2Proof/Machine/ScalarFp.lean ====
section
/-!
DEFINITION. Scalar floating point of the SC slot (R347, R348).
-/

namespace Sys2Proof.Machine

/-- The rounding mode that a variant or modifier code names: 0 the dynamic mode, 1 to 4 the modes of
R221 (R224, R347). -/
def Env.mode (e : Env) (code : Nat) : Nat := if code = 0 then fld e.x.sr.fpcsr 17 2 else code - 1

/-- An FP32 operand: bits [31:0] of an s register (R347). -/
def Env.srcF (e : Env) (f : BitVec 9) : Except Stop Nat := (e.srcS f).map (fun w => w.toNat % 2 ^ 32)

/-- A scalar FP result, zero-extended, with its flags (R347). -/
def Env.retF (e : Env) (d : BitVec 9) (r : Nat × Fl) : Except Stop State := e.retS 4 d (BitVec.ofNat 64 r.1) r.2

/-- A rounding instruction of two FP32 operands. -/
def Env.fp2 (e : Env) (f : RFmt) (op : Nat → FV → FV → Nat × Fl) : Except Stop State := do
  let a ← e.srcF f.sa
  let b ← e.srcF f.sb
  e.retF f.dst (op (e.mode e.h.fmt.toNat) (unpack fp32 a) (unpack fp32 b))

/-- a − b, rounded. -/
def fSub (f : FFmt) (mode : Nat) (a b : FV) : Nat × Fl := fAdd f mode a b.neg

def execFadd (h : Hd) (f : RFmt) (s : State) : Out := runR .fadd .sc h f s (fun e => e.fp2 f (fAdd fp32))
def execFsub (h : Hd) (f : RFmt) (s : State) : Out := runR .fsub .sc h f s (fun e => e.fp2 f (fSub fp32))
def execFmul (h : Hd) (f : RFmt) (s : State) : Out := runR .fmul .sc h f s (fun e => e.fp2 f (fMul fp32))
def execFdiv (h : Hd) (f : RFmt) (s : State) : Out := runR .fdiv .sc h f s (fun e => e.fp2 f (fDiv fp32))
def execFma (h : Hd) (f : RFmt) (s : State) : Out := runR .fma .sc h f s (fun e => do
  let a ← e.srcF f.sa
  let b ← e.srcF f.sb
  let c ← e.srcF f.sc
  e.retF f.dst (fMulAdd fp32 (e.mode e.h.fmt.toNat) false false (unpack fp32 a) (unpack fp32 b) (unpack fp32 c)))
def execFsqrt (h : Hd) (f : RFmt) (s : State) : Out := runR .fsqrt .sc h f s (fun e => do
  let a ← e.srcF f.sa
  e.retF f.dst (fSqrt fp32 (e.mode e.h.fmt.toNat) (unpack fp32 a)))

/-- Minimum and maximum (R220). -/
def Env.fpMinMax (e : Env) (f : RFmt) (isMax : Bool) : Except Stop State := do
  let a ← e.srcF f.sa
  let b ← e.srcF f.sb
  e.retF f.dst (fMinMax fp32 isMax a b)

def execFmin (h : Hd) (f : RFmt) (s : State) : Out := runR .fmin .sc h f s (fun e => e.fpMinMax f false)
def execFmax (h : Hd) (f : RFmt) (s : State) : Out := runR .fmax .sc h f s (fun e => e.fpMinMax f true)
def execFcmp (h : Hd) (f : RFmt) (s : State) : Out := runR .fcmp .sc h f s (fun e => do
  let a ← e.srcF f.sa
  let b ← e.srcF f.sb
  let (r, fl) := fCompare e.h.fmt.toNat (unpack fp32 a) (unpack fp32 b)
  e.retP 4 f.dst r fl)

/-- FCVT: the result of a conversion variant (R233, R234, R348). -/
def fcvt (fmt mode : Nat) (sat : Bool) (a : Word) : Word × Fl :=
  let n := a.toNat
  let toInt (w : Nat) : Word × Fl := let (i, fl) := toIntFmt true w mode (unpack fp32 (n % 2 ^ 32)); (word i, fl)
  let toFp (g : FFmt) (v : FV) : Word × Fl :=
    let (b, fl) := roundTo g mode sat v
    (BitVec.ofNat 64 b, fl ||| sigFlag [v])
  match fmt with
  | 0 => toInt 32
  | 1 => toInt 64
  | 2 => toFp fp32 (FV.ofInt false (toS 32 n) 0)
  | 3 => toFp fp32 (FV.ofInt false (toS 64 n) 0)
  | 4 => toFp fp16 (unpack fp32 (n % 2 ^ 32))
  | 5 => toFp bf16 (unpack fp32 (n % 2 ^ 32))
  | 6 => toFp fp32 (unpack fp16 (n % 2 ^ 16))
  | 7 => toFp fp32 (unpack bf16 (n % 2 ^ 16))
  | 8 => toFp e4m3 (unpack fp32 (n % 2 ^ 32))
  | 9 => toFp e5m2 (unpack fp32 (n % 2 ^ 32))
  | 10 => toFp fp32 (unpack e4m3 (n % 2 ^ 8))
  | _ => toFp fp32 (unpack e5m2 (n % 2 ^ 8))

def execFcvt (h : Hd) (f : RFmt) (s : State) : Out := runR .fcvt .sc h f s (fun e => do
  let a ← e.srcS f.sa
  let (r, fl) := fcvt e.h.fmt.toNat (e.mode (f.imm.toNat % 8)) (f.imm.getLsbD 3) a
  e.retS 4 f.dst r fl)
def execFsgn (h : Hd) (f : RFmt) (s : State) : Out := runR .fsgn .sc h f s (fun e => do
  let a ← e.srcF f.sa
  let b ← e.srcF f.sb
  let g := match e.h.fmt.toNat with
    | 0 => b.testBit 31
    | 1 => !b.testBit 31
    | _ => a.testBit 31 != b.testBit 31
  e.retS 4 f.dst (BitVec.ofNat 64 (a % 2 ^ 31 + (if g then 2 ^ 31 else 0))))
def execFcls (h : Hd) (f : RFmt) (s : State) : Out := runR .fcls .sc h f s (fun e => do
  let a ← e.srcF f.sa
  e.retS 4 f.dst (BitVec.ofNat 64 (2 ^ fClass fp32 a)))

end Sys2Proof.Machine
end

