-- ==== Sys2Proof/Machine/Typing.lean ====
section
/-!
DEFINITION. Unification of tile types (R210 to R214), and the storage checks of a tile that is read
or written (R207 to R209).
-/

namespace Sys2Proof.Machine

/-- A SHAPE_FAULT with its record (R214). -/
def shapeFault (slot field opnd : Nat) (amb : Bool) (expected found : Nat) : Stop :=
  .trap .shapeFault (BitVec.ofNat 64 (min found 0xFFFFFF * 2 ^ 36 + min expected 0xFFFFFF * 2 ^ 12 +
    (if amb then 2 ^ 11 else 0) + opnd * 2 ^ 8 + slot * 2 ^ 4 + field))

/-- A cell of a typing rule: any code, one of a set (a literal is a set of one), or a symbol that may
be limited to a set. -/
inductive Cell where
  | any
  | oneOf (l : List Nat)
  | sym (c : Nat)
  deriving DecidableEq, Repr

/-- An extent cell: a literal, a symbol, or unconstrained. -/
inductive ECell where
  | lit (n : Nat)
  | sym (c : Nat)
  | any
  deriving DecidableEq, Repr

/-- A row of a typing rule for an operand with its type word. -/
structure TRow where
  opnd : Nat
  tw : Quad
  rank : Cell
  fmt : Cell
  lay : Cell
  scale : Cell
  exts : List ECell
  deriving DecidableEq, Repr

/-- What unification has found: field symbols, extent symbols, and the bindings it pends. -/
structure Uni where
  fields : List (Nat × Nat)
  exts : List (Nat × Nat)
  pend : List (Nat × Nat)
  deriving DecidableEq, Repr

/-- A field of an operand against its cell. -/
def Env.uniField (e : Env) (r : TRow) (field v : Nat) (c : Cell) (u : Uni) : Except Stop Uni :=
  match c with
  | .any => .ok u
  | .oneOf l => if l.contains v then .ok u
    else .error (shapeFault e.slot.num field r.opnd false (l.foldl min (l.headD 0)) v)
  | .sym k =>
    match assoc u.fields (4 * k + field) with
    | some w => if w = v then .ok u else .error (shapeFault e.slot.num field r.opnd false w v)
    | none => .ok { u with fields := (4 * k + field, v) :: u.fields }

/-- An extent of an operand against its cell (R211). -/
def Env.uniExt (e : Env) (r : TRow) (i n : Nat) (c : ECell) (u : Uni) : Except Stop Uni :=
  let x := e.resolve u.pend n
  let meet (w : Nat) (k : Option Nat) : Except Stop Uni :=
    let set (v : Nat) (u : Uni) : Uni := match k with
      | some k => { u with exts := (k, v) :: u.exts }
      | none => u
    if isVar w && isVar x then
      if w = x then .ok u else .error (shapeFault e.slot.num (4 + i) r.opnd true w x)
    else if isVar w then .ok (set x { u with pend := (w % 16, x) :: u.pend })
    else if isVar x then .ok (set w { u with pend := (x % 16, w) :: u.pend })
    else if w = x then .ok u else .error (shapeFault e.slot.num (4 + i) r.opnd false w x)
  match c with
  | .any => .ok u
  | .lit w => meet w none
  | .sym k =>
    match assoc u.exts k with
    | some w => meet (e.resolve u.pend w) (some k)
    | none => .ok { u with exts := (k, x) :: u.exts }

/-- The extents of an operand, in order. -/
def Env.uniExts (e : Env) (r : TRow) : Nat → List Nat → List ECell → Uni → Except Stop Uni
  | i, n :: ns, c :: cs, u => do
    let u ← e.uniExt r i n c u
    Env.uniExts e r (i + 1) ns cs u
  | _, _, _, u => .ok u

/-- One operand of a typing rule. -/
def Env.uniRow (e : Env) (r : TRow) (u : Uni) : Except Stop Uni := do
  let u ← e.uniField r 0 (twRank r.tw) r.rank u
  let u ← e.uniField r 1 (twFmt r.tw) r.fmt u
  let u ← e.uniField r 2 (twLay r.tw) r.lay u
  let u ← e.uniField r 3 (twScale r.tw) r.scale u
  e.uniExts r 0 (twExts r.tw) r.exts u

/-- The rows of a typing rule in turn. -/
def Env.uniRows (e : Env) : List TRow → Uni → Except Stop Uni
  | [], u => .ok u
  | r :: rs, u => do
    let u ← e.uniRow r u
    Env.uniRows e rs u

/-- Malformed operands fault before any field is compared (R211). -/
def Env.uniForm (e : Env) (rs : List TRow) : Except Stop Unit :=
  match rs.findSome? (fun r => (twBad r.tw).map (fun b => (r.opnd, b))) with
  | some (o, b) => .error (shapeFault e.slot.num 9 o false 0 b)
  | none => .ok ()

/-- Nothing unified yet. -/
def Uni.empty : Uni := ⟨[], [], []⟩

/-- A slot that is only asked which variables it binds answers with them (R212, R314). -/
def Env.answer (e : Env) (u : Uni) : Except Stop Unit := stopIf (e.s.iss.ask = .binds) (.bound u.pend)

/-- Unification of the operands of a slot by some of its rows, or before its extents are all known (R211). It waits for
typed loads that may still bind a variable it reads (R413). -/
def Env.unifyPart (e : Env) (rs : List TRow) : Except Stop Uni := do
  e.blockIf (e.dimPending (rs.flatMap (fun r => twVars r.tw))) 1
  e.uniForm rs
  e.uniRows rs Uni.empty

/-- Unification of the operands of a slot (R211). -/
def Env.unify (e : Env) (rs : List TRow) : Except Stop Uni := do
  let u ← e.unifyPart rs
  e.answer u
  pure u

/-- A slot that is only asked which variables it binds unifies before its other checks (R314). -/
def Env.asked (e : Env) (u : Except Stop Uni) : Except Stop Unit :=
  if e.s.iss.ask = .binds then u.map (fun _ => ()) else .ok ()

/-- Every extent of the operands must be a constant once unified (R213). -/
def Env.constant (e : Env) (rs : List (Nat × Quad)) (u : Uni) : Except Stop Unit :=
  match rs.findSome? (fun (o, t) => ((twExts t).zipIdx.find? (fun (n, _) => isVar (e.resolve u.pend n))).map
      (fun (n, i) => (o, i, e.resolve u.pend n))) with
  | some (o, i, v) => .error (shapeFault e.slot.num (4 + i) o false 0 v)
  | none => .ok ()

/-- A type word with its extents resolved. -/
def Env.resolved (e : Env) (u : Uni) (t : Quad) : Quad := twWith t ((twExts t).map (e.resolve u.pend))

/-- Pend the bindings of a slot: they land at latency 1 (R212). -/
def Env.bind (e : Env) (u : Uni) (s : State) : State :=
  let s := { s with iss := { s.iss with binds := s.iss.binds ++ u.pend } }
  u.pend.foldl (fun s p => s.fly e.ci e.k
    { e.result 1 0 false (.reg .d p.1 (BitVec.ofNat 1024 (2 ^ 23 + p.2)) allBytes) 0 with w := true, latch := false }) s

/-- What a tile is used for: a source or a destination, and by an engine command or an access. -/
inductive TileUse where
  | jobSrc | jobDst | load | store
  deriving DecidableEq, Repr

/-- The rights a window needs for a use (R388, R413). -/
def TileUse.rights : TileUse → BitVec 8
  | .jobSrc => rR ||| rT ||| rE
  | .jobDst => rW ||| rT ||| rE
  | .load => rR ||| rT
  | .store => rW ||| rT
/-- The access code of a use (R98). -/
def TileUse.acc : TileUse → Nat
  | .jobSrc | .jobDst => 3
  | .load => 0
  | .store => 1
/-- Whether a use writes. -/
def TileUse.writes : TileUse → Bool
  | .jobDst | .store => true
  | _ => false

/-- The checks of a window once its object's entry is known, in the order of R209: the object's
rights, the bounds over the image (for layout 5 over the capacity of R206), the window's TYPE. A tile
that has no image at the window's PITCH (R207) is compared with the TYPE first. (DEDUCED, log 45.) -/
def windowCheck (slot opnd areg : Nat) (use : TileUse) (c : Cap) (eo : Int) (t : Quad) (w : ObjEntry) :
    Except Stop Unit := do
  stopIf (use.writes && w.now) (.trap .capRights (capValue areg use.acc 2 eo))
  stopIf (!w.tw) (.trap .capRights (capValue areg use.acc 0x40 eo))
  let span := windowBytes t (twExts t) w.pitch
  stopIf (span.any (fun n => eo < 0 || c.len < eo + n || w.len < eo + n)) (.trap .capBounds (capValue areg use.acc 0 eo))
  stopIf (twFmt t ≠ twFmt w.type) (shapeFault slot 1 opnd false (twFmt w.type) (twFmt t))
  stopIf (twLay t ≠ twLay w.type) (shapeFault slot 2 opnd false (twLay w.type) (twLay t))
  stopIf (twScale t ≠ twScale w.type) (shapeFault slot 3 opnd false (twScale w.type) (twScale t))
  stopIf (span = none) (.trap .capBounds (capValue areg use.acc 0 eo))

/-- The storage of a tile for a use (R209): the operand a job carries, with its window's capability at
the tile's first byte. An offset above what 48 bits hold lies beyond every bound, and stays so in the job. -/
def Env.storage (e : Env) (opnd : Nat) (use : TileUse) (t : Quad) (d : Word) : Except Stop TileOp := do
  match dKind d with
  | 2 =>
    e.blockIf (e.srcPending (.a, dAreg d)) 1
    let c := e.x.aReg (dAreg d)
    let eo := c.off + dOffset d
    capCheck (dAreg d) use.acc c use.rights eo 0
    match e.s.object e.ci (e.s.spaceOf e.ci) c.obj with
    | some w => windowCheck e.slot.num opnd (dAreg d) use c eo t w
    | none => .ok ()
    pure ⟨t, d, c.withOff (min eo (2 ^ 47 - 1))⟩
  | 3 =>
    stopIf (twRank t ≠ 2) (shapeFault e.slot.num 0 opnd false 2 (twRank t))
    stopIf (twFmt t ≠ 1) (shapeFault e.slot.num 1 opnd false 1 (twFmt t))
    stopIf (twLay t ≠ 0) (shapeFault e.slot.num 2 opnd false 0 (twLay t))
    stopIf (dEntries d < prod (twExts t)) (shapeFault e.slot.num 8 opnd false (prod (twExts t)) (dEntries d))
    pure ⟨t, d, Cap.zero⟩
  | k =>
    let held := if k = 1 then dCount d else 0
    stopIf (held < imageRows t (twExts t)) (shapeFault e.slot.num 8 opnd false (imageRows t (twExts t)) held)
    e.blockIf (e.rowsPending ((List.range (imageRows t (twExts t))).map (e.x.dfbase + dRow d + ·))) 1
    pure ⟨t, d, Cap.zero⟩

/-- A tile that must lie in the deep file or a window; elsewhere it faults as one of COUNT 0
(R394). -/
def Env.dataTile (e : Env) (opnd : Nat) (use : TileUse) (t : Quad) (d : Word) : Except Stop TileOp :=
  if dKind d = 1 || dKind d = 2 then e.storage opnd use t d
  else .error (shapeFault e.slot.num 8 opnd false (imageRows t (twExts t)) 0)

/-- A tile that must lie in ACM (R394, R398). -/
def Env.acmTile (e : Env) (opnd : Nat) (t : Quad) (d : Word) : Except Stop TileOp :=
  if dKind d = 3 then e.storage opnd .jobDst t d
  else do
    stopIf (twRank t ≠ 2) (shapeFault e.slot.num 0 opnd false 2 (twRank t))
    stopIf (twFmt t ≠ 1) (shapeFault e.slot.num 1 opnd false 1 (twFmt t))
    stopIf (twLay t ≠ 0) (shapeFault e.slot.num 2 opnd false 0 (twLay t))
    .error (shapeFault e.slot.num 8 opnd false (prod (twExts t)) 0)

/-- The absolute deep-file rows of a tile's image. -/
def Env.tileRows (e : Env) (t : TileOp) : List Nat :=
  if dKind t.desc = 1 then (List.range (imageRows t.tw (twExts t.tw))).map (fun i => e.x.dfbase + dRow t.desc + i)
  else []

/-- The region a tile's image takes (R216, R278): deep-file rows, ACM entries, or the window's bytes; where the
window's entry is not valid its PITCH is not known, and the region is what the capability spans. (DEDUCED, log 60.) -/
def Env.tileRegion (e : Env) (t : TileOp) : List Region :=
  let n := imageRows t.tw (twExts t.tw)
  match dKind t.desc with
  | 1 => [.rows (e.x.dfbase + dRow t.desc) (e.x.dfbase + dRow t.desc + n)]
  | 3 => [.acm (dBase t.desc) (dBase t.desc + prod (twExts t.tw))]
  | 2 =>
    match e.s.object e.ci (e.s.spaceOf e.ci) t.cap.obj with
    | some w =>
      let lo := w.base + t.cap.off.toNat
      [.mem lo (lo + (windowBytes t.tw (twExts t.tw) w.pitch).getD 0)]
    | none => [.obj t.cap.obj t.cap.off.toNat t.cap.len]
  | _ => []

end Sys2Proof.Machine
end

