-- ==== Sys2Proof/Machine/Tile.lean ====
section
/-!
DEFINITION. Tile registers: building, reading, checking and rearranging them (R382 to R391), and how
a slot hands a job to an engine (R216, R278, R382).
-/

namespace Sys2Proof.Machine

/-- A tile result: it lands at latency 1 and enters the latch as its type word (R382). -/
def Env.retT (e : Env) (s : State) (d : BitVec 9) (tw : Quad) (desc : Word) : State :=
  s.fly e.ci e.k (e.result 1 (tw.setWidth 1024) false (.tile d.toNat ⟨tw, desc⟩) 0)

/-- FIELD 9 on the destination (R384). -/
def Env.badTile (e : Env) (opnd bit : Nat) : Stop := shapeFault e.slot.num 9 opnd false 0 bit

/-- Stop on a malformed type word written to the destination (R384). -/
def Env.wellFormed (e : Env) (tw : Quad) : Except Stop Unit :=
  match twBad tw with
  | some b => .error (e.badTile 4 b)
  | none => .ok ()

/-- Stop on a malformed descriptor or one that leaves its store (R209, R384). -/
def Env.descFormed (e : Env) (d : Word) : Except Stop Unit :=
  match descBad d, descLeaves d e.x.dflen with
  | some b, _ => .error (e.badTile 4 (128 + b))
  | none, some (x, f) => .error (shapeFault e.slot.num 8 4 false x f)
  | none, none => .ok ()

def execTset (h : Hd) (f : RFmt) (s : State) : Out := runR .tset .mt h f s (fun e => do
  let a ← e.srcS f.sa
  let b ← e.srcS f.sb
  e.wellFormed (b ++ a)
  pure (e.retT e.s f.dst (b ++ a) (e.srcT f.dst).desc))
def execTcpy (h : Hd) (f : RFmt) (s : State) : Out := runR .tcpy .mt h f s (fun e =>
  pure (e.retT e.s f.dst (e.srcT f.sa).tw (e.srcT f.sa).desc))
def execTgetl (h : Hd) (f : RFmt) (s : State) : Out := runR .tgetl .mt h f s (fun e =>
  e.retS 1 f.dst ((e.srcT f.sa).tw.extractLsb' 0 64))
def execTgeth (h : Hd) (f : RFmt) (s : State) : Out := runR .tgeth .mt h f s (fun e =>
  e.retS 1 f.dst ((e.srcT f.sa).tw.extractLsb' 64 64))
def execTsto (h : Hd) (f : RFmt) (s : State) : Out := runR .tsto .mt h f s (fun e => do
  let a ← e.srcS f.sa
  e.descFormed a
  pure (e.retT e.s f.dst (e.srcT f.dst).tw a))
def execTstoi (h : Hd) (f : IFmt) (s : State) : Out := runI .tstoi .mt h f s (fun e => do
  let d := mkDeep (f.imm.toNat % 2 ^ 11) (bits f.imm.toNat 11 12)
  e.descFormed d
  pure (e.retT e.s f.dst (e.srcT f.dst).tw d))
def execTgets (h : Hd) (f : RFmt) (s : State) : Out := runR .tgets .mt h f s (fun e =>
  e.retS 1 f.dst (e.srcT f.sa).desc)
def execTclr (h : Hd) (f : RFmt) (s : State) : Out := runR .tclr .mt h f s (fun e =>
  pure (e.retT e.s f.dst 0 0))

/-- A type word with extent i replaced. -/
def twSetExt (t : Quad) (i n : Nat) : Quad :=
  (t &&& ~~~((0xFFFFFF : Quad) <<< (16 + 24 * i))) ||| (BitVec.ofNat 128 (n % 2 ^ 24) <<< (16 + 24 * i))

/-- TSEXT and TSEXTI (R384). -/
def Env.setExt (e : Env) (d sa : BitVec 9) (i n : Nat) : Except Stop State := do
  let a := e.srcT sa
  stopIf (twRank a.tw ≤ i) (e.badTile 4 (16 + 24 * i))
  let t := twSetExt a.tw i n
  e.wellFormed t
  pure (e.retT e.s d t a.desc)

def execTsext (h : Hd) (f : RFmt) (s : State) : Out := runR .tsext .mt h f s (fun e => do
  let b ← e.srcS f.sb
  e.setExt f.dst f.sa (f.imm.toNat % 4) (b.toNat % 2 ^ 24))
def execTsexti (h : Hd) (f : IFmt) (s : State) : Out := runI .tsexti .mt h f s (fun e =>
  e.setExt f.dst f.sa (bits f.imm.toNat 24 2) (f.imm.toNat % 2 ^ 24))

/-- The element count of resolved extents; 0 where one is unbound or there is none (R385). -/
def countOf (d : List Nat) : Nat := if d = [] || d.any isVar then 0 else prod d

/-- What TINFO reads, by sel (R385). -/
def tinfo (sel : Nat) (t : Quad) (d : List Nat) : Nat :=
  let rows := if countOf d = 0 then 0 else imageRows t d
  match sel with
  | 0 => twRank t
  | 1 => twFmt t
  | 2 => twLay t
  | 3 => twScale t
  | 4 => countOf d
  | 5 => rows
  | 6 => if twLay t = 5 && countOf d ≠ 0 then zbCapacity t d else rows * 128
  | _ => digits 1 (d.map (fun n => if isVar n then 1 else 0))

def execText (h : Hd) (f : RFmt) (s : State) : Out := runR .text .mt h f s (fun e => do
  let t := (e.srcT f.sa).tw
  e.blockIf (e.dimPending (twVars t)) 1
  let n := (e.extents t).getD (f.imm.toNat % 4) 0
  e.retS 1 f.dst (BitVec.ofNat 64 (if isVar n then 0 else n)))
def execTinfo (h : Hd) (f : RFmt) (s : State) : Out := runR .tinfo .mt h f s (fun e => do
  let t := (e.srcT f.sa).tw
  e.blockIf (e.dimPending (twVars t)) 1
  e.retS 1 f.dst (BitVec.ofNat 64 (tinfo (f.imm.toNat % 16) t (e.extents t))))

/-- The extent symbols of a rule whose operands share all extents. -/
def sharedExts : List ECell := [.sym 0, .sym 1, .sym 2, .sym 3]

/-- An empty operand where a rule takes none (R386, R388). -/
def Env.nonEmpty (e : Env) (opnd : Nat) (t : Quad) : Except Stop Unit :=
  stopIf (twRank t = 0) (shapeFault e.slot.num 0 opnd false 1 0)

def execTchk (h : Hd) (f : RFmt) (s : State) : Out := runR .tchk .mt h f s (fun e => do
  let c : Cell := if f.imm.getLsbD 0 then .any else .sym 0
  let row (o : Nat) (t : Quad) : TRow := ⟨o, t, .sym 0, c, c, c, sharedExts⟩
  let a := (e.srcT f.sa).tw
  let b := (e.srcT f.sb).tw
  e.uniForm [row 0 a, row 1 b]
  e.nonEmpty 0 a
  e.nonEmpty 1 b
  let u ← e.unify [row 0 a, row 1 b]
  pure (e.bind u e.s))
def execTbind (h : Hd) (f : RFmt) (s : State) : Out := runR .tbind .mt h f s (fun e => do
  let c ← e.srcS f.sc
  match descBad (mkWindow 0 0 ||| (c &&& 0xFFFFFFFFFFFF)), lowBit 16 (fld c 48 16) with
  | some b, _ => .error (e.badTile 2 (128 + b))
  | none, some b => .error (e.badTile 2 (128 + 48 + b))
  | none, none => pure (e.retT e.s f.dst (e.srcT f.sa).tw (mkWindow f.sb.toNat (c.toNat % 2 ^ 48))))

/-- FV and FLAG of the ENG field (R382). -/
def engFlag (imm : BitVec 11) : Option (BitVec 5) := if imm.getLsbD 5 then some (imm.extractLsb' 0 5) else none

/-- A job as a slot issues it (R278). -/
def Env.job (e : Env) (kind : JobKind) (flag : Option (BitVec 5)) (pend : Option Nat)
    (rd wr : List Region) : Job where
  id := e.s.ids
  bseq := e.x.seq
  core := e.ci
  ctx := e.k
  task := e.s.taskIdOf e.ci
  space := e.s.spaceOf e.ci
  kind := kind
  flag := flag
  pend := pend
  reads := rd
  writes := wr
  started := false
  pos := 0
  done := false
  status := 0
  detail := 0
  result := []
  pts := 0
  held := []

/-- Insert a port entry in program order (R272, R297). -/
def portInsert (p : PortEntry) : List PortEntry → List PortEntry
  | [] => [p]
  | q :: t => if q.bseq < p.bseq || (q.bseq = p.bseq && q.stage ≤ p.stage) then q :: portInsert p t else p :: q :: t

/-- Put an item into the context's port. -/
def State.intoPort (s : State) (ci k : Nat) (bseq stage : Nat) (item : PortItem) : State :=
  let (s, id) := s.newId
  s.modCtx ci k (fun x => { x with port := portInsert ⟨id, bseq, stage, item⟩ x.port })

/-- Issue an engine command (R297): it leaves the port behind the accesses before it. -/
def Env.issue (e : Env) (s : State) (j : Job) : State :=
  let (s, id) := s.newId
  s.intoPort e.ci e.k e.x.seq 4 (.cmd { j with id := id })

/-- The commands of a kind on their way to a core's engines from its ports. -/
def Core.coming (c : Core) (p : JobKind → Bool) : Nat :=
  ([0, 1, 2, 3].map (fun k => ((c.ctx k).portJobs.filter (fun j => p j.kind)).length)).foldl (· + ·) 0

/-- Whether the copy queue, or the matrix queue, is full (R240). -/
def Env.copyFull (e : Env) : Bool := 16 ≤ e.core.ce.length + e.core.coming JobKind.isCopy
@[inherit_doc Env.copyFull]
def Env.matrixFull (e : Env) : Bool := 4 ≤ e.core.me.length + e.core.coming JobKind.isMatrix

/-- The 128-byte rows of a window tile's image, by their first byte's DVA; none where the entry is not valid. -/
def Env.windowRows (e : Env) (t : TileOp) : List Nat :=
  match e.s.object e.ci (e.s.spaceOf e.ci) t.cap.obj with
  | some w => Machine.windowRows t.tw w.pitch (w.base + t.cap.off.toNat)
  | none => []

/-- The rows of image `b` that share a byte with image `a`: deep-file rows, or rows of a window (R217). Two ACM
tiles may share entries. -/
def Env.sharedRows (e : Env) (a b : TileOp) : Nat :=
  if dKind a.desc = 1 && dKind b.desc = 1 then
    let r := e.tileRows a
    ((e.tileRows b).filter r.contains).length
  else if dKind a.desc = 2 && dKind b.desc = 2 then sharedWindow (e.windowRows a) (e.windowRows b)
  else 0

/-- Issue a typed copy job from A to D and write the destination register (R216, R217, R388). -/
def Env.copyJob (e : Env) (u : Uni) (a : Option (Quad × Word)) (d : Quad × Word) (dst : BitVec 9)
    (flag : Option (BitVec 5)) (kind : TileOp → TileOp → JobKind) : Except Stop State := do
  e.blockIf e.copyFull 3
  e.constant ((a.map (fun a => (0, a.1))).toList ++ [(4, d.1)]) u
  let src ← match a with
    | some (t, w) => do let o ← e.storage 0 .jobSrc (e.resolved u t) w; pure (some o)
    | none => pure none
  let out ← e.storage 4 .jobDst (e.resolved u d.1) d.2
  let rd := (src.map e.tileRegion).getD []
  let wr := e.tileRegion out
  let shared := (src.map (fun o => e.sharedRows o out)).getD 0
  stopIf (shared ≠ 0) (shapeFault e.slot.num 8 4 false 0 shared)
  let s := e.retT (e.bind u e.s) dst (e.resolved u d.1) d.2
  pure (e.issue s (e.job (kind (src.getD out) out) flag none rd wr))

/-- Form of a source and a checked destination: an empty source faults before any check on the
destination (R211, R388). -/
def Env.formAD (e : Env) (a d : Quad) : Except Stop Unit := do
  match twBad a with
  | some b => .error (e.badTile 0 b)
  | none => .ok ()
  e.nonEmpty 0 a
  e.wellFormed d

/-- The row of a checked destination that may not be empty: an empty one faults at its rank, in the
order of R211, with EXPECTED 1 (R388). -/
def TRow.filled (r : TRow) : TRow := if twRank r.tw = 0 then { r with rank := .oneOf [1] } else r

/-- An engine-backed rearrangement takes no BX format and no external scale (R388). -/
def Env.plainScale (e : Env) (a d : Quad) : Except Stop Unit := do
  stopIf (twScale a ≠ 0) (shapeFault e.slot.num 3 0 false 0 (twScale a))
  stopIf (twScale d ≠ 0) (shapeFault e.slot.num 3 4 false 0 (twScale d))

/-- The variable extent that a reshape may bind: its axis and the bound value (R389). -/
def Env.reshapeBind (e : Env) (u : Uni) (count : Nat) (d : List Nat) : Except Stop Uni :=
  match (d.zipIdx).filter (fun p => isVar p.1) with
  | [] => .ok u
  | [(v, i)] =>
    let q := prod (dropAt d i)
    let x := count / q
    if count % q = 0 && 1 ≤ x && x ≤ 8388607 then .ok { u with pend := (v % 16, x) :: u.pend }
    else .error (shapeFault e.slot.num (4 + i) 4 false (if count % q = 0 then x else 0) v)
  | (v, i) :: _ => .error (shapeFault e.slot.num (4 + i) 4 false 0 v)

/-- A form that is not type-only meets a full copy queue before any fault, and a type-only form never does
(R178, R181, R215, R216). -/
def Env.copyWait (e : Env) (typeOnly : Bool) (r : Except Stop State) : Except Stop State :=
  orWait (e.blockIf (!typeOnly && e.copyFull) 3) r

/-- Whether a reshape rewrites only the type word (R215). -/
def reshapeOnly (a d : Quad) (da dd : List Nat) : Bool :=
  twFmt a = twFmt d && twLay a = twLay d && twScale a = twScale d && twLay a ≤ 1 &&
    (da.getD (runAxis a) 0 = dd.getD (runAxis d) 0 ||
      (runBytes a da % 128 = 0 && runBytes d dd % 128 = 0))

/-- TRSHP once the queue lets it (R389). -/
def Env.reshape (e : Env) (f : RFmt) : Except Stop State := do
  let a := e.srcT f.sa
  let d := e.srcT f.dst
  e.formAD a.tw d.tw
  let u ← e.unifyPart [⟨0, a.tw, .any, .sym 0, .any, .sym 0, []⟩, TRow.filled ⟨4, d.tw, .any, .sym 0, .any, .sym 0, []⟩]
  e.constant [(0, a.tw)] u
  let da := e.extents a.tw
  let u ← e.reshapeBind u (prod da) (e.extents d.tw)
  e.answer u
  let dd := (twExts d.tw).map (e.resolve u.pend)
  let last := twRank d.tw - 1
  let rest := prod (dd.take last)
  stopIf (prod da ≠ prod dd)
    (shapeFault e.slot.num (4 + last) 4 false (if prod da % rest = 0 then prod da / rest else 0) (dd.getD last 0))
  if reshapeOnly a.tw d.tw da dd then pure (e.retT (e.bind u e.s) f.dst (e.resolved u d.tw) a.desc)
  else do
    e.plainScale a.tw d.tw
    e.copyJob u (some (a.tw, a.desc)) (d.tw, d.desc) f.dst (engFlag f.imm) (.rearrange .reshape)

def execTrshp (h : Hd) (f : RFmt) (s : State) : Out := runR .trshp .mt h f s (fun e => e.copyWait false (e.reshape f))

/-- The partner layout of a transpose (R215). -/
def partner (l : Nat) : Nat := if l % 2 = 0 then l + 1 else l - 1
/-- SAXIS 1 and 2 exchanged. -/
def swapScale (sc : Nat) : Nat := if sc % 4 = 1 then sc + 1 else if sc % 4 = 2 then sc - 1 else sc
/-- The last two elements of a list exchanged. (DEDUCED, log 57.) -/
def swapLast {α : Type} (l : List α) : List α :=
  match l.reverse with
  | x :: y :: t => (y :: x :: t).reverse
  | _ => l

/-- Whether a transpose is type-only (R390). -/
def transposeOnly (a d : Quad) : Bool :=
  twRank d = 0 || (twRank a = 2 && twRank d = 2 && twLay a ≤ 3 && twLay d = partner (twLay a))

/-- TTRN once the queue lets it (R390). -/
def Env.transpose (e : Env) (f : RFmt) : Except Stop State := do
  let a := e.srcT f.sa
  let d := e.srcT f.dst
  let flat (t : Quad) (desc : Word) (u : Uni) : Except Stop State :=
    pure (e.retT (e.bind u e.s) f.dst (e.resolved u t) desc)
  if twRank d.tw = 0 then do
    e.uniForm [⟨0, a.tw, .any, .any, .any, .any, []⟩, ⟨4, d.tw, .any, .any, .any, .any, []⟩]
    let u ← e.unify [⟨0, a.tw, .oneOf [2], .any, .oneOf [0, 1, 2, 3], .any, []⟩]
    flat (mkTw 2 (twFmt a.tw) (partner (twLay a.tw)) (swapScale (twScale a.tw)) (swapLast (twExts a.tw))) a.desc u
  else do
    e.formAD a.tw d.tw
    let two := twRank a.tw = 2
    let cells := ([.sym 0, .sym 1, .sym 2, .sym 3] : List ECell).take (twRank a.tw)
    let u ← e.unify [
      ⟨0, a.tw, .any, .sym 0, .oneOf [0, 1, 2, 3, 4, 5], if 2 < twRank a.tw then .oneOf [0] else .any, cells⟩,
      ⟨4, d.tw, .oneOf [twRank a.tw], .sym 0, .oneOf [0, 1, 2, 3, 4, 5],
        if two then .oneOf [swapScale (twScale a.tw)] else .any, swapLast cells⟩]
    if transposeOnly a.tw d.tw then flat d.tw a.desc u
    else do
      e.plainScale a.tw d.tw
      e.copyJob u (some (a.tw, a.desc)) (d.tw, d.desc) f.dst (engFlag f.imm) (.rearrange .transpose)

def execTtrn (h : Hd) (f : RFmt) (s : State) : Out := runR .ttrn .mt h f s (fun e =>
  e.copyWait (transposeOnly (e.srcT f.sa).tw (e.srcT f.dst).tw) (e.transpose f))

/-- The formats that TCAST takes on one side, by the format of the other: VQ8 pairs with UINT8 alone
(R232, R388). (DEDUCED, log 58.) -/
def castCell (other : Nat) : Cell := if other = 14 then .oneOf [10, 14] else .any

/-- Whether a cast is type-only (R215). -/
def castOnly (a d : Quad) : Bool :=
  ((twFmt a = 10 && twFmt d = 14) || (twFmt a = 14 && twFmt d = 10)) && twLay a = twLay d

/-- TCAST once the queue lets it (R388). -/
def Env.cast (e : Env) (f : RFmt) : Except Stop State := do
  let a := e.srcT f.sa
  let d := e.srcT f.dst
  e.formAD a.tw d.tw
  let u ← e.unify [
    ⟨0, a.tw, .sym 0, castCell (twFmt d.tw), .any, .oneOf [0], sharedExts⟩,
    TRow.filled ⟨4, d.tw, .sym 0, castCell (twFmt a.tw), .any, .oneOf [0], sharedExts⟩]
  if castOnly a.tw d.tw then pure (e.retT (e.bind u e.s) f.dst (e.resolved u d.tw) a.desc)
  else
    e.copyJob u (some (a.tw, a.desc)) (d.tw, d.desc) f.dst (engFlag f.imm)
      (.rearrange (.cast (BitVec.ofNat 2 (e.mode (bits f.imm.toNat 6 3))) (f.imm.getLsbD 9)))

def execTcast (h : Hd) (f : RFmt) (s : State) : Out := runR .tcast .mt h f s (fun e =>
  e.copyWait (castOnly (e.srcT f.sa).tw (e.srcT f.dst).tw) (e.cast f))

/-- The axis of the slowest index (R391). -/
def slowAxis (t : Quad) : Nat := if twLay t = 1 then twRank t - 1 else 0

/-- The deep-file rows that one step of the slowest index takes in layouts 0 and 1 (R204, R215). -/
def runsPerSlow (t : Quad) (d : List Nat) : Nat := prod ((d.drop 1).take (twRank t - 2))

/-- The descriptor of a deep-file slice that skips `adv` rows (R215): ROW goes up and COUNT down by them. A field
that its bits cannot hold has no stated result: it is free, within the context's partition (R2, R190).
(DESIGN CHOICE, log 44.) -/
def Env.skipRows (e : Env) (desc : Word) (adv : Nat) : Word :=
  let row := dRow desc + adv
  let row := if row < 2048 then row else Config.freeNat e.s.fresh % min 2048 (max 1 e.x.dflen)
  let count := if adv ≤ dCount desc then dCount desc - adv
    else Config.freeNat (e.s.fresh + 1) % (e.x.dflen - row + 1)
  mkDeep row count

/-- A slice's descriptor, where the slice is type-only (R215); none where it takes a copy job. -/
def Env.sliceDesc (e : Env) (t : Quad) (desc : Word) (start : Nat) : Option Word :=
  let d := e.extents t
  let others := dropAt d (slowAxis t)
  if 1 < twLay t || twRank t < 2 || (start ≠ 0 && others.any isVar) then none
  else
    let runs := if start = 0 then 0 else start * runsPerSlow t d
    match dKind desc with
    | 1 =>
      some (e.skipRows desc (if start = 0 then 0 else runs * ceilDiv (runBytes t d) 128))
    | 2 =>
      (e.s.object e.ci (e.s.spaceOf e.ci) (e.x.aReg (dAreg desc)).obj).map (fun w =>
        mkWindow (dAreg desc) ((dOffset desc + runs * w.pitch * 128) % 2 ^ 48))
    | _ => none

/-- TSLC and TSLCI once the queue lets them (R391). -/
def Env.sliceBody (e : Env) (dst sa : BitVec 9) (start count : Nat) (flag : Option (BitVec 5)) : Except Stop State := do
  let a := e.srcT sa
  let row : TRow := ⟨0, a.tw, .any, .any, .any, .any, []⟩
  e.uniForm [row]
  e.nonEmpty 0 a.tw
  let u ← e.unify [row]
  let ax := slowAxis a.tw
  let n := (e.extents a.tw).getD ax 0
  stopIf (isVar n) (shapeFault e.slot.num (4 + ax) 0 false 0 n)
  stopIf (count = 0 || n < start + count)
    (shapeFault e.slot.num (4 + ax) 0 false n (if count = 0 then 0 else start + count))
  let t := twSetExt (e.resolved u a.tw) ax count
  match e.sliceDesc a.tw a.desc start with
  | some d => pure (e.retT e.s dst t d)
  | none => do
    e.plainScale a.tw t
    e.copyJob u (some (a.tw, a.desc)) (t, (e.srcT dst).desc) dst flag (.rearrange (.slice start))

@[inherit_doc Env.sliceBody]
def Env.slice (e : Env) (dst sa : BitVec 9) (start count : Nat) (flag : Option (BitVec 5)) : Except Stop State :=
  e.copyWait (e.sliceDesc (e.srcT sa).tw (e.srcT sa).desc start).isSome (e.sliceBody dst sa start count flag)

def execTslc (h : Hd) (f : RFmt) (s : State) : Out := runR .tslc .mt h f s (fun e => do
  let b ← e.srcS f.sb
  let c ← e.srcS f.sc
  e.slice f.dst f.sa b.toNat c.toNat (engFlag f.imm))
def execTslci (h : Hd) (f : IFmt) (s : State) : Out := runI .tslci .mt h f s (fun e =>
  e.slice f.dst f.sa (f.imm.toNat % 2 ^ 15) (bits f.imm.toNat 15 14) none)

/-- A copy job whose operands follow a typing rule of a row for A and a row for D (R388). -/
def Env.typedCopy (e : Env) (f : RFmt) (ra rd : TRow) (kind : TileOp → TileOp → JobKind) : Except Stop State := do
  e.blockIf e.copyFull 3
  e.formAD ra.tw rd.tw
  let u ← e.unify [ra, rd.filled]
  e.copyJob u (some (ra.tw, (e.srcT f.sa).desc)) (rd.tw, (e.srcT f.dst).desc) f.dst (engFlag f.imm) kind

def execTfill (h : Hd) (f : RFmt) (s : State) : Out := runR .tfill .mt h f s (fun e => do
  let v ← e.srcS f.sa
  e.blockIf e.copyFull 3
  let d := e.srcT f.dst
  e.wellFormed d.tw
  e.nonEmpty 4 d.tw
  let u ← e.unify [⟨4, d.tw, .any, .oneOf [1, 2, 3, 4, 5, 9, 10, 11, 12, 14], .oneOf [0, 1, 2, 3, 4, 6], .any, []⟩]
  e.copyJob u none (d.tw, d.desc) f.dst (engFlag f.imm) (.rearrange (.fill v)))
def execTcopy (h : Hd) (f : RFmt) (s : State) : Out := runR .tcopy .mt h f s (fun e =>
  e.typedCopy f ⟨0, (e.srcT f.sa).tw, .sym 0, .sym 0, .sym 0, .sym 0, sharedExts⟩
    ⟨4, (e.srcT f.dst).tw, .sym 0, .sym 0, .sym 0, .sym 0, sharedExts⟩ (.rearrange .copy))
def execTqbx (h : Hd) (f : RFmt) (s : State) : Out := runR .tqbx .mt h f s (fun e =>
  let d := (e.srcT f.dst).tw
  e.typedCopy f ⟨0, (e.srcT f.sa).tw, .sym 0, .oneOf [1, 2, 3], .oneOf [0, 1], .oneOf [0], sharedExts⟩
    ⟨4, d, .sym 0, .oneOf [6, 7, 8], .oneOf [0, 1], .oneOf [if twLay d = 1 then 6 else 5], sharedExts⟩ (.rearrange .qbx))
def execTdqbx (h : Hd) (f : RFmt) (s : State) : Out := runR .tdqbx .mt h f s (fun e =>
  e.typedCopy f ⟨0, (e.srcT f.sa).tw, .sym 0, .oneOf [6, 7, 8], .oneOf [0, 1], .any, sharedExts⟩
    ⟨4, (e.srcT f.dst).tw, .sym 0, .oneOf [1, 2, 3], .oneOf [0, 1], .oneOf [0], sharedExts⟩
    (.rearrange (.dqbx (BitVec.ofNat 2 (e.mode (bits f.imm.toNat 6 3))) (f.imm.getLsbD 9))))
def execTzb (h : Hd) (f : RFmt) (s : State) : Out := runR .tzb .mt h f s (fun e =>
  e.typedCopy f ⟨0, (e.srcT f.sa).tw, .oneOf [2, 3, 4], .sym 0, .oneOf [0, 4], .any, sharedExts⟩
    ⟨4, (e.srcT f.dst).tw, .oneOf [twRank (e.srcT f.sa).tw], .sym 0, .oneOf [5], .any, sharedExts⟩ .zbComp)
def execTzx (h : Hd) (f : RFmt) (s : State) : Out := runR .tzx .mt h f s (fun e =>
  e.typedCopy f ⟨0, (e.srcT f.sa).tw, .sym 0, .sym 0, .oneOf [5], .any, sharedExts⟩
    ⟨4, (e.srcT f.dst).tw, .sym 0, .sym 0, .oneOf [4], .any, sharedExts⟩ .zbExp)

/-- KW, STR, DIL and PAD of WPAR (R253). -/
def wparOf (w : BitVec 16) : Nat × Nat × Nat × Nat :=
  (bits w.toNat 12 4 + 1, bits w.toNat 8 4 + 1, bits w.toNat 4 4 + 1, bits w.toNat 0 4)
/-- P of R253; below 1 where no window fits. -/
def windowsOf (w : BitVec 16) (l : Nat) : Int :=
  let (kw, str, dil, pad) := wparOf w
  ((l : Int) + 2 * pad - dil * (kw - 1 : Nat) - 1) / str + 1

/-- The window expansion of A into D under WPAR (R252, R253). -/
def Env.windowExpand (e : Env) (a : Quad × Word) (d : Quad × Word) (dst : Option (BitVec 9))
    (flag : Option (BitVec 5)) (w : BitVec 16) : Except Stop State := do
  e.blockIf e.copyFull 3
  e.formAD a.1 d.1
  let ra : TRow := ⟨0, a.1, .oneOf [2], .sym 0, .oneOf [0], .any, []⟩
  let rd := TRow.filled ⟨4, d.1, .oneOf [2], .sym 0, .oneOf [6], .any, []⟩
  let u ← e.unifyPart [ra, rd]
  e.constant [(0, a.1)] u
  let l := (e.extents a.1).getD 0 0
  let c := (e.extents a.1).getD 1 0
  let p := windowsOf w l
  stopIf (p < 1) (shapeFault e.slot.num 4 4 false 0 ((e.extents d.1).getD 0 0))
  let u ← e.unify [ra, { rd with exts := [.lit p.toNat, .lit ((wparOf w).1 * c)] }]
  let t ← e.copyJob u (some a) d (dst.getD 0) flag (fun x y => .window x y w)
  pure t

def execTwex (h : Hd) (f : RFmt) (s : State) : Out := runR .twex .mt h f s (fun e => do
  let b ← e.srcS f.sb
  let a := e.srcT f.sa
  let d := e.srcT f.dst
  e.windowExpand (a.tw, a.desc) (d.tw, d.desc) (some f.dst) (engFlag f.imm) (b.extractLsb' 0 16))

end Sys2Proof.Machine
end

