-- ==== Sys2Proof/Machine/Nest.lean ====
section
/-!
DEFINITION. The nest tables CTAB and MTAB: their fields, their check, the sequencer's nest of
addresses, and the ranges its streams reach (R244 to R246, R249). Also the checks of the operands of
engine commands against their stores (R98, R103, R243, R421).
-/

namespace Sys2Proof.Machine

/-- Word `i` of a nest table (R244). -/
def tabWord (t : SMap Word) (i : Nat) : Word := SMap.get 0 t i
/-- Write bits of word `i` of a nest table under a mask (R392, R423). -/
def tabWrite (t : SMap Word) (i : Nat) (v mask : Word) : SMap Word :=
  SMap.set 0 t i ((tabWord t i &&& ~~~mask) ||| (v &&& mask))

/-- The fields of W0 (R244). -/
def nUsz (t : SMap Word) : Nat := fld (tabWord t 0) 40 4
@[inherit_doc nUsz] def nIdx (t : SMap Word) : Nat := fld (tabWord t 0) 38 2
@[inherit_doc nUsz] def nImul (t : SMap Word) : Nat := fld (tabWord t 0) 32 6
@[inherit_doc nUsz] def nSlrLvl (t : SMap Word) : Nat := fld (tabWord t 0) 29 3
@[inherit_doc nUsz] def nSlrDiv (t : SMap Word) : Nat := fld (tabWord t 0) 26 3
@[inherit_doc nUsz] def nDepth (t : SMap Word) : Nat := fld (tabWord t 0) 21 3
/-- The fields of W2 (R244). -/
def nTstart (t : SMap Word) : BitVec 10 := (tabWord t 2).extractLsb' 54 10
@[inherit_doc nTstart] def nTlen (t : SMap Word) : Nat := fld (tabWord t 2) 48 6
@[inherit_doc nTstart] def nTsreg (t : SMap Word) : Nat := fld (tabWord t 2) 42 6
/-- COUNT(L), INC(L, s) and BASE(s) (R244). -/
def nCount (t : SMap Word) (l : Nat) : Nat :=
  if l < 4 then fld (tabWord t 1) (16 * l) 16 else fld (tabWord t 2) (16 * (l - 4)) 16
@[inherit_doc nCount] def nInc (t : SMap Word) (l s : Nat) : Int :=
  toS 32 (fld (tabWord t (3 + 2 * l + s / 2)) (32 * (s % 2)) 32)
@[inherit_doc nCount] def nBase (t : SMap Word) (s : Nat) : Nat := fld (tabWord t 15) (16 * s) 16

/-- What a nest table serves (R244, R245). -/
inductive NestUse where
  | copy | matrix | template
  deriving DecidableEq, Repr

/-- Whether a nest table is invalid (R245). -/
def nestBad (u : NestUse) (t : SMap Word) : Bool :=
  let w0 := tabWord t 0
  let w2 := tabWord t 2
  let d := nDepth t
  d = 0 || d = 7 || nSlrLvl t = 6 || (nSlrLvl t ≠ 7 && d ≤ nSlrLvl t) ||
    fld w0 44 20 ≠ 0 || fld w0 24 2 ≠ 0 || fld w0 16 5 ≠ 0 || fld w2 32 10 ≠ 0 ||
    nIdx t = 3 || 7 < nUsz t || 47 < nImul t ||
    (match u with
      | .copy => fld w2 42 22 ≠ 0
      | .matrix => fld w0 32 12 ≠ 0 || fld w0 0 16 ≠ 0
      | .template => nTsreg t = 0 || 60 < nTsreg t)

/-- The counts n(0) to n(5) (R246). -/
def nestCounts (t : SMap Word) (slr : Word) : List Nat :=
  (List.range 6).map (fun l =>
    if l = nSlrLvl t then ceilDiv slr.toNat (2 ^ nSlrDiv t) else if l < nDepth t then nCount t l else 1)

/-- The iterations of a nest. -/
def nestIters (t : SMap Word) (slr : Word) : Nat := prod (nestCounts t slr)

/-- The indices i0, i1, … of an iteration: its digits over the counts, level 0 innermost. -/
def nestIndex : List Nat → Nat → List Nat
  | [], _ => []
  | n :: l, it => it % n :: nestIndex l (it / n)

/-- addr(s) of an iteration (R246). -/
def nestAddr (t : SMap Word) (slr : Word) (it s : Nat) : Int :=
  ((nestIndex (nestCounts t slr) it).zipIdx.take (nDepth t)).foldl (fun a (i, l) => a + i * nInc t l s) (nBase t s)

/-- The lowest and the highest address of a stream over every corner of the nest (R249). -/
def nestReach (t : SMap Word) (slr : Word) (s : Nat) : Int × Int :=
  ((nestCounts t slr).zipIdx.take (nDepth t)).foldl (fun (a : Int × Int) (n, l) =>
    let d := (n - 1 : Nat) * nInc t l s
    (a.1 + min 0 d, a.2 + max 0 d)) ((nBase t s : Int), (nBase t s : Int))

/-- ENGINE_ERROR (R243). -/
def engineErr (code index : Nat) : Stop := .trap .engineError (BitVec.ofNat 64 (code * 8 + index))

/-- The object checks of R103 where the object's entry is valid at issue. -/
def Env.objCheck (e : Env) (areg acc : Nat) (c : Cap) (eo : Int) (n : Nat) (write : Bool) : Except Stop Unit :=
  match e.s.object e.ci (e.s.spaceOf e.ci) c.obj with
  | none => .ok ()
  | some o => do
    stopIf (o.len < eo + n) (.trap .capBounds (capValue areg acc 0 eo))
    stopIf (write && o.now) (.trap .capRights (capValue areg acc 2 eo))

/-- The checks of a capability that an engine command names over `n` bytes from `eo` (R98, R103,
R421); E is added to the rights. -/
def Env.engCap (e : Env) (areg : Nat) (c : Cap) (need : BitVec 8) (eo : Int) (n : Nat) : Except Stop Unit := do
  capCheck areg 3 c (need ||| rE) eo n
  if n = 0 then pure () else e.objCheck areg 3 c eo n (need &&& rW ≠ 0)

/-- The memory region from an offset of a capability's object (R278). -/
def Env.memRegion (e : Env) (c : Cap) (eo : Int) (n : Nat) : List Region :=
  match e.s.object e.ci (e.s.spaceOf e.ci) c.obj with
  | some o => if n = 0 then [] else [.mem (o.base + eo.toNat) (o.base + eo.toNat + n)]
  | none => if n = 0 then [] else [.obj c.obj eo.toNat (eo.toNat + n)]

end Sys2Proof.Machine
end

