-- ==== Sys2Proof/Machine/Endpoint.lean ====
section
/-!
DEFINITION. The fabric endpoint of a core: the messages of sends and block transfers, and how requests
meet posted receives (R36, R52 to R55, R435 to R437). Protocol words that the manual does not place stand
at the front of a message's data, 8 bytes each.
-/

namespace Sys2Proof.Machine

/-- Protocol word `n` of a message. -/
def msgWord (m : Msg) (n : Nat) : Nat := getLe m.data (8 * n) 8
/-- Protocol words as bytes. -/
def wordsBytes (l : List Nat) : List Byte := l.flatMap (bytesOf 8)

/-- The request of a typed send (R52). (DESIGN CHOICE, log 19.) -/
def State.sendRequest (s : State) (ci : Nat) (j : Job) (t : TileOp) (dst : BitVec 24) (tag : BitVec 16) : Msg where
  src := s.endpoint ci
  dst := dst
  kind := .sendReq
  cls := 0
  tag := tag
  tw := t.tw
  data := wordsBytes [j.id]

/-- The words that head a block transfer: its job, the destination capability, the issuer's space, its bytes, the
remote flag and RP (R437), and the clock at which its data were read (R273). (DESIGN CHOICE, log 19.) -/
def blockWords : Nat := 7

/-- The message of a block transfer before its data is read (R437). -/
def State.blockMsg (s : State) (ci : Nat) (j : Job) (a b : Cap) (dst : BitVec 24) (f : BitVec 5) (rp : Bool) : Msg where
  src := s.endpoint ci
  dst := dst
  kind := .block
  cls := 1
  tag := f.setWidth 16
  tw := 0
  data := wordsBytes [j.id, bits b.bits.toNat 0 64, bits b.bits.toNat 64 64, j.space.toNat, (a.len - a.off).toNat,
    if rp then 1 else 0, j.pts]

/-- A layout-5 type as layout 4 (R50). -/
def asBlocked (t : Quad) : Quad := if twLay t = 5 then mkTw (twRank t) (twFmt t) 4 (twScale t) (twExts t) else t

/-- The first field in which a request's type clashes with a receive's, with the value expected and the one
found (R53, R214). -/
def typeClash (want got : Quad) : Option (Nat × Nat × Nat) :=
  let lay (t : Quad) := twLay (asBlocked t)
  if twRank want ≠ twRank got then some (0, twRank want, twRank got)
  else if twFmt want ≠ twFmt got then some (1, twFmt want, twFmt got)
  else if lay want ≠ lay got then some (2, twLay want, twLay got)
  else if twScale want ≠ twScale got then some (3, twScale want, twScale got)
  else
    (((twExts want).zip (twExts got)).zipIdx.find? (fun p => !isVar p.1.1 && p.1.1 ≠ p.1.2)).map
      (fun p => (4 + p.2, p.1.1, p.1.2))

/-- The type in which a request's image lands in a receive (R51): a ZB image is expanded unless the receive
declares layout 5. -/
def landType (want got : Quad) : Quad := if twLay want = 5 then got else asBlocked got

/-- Whether an image fits a receive's storage, as the rows needed and held (R209, R436). -/
def State.fits (s : State) (ci : Nat) (sp : BitVec 16) (t : Quad) (desc : Word) (cap : Cap) : Option (Nat × Nat) :=
  let need := imageRows t (twExts t)
  match dKind desc with
  | 1 => if dCount desc < need then some (need, dCount desc) else none
  | _ =>
    match s.object ci sp cap.obj with
    | some o =>
      (match windowCheck 0 4 0 .jobDst cap cap.off t o with
        | .ok _ => none
        | .error _ => some (need, (min cap.len o.len - cap.off.toNat) / 128))
    | none => none

/-- The oldest posted receive that a request matches (R53). -/
def State.receiver (s : State) (ci : Nat) (m : Msg) : Option Job :=
  let l := [0, 1, 2, 3].flatMap (fun k => (s.ctx ci k).recvs.filter (fun j => !j.started))
  (sortBy (fun (j : Job) => j.id) l).find? (fun j => match j.kind with
    | .recv _ src tag _ => tag = m.tag && (match src with
      | some a => a = m.src
      | none => true)
    | _ => false)

/-- A request meets a receive (R52 to R54): a grant, or a refusal with FABRIC_TYPE for the receiving context. -/
def State.meet (s : State) (ci : Nat) (m : Msg) (j : Job) : State :=
  let reply (s : State) (kind : MsgKind) (words : List Nat) : State := s.send
    { src := m.dst, dst := m.src, kind := kind, cls := 0, tag := m.tag, tw := m.tw, data := wordsBytes words }
  match j.kind with
  | .recv t _ _ _ =>
    let clash : Option (Nat × Nat × Nat) := match typeClash t.tw m.tw with
      | some c => some c
      | none => (s.fits ci j.space (landType t.tw m.tw) t.desc t.cap).map (fun p => (8, p))
    match clash with
    | some (f, want, got) =>
      let v : Word := match shapeFault 15 f 4 false want got with
        | .trap _ v => v
        | _ => 0
      reply (s.modCtx ci j.ctx (fun x => x.pendCause .fabricType v)) .sendRefuse [msgWord m 0]
    | none =>
      let s := s.modCtx ci j.ctx (fun x => { x with recvs := x.recvs.map (fun (i : Job) => if i.id = j.id then { i with started := true } else i) })
      reply s .sendGrant [msgWord m 0, j.ctx, j.id]
  | _ => s

/-- The requests a core queues at most (R55). -/
def maxUnmatched : Nat := 64

/-- A request that no receive matches is queued, or refused BUSY (R55). -/
def State.offer (s : State) (ci : Nat) (m : Msg) : State :=
  match s.receiver ci m with
  | some j => s.meet ci m j
  | none =>
    if maxUnmatched ≤ (s.core ci).unmatched.length then s.send
      { src := m.dst, dst := m.src, kind := .sendBusy, cls := 0, tag := m.tag, tw := m.tw, data := wordsBytes [msgWord m 0] }
    else s.modCore ci (fun c => { c with unmatched := c.unmatched ++ [m] })

/-- Queued requests meet the receives as they now stand, in arrival order (R53). -/
def State.rematch (s : State) (ci : Nat) : State :=
  let l := (s.core ci).unmatched
  l.foldl (fun s m => s.offer ci m) (s.modCore ci (fun c => { c with unmatched := [] }))

end Sys2Proof.Machine
end

