-- ==== Sys2Proof/Machine/Storage.lean ====
section
/-!
DEFINITION. When a job may begin (R193, R280), how a job with a result of its own ends (R421), and the storage engine
(R91 to R93, R439): its checks and the Read commands it issues.
-/

namespace Sys2Proof.Machine

/-- Two regions meet: whole 64-byte lines in memory, rows, entries and bundles else (R278). -/
def Region.meets (a b : Region) : Bool :=
  match a, b with
  | .rows lo hi, .rows lo' hi' => lo < hi' && lo' < hi
  | .acm lo hi, .acm lo' hi' => lo < hi' && lo' < hi
  | .edge e lo hi, .edge e' lo' hi' => e = e' && lo < hi' && lo' < hi
  | a, b => a.onLine b

/-- Any region of one list meets any of another. -/
def meets (l m : List Region) : Bool := l.any (fun a => m.any (fun b => a.meets b))

/-- The deep-file rows of a list of regions. -/
def rowsOnly (l : List Region) : List Region := l.filter (fun g => match g with
  | .rows .. => true
  | _ => false)

/-- Whether a command issued before a job, and bound for the same engine, has not left its context's port: an engine
runs its jobs in the order in which they were issued (R240). -/
def State.portBefore (s : State) (j : Job) : Bool :=
  let before (cores : List Nat) (p : JobKind → Bool) : Bool :=
    p j.kind && cores.any (fun n => [0, 1, 2, 3].any (fun k => ((s.core n).ctx k).portJobs.any (fun i => p i.kind && i.id < j.id)))
  before [j.core] JobKind.isCopy || before [j.core] JobKind.isMatrix ||
    before ((s.cores.map (·.1)).filter (fun n => n / 16 = j.core / 16)) JobKind.isMerge

/-- Whether a job must wait for an earlier job of its context, to any engine (R280), or, with the rows
it writes, for a matrix job of its core that has started or was issued before it (R193, R250). (DEDUCED, log 47.) -/
def State.jobWaits (s : State) (j : Job) : Bool :=
  let l := (s.coreJobs j.core).filter (fun i => i.task = j.task)
  let at_ (l : List Region) : List Region := l.map (Region.located s j.core j.space)
  l.any (fun i => i.id < j.id && i.ctx = j.ctx &&
    (meets (at_ j.writes) (at_ (i.reads ++ i.writes)) || meets (at_ j.reads) (at_ i.writes))) ||
    s.portBefore j ||
    ((s.core j.core).me ++ [0, 1, 2, 3].flatMap (fun k => ((s.core j.core).ctx k).portJobs.filter (fun i => i.kind.isMatrix))).any
      (fun i => i.id ≠ j.id && (i.started || i.id < j.id) &&
      meets (rowsOnly j.writes) (rowsOnly (i.reads ++ i.writes)))

/-- Drive entry `e`. -/
def State.drive (s : State) (e : Nat) : Drive := SMap.get Drive.init s.drives e
/-- Write drive entry `e`. -/
def State.setDrive (s : State) (e : Nat) (d : Drive) : State := { s with drives := SMap.set Drive.init s.drives e d }

/-- Whether an entry is usable (R92). -/
def Drive.usable (d : Drive) : Bool := d.enable && (d.lbash = 9 || d.lbash = 12)
/-- The bytes of a block (R92). -/
def Drive.block (d : Drive) : Nat := 2 ^ d.lbash.toNat
/-- The entries of a queue. -/
def Drive.depth (d : Drive) : Nat := d.qdepth.toNat + 1
/-- The blocks of the largest command (R92). -/
def Drive.most (d : Drive) : Nat :=
  let m := if d.mdts = 0 || 9 < d.mdts then 9 else d.mdts.toNat
  2 ^ m * 4096 / d.block

/-- `n` bytes whose values the manual does not give. (PRESUMED, log 26.) -/
def State.freeBytes (s : State) (n : Nat) : State × List Byte :=
  let (s, k) := s.draw
  (s, (List.range n).map (fun i => Config.freeByte (Nat.pair k i)))

/-- A job's completion post, with the job's own clock (R165, R241, R273, R283). -/
def State.post (s : State) (j : Job) : State :=
  match j.flag with
  | some f => s.postTo j.core f.toNat 1 j.space j.pts
  | none => s

/-- A job with a result of its own is over: its words wait at the core until they return, ahead of its post
(R421). A job without one posts at once. -/
def State.giveResult (s : State) (j : Job) (ws : List Word) : State :=
  let rest (c : Core) : List Job := c.svcs.filter (fun i => i.id ≠ j.id)
  match j.pend with
  | some _ => s.modCore j.core (fun c => { c with svcs := rest c ++ [{ j with done := true, result := ws }] })
  | none => (s.modCore j.core (fun c => { c with svcs := rest c })).post j

/-- A free command identifier of an entry. -/
def freeCid (l : List SgCmd) : Nat → Nat → Nat
  | 0, n => n % 65536
  | k + 1, n => if l.any (fun c => c.cid = n % 65536) then freeCid l k (n + 1) else n % 65536

/-- The oldest job of an entry that has blocks left to ask for: the job and its block count. -/
def State.sgNext (s : State) (e : Nat) : Option (Job × Nat) :=
  let all := s.cores.flatMap (fun c => c.2.sgrds.filterMap (fun j => match j.kind with
    | .sgrd _ _ entry n _ => if entry = e && j.started && j.pos < n then some (j, n) else none
    | _ => none))
  (sortBy (fun p => p.1.id) all).head?

/-- The submission-queue entry of a Read command (R91, R93): opcode 2 with PRP data pointers, its identifier, the
namespace, the two pointers, the first block and the blocks less one, as the cited standard lays them out. Where the
pointers point, to bytes that land in the window, no rule says. (PRESUMED, log 26.) -/
def readEntry (cid nsid lba blocks : Nat) (prps : List Byte) : List Byte :=
  bytesOf 4 (2 + cid % 65536 * 65536) ++ bytesOf 4 nsid ++ bytesOf 16 0 ++ prps ++ bytesOf 8 lba ++ bytesOf 4 (blocks - 1) ++
    bytesOf 12 0

/-- The first block of a storage read (R93). -/
def Job.lba (j : Job) : Nat :=
  match j.kind with
  | .sgrd _ lba _ _ _ => lba.toNat
  | _ => 0

/-- The storage engine writes a doorbell of a drive entry's controller (R92). (DEDUCED, log 67.) -/
def State.ringBell (s : State) (d : Drive) (addr : Word) (v : Nat) : State :=
  { s with doorbells := s.doorbells ++ [⟨d.port, addr, BitVec.ofNat 32 v⟩] }

/-- The address of the completion queue's head doorbell (R92). (DEDUCED, log 67.) -/
def Drive.headBell (d : Drive) : Word := d.db + BitVec.ofNat 64 (4 * 2 ^ d.dstrd.toNat)

/-- Issue one Read command of an entry (R93): the next blocks of the job in ascending order. (PRESUMED, log 26.) -/
def State.sgCommand (s : State) (e : Nat) (j : Job) (n : Nat) : State :=
  let d := s.drive e
  let b := min d.most (n - j.pos)
  let cid := freeCid d.cmds (d.cmds.length + 1) d.nextCid
  let (s, q) := s.freeBytes 16
  let s := s.memPut 0 (d.sq.toNat + 64 * d.sqTail.toNat) (readEntry cid d.nsid.toNat (j.lba + j.pos) b q)
  let s := s.setDrive e { d with
    cmds := d.cmds ++ [⟨cid, j.core, j.id, j.pos * d.block, b, s.tick⟩]
    nextCid := cid + 1
    sqTail := BitVec.ofNat 16 ((d.sqTail.toNat + 1) % d.depth) }
  let s := s.ringBell d d.db ((d.sqTail.toNat + 1) % d.depth)
  s.modCore j.core (fun c => { c with sgrds := c.sgrds.map (fun (i : Job) => if i.id = j.id then { i with pos := i.pos + b } else i) })

/-- Issue the commands that the queue has room for (R92, R93). (PRESUMED, log 26.) -/
def State.sgIssue (s : State) (e : Nat) : Nat → State
  | 0 => s
  | k + 1 =>
    if (s.drive e).qdepth.toNat ≤ (s.drive e).cmds.length then s
    else match s.sgNext e with
      | none => s
      | some (j, n) => (s.sgCommand e j n).sgIssue e k

/-- A storage read begins (R93, R439): its checks, then its commands. -/
def State.sgBegin (s : State) (j : Job) : State :=
  match j.kind with
  | .sgrd _ _ entry n len =>
    let d := s.drive entry
    let rest (c : Core) : List Job := c.sgrds.filter (fun i => i.id ≠ j.id)
    let over_ : State := s.modCore j.core (fun c => { c with sgrds := rest c })
    if !d.usable then over_.giveResult j [1]
    else if n = 0 || n * d.block < len || len + d.block ≤ n * d.block then over_.giveResult j [2]
    else
      (s.modCore j.core (fun c => { c with sgrds := rest c ++ [{ j with started := true }] })).sgIssue entry d.depth
  | _ => s

/-- Storage reads of a core that waited for a job which is over begin (R280). -/
def State.sgWake (s : State) (ci : Nat) : State :=
  ((s.core ci).sgrds.filter (fun j => !j.started)).foldl (fun s j => if s.jobWaits j then s else s.sgBegin j) s

/-- A storage read reaches its engine (R280). -/
def State.sgStart (s : State) (j : Job) : State :=
  (s.modCore j.core (fun c => { c with sgrds := c.sgrds ++ [j] })).sgWake j.core

/-- A job is over, with its post. -/
def State.postJob (s : State) (j : Job) : State := (s.post j).sgWake j.core

/-- A job is over, with its result. -/
def State.answer (s : State) (j : Job) (ws : List Word) : State := (s.giveResult j ws).sgWake j.core

end Sys2Proof.Machine
end

