-- ==== Sys2Proof/Machine/Port.lean ====
section
/-!
DEFINITION. The memory port of a context (R297): how accesses, engine commands and SY-slot operations
leave it in program order, how a unit of an access performs (R273 to R275, R406, R418), and the checks
of typed accesses (R413, R414).
-/

namespace Sys2Proof.Machine

/-- Take timestamps for a context (R273). (DESIGN CHOICE, log 53.) -/
def State.stamp (s : State) (ci k : Nat) (step : Memory → Nat → Nat → Memory × Nat) (pa n : Nat) : State :=
  let (m, t) := s.mem.stampAll step (s.ctx ci k).pts (linesOf pa n)
  { s with mem := m }.modCtx ci k (fun x => { x with pts := t })

/-- The access code of a fault of an access (R98, R71). -/
def AccKind.code : AccKind → Nat
  | .stCap => 4
  | k => if k.writes then 1 else 0

/-- The new value of an atomic, or none where it does not write (R418). -/
def atomNew (op : AtomOp) (n old b c : Nat) : Option Nat :=
  match op with
  | .add => some ((old + b) % 2 ^ n)
  | .min => some (ofI n (min (toS n old) (toS n b)))
  | .max => some (ofI n (max (toS n old) (toS n b)))
  | .minu => some (min old b)
  | .maxu => some (max old b)
  | .and => some (old &&& b)
  | .or => some (old ||| b)
  | .xor => some (old ^^^ b)
  | .xch => some b
  | .cas => if old = c then some b else none
  | .fadd => some (addFp32 old b)

/-- Whether an atomic returns its old value zero-extended (R418). -/
def AtomOp.zeroExt : AtomOp → Bool
  | .minu | .maxu | .fadd => true
  | _ => false

/-- The bytes of a ZB image that are known to be needed, given the bytes read of it (R49, R414). -/
def zbNeed (t : Quad) (d : List Nat) (img have_ : Nat) : Nat :=
  let (p, br, bc) := blockGeom t d
  let b := elemSize (twFmt t)
  (List.range p).foldl (fun (a : Nat × Bool) _ =>
    if a.2 then a
    else
      let start := a.1 + ceilDiv (br * bc) 64 * 8
      if have_ < start then (start, true)
      else (start + popCount (br * bc) (bits img (8 * a.1) (br * bc)) * 64 * b, false)) (0, false) |>.1

/-- The unification of a typed access: the window's TYPE, then the tile (R413). -/
def Env.typedUni (e : Env) (opnd : Nat) (tw : Quad) (o : ObjEntry) : Except Stop Uni := do
  let row (k : Nat) (t : Quad) : TRow := ⟨k, t, .sym 0, .sym 0, .sym 0, .sym 0, [.sym 0, .sym 1, .sym 2, .sym 3]⟩
  e.uniForm [row opnd tw]
  let u ← e.uniRows [row opnd o.type, row opnd tw] Uni.empty
  e.answer u
  pure u

/-- The object, bounds, typing and storage checks of a typed access, in the order of R413: what the
unification found, and the tile's resolved type. -/
def Env.typedCheck (e : Env) (opnd areg : Nat) (store : Bool) (c : Cap) (eo : Int) (tw : Quad) (desc : Word)
    (o : ObjEntry) : Except Stop (Uni × Quad) := do
  let acc := if store then 1 else 0
  stopIf (!o.tw) (.trap .capRights (capValue areg acc 0x40 eo))
  stopIf (store && o.now) (.trap .capRights (capValue areg acc 2 eo))
  let n := (windowBytes o.type (twExts o.type) o.pitch).getD 0
  stopIf (eo < 0 || c.len < eo + n || o.len < eo + n) (.trap .capBounds (capValue areg acc 0 eo))
  let u ← e.typedUni opnd tw o
  let t := e.resolved u tw
  let rows := imageRows t (twExts t)
  stopIf (dKind desc ≠ 1) (shapeFault e.slot.num 8 opnd false rows 0)
  stopIf (dCount desc < rows) (shapeFault e.slot.num 8 opnd false rows (dCount desc))
  pure (u, t)

/-- A load's unit. -/
def ldUnit (p : Nat × Nat) : MUnit := ⟨p.1, p.2, [], 0, false⟩

/-- A store's units over rows: each unit takes the first bytes of its row. -/
def stUnits (ps : List (Nat × Nat)) (rows : List Row) : List MUnit :=
  (ps.zip rows).map (fun (p, r) => ⟨p.1, p.2, (rowBytes r).take p.2, allBytes, false⟩)

/-- The bytes of a tile's image as its deep-file rows hold it. -/
def rowsNat (rows : List Row) : Nat := digits 1024 (rows.map BitVec.toNat)

/-- The units of a typed store (R414): for layout 5 only the bytes of the image. -/
def typedStoreUnits (t : Quad) (pitch start : Nat) (rows : List Row) : List MUnit :=
  let total := if twLay t = 5 then some (zbBytes t (twExts t) (rowsNat rows)) else none
  stUnits (typedUnits t pitch start total) rows

/-- Apply a remote post's message at an endpoint of this module, or send it on its way (R165, R444), with its poster's
clock (R273). (DESIGN CHOICE, log 19.) -/
def State.remotePost (s : State) (ci : Nat) (dst : BitVec 24) (f n : Nat) (sp : BitVec 16) (ts : Nat) : State :=
  if dst = s.endpoint ci then s.postTo ci f n sp ts
  else s.send { src := s.endpoint ci, dst := dst, kind := .post, cls := 0, tag := BitVec.ofNat 16 f, tw := 0,
                data := wordsBytes [n, sp.toNat, ts] }

/-- A context changes a flag of its core (R442). A change that is refused only now, after others have changed the
flag, is its FLAG_OVERFLOW between bundles; a context that has exited sets OVF. (DEDUCED, log 37.) -/
def State.changeFlag (s : State) (ci k f : Nat) (g : Option Flag) : State :=
  let old := (s.core ci).flag f
  match g with
  | some g => s.modCore ci (fun c => c.setFlag f g)
  | none =>
    if (s.ctx ci k).status = .idle then s.modCore ci (fun c => c.setFlag f { old with ovf := true })
    else s.modCtx ci k (fun x => x.pendCause .flagOverflow (flagValue f old))

/-- Apply an SY-slot operation as it leaves the port (R272, R442, R444 to R446). -/
def State.applySy (s : State) (ci k : Nat) : SyOp → State
  | .post f n =>
    let g := ((s.core ci).flag f).post n
    let t := s.changeFlag ci k f g
    if g.isSome then t.stampFlag ci f (s.ctx ci k).pts else t
  | .expt f n => s.changeFlag ci k f (((s.core ci).flag f).expect n)
  | .rpost dst f n => s.remotePost ci dst f n (s.spaceOf ci) (s.ctx ci k).pts
  | .arrive j lvl dom => s.arrive ci k j lvl dom
  | .fclr f => s.modCore ci (fun c => c.setFlag f (c.flag f).clear)

/-- Hand a command to its engine (R421): it enters the queue its kind goes to, in the order of issue (R240), with the
clock of its context (R273). (DEDUCED, log 37.) -/
def State.handOver (s : State) (ci k : Nat) (j : Job) : State :=
  let j := { j with pts := (s.ctx ci k).pts }
  let cl := ci / 16
  match j.kind with
  | .matmul .. | .nest .. | .epilogue .. => s.modCore ci (fun c => { c with me := insertBy (·.id) j c.me })
  | .plain .. | .expand .. | .rearrange .. | .zbComp .. | .zbExp .. | .window .. =>
    s.modCore ci (fun c => { c with ce := insertBy (·.id) j c.ce })
  | .send t dst tag =>
    (s.modCore ci (fun c => { c with sends := c.sends ++ [{ j with pos := s.tick }] })).send (s.sendRequest ci j t dst tag)
  | .bxfer a b dst f rp =>
    (s.modCore ci (fun c => { c with sends := c.sends ++ [j] })).send (s.blockMsg ci j a b dst f rp)
  | .coll .. => s.modCore ci (fun c => { c with colls := c.colls ++ [{ j with pos := s.tick }] })
  | .sgrd .. => s.sgStart j
  | .recv .. => (s.modCtx ci k (fun x => { x with recvs := x.recvs ++ [j] })).rematch ci
  | .rplack .. => s.modCtx ci k (fun x => { x with rplacks := x.rplacks ++ [j] })
  | .mopen .. | .mpush .. | .mclose | .mstat =>
    let m := SMap.get Merge.init s.merges cl
    { s with merges := SMap.set Merge.init s.merges cl { m with queue := insertBy (·.id) j m.queue } }
  | .px .. | .pxRemote .. => { s with pxq := SMap.set [] s.pxq (ci / 256) (SMap.get [] s.pxq (ci / 256) ++ [j]) }
  | .xroute .. | .take | .launch .. | .query => s.modCore ci (fun c => { c with svcs := c.svcs ++ [j] })

/-- Let commands and SY-slot operations at the head of the port leave it (R297). -/
def State.drainPort (s : State) (ci k : Nat) : Nat → State
  | 0 => s
  | n + 1 =>
    match (s.ctx ci k).port with
    | ⟨_, _, _, .cmd j⟩ :: t => ((s.modCtx ci k (fun x => { x with port := t })).handOver ci k j).drainPort ci k n
    | ⟨_, _, _, .sy op⟩ :: t => ((s.modCtx ci k (fun x => { x with port := t })).applySy ci k op).drainPort ci k n
    | _ => s

/-- Let the head of the port drain as far as it can. -/
def State.drain (s : State) (ci k : Nat) : State := s.drainPort ci k (s.ctx ci k).port.length

/-- The access at the head of a port. -/
def State.front (s : State) (ci k : Nat) : Option (PortEntry × Acc) :=
  match (s.ctx ci k).port with
  | e :: _ => match e.item with
    | .acc a => some (e, a)
    | _ => none
  | [] => none

/-- Replace the access at the head of a port. -/
def State.setFront (s : State) (ci k : Nat) (a : Acc) : State :=
  s.modCtx ci k (fun x => match x.port with
    | e :: t => { x with port := { e with item := .acc a } :: t }
    | [] => x)

/-- Remove the access at the head of a port with its pending destination; what follows may drain. -/
def State.popFront (s : State) (ci k : Nat) (a : Acc) : State :=
  (s.modCtx ci k (fun x => { x with
    port := x.port.drop 1
    pend := x.pend.filter (fun p => some p.id ≠ a.pend) })).drain ci k

/-- The value, the bytes written and the tag of a load's result (R408 to R410, R412, R415, R418). -/
def Acc.value (a : Acc) : Row × Quad × Bool :=
  let b := a.got.flatten
  match a.kind with
  | .ldS n sg => ((if sg then word (toS (8 * n) (ofBytes b)) else BitVec.ofNat 64 (ofBytes b)).setWidth 1024, allBytes, false)
  | .ldRow m => (rowOfBytes b &&& byteMask m, m, false)
  | .gather w ls =>
    let v := rowOf w ((List.range (1024 / w)).map (fun i => match ls.zipIdx.find? (fun p => p.1 = i) with
      | some (_, j) => ofBytes (a.got.getD j [])
      | none => 0))
    (v, BitVec.ofNat 128 (digits (w / 8) ((List.range (1024 / w)).map (fun i => if ls.contains i then 2 ^ (w / 8) - 1 else 0))), false)
  | .ldCap => (rowOfBytes b, allBytes, a.ctag && a.cap.rights &&& rLcap ≠ 0)
  | .ldScale hi old =>
    let h := BitVec.ofNat 512 (ofBytes b)
    (if hi then h ++ old.extractLsb' 0 512 else old.extractLsb' 512 512 ++ h, allBytes, false)
  | .atomic op n _ _ =>
    let v := ofBytes b
    ((if op.zeroExt then BitVec.ofNat 64 v else word (toS n v)).setWidth 1024, allBytes, false)
  | .store | .stCap | .ldTile .. | .stTile .. => (0, 0, false)

/-- What a load's result writes. -/
def Acc.payload (a : Acc) (rows : List Nat) : Payload :=
  let (v, m, t) := a.value
  match a.kind with
  | .store | .stCap | .ldTile .. | .stTile .. => .none
  | .ldCap => .cap a.dst.2 ⟨v.setWidth 128, t⟩
  | _ => if 400 ≤ a.dst.2 then (match rows with
      | r :: _ => .row r v m
      | [] => .none)
    else .reg a.dst.1 a.dst.2 v m

/-- The rows of a typed load's image, which take their values together: poisoned data leaves every one of them as it
was (R294, R406). -/
def Acc.image (a : Acc) : List (Nat × Row) :=
  match a.kind with
  | .ldTile _ _ rows => (rows.zip a.got).map (fun p => (p.1, rowOfBytes p.2))
  | _ => []

/-- A load has returned: its result lands in its destination and latch, unless a block or a trap has
cancelled it, or its data was poisoned (R186, R294, R406). -/
def State.finishAcc (s : State) (ci k : Nat) (a : Acc) : State :=
  let p := (s.ctx ci k).pend.find? (fun p => some p.id = a.pend)
  let s := s.popFront ci k a
  match a.poison, p with
  | some pa, _ => s.modCtx ci k (fun x => x.pendCause .eccUncorrectable (BitVec.ofNat 64 (3 * 2 ^ 60 + pa)))
  | none, none => s
  | none, some p =>
    let (v, _, t) := a.value
    let s := s.modCore ci (fun c => a.image.foldl (fun c r => c.writeRow r.1 r.2 allBytes) c)
    s.modCore ci (fun c => c.landOne k
      { slot := a.slot
        seq := c.cycle
        due := c.cycle
        w := p.w
        latch := p.latch
        lval := v
        ltag := t
        pay := a.payload p.rows
        flags := 0
        replay := false
        det := false })

/-- Perform one translated unit at a physical address under a key index. -/
def State.performUnit (s : State) (ci k : Nat) (a : Acc) (u : MUnit) (pa : Nat) (key : BitVec 9) : State × Acc :=
  let bad := match a.poison with
    | some p => some p
    | none => if a.kind.writes && (match a.kind with
        | .atomic .. => false
        | _ => true) then none else s.poisonAt key pa u.len
  match a.kind with
  | .store | .stTile .. =>
    ((s.memWriteEn key pa u.data (fun i => u.en.getLsbD i) false).stamp ci k Memory.storeAt pa u.len, a)
  | .stCap => ((s.memWriteEn key pa u.data (fun _ => true) u.tag).stamp ci k Memory.storeAt pa u.len, a)
  | .atomic op n b c =>
    let old := s.memRead key pa u.len
    let a := { a with got := [old], poison := bad }
    match bad, atomNew op n (ofBytes old) (b.toNat % 2 ^ n) (c.toNat % 2 ^ n) with
    | none, some v => ((s.memWrite key pa (bytesOf u.len v)).stamp ci k Memory.atomicAt pa u.len, a)
    | _, _ => (s.stamp ci k Memory.loadAt pa u.len, a)
  | .ldTile .. =>
    let b := s.memRead key pa u.len
    let s := s.stamp ci k Memory.loadAt pa u.len
    (s, { a with got := a.got ++ [b], poison := bad })
  | .ldS .. | .ldRow .. | .gather .. | .ldCap | .ldScale .. =>
    (s.stamp ci k Memory.loadAt pa u.len, { a with
      got := a.got ++ [s.memRead key pa u.len]
      ctag := s.tagAt pa
      poison := bad })

/-- Whether an access has performed every unit. -/
def Acc.finished (a : Acc) : Bool :=
  a.units.length ≤ a.pos || (match a.kind with
    | .ldTile tw _ _ => twLay tw = 5 && a.pos ≠ 0 &&
      zbNeed tw (twExts tw) (ofBytes a.got.flatten) (128 * a.pos) ≤ 128 * a.pos
    | _ => false)

/-- A typed load whose checks are made late rewrites its tile register then, as at commit: its own type word and descriptor,
and the type word in its latch (R403, R406, R413). -/
def Env.lateTile (e : Env) (s : State) (a : Acc) (latch : Bool) : State :=
  match a.kind with
  | .ldTile tw desc _ =>
    s.fly e.ci e.k { e.result 1 (tw.setWidth 1024) false (.tile a.dst.2 ⟨tw, desc⟩) 0 with latch := latch }
  | _ => s

/-- The object checks of an access whose object had no valid entry at issue (R103, R413), now that it
has one: the access with its checks done, or the cause it takes between bundles. -/
def State.lateCheck (s : State) (ci k : Nat) (a : Acc) (o : ObjEntry) : Except Stop (State × Acc) := do
  let e : Env := ⟨s, ci, k, s.core ci, s.ctx ci k, a.slot, ⟨0, a.w, 0, false⟩⟩
  let late (opnd : Nat) (store : Bool) (tw : Quad) (desc : Word) (un : Quad → List MUnit) : Except Stop (State × Acc) := do
    let (u, t) ← e.typedCheck opnd a.areg store a.cap a.eo tw desc o
    let s := u.pend.foldl (fun s p => s.modCtx ci k (fun x => x.setD p.1 (BitVec.ofNat 24 (2 ^ 23 + p.2)))) s
    let s := e.lateTile s a (e.x.pend.any (fun p => some p.id = a.pend && p.latch))
    let s := s.modCtx ci k (fun x => { x with
      pend := x.pend.map (fun p => if some p.id = a.pend then { p with ds := [], regs := [], latch := false } else p) })
    pure (s, { a with
      checked := true
      units := un t
      kind := match a.kind with
        | .ldTile _ d rows => .ldTile t d rows
        | x => x })
  match a.kind with
  | .ldTile tw desc _ => late 4 false tw desc (fun t => (typedUnits t o.pitch a.eo.toNat none).map ldUnit)
  | .stTile tw desc rows => late 0 true tw desc (fun t => typedStoreUnits t o.pitch a.eo.toNat rows)
  | _ =>
    let code := a.kind.code
    match a.units.find? (fun u => o.len < u.off + u.len || (a.kind.writes && o.now)) with
    | some u =>
      if o.len < u.off + u.len then .error (.trap .capBounds (capValue a.areg code 0 u.off))
      else .error (.trap .capRights (capValue a.areg code 2 u.off))
    | none => pure (s, { a with checked := true })

/-- Whether an access whose object had no valid entry at issue overlaps, now that it has one, a live job that its
context issued before it (R281). -/
def State.lateOverlap (s : State) (ci k : Nat) (p : PortEntry) (a : Acc) (o : ObjEntry) : Bool :=
  ((s.ctxJobs ci k).filter (fun j => j.bseq < p.bseq)).any (fun j =>
    ((if a.kind.writes then j.reads ++ j.writes else j.writes).map (Region.located s ci j.space)).any (fun g =>
      a.units.any (fun u => (Region.mem (o.base + u.off) (o.base + u.off + u.len)).onLine g)))

/-- A step of a port (R297, R406): the access at its head makes its late checks, performs its next
unit where that is translated, or returns. An access of an exited context that has faulted waits (R353).
(DEDUCED, log 40; DESIGN CHOICE, log 53.) -/
def State.portStep (s : State) (ci k : Nat) : State :=
  match s.front ci k with
  | none => s.drain ci k
  | some (p, a) =>
    if (s.ctx ci k).status = .idle && s.outFaults.any (fun f => f.req = .ctx ci k) then s
    else if a.checked && a.finished then s.finishAcc ci k a
    else
      let sp := s.spaceOf ci
      match s.object ci sp a.cap.obj with
      | none => s
      | some o =>
        let s := s.cacheObject ci sp a.cap.obj
        if !a.checked then
          match s.lateCheck ci k a o with
          | .ok (t, a) => if s.lateOverlap ci k p a o then s else t.setFront ci k a
          | .error (.trap c v) => (s.popFront ci k a).modCtx ci k (fun x => x.pendCause c v)
          | .error _ => s
        else
          match a.units[a.pos]? with
          | none => s
          | some u =>
            match s.tlbFind (.ctx ci k) sp (o.base + u.off) a.kind.writes false with
            | none => s
            | some (pa, key) =>
              let (s, a) := s.performUnit ci k a u pa key
              let a := { a with pos := a.pos + 1 }
              if a.finished then s.finishAcc ci k a else s.setFront ci k a

end Sys2Proof.Machine
end

