-- ==== Sys2Proof/Machine/PortWalk.lean ====
section
/-!
DEFINITION. The walks that a port's accesses need (R105, R108, R112), the translation faults they end in (R300), and
a port that performs all it can before a wait is checked (R271).
-/

namespace Sys2Proof.Machine

/-- What the access at the head of a port misses: the address to walk for, or the name of an object that
has no valid entry, and the access code of R71. -/
def State.portMiss (s : State) (ci k : Nat) : Option (Nat × Nat) :=
  match s.front ci k with
  | none => none
  | some (_, a) =>
    let acc := if a.kind.writes then 1 else 0
    if ((s.ctx ci k).status = .idle && s.outFaults.any (fun f => f.req = .ctx ci k)) || (a.checked && a.finished) then none
    else
      match s.object ci (s.spaceOf ci) a.cap.obj with
      | none => some (objFaultAddr a.cap.obj, acc)
      | some o =>
        match a.units[a.pos]? with
        | some u =>
          if !a.checked || (s.tlbFind (.ctx ci k) (s.spaceOf ci) (o.base + u.off) a.kind.writes false).isSome then none
          else some (o.base + u.off, acc)
        | none => none

/-- The access at the head of a port takes a translation fault (R75, R105, R108, R300, R353). -/
def State.portFault (s : State) (ci k addr acc : Nat) : State :=
  match s.front ci k with
  | none => s
  | some (_, a) =>
    let att := nextAttempt a.attempt
    let s := s.setFront ci k { a with attempt := att }
    let x := s.ctx ci k
    let sp := s.spaceOf ci
    let task := s.taskIdOf ci
    if x.status = .idle then
      let s := (s.faultRecord (.ctx ci k) sp att acc addr ci 0 k task).1
      if 8 ≤ att then (s.modTask task (fun t => { t with killed := true })).modCtx ci k (fun x => { x with port := [] })
      else s
    else if x.sr.xlvl = 2 then s.kill ci k 1 Cause.translation.code
    else
      let s := (s.faultRecord (.ctx ci k) sp att acc addr ci (x.sr.xlvl.toNat + 1) k task).1
      if 8 ≤ att then s.kill ci k 0 Cause.translation.code
      else (s.takeTrap ci k .translation (BitVec.ofNat 64 addr) 0 (s.ctx ci k).port).modCtx ci k (fun x => { x with port := [] })

/-- The address field of a fault on the object of the access at the head of a port (R105). -/
def State.frontFault (s : State) (ci k : Nat) : Nat :=
  match s.front ci k with
  | some (_, a) => objFaultAddr a.cap.obj
  | none => 0

/-- The walk of the access at the head of a port (R108, R109): it installs its leaf, or the access faults; one that
meets a page in motion goes on (R118). The machine, and whether the walk has ended. -/
def State.walkAccess (s : State) (ci k dva acc : Nat) : State × Bool :=
  let r : Requester := .ctx ci k
  if 2 ^ 63 ≤ dva then ((s.endWalk r).portFault ci k dva acc, true)
  else
    match s.walk r (s.spaceOf ci) dva (acc = 1) false acc with
    | (s, .installed) => (s.endWalk r, true)
    | (s, .faulted addr acc) => ((s.endWalk r).portFault ci k addr acc, true)
    | (s, .noSpace acc) => ((s.endWalk r).portFault ci k (s.frontFault ci k) acc, true)
    | (s, .waiting) => (s, false)

/-- A port performs what it can (R271, R297), until it is empty, its access faults, or its access waits for a walker, for a
page in motion or for a job. (DESIGN CHOICE, log 32.) -/
def State.settlePort (s : State) (ci k : Nat) : Nat → State
  | 0 => s
  | n + 1 =>
    let x := s.ctx ci k
    if x.port = [] || x.status = .parked || x.status = .idle then s
    else
      match s.portMiss ci k with
      | some (dva, acc) =>
        let s := s.askWalk (.ctx ci k) (s.spaceOf ci) dva (acc = 1) false
        if !s.walking (.ctx ci k) then s
        else match s.walkAccess ci k dva acc with
          | (t, true) => t.settlePort ci k n
          | (t, false) => t
      | none => (s.portStep ci k).settlePort ci k n

/-- The turns that a port's entries can take: two for each unit, and some for each entry. -/
def Ctx.portTurns (x : Ctx) : Nat :=
  (x.port.map (fun p => match p.item with
    | .acc a => 2 * a.units.length + 8192
    | _ => 1)).foldl (· + ·) 0

end Sys2Proof.Machine
end

