-- ==== Sys2Proof/Machine/Control.lean ====
section
/-!
DEFINITION. Control transfer, dimension variables and system registers (R349 to R353, R356 to R359).
-/

namespace Sys2Proof.Machine

/-- A control instruction in a template bundle (R264, R349): ENGINE_ERROR code 0x07 with the slot. -/
def Env.noTemplate (e : Env) : Except Stop Unit :=
  trapIf e.x.tmpl.isSome .engineError (0x07 * 8 + e.slot.num)

/-- The bundle after this one (R198). -/
def Pc.succ (p : Pc) : Pc := { p with idx := p.idx + 1 }

/-- The bundle in issue. -/
def Env.pc (e : Env) : Pc := e.s.iss.pc

/-- Transfer control at commit (R349). -/
def State.transfer (s : State) (p : Pc) : State := { s with iss := { s.iss with next := some p } }

/-- The bundle in issue returns from a trap level, exits, or starts a hardware loop. -/
def State.asReturn (s : State) : State := { s with iss := { s.iss with tret := true } }
@[inherit_doc State.asReturn] def State.asExit (s : State) : State := { s with iss := { s.iss with exit := true } }
@[inherit_doc State.asReturn] def State.asLoop (s : State) : State := { s with iss := { s.iss with looped := true } }

/-- A context with a new LOOPST (R351). -/
def Ctx.setLoop (x : Ctx) (w : Word) : Ctx := { x with sr := { x.sr with loopst := w } }

/-- Transfer to a bundle of the current edge. -/
def Env.jump (e : Env) (i : BitVec 10) : State := e.s.transfer { e.pc with idx := i }

def execBr (h : Hd) (f : BFmt) (s : State) : Out := runB .br .sc h f s (fun e => do
  e.noTemplate
  pure (e.jump f.tgt))
def execCall (h : Hd) (f : BFmt) (s : State) : Out := runB .call .sc h f s (fun e => do
  e.noTemplate
  let t ← e.retS 1 f.dst e.pc.succ.word
  pure (t.transfer { e.pc with idx := f.tgt }))
def execJr (h : Hd) (f : RFmt) (s : State) : Out := runR .jr .sc h f s (fun e => do
  e.noTemplate
  let a ← e.srcS f.sa
  pure (e.jump (a.extractLsb' 0 10)))

/-- LOOPST from its fields (R359). -/
def mkLoop (cnt : BitVec 32) (act : Bool) (lvl : BitVec 2) (edge : Bool) (last first : BitVec 10) : Word :=
  cnt ++ (0 : BitVec 8) ++ BitVec.ofBool act ++ lvl ++ BitVec.ofBool edge ++ last ++ first

def execLoop (h : Hd) (f : BFmt) (s : State) : Out := runB .loop .sc h f s (fun e => do
  e.noTemplate
  let a ← e.srcS f.sa
  let n : BitVec 32 := a.extractLsb' 0 32
  if n = 0 then pure (e.jump (f.tgt + 1))
  else
    let st := mkLoop n true e.x.sr.xlvl e.pc.edge f.tgt (e.pc.idx + 1)
    pure (((e.s.modCtx e.ci e.k (fun x => x.setLoop st)).asLoop).transfer e.pc.succ))
def execEdge (h : Hd) (f : BFmt) (s : State) : Out := runB .edge .sc h f s (fun e => do
  e.noTemplate
  pure (e.s.transfer ⟨!e.pc.edge, f.tgt⟩))
def execBkj (h : Hd) (f : RFmt) (s : State) : Out := runR .bkj .sc h f s (fun e => do
  e.noTemplate
  let b ← e.srcS f.sa
  let d := e.x.sr.dispt
  pure (if b.toNat ≤ fld d 20 3 then e.jump (BitVec.ofNat 10 (fld d 0 10 + b.toNat * fld d 10 10)) else e.s))
def execTrap (h : Hd) (f : RFmt) (s : State) : Out := runR .trap .sc h f s (fun e => do
  e.noTemplate
  pure (e.s.modCtx e.ci e.k (fun x => x.pendCause .trapInstruction (f.imm.setWidth 64))))
/-- Whether every access and command of earlier bundles has left the port and every load has returned
(R297). -/
def Ctx.quietBefore (x : Ctx) : Bool :=
  x.port.all (fun p => p.bseq = x.seq) && x.pend.all (fun p => !p.load || p.bseq = x.seq)

def execTret (h : Hd) (f : RFmt) (s : State) : Out := runR .tret .sc h f s (fun e => do
  e.blockIf (!e.x.quietBefore) 1
  e.noTemplate
  trapIf (e.x.sr.xlvl = 0) .illegalOpcode (0x3A + e.h.fmt.toNat * 2 ^ 8 + e.slot.num * 2 ^ 12)
  pure (e.s.trapReturn e.ci e.k).asReturn)
def execExit (h : Hd) (f : RFmt) (s : State) : Out := runR .exit .sc h f s (fun e => do
  e.noTemplate
  pure (e.s.exitCtx e.ci e.k).asExit)

/-- A binding or an explicit write of a dimension variable (R210, R356). -/
def boundDim (v : Nat) : Row := BitVec.ofNat 1024 (2 ^ 23 + v)

/-- DSET and DSETI: a value outside 1 to 8,388,607 faults (R356). -/
def Env.setDim (e : Env) (d : BitVec 9) (v : Nat) : Except Stop State := do
  stopIf (v = 0 || 0x7FFFFF < v) (.trap .shapeFault
    (BitVec.ofNat 64 (min v 0xFFFFFF * 2 ^ 36 + 0x7FFFFF * 2 ^ 12 + 4 * 2 ^ 8 + 4)))
  e.ret 1 .d d (boundDim v)

def execDset (h : Hd) (f : RFmt) (s : State) : Out := runR .dset .sc h f s (fun e => do
  let a ← e.srcS f.sa
  e.setDim f.dst a.toNat)
def execDseti (h : Hd) (f : IFmt) (s : State) : Out := runI .dseti .sc h f s (fun e => e.setDim f.dst f.imm.toNat)
def execDget (h : Hd) (f : RFmt) (s : State) : Out := runR .dget .sc h f s (fun e =>
  e.retS 1 f.dst ((e.x.dReg f.sa.toNat).setWidth 64))
def execDunb (h : Hd) (f : RFmt) (s : State) : Out := runR .dunb .sc h f s (fun e => e.ret 1 .d f.dst 0)

/-- RKSTk (R194). -/
def Rink.word (r : Rink) : Word :=
  BitVec.ofNat 64 ((if r.defd then 2 ^ 63 else 0) + (if r.src then 2 ^ 62 else 0) + r.head % 256 * 2 ^ 54 +
    r.base % 2 ^ 11 * 2 ^ 43 + r.slots % 512 * 2 ^ 34 + r.free % 512 * 2 ^ 25 + r.filled % 512 * 2 ^ 16 +
    r.infl % 512 * 2 ^ 7)

/-- LBST (R196). -/
def Core.lbst (c : Core) : Word :=
  BitVec.ofNat 64 (digits 2 ((List.range 16).map (fun i => match (SMap.get LoadBlock.init c.lbs i).st with
    | .free => 0
    | .filling => 1
    | .pinned => 2
    | .nopin => 3)))

/-- SPEED (R20). -/
def State.speedWord (s : State) (ci : Nat) : Word :=
  BitVec.ofNat 64 (s.weight ci * 2 ^ 32 + s.fcur ci * 2 ^ 16 + fmax ci)

/-- A word system register of context `k` of core `ci` (R358). -/
def State.sysWord (s : State) (c : Core) (x : Ctx) (ci k n : Nat) : Word :=
  let r := x.sr
  match n with
  | 0x000 => r.fpcsr
  | 0x001 => r.arithx
  | 0x002 => BitVec.ofNat 64 s.tick
  | 0x003 => s.speedWord ci
  | 0x004 => BitVec.ofNat 64 k
  | 0x005 => BitVec.ofNat 64 ci
  | 0x006 => BitVec.ofNat 64 (ci / 16 % 16)
  | 0x007 => BitVec.ofNat 64 (ci / 256)
  | 0x008 => s.modnum.setWidth 64
  | 0x009 => r.dmr
  | 0x00A => r.dfbase
  | 0x00B => r.dflen
  | 0x00C => r.slr
  | 0x00D => r.rdepth
  | 0x00E => r.mcap
  | 0x00F => r.dispt
  | 0x010 => r.loopst
  | 0x011 => r.cestat
  | 0x012 => r.mestat
  | 0x013 => c.lbst
  | 0x020 => r.xlvl.setWidth 64
  | 0x021 => r.x1.cause
  | 0x022 => r.x2.cause
  | 0x023 => r.x1.pc
  | 0x024 => r.x2.pc
  | 0x025 => r.x1.val
  | 0x026 => r.x2.val
  | 0x027 => r.x1.mask
  | 0x028 => r.x2.mask
  | 0x029 => r.x1.vec
  | 0x02A => r.x2.vec
  | 0x02B => r.lastcut
  | _ => if 0x18 ≤ n && n < 0x20 then (c.rink (n - 0x18)).word else 0

/-- A word system register as it reads at issue. -/
def Env.sysRead (e : Env) (n : Nat) : Word := e.s.sysWord e.core e.x e.ci e.k n

/-- The bits of a word system register that a move writes; 0 where a write is ignored (R6, R224,
R291, R359). -/
def sysWritable (n : Nat) : Word :=
  match n with
  | 0x000 => 0x61F7F
  | 0x001 => 0x3
  | 0x009 => 0xFF7777
  | 0x00C => 0xFFFFFFFF
  | 0x00D => 0xF
  | 0x00E => 0xFFFF
  | 0x00F => 0x7FFFFF
  | 0x010 => 0xFFFFFFFF00FFFFFF
  | 0x021 | 0x022 | 0x027 | 0x028 => 0xFF
  | 0x023 | 0x024 => 0x7FF
  | 0x025 | 0x026 => 0xFFFFFFFFFFFFFFFF
  | 0x029 | 0x02A => 0xFFF
  | _ => 0

/-- Whether a written value leaves the register unchanged: RDEPTH outside 1 to 8 (R359). -/
def sysRefused (n : Nat) (v : Word) : Bool := n = 0x00D && !(1 ≤ fld v 0 4 && fld v 0 4 ≤ 8)

/-- The system-register number in IMM29[11:0] (R357). -/
def sysNum (f : IFmt) : Nat := f.imm.toNat % 2 ^ 12

def execMfsr (h : Hd) (f : IFmt) (s : State) : Out := runI .mfsr .sc h f s (fun e =>
  e.retS 1 f.dst (e.sysRead (sysNum f)))
def execMtsr (h : Hd) (f : IFmt) (s : State) : Out := runI .mtsr .sc h f s (fun e => do
  let a ← e.srcS f.sa
  let n := sysNum f
  pure (if sysWritable n = 0 || sysRefused n a then e.s else e.effect 1 (.sys n (a &&& sysWritable n))))

/-- A capability system register (R291, R358). -/
def SysRegs.readCap (r : SysRegs) (n : Nat) : Cap :=
  match n with
  | 0x030 => r.xsave
  | 0x031 => r.x1.as
  | _ => r.x2.as

def execMfsrc (h : Hd) (f : IFmt) (s : State) : Out := runI .mfsrc .sc h f s (fun e =>
  e.retA 1 f.dst (e.x.sr.readCap (sysNum f)))
def execMtsrc (h : Hd) (f : IFmt) (s : State) : Out := runI .mtsrc .sc h f s (fun e => do
  let a ← e.srcA f.sa
  pure (e.effect 1 (.csys (sysNum f) a)))

end Sys2Proof.Machine
end

