-- ==== Sys2Proof/Machine/Matrix.lean ====
section
/-!
DEFINITION. The matrix instructions: the matrix nest table (R392), matrix jobs (R393 to R397),
accumulator access (R398, R399), step mode (R260, R261, R400 to R402) and the start of template mode
(R262).
-/

namespace Sys2Proof.Machine

def execMtw (h : Hd) (f : RFmt) (s : State) : Out := runR .mtw .mt h f s (fun e => do
  let a ← e.srcS f.sa
  pure (e.s.modCtx e.ci e.k (fun x => { x with mtab := tabWrite x.mtab (f.imm.toNat % 16) a (BitVec.allOnes 64) })))

/-- The write of MTWI and CTWI: word, value in place, mask (R392). -/
def halfWrite (f : LFmt) : Nat × Word × Word :=
  let sh := if f.imm.getLsbD 33 then 32 else 0
  (bits f.imm.toNat 34 4, (f.imm.extractLsb' 0 32).setWidth 64 <<< sh, (0xFFFFFFFF : Word) <<< sh)

def execMtwi (h : Hd) (f : LFmt) (s : State) : Out := runL .mtwi .mt h f s (fun e =>
  let (w, v, m) := halfWrite f
  pure (e.s.modCtx e.ci e.k (fun x => { x with mtab := tabWrite x.mtab w v m })))
def execMtr (h : Hd) (f : RFmt) (s : State) : Out := runR .mtr .mt h f s (fun e =>
  e.retS 1 f.dst (tabWord e.x.mtab (f.imm.toNat % 16)))

/-- The formats of the matrix group of a format (R394). -/
def matGroup (f : Nat) : List Nat :=
  if f = 2 then [2] else if f = 3 then [3] else if f = 4 || f = 5 then [4, 5] else if f = 9 then [9] else [6, 7, 8]

/-- The scale codes that a matrix operand may carry: `code` is its scale code, 5 for A and 6 for B,
and `scaled` says whether a scale operand is read (R394). -/
def matScale (f code : Nat) (scaled : Bool) : Cell :=
  if isBx f then .oneOf [code] else if scaled && isScaled f then .oneOf [0, code] else .oneOf [0]

/-- The typing of A, B and C (R394). -/
def Env.matType (e : Env) (a b c : Quad) (scaled : Bool) : Except Stop Uni :=
  e.unify [
    ⟨0, a, .oneOf [2], .oneOf [2, 3, 4, 5, 6, 7, 8, 9], .oneOf [2, 4, 5], matScale (twFmt a) 5 scaled, [.sym 0, .sym 1]⟩,
    ⟨1, b, .oneOf [2], .oneOf (matGroup (twFmt a)), .oneOf [3, 4, 5], matScale (twFmt b) 6 scaled, [.sym 1, .sym 2]⟩,
    ⟨2, c, .oneOf [2], .oneOf [1], .oneOf [0], .oneOf [0], [.sym 0, .sym 2]⟩]

/-- The storage of A, B and C (R394). -/
def Env.matStore (e : Env) (u : Uni) (a b c : TileReg) : Except Stop (TileOp × TileOp × TileOp) := do
  e.constant [(0, a.tw), (1, b.tw), (2, c.tw)] u
  let x ← e.dataTile 0 .jobSrc (e.resolved u a.tw) a.desc
  let y ← e.dataTile 1 .jobSrc (e.resolved u b.tw) b.desc
  let z ← e.acmTile 2 (e.resolved u c.tw) c.desc
  pure (x, y, z)

def execMmul (h : Hd) (f : RFmt) (s : State) : Out := runR .mmul .mt h f s (fun e => do
  e.blockIf e.matrixFull 3
  let a := e.srcT f.sa
  let b := e.srcT f.sb
  let c := e.srcT f.sc
  let u ← e.matType a.tw b.tw c.tw false
  let (x, y, z) ← e.matStore u a b c
  let t := e.retT (e.bind u e.s) f.dst z.tw c.desc
  pure (e.issue t (e.job (.matmul x y z) (engFlag f.imm) none (e.tileRegion x ++ e.tileRegion y) (e.tileRegion z))))

/-- The atom of a pair of formats: that of the wider of the two (R255). -/
def atomOf (a b : Nat) : Nat × Nat :=
  let one (f : Nat) : Nat × Nat :=
    if f = 2 || f = 3 then (16, 8) else if f = 7 then (32, 16) else if f = 6 then (32, 32) else (16, 16)
  if (one a).1 * (one a).2 ≤ (one b).1 * (one b).2 then one a else one b

/-- The bytes of the scale operand that one iteration reads from addr(3) (R258): none where neither
operand is scaled. -/
def scaleSpan (a b : Quad) : Nat :=
  let kb := ceilDiv ((twExts a).getD 1 0) 16
  let sa := (twExts a).getD 0 0 * kb
  let ext (t : Quad) : Bool := !isBx (twFmt t) && twScale t ≠ 0
  if ext b then ceilDiv sa 128 * 128 + (twExts b).getD 1 0 * kb else if ext a then sa else 0

/-- The scale operand of nest mode over the range that stream 3 reaches, with its region (R396). -/
def Env.nestScale (e : Env) (fmt areg : Nat) (a b : Quad) : Except Stop (Option CpOperand × List Region) := do
  let (lo, hi) := nestReach e.x.mtab e.x.sr.slr 3
  let n := if nestIters e.x.mtab e.x.sr.slr = 0 || scaleSpan a b = 0 then 0 else (hi - lo).toNat + scaleSpan a b
  match fmt with
  | 1 =>
    let c := e.x.aReg areg
    e.engCap areg c rR (c.off + lo) n
    pure (some (.mem c), e.memRegion c (c.off + lo) n)
  | 2 =>
    stopIf (n ≠ 0 && (lo < 0 || (e.x.dflen * 128 : Nat) < lo + n)) (engineErr 5 0)
    let r := e.x.dfbase
    pure (some (.deep r), if n = 0 then [] else [.rows (r + lo.toNat / 128) (r + ceilDiv (lo.toNat + n) 128)])
  | _ => pure (none, [])

/-- MGO in nest mode (R396): FMT 0, 1 or 2. -/
def execMgo (h : Hd) (f : RFmt) (s : State) : Out := runR .mgo .mt h f s (fun e => do
  let fmt := e.h.fmt.toNat
  let a := e.srcT f.sa
  let b := e.srcT f.sb
  let c := e.srcT f.sc
  e.asked (e.matType a.tw b.tw c.tw (fmt ≠ 0))
  e.blockIf e.matrixFull 3
  e.noTemplate
  stopIf (nestBad .matrix e.x.mtab) (engineErr 4 1)
  let u ← e.matType a.tw b.tw c.tw (fmt ≠ 0)
  let (x, y, z) ← e.matStore u a b c
  let (sc, rs) ← e.nestScale fmt (bits f.imm.toNat 6 5) x.tw y.tw
  let j := e.job (.nest e.x.mtab e.x.sr.slr x y z sc) (engFlag f.imm) none
    (e.tileRegion x ++ e.tileRegion y ++ rs) (e.tileRegion z)
  pure (e.issue (e.bind u e.s) j))

/-- The stream registers of a template iteration (R262): they are written in the cycle after the bundle before it, the
core's `cycle`, behind every result of that bundle that lands then (R264). -/
def Ctx.streams (x : Ctx) (cycle : Nat) (t : Template) : Ctx :=
  { x with flight := x.flight ++ (List.range 4).map (fun i =>
    { slot := .mt
      seq := cycle + 1
      due := cycle + 1
      w := true
      latch := false
      lval := 0
      ltag := false
      pay := .reg .s (nTsreg t.tab + i) ((word (nestAddr t.tab t.slr t.iter i)).setWidth 1024) allBytes
      flags := 0
      replay := true
      det := false }) }

/-- MGO in template mode (R262): the first bundle of the first iteration is next, before which the stream registers are
written (`Ctx.advance`); a nest with no iteration goes on at once. -/
def execMgoTm (h : Hd) (f : RFmt) (s : State) : Out := runR .mgoTm .mt h f s (fun e => do
  e.noTemplate
  stopIf (nestBad .template e.x.mtab) (engineErr 4 1)
  if nestIters e.x.mtab e.x.sr.slr = 0 then pure e.s
  else
    let t : Template := ⟨e.pc.succ, e.pc.edge, e.x.mtab, e.x.sr.slr, 0, 0⟩
    pure (e.s.modCtx e.ci e.k (fun x => { x with tmpl := some t })))

/-- MEPI and MEPIQ (R397). -/
def Env.epilogue (e : Env) (f : RFmt) (quant : Bool) : Except Stop State := do
  e.blockIf e.matrixFull 3
  let al ← e.srcS f.sb
  let be := f.imm.getLsbD 10
  let c := e.srcT f.sa
  let d := e.srcT f.dst
  let b := e.srcT f.sc
  let fl : Cell := if quant then .oneOf [6, 7, 8] else .oneOf [1, 2, 3, 4, 5]
  let ll : Cell := if quant then .oneOf [0, 1] else .oneOf [0, 1, 2, 3, 4, 5]
  let sl : Cell := if quant then .oneOf [if twLay d.tw = 1 then 6 else 5] else .oneOf [0]
  let rb : List TRow := if be then [⟨2, b.tw, .oneOf [1], .oneOf [1], .oneOf [0], .oneOf [0], [.sym 1]⟩] else []
  let u ← e.unify ([⟨0, c.tw, .oneOf [2], .oneOf [1], .oneOf [0], .oneOf [0], [.sym 0, .sym 1]⟩] ++ rb ++
    [⟨4, d.tw, .oneOf [2], fl, ll, sl, [.sym 0, .sym 1]⟩])
  e.constant ([(0, c.tw)] ++ (if be then [(2, b.tw)] else []) ++ [(4, d.tw)]) u
  let x ← e.acmTile 0 (e.resolved u c.tw) c.desc
  let y ← if be then (e.dataTile 2 .jobSrc (e.resolved u b.tw) b.desc).map some else pure none
  let z ← e.storage 4 .jobDst (e.resolved u d.tw) d.desc
  let clear := e.h.fmt.getLsbD 1
  let kind : JobKind := .epilogue x z y (al.extractLsb' 0 32) (e.h.fmt.getLsbD 0) clear
    (BitVec.ofNat 2 (e.mode (bits f.imm.toNat 6 3))) (f.imm.getLsbD 9) quant
  let t := e.retT (e.bind u e.s) f.dst z.tw d.desc
  pure (e.issue t (e.job kind (engFlag f.imm) none
    (e.tileRegion x ++ ((y.map e.tileRegion).getD []))
    (e.tileRegion z ++ (if clear then e.tileRegion x else []))))

def execMepi (h : Hd) (f : RFmt) (s : State) : Out := runR .mepi .mt h f s (fun e => e.epilogue f false)
def execMepiq (h : Hd) (f : RFmt) (s : State) : Out := runR .mepiq .mt h f s (fun e => e.epilogue f true)

/-- The base and the entries of a matrix job's C; an epilogue's destination is not its C (R259, R397). -/
def JobKind.accTile : JobKind → Option (Nat × Nat)
  | .matmul _ _ c | .nest _ _ _ _ c _ | .epilogue c _ _ _ _ _ _ _ _ => some (dBase c.desc, prod (twExts c.tw))
  | _ => none
/-- Whether access to ACM entries must wait for a job: a live matrix job's C (R259, R398). -/
def Env.acmHeld (e : Env) (es : List Nat) : Bool :=
  e.holders.any (fun j => match j.kind.accTile with
    | some (b, n) => es.any (fun x => b ≤ x && x < b + n)
    | none => false)

/-- An ACM tile that MACLR, MARD, MAWR or MSCL names: its base and its entries (R398). -/
def Env.acmOf (e : Env) (f : BitVec 9) (exts : List ECell) : Except Stop (Uni × Nat × List Nat) := do
  let a := e.srcT f
  let u ← e.unify [⟨0, a.tw, .oneOf [2], .oneOf [1], .oneOf [0], .oneOf [0], exts⟩]
  e.constant [(0, a.tw)] u
  let t ← e.acmTile 0 (e.resolved u a.tw) a.desc
  pure (u, dBase t.desc, twExts t.tw)

/-- An uncorrectable error in an ACM entry that a bundle reads (R22, R294). -/
def Env.acmEcc (e : Env) (es : List Nat) : Except Stop Unit :=
  match es.find? (fun n => e.core.eccAcm.contains n) with
  | some n => .error (.trap .eccUncorrectable (BitVec.ofNat 64 (2 * 2 ^ 60 + n)))
  | none => .ok ()

/-- Matrix writes to ACM: at latency `lat`, one more where that falls in an odd core cycle (R251,
R399). They are never replayed. -/
def Env.acmWrite (e : Env) (s : State) (lat : Nat) (ws : List (Nat × BitVec 32)) : State :=
  s.fly e.ci e.k { e.result (lat + (e.core.cycle + lat) % 2) 0 false (.acm ws) 0 with
    w := true, latch := false, replay := false }

/-- The first entry index of MARD and MAWR against the tile's count (R398). -/
def Env.acmFirst (e : Env) (w : Word) (cnt : Nat) : Except Stop Nat := do
  let n := fld w 0 32
  stopIf (cnt ≤ n) (shapeFault e.slot.num 8 0 false cnt n)
  pure n

def execMaclr (h : Hd) (f : RFmt) (s : State) : Out := runR .maclr .mt h f s (fun e => do
  let (u, base, ex) ← e.acmOf f.sa []
  let es := (List.range (prod ex)).map (base + ·)
  e.blockIf (e.acmHeld es) 4
  pure (e.acmWrite (e.bind u e.s) 2 (es.map (fun n => (n, 0)))))
def execMard (h : Hd) (f : RFmt) (s : State) : Out := runR .mard .mt h f s (fun e => do
  let b ← e.srcS f.sb
  let (u, base, ex) ← e.acmOf f.sa []
  let n ← e.acmFirst b (prod ex)
  let es := (List.range (min 32 (prod ex - n))).map (base + n + ·)
  e.blockIf (e.acmHeld es) 4
  e.acmEcc es
  let t := e.bind u e.s
  { e with s := t }.retV 2 f.dst (rowOf 32 (es.map (fun i => (e.core.acmAt i).toNat))))
def execMawr (h : Hd) (f : RFmt) (s : State) : Out := runR .mawr .mt h f s (fun e => do
  let v ← e.srcV f.sb
  let c ← e.srcS f.sc
  let (u, base, ex) ← e.acmOf f.sa []
  let n ← e.acmFirst c (prod ex)
  let is := List.range (min 32 (prod ex - n))
  e.blockIf (e.acmHeld (is.map (base + n + ·))) 4
  pure (e.acmWrite (e.bind u e.s) 2 (is.map (fun i => (base + n + i, BitVec.ofNat 32 (lane v 32 i))))))

/-- A storage unit of a deep-file tile as its row holds it. -/
def Env.deepUnit (e : Env) (t : TileOp) (ix : List Nat) : Nat :=
  let (p, _) := unitPos t.tw (twExts t.tw) 0 ix
  bits (e.core.row (e.x.dfbase + dRow t.desc + p / 128)).toNat (8 * (p % 128)) (8 * unitSize (twFmt t.tw))

/-- The deep-file row that an element lies in. -/
def Env.deepRow (e : Env) (t : TileOp) (ix : List Nat) : Nat :=
  e.x.dfbase + dRow t.desc + (unitPos t.tw (twExts t.tw) 0 ix).1 / 128

/-- A term of step mode (R237), from the units that hold the two elements and the element's place in
its block. -/
def stepTerm (fa fb ua ub k : Nat) : Int :=
  if isBx fa then
    let (x, sx) := bxElem (bxM fa) ua (k % 16)
    let (y, sy) := bxElem (bxM fb) ub (k % 16)
    x * y * (2 ^ (6 - sx - sy) : Nat)
  else toS 8 ua * toS 8 ub

/-- A tile of step mode, which must lie in the deep file (R400). -/
def Env.stepTile (e : Env) (opnd : Nat) (t : Quad) (d : Word) : Except Stop TileOp :=
  if dKind d = 1 then e.storage opnd .jobSrc t d
  else .error (shapeFault e.slot.num 8 opnd false (imageRows t (twExts t)) 0)

/-- The shared exponent of a block; where the k-block lies beyond K there is no block, and its exponent
is a free value (R400). (DESIGN CHOICE, log 44.) -/
def Env.blockExp (e : Env) (side n : Nat) (u : Option Nat) : Nat :=
  match u with
  | some b => bits b 0 8
  | none => Config.freeNat (Nat.pair (2 * e.s.fresh + side) n) % 255

/-- MSTEP (R400): sixteen terms for each entry of the atom, which land six cycles on. -/
def execMstep (h : Hd) (f : RFmt) (s : State) : Out := runR .mstep .mt h f s (fun e => do
  let ix ← e.srcS f.sc
  let ra := e.srcT f.sa
  let rb := e.srcT f.sb
  let group := if twFmt ra.tw = 9 then [9] else [6, 7, 8]
  let u ← e.unify [
    ⟨0, ra.tw, .oneOf [2], .oneOf [6, 7, 8, 9], .oneOf [2], matScale (twFmt ra.tw) 5 true, [.sym 0, .sym 1]⟩,
    ⟨1, rb.tw, .oneOf [2], .oneOf group, .oneOf [3], matScale (twFmt rb.tw) 6 true, [.sym 1, .sym 2]⟩]
  e.constant [(0, ra.tw), (1, rb.tw)] u
  let a ← e.stepTile 0 (e.resolved u ra.tw) ra.desc
  let b ← e.stepTile 1 (e.resolved u rb.tw) rb.desc
  let fa := twFmt a.tw
  let fb := twFmt b.tw
  let (atm, atn) := atomOf fa fb
  let mm := (twExts a.tw).getD 0 0
  let kk := (twExts a.tw).getD 1 0
  let nn := (twExts b.tw).getD 1 0
  let ma := fld ix 0 16
  let na := fld ix 16 16
  let kb := fld ix 32 16
  let ms := (List.range atm).filter (fun i => ma * atm + i < mm)
  let ns := (List.range atn).filter (fun j => na * atn + j < nn)
  let ks := ((List.range 16).map (16 * kb + ·)).filter (· < kk)
  let rows := distinct (ks.flatMap (fun k => ms.map (fun i => e.deepRow a [ma * atm + i, k]) ++
    ns.map (fun j => e.deepRow b [k, na * atn + j])))
  e.rowCheck rows []
  let ij := ms.flatMap (fun i => ns.map (fun j => (i, j)))
  let at0 (l : List Nat) (g : Nat → Nat) : Option Nat := l.head?.map g
  let ua (i : Nat) : Option Nat := at0 ks (fun k => e.deepUnit a [ma * atm + i, k])
  let ub (j : Nat) : Option Nat := at0 ks (fun k => e.deepUnit b [k, na * atn + j])
  let bx := isBx fa
  let nan (o : Option Nat) : Bool := bx && (o.map (fun x => bits x 0 8)).getD 0 = 255
  let xs (i j : Nat) : Int := (e.blockExp 0 i (ua i) : Int) + e.blockExp 1 j (ub j) - 260
  let rcd : StepRec :=
    { ma := ma
      na := na
      atm := atm
      atn := atn
      m := mm
      n := nn
      bx := bx
      xs := if bx then ij.map (fun (i, j) => (i * 32 + j, xs i j)) else [] }
  let terms := ij.map (fun (i, j) => (i * 32 + j, ks.map (fun k =>
    stepTerm fa fb (e.deepUnit a [ma * atm + i, k]) (e.deepUnit b [k, na * atn + j]) k)))
  let nans := (ij.filter (fun (i, j) => nan (ua i) || nan (ub j))).map (fun (i, j) => i * 32 + j)
  let t := ((e.bind u e.s).modCtx e.ci e.k (fun x => { x with sinceStep := some 0, owed := x.owed ++ [0] }))
  pure (t.fly e.ci e.k { e.result 6 0 false (.terms rcd terms nans) 0 with w := true, latch := false }))

/-- The bundles since the latest MSTEP, as SCHEDULE_VIOLATION reports them (R261). -/
def Ctx.stepCount (x : Ctx) : Nat := min (x.sinceStep.getD 0xFFFF) 0xFFFF

/-- The promotion exponent of an entry, or none where its scales make it NaN (R401). -/
def promoteExp (r : StepRec) (us : Bool) (v : Row) (i j : Nat) : Option Int :=
  if r.bx then some (SMap.get 0 r.xs (i * 32 + j))
  else if !us then some 0
  else
    let a := lane v 8 i
    let b := lane v 8 (64 + j)
    if a = 255 || b = 255 then none else some ((a : Int) + b - 254)

/-- MSCL (R401): the sixth bundle after an MSTEP promotes the inner array into ACM. -/
def execMscl (h : Hd) (f : RFmt) (s : State) : Out := runR .mscl .mt h f s (fun e => do
  let us := f.imm.getLsbD 0
  e.asked (match e.x.stepRec with
    | some r => (e.acmOf f.sa [.lit r.m, .lit r.n]).map (·.1)
    | none => .ok Uni.empty)
  trapIf (!e.x.owed.contains 6) .scheduleViolation e.x.stepCount
  let v ← if us then e.srcV f.sb else pure 0
  match e.x.stepRec with
  | none => .error (.trap .scheduleViolation (BitVec.ofNat 64 e.x.stepCount))
  | some r =>
    let (u, base, ex) ← e.acmOf f.sa [.lit r.m, .lit r.n]
    let w := ex.getD 1 0
    let ij := (List.range r.atm).flatMap (fun i => (List.range r.atn).map (fun j => (i, j)))
    let ij := ij.filter (fun (i, j) => r.ma * r.atm + i < r.m && r.na * r.atn + j < r.n)
    let entry (i j : Nat) : Nat := base + (r.ma * r.atm + i) * w + (r.na * r.atn + j)
    trapIf (e.acmHeld (ij.map (fun (i, j) => entry i j))) .scheduleViolation 6
    e.acmEcc (ij.map (fun (i, j) => entry i j))
    let ws := ij.map (fun (i, j) =>
      let c := i * 32 + j
      let val : Nat := match promoteExp r us v i j, SMap.get false e.x.innerNan c with
        | some x, false => (fAdd fp32 0 (unpack fp32 (e.core.acmAt (entry i j)).toNat)
            (FV.ofInt false (SMap.get 0 e.x.inner c) x)).1
        | _, _ => fp32.qnan
      (entry i j, BitVec.ofNat 32 val))
    let t := (e.bind u e.s).modCtx e.ci e.k (fun x => { x with
      inner := []
      innerNan := []
      owed := x.owed.erase 6 })
    pure (e.acmWrite t 4 ws))

def execMstz (h : Hd) (f : RFmt) (s : State) : Out := runR .mstz .mt h f s (fun e =>
  pure (e.effect 1 .clearInner))

end Sys2Proof.Machine
end

