-- ==== Sys2Proof/Machine/Trans.lean ====
section
/-!
DEFINITION. The transcendental functions (R367), correctly rounded: each is evaluated in fixed point
with 800 bits after the point, by series whose error lies below the last sixteen of them, and rounded
once. A result that is exact is found as such first; every other one is inexact.
-/

namespace Sys2Proof.Machine

/-- Bits after the point. (DEDUCED, log 43.) -/
def fxP : Nat := 800
/-- One in fixed point. -/
def fxOne : Int := (2 ^ fxP : Nat)
/-- Product in fixed point. -/
def fxMul (a b : Int) : Int := a * b / fxOne
/-- Quotient in fixed point. -/
def fxDiv (a b : Int) : Int := a * fxOne / b

/-- Σ x^(2j+1) s^j / (2j+1) from power `t` and odd divisor `d`: the inverse tangent of 1/n for
s = −1, its hyperbolic form for s = +1, with `sq` = n². -/
def atanGo (alt : Bool) (sq : Int) : Nat → Int → Int → Int
  | 0, _, _ => 0
  | n + 1, t, d => t / d + (if alt then -1 else 1) * atanGo alt sq n (t / sq) (d + 2)

/-- π with `p` bits after the point. -/
def piBits (p : Nat) : Int :=
  let one : Int := (2 ^ p : Nat)
  16 * atanGo true 25 (p / 4 + 8) (one / 5) 1 - 4 * atanGo true 57121 (p / 15 + 8) (one / 239) 1

/-- ln 2. -/
def fxLn2 : Int := 2 * atanGo false 9 (fxP / 3 + 8) (fxOne / 3) 1

/-- Σ x^k / k! from term `t`, index k. -/
def expGo (x : Int) : Nat → Int → Int → Int
  | 0, _, _ => 0
  | n + 1, t, k => t + expGo x n (fxMul t x / (k + 1)) (k + 1)
/-- e^x for x from 0 to 1. -/
def fxExp1 (x : Int) : Int := expGo x 200 fxOne 0
/-- 2^f for f from 0 to 1. -/
def fxExp2 (f : Int) : Int := fxExp1 (fxMul f fxLn2)
/-- e^(−x) for x ≥ 0. -/
def fxExpNeg (x : Int) : Int :=
  let y := fxDiv x fxLn2
  let i := y / fxOne
  let f := y % fxOne
  fxOne * fxOne / fxExp2 f / (2 ^ i.toNat : Nat)

/-- Σ of a sine or cosine series from term `t`, with divisors k(k+1), (k+2)(k+3), … -/
def trigGo (sq : Int) : Nat → Int → Int → Int
  | 0, _, _ => 0
  | n + 1, t, k => t + trigGo sq n (-(fxMul t sq) / (k * (k + 1))) (k + 2)
/-- The sine and the cosine of r from 0 to π/2. -/
def fxSin (r : Int) : Int := trigGo (fxMul r r) 140 r 2
@[inherit_doc fxSin] def fxCos (r : Int) : Int := trigGo (fxMul r r) 140 fxOne 1

/-- Σ u^(2j+1) / (2j+1) from power `t`. -/
def atanhGo (sq : Int) : Nat → Int → Int → Int
  | 0, _, _ => 0
  | n + 1, t, d => t / d + atanhGo sq n (fxMul t sq) (d + 2)
/-- log2 of t from 1 to 2. -/
def fxLog2 (t : Int) : Int :=
  let u := fxDiv (t - fxOne) (t + fxOne)
  fxDiv (2 * atanhGo (fxMul u u) 270 u 1) fxLn2

/-- Σ (−1)^n x^(2n+1) / (n! (2n+1)) from power `t` over n!. -/
def erfGo (sq : Int) : Nat → Int → Int → Int
  | 0, _, _ => 0
  | c + 1, t, n => t / (2 * n + 1) + erfGo sq c (-(fxMul t sq) / (n + 1)) (n + 1)
/-- erf x for x from 0 to 6. -/
def fxErf (x : Int) : Int :=
  let rootPi : Int := isqrt ((piBits (2 * fxP)).toNat)
  fxDiv (2 * erfGo (fxMul x x) 440 x 0) rootPi

/-- m × 2^e in fixed point; exact for every format. -/
def toFx (m : Nat) (e : Int) : Int := (m * pow2 (e + fxP) : Nat) / (pow2 (-(e + fxP)) : Nat)

/-- A fixed-point number rounded as an inexact result. -/
def ofFx (f : FFmt) (mode : Nat) (v : Int) : Nat × Fl := roundMag f mode false (v < 0) v.natAbs (-fxP) true

/-- A value just above zero, and one just below one, rounded as inexact results. -/
def tiny (f : FFmt) (mode : Nat) (neg : Bool) : Nat × Fl := roundMag f mode false neg 1 (-500) true
@[inherit_doc tiny] def belowOne (f : FFmt) (mode : Nat) (neg : Bool) : Nat × Fl :=
  roundMag f mode false neg (2 ^ 500 - 1) (-500) true

/-- The value one. -/
def one (f : FFmt) (neg : Bool) : Nat × Fl := roundTo f 0 false (.fin neg 1 0)

/-- Whether a magnitude is at least 2^k. -/
def atLeast (m : Nat) (e k : Int) : Bool := cmpMag m e 1 k != .lt

/-- 2^a of a finite value (R367). -/
def exp2V (f : FFmt) (mode : Nat) (neg : Bool) (m : Nat) (e : Int) : Nat × Fl :=
  if m = 0 then one f false
  else if atLeast m e 9 then
    if neg then tiny f mode false else roundMag f mode false false 1 512 true
  else
    let a := (if neg then -1 else 1) * toFx m e
    let i := a / fxOne
    let fr := a % fxOne
    if fr = 0 then roundMag f mode false false 1 i false
    else roundMag f mode false false (fxExp2 fr).toNat (i - fxP) true

/-- log2 of a finite value. -/
def log2V (f : FFmt) (mode : Nat) (neg : Bool) (m : Nat) (e : Int) : Nat × Fl :=
  if m = 0 then (f.infBits true, Fl.dz)
  else if neg then (f.qnan, Fl.nv)
  else
    let k := Nat.log2 m
    let i : Int := k + e
    if m = 2 ^ k then roundMag f mode false (i < 0) i.natAbs 0 false
    else ofFx f mode (i * fxOne + fxLog2 (toFx m (-k)))

/-- The quadrant of a magnitude and its remainder modulo π/2. -/
def reduce (m : Nat) (e : Int) : Nat × Int :=
  let p := fxP + 200
  let h := piBits p / 2
  let x : Int := (m * pow2 (e + p) : Nat)
  ((x / h).toNat % 4, x % h / (2 ^ 200 : Nat))

/-- sin and cos of a finite value. -/
def sinV (f : FFmt) (mode : Nat) (neg : Bool) (m : Nat) (e : Int) : Nat × Fl :=
  if m = 0 then (f.signBit neg, 0)
  else
    let (q, r) := reduce m e
    let v := if q % 2 = 0 then fxSin r else fxCos r
    ofFx f mode (if (2 ≤ q) != neg then -v else v)
@[inherit_doc sinV] def cosV (f : FFmt) (mode : Nat) (_neg : Bool) (m : Nat) (e : Int) : Nat × Fl :=
  if m = 0 then one f false
  else
    let (q, r) := reduce m e
    let v := if q % 2 = 0 then fxCos r else fxSin r
    ofFx f mode (if q = 1 || q = 2 then -v else v)

/-- tanh of a finite value. -/
def tanhV (f : FFmt) (mode : Nat) (neg : Bool) (m : Nat) (e : Int) : Nat × Fl :=
  if m = 0 then (f.signBit neg, 0)
  else if atLeast m e 6 then belowOne f mode neg
  else
    let x := fxExpNeg (2 * toFx m e)
    let v := fxDiv (fxOne - x) (fxOne + x)
    ofFx f mode (if neg then -v else v)

/-- 1/(1 + e^(−a)) of a finite value. -/
def sigV (f : FFmt) (mode : Nat) (neg : Bool) (m : Nat) (e : Int) : Nat × Fl :=
  if m = 0 then roundTo f mode false (.fin false 1 (-1))
  else if atLeast m e 8 then if neg then tiny f mode false else belowOne f mode false
  else
    let x := fxExpNeg (toFx m e)
    ofFx f mode (fxDiv (if neg then x else fxOne) (fxOne + x))

/-- erf of a finite value. -/
def erfV (f : FFmt) (mode : Nat) (neg : Bool) (m : Nat) (e : Int) : Nat × Fl :=
  if m = 0 then (f.signBit neg, 0)
  else if cmpMag m e 6 0 != .lt then belowOne f mode neg
  else
    let v := fxErf (toFx m e)
    ofFx f mode (if neg then -v else v)

/-- 1/√a of a finite value. -/
def rsqV (f : FFmt) (mode : Nat) (neg : Bool) (m : Nat) (e : Int) : Nat × Fl :=
  if m = 0 then (f.infBits neg, Fl.dz)
  else if neg then (f.qnan, Fl.nv)
  else
    let (m, e) := if e % 2 = 0 then (m, e) else (2 * m, e - 1)
    let n := 2 ^ 1000
    let r := isqrt (n / m)
    roundMag f mode false false r (-500 - e / 2) (r * r * m ≠ n)

/-- The eight functions in the order of their opcodes (R319). -/
inductive TransOp where
  | exp2 | log2 | sin | cos | tanh | rsq | sig | erf
  deriving DecidableEq, Repr

/-- A transcendental of a value, with the special cases of R367. (DEDUCED, log 43.) -/
def trans (op : TransOp) (f : FFmt) (mode : Nat) (v : FV) : Nat × Fl :=
  match v with
  | .nan s => (f.qnan, Fl.when s Fl.nv)
  | .inf neg =>
    match op with
    | .exp2 => if neg then (0, 0) else (f.infBits false, 0)
    | .log2 => if neg then (f.qnan, Fl.nv) else (f.infBits false, 0)
    | .sin | .cos => (f.qnan, Fl.nv)
    | .tanh | .erf => one f neg
    | .rsq => if neg then (f.qnan, Fl.nv) else (0, 0)
    | .sig => if neg then (0, 0) else one f false
  | .fin neg m e =>
    match op with
    | .exp2 => exp2V f mode neg m e
    | .log2 => log2V f mode neg m e
    | .sin => sinV f mode neg m e
    | .cos => cosV f mode neg m e
    | .tanh => tanhV f mode neg m e
    | .rsq => rsqV f mode neg m e
    | .sig => sigV f mode neg m e
    | .erf => erfV f mode neg m e

end Sys2Proof.Machine
end

