-- ==== Sys2Proof/Machine/VectorInt.lean ====
section
/-!
DEFINITION. Integer vector instructions, compares and mask operations (R360 to R362, R365, R368).
-/

namespace Sys2Proof.Machine

/-- Lane width and signedness of an integer element code (R361). -/
def laneW (fmt : Nat) : Nat := if fmt % 4 = 0 then 32 else if fmt % 4 = 1 then 16 else 8
@[inherit_doc laneW] def laneSigned (fmt : Nat) : Bool := fmt < 4

/-- Whether lane i of width w is marked in a mask: the bit of its lowest subword (R362). -/
def laneBit (m : Quad) (w i : Nat) : Bool := m.getLsbD (i * (w / 8))

/-- The mask that a word's MV and MR name, all ones where MV is 0 (R360, R362). -/
def Env.vmask (e : Env) (imm : BitVec 11) : Quad :=
  if imm.getLsbD 10 then e.x.mReg (fld (imm.setWidth 64) 7 3) else allBytes

/-- The byte mask of the active lanes of width w. -/
def laneMask (m : Quad) (w : Nat) : Quad :=
  BitVec.ofNat 128 (digits (w / 8) ((List.range (1024 / w)).map (fun i => if laneBit m w i then 2 ^ (w / 8) - 1 else 0)))

/-- A masked lane-wise result: `op` gives the bits and the flags of a lane; inactive lanes are not
written, enter the latch as 0 and set no flag (R362). -/
def Env.lanes (e : Env) (d : BitVec 9) (m : Quad) (lat w : Nat) (op : Nat → Nat × Fl) : Except Stop State :=
  let rs := (List.range (1024 / w)).map (fun i => if laneBit m w i then op i else (0, 0))
  e.retVm lat d (rowOf w (rs.map (·.1))) (laneMask m w) (rs.foldl (fun a r => a ||| r.2) 0)

/-- An integer lane-wise instruction of two sources; `op` gets the width, the signedness and the
lanes as unsigned numbers, and its result wraps modulo 2^w. -/
def Env.vint2 (e : Env) (f : RFmt) (lat : Nat) (op : Nat → Bool → Nat → Nat → Int × Fl) : Except Stop State := do
  let a ← e.srcV f.sa
  let b ← e.srcV f.sb
  let w := laneW e.h.fmt.toNat
  e.lanes f.dst (e.vmask f.imm) lat w (fun i =>
    let (r, fl) := op w (laneSigned e.h.fmt.toNat) (lane a w i) (lane b w i)
    (ofI w r, fl))

/-- An integer lane-wise instruction of one source. -/
def Env.vint1 (e : Env) (f : RFmt) (op : Nat → Nat → Int) : Except Stop State := do
  let a ← e.srcV f.sa
  let w := laneW e.h.fmt.toNat
  e.lanes f.dst (e.vmask f.imm) 2 w (fun i => (ofI w (op w (lane a w i)), 0))

/-- A lane as a signed or unsigned value. -/
def laneVal (w : Nat) (signed : Bool) (n : Nat) : Int := if signed then toS w n else n

/-- A lane operation of the scalar table on lanes, with no flag. -/
def laneOp (op : Nat → Nat → Nat → Int) (w : Nat) (_ : Bool) (a b : Nat) : Int × Fl := (op w a b, 0)

/-- A saturating lane operation, which sets SATF where it clamps (R231, R364). -/
def laneSat (op : Int → Int → Int) (w : Nat) (signed : Bool) (a b : Nat) : Int × Fl :=
  let (r, c) := sat (rangeOf signed w).1 (rangeOf signed w).2 (op (laneVal w signed a) (laneVal w signed b))
  (r, Fl.when c Fl.satf)

/-- An exact lane operation on signed or unsigned values. -/
def laneExact (op : Nat → Int → Int → Int) (w : Nat) (signed : Bool) (a b : Nat) : Int × Fl :=
  (op w (laneVal w signed a) (laneVal w signed b), 0)

def execVadd (u : VSlot) (h : Hd) (f : RFmt) (s : State) : Out :=
  runR .vadd u.slot h f s (fun e => e.vint2 f 2 (laneOp (opAdd false)))
def execVsub (u : VSlot) (h : Hd) (f : RFmt) (s : State) : Out :=
  runR .vsub u.slot h f s (fun e => e.vint2 f 2 (laneOp (opSub false)))
def execVadds (u : VSlot) (h : Hd) (f : RFmt) (s : State) : Out :=
  runR .vadds u.slot h f s (fun e => e.vint2 f 2 (laneSat (· + ·)))
def execVsubs (u : VSlot) (h : Hd) (f : RFmt) (s : State) : Out :=
  runR .vsubs u.slot h f s (fun e => e.vint2 f 2 (laneSat (· - ·)))
def execVmul (u : VSlot) (h : Hd) (f : RFmt) (s : State) : Out :=
  runR .vmul u.slot h f s (fun e => e.vint2 f 4 (laneOp opMul))
def execVmulh (u : VSlot) (h : Hd) (f : RFmt) (s : State) : Out :=
  runR .vmulh u.slot h f s (fun e => e.vint2 f 4 (laneExact (fun w a b => a * b / (2 ^ w : Nat))))
def execVmin (u : VSlot) (h : Hd) (f : RFmt) (s : State) : Out :=
  runR .vmin u.slot h f s (fun e => e.vint2 f 2 (laneExact (fun _ a b => min a b)))
def execVmax (u : VSlot) (h : Hd) (f : RFmt) (s : State) : Out :=
  runR .vmax u.slot h f s (fun e => e.vint2 f 2 (laneExact (fun _ a b => max a b)))
def execVabs (u : VSlot) (h : Hd) (f : RFmt) (s : State) : Out :=
  runR .vabs u.slot h f s (fun e => e.vint1 f (fun w a => ((toS w a).natAbs : Nat)))
def execVand (u : VSlot) (h : Hd) (f : RFmt) (s : State) : Out :=
  runR .vand u.slot h f s (fun e => e.vint2 f 2 (laneOp opAnd))
def execVor (u : VSlot) (h : Hd) (f : RFmt) (s : State) : Out :=
  runR .vor u.slot h f s (fun e => e.vint2 f 2 (laneOp opOr))
def execVxor (u : VSlot) (h : Hd) (f : RFmt) (s : State) : Out :=
  runR .vxor u.slot h f s (fun e => e.vint2 f 2 (laneOp opXor))
def execVandn (u : VSlot) (h : Hd) (f : RFmt) (s : State) : Out :=
  runR .vandn u.slot h f s (fun e => e.vint2 f 2 (laneOp opAndn))
def execVshl (u : VSlot) (h : Hd) (f : RFmt) (s : State) : Out :=
  runR .vshl u.slot h f s (fun e => e.vint2 f 2 (laneOp opShl))
def execVshr (u : VSlot) (h : Hd) (f : RFmt) (s : State) : Out :=
  runR .vshr u.slot h f s (fun e => e.vint2 f 2 (laneOp opShr))
def execVsra (u : VSlot) (h : Hd) (f : RFmt) (s : State) : Out :=
  runR .vsra u.slot h f s (fun e => e.vint2 f 2 (laneOp opSra))

/-- A shift by MOD[4:0] modulo the width (R365). -/
def Env.vshiftImm (e : Env) (f : RFmt) (op : Nat → Nat → Nat → Int) : Except Stop State :=
  e.vint1 f (fun w a => op w a (f.imm.toNat % 32))

def execVshli (u : VSlot) (h : Hd) (f : RFmt) (s : State) : Out :=
  runR .vshli u.slot h f s (fun e => e.vshiftImm f opShl)
def execVshri (u : VSlot) (h : Hd) (f : RFmt) (s : State) : Out :=
  runR .vshri u.slot h f s (fun e => e.vshiftImm f opShr)
def execVsrai (u : VSlot) (h : Hd) (f : RFmt) (s : State) : Out :=
  runR .vsrai u.slot h f s (fun e => e.vshiftImm f opSra)
def execVclz (u : VSlot) (h : Hd) (f : RFmt) (s : State) : Out :=
  runR .vclz u.slot h f s (fun e => e.vint1 f opClz)
def execVpopc (u : VSlot) (h : Hd) (f : RFmt) (s : State) : Out :=
  runR .vpopc u.slot h f s (fun e => e.vint1 f opPopc)
def execVaddi (u : VSlot) (h : Hd) (f : IFmt) (s : State) : Out := runI .vaddi u.slot h f s (fun e => do
  let a ← e.srcV f.sa
  let w := laneW e.h.fmt.toNat
  e.lanes f.dst allBytes 2 w (fun i => (ofI w (lane a w i + f.imm.toInt), 0)))
def execVli (u : VSlot) (h : Hd) (f : IFmt) (s : State) : Out := runI .vli u.slot h f s (fun e =>
  let w := laneW e.h.fmt.toNat
  e.lanes f.dst allBytes 2 w (fun _ => (ofI w f.imm.toInt, 0)))

/-- The mask that a compare writes: every subword bit of lane i takes the outcome, inactive lanes
give 0 (R368). -/
def maskOf (m : Quad) (w : Nat) (p : Nat → Bool) : Quad :=
  BitVec.ofNat 128 (digits (w / 8)
    ((List.range (1024 / w)).map (fun i => if laneBit m w i && p i then 2 ^ (w / 8) - 1 else 0)))

/-- The comparisons of VCMP (R368). -/
def vcond (cc : Nat) (a b : Int) : Bool :=
  match cc with
  | 0 => a = b
  | 1 => a ≠ b
  | 2 => a < b
  | 3 => a ≤ b
  | 4 => b < a
  | _ => b ≤ a

def execVcmp (u : VSlot) (h : Hd) (f : RFmt) (s : State) : Out := runR .vcmp u.slot h f s (fun e => do
  let a ← e.srcV f.sa
  let b ← e.srcV f.sb
  let w := laneW e.h.fmt.toNat
  let sg := laneSigned e.h.fmt.toNat
  e.retM 2 f.dst (maskOf (e.vmask f.imm) w (fun i =>
    vcond (f.imm.toNat % 8) (laneVal w sg (lane a w i)) (laneVal w sg (lane b w i)))))
def execVsel (u : VSlot) (h : Hd) (f : RFmt) (s : State) : Out := runR .vsel u.slot h f s (fun e => do
  let a ← e.srcV f.sa
  let b ← e.srcV f.sb
  e.retV 2 f.dst (mergeRow (e.srcM f.sc) b a))
def execVmlog (u : VSlot) (h : Hd) (f : RFmt) (s : State) : Out := runR .vmlog u.slot h f s (fun e =>
  let a := e.srcM f.sa
  let b := e.srcM f.sb
  e.retM 2 f.dst (BitVec.ofNat 128 (digits 1 ((List.range 128).map (fun j =>
    let i := (if a.getLsbD j then 2 else 0) + (if b.getLsbD j then 1 else 0)
    if f.imm.getLsbD i then 1 else 0)))))
def execVmtv (u : VSlot) (h : Hd) (f : RFmt) (s : State) : Out := runR .vmtv u.slot h f s (fun e =>
  e.retV 2 f.dst (byteMask (e.srcM f.sa)))
def execVvtm (u : VSlot) (h : Hd) (f : RFmt) (s : State) : Out := runR .vvtm u.slot h f s (fun e => do
  let a ← e.srcV f.sa
  e.retM 2 f.dst (BitVec.ofNat 128 (digits 1 ((List.range 128).map (fun j => lane a 8 j / 128)))))
def execViota (u : VSlot) (h : Hd) (f : RFmt) (s : State) : Out := runR .viota u.slot h f s (fun e =>
  let m := e.srcM f.sa
  let w := laneW e.h.fmt.toNat
  e.retV 2 f.dst (mapLanes w (fun i => ((List.range i).filter (laneBit m w)).length)))

end Sys2Proof.Machine
end

