-- ==== Sys2Proof/Machine/VectorFp.lean ====
section
/-!
DEFINITION. Floating-point vector instructions (R364, R366 to R368).
-/

namespace Sys2Proof.Machine

/-- The floating element codes of R361. -/
def vfmt (fmt : Nat) : FFmt := if fmt = 0 then fp32 else if fmt = 1 then fp16 else bf16

/-- The mode that MOD[2:0] names (R364). -/
def Env.vmode (e : Env) (imm : BitVec 11) : Nat := e.mode (imm.toNat % 8)

/-- A lane-wise FP instruction on one, two or three sources, given the bits of each lane. -/
def Env.vfp1 (e : Env) (f : RFmt) (lat : Nat) (op : FFmt → Nat → Nat → Nat × Fl) : Except Stop State := do
  let a ← e.srcV f.sa
  let g := vfmt e.h.fmt.toNat
  e.lanes f.dst (e.vmask f.imm) lat g.w (fun i => op g (e.vmode f.imm) (lane a g.w i))
@[inherit_doc Env.vfp1]
def Env.vfp2 (e : Env) (f : RFmt) (lat : Nat) (op : FFmt → Nat → Nat → Nat → Nat × Fl) : Except Stop State := do
  let a ← e.srcV f.sa
  let b ← e.srcV f.sb
  let g := vfmt e.h.fmt.toNat
  e.lanes f.dst (e.vmask f.imm) lat g.w (fun i => op g (e.vmode f.imm) (lane a g.w i) (lane b g.w i))
@[inherit_doc Env.vfp1]
def Env.vfp3 (e : Env) (f : RFmt) (negProd negC : Bool) : Except Stop State := do
  let a ← e.srcV f.sa
  let b ← e.srcV f.sb
  let c ← e.srcV f.sc
  let g := vfmt e.h.fmt.toNat
  let get (v : Row) (i : Nat) : FV := unpack g (lane v g.w i)
  e.lanes f.dst (e.vmask f.imm) 4 g.w (fun i =>
    fMulAdd g (e.vmode f.imm) negProd negC (get a i) (get b i) (get c i))

/-- An operation on values as one on bits. -/
def onBits (op : FFmt → Nat → FV → FV → Nat × Fl) (g : FFmt) (mode a b : Nat) : Nat × Fl :=
  op g mode (unpack g a) (unpack g b)

def execVfadd (u : VSlot) (h : Hd) (f : RFmt) (s : State) : Out :=
  runR .vfadd u.slot h f s (fun e => e.vfp2 f 4 (onBits fAdd))
def execVfsub (u : VSlot) (h : Hd) (f : RFmt) (s : State) : Out :=
  runR .vfsub u.slot h f s (fun e => e.vfp2 f 4 (onBits fSub))
def execVfmul (u : VSlot) (h : Hd) (f : RFmt) (s : State) : Out :=
  runR .vfmul u.slot h f s (fun e => e.vfp2 f 4 (onBits fMul))
def execVfma (u : VSlot) (h : Hd) (f : RFmt) (s : State) : Out :=
  runR .vfma u.slot h f s (fun e => e.vfp3 f false false)
def execVfms (u : VSlot) (h : Hd) (f : RFmt) (s : State) : Out :=
  runR .vfms u.slot h f s (fun e => e.vfp3 f false true)
def execVfnma (u : VSlot) (h : Hd) (f : RFmt) (s : State) : Out :=
  runR .vfnma u.slot h f s (fun e => e.vfp3 f true false)
def execVfmin (u : VSlot) (h : Hd) (f : RFmt) (s : State) : Out :=
  runR .vfmin u.slot h f s (fun e => e.vfp2 f 4 (fun g _ a b => fMinMax g false a b))
def execVfmax (u : VSlot) (h : Hd) (f : RFmt) (s : State) : Out :=
  runR .vfmax u.slot h f s (fun e => e.vfp2 f 4 (fun g _ a b => fMinMax g true a b))
def execVfabs (u : VSlot) (h : Hd) (f : RFmt) (s : State) : Out :=
  runR .vfabs u.slot h f s (fun e => e.vfp1 f 4 (fun g _ a => (a % 2 ^ (g.w - 1), 0)))
def execVfneg (u : VSlot) (h : Hd) (f : RFmt) (s : State) : Out :=
  runR .vfneg u.slot h f s (fun e => e.vfp1 f 4 (fun g _ a => (a ^^^ 2 ^ (g.w - 1), 0)))
def execVfdiv (u : VSlot) (h : Hd) (f : RFmt) (s : State) : Out :=
  runR .vfdiv u.slot h f s (fun e => e.vfp2 f 12 (onBits fDiv))
def execVfsqrt (u : VSlot) (h : Hd) (f : RFmt) (s : State) : Out :=
  runR .vfsqrt u.slot h f s (fun e => e.vfp1 f 12 (fun g mode a => fSqrt g mode (unpack g a)))
def execVfrcp (u : VSlot) (h : Hd) (f : RFmt) (s : State) : Out :=
  runR .vfrcp u.slot h f s (fun e => e.vfp1 f 12 (fun g mode a => fDiv g mode (.fin false 1 0) (unpack g a)))

/-- A transcendental instruction (R367). -/
def Env.vtrans (e : Env) (f : RFmt) (op : TransOp) : Except Stop State :=
  e.vfp1 f 6 (fun g mode a => trans op g mode (unpack g a))

def execVexp2 (u : VSlot) (h : Hd) (f : RFmt) (s : State) : Out := runR .vexp2 u.slot h f s (fun e => e.vtrans f .exp2)
def execVlog2 (u : VSlot) (h : Hd) (f : RFmt) (s : State) : Out := runR .vlog2 u.slot h f s (fun e => e.vtrans f .log2)
def execVsin (u : VSlot) (h : Hd) (f : RFmt) (s : State) : Out := runR .vsin u.slot h f s (fun e => e.vtrans f .sin)
def execVcos (u : VSlot) (h : Hd) (f : RFmt) (s : State) : Out := runR .vcos u.slot h f s (fun e => e.vtrans f .cos)
def execVtanh (u : VSlot) (h : Hd) (f : RFmt) (s : State) : Out := runR .vtanh u.slot h f s (fun e => e.vtrans f .tanh)
def execVrsq (u : VSlot) (h : Hd) (f : RFmt) (s : State) : Out := runR .vrsq u.slot h f s (fun e => e.vtrans f .rsq)
def execVsig (u : VSlot) (h : Hd) (f : RFmt) (s : State) : Out := runR .vsig u.slot h f s (fun e => e.vtrans f .sig)
def execVerf (u : VSlot) (h : Hd) (f : RFmt) (s : State) : Out := runR .verf u.slot h f s (fun e => e.vtrans f .erf)

def execVfcmp (u : VSlot) (h : Hd) (f : RFmt) (s : State) : Out := runR .vfcmp u.slot h f s (fun e => do
  let a ← e.srcV f.sa
  let b ← e.srcV f.sb
  let g := vfmt e.h.fmt.toNat
  let m := e.vmask f.imm
  let cmp (i : Nat) := fCompare (f.imm.toNat % 8) (unpack g (lane a g.w i)) (unpack g (lane b g.w i))
  let fl := ((List.range (1024 / g.w)).filter (laneBit m g.w)).foldl (fun fl i => fl ||| (cmp i).2) 0
  e.retM 4 f.dst (maskOf m g.w (fun i => (cmp i).1)) fl)

end Sys2Proof.Machine
end

