-- ==== Sys2Proof/Machine/VectorMove.lean ====
section
/-!
DEFINITION. Permutes, sorting stages, reductions, scans and dot products (R373 to R376).
-/

namespace Sys2Proof.Machine

/-- A permute: `op` gets the lane width, the lane count and the lane number (R373). -/
def Env.permute (e : Env) (d : BitVec 9) (op : Nat → Nat → Nat → Nat) : Except Stop State :=
  let w := laneW e.h.fmt.toNat
  e.retV 3 d (mapLanes w (op w (1024 / w)))

/-- Lane i of Concat(b, a). -/
def lane2 (a b : Row) (w i : Nat) : Nat := if i < 1024 / w then lane a w i else lane b w (i - 1024 / w)

/-- MOD[6:0] (R360). -/
def modK (f : RFmt) : Nat := f.imm.toNat % 128

def execVperm (u : VSlot) (h : Hd) (f : RFmt) (s : State) : Out := runR .vperm u.slot h f s (fun e => do
  let a ← e.srcV f.sa
  let b ← e.srcV f.sb
  let c ← e.srcV f.sc
  e.permute f.dst (fun w n i => lane2 a b w (lane c w i % (2 * n))))
def execVpermi (u : VSlot) (h : Hd) (f : RFmt) (s : State) : Out := runR .vpermi u.slot h f s (fun e => do
  let a ← e.srcV f.sa
  e.permute f.dst (fun w _ i => lane a w (i ^^^ modK f)))
def execVbcst (u : VSlot) (h : Hd) (f : RFmt) (s : State) : Out := runR .vbcst u.slot h f s (fun e => do
  let a ← e.srcV f.sa
  e.permute f.dst (fun w _ _ => lane a w (modK f)))
def execVsplat (u : VSlot) (h : Hd) (f : RFmt) (s : State) : Out := runR .vsplat u.slot h f s (fun e => do
  let a ← e.srcS f.sa
  e.permute f.dst (fun w _ _ => a.toNat % 2 ^ w))
def execVshuf (u : VSlot) (h : Hd) (f : RFmt) (s : State) : Out := runR .vshuf u.slot h f s (fun e => do
  let a ← e.srcV f.sa
  e.permute f.dst (fun w _ i => lane a w (i / 4 * 4 + bits f.imm.toNat (2 * (i % 4)) 2)))
def execVrotm (u : VSlot) (h : Hd) (f : RFmt) (s : State) : Out := runR .vrotm u.slot h f s (fun e => do
  let a ← e.srcV f.sa
  let b ← e.srcV f.sb
  let c ← e.srcS f.sc
  e.retV 3 f.dst (mapLanes 8 (fun t => lane2 a b 8 (c.toNat % 128 + t))))
def execVzip (u : VSlot) (h : Hd) (f : RFmt) (s : State) : Out := runR .vzip u.slot h f s (fun e => do
  let a ← e.srcV f.sa
  let b ← e.srcV f.sb
  let hh := f.imm.toNat % 2
  e.permute f.dst (fun w n i => lane (if i % 2 = 0 then a else b) w (hh * (n / 2) + i / 2)))
def execVunzip (u : VSlot) (h : Hd) (f : RFmt) (s : State) : Out := runR .vunzip u.slot h f s (fun e => do
  let a ← e.srcV f.sa
  let b ← e.srcV f.sb
  let hh := f.imm.toNat % 2
  e.permute f.dst (fun w n i => if i < n / 2 then lane a w (2 * i + hh) else lane b w (2 * (i - n / 2) + hh)))
def execVins (u : VSlot) (h : Hd) (f : RFmt) (s : State) : Out := runR .vins u.slot h f s (fun e => do
  let a ← e.srcV f.sa
  let b ← e.srcS f.sb
  e.permute f.dst (fun w _ i => if i = modK f then b.toNat % 2 ^ w else lane a w i))

/-- The active lanes of a mask, ascending. -/
def activeLanes (m : Quad) (w : Nat) : List Nat := (List.range (1024 / w)).filter (laneBit m w)

def execVcompr (u : VSlot) (h : Hd) (f : RFmt) (s : State) : Out := runR .vcompr u.slot h f s (fun e => do
  let a ← e.srcV f.sa
  let w := laneW e.h.fmt.toNat
  e.retV 3 f.dst (rowOf w ((activeLanes (e.srcM f.sb) w).map (lane a w))))
def execVexpd (u : VSlot) (h : Hd) (f : RFmt) (s : State) : Out := runR .vexpd u.slot h f s (fun e => do
  let a ← e.srcV f.sa
  let m := e.srcM f.sb
  e.permute f.dst (fun w _ i =>
    if laneBit m w i then lane a w ((List.range i).filter (laneBit m w)).length else 0))
def execVmov (u : VSlot) (h : Hd) (f : RFmt) (s : State) : Out := runR .vmov u.slot h f s (fun e => do
  let a ← e.srcV f.sa
  let w := laneW e.h.fmt.toNat
  e.lanes f.dst (e.vmask f.imm) 2 w (fun i => (lane a w i, 0)))

/-- The lane width of VCXS and the order of its keys, as integers (R374). -/
def cxsWidth (fmt : Nat) : Nat := if fmt < 3 then 32 else 16
@[inherit_doc cxsWidth] def cxsKey (fmt n : Nat) : Int :=
  match fmt with
  | 0 | 3 => n
  | 1 => toS 32 n
  | 2 => totalKey n
  | _ => toS 16 n

/-- Whether lanes i and i + d exchange at a stage (R374). -/
def cxsSwaps (fmt : Nat) (a : Row) (j k : Nat) (desc : Bool) (i : Nat) : Bool :=
  let w := cxsWidth fmt
  let up := (k = 7 || !i.testBit k) != desc
  let x := cxsKey fmt (lane a w i)
  let y := cxsKey fmt (lane a w (i + 2 ^ j))
  (up && y < x) || (!up && x < y)

/-- The lane that lane i of the result takes at a stage. -/
def cxsFrom (fmt : Nat) (a : Row) (j k : Nat) (desc : Bool) (i : Nat) : Nat :=
  let lo := if i.testBit j then i - 2 ^ j else i
  if cxsSwaps fmt a j k desc lo then (if i.testBit j then lo else i + 2 ^ j) else i

def execVcxs (u : VSlot) (h : Hd) (f : RFmt) (s : State) : Out := runR .vcxs u.slot h f s (fun e => do
  let a ← e.srcV f.sa
  let b ← e.srcV f.sb
  let fmt := e.h.fmt.toNat
  let w := cxsWidth fmt
  let j := f.imm.toNat % 8
  let k := bits f.imm.toNat 3 3
  let src := cxsFrom fmt a j k (f.imm.getLsbD 6)
  let keys := mapLanes w (fun i => lane a w (src i))
  let pays := mapLanes w (fun i => lane b w (src i))
  let t := e.fly (e.result 2 keys false (.reg .v f.dst.toNat keys allBytes) 0)
  pure (t.fly e.ci e.k
    { e.result 2 pays false (.reg .v (f.dst.toNat + 1) pays allBytes) 0 with latch := false }))

/-- The values of the active lanes of an integer source (R375). -/
def Env.activeInts (e : Env) (f : RFmt) (a : Row) : List Int :=
  let w := laneW e.h.fmt.toNat
  (activeLanes (e.vmask f.imm) w).map (fun i => laneVal w (laneSigned e.h.fmt.toNat) (lane a w i))

/-- The bits of the active lanes of a floating-point source. -/
def Env.activeFps (e : Env) (f : RFmt) (a : Row) : List Nat :=
  let g := vfmt e.h.fmt.toNat
  (activeLanes (e.vmask f.imm) g.w).map (lane a g.w)

def execVradd (u : VSlot) (h : Hd) (f : RFmt) (s : State) : Out := runR .vradd u.slot h f s (fun e => do
  let a ← e.srcV f.sa
  e.retS 6 f.dst (word ((e.activeInts f a).foldl (· + ·) 0)))
def execVrfadd (u : VSlot) (h : Hd) (f : RFmt) (s : State) : Out := runR .vrfadd u.slot h f s (fun e => do
  let a ← e.srcV f.sa
  let (r, fl) := finish fp32 (e.vmode f.imm) false (sumAll ((e.activeFps f a).map (unpack (vfmt e.h.fmt.toNat))))
  e.retS 6 f.dst (BitVec.ofNat 64 r) fl)

/-- Integer minimum or maximum of the active lanes; the far end of the format where there is none. -/
def Env.reduceInt (e : Env) (f : RFmt) (isMax : Bool) : Except Stop State := do
  let a ← e.srcV f.sa
  let r := rangeOf (laneSigned e.h.fmt.toNat) (laneW e.h.fmt.toNat)
  e.retS 6 f.dst (word ((e.activeInts f a).foldl (if isMax then max else min) (if isMax then r.1 else r.2)))

/-- FP minimum or maximum of the active lanes, widened to FP32; an infinity where there is none. -/
def Env.reduceFp (e : Env) (f : RFmt) (isMax : Bool) : Except Stop State := do
  let a ← e.srcV f.sa
  let g := vfmt e.h.fmt.toNat
  let (r, fl) := (e.activeFps f a).foldl (fun (acc : Nat × Fl) n =>
    let (m, fl) := fMinMax g isMax acc.1 n
    (m, acc.2 ||| fl)) (g.infBits isMax, 0)
  e.retS 6 f.dst (BitVec.ofNat 64 (roundTo fp32 0 false (unpack g r)).1) fl

def execVrmax (u : VSlot) (h : Hd) (f : RFmt) (s : State) : Out := runR .vrmax u.slot h f s (fun e => e.reduceInt f true)
def execVrmin (u : VSlot) (h : Hd) (f : RFmt) (s : State) : Out := runR .vrmin u.slot h f s (fun e => e.reduceInt f false)
def execVrfmax (u : VSlot) (h : Hd) (f : RFmt) (s : State) : Out := runR .vrfmax u.slot h f s (fun e => e.reduceFp f true)
def execVrfmin (u : VSlot) (h : Hd) (f : RFmt) (s : State) : Out := runR .vrfmin u.slot h f s (fun e => e.reduceFp f false)

def execVscan (u : VSlot) (h : Hd) (f : RFmt) (s : State) : Out := runR .vscan u.slot h f s (fun e => do
  let a ← e.srcV f.sa
  let w := laneW e.h.fmt.toNat
  let m := e.vmask f.imm
  e.lanes f.dst m 7 w (fun i =>
    ((((List.range (i + 1)).filter (laneBit m w)).map (lane a w)).foldl (· + ·) 0 % 2 ^ w, 0)))
def execVfscan (u : VSlot) (h : Hd) (f : RFmt) (s : State) : Out := runR .vfscan u.slot h f s (fun e => do
  let a ← e.srcV f.sa
  let g := vfmt e.h.fmt.toNat
  let m := e.vmask f.imm
  e.lanes f.dst m 7 g.w (fun i => finish g (e.vmode f.imm) false
    (sumV (e.vmode f.imm) (((List.range (i + 1)).filter (laneBit m g.w)).map (fun k => unpack g (lane a g.w k))))))

/-- The subword width and signedness of VDOT's operands (R376). -/
def dotForm (fmt : Nat) : Nat × Bool × Bool :=
  match fmt with
  | 0 => (8, true, true)
  | 1 => (8, false, false)
  | 2 => (8, false, true)
  | _ => (16, true, true)

def execVdot (u : VSlot) (h : Hd) (f : RFmt) (s : State) : Out := runR .vdot u.slot h f s (fun e => do
  let a ← e.srcV f.sa
  let b ← e.srcV f.sb
  let c ← e.srcV f.sc
  let (w, sa, sb) := dotForm e.h.fmt.toNat
  let n := 32 / w
  e.lanes f.dst (e.vmask f.imm) 4 32 (fun i =>
    let v := (List.range n).foldl (fun acc t =>
      acc + laneVal w sa (lane a w (n * i + t)) * laneVal w sb (lane b w (n * i + t))) (toS 32 (lane c 32 i))
    let (r, cl) := sat (rangeOf true 32).1 (rangeOf true 32).2 v
    if f.imm.getLsbD 0 then (ofI 32 r, Fl.when cl Fl.satf) else (ofI 32 v, 0)))

/-- The product format of VFDOT (R376). -/
def fdotFmt (fmt : Nat) : FFmt :=
  match fmt with
  | 0 => bf16
  | 1 => fp16
  | 2 => e4m3
  | _ => e5m2

def execVfdot (u : VSlot) (h : Hd) (f : RFmt) (s : State) : Out := runR .vfdot u.slot h f s (fun e => do
  let a ← e.srcV f.sa
  let b ← e.srcV f.sb
  let c ← e.srcV f.sc
  let g := fdotFmt e.h.fmt.toNat
  let n := 32 / g.w
  e.lanes f.dst (e.vmask f.imm) 4 32 (fun i =>
    let ps := (List.range n).map (fun t => mulV (unpack g (lane a g.w (n * i + t))) (unpack g (lane b g.w (n * i + t))))
    let (r, fl) := sumV (e.vmode f.imm) (unpack fp32 (lane c 32 i) :: ps.map (·.1))
    finish fp32 (e.vmode f.imm) false (r, ps.foldl (fun fl p => fl ||| p.2) fl)))

end Sys2Proof.Machine
end

