-- ==== Sys2Proof/Machine/MemoryIsa.lean ====
section
/-!
DEFINITION. The LD and ST slots: loads, stores, gathers and scatters, capabilities in memory, typed tile
accesses, scale loads, rinks, load blocks and atomics (R194 to R197, R403 to R418).
-/

namespace Sys2Proof.Machine

/-- The a-register index that a trap value gives for a field (R98). -/
def aIndex (f : BitVec 9) : Nat := f.toNat % 32

/-- Whether bytes from `lo` share a 64-byte line with a region of memory (R278). -/
def lineMeets (lo n : Nat) (g : Region) : Bool :=
  match g with
  | .mem a b => n ≠ 0 && a < b && lo / 64 ≤ (b - 1) / 64 && a / 64 ≤ (lo + n - 1) / 64
  | _ => false

/-- Whether an access of this context to bytes of its space must wait for one of its live jobs
(R281). -/
def Env.overlaps (e : Env) (store : Bool) (l : List (Nat × Nat)) : Bool :=
  ((e.s.ctxJobs e.ci e.k).filter (fun j => j.bseq ≠ e.x.seq)).any (fun j =>
    ((if store then j.reads ++ j.writes else j.writes).map (Region.located e.s e.ci j.space)).any (fun g =>
      l.any (fun (lo, n) => lineMeets lo n g)))

/-- The object entry of a capability as it stands at issue. -/
def Env.objOf (e : Env) (c : Cap) : Option ObjEntry := e.s.object e.ci (e.s.spaceOf e.ci) c.obj

/-- The place of a result that a load or an atomic will return, and what waits for it (R406). -/
structure Dest where
  cls : Cls
  n : Nat
  rows : List Nat
  tile : List (Cls × Nat)
  ds : List Nat
  latch : Bool
  deriving DecidableEq, Repr

/-- A destination field of a class. -/
def Env.dest (e : Env) (cls : Cls) (d : BitVec 9) : Dest :=
  ⟨cls, d.toNat, if 400 ≤ d.toNat then [e.x.xRow (d.toNat - 400)] else [], [], [], true⟩

/-- The pending entry of a destination. -/
def Dest.pending (d : Dest) (e : Env) (id : Nat) (w : Bool) : Pending where
  id := id
  bseq := e.x.seq
  load := true
  slot := e.slot
  w := w
  latch := d.latch
  regs := d.tile ++ (if w && d.latch && d.n < 400 then [(d.cls, d.n)] else [])
  rows := if w then d.rows else []
  ds := d.ds
  due := none

/-- Put an access into the port (R272, R297). -/
def Env.putAccess (e : Env) (s : State) (kind : AccKind) (d : Option Dest) (areg : Nat) (c : Cap) (eo : Int)
    (units : List MUnit) (checked : Bool) : State :=
  let (s, id) := s.newId
  let w := e.h.w || (match d with
    | some d => !d.latch
    | none => false)
  let s := match d with
    | some d => s.modCtx e.ci e.k (fun x => { x with pend := x.pend ++ [d.pending e id w] })
    | none => s
  s.intoPort e.ci e.k e.x.seq (if e.slot = .ld then 2 else 3) (.acc
    { kind := kind
      pend := d.map (fun _ => id)
      w := w
      dst := match d with
        | some d => (d.cls, d.n)
        | none => (.s, 0)
      slot := e.slot
      areg := areg
      cap := c
      eo := eo
      units := units
      pos := 0
      got := []
      ctag := false
      poison := none
      checked := checked
      attempt := 0 })

/-- Issue an access whose capability checks have passed: it blocks on the context's live jobs where it
overlaps them (R281, R407). -/
def Env.start (e : Env) (kind : AccKind) (d : Option Dest) (areg : Nat) (c : Cap) (units : List MUnit) :
    Except Stop State := do
  let eo : Int := match units with
    | u :: _ => u.off
    | [] => 0
  match e.objOf c with
  | some o => do
    e.blockIf (e.overlaps kind.writes (units.map (fun u => (o.base + u.off, u.len)))) 5
    pure (e.putAccess e.s kind d areg c eo units true)
  | none => pure (e.putAccess e.s kind d areg c eo units units.isEmpty)

/-- The condition of R178 that units of an access meet, whatever their capability checks find (R181, R281). -/
def Env.overlapWait (e : Env) (store : Bool) (c : Cap) (l : List (Int × Nat)) : Except Stop Unit :=
  match e.objOf c with
  | some o => e.blockIf (c.valid && e.overlaps store (l.map (fun p => (((o.base : Int) + p.1).toNat, p.2)))) 5
  | none => .ok ()

/-- The EO of a form (R404) before its low bits are dropped. -/
def eoDisp (f : MFmt) (c : Cap) : Int := c.off + f.disp.toInt
@[inherit_doc eoDisp] def eoIndex (i : Word) (sh : Nat) (c : Cap) : Int := c.off + i.toInt * (2 ^ sh : Nat)

/-- The unit that an access of `n` bytes takes: low bits dropped (R274, R404). -/
def unitOf (eo : Int) (n : Nat) : Int := eo / n * n

/-- A load of one unit. -/
def Env.load1 (e : Env) (cls : Cls) (dst sa : BitVec 9) (eo : Cap → Int) (n : Nat) (kind : AccKind) :
    Except Stop State := do
  let c ← e.srcA sa
  let o := unitOf (eo c) n
  orWait (e.overlapWait false c [(o, n)]) (do
    capCheck (aIndex sa) 0 c rR o n
    e.objCheck (aIndex sa) 0 c o n false)
  e.start kind (some (e.dest cls dst)) (aIndex sa) c [ldUnit (o.toNat, n)]

/-- A store of one unit under byte enables. -/
def Env.store1 (e : Env) (sa : BitVec 9) (eo : Cap → Int) (n : Nat) (data : Row) (en : Quad) : Except Stop State := do
  let c ← e.srcA sa
  let o := unitOf (eo c) n
  orWait (e.overlapWait true c [(o, n)]) (do
    capCheck (aIndex sa) 1 c rW o n
    e.objCheck (aIndex sa) 1 c o n true)
  e.start .store none (aIndex sa) c [⟨o.toNat, n, (rowBytes data).take n, en, false⟩]

/-- SH of IMM11 (R403). -/
def shOf (f : RFmt) : Nat := f.imm.toNat % 8

/-- A scalar load with a displacement, and with an index. -/
def Env.ldDisp (e : Env) (f : MFmt) (n : Nat) (sg : Bool) : Except Stop State :=
  e.load1 .s f.dt f.ab (eoDisp f) n (.ldS n sg)
@[inherit_doc Env.ldDisp]
def Env.ldIndex (e : Env) (f : RFmt) (n : Nat) (sg : Bool) : Except Stop State := do
  let i ← e.srcS f.sb
  e.load1 .s f.dst f.sa (eoIndex i (shOf f)) n (.ldS n sg)

def execLdb (h : Hd) (f : MFmt) (s : State) : Out := runM .ldb .ld h f s (fun e => e.ldDisp f 1 true)
def execLdbz (h : Hd) (f : MFmt) (s : State) : Out := runM .ldbz .ld h f s (fun e => e.ldDisp f 1 false)
def execLdh (h : Hd) (f : MFmt) (s : State) : Out := runM .ldh .ld h f s (fun e => e.ldDisp f 2 true)
def execLdhz (h : Hd) (f : MFmt) (s : State) : Out := runM .ldhz .ld h f s (fun e => e.ldDisp f 2 false)
def execLdw (h : Hd) (f : MFmt) (s : State) : Out := runM .ldw .ld h f s (fun e => e.ldDisp f 4 true)
def execLdwz (h : Hd) (f : MFmt) (s : State) : Out := runM .ldwz .ld h f s (fun e => e.ldDisp f 4 false)
def execLdd (h : Hd) (f : MFmt) (s : State) : Out := runM .ldd .ld h f s (fun e => e.ldDisp f 8 false)
def execLddx (h : Hd) (f : RFmt) (s : State) : Out := runR .lddx .ld h f s (fun e => e.ldIndex f 8 false)
def execLdwx (h : Hd) (f : RFmt) (s : State) : Out := runR .ldwx .ld h f s (fun e => e.ldIndex f 4 (e.h.fmt = 0))
def execLdbx (h : Hd) (f : RFmt) (s : State) : Out := runR .ldbx .ld h f s (fun e => e.ldIndex f 1 (e.h.fmt = 0))
def execLdhx (h : Hd) (f : RFmt) (s : State) : Out := runR .ldhx .ld h f s (fun e => e.ldIndex f 2 (e.h.fmt = 0))

def execLdv (h : Hd) (f : MFmt) (s : State) : Out := runM .ldv .ld h f s (fun e =>
  e.load1 .v f.dt f.ab (eoDisp f) 128 (.ldRow allBytes))
def execLdvx (h : Hd) (f : RFmt) (s : State) : Out := runR .ldvx .ld h f s (fun e => do
  let i ← e.srcS f.sb
  e.load1 .v f.dst f.sa (eoIndex i (shOf f)) 128 (.ldRow allBytes))
def execLdvm (h : Hd) (f : RFmt) (s : State) : Out := runR .ldvm .ld h f s (fun e => do
  let i ← e.srcS f.sb
  e.load1 .v f.dst f.sa (eoIndex i (shOf f)) 128 (.ldRow (e.x.mReg (bits f.imm.toNat 3 3))))
def execLdcap (h : Hd) (f : MFmt) (s : State) : Out := runM .ldcap .ld h f s (fun e =>
  e.load1 .a f.dt f.ab (eoDisp f) 16 .ldCap)
def execLdcx (h : Hd) (f : RFmt) (s : State) : Out := runR .ldcx .ld h f s (fun e => do
  let i ← e.srcS f.sb
  e.load1 .a f.dst f.sa (eoIndex i (shOf f)) 16 .ldCap)

/-- The checks of an access of several units, in order (R405). -/
def Env.checkUnits (e : Env) (areg acc : Nat) (c : Cap) (need : BitVec 8) (write : Bool) (n : Nat) :
    List Int → Except Stop Unit
  | [] => .ok ()
  | o :: t => do
    capCheck areg acc c need o n
    e.objCheck areg acc c o n write
    Env.checkUnits e areg acc c need write n t

/-- The lane width, the active lanes and their offsets in a gather or scatter (R404, R410). -/
def Env.gatherLanes (e : Env) (f : RFmt) (c : Cap) (idx : Row) : Nat × List Nat × List Int :=
  let w := if e.h.fmt = 0 then 32 else 16
  let ls := activeLanes (e.vmask f.imm) w
  (w, ls, ls.map (fun i => unitOf (c.off + toS w (lane idx w i) * (2 ^ shOf f : Nat)) (w / 8)))

def execLdg (h : Hd) (f : RFmt) (s : State) : Out := runR .ldg .ld h f s (fun e => do
  let c ← e.srcA f.sa
  let idx ← e.srcV f.sb
  let (w, ls, os) := e.gatherLanes f c idx
  orWait (e.overlapWait false c (os.map (·, w / 8))) (e.checkUnits (aIndex f.sa) 0 c rR false (w / 8) os)
  e.start (.gather w ls) (some (e.dest .v f.dst)) (aIndex f.sa) c (os.map (fun o => ldUnit (o.toNat, w / 8))))

/-- A scale load's half (R415). -/
def Env.ldScale (e : Env) (dst sa : BitVec 9) (n : Nat) (os : Cap → List Int) : Except Stop State := do
  let old ← e.srcV dst
  let c ← e.srcA sa
  let l := os c
  orWait (e.overlapWait false c (l.map (·, n))) (e.checkUnits (aIndex sa) 0 c rR false n l)
  e.start (.ldScale (e.h.fmt.getLsbD 0) old) (some (e.dest .v dst)) (aIndex sa) c (l.map (fun o => ldUnit (o.toNat, n)))

def execLds (h : Hd) (f : MFmt) (s : State) : Out := runM .lds .ld h f s (fun e =>
  e.ldScale f.dt f.ab 64 (fun c => [unitOf (eoDisp f c) 64]))
def execLdsx (h : Hd) (f : RFmt) (s : State) : Out := runR .ldsx .ld h f s (fun e => do
  let b ← e.srcS f.sb
  let st ← e.srcS f.sc
  e.ldScale f.dst f.sa 1 (fun c => (List.range 64).map (fun t => c.off + b.toInt + (t * fld st 0 16 : Nat))))

/-- The deep-file rows that a tile register's descriptor names; none where it is not KIND 1. -/
def Env.descRows (e : Env) (d : Word) (n : Nat) : List Nat :=
  if dKind d = 1 then (List.range n).map (e.x.dfbase + dRow d + ·) else []

/-- The conditions of R178 that a typed access meets, whatever its checks find (R181): its tile's variables, the
image that the window's TYPE gives, and the rows of its descriptor that such an image takes. -/
def Env.typedWaits (e : Env) (store : Bool) (c : Cap) (o : Int) (t : TileReg) : Except Stop Unit := do
  e.blockIf (e.dimPending (twVars t.tw)) 1
  match e.objOf c with
  | some w =>
    let rows := e.descRows t.desc (min (dCount t.desc) (imageRows w.type (twExts w.type)))
    e.blockIf (e.rowsPending rows) 1
    e.blockIf (if store then e.rowsHeld rows [] else e.rowsHeld [] rows) 4
    if w.tw then e.overlapWait store c ((typedUnits w.type w.pitch o.toNat none).map (fun p => ((p.1 : Int), p.2)))
    else .ok ()
  | none => .ok ()

/-- What a typed access binds as it issues: nothing where its window's entry is not valid (R413). -/
def Env.typedBinds (e : Env) (c : Cap) (opnd : Nat) (t : TileReg) : Except Stop Uni :=
  match e.objOf c with
  | some w => e.typedUni opnd t.tw w
  | none => .ok Uni.empty

/-- A typed load (R413, R414). -/
def Env.loadTile (e : Env) (dt sa : BitVec 9) (eo : Cap → Int) : Except Stop State := do
  let c ← e.srcA sa
  let o := unitOf (eo c) 128
  let t := e.srcT dt
  e.asked (e.typedBinds c 4 t)
  orWait (e.typedWaits false c o t) (capCheck (aIndex sa) 0 c (rR ||| rT) o 0)
  e.blockIf (e.dimPending (twVars t.tw)) 1
  match e.objOf c with
  | some w => do
    let (u, tw) ← orWait (e.typedWaits false c o t) (e.typedCheck 4 (aIndex sa) false c o t.tw t.desc w)
    let us := typedUnits tw w.pitch o.toNat none
    let rows := e.descRows t.desc (imageRows tw (twExts tw))
    e.blockIf (e.overlaps false (us.map (fun p => (w.base + p.1, p.2)))) 5
    e.rowCheck [] rows
    let s := e.retT (e.bind u e.s) dt t.tw t.desc
    pure (e.putAccess s (.ldTile tw t.desc rows) (some ⟨.t, dt.toNat, rows, [], [], false⟩) (aIndex sa) c o (us.map ldUnit) true)
  | none => do
    let rows := e.descRows t.desc (dCount t.desc)
    e.rowCheck [] rows
    pure (e.putAccess e.s (.ldTile t.tw t.desc rows)
      (some ⟨.t, dt.toNat, rows, [(.t, dt.toNat)], twVars t.tw, true⟩) (aIndex sa) c o [] false)

/-- A typed store (R413, R414): its rows are read at issue. -/
def Env.storeTile (e : Env) (dt sa : BitVec 9) (eo : Cap → Int) : Except Stop State := do
  let c ← e.srcA sa
  let o := unitOf (eo c) 128
  let t := e.srcT dt
  e.asked (e.typedBinds c 0 t)
  orWait (e.typedWaits true c o t) (capCheck (aIndex sa) 1 c (rW ||| rT) o 0)
  e.blockIf (e.dimPending (twVars t.tw)) 1
  match e.objOf c with
  | some w => do
    let (u, tw) ← orWait (e.typedWaits true c o t) (e.typedCheck 0 (aIndex sa) true c o t.tw t.desc w)
    let rows := e.descRows t.desc (imageRows tw (twExts tw))
    let us := typedStoreUnits tw w.pitch o.toNat (rows.map e.core.row)
    let wait := e.blockIf (e.overlaps true (us.map (fun p => (w.base + p.off, p.len)))) 5
    orWait wait (e.rowCheck rows [])
    wait
    pure (e.putAccess (e.bind u e.s) (.stTile tw t.desc (rows.map e.core.row)) none (aIndex sa) c o us true)
  | none => do
    let rows := e.descRows t.desc (dCount t.desc)
    e.rowCheck rows []
    pure (e.putAccess e.s (.stTile t.tw t.desc (rows.map e.core.row))
      (some ⟨.t, dt.toNat, [], [(.t, dt.toNat)], twVars t.tw, false⟩) (aIndex sa) c o [] false)

def execLdt (h : Hd) (f : MFmt) (s : State) : Out := runM .ldt .ld h f s (fun e => e.loadTile f.dt f.ab (eoDisp f))
def execLdtx (h : Hd) (f : RFmt) (s : State) : Out := runR .ldtx .ld h f s (fun e => do
  let i ← e.srcS f.sb
  e.loadTile f.dst f.sa (eoIndex i (shOf f)))
def execStt (h : Hd) (f : MFmt) (s : State) : Out := runM .stt .st h f s (fun e => e.storeTile f.dt f.ab (eoDisp f))
def execSttx (h : Hd) (f : RFmt) (s : State) : Out := runR .sttx .st h f s (fun e => do
  let i ← e.srcS f.sb
  e.storeTile f.sc f.sa (eoIndex i (shOf f)))

/-- A scalar store with a displacement, and with an index (R408). -/
def Env.stDisp (e : Env) (f : MFmt) (n : Nat) : Except Stop State := do
  let d ← e.srcS f.dt
  e.store1 f.ab (eoDisp f) n (d.setWidth 1024) allBytes
@[inherit_doc Env.stDisp]
def Env.stIndex (e : Env) (f : RFmt) (n : Nat) : Except Stop State := do
  let i ← e.srcS f.sb
  let d ← e.srcS f.sc
  e.store1 f.sa (eoIndex i (shOf f)) n (d.setWidth 1024) allBytes

def execStb (h : Hd) (f : MFmt) (s : State) : Out := runM .stb .st h f s (fun e => e.stDisp f 1)
def execSth (h : Hd) (f : MFmt) (s : State) : Out := runM .sth .st h f s (fun e => e.stDisp f 2)
def execStw (h : Hd) (f : MFmt) (s : State) : Out := runM .stw .st h f s (fun e => e.stDisp f 4)
def execStd (h : Hd) (f : MFmt) (s : State) : Out := runM .std .st h f s (fun e => e.stDisp f 8)
def execStbx (h : Hd) (f : RFmt) (s : State) : Out := runR .stbx .st h f s (fun e => e.stIndex f 1)
def execSthx (h : Hd) (f : RFmt) (s : State) : Out := runR .sthx .st h f s (fun e => e.stIndex f 2)
def execStwx (h : Hd) (f : RFmt) (s : State) : Out := runR .stwx .st h f s (fun e => e.stIndex f 4)
def execStdx (h : Hd) (f : RFmt) (s : State) : Out := runR .stdx .st h f s (fun e => e.stIndex f 8)
def execStv (h : Hd) (f : MFmt) (s : State) : Out := runM .stv .st h f s (fun e => do
  let d ← e.srcV f.dt
  e.store1 f.ab (eoDisp f) 128 d allBytes)
def execStvx (h : Hd) (f : RFmt) (s : State) : Out := runR .stvx .st h f s (fun e => do
  let i ← e.srcS f.sb
  let d ← e.srcV f.sc
  e.store1 f.sa (eoIndex i (shOf f)) 128 d allBytes)
def execStvm (h : Hd) (f : RFmt) (s : State) : Out := runR .stvm .st h f s (fun e => do
  let i ← e.srcS f.sb
  let d ← e.srcV f.sc
  e.store1 f.sa (eoIndex i (shOf f)) 128 d (e.x.mReg (bits f.imm.toNat 3 3)))

def execSct (h : Hd) (f : RFmt) (s : State) : Out := runR .sct .st h f s (fun e => do
  let c ← e.srcA f.sa
  let idx ← e.srcV f.sb
  let d ← e.srcV f.sc
  let (w, ls, os) := e.gatherLanes f c idx
  orWait (e.overlapWait true c (os.map (·, w / 8))) (e.checkUnits (aIndex f.sa) 1 c rW true (w / 8) os)
  e.start .store none (aIndex f.sa) c ((ls.zip os).map (fun (i, o) =>
    ⟨o.toNat, w / 8, bytesOf (w / 8) (lane d w i), allBytes, false⟩)))

/-- STCAP (R98, R412). (DESIGN CHOICE, log 66.) -/
def execStcap (h : Hd) (f : MFmt) (s : State) : Out := runM .stcap .st h f s (fun e => do
  let d ← e.srcA f.dt
  let c ← e.srcA f.ab
  let o := unitOf (eoDisp f c) 16
  orWait (e.overlapWait true c [(o, 16)]) (do
    capCheck (aIndex f.ab) 4 c (if d.valid then rW ||| rScap else rW) o 16
    stopIf (d.valid && d.rights &&& rG = 0) (.trap .capRights (capValue (aIndex f.dt) 4 0x80 o))
    e.objCheck (aIndex f.ab) 4 c o 16 true)
  e.start .stCap none (aIndex f.ab) c [⟨o.toNat, 16, bytesOf 16 d.bits.toNat, allBytes, d.valid⟩])

/-- An atomic (R418). -/
def Env.atomic (e : Env) (f : RFmt) (op : AtomOp) : Except Stop State := do
  let b ← e.srcS f.sb
  let v ← if op = .cas then e.srcS f.sc else pure 0
  let c ← e.srcA f.sa
  let n := if e.h.fmt = 0 then 4 else 8
  let o := unitOf (c.off + f.imm.toInt) n
  orWait (e.overlapWait true c [(o, n)]) (do
    capCheck (aIndex f.sa) 1 c (rR ||| rW) o n
    e.objCheck (aIndex f.sa) 1 c o n true)
  e.start (.atomic op (8 * n) b v) (some (e.dest .s f.dst)) (aIndex f.sa) c [ldUnit (o.toNat, n)]

def execAadd (h : Hd) (f : RFmt) (s : State) : Out := runR .aadd .st h f s (fun e => e.atomic f .add)
def execAmin (h : Hd) (f : RFmt) (s : State) : Out := runR .amin .st h f s (fun e => e.atomic f .min)
def execAmax (h : Hd) (f : RFmt) (s : State) : Out := runR .amax .st h f s (fun e => e.atomic f .max)
def execAminu (h : Hd) (f : RFmt) (s : State) : Out := runR .aminu .st h f s (fun e => e.atomic f .minu)
def execAmaxu (h : Hd) (f : RFmt) (s : State) : Out := runR .amaxu .st h f s (fun e => e.atomic f .maxu)
def execAand (h : Hd) (f : RFmt) (s : State) : Out := runR .aand .st h f s (fun e => e.atomic f .and)
def execAor (h : Hd) (f : RFmt) (s : State) : Out := runR .aor .st h f s (fun e => e.atomic f .or)
def execAxor (h : Hd) (f : RFmt) (s : State) : Out := runR .axor .st h f s (fun e => e.atomic f .xor)
def execAxch (h : Hd) (f : RFmt) (s : State) : Out := runR .axch .st h f s (fun e => e.atomic f .xch)
def execAcas (h : Hd) (f : RFmt) (s : State) : Out := runR .acas .st h f s (fun e => e.atomic f .cas)
def execAfadd (h : Hd) (f : RFmt) (s : State) : Out := runR .afadd .st h f s (fun e => e.atomic f .fadd)

/-- A pop of a rink (R195). -/
def Rink.pop (r : Rink) : Rink :=
  { r with head := (r.head + 1) % r.slots, filled := r.filled - 1, free := r.free + 1 }
/-- The absolute row of a rink's tail slot (R194). -/
def Rink.tailRow (r : Rink) : Nat := r.base + (r.head + r.filled + r.infl) % r.slots

/-- POP (R416): the row at HEAD lands two cycles on, and is pending until then. -/
def execPop (h : Hd) (f : RFmt) (s : State) : Out := runR .pop .ld h f s (fun e => do
  let k := f.sa.toNat
  let r := e.core.rink k
  stopIf (!r.defd) (engineErr 3 k)
  e.blockIf (r.filled = 0) 2
  let row := r.base + r.head
  e.rowCheck [row] []
  let v := e.core.row row
  let (s, id) := e.s.newId
  let d := e.dest .v f.dst
  let p := { d.pending e id e.h.w with due := some (e.core.cycle + 2) }
  let s := s.modCore e.ci (fun c => c.setRink k r.pop)
  let s := s.modCtx e.ci e.k (fun x => { x with pend := x.pend ++ [p] })
  let pay : Payload := match d.rows with
    | a :: _ => .row a v allBytes
    | [] => .reg .v f.dst.toNat v allBytes
  pure (s.fly e.ci e.k { e.result 2 v false pay 0 with replay := false }))

/-- PUSH (R416): the tail row is written at issue. -/
def execPush (h : Hd) (f : RFmt) (s : State) : Out := runR .push .st h f s (fun e => do
  let k := f.sa.toNat
  let v ← e.srcV f.sc
  let r := e.core.rink k
  stopIf (!r.defd) (engineErr 3 k)
  e.blockIf (r.free = 0) 2
  e.rowCheck [] [r.tailRow]
  stopIf r.src (engineErr 2 k)
  let s := e.s.modCore e.ci (fun c =>
    (c.writeRow r.tailRow v allBytes).setRink k { r with free := r.free - 1, filled := r.filled + 1 })
  pure { s with iss := { s.iss with rows := s.iss.rows ++ [(r.tailRow, e.core.row r.tailRow)] } })

/-- LBD (R196, R417): a declare starts a fill, a release unpins at once and counts its flag; either releases the
block that the id named, whose fill's fault is forgotten. (DEDUCED, log 56.) -/
def execLbd (h : Hd) (f : EFmt) (s : State) : Out := runE .lbd .ld h f s (fun e => do
  let id := f.mod.toNat % 16
  let t := e.s.clearWait (.loadBlock e.ci id)
  let n := (f.imm18.extractLsb' 11 7).toNat
  if n = 0 then
    pure (t.modCore e.ci (fun c => ({ c with lbs := SMap.set LoadBlock.init c.lbs id LoadBlock.init } : Core).postFlag f.flag.toNat 1 e.x.pts))
  else do
    let c ← e.srcA f.sa
    let o := unitOf (c.off + (f.imm18.extractLsb' 0 11).toInt * 64) 64
    capCheck (aIndex f.sa) 0 c rR o (64 * n)
    e.objCheck (aIndex f.sa) 0 c o (64 * n) false
    let b : LoadBlock :=
      { st := .filling
        cap := c
        start := o.toNat
        count := n
        flag := f.flag
        space := e.s.spaceOf e.ci
        ctx := e.k
        lines := [] }
    pure (t.modCore e.ci (fun c => { c with lbs := SMap.set LoadBlock.init c.lbs id b })))

end Sys2Proof.Machine
end

