-- ==== Sys2Proof/Machine/PrefixPool.lean ====
section
/-!
DEFINITION. The geometry of a prefix-index pool (R125, R127) and the regions of its commands (R140).
-/

namespace Sys2Proof.Machine

/-- Pool `p`. -/
def State.pool (s : State) (p : Nat) : PxPool := SMap.get PxPool.init s.px p
/-- Write pool `p`. -/
def State.setPool (s : State) (p : Nat) (x : PxPool) : State := { s with px := SMap.set PxPool.init s.px p x }

/-- The fields of PXCFG, PXOBJ and PXCB (R125). -/
def PxPool.enabled (x : PxPool) : Bool := x.cfg.getLsbD 0
@[inherit_doc PxPool.enabled] def PxPool.lnd (x : PxPool) : Nat := fld x.cfg 5 5
@[inherit_doc PxPool.enabled] def PxPool.lsq (x : PxPool) : Nat := fld x.cfg 10 5
@[inherit_doc PxPool.enabled] def PxPool.lpg (x : PxPool) : Nat := fld x.cfg 15 5
@[inherit_doc PxPool.enabled] def PxPool.p (x : PxPool) : Nat := 8 * 2 ^ fld x.cfg 20 2
@[inherit_doc PxPool.enabled] def PxPool.nh (x : PxPool) : Nat := fld x.cfg 22 10 + 1
@[inherit_doc PxPool.enabled] def PxPool.space (x : PxPool) : BitVec 16 := x.cfg.extractLsb' 48 16
@[inherit_doc PxPool.enabled] def PxPool.npages (x : PxPool) : Nat := 2 ^ x.lpg
@[inherit_doc PxPool.enabled] def PxPool.nseq (x : PxPool) : Nat := 2 ^ x.lsq
@[inherit_doc PxPool.enabled] def PxPool.nnodes (x : PxPool) : Nat := 2 ^ x.lnd
@[inherit_doc PxPool.enabled] def PxPool.metaobj (x : PxPool) : Nat := fld x.obj 0 24
@[inherit_doc PxPool.enabled] def PxPool.poolobj (x : PxPool) : Nat := fld x.obj 24 24
@[inherit_doc PxPool.enabled] def PxPool.cbobj (x : PxPool) : Nat := fld x.cb 0 24
@[inherit_doc PxPool.enabled] def PxPool.nspare (x : PxPool) : Nat := fld x.cb 32 24
/-- The bytes of a slot (R126). -/
def PxPool.slotb (x : PxPool) : Nat := x.p * x.nh * 32
/-- The byte of a page entry, and of a sequence entry, in the metadata (R127). -/
def PxPool.pageAt (_x : PxPool) (q : Nat) : Nat := 8 * q
@[inherit_doc PxPool.pageAt] def PxPool.seqAt (x : PxPool) (n : Nat) : Nat := 8 * x.npages + 256 * n

/-- The bytes of a range, page by page: address and length. -/
def pagesOf (lo n : Nat) : List (Nat × Nat) :=
  if n = 0 then [] else
    (List.range ((lo + n - 1) / 65536 - lo / 65536 + 1)).map (fun i =>
      let a := max lo ((lo / 65536 + i) * 65536)
      (a, min (lo + n) ((lo / 65536 + i + 1) * 65536) - a))

/-- What memory holds at a range of a space, where it is mapped; nothing in the machine changes. -/
def State.peek (s : State) (sp : BitVec 16) (dva n : Nat) : Option (List Byte) :=
  match s.space 0 sp with
  | none => none
  | some (root, _, _) =>
    (pagesOf dva n).foldl (fun acc p => match acc, (s.walkFrom p.1 false false 3 root 0 walkLevels).1 with
      | some l, .leaf d _ pa key _ _ _ => some (l ++ s.memRead key (pa + (p.1 - d)) p.2)
      | _, _ => none) (some [])

/-- A range of an object under the stores that stand before it in the context's port: its bytes once they have
performed (R272, R279). -/
def Ctx.storesOver (x : Ctx) (obj lo : Nat) (bs : List Byte) : List Byte :=
  x.port.foldl (fun bs p => match p.item with
    | .acc a => if a.cap.obj = obj && a.kind.writes then a.units.foldl (fun bs u =>
        bs.zipIdx.map (fun b => if u.off ≤ lo + b.2 && lo + b.2 < u.off + u.len && u.en.getLsbD (lo + b.2 - u.off)
          then u.data.getD (lo + b.2 - u.off) b.1 else b.1)) bs
      else bs
    | _ => bs) bs

/-- What a command issued now will find in a range of an object, where the object and its pages are mapped: memory
under the stores of the context's port (R272, R279). -/
def Env.peek (e : Env) (obj lo n : Nat) : Option (List Byte) :=
  let sp := e.s.spaceOf e.ci
  (e.s.object e.ci sp obj).bind (fun o => (e.s.peek sp (o.base + lo) n).map (e.x.storesOver obj lo))

/-- All memory of a space: what a command may touch whose block cannot be read yet (R278). (DEDUCED, log 47.) -/
def allMemory : List Region := [.mem 0 (2 ^ 48)]

/-- The bytes of a command's body (R135 to R139). -/
def pxBody (opc count : Nat) : Nat :=
  match opc with
  | 1 | 2 => 32
  | 3 => 32 + 4 * count
  | 4 => 32 * count
  | 5 => 4 * count
  | _ => 0

/-- The regions of a prefix-index command from its argument block as it stands at issue (R140, R278): the block, the
BREFs, the page and sequence tables whole, and for APPEND the slots whole, for a set holds four ranges at most
and the entries and slots that items will take are not known. Where the block cannot be read yet, all memory; a pool that
is not READY at issue may be by the time the command runs, so its size is that of its registers. (DEDUCED, log 27.) -/
def Env.pxRegions (e : Env) (opc : Nat) (c : Cap) (o : Int) : List Region × List Region :=
  let sp := e.s.spaceOf e.ci
  let range (obj lo n : Nat) : List Region := if n = 0 then [] else match e.s.object e.ci sp obj with
    | some x => [.mem (x.base + lo) (x.base + lo + n)]
    | none => [.obj obj lo (lo + n)]
  match e.s.object e.ci sp c.obj with
  | none => (allMemory, allMemory)
  | some _ =>
    match e.peek c.obj o.toNat 32 with
    | none => (allMemory, allMemory)
    | some h =>
      let body := min (pxBody (getLe h 0 1) (min (getLe h 2 2) 4096)) (c.len - o.toNat - 32)
      let blk := range c.obj o.toNat (32 + body)
      let x := e.s.pool (getLe h 1 1 % 8)
      if getLe h 0 1 ≠ opc || x.space ≠ sp then (blk, blk)
      else match e.peek c.obj (o.toNat + 32) body with
        | none => (allMemory, allMemory)
        | some b =>
          let refs := if opc ≤ 3 then [16] else if opc = 4 then (List.range (body / 32)).map (fun i => 32 * i + 16) else []
          let reads := refs.flatMap (fun i => range (getLe b i 3) (getLe b (i + 3) 6) (getLe b (i + 9) 5))
          let slots := if opc = 4 then range x.poolobj 0 ((x.npages + x.nspare) * x.slotb) else []
          let tables := if opc = 1 then [] else range x.metaobj 0 (x.seqAt x.nseq)
          (blk ++ reads ++ slots, blk ++ slots ++ tables)

end Sys2Proof.Machine
end

