-- ==== Sys2Proof/Machine/EngineIsa.lean ====
section
/-!
DEFINITION. The EG slot: copy configuration and gos, rinks, merge commands, prefix-index commands, work
distributor commands, the fabric, storage reads and replay acknowledgement (R419, R421 to R440).
-/

namespace Sys2Proof.Machine

/-- The flag of a command with FV (R419). -/
def fvFlag (f : EFmt) : Option (BitVec 5) := if f.mod.getLsbD 5 then some f.flag else none

/-- The live jobs of a list of cores of a kind. -/
def State.jobCount (s : State) (cores : List Nat) (p : JobKind → Bool) : Nat :=
  (cores.map (fun ci => ((s.coreJobs ci).filter (fun j => p j.kind)).length)).foldl (· + ·) 0

/-- The cores that hold anything, by a condition on their number. -/
def State.coresWith (s : State) (p : Nat → Bool) : List Nat := (s.cores.map (·.1)).filter p

/-- Whether a core's queue of a kind of job holds `n` (R421). -/
def Env.coreFull (e : Env) (n : Nat) (p : JobKind → Bool) : Bool := n ≤ e.s.jobCount [e.ci] p
/-- Whether a context's queue of a kind of job holds `n` (R421). -/
def Env.ctxFull (e : Env) (n : Nat) (p : JobKind → Bool) : Bool :=
  n ≤ ((e.s.ctxJobs e.ci e.k).filter (fun j => p j.kind)).length

/-- Hand over a command that returns no result (R421). -/
def Env.command (e : Env) (s : State) (kind : JobKind) (flag : Option (BitVec 5)) (rd wr : List Region) : State :=
  e.issue s (e.job kind flag none rd wr)

/-- Hand over a command whose result will land in registers and in the slot's latch (R421). -/
def Env.query (e : Env) (kind : JobKind) (flag : Option (BitVec 5)) (regs : List (Cls × Nat))
    (rd wr : List Region) : State :=
  let (s, id) := e.s.newId
  let p : Pending :=
    { id := id
      bseq := e.x.seq
      load := false
      slot := e.slot
      w := e.h.w
      latch := true
      regs := if e.h.w then regs else []
      rows := []
      ds := []
      due := none }
  let s := s.modCtx e.ci e.k (fun x => { x with pend := x.pend ++ [p] })
  e.issue s (e.job kind flag (some id) rd wr)

/-- A scalar destination, and a pair (R311). -/
def sDest (f : EFmt) : List (Cls × Nat) := [(.s, f.dst.toNat)]
@[inherit_doc sDest] def pairDest (f : EFmt) : List (Cls × Nat) := [(.s, f.dst.toNat), (.s, f.dst.toNat + 1)]

def execCtw (h : Hd) (f : RFmt) (s : State) : Out := runR .ctw .eg h f s (fun e => do
  let a ← e.srcS f.sa
  pure (e.s.modCtx e.ci e.k (fun x => { x with ctab := tabWrite x.ctab (f.imm.toNat % 16) a (BitVec.allOnes 64) })))
def execCtwi (h : Hd) (f : LFmt) (s : State) : Out := runL .ctwi .eg h f s (fun e =>
  let (w, v, m) := halfWrite f
  pure (e.s.modCtx e.ci e.k (fun x => { x with ctab := tabWrite x.ctab w v m })))
def execCtr (h : Hd) (f : RFmt) (s : State) : Out := runR .ctr .eg h f s (fun e =>
  e.retS 1 f.dst (tabWord e.x.ctab (f.imm.toNat % 16)))

/-- The stores that a copy go names (R424). -/
inductive CpStore where
  | m | d | e | a | k
  deriving DecidableEq, Repr

/-- An operand of a plain copy go with its checks and its region (R249, R250, R424): `field` is its
register, `role` 0 source, 1 destination, 2 index; `lo` and `hi` the reach of its stream, `u` the
unit, `indexed` whether its addresses are known only as the job runs, `idle` whether the nest runs no
iteration. -/
def Env.cpOperand (e : Env) (st : CpStore) (field : BitVec 9) (role : Nat) (lo hi : Int) (u : Nat)
    (indexed idle : Bool) : Except Stop (CpOperand × List Region) := do
  let inStore (base size grain : Nat) (region : Nat → Nat → Region) : Except Stop (List Region) := do
    let a := if indexed then 0 else unitOf (base + lo) u
    let b : Int := if indexed then size else unitOf (base + hi) u + u
    stopIf (!idle && (a < 0 || (size : Int) < b)) (engineErr 5 role)
    pure (if idle then [] else [region (a.toNat / grain) (ceilDiv b.toNat grain)])
  match st with
  | .k =>
    let k := field.toNat
    let r := e.core.rink k
    stopIf (!r.defd) (engineErr 3 k)
    stopIf (!r.src) (engineErr 2 k)
    pure (.rink k, [.rows r.base (r.base + r.slots)])
  | .m =>
    let c ← e.srcA field
    let need := if role = 1 then rW else rR
    if indexed || idle then do
      e.engCap (aIndex field) c need c.off 0
      pure (.mem c, if idle then [] else e.memRegion c 0 c.len)
    else do
      let a := unitOf (c.off + lo) u
      let n := (unitOf (c.off + hi) u + u - a).toNat
      e.engCap (aIndex field) c need a n
      pure (.mem c, e.memRegion c a n)
  | .e =>
    let v ← e.srcS field
    stopIf (u ≠ 64) (engineErr 6 1)
    let b := fld v 0 10
    let g ← inStore (b * 64) 65536 64 (fun x y => .edge (v.getLsbD 10) x y)
    pure (.edge (v.getLsbD 10) b, g)
  | .a =>
    let v ← e.srcS field
    stopIf (role = 1 && u < 4) (engineErr 6 1)
    let g ← inStore (fld v 0 16 * 4) 262144 4 (fun x y => .acm x y)
    pure (.acm (fld v 0 16), g)
  | .d =>
    let v ← e.srcS field
    let g ← inStore (fld v 0 11 * 128) (e.x.dflen * 128) 128 (fun x y => .rows (e.x.dfbase + x) (e.x.dfbase + y))
    pure (.deep (e.x.dfbase + fld v 0 11), g)

/-- The plain copy go (R248 to R251, R424). -/
def Env.plainGo (e : Env) (src dst : CpStore) (f : EFmt) : Except Stop State := do
  let t := e.x.ctab
  let slr := e.x.sr.slr
  let ix := f.mod.getLsbD 4
  stopIf (nestBad .copy t) (engineErr 4 0)
  stopIf (ix ≠ (nIdx t ≠ 0)) (engineErr 6 2)
  let op : BitVec 2 := if dst = .a then f.mod.extractLsb' 0 2 else 0
  stopIf (2 ≤ op) (engineErr 6 1)
  let idle := nestIters t slr = 0
  let u := 2 ^ nUsz t
  let (l0, h0) := nestReach t slr 0
  let (l1, h1) := nestReach t slr 1
  let (l2, h2) := nestReach t slr 2
  let (a, ra) ← e.cpOperand src f.sa 0 l0 h0 u (nIdx t = 1) idle
  let (d, rd) ← e.cpOperand dst f.dst 1 l1 h1 u (nIdx t = 2) idle
  let (i, ri) ← if ix then (e.cpOperand .m f.sb 2 l2 h2 4 false idle).map (fun p => (some p.1, p.2)) else pure (none, [])
  let idx := match i with
    | some (.mem c) => some c
    | _ => none
  pure (e.command e.s (.plain t slr a d idx op (dst = .a && f.mod.getLsbD 2)) (fvFlag f) (ra ++ ri) rd)

/-- The bundle-expand go (R254, R425). -/
def Env.expandGo (e : Env) (f : EFmt) : Except Stop State := do
  stopIf (f.mod.getLsbD 4) (engineErr 6 2)
  let c ← e.srcA f.sa
  let v ← e.srcS f.dst
  capCheck (aIndex f.sa) 3 c (rX ||| rE) c.off 16
  let b := fld v 0 10
  pure (e.command e.s (.expand c (v.getLsbD 10) b) (fvFlag f)
    (e.memRegion c c.off (c.len - c.off.toNat)) [.edge (v.getLsbD 10) b 1024])

/-- A copy go (R424, R425). -/
def Env.copyGo (e : Env) (src dst : CpStore) (f : EFmt) : Except Stop State := do
  e.blockIf e.copyFull 3
  let tsel := e.h.fmt.toNat
  if tsel = 0 then e.plainGo src dst f
  else if tsel = 5 && src = .m && dst = .e then e.expandGo f
  else .error (engineErr 6 0)

def execCgomm (h : Hd) (f : EFmt) (s : State) : Out := runE .cgomm .eg h f s (fun e => e.copyGo .m .m f)
def execCgomd (h : Hd) (f : EFmt) (s : State) : Out := runE .cgomd .eg h f s (fun e => e.copyGo .m .d f)
def execCgome (h : Hd) (f : EFmt) (s : State) : Out := runE .cgome .eg h f s (fun e => e.copyGo .m .e f)
def execCgoma (h : Hd) (f : EFmt) (s : State) : Out := runE .cgoma .eg h f s (fun e => e.copyGo .m .a f)
def execCgomk (h : Hd) (f : EFmt) (s : State) : Out := runE .cgomk .eg h f s (fun e => e.copyGo .m .k f)
def execCgodm (h : Hd) (f : EFmt) (s : State) : Out := runE .cgodm .eg h f s (fun e => e.copyGo .d .m f)
def execCgodd (h : Hd) (f : EFmt) (s : State) : Out := runE .cgodd .eg h f s (fun e => e.copyGo .d .d f)
def execCgode (h : Hd) (f : EFmt) (s : State) : Out := runE .cgode .eg h f s (fun e => e.copyGo .d .e f)
def execCgoda (h : Hd) (f : EFmt) (s : State) : Out := runE .cgoda .eg h f s (fun e => e.copyGo .d .a f)
def execCgodk (h : Hd) (f : EFmt) (s : State) : Out := runE .cgodk .eg h f s (fun e => e.copyGo .d .k f)
def execCgoam (h : Hd) (f : EFmt) (s : State) : Out := runE .cgoam .eg h f s (fun e => e.copyGo .a .m f)
def execCgoad (h : Hd) (f : EFmt) (s : State) : Out := runE .cgoad .eg h f s (fun e => e.copyGo .a .d f)
def execCgoae (h : Hd) (f : EFmt) (s : State) : Out := runE .cgoae .eg h f s (fun e => e.copyGo .a .e f)
def execCgoaa (h : Hd) (f : EFmt) (s : State) : Out := runE .cgoaa .eg h f s (fun e => e.copyGo .a .a f)
def execCgoak (h : Hd) (f : EFmt) (s : State) : Out := runE .cgoak .eg h f s (fun e => e.copyGo .a .k f)

/-- RKDEF (R194, R426): the definition takes effect at commit, after a push or pop of its bundle. -/
def execRkdef (h : Hd) (f : EFmt) (s : State) : Out := runE .rkdef .eg h f s (fun e => do
  let k := f.sa.toNat
  let v ← e.srcS f.sb
  let row := fld v 0 11
  let n := fld v 16 9
  e.blockIf ((e.core.rink k).infl ≠ 0) 3
  stopIf (n = 0 || 256 < n || e.x.dflen < row + n) (engineErr 1 k)
  let r : Rink :=
    { defd := true
      src := f.mod.getLsbD 0
      head := 0
      base := e.x.dfbase + row
      slots := n
      free := n
      filled := 0
      infl := 0
      landed := [] }
  pure (e.s.modCore e.ci (fun c => c.setRink k r)))

/-- The merge session of a core's cluster. -/
def State.merge (s : State) (ci : Nat) : Merge := SMap.get Merge.init s.merges (ci / 16)

/-- The queue of the cluster's merge network, and R422 for a push, a close or a status query. -/
def Env.mergeCheck (e : Env) (mayIdle : Bool) : Except Stop Unit := do
  let m := e.s.merge e.ci
  let own := m.st ≠ .idle && m.task = e.s.taskIdOf e.ci
  stopIf (!own && !(mayIdle && m.st = .idle)) (engineErr 8 0)

/-- A full merge queue blocks (R240). -/
def Env.mergeRoom (e : Env) : Except Stop Unit :=
  e.blockIf (16 ≤ e.s.jobCount (e.s.coresWith (fun n => n / 16 = e.ci / 16)) JobKind.isMerge) 3

/-- The memory that a BREF names in a space (R85, R278). -/
def State.brefRegion (s : State) (ci : Nat) (sp : BitVec 16) (b : Bref) : List Region :=
  match s.object ci sp b.obj with
  | some o => if b.len = 0 then [] else [.mem (o.base + b.off) (o.base + b.off + b.len)]
  | none => if b.len = 0 then [] else [.obj b.obj b.off (b.off + b.len)]

/-- The regions of SPILL, OUT, PTR and STAT of an open session (R465). -/
def Env.mergeRegions (e : Env) (l : List (Merge → Bref)) : List Region :=
  let m := e.s.merge e.ci
  if m.st = .idle then [] else l.flatMap (fun g => e.s.brefRegion e.ci m.space (g m))

/-- MOPEN (R427, R428). STAT is that of the open block as it stands at issue; where the block cannot be read yet, all
memory (R465). (DEDUCED, log 47.) -/
def execMopen (h : Hd) (f : EFmt) (s : State) : Out := runE .mopen .eg h f s (fun e => do
  e.mergeRoom
  let c ← e.srcA f.sa
  let o := unitOf c.off 16
  e.engCap (aIndex f.sa) c rR o 80
  let stat : List Region := match e.peek c.obj o.toNat 80 with
    | none => allMemory
    | some b =>
      let v := getLe b 64 16
      if 2 ^ 112 ≤ v then []
      else e.s.brefRegion e.ci (e.s.spaceOf e.ci) ⟨bits v 0 24, bits v 24 48, min 32 (bits v 72 40)⟩
  pure (e.query (.mopen (c.withOff o) (fld e.x.sr.mcap 0 16)) (some f.flag) (sDest f) (e.memRegion c o 80) stat))

/-- The records of a push (R266, R429). -/
def pushRecs (v : Row) (n : Nat) : List (Word × BitVec 32) :=
  (List.range n).map (fun r => (BitVec.ofNat 64 (lane v 64 (2 * r)), BitVec.ofNat 32 (lane v 32 (4 * r + 2))))

/-- MPUSH and MPUSHE (R429). -/
def Env.mpush (e : Env) (f : EFmt) (ending : Bool) : Except Stop State := do
  let v ← e.srcV f.sa
  let b ← e.srcS f.sb
  e.mergeRoom
  e.mergeCheck false
  pure (e.command e.s (.mpush (fld b 0 4) (pushRecs v (f.mod.toNat % 16)) ending) none []
    (e.mergeRegions [Merge.spill, Merge.out]))

def execMpush (h : Hd) (f : EFmt) (s : State) : Out := runE .mpush .eg h f s (fun e => e.mpush f false)
def execMpushe (h : Hd) (f : EFmt) (s : State) : Out := runE .mpushe .eg h f s (fun e => e.mpush f true)
def execMclose (h : Hd) (f : EFmt) (s : State) : Out := runE .mclose .eg h f s (fun e => do
  e.mergeRoom
  e.mergeCheck false
  pure (e.command e.s .mclose none (e.mergeRegions [Merge.spill])
    (e.mergeRegions [Merge.spill, Merge.out, Merge.ptr, Merge.stat])))
def execMstat (h : Hd) (f : EFmt) (s : State) : Out := runE .mstat .eg h f s (fun e => do
  e.mergeRoom
  e.mergeCheck true
  pure (e.query .mstat none (sDest f) [] []))

/-- The commands that a request port of the prefix index holds: those in its queue, remote ones among them, and those
on their way to it from the cores of its die (R124). -/
def State.pxHeld (s : State) (die : Nat) : Nat :=
  (SMap.get [] s.pxq die).length +
    ((s.coresWith (fun n => n / 256 = die)).map (fun n => (s.core n).coming JobKind.isPx)).foldl (· + ·) 0

/-- A prefix-index command (R124, R431): OPC, the argument block at a(SA), FLAG always posted. -/
def Env.pxCommand (e : Env) (f : EFmt) (opc : Nat) : Except Stop State := do
  e.blockIf (64 ≤ e.s.pxHeld (e.ci / 256)) 3
  let c ← e.srcA f.sa
  let o := unitOf c.off 32
  e.engCap (aIndex f.sa) c (rR ||| rW) o 32
  let g := e.pxRegions opc c o
  pure (e.command e.s (.px opc (c.withOff o)) (some f.flag) g.1 g.2)

def execPxlkp (h : Hd) (f : EFmt) (s : State) : Out := runE .pxlkp .eg h f s (fun e => e.pxCommand f 1)
def execPxins (h : Hd) (f : EFmt) (s : State) : Out := runE .pxins .eg h f s (fun e => e.pxCommand f 2)
def execPxfrk (h : Hd) (f : EFmt) (s : State) : Out := runE .pxfrk .eg h f s (fun e => e.pxCommand f 3)
def execPxapp (h : Hd) (f : EFmt) (s : State) : Out := runE .pxapp .eg h f s (fun e => e.pxCommand f 4)
def execPxrel (h : Hd) (f : EFmt) (s : State) : Out := runE .pxrel .eg h f s (fun e => e.pxCommand f 5)

/-- A full queue of XROUTE, TAKE and LAUNCH blocks (R421). -/
def Env.wdRoom (e : Env) : Except Stop Unit := e.blockIf (e.ctxFull 4 JobKind.isWd) 3

/-- What an XROUTE writes (R171): its descriptor with the states and page lists, and the pool that it names, as the
descriptor stands at issue; where that cannot be read yet, all memory. (DEDUCED, log 47.) -/
def Env.groupRegions (e : Env) (c : Cap) : List Region :=
  match e.peek c.obj c.off.toNat 128 with
  | none => allMemory
  | some b =>
    let n := getLe b 0 2
    let pool : List Region := if 2 ^ 112 ≤ getLe b 32 16 then []
      else e.s.brefRegion e.ci (e.s.spaceOf e.ci) ⟨getLe b 32 3, getLe b 35 6, getLe b 41 5⟩
    e.memRegion c c.off (128 + 16 * n + 4 * ceilDiv (getLe b 2 2) (max 1 (getLe b 4 2)) * n) ++ pool

/-- XROUTE (R432): the choices are expert and gate pairs from the lanes of v(SC). (DEDUCED, log 47.) -/
def execXroute (h : Hd) (f : EFmt) (s : State) : Out := runE .xroute .eg h f s (fun e => do
  let c ← e.srcA f.sa
  let t ← e.srcS f.sb
  let v ← e.srcV f.sc
  e.wdRoom
  e.engCap (aIndex f.sa) c (rR ||| rW) c.off 128
  let ch := (List.range (fld e.x.sr.rdepth 0 4)).map (fun i =>
    (BitVec.ofNat 32 (lane v 32 (2 * i)), BitVec.ofNat 32 (lane v 32 (2 * i + 1))))
  pure (e.query (.xroute c (t.extractLsb' 0 32) ch) (fvFlag f) (sDest f) (e.memRegion c c.off 128) (e.groupRegions c)))
/-- TAKE (R433). -/
def execTake (h : Hd) (f : EFmt) (s : State) : Out := runE .take .eg h f s (fun e => do
  e.wdRoom
  pure (e.query .take none (pairDest f) [] []))
/-- LAUNCH (R434). (DEDUCED, log 47.) -/
def execLaunch (h : Hd) (f : EFmt) (s : State) : Out := runE .launch .eg h f s (fun e => do
  let c ← e.srcA f.sa
  e.wdRoom
  let o := unitOf c.off 64
  e.engCap (aIndex f.sa) c rR o 64
  pure (e.query (.launch (c.withOff o)) (fvFlag f) (sDest f) (e.memRegion c o 64) []))

/-- SEND (R435). -/
def execSend (h : Hd) (f : EFmt) (s : State) : Out := runE .send .eg h f s (fun e => do
  let b ← e.srcS f.sb
  let c ← e.srcS f.sc
  e.blockIf (e.coreFull 16 JobKind.isSend) 3
  let t := e.srcT f.sa
  let u ← e.unify [⟨0, t.tw, .any, .any, .any, .any, []⟩]
  e.nonEmpty 0 t.tw
  e.constant [(0, t.tw)] u
  let x ← e.dataTile 0 .jobSrc (e.resolved u t.tw) t.desc
  pure (e.query (.send x (b.extractLsb' 0 24) (c.extractLsb' 0 16)) (fvFlag f) (sDest f) (e.tileRegion x) []))

/-- RECV and RECVA (R436): the expected type with its bound variables substituted, and the storage of
tD's descriptor. -/
def Env.receive (e : Env) (f : EFmt) (src : Option (BitVec 24)) : Except Stop State := do
  let c ← e.srcS f.sc
  e.blockIf (e.ctxFull 16 JobKind.isRecv) 3
  let t := e.srcT f.dst
  e.blockIf (e.dimPending (twVars t.tw)) 1
  e.uniForm [⟨4, t.tw, .any, .any, .any, .any, []⟩]
  let tw := twWith t.tw (e.extents t.tw)
  let kind (cap : Cap) : JobKind := .recv ⟨tw, t.desc, cap⟩ src (c.extractLsb' 0 16) f.dst.toNat
  match dKind t.desc with
  | 1 =>
    let r := e.x.dfbase + dRow t.desc
    e.blockIf (e.rowsPending ((List.range (dCount t.desc)).map (r + ·))) 1
    pure (e.query (kind Cap.zero) (fvFlag f) [(.t, f.dst.toNat)] [] [.rows r (r + dCount t.desc)])
  | 2 =>
    e.blockIf (e.srcPending (.a, dAreg t.desc)) 1
    let a := e.x.aReg (dAreg t.desc)
    let eo := a.off + dOffset t.desc
    e.engCap (dAreg t.desc) a (rW ||| rT) eo 0
    let g := match e.objOf a with
      | some o => e.memRegion a eo (min a.len o.len - eo.toNat)
      | none => e.memRegion a eo (a.len - eo.toNat)
    pure (e.query (kind (a.withOff eo)) (fvFlag f) [(.t, f.dst.toNat)] [] g)
  | _ => .error (shapeFault e.slot.num 8 4 false
      (if (twExts tw).any isVar then 0 else imageRows tw (twExts tw)) 0)

def execRecv (h : Hd) (f : EFmt) (s : State) : Out := runE .recv .eg h f s (fun e => do
  let b ← e.srcS f.sb
  e.receive f (some (b.extractLsb' 0 24)))
def execRecva (h : Hd) (f : EFmt) (s : State) : Out := runE .recva .eg h f s (fun e => e.receive f none)

/-- COLL (R438): only the descriptor is checked at issue. (DEDUCED, log 47.) -/
def execColl (h : Hd) (f : EFmt) (s : State) : Out := runE .coll .eg h f s (fun e => do
  let a ← e.srcA f.sa
  let b ← e.srcA f.sb
  let c ← e.srcA f.sc
  e.blockIf (e.coreFull 8 JobKind.isColl) 3
  e.engCap (aIndex f.sa) a rR a.off 16
  pure (e.query (.coll a b c e.x.fgrp) (fvFlag f) (sDest f)
    (e.memRegion a a.off 16 ++ e.memRegion b b.off (b.len - b.off.toNat)) (e.memRegion c c.off (c.len - c.off.toNat))))

/-- SGRD (R439): the window is checked over its whole length. (DEDUCED, log 60.) -/
def execSgrd (h : Hd) (f : EFmt) (s : State) : Out := runE .sgrd .eg h f s (fun e => do
  let a ← e.srcA f.sa
  let b ← e.srcS f.sb
  let c ← e.srcS f.sc
  e.blockIf (e.coreFull 32 JobKind.isSgrd) 3
  let n := match e.objOf a with
    | some o => if o.tw then o.len - a.off.toNat else a.len - a.off.toNat
    | none => a.len - a.off.toNat
  e.engCap (aIndex f.sa) a rW a.off n
  pure (e.query (.sgrd a b (fld c 0 6) (fld c 32 32) n) (fvFlag f) (sDest f) [] (e.memRegion a a.off n)))

/-- RPLACK (R440) never blocks: it goes behind the port's earlier entries, with the names of the record
as it stands. (DEDUCED, log 33.) -/
def execRplack (h : Hd) (f : EFmt) (s : State) : Out := runE .rplack .eg h f s (fun e =>
  pure (e.command e.s (.rplack (f.mod.getLsbD 4) e.x.replayIds) (fvFlag f) [] []))

/-- BXFER (R437). -/
def execBxfer (h : Hd) (f : EFmt) (s : State) : Out := runE .bxfer .eg h f s (fun e => do
  let a ← e.srcA f.sa
  let b ← e.srcA f.sb
  let c ← e.srcS f.sc
  e.blockIf (e.coreFull 16 JobKind.isSend) 3
  let n := (a.len - a.off).toNat
  e.engCap (aIndex f.sa) a rR a.off n
  capCheck (aIndex f.sb) 3 b (rW ||| rE) b.off n
  pure (e.query (.bxfer a b (c.extractLsb' 0 24) (c.extractLsb' 24 5) (c.getLsbD 29)) (fvFlag f) (sDest f)
    (e.memRegion a a.off n) []))

end Sys2Proof.Machine
end

