-- ==== Sys2Proof/Machine/Sync.lean ====
section
/-!
DEFINITION. The SY slot: flags (R441 to R445), barriers (R446, R447), gates, fences, yield and sleep
(R448 to R450).
-/

namespace Sys2Proof.Machine

/-- Flag `n` as the context's own operations still in its port will leave it: they stand before this
bundle in S (R272). (DEDUCED, log 37.) -/
def Env.flagView (e : Env) (n : Nat) : Flag :=
  e.x.portOps.foldl (fun g op => match op with
    | .post f m => if f = n then g.postBy m else g
    | .expt f m => if f = n then (g.expect m).getD g else g
    | .rpost dst f m => if f = n && dst = e.s.endpoint e.ci then g.postBy m else g
    | .fclr f => if f = n then g.clear else g
    | .arrive .. => g) (e.core.flag n)

/-- A wait stands in S behind every access and operation that its context issued before it (R271, R272). What can
perform has performed before the bundle is checked (`State.settleFor`); where something cannot, the wait blocks.
(DEDUCED, log 37.) -/
def Env.syOrder (e : Env) : Except Stop Unit := e.blockIf (e.x.port ≠ []) 0

/-- A satisfied wait takes its context's clock past the posts that it counts (R273). -/
def Env.counted (e : Env) (fs : List Nat) : State :=
  e.s.modCtx e.ci e.k (fun x => { x with pts := (fs.map (SMap.get 0 (e.s.core e.ci).flagTs)).foldl max x.pts })

/-- A wait whose flag was refused a post takes FLAG_OVERFLOW instead of waiting (R442). -/
def Env.syOverflow (e : Env) (f : Nat) : Except Stop Unit := stopIf (e.core.flag f).ovf (.overflow f)

/-- The flag field, and the count of IMM18 (R420). -/
def syFlag (f : EFmt) : Nat := f.flag.toNat
@[inherit_doc syFlag] def syCount (f : EFmt) : Nat := f.imm18.toNat

/-- A wait on one flag: it blocks while its condition is false (R443). -/
def Env.waitFlag (e : Env) (f : Nat) (p : Flag → Bool) : Except Stop Unit := do
  e.syOrder
  e.syOverflow f
  e.blockIf (!p (e.core.flag f)) 0

/-- Consume `n` posts of a flag. -/
def Core.consume (c : Core) (f n : Nat) : Core :=
  c.setFlag f { c.flag f with cnt := (c.flag f).cnt - BitVec.ofNat 16 n }

/-- WAIT (R443). -/
def execWait (h : Hd) (f : EFmt) (s : State) : Out := runE .wait .sy h f s (fun e => do
  e.waitFlag (syFlag f) (fun g => decide (syCount f ≤ g.cnt.toNat))
  pure (e.counted [syFlag f]))
/-- WAIT.ph (R443). -/
def execWaitPh (h : Hd) (f : EFmt) (s : State) : Out := runE .waitPh .sy h f s (fun e => do
  let a ← e.srcS f.sa
  e.waitFlag (syFlag f) (fun g => g.ph != a.extractLsb' 0 16)
  pure (e.counted [syFlag f]))
/-- WAITS (R443). -/
def execWaits (h : Hd) (f : EFmt) (s : State) : Out := runE .waits .sy h f s (fun e => do
  e.waitFlag (syFlag f) (fun g => decide (syCount f ≤ g.cnt.toNat))
  pure ((e.counted [syFlag f]).modCore e.ci (fun c => c.consume (syFlag f) (syCount f))))
/-- WAITM (R443): every flag of the mask. -/
def execWaitm (h : Hd) (f : EFmt) (s : State) : Out := runE .waitm .sy h f s (fun e => do
  let a ← e.srcS f.sa
  let fs := (List.range 32).filter (fun i => a.getLsbD i)
  if fs ≠ [] then e.syOrder else .ok ()
  match fs.find? (fun i => (e.core.flag i).ovf) with
  | some i => .error (.overflow i)
  | none =>
    e.blockIf (fs.any (fun i => (e.core.flag i).cnt = 0)) 0
    let s := e.counted fs
    pure (if f.mod.getLsbD 0 then s.modCore e.ci (fun c => fs.foldl (fun c i => c.consume i 1) c) else s))

/-- The step of its bundle at which an operation of the SY slot stands (R272). -/
def SyOp.stage : SyOp → Nat
  | .expt .. => 1
  | _ => 5
/-- An operation of the SY slot: it leaves the port behind the accesses before it (R272). -/
def Env.syOp (e : Env) (op : SyOp) : State := e.s.intoPort e.ci e.k e.x.seq op.stage (.sy op)

/-- A change of a flag by a bundle (R442, R444): one that is refused faults at issue, and so does one that would have a change
refused that another context has committed. (DEDUCED, log 37.) -/
def Env.ownChange (e : Env) (f : Nat) (change : Flag → Option Flag) (op : SyOp) : Except Stop State :=
  let g := e.flagView f
  match (change g).filter (e.core.keeps f ([0, 1, 2, 3].filter (· ≠ e.k))) with
  | none => .error (.trap .flagOverflow (flagValue f g))
  | some _ => .ok (e.syOp op)

/-- POST and POSTS (R444). -/
def Env.postFlag (e : Env) (f n : Nat) : Except Stop State := e.ownChange f (·.post n) (.post f n)

def execPost (h : Hd) (f : EFmt) (s : State) : Out := runE .post .sy h f s (fun e => e.postFlag (syFlag f) (syCount f))
def execPosts (h : Hd) (f : EFmt) (s : State) : Out := runE .posts .sy h f s (fun e => do
  let a ← e.srcS f.sa
  e.postFlag (syFlag f) a.toNat)
/-- RPOST (R444). -/
def execRpost (h : Hd) (f : EFmt) (s : State) : Out := runE .rpost .sy h f s (fun e => do
  let a ← e.srcS f.sa
  pure (e.syOp (.rpost (a.extractLsb' 0 24) (syFlag f) (syCount f))))
/-- EXPT (R444): a refused expectation faults at issue (R442). -/
def execExpt (h : Hd) (f : EFmt) (s : State) : Out := runE .expt .sy h f s (fun e =>
  e.ownChange (syFlag f) (·.expect (syCount f)) (.expt (syFlag f) (syCount f)))
/-- FRD (R445). -/
def execFrd (h : Hd) (f : EFmt) (s : State) : Out := runE .frd .sy h f s (fun e =>
  let g := e.flagView (syFlag f)
  e.retS 1 f.dst ((0 : BitVec 16) ++ g.ph ++ g.exp ++ g.cnt))
/-- FCLR (R445). -/
def execFclr (h : Hd) (f : EFmt) (s : State) : Out := runE .fclr .sy h f s (fun e =>
  pure (e.syOp (.fclr (syFlag f))))

/-- The barrier operand (R420). -/
def syBar (f : EFmt) : Nat := f.mod.toNat % 4

/-- The instance of bj that the context's DMR names; none at level 0 (R167, R168). -/
def Env.instance_ (e : Env) (j : Nat) : Option Barrier :=
  let l := e.x.lvl j
  if l = 0 then none else some (e.s.barrier (e.s.taskIdOf e.ci) j l (domainOf l e.ci e.x))

/-- An arrival (R446): it blocks while an earlier one is pending, and has no effect at level 0. -/
def Env.arrival (e : Env) (j : Nat) : Except Stop State := do
  e.blockIf (SMap.get 0 e.x.arrived j ≠ 0) 0
  match e.instance_ j with
  | none => pure e.s
  | some b =>
    let t := e.s.modCtx e.ci e.k (fun x => { x with arrived := SMap.set 0 x.arrived j 1 })
    pure ({ e with s := t }.syOp (.arrive j b.lvl b.dom))

/-- ARV (R446). -/
def execArv (h : Hd) (f : EFmt) (s : State) : Out := runE .arv .sy h f s (fun e => e.arrival (syBar f))
/-- ARVW (R446): the next bundle waits for the phase. -/
def execArvw (h : Hd) (f : EFmt) (s : State) : Out := runE .arvw .sy h f s (fun e => do
  let t ← e.arrival (syBar f)
  pure (if (e.instance_ (syBar f)).isNone then t
    else { t.modCtx e.ci e.k (fun x => { x with arvw := some (syBar f) }) with iss := { t.iss with arvw := true } }))
/-- BWAIT (R446). -/
def execBwait (h : Hd) (f : EFmt) (s : State) : Out := runE .bwait .sy h f s (fun e => do
  e.blockIf (SMap.get 0 e.x.arrived (syBar f) ≠ 0) 0
  pure e.s)

/-- A read of a barrier instance, as it stands at issue; its words return later (R421, R447). -/
def Env.barrierRead (e : Env) (regs : List (Cls × Nat)) (words : List Word) : State :=
  let (s, id) := e.s.newId
  let p : Pending :=
    { id := id
      bseq := e.x.seq
      load := false
      slot := e.slot
      w := e.h.w
      latch := true
      regs := if e.h.w then regs else []
      rows := []
      ds := []
      due := none }
  let s := s.modCtx e.ci e.k (fun x => { x with pend := x.pend ++ [p] })
  e.issue s { e.job .query none (some id) [] [] with done := true, result := words }

/-- STRAG (R447). -/
def execStrag (h : Hd) (f : EFmt) (s : State) : Out := runE .strag .sy h f s (fun e =>
  let r : Quad := match e.instance_ (syBar f) with
    | some b => b.rcd
    | none => 0
  pure (e.barrierRead (pairDest f) [r.extractLsb' 0 64, r.extractLsb' 64 64]))
/-- BPHASE (R447). -/
def execBphase (h : Hd) (f : EFmt) (s : State) : Out := runE .bphase .sy h f s (fun e =>
  let r : Word := match e.instance_ (syBar f) with
    | some b => (BitVec.ofBool (decide (SMap.get 0 e.x.arrived (syBar f) ≠ 0)) ++ b.phase).setWidth 64
    | none => 0
  pure (e.barrierRead (sDest f) [r]))

/-- A gate commits its cut number (R302, R448). -/
def Env.gate (e : Env) (n : BitVec 32) : State :=
  e.s.modCtx e.ci e.k (fun x => { x with sr := { x.sr with lastcut := n.setWidth 64 } })
def execGate (h : Hd) (f : EFmt) (s : State) : Out := runE .gate .sy h f s (fun e =>
  pure (e.gate (f.imm18.setWidth 32)))
def execGateS (h : Hd) (f : EFmt) (s : State) : Out := runE .gateS .sy h f s (fun e => do
  let a ← e.srcS f.sa
  pure (e.gate (a.extractLsb' 0 32)))

/-- The jobs that an EFENCE covers (R449): every job, the copy engine's, the matrix engine's, or the
others. A posted receive is covered once a request has matched it. -/
def fenceCovers (fmt : Nat) (j : Job) : Bool :=
  let sort := match fmt with
    | 1 => j.kind.isCopy
    | 2 => j.kind.isMatrix
    | 3 => !j.kind.isCopy && !j.kind.isMatrix
    | _ => true
  sort && (match j.kind with
    | .query => false
    | .recv .. => j.started
    | _ => true)

/-- EFENCE (R284, R449). -/
def execEfence (h : Hd) (f : EFmt) (s : State) : Out := runE .efence .sy h f s (fun e => do
  let js := e.s.ctxJobs e.ci e.k ++ e.x.rplacks
  e.blockIf (js.any (fun j => j.bseq ≠ e.x.seq && fenceCovers e.h.fmt.toNat j)) 0
  pure e.s)
/-- IFENCE (R199): no old content of a bundle may be fetched any more. -/
def execIfence (h : Hd) (f : EFmt) (s : State) : Out := runE .ifence .sy h f s (fun e =>
  pure (e.s.modCtx e.ci e.k (fun x => { x with stale := [] })))

/-- YIELD (R450): it blocks at its first check. -/
def Env.yield (e : Env) : Except Stop State := do
  stopIf (!SMap.get false e.x.yielded e.x.pauseKey) (.pause none)
  pure (e.s.modCtx e.ci e.k (fun x => { x with yielded := SMap.set false x.yielded x.pauseKey false }))
def execYield (h : Hd) (f : EFmt) (s : State) : Out := runE .yield .sy h f s (fun e => e.yield)

/-- SLEEP (R450): it fixes its deadline at its first check and blocks until then; SLEEP 0 is YIELD. -/
def Env.sleep (e : Env) (n : Nat) : Except Stop State :=
  match SMap.get none e.x.deadline e.x.pauseKey with
  | some t => do
    e.blockIf (e.s.tick < t) 6
    pure (e.s.modCtx e.ci e.k (fun x => { x with deadline := SMap.set none x.deadline x.pauseKey none }))
  | none => if n = 0 then e.yield else .error (.pause (some (e.s.tick + n)))
def execSleep (h : Hd) (f : EFmt) (s : State) : Out := runE .sleep .sy h f s (fun e => e.sleep (syCount f))
def execSleepS (h : Hd) (f : EFmt) (s : State) : Out := runE .sleepS .sy h f s (fun e => do
  let a ← e.srcS f.sa
  e.sleep a.toNat)

end Sys2Proof.Machine
end

