-- ==== Sys2Proof/Machine/Bundle.lean ====
section
/-!
DEFINITION. Issue of a bundle and the choice of a context (R177 to R182, R313): the fetch, the
illegal-bundle rule, the slots in the order of R272, commit with the hardware loop (R351), template
mode (R262), index-register steps (R191) and gates (R303, R304), and one issue cycle of a core.
-/

namespace Sys2Proof.Machine

/-- How a slot word runs: its instruction, its slot and its word. -/
abbrev Runner := Op → Slot → Word → State → Out

end Sys2Proof.Machine

namespace Sys2Proof

/-- The SY-slot instructions that act at step 1 of their bundle (R272, R443 to R446). -/
def Op.early : Op → Bool
  | .wait | .waitPh | .waits | .waitm | .expt | .frd | .bwait | .efence | .yield | .sleep | .sleepS => true
  | _ => false

end Sys2Proof

namespace Sys2Proof.Machine

/-- The place of a slot in the order in which a bundle's slots take effect (R272); a return from a
trap level and an exit come last. -/
def slotRank (k : Slot) (op : Op) : Nat :=
  match op with
  | .tret | .exit => 9
  | _ => match k with
    | .sc => 0
    | .va => 1
    | .vb => 2
    | .mt => 3
    | .ld => 5
    | .st => 6
    | .eg => 7
    | .sy => if op.early then 4 else 8

/-- How a slot fared. -/
structure Fared where
  k : Slot
  v : Verdict
  deriving DecidableEq, Repr

/-- Run slots in turn: a slot that does not commit leaves the state to the next as it was. -/
def runSlots (run : Runner) : List (Slot × Op × Word) → State → List Fared → Except Out (State × List Fared)
  | [], s, fs => .ok (s, fs)
  | (k, op, w) :: t, s, fs =>
    match run op k w (s.setVerdict .none) with
    | .next u =>
      match u.iss.verdict with
      | .committed | .disabled | .none => runSlots run t u (fs ++ [⟨k, u.iss.verdict⟩])
      | v => runSlots run t s (fs ++ [⟨k, v⟩])
    | o => .error o

/-- The rows on which slots block. -/
def blockRows (fs : List Fared) : List Nat := fs.filterMap (fun f => match f.v with
  | .blocked r => some r.toNat
  | .paused _ => some 6
  | _ => none)

/-- The slots that block. -/
def blockSlots (fs : List Fared) : List Slot := (fs.filter (fun f => match f.v with
  | .blocked _ | .paused _ => true
  | _ => false)).map (·.k)

/-- The trap of a bundle: the cause and value of the lowest-numbered faulting slot, and every slot that
faulted with that cause (R181, R294). -/
def faultOf (fs : List Fared) : Option (Cause × Word × BitVec 8) :=
  let ts := (sortBy (fun (f : Fared) => f.k.num) fs).filterMap (fun f => match f.v with
    | .trapped c v => some (f.k, c, v)
    | _ => none)
  match ts with
  | [] => none
  | (_, c, v) :: _ => some (c, v, slotMask ((ts.filter (fun p => p.2.1 = c)).map (·.1)))

/-- The bundle that a context fetches: where it was written since the context's last IFENCE, its old or
its new content, as a free value says (R199). (DESIGN CHOICE, log 39.) -/
def State.fetch (s : State) (ci k : Nat) : Bundle :=
  let c := s.core ci
  let p := (c.ctx k).pc
  let key := edgeKey p.edge p.idx.toNat
  match (c.ctx k).stale.find? (fun e => e.1 = key) with
  | some (_, old) => if Config.fetchOld s.fresh then old else c.bundle p.edge p.idx.toNat
  | none => c.bundle p.edge p.idx.toNat

/-- Whether a bundle stands between an MSTEP and its MSCL, the MSCL's own included (R180, R261). -/
def Ctx.inStep (x : Ctx) (b : List SlotWord) : Bool :=
  x.owed.any (fun n => 1 ≤ n && n ≤ 5) ||
    (x.owed.contains 6 && b.any (fun s => match s.i with
      | .ok op => op = Op.mscl
      | .error _ => false))

/-- The conditions of R178 that slots meet beside those already found: each run passes over what is known, so that a
slot answers with the next condition that it meets (R295). -/
def State.moreRows (run : Runner) (s : State) (l : List (Slot × Op × Word)) : Nat → List Nat → List Nat
  | 0, known => known
  | n + 1, known =>
    match runSlots run l { s with iss := { s.iss with ask := .rows (known.map (BitVec.ofNat 4)) } } [] with
    | .error _ => known
    | .ok (_, fs) =>
      let new := (blockRows fs).filter (fun r => !known.contains r)
      if new = [] then known else s.moreRows run l n (known ++ new)

/-- The bundle blocks on some rows of R178's table; a SLEEP of it fixes its deadline (R178, R295, R450). -/
def State.blockBundle (s : State) (ci k : Nat) (rows : List Nat) (fs : List Fared) : State :=
  let rows := (runsOf rows).map (BitVec.ofNat 4)
  match fs.findSome? (fun f => match f.v with
      | .paused t => some t
      | _ => none) with
  | some t => s.pauseOn ci k rows t
  | none => s.blockOn ci k rows

/-- The index registers that a bundle names through indirect-row operands (R191, R315). -/
def indexNamed (b : List SlotWord) : List Nat := distinct (b.flatMap (fun s => s.named.rowSrc ++ s.named.rowDst))

/-- The index registers that a bundle's committed slots write. -/
def indexWritten (b : List SlotWord) (fs : List Fared) : List Nat :=
  (b.filter (fun s => fs.any (fun f => f.k = s.k && f.v = .committed))).flatMap (fun s =>
    (s.named.writes.filter (fun p => p.1 == .x)).map (·.2))

/-- One step of an index register (R191). -/
def stepIndex (len : Nat) (v : BitVec 32) : BitVec 32 :=
  let row := ((((v.extractLsb' 0 11).toNat : Int) + toS 12 (v.extractLsb' 20 12).toNat) % (len : Int)).toNat
  v.extractLsb' 11 21 ++ BitVec.ofNat 11 row

/-- The index-register steps at the end of a bundle (R191). -/
def Ctx.stepIndexes (x : Ctx) (l : List Nat) : Ctx :=
  l.foldl (fun x i => x.setX i (stepIndex x.dflen (x.xReg i))) x

/-- The slots that hold an instruction, in the order in which they take effect. -/
def runList (b : List SlotWord) : List (Slot × Op × Word) :=
  sortBy (fun p => slotRank p.1 p.2.1) (b.filterMap (fun w => match w.i with
    | .ok op => some (w.k, op, w.w)
    | .error _ => none))

/-- The dimension variables that the slots of a bundle bind by unification, whether their predicates enable them or
not and whatever else they meet: the rule that a binding meets is static (R212, R314). Only a bundle that writes a d
register asks. (DEDUCED, log 59.) -/
def State.boundBy (run : Runner) (s : State) (b : List SlotWord) : List (Slot × Nat) :=
  if b.all (fun w => w.named.writes.all (fun p => p.1 ≠ .d)) then []
  else
    ((runList b).foldl (fun (a : State × List (Slot × Nat)) p =>
      match run p.2.1 p.1 p.2.2 (a.1.setVerdict .none) with
      | .next u =>
        let new := u.iss.binds.drop a.1.iss.binds.length
        ({ a.1 with iss := { a.1.iss with binds := a.1.iss.binds ++ new } }, a.2 ++ new.map (fun d => (p.1, d.1)))
      | _ => a) ({ s with iss := { s.iss with ask := .binds } }, [])).2

/-- The fields of LOOPST (R359). -/
def loopCnt (w : Word) : Nat := fld w 32 32
@[inherit_doc loopCnt] def loopAct (w : Word) : Bool := w.getLsbD 23
@[inherit_doc loopCnt] def loopLvl (w : Word) : Nat := fld w 21 2
@[inherit_doc loopCnt] def loopEdge (w : Word) : Bool := w.getLsbD 20
@[inherit_doc loopCnt] def loopEnd (w : Word) : BitVec 10 := w.extractLsb' 10 10
@[inherit_doc loopCnt] def loopStart (w : Word) : BitVec 10 := w.extractLsb' 0 10

/-- The hardware loop acts on a bundle that commits (R351): LOOPST after it, and the bundle it turns to,
or none where it does not act. -/
def loopStep (w : Word) (lvl : Nat) (p : Pc) : Option (Word × Pc) :=
  if loopAct w && loopLvl w = lvl && loopEdge w = p.edge && loopEnd w = p.idx then
    let n : BitVec 32 := BitVec.ofNat 32 (loopCnt w) - 1
    if n = 0 then some (n ++ (w.extractLsb' 0 32 &&& 0xFF7FFFFF), { p with idx := loopEnd w + 1 })
    else some (n ++ w.extractLsb' 0 32, { p with idx := loopStart w })
  else none

/-- The bundle of a template at its place (R262). -/
def Template.pc (t : Template) : Pc := ⟨t.edge, nTstart t.tab + BitVec.ofNat 10 t.off⟩

/-- After a template bundle (R262): the next bundle of the iteration, the first of the next one, or the
bundle after the MGO; `n` is the core's cycle. -/
def Ctx.templateNext (x : Ctx) (n : Nat) (t : Template) : Ctx :=
  if t.off < nTlen t.tab then
    let t := { t with off := t.off + 1 }
    { x with tmpl := some t, pc := t.pc }
  else if t.iter + 1 < nestIters t.tab t.slr then
    let t := { t with iter := t.iter + 1, off := 0 }
    { x.streams n t with tmpl := some t, pc := t.pc }
  else { x with tmpl := none, pc := t.ret }

/-- Where a context goes after its bundle commits (R198, R262, R349, R351). `old` is the context as the
bundle found it, `cycle` the core's cycle. A transfer by TRET has set the program counter and an EXIT has ended the
context, and the loop counts all the same. -/
def Ctx.advance (old x : Ctx) (cycle : Nat) (iss : Issue) : Ctx :=
  let lp := if iss.looped then none else loopStep old.sr.loopst old.sr.xlvl.toNat iss.pc
  let x := match lp with
    | some (w, _) => { x with sr := { x.sr with loopst := w } }
    | none => x
  if iss.tret || iss.exit then x
  else match old.tmpl with
  | some t => x.templateNext cycle t
  | none =>
    let n := match iss.next, lp with
      | some p, _ => p
      | none, some (_, p) => p
      | none, none => iss.pc.succ
    match x.tmpl with
    | some t =>
      let t := { t with ret := n }
      { x.streams cycle t with tmpl := some t, pc := t.pc }
    | none => { x with pc := n }

/-- Count a committed bundle from the MSTEPs before it (R260, R261): a bundle that returns from a level stands
outside the spacing that the return restores. -/
def Ctx.countBundle (x : Ctx) (tret : Bool) : Ctx :=
  if tret then { x with seq := x.seq + 1 }
  else { x with sinceStep := x.sinceStep.map (· + 1), owed := (x.owed.map (· + 1)).filter (· ≤ 6), seq := x.seq + 1 }

/-- The contexts of a task's gang. -/
def State.gang (s : State) (task : Nat) : List (Nat × Nat) :=
  ((s.cores.map (·.1)).filter (fun n => (s.core n).resv.owner = some task)).flatMap (fun n => [(n, 0), (n, 1), (n, 2), (n, 3)])

/-- The ticks of a microsecond (R10). -/
def usTicks : Nat := 1000
/-- The quantum in ticks (R160). -/
def State.quantumTicks (s : State) : Nat := max 100 s.wd.quant.toNat * usTicks

/-- A swap is abandoned (R163, R304): the gang runs on, and is no victim for eight quanta; a waiter that was to take its
cores waits again. (DEDUCED, log 28.) -/
def State.abandonSwap (s : State) (task : Nat) : State :=
  let s := (s.gang task).foldl (fun s p => s.modCtx p.1 p.2 Ctx.resume) s
  let ours := (s.gang task).map (·.1)
  let freed (t : Task) : Task :=
    if (t.onto.getD []).any (fun c => ours.contains c) then { t with onto := none } else t
  let s := { s with tasks := s.tasks.map freed }
  let s := s.modTask task (fun t => { t with cut := none, stopAt := none, exempt := s.tick + 8 * s.quantumTicks })
  { s with wd := { s.wd with uncut := s.wd.uncut + 1 } }

/-- Whether a context stands at a boundary at which it may stop: XLVL is 0 and no MSCL is pending; of one that a fault has
PARKED there, what the REPLAY restores counts (R300, R301). -/
def Ctx.mayStop (x : Ctx) : Bool :=
  if x.status = .parked then x.sr.xlvl = 1 && x.stepSave1.2 = [] else x.sr.xlvl = 0 && x.owed = []

/-- The cut number that a context committed last, or none (R302). -/
def Ctx.lastCut (x : Ctx) : Option Nat :=
  let n := fld x.sr.lastcut 0 32
  if n = 2 ^ 32 - 1 then none else some n

/-- The boundary after a bundle of a context that has reported to a stop request (R301, R303, R304): from the GATE of
the cut on, it stops at the first boundary that allows it; after the GATE of its report, it holds until the cut
arrives. -/
def State.afterGate (s : State) (ci k : Nat) : State :=
  let task := s.taskIdOf ci
  let x := s.ctx ci k
  match x.report, x.lastCut, (s.task task).bind (·.cut) with
  | some _, some n, some c =>
    if c < n then s.abandonSwap task
    else if n = c && x.mayStop then s.halt ci k true
    else s
  | some r, some n, none => if r ≤ n then s.halt ci k false else s
  | _, _, _ => s

/-- A bundle commits (R181): `s` as it found the machine, `u` after its slots. What a SLEEP or YIELD of its trap level still
remembers is void: either this bundle held it, or the context has gone on past it (R450). -/
def State.commit (s u : State) (ci k : Nat) (b : List SlotWord) (fs : List Fared) : State :=
  let old := s.ctx ci k
  let u := u.modCtx ci k (fun x =>
    let x := old.advance x (s.core ci).cycle u.iss
    let x := x.stepIndexes ((indexNamed b).filter (fun i => !(indexWritten b fs).contains i))
    { x.countBundle u.iss.tret with
      watch := []
      deadline := x.deadline.filter (fun e => e.1 / 2048 < old.sr.xlvl.toNat)
      yielded := x.yielded.filter (fun e => e.1 / 2048 < old.sr.xlvl.toNat)
      arvw := if u.iss.arvw then x.arvw else none
      status := if x.status = .idle then .idle else .running })
  let u := u.modCore ci (fun c => c.choose k)
  let u := u.drain ci k
  let u := if (u.ctx ci k).status = .idle then u else u.afterGate ci k
  { u with fresh := u.fresh + 1, iss := Issue.init }

/-- Whether a context has a cause to take at its boundary. -/
def Ctx.hasCause (x : Ctx) : Bool := x.nextCause.isSome || x.trapWait.isSome

/-- Whether a context may be chosen (R177, R179, R304). -/
def Ctx.eligible (x : Ctx) : Bool :=
  (match x.status with
    | .ready | .running | .blocked => true
    | .idle | .parked => false) && !x.held && !x.stopped

/-- A cause of a context is taken at its boundary, or the context waits until its port is empty
(R293, R297): the machine, and whether the cause was taken. What a return left to replay is replayed first, for
this boundary is the first at which the context could issue (R299). -/
def State.boundary (s : State) (ci k : Nat) : State × Bool :=
  let s := (s.land ci).modCore ci (fun c => c.replay k)
  let x := s.ctx ci k
  if !x.quiet then (s.modCore ci (fun c => c.hold k), false)
  else
    match x.nextCause, x.trapWait with
    | some p, _ =>
      let s := s.modCtx ci k (fun x => { x with causes := x.causes.filter (fun q => q.cause ≠ p.cause) })
      (s.takeTrap ci k p.cause p.val 0 [], true)
    | none, some w => (s.takeTrap ci k w.cause w.val w.mask [], true)
    | none, none => (s, false)

/-- A cause is taken at a boundary, and its context keeps the cycle; one that waits there gives it up (R179, R297). -/
def State.boundaryTurn (s : State) (ci k : Nat) : State × Bool :=
  match s.boundary ci k with
  | (s, true) => (s.modCore ci (fun c => c.choose k), true)
  | r => r

/-- A fault of a bundle is taken, or waits at its boundary (R181, R297). -/
def State.bundleTrap (s : State) (ci k : Nat) (c : Cause) (v : Word) (m : BitVec 8) : State × Bool :=
  let q := (s.ctx ci k).quiet
  let t := s.trapNow ci k c v m
  (if q then t.modCore ci (fun c => c.choose k) else t, q)

/-- Whether the phase that an ARVW began is still open: the context's next bundle blocks (R446). -/
def Ctx.arvwWaits (x : Ctx) : Bool := match x.arvw with
  | some j => SMap.get 0 x.arrived j ≠ 0
  | none => false

/-- A context tries to issue its next bundle (R178, R181): the machine after it, and whether the bundle
took the cycle. A bundle that blocks within a step takes SCHEDULE_VIOLATION (R180). A wait on a flag that was refused a
post takes FLAG_OVERFLOW at once, or, where the trap level keeps that cause pending, is checked again (R293, R442).
(DEDUCED, log 50.) -/
def State.tryFrom (run : Runner) (ci k : Nat) : Nat → State → Except Out (State × Bool)
  | 0, s => .ok (s, false)
  | n + 1, s =>
    let x := s.ctx ci k
    let b := slotWords (s.fetch ci k)
    let s := { s with iss := { Issue.init with core := ci, ctx := k, pc := x.pc } }
    let done (t : State) : State := { t with iss := Issue.init }
    match illegalWith (s.boundBy run b) (fun i => ((s.seen ci k .sc).ctx k).xReg i) b with
    | some (c, v, m) => .ok ((done s).bundleTrap ci k c v m)
    | none =>
      match runSlots run (runList b) s [] with
      | .error o => .error o
      | .ok (u, fs) =>
        match fs.findSome? (fun f => match f.v with
          | .overflow f => some f
          | _ => none) with
        | some f =>
          let t := done (s.overflow ci k f)
          if (t.ctx ci k).hasCause then .ok (t.boundaryTurn ci k) else State.tryFrom run ci k n t
        | none =>
          let fs := if x.arvwWaits then fs ++ [⟨.sy, .blocked 0⟩] else fs
          if blockSlots fs ≠ [] then
            if x.inStep b then
              .ok ((done s).bundleTrap ci k .scheduleViolation (BitVec.ofNat 64 x.stepCount) (slotMask (blockSlots fs)))
            else .ok (done (s.blockBundle ci k (s.moreRows run (runList b) 8 (blockRows fs)) fs), false)
          else
            match faultOf fs with
            | some (c, v, m) => .ok ((done s).bundleTrap ci k c v m)
            | none => .ok (s.commit u ci k b fs, true)

/-- A context tries its next bundle; what a return left to replay is replayed first (R299). Each of the 32 flags can be
found overflowed once. (DEDUCED, log 50.) -/
def State.tryBundle (run : Runner) (s : State) (ci k : Nat) : Except Out (State × Bool) :=
  State.tryFrom run ci k 33 (s.modCore ci (fun c => c.replay k))

/-- The waits on flags (R443). -/
def waitsFlags : Op → Bool
  | .wait | .waitPh | .waits | .waitm => true
  | _ => false

/-- Before a bundle that waits on a flag is checked, what its context issued before it performs, as far as it can: it
stands before the wait in S (R271, R272). (DEDUCED, log 37.) -/
def State.settleFor (s : State) (ci k : Nat) : State :=
  let x := s.ctx ci k
  if (x.port = [] && x.rerec = []) || !x.eligible || !(slotWords (s.fetch ci k)).any (fun w => match w.i with
      | .ok op => waitsFlags op
      | .error _ => false) then s
  else
    let s := s.modCore ci (fun c => c.replay k)
    s.settlePort ci k (s.ctx ci k).portTurns

/-- A context is chosen: it takes a cause at its boundary, or tries its next bundle. One that is held or has stopped
only reissues what a REPLAY gave back to it (R300). -/
def State.turn (run : Runner) (s : State) (ci k : Nat) : Except Out (State × Bool) :=
  let s := s.settleFor ci k
  let x := s.ctx ci k
  if !x.eligible then .ok (if x.status = .ready && x.rerec ≠ [] then s.modCore ci (fun c => c.reissue k) else s, false)
  else if x.hasCause then .ok (s.boundaryTurn ci k)
  else s.tryBundle run ci k

/-- Contexts in turn, until one takes the cycle. -/
def State.turns (run : Runner) (ci : Nat) : List Nat → State → Except Out (State × Bool)
  | [], s => .ok (s, false)
  | k :: l, s =>
    match s.turn run ci k with
    | .ok (s, false) => State.turns run ci l s
    | r => r

/-- The order in which a core tries its contexts (R179): the running one keeps the core while its
bundles do not block. -/
def Core.order (c : Core) : List Nat :=
  let n := c.cur.toNat
  let l := [(n + 1) % 4, (n + 2) % 4, (n + 3) % 4]
  if (c.ctx n).status = .running then n :: l else l ++ [n]

/-- A context that has stayed BLOCKED while another issued is checked again: it is READY where its bundle would no
longer block, else it stays blocked on what still blocks it (R177, R179, R295). -/
def State.recheck (run : Runner) (ci : Nat) (s : State) (k : Nat) : State :=
  let s := if (s.ctx ci k).status = .blocked then s.settleFor ci k else s
  let x := s.ctx ci k
  if x.status = .blocked && x.eligible && !x.hasCause then
    match s.tryBundle run ci k with
    | .ok (t, false) =>
      let y := t.ctx ci k
      if y.status = .blocked && y.trapWait.isNone then s.modCtx ci k (fun x => { x with watch := y.watch })
      else s.modCtx ci k (fun x => { x with status := .ready, watch := [] })
    | .ok (_, true) => s.modCtx ci k (fun x => { x with status := .ready, watch := [] })
    | .error _ => s
  else s

/-- One issue cycle of a core (R179, R183): due results land, one context issues, every other blocked one is checked,
the cycle ends. (DESIGN CHOICE, log 1.) -/
def State.issueCycle (run : Runner) (s : State) (ci : Nat) : Out :=
  let s := s.land ci
  match s.turns run ci (s.core ci).order with
  | .error o => o
  | .ok (s, took) =>
    let s := if took then [0, 1, 2, 3].foldl (State.recheck run ci) s else s
    .next (s.modCore ci (fun c => { c with cycle := c.cycle + 1 }))

end Sys2Proof.Machine
end

