-- ==== Sys2Proof/Machine/Capability.lean ====
section
/-!
DEFINITION. Capability derivation and inspection (R354, R355).
-/

namespace Sys2Proof.Machine

/-- A derived capability: its fields, tagged only where the source is valid and the derivation does
not widen (R354). -/
def Cap.derive (c : Cap) (off : Int) (len : Nat) (rights : BitVec 8) (ok : Bool) : Cap :=
  mkCap c.obj off len rights (c.bits.extractLsb' 120 8) (c.valid && ok)

/-- A derivation from a(SA). -/
def Env.derive (e : Env) (sa dst : BitVec 9) (g : Cap → Cap) : Except Stop State := do
  let c ← e.srcA sa
  e.retA 1 dst (g c)

/-- CBND's result for a length n (R354). -/
def Cap.bound (c : Cap) (n : Nat) : Cap :=
  c.derive c.off (ofI 40 (c.off + n)) c.rights (0 ≤ c.off && c.off + n ≤ c.len)

def execCmov (h : Hd) (f : RFmt) (s : State) : Out := runR .cmov .sc h f s (fun e => e.derive f.sa f.dst id)
def execCbnd (h : Hd) (f : RFmt) (s : State) : Out := runR .cbnd .sc h f s (fun e => do
  let n ← e.srcS f.sb
  e.derive f.sa f.dst (fun c => c.bound n.toNat))
def execCbndi (h : Hd) (f : IFmt) (s : State) : Out := runI .cbndi .sc h f s (fun e =>
  e.derive f.sa f.dst (fun c => c.bound f.imm.toNat))
def execCrst (h : Hd) (f : IFmt) (s : State) : Out := runI .crst .sc h f s (fun e =>
  e.derive f.sa f.dst (fun c => c.derive c.off c.len (c.rights &&& f.imm.extractLsb' 0 8) true))
def execCoff (h : Hd) (f : RFmt) (s : State) : Out := runR .coff .sc h f s (fun e => do
  let n ← e.srcS f.sb
  e.derive f.sa f.dst (fun c => c.derive (c.off + n.toNat) c.len c.rights true))
def execCoffi (h : Hd) (f : IFmt) (s : State) : Out := runI .coffi .sc h f s (fun e =>
  e.derive f.sa f.dst (fun c => c.derive (c.off + f.imm.toInt) c.len c.rights true))
def execCseto (h : Hd) (f : RFmt) (s : State) : Out := runR .cseto .sc h f s (fun e => do
  let n ← e.srcS f.sb
  e.derive f.sa f.dst (fun c => c.derive n.toNat c.len c.rights true))

def execCchk (h : Hd) (f : RFmt) (s : State) : Out := runR .cchk .sc h f s (fun e => do
  let c ← e.srcA f.sa
  let n ← e.srcS f.sb
  capCheck (f.sa.toNat % 32) (bits f.imm.toNat 8 3) c (f.imm.extractLsb' 0 8) c.off n.toNat
  pure e.s)

/-- The field of a capability that CGET reads, by FMT (R355). -/
def Cap.field (c : Cap) (fmt : Nat) : Word :=
  match fmt with
  | 0 => BitVec.ofNat 64 c.obj
  | 1 => word c.off
  | 2 => BitVec.ofNat 64 c.len
  | 3 => c.rights.setWidth 64
  | 4 => (BitVec.ofBool c.tag).setWidth 64
  | 5 => c.bits.extractLsb' 0 64
  | 6 => c.bits.extractLsb' 64 64
  | _ => (BitVec.ofBool c.valid).setWidth 64

def execCget (h : Hd) (f : RFmt) (s : State) : Out := runR .cget .sc h f s (fun e => do
  let c ← e.srcA f.sa
  e.retS 1 f.dst (c.field e.h.fmt.toNat))
def execCclr (h : Hd) (f : RFmt) (s : State) : Out := runR .cclr .sc h f s (fun e =>
  e.derive f.sa f.dst (fun c => { c with tag := false }))
def execCclrMk (h : Hd) (f : RFmt) (s : State) : Out := runR .cclrMk .sc h f s (fun e => do
  let lo ← e.srcS f.sb
  let hi ← e.srcS f.sc
  e.retA 1 f.dst ⟨hi ++ lo, false⟩)
def execCsub (h : Hd) (f : RFmt) (s : State) : Out := runR .csub .sc h f s (fun e => do
  let a ← e.srcA f.sa
  let b ← e.srcA f.sb
  e.retS 1 f.dst (word (a.off - b.off)))

end Sys2Proof.Machine
end

