-- ==== Sys2Proof/Machine/Engine.lean ====
section
/-!
DEFINITION. What the engines share: how they read and write memory through a space (R86, R105, R273),
and how a job completes (R165, R241, R242, R421).
-/

namespace Sys2Proof.Machine

/-- The core a task's gang holds, or its image where the gang is swapped out, until the image is loaded again (R163 to
R165). -/
def State.gangCore (s : State) (task ci : Nat) : Core :=
  (((s.swaps.filter (fun g => g.task = task)).flatMap (fun g => g.cores)).find? (fun p => p.1 = ci)).elim (s.core ci) (·.2)

/-- Change the core a task's gang holds, or its image (R163, R165). -/
def State.modGangCore (s : State) (task ci : Nat) (f : Core → Core) : State :=
  if !s.swaps.any (fun g => g.task = task && g.cores.any (fun p => p.1 = ci)) then s.modCore ci f
  else
    { s with swaps := s.swaps.map (fun g => if g.task = task then
        { g with cores := g.cores.map (fun p => if p.1 = ci then (p.1, f p.2) else p) } else g) }

/-- Change a context of a task's gang. -/
def State.modGangCtx (s : State) (task ci k : Nat) (f : Ctx → Ctx) : State :=
  s.modGangCore task ci (fun c => c.setCtx k (f (c.ctx k)))

/-- Why an engine's work stops: it waits for a REPLAY, for a page in motion or for room; its fault was
killed or became fatal; a poisoned word was read; an address lies outside its bounds; a window broke
its checks (R86, R118, R242). -/
inductive EngStop where
  | wait | killed | ecc | bounds | window
  deriving DecidableEq, Repr

/-- An engine at work: the machine, its name as a requester, the space, its clock (R273), the object it resolved last, and
why it has stopped. -/
structure Eng where
  s : State
  rq : Requester
  sp : BitVec 16
  pts : Nat
  obj : Nat
  stop : Option EngStop
  deriving DecidableEq, Repr

/-- The engine stops. -/
def Eng.halt (e : Eng) (p : EngStop) : Eng := if e.stop.isSome then e else { e with stop := some p }

/-- The latest fault of an engine. -/
def State.engWait (s : State) (rq : Requester) : Option EngWait := s.engWaits.find? (fun w => w.req = rq)

/-- An engine takes up its work: it waits while a fault of its is outstanding, and has stopped where
that fault was killed (R86). -/
def State.engine (s : State) (rq : Requester) (sp : BitVec 16) (pts : Nat) : Eng where
  s := s
  rq := rq
  sp := sp
  pts := pts
  obj := 0
  stop := match s.engWait rq with
    | some w => match w.phase with
      | .waiting => some .wait
      | .killed => some .killed
      | .replayed => none
    | none => none

/-- A translation fault of an engine (R75, R86): its record, and the wait for a command. -/
def Eng.fault (e : Eng) (addr acc : Nat) : Eng :=
  let att := match e.s.engWait e.rq with
    | some w => if w.phase = .replayed && w.addr = addr then nextAttempt w.attempt else 1
    | none => 1
  let fatal : Bool := 8 ≤ att
  let (s, id) := e.s.engineFault e.rq e.sp att acc addr
  let s := s.clearWait e.rq
  { e with
    s := { s with engWaits := s.engWaits ++ [⟨e.rq, id, addr, att, if fatal then .killed else .waiting⟩] }
    stop := some (if fatal then .killed else .wait) }

/-- The core whose object cache serves a requester (R110). -/
def rqCore : Requester → Option Nat
  | .ctx c _ | .ce c | .me c | .loadBlock c _ | .fabric c _ => some c
  | .merge _ | .pix _ | .media _ | .edgeFill _ => none

/-- The object entry that a requester uses (R103, R110). -/
def State.rqObject (s : State) (rq : Requester) (sp : BitVec 16) (obj : Nat) : Option ObjEntry :=
  match rqCore rq with
  | some c => s.object c sp obj
  | none => (s.objRaw (rqDie rq) sp obj).map (·.2)

/-- An object's entry, held in the cache; an object with none faults (R105). -/
def Eng.object (e : Eng) (obj base : Nat) : Eng × Option ObjEntry :=
  if e.stop.isSome then (e, none)
  else match e.s.rqObject e.rq e.sp obj with
    | none => (e.fault (objFaultAddr obj) base, none)
    | some o =>
      (match rqCore e.rq with
        | some c => { e with s := e.s.cacheObject c e.sp obj, obj := obj }
        | none => { e with obj := obj }, some o)

/-- A translation for an engine's access. -/
def Eng.xlate (e : Eng) (dva : Nat) (write exec : Bool) (base : Nat) : Eng × Option (Nat × BitVec 9) :=
  if e.stop.isSome then (e, none)
  else match e.s.xlate e.rq e.sp dva write exec base with
    | (s, .ok r) => ({ e with s := s }, some r)
    | (s, .error (.faulted addr acc)) => ({ e with s := s }.fault addr acc, none)
    | (s, .error (.noSpace acc)) => ({ e with s := s }.fault (objFaultAddr e.obj) acc, none)
    | (s, .error _) => ({ e with s := s }.halt .wait, none)

/-- Translate every page of a range ahead of its access, so that a job is not left half done. -/
def Eng.touch (e : Eng) (dva n : Nat) (write exec : Bool) (base : Nat) : Eng :=
  (pagesOf dva n).foldl (fun e p => (e.xlate p.1 write exec base).1) e

/-- Read bytes: the bytes, and whether a poisoned word was among them. -/
def Eng.read (e : Eng) (dva n : Nat) (exec : Bool) (base : Nat) : Eng × List Byte × Bool :=
  (pagesOf dva n).foldl (fun (a : Eng × List Byte × Bool) p =>
    match a.1.xlate p.1 false exec base with
    | (e, some (pa, key)) =>
      let (m, t) := e.s.mem.stampAll Memory.loadAt e.pts (linesOf pa p.2)
      ({ e with s := { e.s with mem := m }, pts := t }, a.2.1 ++ e.s.memRead key pa p.2,
        a.2.2 || (e.s.poisonAt key pa p.2).isSome)
    | (e, none) => (e, a.2)) (e, [], false)

/-- Read bytes; a poisoned word stops the engine. -/
def Eng.readOk (e : Eng) (dva n : Nat) (base : Nat) : Eng × List Byte :=
  let (e, b, bad) := e.read dva n false base
  (if bad then e.halt .ecc else e, b)

/-- Write bytes. -/
def Eng.write (e : Eng) (dva : Nat) (bs : List Byte) (base : Nat) : Eng :=
  (pagesOf dva bs.length).foldl (fun e p =>
    match e.xlate p.1 true false base with
    | (e, some (pa, key)) =>
      let s := e.s.memWrite key pa ((bs.drop (p.1 - dva)).take p.2)
      let (m, t) := s.mem.stampAll Memory.storeAt e.pts (linesOf pa p.2)
      { e with s := { s with mem := m }, pts := t }
    | (e, none) => e) e

/-- The DVA of bytes of a capability's object, within the object's bound and, for a write, where the
object may be written (R103). -/
def Eng.atCap (e : Eng) (c : Cap) (off : Int) (n : Nat) (write : Bool) (base : Nat) : Eng × Nat :=
  match e.object c.obj base with
  | (e, some o) =>
    if off < 0 || (o.len : Int) < off + n || (write && o.now) then (e.halt .bounds, 0) else (e, o.base + off.toNat)
  | (e, none) => (e, 0)

/-- CESTAT or MESTAT after a job (R242). -/
def statWord (old : Word) (status detail : Nat) : Word :=
  BitVec.ofNat 64 (status % 256 + (fld old 16 16 + 1) % 65536 * 2 ^ 16 +
    (if status = 0 then 0 else min detail 65535) * 2 ^ 32)

/-- A copy or matrix job completes (R241): its status, then its post. -/
def State.finishJob (s : State) (j : Job) (rq : Requester) (status detail : Nat) : State :=
  let matrix := j.kind.isMatrix
  let s := (s.clearWait rq).modCore j.core (fun c =>
    if matrix then { c with me := c.me.drop 1 } else { c with ce := c.ce.drop 1 })
  (s.modGangCtx j.task j.core j.ctx (fun x => { x with sr :=
    if matrix then { x.sr with mestat := statWord x.sr.mestat status detail }
    else { x.sr with cestat := statWord x.sr.cestat status detail } })).postJob j

/-- The status of a copy or matrix job that an engine's stop ends (R242). -/
def EngStop.status : EngStop → Nat
  | .ecc => 5
  | .bounds | .window | .killed | .wait => 6

end Sys2Proof.Machine
end

