-- ==== Sys2Proof/Machine/CopyEngine.lean ====
section
/-!
DEFINITION. The copy engine: the plain copy (R248 to R251), bundle expand (R200, R254), and the typed
transforms (R49, R50, R252, R253, R388), with the events that start and complete its jobs (R240,
R241) and fill its rinks (R195).
-/

namespace Sys2Proof.Machine

/-- A copy job at work: the engine, its core, and how the unit in hand fares. -/
structure Copy where
  e : Eng
  ci : Nat
  j : Job
  deriving DecidableEq, Repr

/-- The copy engine of a core as a requester, for its job. -/
def Copy.start (s : State) (j : Job) : Copy := ⟨s.engine (.ce j.core) j.space j.pts, j.core, j⟩

/-- The core that a copy job works on. -/
def Copy.core (c : Copy) : Core := c.e.s.core c.ci
/-- Change that core. -/
def Copy.mod (c : Copy) (f : Core → Core) : Copy := { c with e := { c.e with s := c.e.s.modCore c.ci f } }
/-- The engine stops. -/
def Copy.halt (c : Copy) (p : EngStop) : Copy := { c with e := c.e.halt p }

/-- The partition of the job's context: its first row and its rows. -/
def Copy.part (c : Copy) : Nat × Nat :=
  let x := c.core.ctx c.j.ctx
  (x.dfbase, x.dflen)

/-- Bytes of the deep file. -/
def Core.deepBytes (c : Core) (a n : Nat) : Nat := bits (c.row (a / 128)).toNat (8 * (a % 128)) (8 * n)

/-- The address of a unit within an operand's store: aligned, and within bounds (R248, R249). The
lower and upper limits are the store's. -/
def Copy.inStore (c : Copy) (a lo hi : Int) (u : Nat) : Copy × Nat :=
  let a := unitOf a u
  if a < lo || hi < a + u then (c.halt .bounds, 0) else (c, a.toNat)

/-- The DVA of a unit of a memory operand: an indexed address is checked by R98 and R103 as the job
runs; the affine one by R103 alone, R98 having passed at issue (R249). -/
def Copy.memUnit (c : Copy) (cap : Cap) (a : Int) (u : Nat) (write indexed : Bool) : Copy × Nat :=
  let off := unitOf (cap.off + a) u
  if indexed && (off < 0 || (cap.len : Int) < off + u) then (c.halt .bounds, 0)
  else
    let (e, d) := c.e.atCap cap off u write 3
    let e := if e.stop = some .bounds && !indexed then { e with stop := some .window } else e
    ({ c with e := e }, d)

/-- Read a unit of a source (R248). -/
def Copy.readUnit (c : Copy) (o : CpOperand) (a : Int) (u : Nat) (indexed : Bool) : Copy × List Byte :=
  match o with
  | .mem cap =>
    let (c, d) := c.memUnit cap a u false indexed
    let (e, b) := c.e.readOk d u 3
    ({ c with e := e }, b)
  | .deep row =>
    let (lo, n) := c.part
    let (c, p) := c.inStore ((row * 128 : Nat) + a) (lo * 128 : Nat) ((lo + n) * 128 : Nat) u
    let c := if c.core.eccRows.contains (p / 128) then c.halt .ecc else c
    (c, bytesOf u (c.core.deepBytes p u))
  | .acm e =>
    let (c, p) := c.inStore ((e * 4 : Nat) + a) 0 262144 u
    let es := (List.range (ceilDiv u 4)).map (p / 4 + ·)
    let c := if es.any (fun n => c.core.eccAcm.contains n) then c.halt .ecc else c
    (c, (bytesOf (4 * es.length) (digits 32 (es.map (fun n => (c.core.acmAt n).toNat)))).drop (p % 4) |>.take u)
  | .edge _ _ | .rink _ => (c, [])

/-- Write a bundle of an edge whole; a context that has not executed IFENCE since may still fetch what it
held before (R199). -/
def Core.writeBundle (c : Core) (edge : Bool) (i : Nat) (b : Bundle) : Core :=
  let key := edgeKey edge i
  let old := c.bundle edge i
  let note (x : Ctx) : Ctx := if x.stale.any (fun e => e.1 = key) then x else { x with stale := SMap.insert x.stale key old }
  let c := [0, 1, 2, 3].foldl (fun c k => c.setCtx k (note (c.ctx k))) c
  { c with edges := SMap.set 0 c.edges key b }

/-- A copy write of one ACM entry (R251): one of PHASE 0 is remembered for the matrix writes that land in this cycle. -/
def Copy.writeEntry (c : Copy) (e : Nat) (v : Nat) (add phase : Bool) : Copy :=
  let w : AcmCopy := ⟨c.core.cycle, e, 0, BitVec.ofNat 32 v, add, c.j.ctx⟩
  let clash := !phase && c.core.onMatrix e
  let c := c.mod (fun k =>
    let k := { k with eccAcm := k.eccAcm.filter (· ≠ e) }
    if phase then k.writeAcm [(e, w.new (k.acmAt e))] else k.copyEntry w)
  if clash then
    { c with e := { c.e with s := c.e.s.modGangCtx c.j.task c.ci c.j.ctx (fun x =>
        x.pendCause .scheduleViolation (acmClash e)) } }
  else c

/-- The tail row of a rink that the engine fills: its place and the bytes landed, reserving a row where
the last is full; none where no slot is free (R195, R250). -/
def Rink.tail (r : Rink) : Option (Rink × Nat × Nat) :=
  match r.landed.getLast? with
  | some n =>
    if n < 128 then some (r, r.base + (r.head + r.filled + r.infl - 1) % r.slots, n)
    else if r.free = 0 then none
    else some ({ r with free := r.free - 1, infl := r.infl + 1, landed := r.landed ++ [0] }, r.tailRow, 0)
  | none =>
    if r.free = 0 then none
    else some ({ r with free := r.free - 1, infl := r.infl + 1, landed := r.landed ++ [0] }, r.tailRow, 0)

/-- Bytes of the tail row land. -/
def Rink.land (r : Rink) (n : Nat) : Rink := { r with landed := r.landed.dropLast ++ [n] }

/-- Write a unit into a rink (R250). -/
def Copy.writeRink (c : Copy) (k : Nat) (b : List Byte) : Copy :=
  match (c.core.rink k).tail with
  | none => c.halt .wait
  | some (r, row, at_) =>
    let img := BitVec.ofNat 1024 (ofBytes b * 2 ^ (8 * at_))
    let mask : Quad := BitVec.ofNat 128 ((2 ^ b.length - 1) * 2 ^ at_)
    c.mod (fun k' => (k'.writeRow row img mask).setRink k (r.land (at_ + b.length)))

/-- Write a unit to a destination (R248, R250, R251); an add-on-write reads the entries it adds to (R22). -/
def Copy.writeUnit (c : Copy) (o : CpOperand) (a : Int) (b : List Byte) (indexed add phase : Bool) : Copy :=
  let u := b.length
  match o with
  | .mem cap =>
    let (c, d) := c.memUnit cap a u true indexed
    { c with e := c.e.write d b 3 }
  | .deep row =>
    let (lo, n) := c.part
    let (c, p) := c.inStore ((row * 128 : Nat) + a) (lo * 128 : Nat) ((lo + n) * 128 : Nat) u
    if c.e.stop.isSome then c
    else c.mod (fun k => k.writeRow (p / 128) (BitVec.ofNat 1024 (ofBytes b * 2 ^ (8 * (p % 128))))
      (BitVec.ofNat 128 ((2 ^ u - 1) * 2 ^ (p % 128))))
  | .edge ed i =>
    let (c, p) := c.inStore ((i * 64 : Nat) + a) 0 65536 u
    if c.e.stop.isSome then c else c.mod (fun k => k.writeBundle ed (p / 64) (BitVec.ofNat 512 (ofBytes b)))
  | .acm e =>
    let (c, p) := c.inStore ((e * 4 : Nat) + a) 0 262144 u
    let c := if add && (List.range (u / 4)).any (fun i => c.core.eccAcm.contains (p / 4 + i)) then c.halt .ecc else c
    if c.e.stop.isSome then c
    else (List.range (u / 4)).foldl (fun c i => c.writeEntry (p / 4 + i) (getLe b (4 * i) 4) add phase) c
  | .rink k => if c.e.stop.isSome then c else c.writeRink k b

/-- One iteration of the plain copy (R248): the unit is left undone where the engine stops. -/
def Copy.unit (c : Copy) (t : SMap Word) (slr : Word) (src dst : CpOperand) (idx : Option Cap)
    (op : BitVec 2) (phase : Bool) (it : Nat) : Copy :=
  let u := 2 ^ nUsz t
  let a := nestAddr t slr it
  let (c1, ix) := match idx with
    | some cap => let (c, b) := c.readUnit (.mem cap) (a 2) 4 false; (c, ofBytes b)
    | none => (c, 0)
  if c1.e.stop.isNone && idx.isSome && ix = 0xFFFFFFFF then c1
  else
    let off : Int := (ix * 2 ^ nImul t : Nat)
    let (c2, b) := c1.readUnit src (a 0 + (if nIdx t = 1 then off else 0)) u (nIdx t = 1)
    if c2.e.stop.isSome then c2
    else c2.writeUnit dst (a 1 + (if nIdx t = 2 then off else 0)) b (nIdx t = 2) (op = 1) phase

/-- Iterations in turn from the job's place, until the engine stops. -/
def Copy.units (f : Copy → Nat → Copy) : Nat → Nat → Copy → Copy
  | 0, _, c => c
  | n + 1, it, c =>
    let d := f c it
    if d.e.stop.isSome then { d with j := { d.j with pos := it } }
    else Copy.units f n (it + 1) { d with j := { d.j with pos := it + 1 } }

/-- The row that a job leaves part-way in a rink is completed with zeros (R250). -/
def Core.zeroRink (c : Core) (k : Nat) : Core :=
  match (c.rink k).landed.getLast?, (c.rink k).tail with
  | some n, some (r, row, _) =>
    if n < 128 then
      (c.setRink k (r.land 128)).writeRow row 0 (BitVec.ofNat 128 ((2 ^ (128 - n) - 1) * 2 ^ n))
    else c
  | _, _ => c

/-- The end of a job's run into a rink: the job is done once every row that it reserved has been counted as filled
(R195, R250). -/
def Copy.endRink (c : Copy) (k : Nat) : Copy :=
  let c := c.mod (fun x => x.zeroRink k)
  if (c.core.rink k).infl = 0 then c else c.halt .wait

/-- What a job that its engine stopped leaves in its rink: the row that it was filling is completed, and its rows
count as filled (R195, R250). -/
def Copy.leaveRink (c : Copy) : Copy :=
  match c.j.kind with
  | .plain _ _ _ (.rink k) _ _ _ => c.mod (fun x =>
    let x := x.zeroRink k
    let r := x.rink k
    x.setRink k
      { r with
        infl := 0
        filled := r.filled + r.infl
        landed := [] })
  | _ => c

/-- The plain copy from where it stands (R246 to R251). -/
def Copy.plain (c : Copy) (t : SMap Word) (slr : Word) (src dst : CpOperand) (idx : Option Cap)
    (op : BitVec 2) (phase : Bool) : Copy :=
  let n := nestIters t slr
  let c := Copy.units (fun c it => c.unit t slr src dst idx op phase it) (n - c.j.pos) c.j.pos c
  match dst with
  | .rink k => if c.e.stop.isSome then c else c.endRink k
  | _ => c

/-- The groups of a compressed image from its words (R200): the expanded slot words of `nb` bundles, and
the words used; none where a header breaks the rules. -/
def expandGroups : Nat → Nat → List Nat → Option (List Nat × Nat)
  | 0, _, _ => some ([], 0)
  | g + 1, nb, ws =>
    match ws with
    | [] => none
    | h :: ws =>
      let m := min nb 8
      let n := popCount 64 h
      if h / 2 ^ (8 * m) ≠ 0 || ws.length < n then none
      else
        let out := (List.range (8 * m)).map (fun i => if h.testBit i then ws.getD (popCount i h) 0 else 0)
        (expandGroups g (nb - m) (ws.drop n)).map (fun r => (out ++ r.1, 1 + n + r.2))

/-- Bundle expand (R254): the status, and the core with the bundles written. -/
def Copy.expand (c : Copy) (cap : Cap) (edge : Bool) (db : Nat) : Copy × Nat :=
  let (e, o) := c.e.object cap.obj 2
  let limit : Nat := min cap.len (o.elim cap.len (·.len))
  if e.stop.isNone && limit < cap.off.toNat + 16 then ({ c with e := e }, 1) else
  let d : Nat := o.elim 0 (·.base) + cap.off.toNat
  let (e, h, bad) := e.read d 16 true 2
  let e := if bad then e.halt .ecc else e
  let c := { c with e := e }
  if e.stop.isSome then (c, 0)
  else
    let nb := getLe h 0 4
    let nw := getLe h 4 4
    if getLe h 12 4 ≠ 0 || nb = 0 || 1024 < nb || limit < cap.off.toNat + 16 + 8 * nw then (c, 1)
    else
      let (e, b, bad) := c.e.read (d + 16) (8 * nw) true 2
      let c := { c with e := if bad then e.halt .ecc else e }
      if c.e.stop.isSome then (c, 0)
      else
        let ws := (List.range nw).map (fun i => getLe b (8 * i) 8)
        match expandGroups (ceilDiv nb 8) nb ws with
        | none => (c, 1)
        | some (out, used) =>
          if used ≠ nw then (c, 1)
          else if (crc32c b).toNat ≠ getLe h 8 4 then (c, 2)
          else if 1024 < db + nb then (c, 3)
          else ((List.range nb).foldl (fun c i =>
            c.mod (fun k => k.writeBundle edge (db + i) (BitVec.ofNat 512 (digits 64 ((out.drop (8 * i)).take 8))))) c, 0)

/-- An image that an engine has read, as its deep-file form holds it, with the rows that held an
uncorrectable error. -/
structure Img where
  t : Quad
  n : Nat
  bad : List Nat
  deriving DecidableEq, Repr

/-- The extents of an image. -/
def Img.d (i : Img) : List Nat := twExts i.t
/-- The storage unit at an index; 0 where a ZB block is absent. -/
def Img.unit (i : Img) (ix : List Nat) : Nat := unitGet i.t i.d 0 i.n ix
/-- The exact value at an index. -/
def Img.value (i : Img) (ix : List Nat) : FV := elemValue i.t i.d 0 i.n ix
/-- Whether an element lies in an absent block (R257). -/
def Img.absent (i : Img) (ix : List Nat) : Bool := twLay i.t = 5 && (zbAt i.t i.d i.n ix).isNone
/-- The rows in which the bitmap of a plane of a ZB image lies (R49). -/
def Img.mapRows (i : Img) (plane : Nat) : List Nat :=
  let (_, br, bc) := blockGeom i.t i.d
  rowsOver ((zbPlanes i.t i.d i.n).getD plane 0) (ceilDiv (br * bc) 64 * 8)
/-- The rows in which the storage unit at an index lies: of a ZB image, none where its block is absent. -/
def Img.rows (i : Img) (ix : List Nat) : List Nat :=
  if twLay i.t = 5 then
    match zbAt i.t i.d i.n ix with
    | some p => rowsOver p (elemSize (twFmt i.t))
    | none => []
  else rowsOver (unitPos i.t i.d 0 ix).1 (unitSize (twFmt i.t))

/-- The checks of a window operand as its object's entry now stands (R209, R242). -/
def windowOkNow (t : TileOp) (use : TileUse) (o : ObjEntry) : Bool :=
  match windowCheck 0 0 0 use t.cap t.cap.off t.tw o with
  | .ok _ => true
  | .error _ => false

/-- The window of a tile operand: the DVA of its first byte, and its entry (R207, R209). -/
def Eng.window (e : Eng) (t : TileOp) (use : TileUse) : Eng × Nat × ObjEntry :=
  let none_ : ObjEntry := ⟨0, 0, true, false, 0, 0⟩
  match e.object t.cap.obj 3 with
  | (e, some o) => if windowOkNow t use o then (e, o.base + t.cap.off.toNat, o) else (e.halt .window, 0, none_)
  | (e, none) => (e, 0, none_)

/-- Rows of a window image from `i` on, as far as a ZB image needs them (R49, R207). -/
def Eng.readRows (e : Eng) (t : Quad) (base : Nat) : List (Nat × Nat) → Nat → Img → Eng × Img
  | [], _, im => (e, im)
  | (o, n) :: l, i, im =>
    if e.stop.isSome || (twLay t = 5 && i ≠ 0 && zbNeed t (twExts t) im.n (128 * i) ≤ 128 * i) then (e, im)
    else
      let (e, b, bad) := e.read (base + o) n false 3
      Eng.readRows e t base l (i + 1)
        { im with n := im.n + ofBytes b * 2 ^ (1024 * i), bad := if bad then im.bad ++ [i] else im.bad }

/-- Read the image of a tile operand: deep-file rows of the partition, ACM entries, or a window
(R207 to R209). -/
def Eng.readTile (e : Eng) (c : Core) (dfbase : Nat) (t : TileOp) : Eng × Img :=
  let d := twExts t.tw
  match dKind t.desc with
  | 1 =>
    let rows := (List.range (imageRows t.tw d)).map (dfbase + dRow t.desc + ·)
    (e, ⟨t.tw, rowsNat (rows.map c.row), (rows.zipIdx.filter (fun p => c.eccRows.contains p.1)).map (·.2)⟩)
  | 3 =>
    let en (ix : List Nat) : Nat := dBase t.desc + linIdx d ix
    let im : Img := ⟨t.tw, buildImage t.tw d 0 (fun ix => (c.acmAt (en ix)).toNat), []⟩
    (e, { im with bad := ((allIdx d).filter (fun ix => c.eccAcm.contains (en ix))).flatMap im.rows })
  | _ =>
    let (e, base, o) := e.window t .jobSrc
    e.readRows t.tw base (typedUnits t.tw o.pitch 0 none) 0 ⟨t.tw, 0, []⟩

/-- Translate the pages of a window ahead of the first write. -/
def Eng.touchTile (e : Eng) (t : TileOp) (use : TileUse) (total : Option Nat) : Eng :=
  if dKind t.desc = 2 then
    let (e, base, o) := e.window t use
    (typedUnits t.tw o.pitch 0 total).foldl (fun e p => e.touch (base + p.1) p.2 use.writes false 3) e
  else e

/-- The core as a job sees it: a matrix job finds the deep-file rows it holds as they were when it started
(R193). -/
def Copy.heldCore (c : Copy) : Core := { c.core with deep := c.j.held.foldl (fun l p => SMap.set 0 l p.1 p.2) c.core.deep }

/-- Rows of the image of a deep-file or window operand, as they now stand, added to what has been read of it;
a row that holds an uncorrectable error stops the engine. -/
def Copy.readImage (c : Copy) (im : Img) (t : TileOp) (rows : List Nat) : Copy × Img :=
  let put (im : Img) (r n : Nat) : Img := { im with n := im.n ||| n <<< (1024 * r) }
  match dKind t.desc with
  | 1 =>
    let k := c.heldCore
    let base := c.part.1 + dRow t.desc
    let c := if rows.any (fun r => k.eccRows.contains (base + r)) then c.halt .ecc else c
    (c, rows.foldl (fun im r => put im r (k.row (base + r)).toNat) im)
  | _ =>
    let (e, base, o) := c.e.window t .jobSrc
    let us := typedUnits t.tw o.pitch 0 none
    let (e, im) := rows.foldl (fun (a : Eng × Img) r =>
      match us[r]? with
      | some (off, n) => let (e, b) := a.1.readOk (base + off) n 3; (e, put a.2 r (ofBytes b))
      | none => a) (e, im)
    ({ c with e := e }, im)

/-- The bitmaps of a ZB operand that say where elements lie: of its planes up to the last of theirs. -/
def Copy.readMaps (c : Copy) (im : Img) (t : TileOp) (ixs : List (List Nat)) : Copy × Img :=
  if twLay t.tw ≠ 5 || dKind t.desc = 3 || ixs = [] then (c, im)
  else
    (List.range ((ixs.map (zbPlane t.tw (twExts t.tw))).foldl max 0 + 1)).foldl (fun (a : Copy × Img) q =>
      a.1.readImage a.2 t (a.2.mapRows q)) (c, im)

/-- Read the elements of a tile operand at a list of indices, as they now stand, added to what has been read of
it: ACM entries one by one, deep-file rows and rows of windows whole (R207 to R209). -/
def Copy.fetch (c : Copy) (im : Img) (t : TileOp) (ixs : List (List Nat)) : Copy × Img :=
  if dKind t.desc = 3 then
    let d := twExts t.tw
    let en (ix : List Nat) : Nat := dBase t.desc + linIdx d ix
    let c := if ixs.any (fun ix => c.core.eccAcm.contains (en ix)) then c.halt .ecc else c
    (c, { im with n := ixs.foldl (fun n ix => imgPut n (unitPos t.tw d 0 ix).1 (c.core.acmAt (en ix)).toNat) im.n })
  else
    let (c, im) := c.readMaps im t ixs
    c.readImage im t (runsOf (ixs.flatMap im.rows))

/-- Write the first `n` bytes of row `r` of a tile's image; the pages of a window's row are translated ahead. -/
def Copy.writeRow (c : Copy) (t : TileOp) (r : Nat) (v : Row) (n : Nat) : Copy :=
  match dKind t.desc with
  | 1 => c.mod (fun k => k.writeRow (c.part.1 + dRow t.desc + r) v allBytes)
  | 3 =>
    let d := twExts t.tw
    let per := ceilDiv (runBytes t.tw d) 128
    let cols := d.getD 1 0
    c.mod (fun k => k.writeAcm (((List.range 32).filter (fun i => r % per * 32 + i < cols)).map (fun i =>
      (dBase t.desc + r / per * cols + (r % per * 32 + i), BitVec.ofNat 32 (lane v 32 i)))))
  | _ =>
    let (e, base, o) := c.e.window t .jobDst
    match (typedUnits t.tw o.pitch 0 none)[r]? with
    | some (off, m) => { c with e := (e.touch (base + off) (min n m) true false 3).write (base + off) ((rowBytes v).take (min n m)) 3 }
    | none => { c with e := e }

/-- A transform of images, row by row of its destination in ascending order: what `row` reads for a row, then
the write of the bytes that it finds for it (R252). -/
def Copy.byRows (c : Copy) (dst : TileOp) (row : Copy → Nat → Copy × Row × Nat) : Copy :=
  Copy.units (fun c r =>
    let (c, v, n) := row c r
    if c.e.stop.isSome || n = 0 then c else c.writeRow dst r v n) (imageRows dst.tw (twExts dst.tw) - c.j.pos) c.j.pos c

/-- A row of a destination whose storage units take their bits from what `get` reads for them, and the bytes it
has: of layout 5, from the elements of its planes in turn until their bytes reach over the row (R49, R252). -/
def Copy.rowFrom (c : Copy) (dst : Quad) (get : Copy → List (List Nat) → Copy × (List Nat → Nat)) (r : Nat) :
    Copy × Row × Nat :=
  let d := twExts dst
  if twLay dst = 5 then
    let upTo (q : Nat) : List (List Nat) := (allIdx d).filter (fun ix => zbPlane dst d ix < q)
    let (c, img, len) := (List.range (blockGeom dst d).1).foldl (fun (a : Copy × Nat × Nat) q =>
      if 128 * (r + 1) ≤ a.2.2 then a
      else
        let (c, f) := get a.1 (upTo (q + 1))
        (c, zbOf dst d (q + 1) f)) (c, 0, 0)
    (c, BitVec.ofNat 1024 (bits img (1024 * r) 1024), min 128 (len - 128 * r))
  else
    let (c, f) := get c (unitsIn dst r)
    (c, buildRow dst r f, 128)

/-- The element of the source that an element of the destination takes (R388). -/
def Rearr.source (k : Rearr) (a d : Quad) (ix : List Nat) : List Nat :=
  match k with
  | .reshape => unlin (twExts a) (linIdx (twExts d) ix)
  | .transpose => swapLast ix
  | .slice n => setAt ix (slowAxis a) (ix.getD (slowAxis a) 0 + n)
  | .cast .. | .copy | .fill _ | .qbx | .dqbx .. => ix

/-- The indices of the block that begins at an index, along the scale axis of a type (R228). -/
def blockIdx (t : Quad) (ix : List Nat) : List (List Nat) :=
  let ax := scaleAxis t
  let p := ix.getD ax 0
  ((List.range 16).filter (fun i => p + i < (twExts t).getD ax 0)).map (fun i => setAt ix ax (p + i))

/-- The elements of the source that a storage unit of the destination takes. -/
def Rearr.needs (k : Rearr) (a d : Quad) (ix : List Nat) : List (List Nat) :=
  match k with
  | .fill _ => []
  | .qbx => blockIdx d ix
  | k => [k.source a d ix]

/-- The bits of a storage unit of the destination, from the source image (R388). -/
def Rearr.unit (k : Rearr) (a : Img) (d : Quad) (ix : List Nat) : Nat :=
  match k with
  | .cast rm sat => (convertTo (twFmt d) rm.toNat sat (a.value ix)).1
  | .fill v => v.toNat
  | .qbx =>
    let l := (blockIdx d ix).map a.value
    (bxQuant (bxM (twFmt d)) (l ++ List.replicate (16 - l.length) (.fin false 0 0))).1
  | .dqbx rm sat => (convertTo (twFmt d) rm.toNat sat (a.value ix)).1
  | k => a.unit (k.source a.t d ix)

/-- A row of an image that is copied byte for byte, and the bytes it has: a ZB image reaches as far as its
bitmaps say (R49, R388). -/
def Copy.sameRow (c : Copy) (src : TileOp) (r : Nat) : Copy × Row × Nat :=
  let t := src.tw
  let row (im : Img) : Row := BitVec.ofNat 1024 (bits im.n (1024 * r) 1024)
  if twLay t = 5 then
    let (c, im) := (List.range (r + 1)).foldl (fun (a : Copy × Img) i =>
      if zbNeed t (twExts t) a.2.n (128 * i) ≤ 128 * i then a else a.1.readImage a.2 src [i]) (c, ⟨t, 0, []⟩)
    (c, row im, min 128 (zbNeed t (twExts t) im.n (128 * (r + 1)) - 128 * r))
  else
    let (c, im) := c.readImage ⟨t, 0, []⟩ src [r]
    (c, row im, 128)

/-- The typed rearrangements (R252, R388). -/
def Copy.rearrange (c : Copy) (k : Rearr) (src dst : TileOp) : Copy :=
  if k = .copy && twLay src.tw = twLay dst.tw && dKind src.desc ≠ 3 then c.byRows dst (fun c r => c.sameRow src r)
  else
    c.byRows dst (fun c r => c.rowFrom dst.tw (fun c ixs =>
      let (c, a) := c.fetch ⟨src.tw, 0, []⟩ src (ixs.flatMap (k.needs src.tw dst.tw))
      (c, k.unit a dst.tw)) r)

/-- ZB compress and expand (R49, R50): the elements as they stand, in the other layout. (DEDUCED, log 45.) -/
def Copy.zb (c : Copy) (src dst : TileOp) : Copy := c.rearrange .copy src dst

/-- Window expansion (R253): segment j of output row p is source run p × STR + j × DIL − PAD, or zeros. -/
def Copy.expandWindow (c : Copy) (src dst : TileOp) (w : BitVec 16) : Copy :=
  let (_, str, dil, pad) := wparOf w
  let d := twExts src.tw
  let cc := d.getD 1 0
  let from_ (ix : List Nat) : Option (List Nat) :=
    let q : Int := (ix.getD 0 0 * str : Nat) + (ix.getD 1 0 / cc * dil : Nat) - pad
    if 0 ≤ q && q < d.getD 0 0 then some [q.toNat, ix.getD 1 0 % cc] else none
  c.byRows dst (fun c r => c.rowFrom dst.tw (fun c ixs =>
    let (c, a) := c.fetch ⟨src.tw, 0, []⟩ src (ixs.filterMap from_)
    (c, fun ix => match from_ ix with
      | some y => a.unit y
      | none => 0)) r)

/-- The two windows of a typed job must share no byte: one whose entries were not valid at issue is checked here,
before anything is written (R209, R217, R242). (DEDUCED, log 60.) -/
def Copy.apart (c : Copy) (src dst : TileOp) : Copy :=
  if c.j.pos = 0 && dKind src.desc = 2 && dKind dst.desc = 2 then
    let (e, a, o) := c.e.window src .jobSrc
    let (e, b, p) := e.window dst .jobDst
    { c with e := if sharedWindow (windowRows src.tw o.pitch a) (windowRows dst.tw p.pitch b) = 0 then e else e.halt .window }
  else c

/-- The windows that a job reads and writes. -/
def Copy.checked (c : Copy) : Copy :=
  match c.j.kind with
  | .rearrange (.fill _) _ _ => c
  | .rearrange _ src dst | .zbComp src dst | .zbExp src dst | .window src dst _ => c.apart src dst
  | _ => c

/-- Run a copy job as far as it goes: the job's place moves on, with the status of an image that broke
its rules. -/
def Copy.run (c : Copy) : Copy × Nat :=
  let c := c.checked
  if c.e.stop.isSome then (c, 0)
  else match c.j.kind with
    | .plain t slr src dst idx op phase => (c.plain t slr src dst idx op phase, 0)
    | .expand cap ed db => c.expand cap ed db
    | .rearrange k src dst => (c.rearrange k src dst, 0)
    | .zbComp src dst | .zbExp src dst => (c.zb src dst, 0)
    | .window src dst w => (c.expandWindow src dst w, 0)
    | _ => (c, 0)

/-- COPY_JOB_START (R240, R246): the engine starts the job at the head of its queue. (DESIGN CHOICE, log 34.) -/
def execCopyJobStart (core : Nat) (s : State) : Out :=
  match (s.core core).ce with
  | j :: t =>
    if j.started || s.jobWaits j then .next s
    else .next (s.modCore core (fun c => { c with ce := { j with started := true } :: t }))
  | [] => .next s

/-- COPY_JOB_COMPLETE (R241): a started job runs; it completes with its status and its post, or waits for
a REPLAY, for a page in motion, for its rink, or for a matrix job that holds rows it writes (R193).
(DESIGN CHOICE, log 34.) -/
def execCopyJobComplete (core : Nat) (s : State) : Out :=
  match (s.core core).ce with
  | j :: t =>
    if !j.started || s.jobWaits j then .next s
    else
      let (c, st) := (Copy.start s j).run
      let done (c : Copy) (status : Nat) : Out := .next (c.e.s.finishJob { j with pts := c.e.pts } (.ce core) status c.j.pos)
      match c.e.stop with
      | some .wait => .next (c.e.s.modCore core (fun k => { k with ce := { c.j with pts := c.e.pts } :: t }))
      | some .bounds => done c.leaveRink 4
      | some p => done c.leaveRink p.status
      | none => done c st
  | [] => .next s

/-- RINK_ROW_FILLED (R195): the oldest reserved row has landed whole. -/
def execRinkRowFilled (core k : Nat) (s : State) : Out :=
  let r := (s.core core).rink k
  match r.landed with
  | n :: t =>
    if n = 128 then
      .next (s.modCore core (fun c => c.setRink k { r with infl := r.infl - 1, filled := r.filled + 1, landed := t }))
    else .next s
  | [] => .next s

end Sys2Proof.Machine
end

