-- ==== Sys2Proof/Machine/MatrixEngine.lean ====
section
/-!
DEFINITION. The matrix engine: the product over an atom (R235, R236, R256 to R258), MMUL and nest mode
(R255, R395, R396), the epilogues (R397), and the events that start and complete its jobs (R240, R241).
-/

namespace Sys2Proof.Machine

/-- The matrix engine of a core as a requester, for its job. -/
def Copy.startMatrix (s : State) (j : Job) : Copy := ⟨s.engine (.me j.core) j.space j.pts, j.core, j⟩

/-- The rows that a list of regions names. -/
def rowsIn (l : List Region) : List Nat := l.flatMap (fun g => match g with
  | .rows lo hi => (List.range (hi - lo)).map (lo + ·)
  | _ => [])

/-- The operands of a matrix job. -/
structure MatOps where
  a : TileOp
  b : TileOp
  c : TileOp
  scale : Option CpOperand
  deriving DecidableEq, Repr

/-- The extents M, K, N of a product. -/
def MatOps.m (o : MatOps) : Nat := twExt o.a.tw 0
@[inherit_doc MatOps.m] def MatOps.k (o : MatOps) : Nat := twExt o.a.tw 1
@[inherit_doc MatOps.m] def MatOps.n (o : MatOps) : Nat := twExt o.b.tw 1

/-- Whether a product's operand has external scales (R230, R258). -/
def TileOp.scaled (t : TileOp) : Bool := !isBx (twFmt t.tw) && twScale t.tw ≠ 0

/-- A value times 2^(S − 127); NaN where S is 255 (R230). -/
def scaleBy (v : FV) (sc : Nat) : FV :=
  if sc = 255 then .nan false
  else match v with
    | .fin neg m e => .fin neg m (e + sc - 127)
    | v => v

/-- A byte of the scale operand (R258). -/
def Copy.scaleByte (c : Copy) (o : Option CpOperand) (a : Int) : Copy × Nat :=
  match o with
  | some (.mem cap) =>
    let (c, d) := c.memUnit cap a 1 false false
    let (e, b) := c.e.readOk d 1 3
    ({ c with e := e }, ofBytes b)
  | some (.deep row) =>
    let p := ((row * 128 : Nat) + a).toNat
    let c := if c.core.eccRows.contains (p / 128) then c.halt .ecc else c
    (c, c.heldCore.deepBytes p 1)
  | _ => (c, 127)

/-- The scales of a list of rows of A, or columns of B, over one k-block; 127, a factor of 1, where there
are none (R258). -/
def Copy.scales (c : Copy) (o : MatOps) (scaled : Bool) (base : Int) (l : List Nat) : Copy × List Nat :=
  if !scaled then (c, l.map (fun _ => 127))
  else l.foldl (fun (r : Copy × List Nat) i =>
    let (c, b) := r.1.scaleByte o.scale (base + (i * ceilDiv o.k 16 : Nat))
    (c, r.2 ++ [b])) (c, [])

/-- Absent(m, n, k0): each k-block has an absent factor throughout (R257). -/
def absentBlock (x y : Img) (ks : List Nat) (m n : Nat) : Bool :=
  ks.all (fun k => x.absent [m, k]) || ks.all (fun k => y.absent [k, n])

/-- The exact sum of a k-block for one output, of which a zero counts as +0 (R235, R236, R256). -/
def blockSum (x y : Img) (ks : List Nat) (m n sa sb : Nat) : FV :=
  (sumAll (ks.map (fun k => (mulV (scaleBy (x.value [m, k]) sa) (scaleBy (y.value [k, n]) sb)).1))).1.plusZero

/-- Matrix writes to ACM fall in the first even core cycle (R251, R256). -/
def Core.matrixWrite (c : Core) (ws : List (Nat × BitVec 32)) : Core :=
  let cy := c.cycle + c.cycle % 2
  let log := c.acmWrites.filter (fun w => c.cycle ≤ w.1 + 1) ++ (runsOf (ws.map (fun w => w.1 % 8))).map (fun b => (cy, b))
  { c.writeAcm ws with acmWrites := log }

/-- One atom (R256): `am` and `an` count atoms, `ak` k-blocks, `as` is the offset into the scale operand. Its
elements are read for it, windows as they now stand (R259); it is skipped where every output's k-block is
absent (R257). -/
def Copy.atom (c : Copy) (o : MatOps) (am an ak as : Int) : Copy :=
  let (atm, atn) := atomOf (twFmt o.a.tw) (twFmt o.b.tw)
  let span (a : Int) (w lim : Nat) : List Nat :=
    ((List.range w).map (fun i => a * w + i)).filterMap (fun (i : Int) => if 0 ≤ i && i < lim then some i.toNat else none)
  let ms := span am atm o.m
  let ns := span an atn o.n
  if ms = [] || ns = [] || ak < 0 || (o.k : Int) ≤ ak * 16 then c
  else
    let kb := ak.toNat
    let ks := (List.range 16).map (kb * 16 + ·) |>.filter (· < o.k)
    let ia := ms.flatMap (fun m => ks.map (fun k => [m, k]))
    let ib := ns.flatMap (fun n => ks.map (fun k => [k, n]))
    let (c, x) := c.readMaps ⟨o.a.tw, 0, []⟩ o.a ia
    let (c, y) := c.readMaps ⟨o.b.tw, 0, []⟩ o.b ib
    if c.e.stop.isSome || ms.all (fun m => ns.all (absentBlock x y ks m)) then c
    else
      let (c, x) := c.fetch x o.a ia
      let (c, y) := c.fetch y o.b ib
      let nkb := ceilDiv o.k 16
      let soff := ceilDiv (o.m * nkb) 128 * 128
      let (c, sa) := c.scales o o.a.scaled (as + kb) ms
      let (c, sb) := c.scales o o.b.scaled (as + soff + kb) ns
      let entry (m n : Nat) : Nat := dBase o.c.desc + m * o.n + n
      let ij := (ms.zip sa).flatMap (fun p => (ns.zip sb).map (fun q => (p, q))) |>.filter (fun (p, q) =>
        !absentBlock x y ks p.1 q.1)
      let c := if ij.any (fun (p, q) => c.core.eccAcm.contains (entry p.1 q.1)) then c.halt .ecc else c
      if c.e.stop.isSome then c
      else
        c.mod (fun k => k.matrixWrite (ij.map (fun (p, q) =>
          let e := entry p.1 q.1
          (e, BitVec.ofNat 32 (fAdd fp32 0 (unpack fp32 (k.acmAt e).toNat) (blockSum x y ks p.1 q.1 p.2 q.2)).1))))

/-- MMUL (R395): every atom, the k-blocks of each in ascending order. (DEDUCED, log 35.) -/
def Copy.matmul (c : Copy) (o : MatOps) : Copy :=
  let (atm, atn) := atomOf (twFmt o.a.tw) (twFmt o.b.tw)
  let nk := ceilDiv o.k 16
  let nn := ceilDiv o.n atn
  let total := ceilDiv o.m atm * nn * nk
  Copy.units (fun c i => c.atom o (i / (nn * nk) : Nat) (i / nk % nn : Nat) (i % nk : Nat) 0) (total - c.j.pos) c.j.pos c

/-- Nest mode (R246, R256, R396). -/
def Copy.nest (c : Copy) (t : SMap Word) (slr : Word) (o : MatOps) : Copy :=
  Copy.units (fun c i => c.atom o (nestAddr t slr i 0) (nestAddr t slr i 1) (nestAddr t slr i 2) (nestAddr t slr i 3))
    (nestIters t slr - c.j.pos) c.j.pos c

/-- The value of the epilogue at an element, exact, its zero signed under the mode (R221, R397). -/
def epiValue (mode : Nat) (c : FV) (alpha : BitVec 32) (bias : Option FV) (relu : Bool) : FV :=
  let p := (mulV c (unpack fp32 alpha.toNat)).1
  let y := (addV mode p (bias.getD (.fin false 0 0))).1
  if relu && !y.isNan && y.sign then .fin false 0 0 else y

/-- MEPI and MEPIQ (R397), in ascending order of the destination's rows, or of its elements where it lies in ACM
beside C. With clear-after, the entries whose results are written become +0. -/
def Copy.epilogue (c : Copy) (t d : TileOp) (bias : Option TileOp) (alpha : BitVec 32) (relu clear : Bool)
    (rm : BitVec 2) (sat quant : Bool) : Copy :=
  let ex := twExts d.tw
  let mode := if quant then 0 else rm.toNat
  let get (c : Copy) (ixs : List (List Nat)) : Copy × (List Nat → Nat) :=
    let el := if quant then ixs.flatMap (blockIdx d.tw) else ixs
    let (c, x) := c.fetch ⟨t.tw, 0, []⟩ t el
    let cols := (runsOf (el.map (fun (ix : List Nat) => ix.getD 1 0))).map (fun n => [n])
    let (c, z) : Copy × Option Img := match bias with
      | some b => let (c, i) := c.fetch ⟨b.tw, 0, []⟩ b cols; (c, some i)
      | none => (c, none)
    let val (ix : List Nat) : FV := epiValue mode (x.value ix) alpha (z.map (fun i => i.value [ix.getD 1 0])) relu
    (c, fun ix =>
      if quant then
        let l := (blockIdx d.tw ix).map val
        (bxQuant (bxM (twFmt d.tw)) (l ++ List.replicate (16 - l.length) (.fin false 0 0))).1
      else (convertTo (twFmt d.tw) mode sat (val ix)).1)
  let clr (c : Copy) (l : List (List Nat)) : Copy :=
    if clear then c.mod (fun k => k.matrixWrite (l.map (fun ix => (dBase t.desc + linIdx ex ix, 0)))) else c
  if dKind d.desc = 3 then
    Copy.units (fun c r => (unitsIn d.tw r).foldl (fun c ix =>
      let (c, f) := get c [ix]
      if c.e.stop.isSome then c
      else clr (c.mod (fun k => k.matrixWrite [(dBase d.desc + linIdx ex ix, BitVec.ofNat 32 (f ix))])) [ix]) c)
      (imageRows d.tw ex - c.j.pos) c.j.pos c
  else
    let c := c.byRows d (fun c r => c.rowFrom d.tw get r)
    let written (ix : List Nat) : Bool := c.e.stop.isNone || (twLay d.tw ≠ 5 &&
      (rowsOver (unitPos d.tw ex 0 ix).1 (unitSize (twFmt d.tw))).all (· < c.j.pos))
    clr c ((allIdx ex).filter written)

/-- Run a matrix job as far as it goes. -/
def Copy.runKind (c : Copy) : Copy :=
  if c.e.stop.isSome then c
  else match c.j.kind with
    | .matmul a b t => c.matmul ⟨a, b, t, none⟩
    | .nest t slr a b d sc => c.nest t slr ⟨a, b, d, sc⟩
    | .epilogue t d bias alpha relu clear rm sat quant => c.epilogue t d bias alpha relu clear rm sat quant
    | _ => c

/-- Run a matrix job as far as it goes; where its writes fall in this cycle, they stand before the copy writes of PHASE 0
that it holds (R251). -/
def Copy.runMatrix (c : Copy) : Copy :=
  if c.core.cycle % 2 = 1 then c.runKind
  else
    let now := c.core.acmCopies
    let d := (c.mod (fun k => k.takeBack)).runKind
    d.mod (fun k => k.putBack now)

/-- MATRIX_JOB_START (R193, R240, R256): the job at the head of the queue starts, with its deep-file rows
as they stand. (DESIGN CHOICE, log 34.) -/
def execMatrixJobStart (core : Nat) (s : State) : Out :=
  match (s.core core).me with
  | j :: t =>
    if j.started || s.jobWaits j then .next s
    else
      let rows := (rowsIn j.reads).map (fun r => (r, (s.core core).row r))
      .next (s.modCore core (fun c => { c with me := { j with started := true, held := rows } :: t }))
  | [] => .next s

/-- MATRIX_JOB_COMPLETE (R241): a started job runs; it completes with its status and its post, or waits
for a REPLAY or a page in motion. (DESIGN CHOICE, log 34.) -/
def execMatrixJobComplete (core : Nat) (s : State) : Out :=
  match (s.core core).me with
  | j :: t =>
    if !j.started then .next s
    else
      let c := (Copy.startMatrix s j).runMatrix
      match c.e.stop with
      | some .wait => .next (c.e.s.modCore core (fun k => { k with me := { c.j with pts := c.e.pts } :: t }))
      | some p => .next (c.e.s.finishJob { j with pts := c.e.pts } (.me core) p.status c.j.pos)
      | none => .next (c.e.s.finishJob { j with pts := c.e.pts } (.me core) 0 0)
  | [] => .next s

end Sys2Proof.Machine
end

