-- ==== Sys2Proof/Machine/CoreEvents.lean ====
section
/-!
DEFINITION. The events of a core and its contexts: results and loads that land (R183, R406, R421), traps
taken between bundles (R290, R293), WATCHDOG and sleeps (R295, R450), page walks of accesses (R108,
R112, R300), load blocks (R197) and replay acknowledgements (R440).
-/

namespace Sys2Proof.Machine

/-- The cycle of a core ends. (DESIGN CHOICE, log 1.) -/
def Core.nextCycle (c : Core) : Core := { c with cycle := c.cycle + 1 }

/-- Whether no context of a core could issue now: a cycle may pass without one. -/
def Core.idleCycle (c : Core) : Bool :=
  [0, 1, 2, 3].all (fun k => !(c.ctx k).eligible || (c.ctx k).status = .blocked)

/-- RESULT_LAND (R183): what is due lands. Where nothing is due and no context is ready, a cycle passes
first. (DESIGN CHOICE, log 1.) -/
def execResultLand (core : Nat) (s : State) : Out :=
  let c := s.core core
  let due : Bool := [0, 1, 2, 3].any (fun k => (c.ctx k).flight.any (fun r => r.due ≤ c.cycle))
  .next ((if due || !c.idleCycle then s else s.modCore core Core.nextCycle).land core)

/-- LOAD_RETURN (R406): a step of the context's port. -/
def execLoadReturn (core ctx : Nat) (s : State) : Out := .next (s.portStep core ctx)

/-- The words of a variable-latency result as one row, the first lowest. -/
def wordsRow (ws : List Word) : Row := rowOf 64 (ws.map BitVec.toNat)

/-- A variable-latency result lands in its registers, and in its latch where its gang is on the core
(R421). A tile register takes the type word and keeps its descriptor (R436). -/
def Core.landWords (c : Core) (k : Nat) (p : Pending) (ws : List Word) (live : Bool) : Core :=
  let put (x : Ctx) (e : (Cls × Nat) × Nat) : Ctx :=
    match e.1.1 with
    | .t => (x.clearEcc .t e.1.2).setT e.1.2 { x.tReg e.1.2 with tw := (wordsRow ws).setWidth 128 }
    | cls => x.writeReg cls e.1.2 ((ws.getD e.2 0).setWidth 1024) allBytes
  let x := c.ctx k
  let x := if p.w then p.regs.zipIdx.foldl put x else x
  let c := c.setCtx k { x with pend := x.pend.filter (fun q => q.id ≠ p.id) }
  if p.latch && live then c.landLatch k p.slot (wordsRow ws) false else c

/-- VAR_RESULT_RETURN (R421): the oldest finished job of the context returns its words, then posts. -/
def execVarResultReturn (core ctx : Nat) (s : State) : Out :=
  match (s.core core).svcs.find? (fun j => j.ctx = ctx && j.done) with
  | none => .next s
  | some j =>
    let s := s.modCore core (fun c => { c with svcs := c.svcs.filter (fun i => i.id ≠ j.id) })
    let live : Bool := (s.core core).resv.owner = some j.task
    let s := match ((s.gangCore j.task core).ctx ctx).pend.find? (fun p => some p.id = j.pend) with
      | some p => s.modGangCore j.task core (fun c => c.landWords ctx p j.result live)
      | none => s
    .next (s.postJob j)

/-- TRAP_ENTRY (R290, R293): a context takes the cause that waits at its boundary. (DEDUCED, log 42.) -/
def execTrapEntry (core ctx : Nat) (s : State) : Out :=
  let x := s.ctx core ctx
  if x.eligible && x.hasCause then .next (s.boundary core ctx).1 else .next s

/-- The ticks after which a blocked bundle takes WATCHDOG (R295). -/
def watchTicks : Nat := 2 ^ 30

/-- The first condition of a blocked context's bundle on which it has been found blocked for long enough (R295); YIELD
and SLEEP do not count. -/
def Ctx.overdue (x : Ctx) : Option BlockWatch :=
  if x.sr.arithx.getLsbD 1 && x.status = .blocked && !x.held && !x.stopped then
    x.watch.find? (fun w => w.row ≠ 6 && w.since + watchTicks ≤ w.last)
  else none

/-- WATCHDOG (R295): the bundle has stayed blocked on one row for long enough. -/
def execWatchdog (core ctx : Nat) (s : State) : Out :=
  match (s.ctx core ctx).overdue with
  | some w => .next (s.modCtx core ctx (fun x => x.pendCause .watchdog (w.row.setWidth 64)))
  | none => .next s

/-- SLEEP_EXPIRY (R450): the deadline of the bundle has come. -/
def execSleepExpiry (core ctx : Nat) (s : State) : Out :=
  let x := s.ctx core ctx
  match SMap.get none x.deadline x.pauseKey with
  | some t =>
    if x.status = .blocked && t ≤ s.tick then .next (s.modCtx core ctx (fun x => { x with status := .ready })) else .next s
  | none => .next s

/-- TLB_MISS_WALK (R112): a miss asks for a walk. An engine's walk begins and ends as the engine works, so
only a context's access waits here. -/
def execTlbMissWalk (r : Requester) (s : State) : Out :=
  match r with
  | .ctx core ctx =>
    match s.portMiss core ctx with
    | none => .next s
    | some (dva, acc) =>
      if s.walks.any (fun w => w.req = r) then .next s
      else .next (s.askWalk r (s.spaceOf core) dva (acc = 1) false)
  | _ => .next s

/-- PAGE_WALK_COMPLETE (R108, R109): the walk installs its leaf, or the access faults; a walk that meets a
page in motion goes on (R118). -/
def execPageWalkComplete (r : Requester) (s : State) : Out :=
  match r with
  | .ctx core ctx =>
    if !s.walks.any (fun w => w.req = r && w.running) then .next s
    else
      match s.portMiss core ctx with
      | none => .next (s.endWalk r)
      | some (dva, acc) => .next (s.walkAccess core ctx dva acc).1
  | _ => .next s

/-- The home slice of a line, by the line's number (R464). -/
def homeSlice (line : Nat) : Nat :=
  let a := line * 64
  bits a 6 10 ^^^ bits a 16 10 ^^^ bits a 26 10 ^^^ bits a 36 10 ^^^ (bits a 46 2 * 256)

/-- The lines a slice pins for load blocks at most (R197). -/
def pinLimit : Nat := 2048

/-- The distinct lines that load blocks pin. -/
def State.pinned (s : State) : List Nat :=
  runsOf (s.cores.flatMap (fun c => c.2.lbs.flatMap (fun b => if b.2.st = .pinned then b.2.lines else [])))

/-- Whether the slices of some lines have room for them (R197). -/
def State.pinRoom (s : State) (ls : List Nat) : Bool :=
  let all := runsOf (s.pinned ++ ls)
  ls.all (fun l => (all.filter (fun m => homeSlice m = homeSlice l)).length ≤ pinLimit)

/-- The fill of a block is over: its state, its lines and its flag, with the fill's clock (R197, R273). -/
def State.settleBlock (s : State) (core id : Nat) (st : LbState) (lines : List Nat) (ts : Nat) : State :=
  let b := SMap.get LoadBlock.init (s.core core).lbs id
  let s := (s.clearWait (.loadBlock core id)).modCore core (fun c =>
    { c with lbs := SMap.set LoadBlock.init c.lbs id { b with st := st, lines := lines } })
  s.postTo core b.flag.toNat 1 b.space ts

/-- LOAD_BLOCK_SETTLED (R197): the fill finds its lines, and pins them where their slices have room. -/
def execLoadBlockSettled (core id : Nat) (s : State) : Out :=
  let b := SMap.get LoadBlock.init (s.core core).lbs id
  if b.st ≠ .filling then .next s
  else
    let e := s.engine (.loadBlock core id) b.space (s.ctx core b.ctx).pts
    let (e, dva) := e.atCap b.cap b.start (64 * b.count) false 3
    let (e, ls) := (List.range b.count).foldl (fun (a : Eng × List Nat) i =>
      match a.1.xlate (dva + 64 * i) false false 3 with
      | (e, some (pa, _)) => (e, a.2 ++ [pa / 64])
      | (e, none) => (e, a.2)) (e, [])
    match e.stop with
    | none =>
      if e.s.pinRoom ls then .next (e.s.settleBlock core id .pinned ls e.pts) else .next (e.s.settleBlock core id .nopin [] e.pts)
    | some .wait => .next e.s
    | some _ => .next (e.s.settleBlock core id .nopin [] e.pts)

/-- The names of the entries a context has yet to perform (R297, R440). (DEDUCED, log 33.) -/
def Ctx.entryIds (x : Ctx) : List Nat := (x.port ++ x.rec1 ++ x.rec2 ++ x.rerec).map (·.id)

/-- RPLACK_COMPLETE (R440): every entry of the record has performed; the acknowledgement is written, then
the flag is posted. (DEDUCED, log 33.) -/
def execRplackComplete (core ctx : Nat) (s : State) : Out :=
  let x := s.ctx core ctx
  match x.rplacks with
  | [] => .next s
  | j :: t =>
    let (wants, ids) := match j.kind with
      | .rplack r l => (r, l)
      | _ => (false, [])
    if ids.any (fun i => x.entryIds.contains i) || (wants && (s.faultWait ≠ [] || s.fq.full)) then .next s
    else
      let s := if wants then s.pushFault (faultBytes s (x.lastReplay.getD (BitVec.allOnes 32)) (s.spaceOf core) 0 0 0
          core x.sr.xlvl.toNat ctx (s.taskIdOf core)) else s
      .next ((s.modCtx core ctx (fun x => { x with rplacks := t })).postJob j)

end Sys2Proof.Machine
end

