-- ==== Sys2Proof/Machine/Launch.lean ====
section
/-!
DEFINITION. Launch records and queues (R65 to R69), tasks and their dependence counters (R149, R150, R152),
completion (R70), the queues the device produces into (R70, R71), and TAKE (R155).
-/

namespace Sys2Proof.Machine

/-- The ticks of a second (R10). -/
def secondTicks : Nat := 1000000000
/-- The live tasks the WD holds at most (R149). -/
def maxTasks : Nat := 16384

/-- A launch record from its 64 bytes (R65). -/
def recordOf (b : List Byte) : LaunchRec :=
  let f (lo n : Nat) := getLe b lo n
  { task := BitVec.ofNat 20 (f 0 4)
    gen := BitVec.ofNat 4 (f 4 2 / 4096)
    sid := BitVec.ofNat 12 (f 4 2)
    prio := BitVec.ofNat 3 (f 6 1)
    cpc := BitVec.ofNat 2 (f 7 1 / 16)
    gang := BitVec.ofNat 4 (f 7 1)
    dfu := BitVec.ofNat 8 (f 8 1)
    depcnt := BitVec.ofNat 16 (f 10 2)
    entry := BitVec.ofNat 32 (f 12 4)
    codeobj := BitVec.ofNat 24 (f 16 4)
    argrights := BitVec.ofNat 8 (f 23 1)
    argobj := BitVec.ofNat 24 (f 20 4)
    argoff := BitVec.ofNat 48 (f 24 8)
    arglen := BitVec.ofNat 40 (f 32 8)
    tilefirst := BitVec.ofNat 32 (f 40 4)
    tilecount := BitVec.ofNat 32 (f 44 4)
    gran := BitVec.ofNat 16 (f 48 2)
    succv := (f 52 4).testBit 31
    succ := BitVec.ofNat 20 (f 52 4)
    reservedOk := f 0 4 < 2 ^ 20 && f 6 1 < 8 && f 7 1 < 64 && f 9 1 = 0 && f 19 1 = 0 && f 24 8 < 2 ^ 48 &&
      f 32 8 < 2 ^ 40 && f 50 2 = 0 && bits (f 52 4) 20 11 = 0 && f 56 8 = 0 }

/-- A launch record as its 64 bytes (R65). -/
def LaunchRec.bytes (r : LaunchRec) : List Byte :=
  bytesOf 4 r.task.toNat ++ bytesOf 2 (r.gen.toNat * 4096 + r.sid.toNat) ++ bytesOf 1 r.prio.toNat ++
    bytesOf 1 (r.cpc.toNat * 16 + r.gang.toNat) ++ bytesOf 2 r.dfu.toNat ++ bytesOf 2 r.depcnt.toNat ++ bytesOf 4 r.entry.toNat ++
    bytesOf 4 r.codeobj.toNat ++ bytesOf 3 r.argobj.toNat ++ bytesOf 1 r.argrights.toNat ++ bytesOf 8 r.argoff.toNat ++
    bytesOf 8 r.arglen.toNat ++ bytesOf 4 r.tilefirst.toNat ++ bytesOf 4 r.tilecount.toNat ++ bytesOf 4 r.gran.toNat ++
    bytesOf 4 (r.succv.toNat * 2 ^ 31 + r.succ.toNat) ++ bytesOf 8 0

/-- The contexts per core of a record (R65). -/
def LaunchRec.contexts (r : LaunchRec) : Nat := r.cpc.toNat + 1
/-- The cores of a gang; 0 for a reserved code (R65, R156). -/
def LaunchRec.size (r : LaunchRec) : Nat := [1, 2, 4, 8, 16, 64, 256].getD r.gang.toNat 0
/-- The space of a record, as packed. -/
def LaunchRec.space (r : LaunchRec) : BitVec 16 := mkSpace r.gen r.sid

/-- The checks of R67 in their order: the status of the first that fails, or 0. `prioBad` and `spaceBad` are
what the source of the record adds (R67, R152). (DEDUCED, log 28.) -/
def State.checkRecord (s : State) (r : LaunchRec) (prioBad spaceBad : Bool) : Nat :=
  if !r.reservedOk || r.size = 0 || r.dfu = 0 || r.gran = 0 then 1
  else if prioBad then 2
  else if 2048 < r.contexts * r.dfu.toNat * 16 then 3
  else if spaceBad || r.gen ≠ SMap.get 0 s.spgen r.sid.toNat || (s.objRaw 0 r.space r.codeobj.toNat).isNone ||
      (s.objRaw 0 r.space r.argobj.toNat).isNone then 4
  else if (s.task r.task.toNat).isSome then 5
  else 0

/-- A task enters the table (R149). -/
def State.adopt (s : State) (r : LaunchRec) (queue : Nat) : State :=
  let t : Task :=
    { rcd := r
      queue := queue
      state := if r.depcnt = 0 then .ready else .waiting
      dep := r.depcnt
      cursor := r.tilefirst.toNat
      cores := []
      die := 0
      place := .none
      asked := []
      granted := []
      refused := false
      fails := 0
      readyAt := s.tick
      ranAt := s.tick
      exempt := 0
      killed := false
      bucket := 0
      expert := 0
      group := none
      cut := none
      stopAt := none
      filled := false
      onto := none }
  { s with tasks := s.tasks ++ [t] }

/-- A completion entry (R70). -/
def compBytes (task status queue tick : Nat) : List Byte :=
  bytesOf 4 task ++ bytesOf 2 status ++ bytesOf 2 queue ++ bytesOf 8 tick

/-- A launch queue. -/
def State.lqOf (s : State) (n : Nat) : Ring := SMap.get Ring.init s.lq n

/-- The queue whose record is taken next (R69). -/
def State.nextQueue (s : State) : Option Nat :=
  [7, 6, 5, 4, 3, 2, 1, 0].find? (fun n => !(s.lqOf n).cfgErr && (s.lqOf n).head ≠ (s.lqOf n).tail)

/-- LAUNCH_RECORD_READ (R67, R69, R149): a poisoned record counts as one that breaks its layout. -/
def execLaunchRecordRead (s : State) : Out :=
  if maxTasks ≤ s.tasks.length then .next s
  else
    match s.nextQueue with
    | none => .next s
    | some n =>
      let q := s.lqOf n
      let pa := q.entry 64 q.head
      let r := recordOf (s.memRead 0 pa 64)
      let st := if (s.poisonAt 0 pa 64).isSome then 1 else s.checkRecord r (r.prio.toNat ≠ n) false
      let s := { s with lq := SMap.set Ring.init s.lq n { q with head := q.head + 1 } }
      .next (if st = 0 then s.adopt r n else s.pushComp (compBytes r.task.toNat st n s.tick))

/-- Software produces into a ring (R68): a write of TAIL that passes the ring's size or moves back is
refused. -/
def Ring.produce (r : Ring) (v : BitVec 32) : Ring :=
  if r.size < (v - r.head).toNat || (v - r.head).toNat < r.used then { r with overrun := true } else { r with tail := v }

/-- Software consumes from a ring (R70): a write of HEAD that passes TAIL or moves back is refused. -/
def Ring.consume (r : Ring) (v : BitVec 32) : Ring :=
  if r.used < (v - r.head).toNat then { r with overrun := true } else { r with head := v }

/-- LAUNCH_QUEUE_TAIL_WRITE (R68). -/
def execLaunchQueueTailWrite (n : Nat) (v : Word) (s : State) : Out :=
  if 8 ≤ n then .next s
  else .next { s with lq := SMap.set Ring.init s.lq n ((s.lqOf n).produce (v.setWidth 32)) }

/-- CONSUMER_HEAD_WRITE (R70, R119). -/
def execConsumerHeadWrite (r : DevRing) (v : Word) (s : State) : Out :=
  match r with
  | .completion => .next { s with cq := s.cq.consume (v.setWidth 32) }
  | .fault => .next { s with fq := s.fq.consume (v.setWidth 32) }
  | .storageOut => .next { s with so := s.so.consume (v.setWidth 32) }

/-- COMPLETION_DRAIN (R70): the oldest waiting completion is written once there is room. -/
def execCompletionDrain (s : State) : Out :=
  match s.compWait with
  | [] => .next s
  | e :: t => if s.cq.full then .next s else .next { { s with compWait := [] }.pushComp e with compWait := t }

/-- FAULT_RECORD_DRAIN (R71): the oldest waiting record is written once there is room. -/
def execFaultRecordDrain (s : State) : Out :=
  match s.faultWait with
  | [] => .next s
  | e :: t => if s.fq.full then .next s else .next { { s with faultWait := [] }.pushFault e with faultWait := t }

/-- A decrement of a task's dependence counter (R150); a dropped one is counted. -/
def State.decTask (s : State) (task : Nat) (sp : BitVec 16) : State :=
  match s.task task with
  | some t =>
    if t.space = sp && t.dep ≠ 0 then
      s.modTask task (fun t =>
        let t := { t with dep := t.dep - 1 }
        if t.dep = 0 && t.state = .waiting then { t with state := .ready, readyAt := s.tick } else t)
    else { s with wd := { s.wd with deplost := if s.wd.deplost = BitVec.allOnes 16 then s.wd.deplost else s.wd.deplost + 1 } }
  | none => { s with wd := { s.wd with deplost := if s.wd.deplost = BitVec.allOnes 16 then s.wd.deplost else s.wd.deplost + 1 } }

/-- The hold that is pending on a core: the task that claims a hold slot for a set the core is in (R158,
R159). -/
def State.holdOn (s : State) (core : Nat) : Option Nat :=
  (s.hold.filterMap (fun h => s.task (h.2 - 1))).find? (fun t => t.place = .hold && t.cores.contains core) |>.map (·.rcd.task.toNat)

/-- The state of a core that is released (R157, R158). -/
def State.freed (s : State) (core : Nat) : Resv :=
  match s.holdOn core with
  | some u => .held u
  | none => .free

/-- The clocks of a core's contexts go on from gang to gang: they never decrease (R273). (DESIGN CHOICE, log 53.) -/
def Core.keepClocks (c old : Core) : Core :=
  [0, 1, 2, 3].foldl (fun c k => c.setCtx k { c.ctx k with pts := max (c.ctx k).pts (old.ctx k).pts }) c

/-- What is left of a core when its gang leaves it: its clocks, its throttle level, and the jobs and
requests that stay at its endpoint (R55, R163, R273). -/
def Core.vacated (c : Core) (r : Resv) : Core :=
  ({ Core.init with
    cycle := c.cycle
    lvl := c.lvl
    resv := r
    sends := c.sends
    colls := c.colls
    sgrds := c.sgrds
    svcs := c.svcs
    unmatched := c.unmatched } : Core).keepClocks c

/-- What a core keeps when its gang completes: everything but its load blocks, until the next gang starts (R153, R157,
R197). (DEDUCED, log 28.) -/
def Core.left (c : Core) (r : Resv) : Core := { c with resv := r, lbs := [] }

/-- A gang leaves its cores; the faults of its load blocks' fills go with the blocks (R165, R197). -/
def State.leave (s : State) (cores : List Nat) (f : Core → Resv → Core) : State :=
  cores.foldl (fun s c => (List.range 16).foldl (fun s b => s.clearWait (.loadBlock c b)) (s.modCore c (fun k => f k (s.freed c)))) s

/-- The barriers of a task, but for those that this module times for other modules, start afresh (R168, R170).
(DEDUCED, log 28.) -/
def State.dropBars (s : State) (task : Nat) : State :=
  { s with bars := s.bars.filter (fun b => b.task ≠ task || (b.lvl = 5 && s.timer b.dom = s.modnum.toNat &&
      (s.members b.dom).any (fun m => m ≠ s.modnum.toNat && Config.joins s.tick m task b.j))) }

/-- The jobs of a task, wherever they are. -/
def State.taskJobs (s : State) (t : Task) : List Job :=
  (t.cores.flatMap (fun c => s.coreJobs c)).filter (fun j => j.task = t.rcd.task.toNat && j.kind ≠ .query)

/-- Whether a gang has nothing more to do (R70, R353): its contexts are IDLE, their accesses have left their
ports, and their jobs have completed. -/
def State.gangDone (s : State) (t : Task) : Bool :=
  t.state = .running && (t.filled || t.killed) && t.cores.all (fun c =>
    [0, 1, 2, 3].all (fun k =>
      let x := s.ctx c k
      x.status = .idle && x.port = [] && x.rplacks = [])) && s.taskJobs t = []

/-- TASK_COMPLETE (R70, R149, R157): the decrement of the successor, the completion entry, and the cores
come free, with what their contexts, flags and barriers hold (R451 to R463). An open merge session of the task is
dropped. -/
def execTaskComplete (task : Nat) (s : State) : Out :=
  match s.task task with
  | none => .next s
  | some t =>
    if !s.gangDone t then .next s
    else
      let s := if t.rcd.succv then s.decTask t.rcd.succ.toNat t.space else s
      let s := s.pushComp (compBytes task (if t.killed then 6 else 0) t.queue s.tick)
      let drop (m : Merge) : Merge := if m.st ≠ .idle && m.task = task then { Merge.init with queue := m.queue } else m
      let s := { s with
        tasks := s.tasks.filter (fun t => t.rcd.task.toNat ≠ task)
        merges := s.merges.foldl (fun l (e : Nat × Merge) => SMap.set Merge.init l e.1 (drop e.2)) s.merges }
      .next (s.leave t.cores Core.left)

/-- The oldest job of a kind that a context has at the work distributor. -/
def State.wdJob (s : State) (core ctx : Nat) (p : JobKind → Bool) : Option Job :=
  (s.core core).svcs.find? (fun j => j.ctx = ctx && !j.done && p j.kind)

/-- TAKE_CLAIM (R155, R433): a chunk in proportion to the core's WEIGHT. -/
def execTakeClaim (core ctx : Nat) (s : State) : Out :=
  match s.wdJob core ctx (fun k => k = .take) with
  | none => .next s
  | some j =>
    match s.task j.task with
    | none => .next s
    | some t =>
      if (s.core core).resv.owner ≠ some j.task then .next s
      else
        let stop := t.rcd.tilefirst.toNat + t.rcd.tilecount.toNat
        let chunk := max 1 (t.rcd.gran.toNat * s.weight core / 1024)
        let n := min chunk (stop - t.cursor)
        let s := s.modTask j.task (fun t => { t with cursor := t.cursor + n })
        .next (s.answer j [BitVec.ofNat 64 t.cursor, BitVec.ofNat 64 n])

/-- A launch by a task's gang (R152): its status. -/
def State.launchFrom (s : State) (r : LaunchRec) (task : Nat) (sp : BitVec 16) : State × Nat :=
  let prio := match s.task task with
    | some t => t.rcd.prio
    | none => 0
  let st := s.checkRecord r (prio < r.prio) (r.space ≠ sp)
  (if st = 0 then s.adopt r 8 else s, st)

/-- DEVICE_LAUNCH (R152, R280, R434): the record is read, checked, and its status returned. (DEDUCED, log 47.) -/
def execDeviceLaunch (core ctx : Nat) (s : State) : Out :=
  let pick (k : JobKind) : Option Cap := match k with
    | .launch c => some c
    | _ => none
  match s.wdJob core ctx (fun k => (pick k).isSome) with
  | none => .next s
  | some j =>
    if maxTasks ≤ s.tasks.length || s.jobWaits j then .next s
    else
      let c := (pick j.kind).getD Cap.zero
      let rq := Requester.fabric core j.id
      let e := s.engine rq j.space j.pts
      let (e, d) := e.atCap c c.off 64 false 3
      let (e, b) := e.readOk d 64 3
      match e.stop with
      | some .wait => .next e.s
      | some _ => .next ((e.s.clearWait rq).answer j [7])
      | none =>
        let (s, st) := e.s.launchFrom (recordOf b) j.task j.space
        .next ((s.clearWait rq).answer { j with pts := e.pts } [BitVec.ofNat 64 st])

end Sys2Proof.Machine
end

