-- ==== Sys2Proof/Machine/Channel.lean ====
section
/-!
DEFINITION. The translation channel (R72 to R76, R111, R118, R300, R305): its commands in ring order.
-/

namespace Sys2Proof.Machine

/-- TRANSLATION_CHANNEL_TAIL_WRITE (R72). -/
def execTranslationChannelTailWrite (v : Word) (s : State) : Out :=
  .next { s with ch := { s.ch with ring := s.ch.ring.produce (v.setWidth 32) } }

/-- A channel command (R72). -/
structure Command where
  opc : Nat
  arg : BitVec 32
  addr : Nat
  data : Word
  ok : Bool
  deriving DecidableEq, Repr

/-- The command at the head of the channel, where there is one. A poisoned one counts as having reserved bytes
that are not 0. -/
def State.command (s : State) : Option Command :=
  let r := s.ch.ring
  if r.cfgErr || r.head = r.tail then none
  else
    let pa := r.entry 32 r.head
    let b := s.memRead 0 pa 32
    some ⟨getLe b 0 1, BitVec.ofNat 32 (getLe b 4 4), getLe b 8 8, BitVec.ofNat 64 (getLe b 16 8),
      getLe b 1 3 = 0 && getLe b 24 8 = 0 && (s.poisonAt 0 pa 32).isNone⟩

/-- The outstanding fault of a number. -/
def State.fault? (s : State) (id : BitVec 32) : Option OutFault := s.outFaults.find? (fun f => f.id = id)

/-- Whether a command is skipped (R74). -/
def State.skips (s : State) (c : Command) : Bool :=
  !c.ok || c.opc = 0 || 6 < c.opc || ((c.opc = 3 || c.opc = 4) && (s.fault? c.arg).isNone) ||
    (c.opc = 1 && (c.addr % 8 ≠ 0 || !isMemory c.addr 8))

/-- A command is over: HEAD moves on. -/
def State.nextCommand (s : State) : State :=
  { s with ch := { s.ch with ring := { s.ch.ring with head := s.ch.ring.head + 1 } } }

/-- Run the command at the head where it is of a kind; a command to be skipped is skipped (R73, R74). `body`
answers none while the command waits. (DESIGN CHOICE, log 64.) -/
def State.channel (s : State) (opc : Nat) (body : Command → State → Option State) : Out :=
  match s.command with
  | none => .next s
  | some c =>
    if s.skips c then
      .next { s.nextCommand with ch := { s.nextCommand.ch with errIdx := s.ch.ring.head, cmdErr := true } }
    else if c.opc ≠ opc then .next s
    else
      match body c s with
      | none => .next s
      | some t => .next t.nextCommand

/-- The moves of every tier that are in motion (R117). -/
def State.moves (s : State) : List Move := s.tiers.flatMap (fun t => t.2.moves)

/-- PTWRITE (R72, R111, R118): the 8 bytes are written, and the cached copies of an object-table or space-table
entry that holds them are dropped. An entry of a page in motion waits. -/
def execPtwrite (s : State) : Out := s.channel 1 (fun c s =>
  if s.moves.any (fun m => m.pte = c.addr) then none
  else
    let s := s.memPut 0 c.addr (bytesOf 8 c.data.toNat)
    some { s with
      objCache := s.objCache.filter (fun e => e.pa / 64 ≠ c.addr / 64)
      spaceCache := s.spaceCache.filter (fun e => e.pa / 32 ≠ c.addr / 32) })

/-- INVAL (R72, R111). -/
def execInval (s : State) : Out := s.channel 2 (fun c s => some (s.inval (c.arg.setWidth 16) c.addr c.data.toNat))

/-- An outstanding fault is resolved. -/
def State.dropFault (s : State) (id : BitVec 32) : State := { s with outFaults := s.outFaults.filter (fun f => f.id ≠ id) }

/-- The fault of a number takes a phase where its engine waits for it (R75, R86): one whose work has ended meanwhile
concerns no other. -/
def State.setPhase (s : State) (id : BitVec 32) (p : EngPhase) : State :=
  { s with engWaits := s.engWaits.map (fun w => if w.id = id && w.phase = .waiting then { w with phase := p } else w) }

/-- REPLAY (R75, R300, R353): a parked context returns from its level with its record to be reissued; an exited
context's accesses go on; an engine takes its access up again. -/
def execReplay (s : State) : Out := s.channel 3 (fun c s =>
  (s.fault? c.arg).map (fun f =>
    let s := s.dropFault c.arg
    match f.req with
    | .ctx ci k =>
      if (s.ctx ci k).status = .parked then
        (s.modCtx ci k (fun x => { x with lastReplay := some c.arg })).trapReturn ci k
      else s.modCtx ci k (fun x => { x with lastReplay := some c.arg })
    | _ => s.setPhase c.arg .replayed))

/-- KILL (R86, R305, R353): the context of the fault is killed; an exited context's accesses are discarded and
its task will complete KILLED; an engine's work ends with its fault. -/
def execKill (s : State) : Out := s.channel 4 (fun c s =>
  (s.fault? c.arg).map (fun f =>
    let s := s.dropFault c.arg
    match f.req with
    | .ctx ci k =>
      if (s.ctx ci k).status = .idle then
        (s.modTask (s.taskIdOf ci) (fun t => { t with killed := true })).modCtx ci k (fun x => { x with port := [] })
      else s.kill ci k 0 0
    | _ => s.setPhase c.arg .killed))

/-- Whether a page in motion belongs to a SID, as its frame-table entry says (R113, R118). -/
def State.movesOf (s : State) (sid : BitVec 12) : Bool :=
  s.tiers.any (fun t => t.2.moves.any (fun m =>
    let base := match t.1 with
      | 0 => 0x20000000000
      | 1 => 0
      | _ => 0x100000000000
    bits (s.word0 (t.2.ftbase.toNat + 16 * ((m.src - base) / 65536) + 8) 8) 48 12 = sid.toNat))

/-- RETIRE (R76, R118): refused while a task of the space is live or a fault of it outstanding; else entries of
the next generation are dropped and the generation advances. -/
def execRetire (s : State) : Out := s.channel 5 (fun c s =>
  let sid : BitVec 12 := c.arg.setWidth 12
  let gen := SMap.get 0 s.spgen sid.toNat
  let sp := mkSpace gen sid
  if s.movesOf sid then none
  else if s.tasks.any (fun t => t.space = sp) || s.outFaults.any (fun f => f.space = sp) then
    some { s with ch := { s.ch with spaceLive := true } }
  else
    let stale (d : BitVec 12) (g : BitVec 4) : Bool := d = sid && g = gen + 1
    some { s with
      tlb := s.tlb.filter (fun e => !stale e.sid e.gen)
      walkCache := s.walkCache.filter (fun e => !stale e.sid e.gen)
      spgen := SMap.set 0 s.spgen sid.toNat (gen + 1) })

/-- MARK (R72). -/
def execMark (s : State) : Out := s.channel 6 (fun c s => some { s with ch := { s.ch with mark := c.data } })

end Sys2Proof.Machine
end

