-- ==== Sys2Proof/Machine/Fabric.lean ====
section
/-!
DEFINITION. What messages do at their destination in this module (R37, R48, R52 to R55, R165, R168, R435 to R437,
R444): requests, grants and refusals of typed sends, data, block transfers, acknowledgements, remote posts
and barrier arrivals.
-/

namespace Sys2Proof

/-- The module and the endpoint of a fabric address (R37). -/
def moduleOf (a : BitVec 24) : BitVec 12 := a.extractLsb' 12 12
@[inherit_doc moduleOf] def pointOf (a : BitVec 24) : Nat := (a.extractLsb' 0 12).toNat

namespace Machine

/-- The last endpoint that is not reserved (R37). -/
def lastEndpoint : Nat := 0x402

/-- How a message fails on its way: no route, no endpoint, a link that went down, or a fault at the
destination (R37, R38, R44, R437). -/
inductive Loss where
  | noRoute | noEndpoint | linkDown | remote
  deriving DecidableEq, Repr

/-- The number of a loss in a notice. -/
def Loss.num : Loss → Nat
  | .noRoute => 0
  | .noEndpoint => 1
  | .linkDown => 2
  | .remote => 3
/-- The loss a notice names. (DEDUCED, log 21.) -/
def lossOf (n : Nat) : Loss :=
  match n with
  | 0 => .noRoute
  | 1 => .noEndpoint
  | 2 => .linkDown
  | _ => .remote

/-- The status of a send or a block transfer that a loss ends (R435, R437). -/
def Loss.status (l : Loss) (send : Bool) : Nat :=
  match l with
  | .noRoute => if send then 3 else 1
  | .noEndpoint => if send then 4 else 2
  | .linkDown => if send then 5 else 3
  | .remote => if send then 7 else 4

/-- Whether the sender of a message waits for its end (R435, R437, R59). -/
def awaited (m : Msg) : Bool :=
  match m.kind with
  | .sendReq | .typedData | .block | .collective => true
  | _ => false

/-- The notice that tells a message's sender of its loss: the job, or the group of a collective, and the
loss. -/
def lossNotice (m : Msg) (l : Loss) : Msg where
  src := m.dst
  dst := m.src
  kind := .nak
  cls := 0
  tag := m.tag
  tw := 0
  data := wordsBytes [if m.kind = .collective then m.tag.toNat else msgWord m 0, l.num]

/-- A message is lost: its sender is told where it waits for the message's end, and a remote post is counted as
dropped here (R444). (DESIGN CHOICE, log 20.) -/
def State.lose (s : State) (m : Msg) (l : Loss) : State :=
  if awaited m then s.send (lossNotice m l) else if m.kind = .post then s.dropPost else s

/-- Take a message that has reached this module; messages of one source and destination are taken in the
order sent, but for C1 (R48). (DESIGN CHOICE, log 19.) -/
def State.takeMsg (s : State) (m : Msg) : Option State :=
  let stream (n : Msg) : Bool := n.cls = m.cls && n.src = m.src && n.dst = m.dst
  let first : Bool := m.cls = 1 || s.inbox.find? stream = some m
  if moduleOf m.dst = s.modnum && s.inbox.contains m && first then some { s with inbox := s.inbox.erase m } else none

/-- An arrival of a message of one of some kinds at an endpoint of one kind. A message for a reserved endpoint, or
for one that has no such messages, is dropped (R37). (DESIGN CHOICE, log 19; DEDUCED, log 21.) -/
def State.arrival (s : State) (m : Msg) (kinds : List MsgKind) (at_ : Nat → Bool) (f : State → State) : Out :=
  if !kinds.contains m.kind then .next s
  else match s.takeMsg m with
    | none => .next s
    | some t => .next (if at_ (pointOf m.dst) then f t else t.lose m .noEndpoint)

/-- A core's endpoint (R37). -/
def isCore (n : Nat) : Bool := n < 1024

/-- The send or block transfer of a core with an identity. -/
def State.sendJob (s : State) (ci id : Nat) : Option Job := (s.core ci).sends.find? (fun j => j.id = id)

/-- A send or block transfer completes with its status (R421, R435, R437). -/
def State.sendDone (s : State) (j : Job) (status : Nat) : State :=
  ((s.modCore j.core (fun c => { c with sends := c.sends.filter (fun i => i.id ≠ j.id) })).clearWait
    (.fabric j.core j.id)).answer j [BitVec.ofNat 64 status]

/-- Change a send of a core. -/
def State.modSend (s : State) (j : Job) (f : Job → Job) : State :=
  s.modCore j.core (fun c => { c with sends := c.sends.map (fun (i : Job) => if i.id = j.id then f i else i) })

/-- SEND_REQUEST_ARRIVE (R52, R53, R55). -/
def execSendRequestArrive (m : Msg) (s : State) : Out :=
  s.arrival m [.sendReq] isCore (fun s => s.offer (pointOf m.dst) m)

/-- The data of a granted send (R52, R435): the message, once the tile's image can be read; the status that ends
the send where it cannot. -/
def State.sendData (s : State) (j : Job) (t : TileOp) (m : Msg) : State × Option (Except Nat Msg) :=
  let c := s.gangCore j.task j.core
  let e := s.engine (.fabric j.core j.id) j.space j.pts
  let (e, im) := e.readTile c (c.ctx j.ctx).dfbase t
  match e.stop with
  | some .wait => (e.s, none)
  | some .ecc => (e.s, some (.error 6))
  | some _ => (e.s, some (.error 7))
  | none =>
    if im.bad ≠ [] then (e.s, some (.error 6))
    else
      let n := if twLay t.tw = 5 then zbBytes t.tw im.d im.n else 128 * imageRows t.tw im.d
      (e.s.modSend j (fun i => { i with pts := e.pts }), some (.ok
        { src := m.dst
          dst := m.src
          kind := .typedData
          cls := 1
          tag := m.tag
          tw := t.tw
          data := wordsBytes [j.id, msgWord m 1, msgWord m 2] ++ bytesOf n im.n }))

/-- SEND_GRANT_ARRIVE (R52): the data travels once the job's earlier jobs have let go of the tile. -/
def execSendGrantArrive (m : Msg) (s : State) : Out :=
  if m.kind ≠ .sendGrant then .next s
  else match s.takeMsg m with
    | none => .next s
    | some t =>
      match t.sendJob (pointOf m.dst) (msgWord m 0) with
      | none => .next t
      | some j =>
        match j.kind with
        | .send x _ _ =>
          if s.jobWaits j then .next s
          else
            (match s.sendData j x m with
              | (s, none) => .next s
              | (s, some (.error st)) => .next (((s.takeMsg m).getD s).sendDone j st)
              | (s, some (.ok d)) => .next (((s.takeMsg m).getD s).send d))
        | _ => .next t

/-- SEND_REFUSAL_ARRIVE (R54, R55): a refusal ends the send; BUSY schedules another attempt after 1 to 16 µs.
(DESIGN CHOICE, log 23.) -/
def execSendRefusalArrive (m : Msg) (s : State) : Out :=
  s.arrival m [.sendRefuse, .sendBusy] isCore (fun s =>
    match s.sendJob (pointOf m.dst) (msgWord m 0) with
    | none => s
    | some j =>
      if m.kind = .sendRefuse then s.sendDone j 1
      else
        let (s, n) := s.draw
        s.modSend j (fun i => { i with result := [BitVec.ofNat 64 (s.tick + 1000 + Config.freeNat n % 15001)] }))

/-- SEND_RETRY_TIMER (R55). -/
def execSendRetryTimer (core : Nat) (job : Nat) (s : State) : Out :=
  match s.sendJob core job with
  | none => .next s
  | some j =>
    match j.kind, j.result with
    | .send t dst tag, [due] =>
      if s.tick < due.toNat then .next s
      else if j.pos + secondTicks ≤ s.tick then .next (s.sendDone j 2)
      else .next ((s.modSend j (fun i => { i with result := [] })).send (s.sendRequest core j t dst tag))
    | _, _ => .next s

/-- The words of a landed type (R436). -/
def typeWords (t : Quad) : List Word := [t.extractLsb' 0 64, t.extractLsb' 64 64]

/-- An image as it lands in a receive (R51): the type, the image and its bytes. -/
def landImage (want : Quad) (m : Msg) : Quad × Nat × Nat :=
  let b := m.data.drop 24
  let n := ofBytes b
  let t := landType want m.tw
  if t = m.tw then (t, n, b.length)
  else
    let im : Img := ⟨m.tw, n, []⟩
    (t, buildImage t (twExts t) 0 im.unit, 128 * imageRows t (twExts t))

/-- Write an image into the storage of a receive (R436), all of its pages translated ahead. -/
def Eng.landTile (e : Eng) (j : Job) (x : TileOp) (img n : Nat) : Eng :=
  let row (r : Nat) : Row := BitVec.ofNat 1024 (bits img (1024 * r) 1024)
  match dKind x.desc with
  | 1 =>
    let c := e.s.gangCore j.task j.core
    let base := (c.ctx j.ctx).dfbase + dRow x.desc
    { e with s := (List.range (ceilDiv n 128)).foldl (fun s r =>
        s.modGangCore j.task j.core (fun c => c.writeRow (base + r) (row r) allBytes)) e.s }
  | _ =>
    let total := if twLay x.tw = 5 then some n else none
    let e := e.touchTile x .jobDst total
    if e.stop.isSome then e
    else
      let (e, base, o) := e.window x .jobDst
      ((typedUnits x.tw o.pitch 0 total).zipIdx).foldl (fun e p =>
        e.write (base + p.1.1) ((rowBytes (row p.2)).take p.1.2) 3) e

/-- The matched receive of a context that a message names. -/
def State.matchedRecv (s : State) (ci k id : Nat) : Option Job :=
  let all := (s.ctx ci k).recvs ++ (s.swaps.flatMap (fun g => (g.cores.filter (fun p => p.1 = ci)).flatMap (fun p => (p.2.ctx k).recvs)))
  all.find? (fun j => j.id = id && j.started)

/-- A receive is over (R436): its type words return, then its flag is posted. -/
def State.recvDone (s : State) (j : Job) (t : Quad) : State :=
  ((s.modGangCtx j.task j.core j.ctx (fun x => { x with recvs := x.recvs.filter (fun i => i.id ≠ j.id) })).clearWait
    (.fabric j.core j.id)).answer j (typeWords t)

/-- TYPED_DATA_ARRIVE (R280, R436): the image lands once earlier jobs of the context let it; the receive completes and the sender is told. Where the landing's
translation fault is killed, the receive ends as it stands. -/
def execTypedDataArrive (m : Msg) (s : State) : Out :=
  if m.kind ≠ .typedData then .next s
  else match s.takeMsg m with
    | none => .next s
    | some t =>
      let ci := pointOf m.dst
      match t.matchedRecv ci (msgWord m 1) (msgWord m 2) with
      | none => .next (t.lose m .noEndpoint)
      | some j =>
        match j.kind with
        | .recv x _ _ _ =>
          if s.jobWaits j then .next s
          else
          let (tw, img, n) := landImage x.tw m
          let e := (s.engine (.fabric ci j.id) j.space j.pts).landTile j { x with tw := tw } img n
          let reply (s : State) (kind : MsgKind) (l : List Nat) : State := s.send
            { src := m.dst
              dst := m.src
              kind := kind
              cls := 0
              tag := m.tag
              tw := 0
              data := wordsBytes l }
          let over_ (s : State) : State := { s with inbox := s.inbox.erase m }
          (match e.stop with
            | some .wait => .next e.s
            | some _ => .next (reply ((over_ e.s).recvDone j x.tw) .nak [msgWord m 0, Loss.remote.num])
            | none => .next (reply ((over_ e.s).recvDone { j with pts := e.pts } tw) .ack [msgWord m 0]))
        | _ => .next t

/-- Read the bytes of a block transfer that has not travelled yet (R437): the message with its bytes, or the
status that ends the transfer; none while it must wait. -/
def State.loadBlock (s : State) (m : Msg) : State × Option (Except Nat Msg) :=
  let n := msgWord m 4
  if m.kind ≠ .block || m.data.length ≠ 8 * blockWords || n = 0 then (s, some (.ok m))
  else
    match s.sendJob (pointOf m.src) (msgWord m 0) with
    | none => (s, some (.ok m))
    | some j =>
      match j.kind with
      | .bxfer a _ _ _ _ =>
        if s.jobWaits j then (s, none)
        else
          let e := s.engine (.fabric j.core j.id) j.space j.pts
          let (e, d) := e.atCap a a.off n false 3
          let (e, b) := e.readOk d n 3
          (match e.stop with
            | some .wait => (e.s, none)
            | some .ecc => (e.s, some (.error 5))
            | some _ => (e.s, some (.error 6))
            | none => (e.s.modSend j (fun i => { i with pts := e.pts }),
              some (.ok { m with data := m.data.take (8 * (blockWords - 1)) ++ bytesOf 8 e.pts ++ b })))
      | _ => (s, some (.ok m))

/-- The destination's side of a block transfer as a requester: it is no job of this module. -/
def blockRq (m : Msg) : Requester := .fabric (pointOf m.dst) (2 ^ 64 + m.src.toNat * 2 ^ 64 + msgWord m 0)

/-- Write the bytes of a block transfer at its destination (R437): whether it is over, and the clock of its writes; none
where it failed. -/
def State.landBlock (s : State) (m : Msg) : State × Option (Option Nat) :=
  let b := m.data.drop (8 * blockWords)
  let sp := BitVec.ofNat 16 (msgWord m 3)
  let c : Cap := ⟨BitVec.ofNat 128 (msgWord m 2 * 2 ^ 64 + msgWord m 1), true⟩
  let rq := blockRq m
  let ok : Bool := genOf sp = SMap.get 0 s.spgen (sidOf sp).toNat && (match s.rqObject rq sp c.obj with
    | some o => 0 ≤ c.off && c.off.toNat + b.length ≤ o.len && !o.now
    | none => false)
  if b = [] then (s, some (some (msgWord m 6)))
  else if !ok then (s, some none)
  else
    let e := s.engine rq sp (msgWord m 6)
    let (e, d) := e.atCap c c.off b.length true 3
    let e := e.touch d b.length true false 3
    let e := if e.stop.isSome then e else e.write d b 3
    match e.stop with
    | some .wait => (e.s, none)
    | some _ => (e.s.clearWait rq, some none)
    | none => (e.s.clearWait rq, some (some e.pts))

/-- BLOCK_TRANSFER_ARRIVE (R437, R48): the bytes land, then the remote flag is posted, then the sender is told. -/
def execBlockTransferArrive (m : Msg) (s : State) : Out :=
  if m.kind ≠ .block then .next s
  else match s.takeMsg m with
    | none => .next s
    | some t =>
      if !isCore (pointOf m.dst) then .next (t.lose m .noEndpoint)
      else match s.loadBlock m with
        | (s, none) => .next s
        | (s, some (.error st)) =>
          let s := { s with inbox := s.inbox.erase m }
          (match s.sendJob (pointOf m.src) (msgWord m 0) with
            | some j => .next (s.sendDone j st)
            | none => .next s)
        | (s, some (.ok d)) =>
          let reply (s : State) (kind : MsgKind) (l : List Nat) : State := ({ s with inbox := s.inbox.erase m }).send
            { src := m.dst
              dst := m.src
              kind := kind
              cls := 0
              tag := m.tag
              tw := 0
              data := wordsBytes l }
          (match s.landBlock d with
            | (s, none) => .next s
            | (s, some none) => .next (reply s .nak [msgWord m 0, Loss.remote.num])
            | (s, some (some ts)) =>
              let s := if msgWord m 5 = 1 then s.postTo (pointOf m.dst) (m.tag.toNat % 32) 1 (BitVec.ofNat 16 (msgWord m 3)) ts else s
              .next (reply s .ack [msgWord m 0]))

/-- A running collective of a group ends with a status (R59). -/
def State.endColl (s : State) (g : Nat) (st : BitVec 8) : State :=
  { s with cruns := s.cruns.map (fun (r : CollRun) => if r.grp = g && r.started && r.status = 0 then { r with status := st } else r) }

/-- TRANSFER_ACK_ARRIVE (R435, R437, R59): the sender's send, block transfer or collective is over. A message of a
collective that finds no route, no endpoint or a link that goes DOWN ends it as LINK_DOWN. (DEDUCED, log 22.) -/
def execTransferAckArrive (m : Msg) (s : State) : Out :=
  s.arrival m [.ack, .nak] (fun n => isCore n || n = 0x400) (fun s =>
    if !isCore (pointOf m.dst) then (if m.kind = .nak then s.endColl (msgWord m 0) 4 else s)
    else match s.sendJob (pointOf m.dst) (msgWord m 0) with
      | none => s
      | some j =>
        let send : Bool := match j.kind with
          | .send .. => true
          | _ => false
        s.sendDone j (if m.kind = .ack then 0 else (lossOf (msgWord m 1)).status send))

/-- REMOTE_POST_ARRIVE (R165, R444). -/
def execRemotePostArrive (m : Msg) (s : State) : Out :=
  s.arrival m [.post] isCore (fun s =>
    s.postTo (pointOf m.dst) (m.tag.toNat % 32) (msgWord m 0) (BitVec.ofNat 16 (msgWord m 1)) (msgWord m 2))

/-- REMOTE_BARRIER_ARRIVAL (R37, R168, R170): at member 0 of a group another member has arrived in the open phase of
a level-5 barrier; elsewhere, member 0 has completed the phase. An arrival of the phase after it waits; one of a
past phase is dropped. (DEDUCED, log 21; DEDUCED, log 46.) -/
def execRemoteBarrierArrival (m : Msg) (s : State) : Out :=
  if m.kind ≠ .barrier then .next s
  else match s.takeMsg m with
    | none => .next s
    | some t =>
      let b := t.barrier (msgWord m 0) (msgWord m 1) 5 m.tag.toNat
      let from_ := (moduleOf m.src).toNat
      if pointOf m.dst ≠ collPoint.toNat then .next (t.lose m .noEndpoint)
      else if msgWord m 2 ≠ b.phase.toNat then .next (if msgWord m 2 = (b.phase + 1).toNat then s else t)
      else if !(t.members b.dom).contains from_ then .next t
      else if t.timer b.dom = t.modnum.toNat then
        if b.remote.any (fun r => r.1 = from_) then .next t
        else
          let b := { b with remote := b.remote ++ [(from_, t.tick)] }
          .next ((t.setBarrier b).settleGroup b)
      else if from_ = t.timer b.dom && m.data.length = 40 then .next (t.endPhase b (BitVec.ofNat 128 (getLe m.data 24 16)))
      else .next t

end Machine

end Sys2Proof
end

