-- ==== Sys2Proof/Machine/Collectives.lean ====
section
/-!
DEFINITION. The collective engine (R56 to R62, R438): groups, descriptors, contributions, the exact sums, and where
the results go.
-/

namespace Sys2Proof.Machine

/-- The ids of the jobs a collective job and its engine use. -/
def collRq (j : Job) : Requester := .fabric j.core j.id

/-- A group-table entry (R57). -/
def State.cgroup (s : State) (g : Nat) : CollGroup := SMap.get CollGroup.init s.cgroups g
/-- Write a group-table entry. -/
def State.setCgroup (s : State) (g : Nat) (e : CollGroup) : State :=
  { s with cgroups := SMap.set CollGroup.init s.cgroups g e }

/-- Whether a group is usable on this module (R57); a member list that holds a poisoned word is not one.
(DEDUCED, log 22.) -/
def State.groupOk (s : State) (g : Nat) : Bool :=
  let e := s.cgroup g
  let n := e.members.toNat
  let l := s.members g
  e.v && 1 ≤ e.loc.toNat && e.loc.toNat ≤ 1024 && 1 ≤ n && n ≤ 4096 && l.all (fun m => m < 4096) &&
    (runsOf l).length = n && l.contains s.modnum.toNat && (s.poisonAt 0 (fld e.list 4 44 * 16) (2 * n)).isNone

/-- A descriptor from its 16 bytes; none where a field is invalid for a group of `n` members (R58, R59). -/
def collDesc (b : List Byte) (n : Nat) : Option CollDesc :=
  let w := getLe b 0 4
  let d : CollDesc :=
    { op := BitVec.ofNat 4 (bits w 8 4)
      func := BitVec.ofNat 4 (bits w 12 4)
      infmt := BitVec.ofNat 5 (bits w 16 5)
      outfmt := BitVec.ofNat 5 (bits w 21 5)
      sat := w.testBit 26
      seq := BitVec.ofNat 32 (getLe b 4 4)
      root := BitVec.ofNat 32 (getLe b 8 4)
      count := getLe b 12 4 }
  let inf := d.infmt.toNat
  let floats : Bool := (floatOf inf).isSome || isBx inf
  let isInt : Bool := intOf inf = some (true, 32)
  let out32 : Bool := intOf d.outfmt.toNat = some (true, 32)
  let outF : Bool := floatOf d.outfmt.toNat = some fp32 || floatOf d.outfmt.toNat = some fp16 || floatOf d.outfmt.toNat = some bf16
  let ok : Bool := bits w 27 5 = 0 && bits w 0 8 = 0 && d.op.toNat ≤ 4 && d.func.toNat ≤ 2 && 1 ≤ d.count && d.count ≤ 2 ^ 28 &&
    (floats && outF || isInt && out32) && (d.op ≠ 2 || d.count % n = 0) && (!isBx inf || d.count % 16 = 0) &&
    (!(d.op = 1 || d.op = 4) || d.root.toNat < n)
  if ok then some d else none

/-- The bytes of a contributor's source (R438). -/
def CollDesc.inBytes (d : CollDesc) : Nat :=
  if isBx d.infmt.toNat then d.count / 16 * unitSize d.infmt.toNat else d.count * elemSize d.infmt.toNat
/-- The elements a contributor receives (R62, R438). -/
def CollDesc.outCount (d : CollDesc) (n : Nat) : Nat := if d.op = 2 then d.count / n else d.count
/-- The bytes of a contributor's destination (R438). -/
def CollDesc.outBytes (d : CollDesc) (n : Nat) : Nat := d.outCount n * elemSize d.outfmt.toNat

/-- The exact values of a source's elements (R60). -/
def CollDesc.values (d : CollDesc) (b : List Byte) : List FV :=
  let f := d.infmt.toNat
  if isBx f then (List.range (d.count / 16)).flatMap (fun i => bxValues (bxM f) (getLe b (i * unitSize f) (unitSize f)))
  else (List.range d.count).map (fun i => valueOf f (getLe b (i * elemSize f) (elemSize f)))

/-- The larger or smaller of two values: −0 lies below +0 (R61). -/
def pickV (isMax : Bool) (a b : FV) : FV :=
  match cmpV a b with
  | none => .nan false
  | some .eq => if a.sign = isMax then b else a
  | some .lt => if isMax then b else a
  | some .gt => if isMax then a else b

/-- One element of the reduction (R60, R61): the bits of the result. -/
def CollDesc.reduce (d : CollDesc) (l : List FV) : Nat :=
  let v : FV := match d.func.toNat with
    | 0 => (sumAll l).1
    | f => if l.any FV.isNan then .nan false else l.tail.foldl (pickV (f = 1)) (l.headD (.fin false 0 0))
  match floatOf d.outfmt.toNat with
  | some g => (roundTo g 0 d.sat v).1
  | none => ofI 32 (Machine.sat (rangeOf true 32).1 (rangeOf true 32).2 (v.int * pow2 v.exp)).1

/-- Element `i` of a collective's result (R60 to R62): the reduction; of a broadcast whose root has one contributor,
its element, as a sum of one. The manual states no value for other broadcasts and for all-gathers.
(DEDUCED, log 22.) -/
def CollRun.element (r : CollRun) (vals : List (List FV)) (i : Nat) : Nat :=
  let root := (r.contribs.filter (fun c => c.1 = r.desc.root.toNat)).flatMap (fun c => c.2.map r.desc.values)
  match r.desc.op.toNat, root with
  | 4, [l] => { r.desc with func := 0 }.reduce [l.getD i (.fin false 0 0)]
  | 3, _ | 4, _ =>
    (Config.collOther (r.desc.infmt.toNat, r.desc.outfmt.toNat, r.desc.sat) r.desc.root.toNat r.contribs i).toNat
  | _, _ => r.desc.reduce (vals.map (fun l => l.getD i (.fin false 0 0)))

/-- The bytes that a member receives (R62); none where it receives nothing. -/
def CollRun.share (r : CollRun) (n me : Nat) : Option (List Byte) :=
  if (r.desc.op = 1 || r.desc.op = 4) && r.desc.root.toNat ≠ me then none
  else
    let vals := r.contribs.flatMap (fun c => c.2.map r.desc.values)
    let first := if r.desc.op = 2 then me * r.desc.outCount n else 0
    some ((List.range (r.desc.outCount n)).flatMap (fun i =>
      bytesOf (elemSize r.desc.outfmt.toNat) (r.element vals (first + i))))

/-- The number of this module among a group's members. -/
def State.memberNo (s : State) (g : Nat) : Nat := ((s.members g).idxOf s.modnum.toNat)

/-- The collective jobs of a group that have not started, oldest first. -/
def State.collJobs (s : State) (g : Nat) : List Job :=
  sortBy (fun (j : Job) => j.id) ((s.cores.flatMap (fun c => c.2.colls)).filter (fun j => match j.kind with
    | .coll _ _ _ h => h = g
    | _ => false))

/-- A collective job leaves its core's queue. -/
def State.dropColl (s : State) (j : Job) : State :=
  s.modCore j.core (fun c => { c with colls := c.colls.filter (fun i => i.id ≠ j.id) })

/-- Change a collective job that waits in its core's queue. -/
def State.modColl (s : State) (j : Job) (f : Job → Job) : State :=
  s.modCore j.core (fun c => { c with colls := c.colls.map (fun (i : Job) => if i.id = j.id then f i else i) })

/-- A contributor's job ends with a status (R59, R421). -/
def State.collDone (s : State) (j : Job) (status : Nat) : State :=
  ((s.dropColl j).clearWait (collRq j)).answer j [BitVec.ofNat 64 status]

/-- Read a contributor's descriptor and source (R58, R59, R438): what it contributes, or the status that ends it;
none while it waits. Only the descriptor was checked at issue: a source or destination without its tag, its rights or its
bytes ends the job with BAD_DESCRIPTOR. (DEDUCED, log 22.) -/
def State.collRead (s : State) (g : Nat) (j : Job) : State × Option (Except Nat (CollDesc × List Byte)) :=
  match j.kind with
  | .coll a b c _ =>
    if s.jobWaits j then (s, none)
    else
    let n := (s.members g).length
    let e := s.engine (collRq j) j.space j.pts
    let (e, p) := e.atCap a a.off 16 false 3
    let (e, h) := e.readOk p 16 3
    (match e.stop with
      | some .wait => (e.s, none)
      | some _ => (e.s, some (.error 6))
      | none =>
        match collDesc h n with
        | none => (e.s, some (.error 5))
        | some d =>
          let fits (k : Cap) (need : BitVec 8) (m : Nat) : Bool := k.valid && need &&& ~~~k.rights = 0 && 0 ≤ k.off &&
            k.off + m ≤ k.len && (match e.s.rqObject e.rq e.sp k.obj with
            | some o => k.off + m ≤ o.len
            | none => true)
          if !fits b (rR ||| rE) d.inBytes || !fits c (rW ||| rE) (d.outBytes n) then (e.s, some (.error 5))
          else
            let (e, p) := e.atCap b b.off d.inBytes false 3
            let (e, x) := e.readOk p d.inBytes 3
            match e.stop with
            | some .wait => (e.s, none)
            | some _ => (e.s, some (.error 6))
            | none => (e.s.modColl j (fun i => { i with pts := e.pts }), some (.ok (d, x))))
  | _ => (s, some (.error 5))

/-- A message of a collective to a member: the status so far, the descriptor, and the sources (R58); with a status it is
control, in C0, with data it goes in C2 (R45). (DESIGN CHOICE, log 19.) -/
def State.collMsg (s : State) (r : CollRun) (m : Nat) (srcs : List (List Byte)) : Msg where
  src := s.modnum ++ 0x400#12
  dst := BitVec.ofNat 12 m ++ 0x400#12
  kind := .collective
  cls := if r.status = 0 then 2 else 0
  tag := BitVec.ofNat 16 r.grp
  tw := 0
  data := wordsBytes [r.status.toNat, r.desc.seq.toNat, r.desc.op.toNat, r.desc.func.toNat, r.desc.infmt.toNat,
    r.desc.outfmt.toNat, r.desc.sat.toNat, r.desc.root.toNat, r.desc.count, srcs.length] ++ srcs.flatten

/-- The descriptor that a collective message carries. -/
def msgDesc (m : Msg) : CollDesc where
  op := BitVec.ofNat 4 (msgWord m 2)
  func := BitVec.ofNat 4 (msgWord m 3)
  infmt := BitVec.ofNat 5 (msgWord m 4)
  outfmt := BitVec.ofNat 5 (msgWord m 5)
  sat := msgWord m 6 = 1
  seq := BitVec.ofNat 32 (msgWord m 1)
  root := BitVec.ofNat 32 (msgWord m 7)
  count := msgWord m 8

/-- Send to every other member of a group. -/
def State.toMembers (s : State) (r : CollRun) (srcs : List (List Byte)) : State :=
  ((s.members r.grp).filter (fun m => m ≠ s.modnum.toNat)).foldl (fun s m => s.send (s.collMsg r m srcs)) s

/-- The live collective of a group. -/
def State.collRun (s : State) (g : Nat) : Option CollRun := s.cruns.find? (fun r => r.grp = g)

/-- Gather what the contributors of a group present, in turn (R59): those that fail end at once, and so do those whose
number follows neither the group's last collective nor one that is gathered, `l`. While a contribution before it
cannot be read yet, one that does not follow stays (`wait`). (DEDUCED, log 22.) -/
def State.collGather (s : State) (g : Nat) (wait : Bool) (l : List (Job × CollDesc × List Byte)) :
    List Job → State × List (Job × CollDesc × List Byte)
  | [] => (s, l)
  | j :: t =>
    match s.collRead g j with
    | (s, none) => State.collGather s g true l t
    | (s, some (.error st)) => State.collGather (s.collDone j st) g wait l t
    | (s, some (.ok (d, x))) =>
      let follows : Bool := l.any (fun p => d.seq = p.2.1.seq || d.seq = p.2.1.seq + 1) ||
        (match (s.cgroup g).lastSeq with
          | some q => d.seq = q + 1
          | none => l = [] && !wait)
      if follows then State.collGather s g wait (l ++ [(j, d, x)]) t
      else if wait then State.collGather s g true l t
      else State.collGather (s.collDone j 2) g false l t

/-- COLL_JOB_START (R56 to R59): once every local contributor of a group has issued with the sequence number that is
next, the job starts: the sources go to the other members. Contributors to a later collective wait.
(DEDUCED, log 22.) -/
def execCollJobStart (g : Nat) (s : State) : Out :=
  if 256 ≤ g || (s.collRun g).isSome then .next s
  else if !s.groupOk g then .next ((s.collJobs g).foldl (fun s j => s.collDone j 7) s)
  else
    let (s, l) := s.collGather g false [] (s.collJobs g)
    match l with
    | [] => .next s
    | (_, d, _) :: _ =>
      let n := (s.cgroup g).loc.toNat
      let l := (l.filter (fun p => p.2.1.seq = d.seq)).take n
      if l.length < n then .next s
      else
        let alike : Bool := l.all (fun p => p.2.1 = d)
        let srcs := l.map (·.2.2)
        let r : CollRun :=
          { grp := g
            desc := d
            jobs := l.map (fun p => (s.collJobs g).find? (fun j => j.id = p.1.id) |>.getD p.1)
            contribs := [(s.memberNo g, srcs)]
            started := true
            tick := s.tick
            status := if alike then 0 else 1 }
        let s := l.foldl (fun s p => s.dropColl p.1) s
        let s := s.setCgroup g { s.cgroup g with lastSeq := some d.seq }
        .next ({ s with cruns := s.cruns ++ [r] }.toMembers r (if alike then srcs else []))

/-- The sources that a collective message carries. -/
def msgSources (m : Msg) : List (List Byte) :=
  let n := (msgDesc m).inBytes
  (List.range (msgWord m 9)).map (fun i => slice m.data (80 + n * i) n)

/-- Change the live collective of a group. -/
def State.modRun (s : State) (g : Nat) (f : CollRun → CollRun) : State :=
  { s with cruns := s.cruns.map (fun (r : CollRun) => if r.grp = g then f r else r) }

/-- COLL_CONTRIBUTION_ARRIVE (R59, R60): another member's contribution to the live collective of its sequence number,
or the status with which the job has ended there. One that is ahead of this module waits; one that is behind
is dropped. (DEDUCED, log 22.) -/
def execCollContributionArrive (m : Msg) (s : State) : Out :=
  if m.kind ≠ .collective then .next s
  else match s.takeMsg m with
    | none => .next s
    | some t =>
      let g := m.tag.toNat
      let d := msgDesc m
      let no := (t.members g).idxOf (moduleOf m.src).toNat
      if pointOf m.dst ≠ 0x400 then .next (t.lose m .noEndpoint)
      else match t.collRun g with
        | some r =>
          if r.desc.seq ≠ d.seq then .next (if d.seq = r.desc.seq + 1 then s else t)
          else if no = (t.members g).length || r.contribs.any (fun c => c.1 = no) && msgWord m 0 = 0 then .next t
          else .next (t.modRun g (fun r => { r with
            status := if r.status ≠ 0 then r.status else if msgWord m 0 ≠ 0 then BitVec.ofNat 8 (msgWord m 0)
              else if r.desc ≠ d then 1 else 0
            contribs := if msgWord m 0 ≠ 0 then r.contribs else sortBy (fun c => c.1) (r.contribs ++ [(no, msgSources m)])
            tick := t.tick }))
        | none =>
          let ahead : Bool := match (t.cgroup g).lastSeq with
            | some q => d.seq = q + 1
            | none => (t.cgroup g).v
          .next (if ahead then s else t)

/-- A contributor receives its share and completes (R62); it stays while its destination's translation waits, and ends with
ENGINE_ERROR where that fault is killed or fatal. (DEDUCED, log 22.) -/
def State.collDeliver (s : State) (r : CollRun) (b : Option (List Byte)) (j : Job) : State :=
  let over_ (s : State) (st ts : Nat) : State :=
    ((s.modRun r.grp (fun r => { r with jobs := r.jobs.filter (fun i => i.id ≠ j.id) })).clearWait (collRq j)).answer
      { j with pts := ts } [BitVec.ofNat 64 st]
  match r.status, b, j.kind with
  | 0, some b, .coll _ _ c _ =>
    let e := s.engine (collRq j) j.space j.pts
    let (e, p) := e.atCap c c.off b.length true 3
    let e := e.touch p b.length true false 3
    let e := if e.stop.isSome then e else e.write p b 3
    (match e.stop with
      | some .wait => e.s
      | some .bounds => over_ e.s 5 e.pts
      | some _ => over_ e.s 6 e.pts
      | none => over_ e.s 0 e.pts)
  | st, _, _ => over_ s st.toNat j.pts

/-- COLL_JOB_COMPLETE (R59, R62): every contribution is in, or the job has ended with a status, which every other
member is told. -/
def execCollJobComplete (g : Nat) (s : State) : Out :=
  match s.collRun g with
  | none => .next s
  | some r =>
    let n := (s.members g).length
    if r.status = 0 && r.contribs.length < n then .next s
    else
      let s := if r.status = 0 then s else s.toMembers r []
      let s := r.jobs.foldl (fun s j => s.collDeliver r (r.share n (s.memberNo g)) j) s
      let s := s.modRun g (fun t => if t.jobs.length < r.jobs.length then { t with tick := s.tick } else t)
      .next { s with cruns := s.cruns.filter (fun r => r.grp ≠ g || r.jobs ≠ []) }

/-- Whether a collective that has started makes no progress by itself (R59): contributions are missing, or a contributor's
destination waits on a translation fault. (DEDUCED, log 22.) -/
def State.collStuck (s : State) (r : CollRun) : Bool :=
  r.status = 0 && (r.contribs.length < (s.members r.grp).length || r.jobs.any (fun j => (s.engWait (collRq j)).isSome))

/-- COLL_TIMEOUT (R59): no progress for 1 s. Contributors whose collective has not started end by themselves, each 1 s
after it was handed over. (DEDUCED, log 22.) -/
def execCollTimeout (g : Nat) (s : State) : Out :=
  match s.collRun g with
  | some r =>
    if s.collStuck r && r.tick + secondTicks ≤ s.tick then .next (s.endColl g 3) else .next s
  | none => .next (((s.collJobs g).filter (fun j => j.pos + secondTicks ≤ s.tick)).foldl (fun s j => s.collDone j 3) s)

end Sys2Proof.Machine
end

