-- ==== Sys2Proof/Machine/Brefs.lean ====
section
/-!
DEFINITION. Buffer references (R85): regions of objects that cards and merge sessions name without a
capability.
-/

namespace Sys2Proof.Machine

/-- The BREF at byte `i` of a block; none where its upper bits are not 0 (R85). -/
def brefOf (b : List Byte) (i : Nat) : Option Bref :=
  let v := getLe b i 16
  if 2 ^ 112 ≤ v then none else some ⟨bits v 0 24, bits v 24 48, bits v 72 40⟩

/-- Whether a BREF resolves (R85): its object is valid, its region lies within LEN, and the object may be
written where it is to be. (DESIGN CHOICE, log 24.) -/
def State.brefOk (s : State) (rq : Requester) (sp : BitVec 16) (r : Bref) (write : Bool) : Bool :=
  match s.rqObject rq sp r.obj with
  | some o => r.off + r.len ≤ o.len && !(write && o.now)
  | none => false

/-- The DVA of a place in a BREF's region. -/
def Eng.atBref (e : Eng) (r : Bref) (off base : Nat) : Eng × Nat :=
  match e.object r.obj base with
  | (e, some o) => (e, o.base + r.off + off)
  | (e, none) => (e, 0)

/-- Read bytes of a BREF's region; a poisoned word stops the engine. -/
def Eng.brefRead (e : Eng) (r : Bref) (off n base : Nat) : Eng × List Byte :=
  let (e, d) := e.atBref r off base
  if e.stop.isSome then (e, []) else e.readOk d n base

/-- Write bytes into a BREF's region. -/
def Eng.brefWrite (e : Eng) (r : Bref) (off : Nat) (bs : List Byte) (base : Nat) : Eng :=
  let (e, d) := e.atBref r off base
  if e.stop.isSome then e else e.write d bs base

/-- Translate bytes of a BREF's region ahead of a write. -/
def Eng.brefTouch (e : Eng) (r : Bref) (off n base : Nat) : Eng :=
  let (e, d) := e.atBref r off base
  e.touch d n true false base

/-- A range of addresses takes bytes the manual leaves undefined, where it is mapped (R270). (DEDUCED, log 36.) -/
def Eng.scramble (e : Eng) (dva n : Nat) : Eng :=
  (pagesOf dva n).foldl (fun e p =>
    match e.s.xlate e.rq e.sp p.1 true false 3 with
    | (s, .ok (pa, key)) =>
      let bs := (List.range p.2).map (fun i => Config.freeByte (Nat.pair s.fresh i))
      { e with s := { s.memPut key pa bs with fresh := s.fresh + 1 } }
    | (_, .error _) => e) e

end Sys2Proof.Machine
end

