-- ==== Sys2Proof/Machine/Experts.lean ====
section
/-!
DEFINITION. Expert dispatch (R171 to R176, R432): the groups that XROUTE routes tokens in.
-/

namespace Sys2Proof.Machine

/-- The name of a group, as its tasks hold it. -/
def XGroup.key (g : XGroup) : Nat := Nat.pair g.space.toNat (Nat.pair g.obj g.off)

/-- The pages of an expert's list (R171). -/
def XGroup.listLen (g : XGroup) : Nat := ceilDiv g.capn g.pgt
/-- The byte of the state of an expert, and of its page list (R171). -/
def XGroup.stateAt (_ : XGroup) (e : Nat) : Nat := 128 + 16 * e
@[inherit_doc XGroup.stateAt]
def XGroup.pageAt (g : XGroup) (e i : Nat) : Nat := 128 + 16 * g.nexp + 4 * g.listLen * e + 4 * i

/-- An expert at the start (R172). -/
def Expert.init : Expert := ⟨0, 0, 0, 0, []⟩
/-- Expert `e` of a group. -/
def XGroup.expert (g : XGroup) (e : Nat) : Expert := SMap.get Expert.init g.experts e
/-- Write expert `e`. -/
def XGroup.setExpert (g : XGroup) (e : Nat) (x : Expert) : XGroup := { g with experts := SMap.set Expert.init g.experts e x }

/-- A descriptor's first 128 bytes as a group; `bad` where it breaks R171. -/
def groupOf (sp : BitVec 16) (obj off core : Nat) (b : List Byte) (poolOk : Bref → Bool) : XGroup :=
  let f (lo n : Nat) := getLe b lo n
  let nexp := f 0 2
  let capn := f 2 2
  let pgt := f 4 2
  let nbk := f 6 1
  let npg := f 8 4
  let bs := (List.range 8).map (fun i => f (16 + 2 * i) 2)
  let used := bs.take nbk
  let pool := brefOf b 32
  let asc : Bool := (used.zip (used.drop 1)).all (fun p => p.1 < p.2)
  let ok : Bool := 1 ≤ nexp && nexp ≤ 256 && 1 ≤ capn && 1 ≤ pgt && pgt ≤ 4096 && 2 ≤ nbk && nbk ≤ 8 && f 7 1 = 0 &&
    1 ≤ npg && npg ≤ 2 ^ 24 && 1 ≤ f 12 4 && bs.headD 1 = 0 && asc && capn ≤ used.getLastD 0 &&
    (bs.drop nbk).all (· = 0) && f 56 8 = 0 && (match pool with
      | some r => r.len = npg * pgt * 8 && poolOk r
      | none => false)
  let p := pool.getD ⟨0, 0, 0⟩
  { space := sp
    obj := obj
    off := off
    bad := !ok
    nexp := nexp
    capn := capn
    pgt := pgt
    nbk := nbk
    npg := npg
    ntok := f 12 4
    buckets := used
    poolObj := p.obj
    poolOff := p.off
    tmpl := recordOf (slice b 64 64)
    routed := 0
    dropped := 0
    experts := []
    used := []
    wait := []
    core := core
    ready := true
    step := 0
    begun := false
    stuck := false
    starting := []
    result := none }

/-- A group at work: the engine, the group, and the task in whose name experts are launched. -/
structure Route where
  e : Eng
  g : XGroup
  cap : Cap
  task : Nat
  deriving DecidableEq, Repr

/-- Write engine-written bytes of the descriptor. -/
def Route.put (r : Route) (off : Nat) (bs : List Byte) : Route :=
  let (e, d) := r.e.atCap r.cap (r.g.off + off) bs.length true 3
  { r with e := if e.stop.isSome then e else e.write d bs 3 }

/-- Write an expert and its 16 bytes of state (R171). -/
def Route.setExpert (r : Route) (n : Nat) (x : Expert) : Route :=
  let r := { r with g := r.g.setExpert n x }
  r.put (r.g.stateAt n) (bytesOf 2 x.count ++ bytesOf 1 x.st.toNat ++ bytesOf 1 x.bucket.toNat ++ bytesOf 2 x.status.toNat ++ bytesOf 10 0)

/-- Write ROUTED and DROPPED (R171). -/
def Route.counts (r : Route) : Route := r.put 48 (bytesOf 4 r.g.routed ++ bytesOf 4 r.g.dropped)

/-- An expert is DONE: its pages come free (R175, R176). -/
def Route.finish (r : Route) (n : Nat) : Route :=
  let x := r.g.expert n
  let r := { r with g := { r.g with used := r.g.used.filter (fun p => !x.pages.contains p) } }
  r.setExpert n { x with st := 2, pages := [] }

/-- Translate what a step writes ahead of it: the descriptor up to its last state (R171), so that a step whose
translation waits changes nothing. -/
def Route.hold (r : Route) : Route :=
  let n := 128 + 16 * r.g.nexp
  let (e, d) := r.e.atCap r.cap r.g.off n true 3
  { r with e := e.touch d n true false 3 }

/-- Start an expert (R175): its bucket, its task, and the status of the launch. -/
def Route.start (r : Route) (n : Nat) : Route :=
  let r := r.hold
  if r.e.stop.isSome then r
  else if maxTasks ≤ r.e.s.tasks.length then { r with e := r.e.halt .wait }
  else
    let x := r.g.expert n
    let b := (r.g.buckets.findIdx? (fun b => x.count ≤ b)).getD 0
    let rcd := { r.g.tmpl with
      task := r.g.tmpl.task + BitVec.ofNat 20 n
      depcnt := 0
      tilefirst := 0
      tilecount := BitVec.ofNat 32 x.count }
    let (s, st) := r.e.s.launchFrom rcd r.task r.g.space
    let s := if st = 0 then s.modTask rcd.task.toNat (fun t => { t with
      bucket := BitVec.ofNat 8 b
      expert := BitVec.ofNat 16 n
      group := some r.g.key }) else s
    let r := { r with e := { r.e with s := s } }
    let r := r.setExpert n { x with st := 1, bucket := BitVec.ofNat 8 b, status := BitVec.ofNat 16 st }
    if st = 0 then r else r.finish n

/-- The FILLING experts of a group, ascending. -/
def XGroup.filling (g : XGroup) : List Nat := (List.range g.nexp).filter (fun e => (g.expert e).st = 0)

/-- The fullest FILLING buffer that holds anything, the lowest on a tie (R174). -/
def XGroup.fullest (g : XGroup) : Option Nat :=
  (g.filling.filter (fun e => 0 < (g.expert e).count)).foldl (fun (a : Option Nat) e =>
    match a with
    | some b => if (g.expert b).count < (g.expert e).count then some e else a
    | none => some e) none

/-- The lowest free page of a group's pool: there is one among the first few when not all are used. -/
def XGroup.freePage (g : XGroup) : Option Nat :=
  ((List.range (min g.npg (g.used.length + 1))).find? (fun p => !g.used.contains p))

/-- The XROUTE at the head of a group has its result (R173): where every token has been routed, the FILLING experts
are to start. -/
def Route.ends (r : Route) (w : Nat) (first : List Nat) : Route :=
  let rest := if r.g.routed = r.g.ntok then r.g.filling.filter (fun e => !first.contains e) else []
  { r with g := { r.g with
      result := some w
      starting := first ++ rest } }

/-- Place a token in a buffer, on a new page where it needs one (R173). -/
def Route.place (r : Route) (n i : Nat) (token gate : BitVec 32) (fresh : Option Nat) : Route :=
  let x := r.g.expert n
  let k := x.count / r.g.pgt
  let page := fresh.getD (x.pages.getD k 0)
  let pool : Bref := ⟨r.g.poolObj, r.g.poolOff, r.g.npg * r.g.pgt * 8⟩
  let at_ := (page * r.g.pgt + x.count % r.g.pgt) * 8
  let t := r.hold
  let (e, d) := t.e.atCap t.cap (t.g.off + t.g.pageAt n k) 4 true 3
  let e := if fresh.isSome then e.touch d 4 true false 3 else e
  let e := e.brefTouch pool at_ 8 3
  if e.stop.isSome then { t with e := e }
  else
    let t := { t with e := e }
    let t := match fresh with
      | some p => { t with g := { t.g with used := t.g.used ++ [p] } }.put (t.g.pageAt n k) (bytesOf 4 p)
      | none => t
    let t := { t with e := t.e.brefWrite pool at_ (bytesOf 4 token.toNat ++ bytesOf 4 gate.toNat) 3 }
    let t := t.setExpert n { x with count := x.count + 1, pages := x.pages ++ fresh.toList }
    let t := { t with g := { t.g with routed := t.g.routed + 1 } }.counts
    t.ends (256 * i) (if x.count + 1 = t.g.capn then [n] else [])

/-- A choice that needs a page finds none (R173, R174): in its pass of the loop the fullest buffer is to start.
(DEDUCED, log 30.) -/
def Route.noPage (r : Route) : Route := { r with g := { r.g with begun := true, starting := r.g.fullest.toList } }
/-- The XROUTE waits until an expert task of its group completes (R173, R176). -/
def Route.await (r : Route) : Route := { r with g := { r.g with stuck := true, begun := false } }
/-- Whether an expert task of a group runs, whose completion an XROUTE can wait for (R175, R176). -/
def XGroup.busy (g : XGroup) : Bool := (List.range g.nexp).any (fun e => (g.expert e).st = 1)

/-- A step of the choice that the XROUTE at the head has come to (R173). In a pass that has started a buffer for want of a
page it waits for a completion, even where that launch failed and freed pages, unless no expert task is left to wait for:
R176 has every XROUTE released. (DEDUCED, log 30.) -/
def Route.choice (r : Route) (token : BitVec 32) (l : List (BitVec 32 × BitVec 32)) : Route :=
  match l[r.g.step]? with
  | none =>
    let r := r.hold
    if r.e.stop.isSome then r
    else ({ r with g := { r.g with routed := r.g.routed + 1, dropped := r.g.dropped + 1 } }.counts).ends 1 []
  | some c =>
    let n := c.1.toNat
    let x := r.g.expert n
    if r.g.nexp ≤ n then { r with g := { r.g with result := some 4 } }
    else if x.st ≠ 0 || r.g.capn ≤ x.count then { r with g := { r.g with step := r.g.step + 1, begun := false } }
    else if x.count % r.g.pgt ≠ 0 then r.place n r.g.step token c.2 none
    else if r.g.begun && r.g.busy then r.await
    else match r.g.freePage with
      | some p => r.place n r.g.step token c.2 (some p)
      | none => r.noPage

/-- The first use of a descriptor (R172): it is checked, and every count and state is cleared; one that breaks R171 has
nothing written. (DEDUCED, log 30.) -/
def Route.init (r : Route) (j : Job) : Route :=
  let (e, d) := r.e.atCap r.cap r.cap.off 128 true 3
  let (e, b) := e.readOk d 128 3
  let g := { groupOf j.space r.cap.obj r.cap.off.toNat j.core b (fun p => e.s.brefOk e.rq j.space p true) with wait := r.g.wait }
  if e.stop.isSome then { r with e := e }
  else if g.bad then { r with e := e, g := g }
  else
    let t := ({ r with e := e, g := g } : Route).hold
    if t.e.stop.isSome then { r with e := t.e }
    else (List.range g.nexp).foldl (fun (r : Route) n => r.setExpert n Expert.init) t.counts

/-- One step of the XROUTE at the head of a group (R172 to R175). -/
def Route.turn (r : Route) (j : Job) (token : BitVec 32) (l : List (BitVec 32 × BitVec 32)) : Route :=
  if !r.g.ready then r.init j
  else match r.g.starting with
    | n :: t =>
      let u := r.start n
      if u.e.stop.isSome then { r with e := u.e } else { u with g := { u.g with starting := t } }
    | [] =>
      if r.g.bad then { r with g := { r.g with result := some 3 } }
      else if r.g.ntok ≤ r.g.routed then { r with g := { r.g with result := some 2 } }
      else r.choice token l

/-- What an XROUTE job carries. -/
def xrouteOf : JobKind → Option (Cap × BitVec 32 × List (BitVec 32 × BitVec 32))
  | .xroute c t l => some (c, t, l)
  | _ => none

/-- A group that no XROUTE has named yet (R172). -/
def XGroup.unused (j : Job) (c : Cap) : XGroup :=
  { groupOf j.space c.obj c.off.toNat j.core [] (fun _ => false) with
    bad := false
    ready := false }

/-- Replace a group in the table. -/
def State.putGroup (s : State) (g : XGroup) : State := { s with groups := s.groups.filter (fun h => h.key ≠ g.key) ++ [g] }

/-- Whether the XROUTE at the head of a group has begun: its steps are its own, and it has no result yet that is still to
be given (R172). -/
def XGroup.midway (g : XGroup) : Bool := g.step ≠ 0 || g.begun || g.stuck || g.result.isSome || g.starting ≠ []

/-- Replace a group in the table; one whose experts are all DONE is uninitialised again, and an XROUTE that waits for it
is the first to name it (R172). (DEDUCED, log 30.) -/
def State.setGroup (s : State) (g : XGroup) : State :=
  if g.ready && !g.bad && !g.midway && (List.range g.nexp).all (fun e => (g.expert e).st = 2) then
    if g.wait = [] then { s with groups := s.groups.filter (fun h => h.key ≠ g.key) } else s.putGroup { g with ready := false }
  else s.putGroup g

/-- The head XROUTE of a group is over: the next begins with its first choice (R172). -/
def XGroup.popHead (g : XGroup) : XGroup :=
  { g with
    wait := g.wait.drop 1
    step := 0
    begun := false
    result := none }

/-- The XROUTE at the head of a group keeps its clock (R273). -/
def XGroup.clock (g : XGroup) (ts : Nat) : XGroup := { g with wait := (g.wait.take 1).map (fun j => { j with pts := ts }) ++ g.wait.drop 1 }

/-- The XROUTEs of a group are applied one at a time in arrival order, until one waits: for a completion, for a REPLAY,
for room in the task table, or for an earlier job of its context (R172, R176, R280). What it has done stays done. `fuel` bounds the steps.
(DEDUCED, log 30.) -/
def State.pumpGroup (key : Nat) : Nat → State → State
  | 0, s => s
  | n + 1, s =>
    match s.groups.find? (fun g => g.key = key) with
    | none => s
    | some g =>
      match g.wait with
      | [] => s.setGroup g
      | j :: _ =>
        match xrouteOf j.kind with
        | none => s
        | some (c, token, l) =>
          let over_ (s : State) (g : XGroup) (w : Nat) : State := (s.setGroup g.popHead).answer j [BitVec.ofNat 64 w]
          match g.stuck, g.starting, g.result with
          | true, _, _ => s
          | false, [], some w => (over_ s g w).pumpGroup key n
          | _, _, _ =>
            if s.jobWaits j then s else
            let rq := Requester.fabric j.core j.id
            let r : Route := (⟨s.engine rq j.space j.pts, g, c, j.task⟩ : Route).turn j token l
            match r.e.stop with
            | some .wait => r.e.s
            | some _ => (over_ (r.e.s.clearWait rq) g 6).pumpGroup key n
            | none => ((r.e.s.clearWait rq).setGroup (r.g.clock r.e.pts)).pumpGroup key n

/-- The steps that a group's XROUTEs can take at most before one waits: each has at most eight choices and starts every
expert. -/
def XGroup.fuel (g : XGroup) : Nat := (g.wait.length + 1) * 1024

/-- An XROUTE reaches its group, behind those that wait there (R172). -/
def State.joinGroup (s : State) (j : Job) (c : Cap) : State × XGroup :=
  let g := (s.groups.find? (fun g => g.space = j.space && g.obj = c.obj && g.off = c.off.toNat)).getD (XGroup.unused j c)
  let g := { g with wait := g.wait ++ [j] }
  ((s.modCore j.core (fun k => { k with svcs := k.svcs.filter (fun i => i.id ≠ j.id) })).setGroup g, g)

/-- XROUTE_APPLY (R172, R173, R432): the oldest XROUTE of the context reaches its group; where none is on its way, the
group at whose head one of the context stands goes on. (DEDUCED, log 30.) -/
def execXrouteApply (core ctx : Nat) (s : State) : Out :=
  match s.wdJob core ctx (fun k => (xrouteOf k).isSome) with
  | some j =>
    match xrouteOf j.kind with
    | none => .next s
    | some (c, _, _) =>
      let (s, g) := s.joinGroup j c
      .next (s.pumpGroup g.key g.fuel)
  | none =>
    match s.groups.find? (fun g => (g.wait.take 1).any (fun j => j.core = core && j.ctx = ctx)) with
    | some g => .next (s.pumpGroup g.key g.fuel)
    | none => .next s

/-- Whether a started expert of a group has completed under a TASKID (R176). -/
def State.expertEnded (s : State) (task : Nat) (g : XGroup) (e : Nat) : Bool :=
  (g.expert e).st = 1 && (g.tmpl.task + BitVec.ofNat 20 e).toNat = task &&
    !s.tasks.any (fun t => t.group = some g.key && t.expert.toNat = e)

/-- XROUTE_RESUME (R176): the expert whose task has completed is DONE, and waiting XROUTEs proceed. -/
def execXrouteResume (task : Nat) (s : State) : Out :=
  match s.groups.findSome? (fun g => ((List.range g.nexp).find? (s.expertEnded task g)).map (fun e => (g, e))) with
  | none => .next s
  | some (g, n) =>
    let rq := Requester.fabric g.core (2 ^ 64 + n)
    let r : Route := (⟨s.engine rq g.space 0, g, mkCap g.obj 0 (2 ^ 40 - 1) 0 0 true, 0⟩ : Route).hold
    match r.e.stop with
    | some .wait => .next r.e.s
    | _ =>
      let r := r.finish n
      let s := (r.e.s.clearWait rq).setGroup r.g
      let s := { s with groups := s.groups.map (fun (h : XGroup) => if h.key = g.key then { h with stuck := false } else h) }
      .next (s.pumpGroup g.key g.fuel)

/-- The TASKIDs of the experts that a group has started. -/
def XGroup.running (g : XGroup) : List Nat :=
  ((List.range g.nexp).filter (fun e => (g.expert e).st = 1)).map (fun e => (g.tmpl.task + BitVec.ofNat 20 e).toNat)

end Sys2Proof.Machine
end

