-- ==== Sys2Proof/Machine/Keys.lean ====
section
/-!
DEFINITION. The memory-encryption keys (R121 to R123).
-/

namespace Sys2Proof.Machine

/-- A command on the slot that KSEL names begins; one on slot 0 sets ERR, and one during another is ignored
(R122). -/
def State.keyCommand (s : State) (loading : Bool) : State :=
  if s.keys.busy then s
  else if s.keys.sel = 0 then { s with keys := { s.keys with err := true } }
  else { s with keys := { s.keys with busy := true, loading := loading } }

/-- KEY_LOAD (R122, R123). -/
def execKeyLoad (s : State) : Out := .next (s.keyCommand true)
/-- KEY_CLEAR (R122, R123). -/
def execKeyClear (s : State) : Out := .next (s.keyCommand false)

/-- Drop lines from the slices: what load blocks pin of them stands there no more (R117, R123). -/
def State.dropLines (s : State) (p : Nat → Bool) : State :=
  { s with cores := s.cores.map (fun c => (c.1, { c.2 with lbs := c.2.lbs.map (fun b =>
    (b.1, { b.2 with lines := b.2.lines.filter (fun l => !p l) })) })) }

/-- Install a pair in a slot: every line of its index now reads as decryption under the new pair gives
(R121, R123). (DEDUCED, log 12.) -/
def State.installKey (s : State) (k : BitVec 9) (p : KeyPair) : State :=
  let old := s.keys.pair k
  let new := p.dkey ++ p.tkey
  let ls := (s.mem.lineKey.filter (fun e => e.2 = some k)).map (·.1)
  let s := if old = new then s else ls.foldl (fun s l =>
    let bs := underPair old new l (s.mem.line l)
    { s with mem := { s.mem with
        bytes := SMap.setAll freshByte s.mem.bytes ((List.range 64).map (fun i => (l * 64 + i, bs.getD i 0))) } }) s
  { s with keys := { s.keys with
      slots := SMap.set none s.keys.slots k.toNat (some p)
      last := SMap.set ⟨0, 0⟩ s.keys.last k.toNat p } }

/-- KDATA as a pair (R122). -/
def Keys.loaded (k : Keys) : KeyPair :=
  let w (i : Nat) : Word := SMap.get 0 k.data i
  ⟨w 3 ++ w 2 ++ w 1 ++ w 0, w 7 ++ w 6 ++ w 5 ++ w 4⟩

/-- The key index of a leaf entry (R107). -/
def keyOf (pte : Word) : BitVec 9 := pte.extractLsb' 50 9

/-- KEY_COMMAND_FINISH (R118, R123): once no page under the key is in motion, the pair is installed or the slot
emptied, the lines held under it leave the slices, KDATA is 0, and BUSY clears. -/
def execKeyCommandFinish (s : State) : Out :=
  if !s.keys.busy || s.tiers.any (fun t => t.2.moves.any (fun m => keyOf m.ent = s.keys.sel)) then .next s
  else
    let k := s.keys.sel
    let s := s.dropLines (fun l => s.mem.key l = some k)
    let s := if s.keys.loading then s.installKey k s.keys.loaded
      else { s with keys := { s.keys with slots := SMap.set none s.keys.slots k.toNat none } }
    .next { s with keys := { s.keys with data := [], busy := false } }

end Sys2Proof.Machine
end

