-- ==== Sys2Proof/Machine/Links.lean ====
section
/-!
DEFINITION. The Peloz links (R33 to R51): flits and their checks, retries, arbitration, the states of a link, and
how a message is routed onto one.
-/

namespace Sys2Proof.Machine

/-- Link `l`. -/
def State.link (s : State) (l : Nat) : Link := SMap.get Link.init s.links l
/-- Write link `l`. -/
def State.setLink (s : State) (l : Nat) (k : Link) : State := { s with links := SMap.set Link.init s.links l k }
/-- The links of a module (R33). -/
def nLinks : Nat := 24
/-- The payload bytes of a flit (R33). -/
def flitPayload : Nat := 200

/-- The header of a flit (R34). -/
structure FlitHead where
  rsv : Nat
  dmod : BitVec 12
  plen : Nat
  first : Bool
  last : Bool
  cls : BitVec 2
  vc : Bool
  kind : Nat
  seq : BitVec 12
  ack : BitVec 12
  deriving DecidableEq, Repr

/-- The header word of a flit (R34). -/
def FlitHead.word (h : FlitHead) : Word :=
  BitVec.ofNat 64 (h.ack.toNat + h.seq.toNat * 2 ^ 12 + h.kind % 8 * 2 ^ 24 + h.vc.toNat * 2 ^ 27 + h.cls.toNat * 2 ^ 28 +
    h.last.toNat * 2 ^ 30 + h.first.toNat * 2 ^ 31 + h.plen % 256 * 2 ^ 32 + h.dmod.toNat * 2 ^ 40 + h.rsv * 2 ^ 52)

/-- The header a word holds (R34). -/
def flitHead (w : Word) : FlitHead where
  rsv := fld w 52 12
  dmod := w.extractLsb' 40 12
  plen := fld w 32 8
  first := w.getLsbD 31
  last := w.getLsbD 30
  cls := w.extractLsb' 28 2
  vc := w.getLsbD 27
  kind := fld w 24 3
  seq := w.extractLsb' 12 12
  ack := w.extractLsb' 0 12

/-- The byte errors that the parity corrects (R33). -/
def rsErrors : Nat := 6

/-- A list of bytes and the lists that differ from it in at most `k` bytes, itself first. -/
def nearby : Nat → List Byte → List (List Byte)
  | _, [] => [[]]
  | k, x :: l => (nearby k l).map (x :: ·) ++
    (match k with
      | 0 => []
      | k + 1 => ((List.range 256).filter (· ≠ x.toNat)).flatMap (fun y => (nearby k l).map (BitVec.ofNat 8 y :: ·)))

/-- The parity bytes of a flit (R33). -/
def rsParity (b : List Byte) : List Byte := bytesOf 12 (Config.rsParity b).toNat

/-- Whether a flit's parity is that of its bytes. -/
def rsOk (b : List Byte) : Bool := b.length = 224 && b.drop 212 = rsParity (b.take 212)

/-- What the receiver makes of a flit (R33, R35): a flit in which at most six bytes are in error is corrected.
(PRESUMED, log 11.) -/
def rsCorrect (b : List Byte) : List Byte :=
  if rsOk b then b else ((nearby rsErrors b).find? rsOk).getD (Config.rsWild b)

/-- The bytes of a flit: header, payload, CRC and parity (R33). -/
def flitBytes (h : FlitHead) (payload : List Byte) : List Byte :=
  let b := bytesOf 8 h.word.toNat ++ payload.take flitPayload ++ List.replicate (flitPayload - payload.length) 0
  let b := b ++ bytesOf 4 (crc32c b).toNat
  b ++ rsParity b

/-- Whether a corrected flit passes its CRC and its reserved field (R34, R35). A reserved KIND, and a PLEN that is out
of range, fail too. (DESIGN CHOICE, log 20.) -/
def flitOk (b : List Byte) : Bool :=
  let h := flitHead (BitVec.ofNat 64 (getLe b 0 8))
  getLe b 208 4 = (crc32c (b.take 208)).toNat && h.rsv = 0 && h.kind < 3 &&
    1 ≤ h.plen && h.plen ≤ flitPayload

/-- The message header (R36) and the data. -/
def msgBytes (m : Msg) : List Byte :=
  bytesOf 3 m.src.toNat ++ bytesOf 3 m.dst.toNat ++ [Config.kindCode m.kind, 0] ++ bytesOf 2 m.tag.toNat ++
    bytesOf 4 m.data.length ++ [0, 0] ++ bytesOf 16 m.tw.toNat ++ m.data

/-- The message that bytes of a class hold (R36). -/
def msgOf (cls : BitVec 2) (b : List Byte) : Msg where
  src := BitVec.ofNat 24 (getLe b 0 3)
  dst := BitVec.ofNat 24 (getLe b 3 3)
  kind := Config.kindOf (b.getD 6 0)
  cls := cls
  tag := BitVec.ofNat 16 (getLe b 8 2)
  tw := BitVec.ofNat 128 (getLe b 16 16)
  data := (b.drop 32).take (getLe b 10 4)

/-- Bytes in pieces of at most 200 (R35). -/
def piecesOf (b : List Byte) : List (List Byte) :=
  (List.range (ceilDiv b.length flitPayload)).map (fun i => slice b (flitPayload * i) (min flitPayload (b.length - flitPayload * i)))

/-- The flits of a message (R35). -/
def flitsOf (m : Msg) (vc : Bool) (no : Nat) : List QFlit :=
  let ps := piecesOf (msgBytes m)
  ps.zipIdx.map (fun p =>
    { cls := m.cls
      vc := vc
      dmod := moduleOf m.dst
      msgNo := no
      first := p.2 = 0
      last := p.2 + 1 = ps.length
      payload := p.1 })

/-- The highest SEQ received in order: what ACK carries, 0 until one has been (R34, R43). -/
def Link.ackOut (k : Link) : BitVec 12 := if k.rxAny then k.rxSeq - 1 else 0

/-- A flit outside the sequence: link control or a freeze notice (R34). (DESIGN CHOICE, log 20.) -/
def Link.control (k : Link) (kind : Nat) (payload : List Byte) : Link :=
  { k with wire := k.wire ++ [flitBytes ⟨0, 0, payload.length, true, true, 0, false, kind, 0, k.ackOut⟩ payload] }

/-- A link goes DOWN (R43, R44): what it held is discarded; the sender of each message that had a flit on the link is
told, and a message not yet begun is routed again, before what has been sent after it. Where the link was UP, the
running collectives of groups with other members end with LINK_DOWN (R59). -/
def State.linkDown (s : State) (l : Nat) (cause : BitVec 4) : State :=
  let k := s.link l
  let begun (p : Nat × Msg) : Bool := !(k.queue.any (fun f => f.msgNo = p.1 && f.first))
  let s := if k.state = .up then
      (s.cruns.filter (fun r => 1 < (s.members r.grp).length)).foldl (fun s r => s.endColl r.grp 4) s
    else s
  let s := s.setLink l { k with
    state := .down
    downCause := cause
    peerMod := 0
    peerZb := false
    replay := []
    queue := []
    parts := []
    senders := []
    retries := 0
    rxRetries := 0 }
  let s := { s with inbox := (k.senders.filter (fun p => !begun p)).map (·.2) ++ s.inbox }
  (k.senders.filter begun).foldl (fun s p => s.lose p.2 .linkDown) s

/-- The retry requests for one SEQ that end a link (R35). -/
def maxRetries : Nat := 16

/-- Acknowledged flits leave the replay buffer, and messages with no flit left here are done. An ACK of 0 is also
what a peer sends that has received nothing, so the flit of SEQ 0 is kept until a later one is acknowledged. -/
def Link.acked (k : Link) (a : BitVec 12) : Link :=
  let before (q : BitVec 12) : Bool := (a - q).toNat < 2048 && !(a = 0 && q = 0)
  let replay := if k.replay.any (fun e => e.1 = a) then k.replay.filter (fun e => !before e.1) else k.replay
  { k with
    replay := replay
    senders := k.senders.filter (fun p => replay.any (fun e => e.2.1 = p.1) || k.queue.any (fun f => f.msgNo = p.1)) }

/-- A flit that the receiver drops (R35): counted, up to all ones, and a retry request goes back; the sixteenth for
one SEQ ends the link. (DESIGN CHOICE, log 20.) -/
def State.dropFlit (s : State) (l : Nat) : State :=
  let k := s.link l
  let k := { k with crcErr := if k.crcErr = BitVec.allOnes 32 then k.crcErr else k.crcErr + 1, rxRetries := k.rxRetries + 1 }
  let s := s.setLink l (k.control 1 (bytesOf 2 k.rxSeq.toNat))
  if maxRetries ≤ k.rxRetries then s.linkDown l 1 else s

/-- The part of a message that has been received in a class and channel. -/
def Link.part (k : Link) (c : BitVec 2 × Bool) : List Byte := ((k.parts.find? (fun p => p.1 = c)).map (·.2)).getD []

/-- Deliver a data flit that arrived in sequence (R35): a message that ends here has reached the module. -/
def State.deliver (s : State) (l : Nat) (h : FlitHead) (b : List Byte) : State :=
  let k := s.link l
  let c := (h.cls, h.vc)
  let bytes := (if h.first then [] else k.part c) ++ slice b 8 h.plen
  let rest := k.parts.filter (fun p => p.1 ≠ c)
  let k := { k with
    rxSeq := k.rxSeq + 1
    rxAny := true
    rxRetries := 0
    parts := if h.last then rest else rest ++ [(c, bytes)] }
  let s := s.setLink l k
  if h.last then s.send (msgOf h.cls bytes) else s

/-- FLIT_RECEIVE (R34, R35, R43). What is received is acknowledged by the ACK of flits that go the other way, and by
no flit of its own. (DESIGN CHOICE, log 20.) -/
def execFlitReceive (link : Nat) (bytes : List Byte) (s : State) : Out :=
  if nLinks ≤ link || (s.link link).state ≠ .up then .next s
  else
    let b := rsCorrect bytes
    let h := flitHead (BitVec.ofNat 64 (getLe b 0 8))
    if !flitOk b then .next (s.dropFlit link)
    else if h.kind = 2 then .next (s.linkDown link 2)
    else if h.kind = 1 then .next (s.setLink link ((s.link link).acked h.ack))
    else if h.seq ≠ (s.link link).rxSeq then .next (s.dropFlit link)
    else .next ((s.setLink link ((s.link link).acked h.ack)).deliver link h b)

/-- RETRY_REQUEST_RECEIVE (R35): the unacknowledged flits go out again from the named SEQ; the sixteenth request in
a row for one SEQ ends the link. A replay, or link control, is no flit sent in the sense of R39.
(DESIGN CHOICE, log 20.) -/
def execRetryRequestReceive (link : Nat) (seq : BitVec 12) (s : State) : Out :=
  let k := s.link link
  if nLinks ≤ link || k.state ≠ .up then .next s
  else
    let n := if k.retrySeq = seq then k.retries + 1 else 1
    let k := { k with
      retrySeq := seq
      retries := n
      wire := k.wire ++ (k.replay.filter (fun e => (e.1 - seq).toNat < 2048)).map (·.2.2) }
    let s := s.setLink link k
    .next (if maxRetries ≤ n then s.linkDown link 1 else s)

/-- The unacknowledged flits a sender keeps (R35). -/
def replayDepth : Nat := 256

/-- The class that the slot goes to (R46): C0 where it has a flit and a token, else the first class in turn that
has a flit. -/
def Link.choose (k : Link) : Option (BitVec 2) :=
  let has (c : BitVec 2) : Bool := k.queue.any (fun f => f.cls = c)
  if has 0 && 0 < k.tokens then some 0 else k.wrr.find? has

/-- LINK_FLIT_SLOT (R46): the bucket takes a token every eighth slot; one flit goes out. (DESIGN CHOICE, log 20.) -/
def execLinkFlitSlot (link : Nat) (s : State) : Out :=
  let k := s.link link
  if nLinks ≤ link || k.state ≠ .up then .next s
  else
    let k := { k with
      slotCount := (k.slotCount + 1) % 8
      tokens := if k.slotCount = 7 then min 8 (k.tokens + 1) else k.tokens }
    if replayDepth ≤ k.replay.length then .next (s.setLink link k)
    else match k.choose with
      | none => .next (s.setLink link k)
      | some c =>
        match k.queue.find? (fun f => f.cls = c) with
        | none => .next (s.setLink link k)
        | some f =>
          let b := flitBytes ⟨0, f.dmod, f.payload.length, f.first, f.last, f.cls, f.vc, 0, k.txSeq, k.ackOut⟩ f.payload
          .next (s.setLink link { k with
            queue := k.queue.erase f
            tokens := if c = 0 then k.tokens - 1 else k.tokens
            wrr := if c = 0 then k.wrr else k.wrr.erase c ++ [c]
            txSeq := k.txSeq + 1
            replay := k.replay ++ [(k.txSeq, f.msgNo, b)]
            wire := k.wire ++ [b]
            lastSent := s.tick })

/-- LINK_RETRAIN (R43): training begins from DOWN where the link is enabled. -/
def execLinkRetrain (link : Nat) (s : State) : Out :=
  let k := s.link link
  if nLinks ≤ link || k.state ≠ .down || !k.enable then .next s
  else .next (s.setLink link { k with state := .training, crcErr := 0, since := s.tick })

/-- LINK_DISABLE (R43). -/
def execLinkDisable (link : Nat) (s : State) : Out :=
  if nLinks ≤ link then .next s
  else .next ((s.setLink link { s.link link with enable := false }).linkDown link 4)

/-- LINK_TRAINED (R43): the link comes UP, unless the peer has this module's number. DOWNCAUSE stands until it does.
(DESIGN CHOICE, log 20.) -/
def execLinkTrained (link : Nat) (peerMod : BitVec 12) (peerZb : Bool) (s : State) : Out :=
  let k := s.link link
  if nLinks ≤ link || k.state ≠ .training then .next s
  else if peerMod = s.modnum then .next (s.linkDown link 5)
  else .next (s.setLink link { k with
    state := .up
    downCause := 0
    peerMod := peerMod
    peerZb := peerZb
    txSeq := 0
    rxSeq := 0
    rxAny := false
    rxRetries := 0
    retries := 0
    lastSent := s.tick })

/-- LINK_TRAINING_TIMEOUT (R43): 100 ms without lock. -/
def execLinkTrainingTimeout (link : Nat) (s : State) : Out :=
  let k := s.link link
  if nLinks ≤ link || k.state ≠ .training || s.tick < k.since + secondTicks / 10 then .next s
  else .next (s.linkDown link 3)

/-- LANE_LOCK_LOSS (R43). -/
def execLaneLockLoss (link : Nat) (s : State) : Out :=
  if nLinks ≤ link || (s.link link).state ≠ .up then .next s else .next (s.linkDown link 3)

/-- LINK_STALL (R39): 10 ms with flits queued and none sent. (DESIGN CHOICE, log 20.) -/
def execLinkStall (link : Nat) (s : State) : Out :=
  let k := s.link link
  if nLinks ≤ link || k.queue = [] || s.tick < k.lastSent + secondTicks / 100 then .next s
  else .next (s.setLink link { k with stall := true })

/-- The links of a route-table entry's valid choices that are UP, in order of choice (R38). -/
def State.choices (s : State) (e : BitVec 32) : List Nat :=
  ((List.range 4).filter (fun i => e.getLsbD (20 + i))).map (fun i => (e.extractLsb' (5 * i) 5).toNat) |>.filter
    (fun l => l < nLinks && (s.link l).state = .up)

/-- The link a message takes (R38): the first choice, or for C1 the least occupied: the one with the fewest flits of any
class queued, and of equals the lowest choice. (DESIGN CHOICE, log 20.) -/
def State.routeOf (s : State) (m : Msg) : Option Nat :=
  let l := s.choices (SMap.get 0 s.routes (moduleOf m.dst).toNat)
  if m.cls = 1 then (sortBy (fun n => (s.link n).queue.length) l).head? else l.head?

/-- A message as it crosses a link: a ZB image is expanded before a side that does not hold ZB (R50, R51). -/
def crossing (m : Msg) (zb : Bool) : Msg :=
  if m.kind ≠ .typedData || twLay m.tw ≠ 5 || zb then m
  else
    let t := asBlocked m.tw
    let im : Img := ⟨m.tw, ofBytes (m.data.drop 24), []⟩
    { m with
      tw := t
      data := m.data.take 24 ++ bytesOf (128 * imageRows t (twExts t)) (buildImage t (twExts t) 0 im.unit) }

/-- MESSAGE_FORWARD (R38, R44, R48, R51): a message for another module is placed whole on a link; the link keeps it as
it came, to route it again if it goes DOWN first. -/
def execMessageForward (m : Msg) (s : State) : Out :=
  let stream (n : Msg) : Bool := n.cls = m.cls && n.src = m.src && n.dst = m.dst
  if moduleOf m.dst = s.modnum || !s.inbox.contains m || !(m.cls = 1 || s.inbox.find? stream = some m) then .next s
  else match s.loadBlock m with
    | (s, none) => .next s
    | (s, some (.error st)) =>
      (match s.sendJob (pointOf m.src) (msgWord m 0) with
        | some j => .next ({ s with inbox := s.inbox.erase m }.sendDone j st)
        | none => .next { s with inbox := s.inbox.erase m })
    | (s, some (.ok d)) =>
      let s := { s with inbox := s.inbox.erase m }
      (match s.routeOf d with
        | none => .next (s.lose d .noRoute)
        | some l =>
          let k := s.link l
          let (s, no) := s.newId
          let vc := (SMap.get 0 s.routes (moduleOf m.dst).toNat).getLsbD 24
          .next (s.setLink l { k with
            queue := k.queue ++ flitsOf (crossing d k.peerZb) vc no
            senders := k.senders ++ [(no, d)]
            lastSent := if k.queue = [] then s.tick else k.lastSent }))

end Sys2Proof.Machine
end

