-- ==== Sys2Proof/Machine/Media.lean ====
section
/-!
DEFINITION. Media job rings and cards (R83 to R86), decode cards (R81, R82, R87), resize cards (R88 to R90), the
completions of the storage engine's drives (R92, R93, R439), and the links of CXL memory (R94).
-/

namespace Sys2Proof.Machine

/-- Media ring `n`. -/
def State.mring (s : State) (n : Nat) : MediaRing := SMap.get MediaRing.init s.media n
/-- Write media ring `n`. -/
def State.setMring (s : State) (n : Nat) (r : MediaRing) : State := { s with media := SMap.set MediaRing.init s.media n r }
/-- LOG2 outside 6 to 16 (R83). -/
def MediaRing.cfgErr (r : MediaRing) : Bool := r.log2 < 6 || 16 < r.log2
/-- The physical address of the card a ring is at (R84). -/
def MediaRing.place (r : MediaRing) : Nat := r.base.toNat + r.head.toNat % 2 ^ r.log2.toNat * 128

/-- MEDIA_RING_CONFIG_WRITE (R83). -/
def execMediaRingConfigWrite (n : Nat) (size : Bool) (v : Word) (s : State) : Out :=
  let r := s.mring n
  if 32 ≤ n || r.busy then .next s
  else .next (s.setMring n (if size then { r with log2 := v.extractLsb' 0 5, head := 0 }
    else { r with base := v &&& ~~~127#64, head := 0 }))

/-- MEDIA_CARD_POLL (R84): the card is taken once its OWN bit reads 1. A card with a poisoned word has run (R86). -/
def execMediaCardPoll (n : Nat) (s : State) : Out :=
  let r := s.mring n
  if 32 ≤ n || r.cfgErr || r.busy then .next s
  else
    let b := s.memRead 0 r.place 128
    if (b.getD 0 0).getLsbD 0 then .next (s.setMring n { r with
      busy := true
      card := some b
      finished := if (s.poisonAt 0 r.place 128).isSome then some (10, 0, 0) else none })
    else .next s

/-- The space of a card (R85). -/
def cardSpace (b : List Byte) : BitVec 16 := BitVec.ofNat 16 (getLe b 2 2)

/-- The checks of a card's header (R85, R86). (DESIGN CHOICE, log 24.) -/
def State.cardOk (s : State) (b : List Byte) (kind : Nat) : Bool :=
  let sp := cardSpace b
  getLe b 0 1 < 2 && getLe b 1 1 = kind && bits (getLe b 4 4) 15 16 = 0 && bits (getLe b 8 4) 20 11 = 0 && getLe b 12 4 = 0 &&
    genOf sp = SMap.get 0 s.spgen (sidOf sp).toNat

/-- A card has run: its status and COUNT wait for its completion, with its clock (R273). -/
def State.cardRan (s : State) (n : Nat) (st det : BitVec 16) (count : Nat) (ts : Nat := 0) : State :=
  (s.setMring n { s.mring n with finished := some (st, det, BitVec.ofNat 32 count), pts := ts }).clearWait (.media n)

/-- The status of a card that an engine's stop ends (R86). -/
def cardStatus (p : EngStop) : BitVec 16 :=
  match p with
  | .ecc => 10
  | .bounds | .window => 2
  | .killed | .wait => 11

/-- A card's run, or the wait for its translation (R86). -/
def Eng.cardEnd (e : Eng) (n : Nat) (st det : BitVec 16) (count : Nat) : Out :=
  match e.stop with
  | some .wait => .next e.s
  | some p => .next (e.s.cardRan n (cardStatus p) 0 0 e.pts)
  | none => .next (e.s.cardRan n st det count e.pts)

/-- The pitch of a frame of `w` samples (R82). -/
def framePitch (w depth : Nat) : Nat := ceilDiv (w * (if depth = 8 then 1 else 2)) 128 * 128

/-- The frame slot's bytes (R82): header, luma, chroma. (DESIGN CHOICE, log 24.) -/
def frameBytes (w h depth : Nat) (grain : Bool) (no : Nat) (luma chroma : List (List Nat)) : List Byte :=
  let pitch := framePitch w depth
  let b := if depth = 8 then 1 else 2
  let line (l : List Nat) (n : Nat) : List Byte :=
    let x := (List.range n).flatMap (fun i => bytesOf b (l.getD i 0 % 2 ^ depth))
    x ++ List.replicate (pitch - x.length) 0
  bytesOf 2 w ++ bytesOf 2 h ++ bytesOf 1 depth ++ bytesOf 1 grain.toNat ++ [0, 0] ++ bytesOf 4 pitch ++
    bytesOf 4 (128 + pitch * h) ++ bytesOf 8 no ++ List.replicate 104 0 ++
    (List.range h).flatMap (fun i => line (luma.getD i []) w) ++
    (List.range (ceilDiv h 2)).flatMap (fun i => line (chroma.getD i []) (ceilDiv w 2 * 2))

/-- A picture cropped as its stream says: its luma rows and its chroma rows (R82). -/
def croppedRows (p : Config.Picture) : List (List Nat) × List (List Nat) :=
  ((p.luma.drop p.cropY).take p.cropH |>.map (fun r => (r.drop p.cropX).take p.cropW),
    (p.chroma.drop (p.cropY / 2)).take (ceilDiv p.cropH 2) |>.map (fun r => (r.drop (p.cropX / 2 * 2)).take (ceilDiv p.cropW 2 * 2)))

/-- The frame slot's bytes of a picture (R82): film grain parameters are AV1's. (DESIGN CHOICE, log 24.) -/
def pictureBytes (codec no : Nat) (p : Config.Picture) : List Byte :=
  let c := croppedRows p
  frameBytes (p.cropW % 65536) (p.cropH % 65536) (if p.depth = 8 then 8 else 10) (codec = 2 && p.grain) no c.1 c.2

/-- Write pictures to the slots of a pool in turn: the engine, the frames written, and whether one did not fit
(R82, R86, R87). (DESIGN CHOICE, log 24.) -/
def Eng.writeFrames (e : Eng) (codec : Nat) (pool : Bref) (slots slot : Nat) : Nat → Nat → List Config.Picture → Eng × Nat × Bool
  | _, _, [] => (e, 0, false)
  | at_, no, p :: t =>
    let b := pictureBytes codec no p
    if slot < b.length then (e, 0, true)
    else
      let e := e.brefWrite pool (at_ % slots * slot) b 3
      let (e, n, big) := Eng.writeFrames e codec pool slots slot (at_ + 1) (no + 1) t
      (e, n + 1, big)

/-- Whether a unit's stream lies in the subset that a VDE decodes (R81). The numbers of the profiles are their standards'.
(PRESUMED, log 11.) -/
def unitInSubset (u : Config.StreamUnit) (codec : Nat) : Bool :=
  u.sizeOk && u.formOk && u.plain && u.chromaFormat = 1 &&
    (if codec = 1 then (u.profile = 1 && u.depth = 8 || u.profile = 2 && 8 ≤ u.depth && u.depth ≤ 10) && u.level ≤ 62
     else u.profile = 0 && (u.depth = 8 || u.depth = 10) && u.level ≤ 61)

/-- How a card's decoding stands: the pictures to write, the session after it, its status and error detail (R86, R87). -/
structure Decoding where
  out : List Config.Picture
  session : VdeSession
  status : BitVec 16
  detail : BitVec 16
  deriving DecidableEq, Repr

/-- Pictures that wait go out while MAXOUT allows (R87). -/
def Decoding.release (d : Decoding) (maxout : Nat) : Decoding :=
  let room := maxout - d.out.length
  { d with
    out := d.out ++ d.session.ready.take room
    session := { d.session with ready := d.session.ready.drop room } }

/-- A unit's pictures join those held for reordering, and the first in output order come free (R87).
(PRESUMED, log 11.) -/
def VdeSession.take (v : VdeSession) (u : Config.StreamUnit) : VdeSession :=
  let held := sortBy (·.1) (v.kept ++ u.pics)
  { v with
    stamp := u.after
    ready := v.ready ++ (held.take u.bumps).map (·.2)
    kept := held.drop u.bumps }

/-- The units of an input in order, until MAXOUT pictures are out, or one lies outside the subset, breaks its standard or
does not end within the input: output stops at the unit before it (R81, R86, R87). -/
def Decoding.units (codec maxout : Nat) : List Config.StreamUnit → Decoding → Decoding
  | [], d => d
  | u :: t, d =>
    if maxout ≤ d.out.length then d
    else if !unitInSubset u codec then { d with status := 3, detail := u.detail }
    else if !u.legal then { d with status := 4, detail := u.detail }
    else if !u.whole then { d with status := 5, detail := u.detail }
    else Decoding.units codec maxout t (Decoding.release { d with session := d.session.take u } maxout)

/-- A card's decoding (R87): what an earlier card left for want of room goes out first; an input of no bytes flushes every
picture held, and the decoder goes on from the state that this leaves. (PRESUMED, log 11.) -/
def VdeSession.decode (v : VdeSession) (codec maxout : Nat) (x : List Byte) : Decoding :=
  if x = [] then
    Decoding.release ⟨[], { v with ready := v.ready ++ v.kept.map (·.2), kept := [], stamp := Config.vdeFlushed codec v.stamp }, 0, 0⟩ maxout
  else Decoding.units codec maxout (Config.vdeUnits codec v.stamp x) (Decoding.release ⟨[], v, 0, 0⟩ maxout)

/-- Whether another ring runs a card that names the same session area (R87). -/
def State.refShared (s : State) (n : Nat) (sp : BitVec 16) (r : Bref) : Bool :=
  (List.range 16).any (fun m => m ≠ n && (match (s.mring m).card with
    | some b => cardSpace b = sp && (match brefOf b 48 with
      | some q => q.obj = r.obj && q.off = r.off
      | none => false)
    | none => false))

/-- The session of a REF (R87): one that no card has begun, and one that two live cards name, stands in a state that
the manual leaves open. -/
def State.session (s : State) (n : Nat) (sp : BitVec 16) (r : Bref) (fresh : Bool) : State × VdeSession :=
  let old := s.vde.find? (fun v => v.space = sp && v.obj = r.obj && v.off = r.off)
  let (s, k) := s.draw
  let open_ : VdeSession := ⟨sp, r.obj, r.off, Config.freeNat k, 0, [], []⟩
  if s.refShared n sp r then (s, open_)
  else if fresh then (s, ⟨sp, r.obj, r.off, 0, 0, [], []⟩)
  else (s, old.getD open_)

/-- The body checks of a decode card (R87). (DESIGN CHOICE, log 24.) -/
def decodeBodyOk (b : List Byte) : Bool :=
  let w := getLe b 80 4
  let codec := bits w 0 4
  let slots := bits w 8 8
  (codec = 1 || codec = 2) && bits w 5 3 = 0 && 1 ≤ slots && slots ≤ 64 && bits w 16 16 ≠ 0 && getLe b 84 4 < slots &&
    getLe b 88 40 = 0

/-- DECODE_CARD (R81, R82, R87). (DESIGN CHOICE, log 24.) -/
def execDecodeCard (n : Nat) (s : State) : Out :=
  match (s.mring n).card, (s.mring n).finished with
  | some b, none =>
    if 16 ≤ n then .next s
    else if !s.cardOk b 1 || !decodeBodyOk b then .next (s.cardRan n 1 0 0)
    else match brefOf b 32, brefOf b 48, brefOf b 64 with
      | some bin, some ref, some pool =>
        let sp := cardSpace b
        let rq := Requester.media n
        let w := getLe b 80 4
        let slots := bits w 8 8
        let slot := pool.len / slots
        if !s.brefOk rq sp bin false || !s.brefOk rq sp ref true || !s.brefOk rq sp pool true then .next (s.cardRan n 2 0 0)
        else if ref.len < 2 ^ 20 + 18 * slot then .next (s.cardRan n 6 0 0)
        else
          let (t, v) := s.session n sp ref (w.testBit 4)
          let e := t.engine rq sp 0
          let (e, x) := e.brefRead bin 0 bin.len 3
          let (e, rd) := e.atBref ref 0 3
          let (e, pd) := e.atBref pool 0 3
          let e := e.touch rd ref.len true false 3
          let e := e.touch pd pool.len true false 3
          if e.stop.isSome then e.cardEnd n 0 0 0
          else
            let d := v.decode (bits w 0 4) (bits w 16 16) x
            let (e, count, big) := e.writeFrames (bits w 0 4) pool slots slot (getLe b 84 4) v.frames d.out
            let e := e.scramble rd ref.len
            let others := e.s.vde.filter (fun u => !(u.space = sp && u.obj = ref.obj && u.off = ref.off))
            let e := { e with s := { e.s with vde := others ++ [{ d.session with frames := v.frames + count }] } }
            if big then e.cardEnd n 7 0 count else e.cardEnd n d.status d.detail count
      | _, _, _ => .next (s.cardRan n 1 0 0)
  | _, _ => .next s

/-- A rounded FP32 operation (R90). -/
def rf (v : FV) : FV := unpack fp32 (roundFp32 v)
@[inherit_doc rf] def fpAdd (a b : FV) : FV := rf (addV 0 a b).1
@[inherit_doc rf] def fpSub (a b : FV) : FV := fpAdd a b.neg
@[inherit_doc rf] def fpMul (a b : FV) : FV := rf (mulV a b).1
@[inherit_doc rf] def fpDiv (a b : FV) : FV := unpack fp32 (fDiv fp32 0 a b).1
/-- An integer, and a ratio of integers rounded once. -/
def fpInt (i : Int) : FV := rf (FV.ofInt false i 0)
@[inherit_doc fpInt] def fpRatio (i : Int) (n : Nat) : FV := fpDiv (FV.ofInt false i 0) (FV.ofInt false n 0)
/-- The greatest integer not above a finite value. -/
def FV.floor (v : FV) : Int := if 0 ≤ v.exp then v.int * pow2 v.exp else v.int / pow2 (-v.exp)
/-- A value held to 0 to 1 (R90). -/
def unitSat (v : FV) : FV :=
  if cmpV v (fpInt 0) == some .lt then fpInt 0 else if cmpV v (fpInt 1) == some .gt then fpInt 1 else v
/-- Products summed in ascending index, each step rounded (R90). -/
def taps (l : List (FV × FV)) : FV :=
  match l.map (fun p => fpMul p.1 p.2) with
  | [] => fpInt 0
  | a :: t => t.foldl fpAdd a

/-- A source frame as its slot holds it (R82). -/
structure Frame where
  w : Nat
  h : Nat
  depth : Nat
  pitch : Nat
  coff : Nat
  data : List Byte
  deriving DecidableEq, Repr

/-- Sample `i` of a line that begins at a byte. -/
def Frame.sample (f : Frame) (at_ i : Nat) : Nat :=
  if f.depth = 8 then getLe f.data (at_ + i) 1 else getLe f.data (at_ + 2 * i) 2

/-- Luma normalised (R90, step 1). -/
def Frame.luma (f : Frame) (full : Bool) (y x : Nat) : FV :=
  let v := fpInt (f.sample (128 + f.pitch * y) x)
  if full then fpDiv v (fpInt (2 ^ f.depth - 1 : Nat))
  else fpDiv (fpSub v (fpInt (16 * 2 ^ (f.depth - 8) : Nat))) (fpInt (219 * 2 ^ (f.depth - 8) : Nat))

/-- A chroma sample normalised (R90, step 1): `k` is 0 for Cb, 1 for Cr. -/
def Frame.chroma (f : Frame) (full : Bool) (k y x : Nat) : FV :=
  let v := fpInt (f.sample (f.coff + f.pitch * y) (2 * x + k))
  if full then fpDiv (fpSub v (fpInt (2 ^ (f.depth - 1) : Nat))) (fpInt (2 ^ f.depth - 1 : Nat))
  else fpDiv (fpSub v (fpInt (128 * 2 ^ (f.depth - 8) : Nat))) (fpInt (224 * 2 ^ (f.depth - 8) : Nat))

/-- Chroma at a luma position (R90, step 2): bilinear, sited left horizontally and centred vertically.
(DESIGN CHOICE, log 25.) -/
def Frame.chromaAt (f : Frame) (full : Bool) (k y x : Nat) : FV :=
  let cw := ceilDiv f.w 2
  let ch := ceilDiv f.h 2
  let hor (j : Nat) : FV :=
    if x % 2 = 0 then f.chroma full k j (x / 2)
    else taps [(fpRatio 1 2, f.chroma full k j (x / 2)), (fpRatio 1 2, f.chroma full k j (min (x / 2 + 1) (cw - 1)))]
  if y % 2 = 0 then taps [(fpRatio 1 4, hor (y / 2 - 1)), (fpRatio 3 4, hor (y / 2))]
  else taps [(fpRatio 3 4, hor (y / 2)), (fpRatio 1 4, hor (min (y / 2 + 1) (ch - 1)))]

/-- The luma weights of a matrix: Kr and Kb (R90, step 3). -/
def matrixK (m : Nat) : FV × FV :=
  match m with
  | 0 => (fpRatio 299 1000, fpRatio 114 1000)
  | 1 => (fpRatio 2126 10000, fpRatio 722 10000)
  | _ => (fpRatio 2627 10000, fpRatio 593 10000)

/-- R, G or B at a position (R90, step 3). -/
def Frame.rgb (f : Frame) (full : Bool) (m c y x : Nat) : FV :=
  let (kr, kb) := matrixK m
  let one := fpInt 1
  let l := f.luma full y x
  let r := fpAdd l (fpMul (fpMul (fpInt 2) (fpSub one kr)) (f.chromaAt full 1 y x))
  let b := fpAdd l (fpMul (fpMul (fpInt 2) (fpSub one kb)) (f.chromaAt full 0 y x))
  let g := fpDiv (fpSub (fpSub l (fpMul kr r)) (fpMul kb b)) (fpSub (fpSub one kr) kb)
  unitSat (match c with
    | 0 => r
    | 1 => g
    | _ => b)

/-- The bicubic weight at a distance, with a = −0.5 (R90): the cubic by Horner's rule, each step rounded.
(DESIGN CHOICE, log 25.) -/
def cubicWeight (d : FV) : FV :=
  let d := if cmpV d (fpInt 0) == some .lt then d.neg else d
  if cmpV d (fpInt 1) == some .gt then
    fpAdd (fpMul (fpSub (fpMul (fpAdd (fpMul (fpRatio (-1) 2) d) (fpRatio 5 2)) d) (fpInt 4)) d) (fpInt 2)
  else fpAdd (fpMul (fpMul (fpSub (fpMul (fpRatio 3 2) d) (fpRatio 5 2)) d) d) (fpInt 1)

/-- The taps of a filter on one axis at source position `p` (R90): index and weight. `n` is the crop's length, `o` the
output's. A sample's weight in the area filter is the length of the footprint that it covers over the footprint's,
rounded once. (DESIGN CHOICE, log 25.) -/
def axisTaps (filter : Nat) (p : FV) (pos n o : Nat) : List (Int × FV) :=
  let i := p.floor
  let linear : List (Int × FV) :=
    let fr := fpSub p (fpInt i)
    [(i, fpSub (fpInt 1) fr), (i + 1, fr)]
  match filter with
  | 0 => [((fpAdd p (fpRatio 1 2)).floor, fpInt 1)]
  | 1 => linear
  | 2 => [i - 1, i, i + 1, i + 2].map (fun k => (k, cubicWeight (fpSub p (fpInt k))))
  | _ =>
    if n ≤ o then linear
    else
      let lo := pos * n / o
      let hi := ceilDiv ((pos + 1) * n) o
      (List.range (hi - lo)).map (fun k =>
        let j := lo + k
        ((j : Nat), fpRatio ((min ((pos + 1) * n) ((j + 1) * o) : Nat) - (max (pos * n) (j * o) : Nat)) n))

/-- A crop: CX, CY, CW, CH (R88). -/
structure Crop where
  x : Nat
  y : Nat
  w : Nat
  h : Nat
  deriving DecidableEq, Repr

/-- An index held to a range of `n` from `lo`. -/
def clampIdx (lo n : Nat) (i : Int) : Nat := (max (lo : Int) (min i (lo + n - 1 : Int))).toNat

/-- The source position of an output index on one axis (R90, step 4). -/
def sourceAt (lo n o i : Nat) : FV :=
  fpSub (fpAdd (fpInt lo) (fpDiv (fpMul (fpAdd (fpInt i) (fpRatio 1 2)) (fpInt n)) (fpInt o))) (fpRatio 1 2)

/-- An output element before it is quantised (R90, step 4). The area filter's footprint is within the crop. -/
def Frame.resample (f : Frame) (full : Bool) (m filter : Nat) (cr : Crop) (hh ww c y x : Nat) : FV :=
  let shift (lo : Nat) (reduce : Bool) (l : List (Int × FV)) : List (Int × FV) :=
    if filter = 3 && reduce then l.map (fun p => (p.1 + lo, p.2)) else l
  let xs := shift cr.x (ww < cr.w) (axisTaps filter (sourceAt cr.x cr.w ww x) x cr.w ww)
  let ys := shift cr.y (hh < cr.h) (axisTaps filter (sourceAt cr.y cr.h hh y) y cr.h hh)
  taps (ys.map (fun j => (j.2, taps (xs.map (fun i =>
    (i.2, f.rgb full m c (clampIdx cr.y cr.h j.1) (clampIdx cr.x cr.w i.1)))))))

/-- Whether a window's type word is one that a resize card may write (R89). -/
def resizeTypeOk (t : Quad) : Bool :=
  let f := twFmt t
  twRank t = 3 && twExt t 0 = 3 && !isVar (twExt t 1) && !isVar (twExt t 2) && 1 ≤ twExt t 1 && twExt t 1 ≤ 8192 &&
    1 ≤ twExt t 2 && twExt t 2 ≤ 8192 && (floatOf f = some bf16 || floatOf f = some e4m3 || floatOf f = some e5m2 || intOf f = some (true, 8)) &&
    (twLay t = 0 || twLay t = 5) && twScale t = 0

/-- Whether a crop lies within its frame and keeps the ratio limits (R89). -/
def cropOk (f : Frame) (c : Crop) (hh ww : Nat) : Bool :=
  c.x + c.w ≤ f.w && c.y + c.h ≤ f.h && c.w ≤ 16 * ww && ww ≤ 8 * c.w && c.h ≤ 16 * hh && hh ≤ 8 * c.h

/-- The body checks of a resize card (R88). -/
def resizeBodyOk (b : List Byte) : Bool :=
  let w := getLe b 72 4
  bits w 2 2 ≠ 3 && bits w 7 25 = 0 && getLe b 100 28 = 0

/-- Read the frame of a slot: none where its planes pass the slot (R82, R85). (DESIGN CHOICE, log 24.) -/
def Eng.readFrame (e : Eng) (src : Bref) : Eng × Option Frame :=
  if src.len < 128 then (e, none)
  else
    let (e, h) := e.brefRead src 0 128 3
    let f : Frame := ⟨getLe h 0 2, getLe h 2 2, max 8 (getLe h 4 1), getLe h 8 4, getLe h 12 4, []⟩
    let n := max (128 + f.pitch * f.h) (f.coff + f.pitch * ceilDiv f.h 2)
    if src.len < n then (e, none)
    else
      let (e, d) := e.brefRead src 0 n 3
      (e, some { f with data := d })

/-- The image that a resize card writes, with its bytes where the layout is 5 (R90). -/
def resizeImage (f : Frame) (b : List Byte) (t : Quad) : Nat × Option Nat :=
  let w := getLe b 72 4
  let cr : Crop := ⟨getLe b 64 2, getLe b 66 2, getLe b 68 2, getLe b 70 2⟩
  let param (i c : Nat) : FV := unpack fp32 (getLe b (i + 4 * c) 4)
  let elem (ix : List Nat) : Nat :=
    let c := ix.getD 0 0
    let p := if w.testBit 5 then 2 - c else c
    let v := f.resample (w.testBit 4) (bits w 2 2) (bits w 0 2) cr (twExt t 1) (twExt t 2) p (ix.getD 1 0) (ix.getD 2 0)
    let u := fpMul (fpSub v (param 76 c)) (param 88 c)
    match floatOf (twFmt t) with
    | some g => (roundTo g 0 (w.testBit 6) u).1
    | none => ofI 8 (toIntFmt true 8 0 u).1
  if twLay t = 5 then
    let (n, len) := buildZb t (twExts t) elem
    (n, some len)
  else (buildImage t (twExts t) 0 elem, none)

/-- RESIZE_CARD (R88 to R90). (DESIGN CHOICE, log 24.) -/
def execResizeCard (n : Nat) (s : State) : Out :=
  match (s.mring n).card, (s.mring n).finished with
  | some b, none =>
    if n < 16 || 32 ≤ n then .next s
    else if !s.cardOk b 2 || !resizeBodyOk b then .next (s.cardRan n 1 0 0)
    else match brefOf b 32, brefOf b 48 with
      | some src, some dst =>
        let sp := cardSpace b
        let rq := Requester.media n
        if !s.brefOk rq sp src false || !s.brefOk rq sp dst true then .next (s.cardRan n 2 0 0)
        else match s.rqObject rq sp dst.obj with
          | none => .next (s.cardRan n 2 0 0)
          | some o =>
            let fits : Bool := match windowBytes o.type (twExts o.type) o.pitch with
              | some k => k ≤ dst.len
              | none => false
            if !o.tw || !resizeTypeOk o.type || !fits then .next (s.cardRan n 8 0 0)
            else match (s.engine rq sp 0).readFrame src with
              | (e, none) => e.cardEnd n 2 0 0
              | (e, some f) =>
                if e.stop.isSome then e.cardEnd n 0 0 0
                else if !cropOk f ⟨getLe b 64 2, getLe b 66 2, getLe b 68 2, getLe b 70 2⟩ (twExt o.type 1) (twExt o.type 2) then
                  .next (e.s.cardRan n 9 0 0)
                else
                  let (img, total) := resizeImage f b o.type
                  let units := typedUnits o.type o.pitch dst.off total
                  let e := units.foldl (fun e p => e.touch (o.base + p.1) p.2 true false 3) e
                  if e.stop.isSome then e.cardEnd n 0 0 0
                  else
                    let e := (units.zipIdx).foldl (fun e p =>
                      e.write (o.base + p.1.1) ((rowBytes (BitVec.ofNat 1024 (bits img (1024 * p.2) 1024))).take p.1.2) 3) e
                    e.cardEnd n 0 0 ((units.map (·.2)).foldl (· + ·) 0)
      | _, _ => .next (s.cardRan n 1 0 0)
  | _, _ => .next s

/-- MEDIA_CARD_COMPLETE (R84, R85): the status area, byte 0, HEAD, then the post and the decrement. -/
def execMediaCardComplete (n : Nat) (s : State) : Out :=
  let r := s.mring n
  match r.card, r.finished with
  | some b, some (st, det, count) =>
    let area := bytesOf 2 st.toNat ++ bytesOf 2 det.toNat ++ bytesOf 4 count.toNat ++ bytesOf 8 s.tick
    let s := (s.memPut 0 (r.place + 16) area).memPut 0 r.place [0]
    let s := s.setMring n { r with head := r.head + 1, busy := false, card := none, finished := none }
    let f := getLe b 4 4
    let t := getLe b 8 4
    let s := if f.testBit 31 then s.postTo (bits f 0 10) (bits f 10 5) 1 (cardSpace b) r.pts else s
    .next (if t.testBit 31 then s.decTask (bits t 0 20) (cardSpace b) else s)
  | _, _ => .next s

/-- Change a storage read. -/
def State.modSg (s : State) (core id : Nat) (f : Job → Job) : State :=
  s.modCore core (fun c => { c with sgrds := c.sgrds.map (fun (j : Job) => if j.id = id then f j else j) })

/-- A storage read as it stands. -/
def State.sgJob (s : State) (core id : Nat) : Option Job := (s.core core).sgrds.find? (fun j => j.id = id)

/-- A storage read takes its first error (R439). -/
def Job.failSg (j : Job) (st : BitVec 8) (sf : BitVec 15) : Job :=
  { j with
    status := if j.status = 0 then st else j.status
    detail := if j.detail = 0 then sf.setWidth 16 else j.detail }

/-- After a command of an entry is over: further commands go out, and a read with none left completes (R93). -/
def State.sgAfter (s : State) (e core id : Nat) : State :=
  let s := s.sgIssue e (s.drive e).depth
  match s.sgJob core id with
  | none => s
  | some j =>
    match j.kind with
    | .sgrd _ _ _ n _ =>
      if j.pos < n || (s.drive e).cmds.any (fun c => c.core = core && c.job = id) then s
      else ((s.modCore core (fun c => { c with sgrds := c.sgrds.filter (fun i => i.id ≠ id) })).clearWait (.fabric core id)).answer j
        [BitVec.ofNat 64 (j.status.toNat + j.detail.toNat * 2 ^ 16)]
    | _ => s

/-- The bytes of a command land in the window (R93): those past the window are discarded. (PRESUMED, log 26.) -/
def State.sgLand (s : State) (j : Job) (off : Nat) (b : List Byte) : State × Option (BitVec 8) :=
  match j.kind with
  | .sgrd c _ _ _ len =>
    let b := b.take (len - off)
    let e := s.engine (.fabric j.core j.id) j.space j.pts
    let (e, d) := e.atCap c (c.off + off) b.length true 3
    let e := e.touch d b.length true false 3
    let e := if e.stop.isSome then e else e.write d b 3
    (match e.stop with
      | some .wait => (e.s, none)
      | some _ => (e.s.clearWait (.fabric j.core j.id), some 6)
      | none => (e.s.modSg j.core j.id (fun i => { i with pts := e.pts }), some 0))
  | _ => (s, some 0)

/-- NVME_COMPLETION (R92, R93, R439): the drive has completed a command, with its data where SF is 0; of its
completion-queue entry, the identifier and the status are the command's. An entry that reads as poisoned ends the read
with ECC (R22). (PRESUMED, log 26.) -/
def execNvmeCompletion (e : Nat) (cid : Nat) (sf : BitVec 15) (data : List Byte) (s : State) : Out :=
  let d := s.drive e
  if 64 ≤ e then .next s
  else match d.cmds.find? (fun c => c.cid = cid) with
    | none => .next (s.setDrive e { d with ctrlerr := true })
    | some c =>
      let take_ (s : State) : State :=
        let d := s.drive e
        let (s, q) := s.freeBytes 12
        let (s, phase) := s.draw
        let status := bytesOf 4 (cid % 65536 + Config.freeNat phase % 2 * 2 ^ 16 + sf.toNat * 2 ^ 17)
        let head := (d.cqHead.toNat + 1) % d.depth
        ((s.memPut 0 (d.cq.toNat + 16 * d.cqHead.toNat) (q ++ status)).setDrive e { d with
          cmds := d.cmds.filter (fun c => c.cid ≠ cid)
          cqHead := BitVec.ofNat 16 head
          errors := if sf = 0 then d.errors else d.errors + 1 }).ringBell d d.headBell head
      let over_ (s : State) (st : BitVec 8) : Out :=
        let t := take_ s
        let lost : Bool := (t.poisonAt 0 ((s.drive e).cq.toNat + 16 * (s.drive e).cqHead.toNat) 16).isSome
        .next ((t.modSg c.core c.job (fun j =>
          if lost then j.failSg 5 0 else if sf ≠ 0 then j.failSg 3 sf else if st = 0 then j else j.failSg st 0)).sgAfter e c.core c.job)
      if sf ≠ 0 then over_ s 0
      else if data.length ≠ c.blocks * d.block then .next s
      else match s.sgJob c.core c.job with
        | none => .next (take_ s)
        | some j =>
          match s.sgLand j c.off data with
          | (s, none) => .next s
          | (s, some st) => over_ s st

/-- NVME_COMMAND_TIMEOUT (R92, R93): 30 s without a completion. -/
def execNvmeCommandTimeout (e : Nat) (cid : Nat) (s : State) : Out :=
  let d := s.drive e
  match d.cmds.find? (fun c => c.cid = cid) with
  | none => .next s
  | some c =>
    if s.tick < c.tick + 30 * secondTicks then .next s
    else
      let s := s.setDrive e { d with timeout := true, cmds := d.cmds.filter (fun c => c.cid ≠ cid) }
      .next ((s.modSg c.core c.job (fun j => j.failSg 4 0)).sgAfter e c.core c.job)

/-- CXL_LINK_DOWN and CXL_LINK_UP (R94). (DEDUCED, log 52.) -/
def execCxlLinkDown (p : Nat) (s : State) : Out :=
  if 4 ≤ p then .next s else .next { s with cxlDown := SMap.set false s.cxlDown p true }
/-- CXL_LINK_UP (R94). -/
def execCxlLinkUp (p : Nat) (s : State) : Out :=
  if 4 ≤ p then .next s else .next { s with cxlDown := SMap.set false s.cxlDown p false }

end Sys2Proof.Machine
end

