-- ==== Sys2Proof/Machine/Prefix.lean ====
section
/-!
DEFINITION. The prefix index engine (R124 to R148, R431, R456): pools, the buddy allocator, sequences, the five
commands, remote commands, and requantisation.
-/

namespace Sys2Proof.Machine

/-- Split a free block of the buddy allocator down to one page: the high halves (R131). -/
def splitBlock (base : Nat) : Nat → List (Nat × Nat)
  | 0 => []
  | o + 1 => (o, base + 2 ^ o) :: splitBlock base o

/-- Take a page number (R131): the lowest-addressed block of the smallest order that has one. -/
def buddyAlloc (l : List (Nat × Nat)) : Option (Nat × List (Nat × Nat)) :=
  match sortBy (fun b => b.1 * 2 ^ 32 + b.2) l with
  | [] => none
  | (o, base) :: t => some (base, t ++ splitBlock base o)

/-- Free a block; it merges with its buddy whenever that is free (R131). `fuel` bounds the merges. -/
def buddyFree (lpg : Nat) : Nat → Nat → Nat → List (Nat × Nat) → List (Nat × Nat)
  | 0, o, base, l => l ++ [(o, base)]
  | fuel + 1, o, base, l =>
    let mate := if base / 2 ^ o % 2 = 0 then base + 2 ^ o else base - 2 ^ o
    if o < lpg && l.contains (o, mate) then buddyFree lpg fuel (o + 1) (min base mate) (l.erase (o, mate))
    else l ++ [(o, base)]

/-- Slots on the slot stack (R125, R126). -/
def PxPool.freeSlots (x : PxPool) : Nat := x.stack.length + (x.slots - x.fresh)
/-- Free page numbers (R125). -/
def PxPool.freePages (x : PxPool) : Nat := (x.blocks.map (fun b => 2 ^ b.1)).foldl (· + ·) 0
/-- Free tree nodes and token-store entries (R125, R137). -/
def PxPool.nodeFree (x : PxPool) : Nat := x.nnodes - 2 * x.entries.length
@[inherit_doc PxPool.nodeFree] def PxPool.tokFree (x : PxPool) : Nat :=
  16 * x.nnodes - (x.entries.map (fun e => e.2.length)).foldl (· + ·) 0

/-- Pop a slot: the stack's top, or the lowest that has never been popped. -/
def PxPool.popSlot (x : PxPool) : Option (Nat × PxPool) :=
  match x.stack with
  | n :: t => some (n, { x with stack := t })
  | [] => if x.fresh < x.slots then some (x.fresh, { x with fresh := x.fresh + 1 }) else none

/-- Take a page with its slot (R131). -/
def PxPool.take (x : PxPool) : Option (Nat × Nat × PxPool) :=
  match buddyAlloc x.blocks, x.popSlot with
  | some (q, l), some (n, y) => some (q, n, { y with blocks := l })
  | _, _ => none

/-- Free a page with its slot (R131). -/
def PxPool.give (x : PxPool) (q slot : Nat) : PxPool :=
  { x with
    blocks := buddyFree x.lpg x.lpg 0 q x.blocks
    stack := slot :: x.stack }

/-- Count a page of a codebook generation (R125). -/
def PxPool.count (x : PxPool) (g : Nat) (up : Bool) : PxPool :=
  let f (n : Nat) : Nat := if up then n + 1 else n - 1
  if g = 0 then { x with cb0 := f x.cb0 } else { x with cb1 := f x.cb1 }

/-- A page entry (R128). -/
structure Page where
  ref : Nat
  fill : Nat
  cbg : Nat
  v : Bool
  slot : Nat
  deriving DecidableEq, Repr

/-- A page entry from its word, and its word (R128). -/
def pageOf (w : Nat) : Page := ⟨bits w 48 16, bits w 40 7, bits w 33 1, w.testBit 32, bits w 0 32⟩
@[inherit_doc pageOf] def Page.word (p : Page) : Nat :=
  p.ref * 2 ^ 48 + p.fill * 2 ^ 40 + p.cbg * 2 ^ 33 + p.v.toNat * 2 ^ 32 + p.slot

/-- An extent (R129). -/
structure Extent where
  base : Nat
  cnt : Nat
  stride : Nat
  deriving DecidableEq, Repr

/-- A sequence entry (R129). -/
structure Sequence where
  len : Nat
  v : Bool
  ix : Bool
  ext : List Extent
  deriving DecidableEq, Repr

/-- A sequence entry from the first 144 bytes of its place; none where NEXT is out of range. -/
def seqOf (b : List Byte) : Option Sequence :=
  let f := getLe b 4 1
  let n := bits f 0 5
  if 16 < n then none
  else some ⟨getLe b 0 4, f.testBit 7, f.testBit 6, (List.range n).map (fun i =>
    let w := getLe b (16 + 8 * i) 8
    ⟨bits w 40 24, bits w 24 16, bits w 20 4⟩)⟩

/-- The extents' 128 bytes, and bytes 0 to 7, of a sequence entry (R129). -/
def Sequence.extBytes (q : Sequence) : List Byte :=
  (List.range 16).flatMap (fun i => match q.ext[i]? with
    | some e => bytesOf 8 (e.base * 2 ^ 40 + e.cnt * 2 ^ 24 + e.stride * 2 ^ 20)
    | none => bytesOf 8 0)
@[inherit_doc Sequence.extBytes] def Sequence.headBytes (q : Sequence) : List Byte :=
  bytesOf 4 q.len ++ bytesOf 4 (q.v.toNat * 128 + q.ix.toNat * 64 + q.ext.length)

/-- The pages of extents, in order (R129). -/
def extPages (l : List Extent) : List Nat := l.flatMap (fun e => (List.range e.cnt).map (fun i => e.base + i * e.stride))

/-- Add a page at the end (R130). -/
def addPage (l : List Extent) (q : Nat) : List Extent :=
  match l.getLast? with
  | some e =>
    if e.cnt = 1 && e.base < q && q ≤ e.base + 15 then l.dropLast ++ [⟨e.base, 2, q - e.base⟩]
    else if 2 ≤ e.cnt && e.cnt < 65535 && q = e.base + e.cnt * e.stride then l.dropLast ++ [{ e with cnt := e.cnt + 1 }]
    else l ++ [⟨q, 1, 1⟩]
  | none => [⟨q, 1, 1⟩]

/-- Remove the last page (R130). -/
def dropPage (l : List Extent) : List Extent :=
  match l.getLast? with
  | some e => if e.cnt ≤ 1 then l.dropLast else l.dropLast ++ [{ e with cnt := e.cnt - 1 }]
  | none => []

/-- The extents that cover the first `n` pages (R136). -/
def cutExtents : Nat → List Extent → List Extent
  | _, [] => []
  | n, e :: t => if n = 0 then [] else if e.cnt ≤ n then e :: cutExtents (n - e.cnt) t else [{ e with cnt := n }]

/-- A command or an item at work: the engine, the pool's number and state, page entries changed so far, the data
writes asked for, and why it has failed. -/
structure Pix where
  e : Eng
  n : Nat
  x : PxPool
  pages : List (Nat × Page)
  data : List (Nat × List Byte)
  fail : Option Nat
  deriving DecidableEq, Repr

/-- The command fails with a status, unless it has failed already. -/
def Pix.halt (k : Pix) (st : Nat) : Pix := if k.fail.isSome then k else { k with fail := some st }
/-- Whether the work goes on. -/
def Pix.on (k : Pix) : Bool := k.fail.isNone && k.e.stop.isNone

/-- The DVA of `n` bytes of one of the pool's objects; none lie beyond its LEN (R127). -/
def Pix.atObj (k : Pix) (obj off n : Nat) : Pix × Nat :=
  match k.e.object obj 3 with
  | (e, some o) => ({ k with e := if o.len < off + n then e.halt .bounds else e }, o.base + off)
  | (e, none) => ({ k with e := e }, 0)

/-- Read bytes of an object of the pool. -/
def Pix.read (k : Pix) (obj off n : Nat) : Pix × List Byte :=
  let (k, d) := k.atObj obj off n
  if k.e.stop.isSome then (k, [])
  else
    let (e, b) := k.e.readOk d n 3
    ({ k with e := e }, b)

/-- A page entry as it stands; one that a live sequence cannot have is inconsistent (R127). -/
def Pix.page (k : Pix) (q : Nat) : Pix × Page :=
  match k.pages.find? (fun p => p.1 = q) with
  | some p => (k, p.2)
  | none =>
    let k := if k.x.npages ≤ q then k.halt 12 else k
    let (k, b) := if k.on then k.read k.x.metaobj (k.x.pageAt q) 8 else (k, [])
    let p := pageOf (ofBytes b)
    (if k.on && (!p.v || p.ref = 0 || k.x.slots ≤ p.slot) then k.halt 12 else k, p)

/-- Change a page entry: it is written when the item commits. -/
def Pix.setPage (k : Pix) (q : Nat) (p : Page) : Pix :=
  { k with pages := if k.pages.any (fun e => e.1 = q) then k.pages.map (fun e => if e.1 = q then (q, p) else e) else k.pages ++ [(q, p)] }

/-- Add to the references of pages. -/
def Pix.refer (k : Pix) (l : List Nat) : Pix :=
  l.foldl (fun k q =>
    let (k, p) := k.page q
    if k.on then k.setPage q { p with ref := p.ref + 1 } else k) k

/-- A sequence entry (R129): whether it is live, and its pages agree with its length, else the metadata is
inconsistent. -/
def Pix.seq (k : Pix) (s : Nat) : Pix × Sequence :=
  let (k, b) := k.read k.x.metaobj (k.x.seqAt s) 144
  match seqOf b with
  | some q =>
    if q.v && (extPages q.ext).length ≠ ceilDiv q.len k.x.p then (k.halt 12, ⟨0, false, false, []⟩) else (k, q)
  | none => (k.halt 12, ⟨0, false, false, []⟩)

/-- Data for a slot of the pool. -/
def Pix.put (k : Pix) (slot off : Nat) (b : List Byte) : Pix :=
  let (k, d) := k.atObj k.x.poolobj (slot * k.x.slotb + off) b.length
  { k with data := k.data ++ [(d, b)] }

/-- Commit an item (R134, R141): every page is translated ahead; then the data, the page entries, and the sequence
entry, extents first. A RELEASE writes the sequence entry as 0. -/
def Pix.commit (k : Pix) (s : Nat) (q : Option Sequence) : Pix :=
  if !k.on then k
  else
    let (k, meta_) := k.atObj k.x.metaobj 0 (k.x.seqAt k.x.nseq)
    let seqs : List (Nat × List Byte) := match q with
      | some q => [(meta_ + k.x.seqAt s + 16, q.extBytes), (meta_ + k.x.seqAt s, q.headBytes)]
      | none => [(meta_ + k.x.seqAt s, List.replicate 256 0)]
    let ws := k.data ++ k.pages.map (fun p => (meta_ + k.x.pageAt p.1, bytesOf 8 p.2.word)) ++ seqs
    let e := ws.foldl (fun e w => e.touch w.1 w.2.length true false 3) k.e
    if e.stop.isSome then { k with e := e }
    else
      let e := ws.foldl (fun e w => e.write w.1 w.2 3) e
      { k with
        e := { e with s := e.s.setPool k.n k.x }
        pages := []
        data := [] }

/-- The length of the common prefix of two token lists. -/
def commonLen : List (BitVec 32) → List (BitVec 32) → Nat
  | a :: l, b :: m => if a = b then commonLen l m + 1 else 0
  | _, _ => 0

/-- The match of a token list (R135): its length, and the lowest-numbered entry that has it. -/
def PxPool.matchOf (x : PxPool) (t : List (BitVec 32)) : Nat × Option Nat :=
  (sortBy (fun e => e.1) x.entries).foldl (fun (best : Nat × Option Nat) e =>
    let m := commonLen e.2 t
    if best.1 < m then (m, some e.1) else best) (0, none)

/-- Read the token ids of a BREF (R132). -/
def Pix.tokens (k : Pix) (r : Bref) (n : Nat) : Pix × List (BitVec 32) :=
  if !k.on then (k, [])
  else
    let (e, b) := k.e.brefRead r 0 (4 * n) 3
    ({ k with e := e }, (List.range n).map (fun i => BitVec.ofNat 32 (getLe b (4 * i) 4)))

/-- A BREF of a command, which must resolve and hold `need` bytes (R85, R133). -/
def Pix.ref (k : Pix) (b : List Byte) (i need : Nat) (write : Bool) : Pix × Bref :=
  match brefOf b i with
  | some r => (if k.on && (!k.e.s.brefOk k.e.rq k.e.sp r write || r.len < need) then k.halt 3 else k, r)
  | none => (k.halt 1, ⟨0, 0, 0⟩)

/-- The eight values of a codebook entry from its bytes (R143). -/
def codeValues (b : List Byte) (i : Nat) : List FV := (List.range 8).map (fun n => unpack bf16 (getLe b (16 * i + 2 * n) 2))

/-- The squared distance of two entries, exactly (R147). -/
def codeDist (a b : List FV) : FV := (sumAll ((a.zip b).map (fun p => let d := (addV 0 p.1 p.2.neg).1; (mulV d d).1))).1

/-- The entry of a codebook that lies nearest to `y` (R147). -/
def nearest (y : List FV) (book : List Byte) : Nat :=
  ((List.range 256).foldl (fun (a : Nat × FV) i =>
    let d := codeDist (codeValues book i) y
    if cmpV d a.2 = some .lt then (i, d) else a) (0, .inf false)).1

/-- The codebook of a generation and group, 256 entries (R143). -/
def Pix.book (k : Pix) (gen h kv g : Nat) : Pix × List Byte :=
  k.read k.x.cbobj ((((gen * k.x.nh + h) * 2 + kv) * 16 + g) * 4096) 4096

/-- Re-encode codes of a group from one generation to another (R147). -/
def Pix.reencode (k : Pix) (a b h kv g : Nat) (codes : List Byte) : Pix × List Byte :=
  if a = b || codes = [] then (k, codes)
  else
    let (k, ba) := k.book a h kv g
    let (k, bb) := k.book b h kv g
    (k, codes.map (fun x => BitVec.ofNat 8 (nearest (codeValues ba x.toNat) bb)))

/-- The code groups of a slot, as (head slot, half, group) (R143). -/
def PxPool.groups (x : PxPool) : List (Nat × Nat × Nat) :=
  (List.range x.nh).flatMap (fun h => (List.range 2).flatMap (fun kv => (List.range 16).map (fun g => (h, kv, g))))
/-- The slot byte of position 0 of a group (R143). -/
def PxPool.groupAt (x : PxPool) (g : Nat × Nat × Nat) : Nat := ((g.1 * 2 + g.2.1) * 16 + g.2.2) * x.p

/-- Copy positions 0 to `n` − 1 of every group from one slot to another (R138). -/
def Pix.copySlot (k : Pix) (src dst n : Nat) : Pix :=
  k.x.groups.foldl (fun k g =>
    let (k, b) := k.read k.x.poolobj (src * k.x.slotb + k.x.groupAt g) n
    if k.on then k.put dst (k.x.groupAt g) b else k) k

/-- Write tokens `j` to `j` + `n` − 1 of a source into a page at a position, re-encoded where generations differ
(R138, R147). -/
def Pix.writeTokens (k : Pix) (src : List Byte) (gen q pos j n : Nat) : Pix :=
  let (k, p) := k.page q
  let k := k.x.groups.foldl (fun k (g : Nat × Nat × Nat) =>
    let codes := (List.range n).map (fun i => src.getD (((j + i) * k.x.nh + g.1) * 32 + g.2.1 * 16 + g.2.2) 0)
    let (k, c) := k.reencode gen p.cbg g.1 g.2.1 g.2.2 codes
    k.put p.slot (k.x.groupAt g + pos) c) k
  k.setPage q { p with fill := max p.fill (pos + n) }

/-- The tokens of an APPEND, page by page, from token `j` on; `fuel` bounds the pages. -/
def Pix.writeAll (k : Pix) (src : List Byte) (gen len c : Nat) (pages : List Nat) : Nat → Nat → Pix
  | 0, _ => k
  | fuel + 1, j =>
    if c ≤ j || !k.on then k
    else
      let i := len + j
      let pos := i % k.x.p
      let n := min (c - j) (k.x.p - pos)
      (k.writeTokens src gen (pages.getD (i / k.x.p) 0) pos j n).writeAll src gen len c pages fuel (j + n)

/-- Take pages until the need is met or the pool runs out (R138). -/
def PxPool.takeMany (x : PxPool) : Nat → PxPool × List (Nat × Nat)
  | 0 => (x, [])
  | n + 1 =>
    match x.take with
    | none => (x, [])
    | some (q, slot, y) =>
      let (z, l) := y.takeMany n
      (z, (q, slot) :: l)

/-- An APPEND item (R138): tokens of `b`, 32 bytes. (DEDUCED, log 27.) -/
def Pix.append (k : Pix) (b : List Byte) : Pix :=
  let s := bits (getLe b 0 4) 0 20
  let c := getLe b 4 2
  let gen := bits (getLe b 6 1) 0 1
  let (k, q) := k.seq s
  if !k.on then k
  else if !q.v then k.halt 4
  else if q.ix then k.halt 6
  else if 2 ^ 32 ≤ q.len + c then k.halt 11
  else
    let need := c * k.x.nh * 32
    let (k, r) := k.ref b 16 need false
    let old := extPages q.ext
    let o := q.len % k.x.p
    let (k, last) := if o = 0 then (k, pageOf 0) else k.page (old.getLastD 0)
    if !k.on then k
    else
      let cow : Bool := o ≠ 0 && 1 < last.ref
      let fresh := ceilDiv (q.len + c) k.x.p - ceilDiv q.len k.x.p
      let (x, got) := k.x.takeMany (fresh + cow.toNat)
      let ext := got.foldl (fun l p => addPage l p.1) (if cow && got ≠ [] then dropPage q.ext else q.ext)
      if 16 < ext.length then k.halt 8
      else if got.length < fresh + cow.toNat then k.halt 7
      else
        let k := { k with x := x }
        let k := if cow then
            let (p, slot) := got.headD (0, 0)
            let k := k.copySlot last.slot slot o
            let k := k.setPage (old.getLastD 0) { last with ref := last.ref - 1 }
            let k := k.setPage p ⟨1, o, last.cbg, true, slot⟩
            { k with x := k.x.count last.cbg true }
          else k
        let k := (if cow then got.drop 1 else got).foldl (fun k p =>
          let k := k.setPage p.1 ⟨1, 0, gen, true, p.2⟩
          { k with x := k.x.count gen true }) k
        let (e, src) := k.e.brefRead r 0 need 3
        let k := { k with e := e }
        let k := k.writeAll src gen q.len c (extPages ext) (ext.length + c + 1) 0
        k.commit s (some { q with len := q.len + c, ext := ext })

/-- A FORK item (R136): sequence `s` takes the first `m` tokens of `src`. -/
def Pix.forkItem (k : Pix) (s m : Nat) (src : Sequence) : Pix :=
  let (k, q) := k.seq s
  let ext := cutExtents (ceilDiv m k.x.p) src.ext
  let pages := extPages ext
  if !k.on then k
  else if q.v then k.halt 5
  else
    let (k, full) := pages.foldl (fun (a : Pix × Bool) p =>
      let (k, e) := a.1.page p
      (k, a.2 || e.ref = 65535)) (k, false)
    if !k.on then k
    else if full then k.halt 9
    else (k.refer pages).commit s (some ⟨m, true, false, ext⟩)

/-- A RELEASE item (R139), with the pages it frees. -/
def Pix.releaseItem (k : Pix) (s : Nat) : Pix × Nat :=
  let (k, q) := k.seq s
  if !k.on then (k, 0)
  else if !q.v then (k.halt 4, 0)
  else
    let (k, n) := (extPages q.ext).foldl (fun (a : Pix × Nat) p =>
      let (k, e) := a.1.page p
      if !k.on then (k, a.2)
      else if e.ref ≤ 1 then
        let k := k.setPage p ⟨0, 0, 0, false, 0⟩
        ({ k with x := (k.x.give p e.slot).count e.cbg false }, a.2 + 1)
      else (k.setPage p { e with ref := e.ref - 1 }, a.2)) (k, 0)
    (({ k with x := { k.x with entries := k.x.entries.filter (fun t => t.1 ≠ s) } }).commit s none, n)

/-- INSERT (R137): the entry's id. -/
def Pix.insert (k : Pix) (b : List Byte) : Pix × Nat :=
  let w := getLe b 32 4
  let src := bits w 0 20
  let newid := bits (getLe b 36 4) 0 20
  let (k, q) := k.seq src
  let (k, r) := k.ref b 48 (if q.v then 4 * q.len else 0) false
  if !k.on then (k, 0)
  else if !q.v then (k.halt 4, 0)
  else if q.ix then (k.halt 6, 0)
  else if q.len = 0 then (k.halt 11, 0)
  else if k.x.nodeFree < 2 || k.x.tokFree < q.len then (k.halt 10, 0)
  else if w.testBit 31 then
    let (k, t) := k.tokens r q.len
    (({ k with x := { k.x with entries := k.x.entries ++ [(src, t)] } }).commit src (some { q with ix := true }), src)
  else
    let (k, u) := k.seq newid
    let pages := extPages q.ext
    let (k, full) := pages.foldl (fun (a : Pix × Bool) p =>
      let (k, e) := a.1.page p
      (k, a.2 || e.ref = 65535)) (k, false)
    if !k.on then (k, 0)
    else if u.v then (k.halt 5, 0)
    else if full then (k.halt 9, 0)
    else
      let (k, t) := k.tokens r q.len
      let k := { k with x := { k.x with entries := k.x.entries ++ [(newid, t)] } }
      ((k.refer pages).commit newid (some { q with ix := true }), newid)

/-- The reserved bytes and ranges of a command's block that need no pool (R132 to R139). `remote` blocks carry their
flag in bytes 8 and 9 (R142). -/
def pxArgsOk (b : List Byte) (room : Nat) (remote : Bool) : Bool :=
  let opc := getLe b 0 1
  let n := getLe b 2 2
  let w := getLe b 32 4
  let v := getLe b 36 4
  let head : Bool := getLe b 1 1 < 8 && getLe b 4 4 = 0 && getLe b 10 6 = 0 && (if remote then getLe b 8 2 / 32 = 1024 else getLe b 8 2 = 0)
  head && 1 ≤ opc && opc ≤ 5 && (if opc ≤ 2 then n = 0 else 1 ≤ n && n ≤ 4096) && 32 + pxBody opc n ≤ room &&
    (match opc with
      | 1 => w ≤ 2 ^ 24 && getLe b 36 12 = 0 && (brefOf b 48).isSome
      | 2 => bits w 20 11 = 0 && bits v 20 12 = 0 && getLe b 40 8 = 0 && (brefOf b 48).isSome
      | 3 => w ≤ 2 ^ 24 && bits v 20 11 = 0 && getLe b 40 8 = 0 && (v.testBit 31 || (brefOf b 48).isSome) && (List.range n).all (fun i => getLe b (64 + 4 * i) 4 < 2 ^ 20)
      | 4 => (List.range n).all (fun i =>
        getLe b (32 + 32 * i) 4 < 2 ^ 20 && getLe b (36 + 32 * i) 2 ≠ 0 && getLe b (38 + 32 * i) 1 < 2 && getLe b (39 + 32 * i) 9 = 0 &&
          (brefOf b (48 + 32 * i)).isSome)
      | _ => (List.range n).all (fun i => getLe b (32 + 4 * i) 4 < 2 ^ 20))

/-- The sequence ids that a command names (R133). -/
def pxIds (b : List Byte) : List Nat :=
  let n := getLe b 2 2
  let w := getLe b 32 4
  let v := getLe b 36 4
  match getLe b 0 1 with
  | 2 => [bits w 0 20, bits v 0 20]
  | 3 => (if v.testBit 31 then [bits v 0 20] else []) ++ (List.range n).map (fun i => getLe b (64 + 4 * i) 4)
  | 4 => (List.range n).map (fun i => getLe b (32 + 32 * i) 4)
  | 5 => (List.range n).map (fun i => getLe b (32 + 4 * i) 4)
  | _ => []

/-- What a command has done: items that took effect, RESULT and AUX. -/
structure PxDone where
  done : Nat
  result : Nat
  aux : Nat
  deriving DecidableEq, Repr

/-- Run items from the `i`-th on, until one fails or waits (R134): what one changed before it stopped is dropped.
(DEDUCED, log 27.) -/
def Pix.items (f : Pix → Nat → Pix × Nat) : Nat → Nat → Pix → PxDone → Pix × PxDone
  | 0, _, k, d => (k, d)
  | n + 1, i, k, d =>
    let (j, r) := f k i
    if j.on then Pix.items f n (i + 1) j { d with done := i + 1, result := d.result + r }
    else ({ j with x := k.x, pages := [], data := [] }, d)

/-- The body of a command whose arguments are in order (R135 to R139, R456), with the items already done.
(DEDUCED, log 27.) -/
def Pix.body (k : Pix) (b : List Byte) (d : PxDone) : Pix × PxDone :=
  let n := getLe b 2 2
  let w := getLe b 32 4
  let v := getLe b 36 4
  let none_ : Nat := 0xFFFFFFFF
  match getLe b 0 1 with
  | 1 =>
    let (k, r) := k.ref b 48 (4 * w) false
    let (k, t) := k.tokens r w
    let (m, e) := k.x.matchOf t
    (k, ⟨0, m, e.getD none_⟩)
  | 2 =>
    let (k, id) := k.insert b
    (k, ⟨0, if k.on then id else 0, 0⟩)
  | 3 =>
    let (k, m, e) : Pix × Nat × Option Nat :=
      if v.testBit 31 then
        let (k, q) := k.seq (bits v 0 20)
        (if k.on && !q.v then k.halt 4 else k, q.len, some (bits v 0 20))
      else
        let (k, r) := k.ref b 48 (4 * w) false
        let (k, t) := k.tokens r w
        let (m, e) := k.x.matchOf t
        (k, m, e)
    let (k, src) := match e with
      | some i => k.seq i
      | none => (k, ⟨0, false, false, []⟩)
    if !k.on then (k, d)
    else
      let (k, d) := Pix.items (fun k i => (k.forkItem (getLe b (64 + 4 * i) 4) m src, 0)) (n - d.done) d.done k d
      (k, { d with result := m, aux := e.getD none_ })
  | 4 => Pix.items (fun k i => (k.append (slice b (32 + 32 * i) 32), 0)) (n - d.done) d.done k d
  | _ => Pix.items (fun k i => k.releaseItem (getLe b (32 + 4 * i) 4)) (n - d.done) d.done k d

/-- The checks of a command before any item, then its body (R131 to R134). -/
def Pix.command (k : Pix) (b : List Byte) (opc room : Nat) (remote : Bool) (sp : BitVec 16) (d : PxDone) : Pix × PxDone :=
  if getLe b 0 1 ≠ opc || !pxArgsOk b room remote then (k.halt 1, d)
  else if !k.x.ready || k.x.space ≠ sp then (k.halt 2, d)
  else if (pxIds b).any (fun i => k.x.nseq ≤ i) then (k.halt 1, d)
  else k.body b d

/-- The status words of a command: bytes 16 to 31 (R132). -/
def pxTail (st : Nat) (d : PxDone) : List Byte :=
  bytesOf 2 st ++ [0, 0] ++ bytesOf 4 d.done ++ bytesOf 4 d.result ++ bytesOf 4 d.aux

/-- The status of a command that an engine's stop ends (R133). -/
def EngStop.pxStatus : EngStop → Nat
  | .ecc | .bounds | .window => 12
  | .killed | .wait => 13

/-- The queue of a port (R124). -/
def State.port (s : State) (d : Nat) : List Job := SMap.get [] s.pxq d
/-- Write the queue of a port. -/
def State.setPort (s : State) (d : Nat) (l : List Job) : State := { s with pxq := SMap.set [] s.pxq d l }

/-- The command the engine is at (R124): the one that has started, else the next in round-robin that waits for no
earlier job of its context (R280). -/
def State.pixNext (s : State) : Option (Nat × Job) :=
  let heads := ([0, 1, 2, 3].map (fun i => (s.pxNext + i) % 4)).filterMap (fun d => (s.port d).head?.map (fun j => (d, j)))
  match heads.find? (fun p => p.2.started) with
  | some p => some p
  | none => heads.find? (fun p => !s.jobWaits p.2)

/-- The engine's name for a command. -/
def pixRq (j : Job) : Requester := .pix (16 + j.id)

/-- A command is over: it leaves its port, and the turn passes on. -/
def State.pixPop (s : State) (d : Nat) (j : Job) : State :=
  { (s.clearWait (pixRq j)).setPort d ((s.port d).drop 1) with pxNext := (d + 1) % 4 }

/-- What stands for the pool of a command whose header has not been read (R125). -/
def noPool : Nat := 8

/-- Keep a command that waits, with its pool, if its header has been read, and what it has done (R134). -/
def State.pixHold (s : State) (d : Nat) (j : Job) (pool : Nat) (r : PxDone) (ts : Nat) : State :=
  s.setPort d ({ j with
    started := true
    pts := ts
    detail := BitVec.ofNat 16 pool
    pos := r.done
    result := [BitVec.ofNat 64 r.result, BitVec.ofNat 64 r.aux] } :: (s.port d).drop 1)

/-- What a command has done before it waited. -/
def Job.pxDone (j : Job) : PxDone :=
  ⟨j.pos, (j.result.getD 0 0).toNat, (j.result.getD 1 0).toNat⟩

/-- The OPC whose step serves a command: that of its instruction, or of a remote block's header; an OPC that is not
assigned is served as LOOKUP. -/
def Job.pxOpc (j : Job) : Nat :=
  match j.kind with
  | .px opc _ => opc
  | .pxRemote b _ _ => if 1 ≤ getLe b 0 1 && getLe b 0 1 ≤ 5 then getLe b 0 1 else 1
  | _ => 0

/-- The work on a command's block (R132 to R134). -/
def Eng.pixRun (e : Eng) (j : Job) (b : List Byte) (opc room : Nat) (remote : Bool) (sp : BitVec 16) : Pix × PxDone :=
  let n := getLe b 1 1 % 8
  let x := e.s.pool n
  (⟨{ e with sp := x.space }, n, x, [], [], none⟩ : Pix).command b opc room remote sp j.pxDone

/-- The status words of a local command are written at bytes 16 to 31 of its block, whatever stopped it (R133, R134).
(DEDUCED, log 27.) -/
def Eng.pixTail (e : Eng) (c : Cap) (bs : List Byte) : Eng :=
  let (e, d) := e.atCap c (c.off + 16) 16 true 3
  let e := e.touch d 16 true false 3
  if e.stop.isSome then e else e.write d bs 3

/-- A local command is over with a status: its status words are written and its flag posted. Where the block's translation
waits, the command stays for that alone; where it is killed or the block is gone, nothing is written (R86, R134).
(DEDUCED, log 27.) -/
def Eng.pixEnd (e : Eng) (d : Nat) (j : Job) (c : Cap) (pool st : Nat) (r : PxDone) : State :=
  let w := e.pixTail c (pxTail st r)
  if w.stop = some .wait then w.s.pixHold d { j with done := true, status := BitVec.ofNat 8 st } pool r w.pts
  else (w.s.pixPop d j).postJob { j with pts := w.pts }

/-- A local command runs (R124, R132, R431): its block is read, its items applied, its status written, its flag
posted. It waits where a translation fault of its is outstanding; once it is over it does nothing more. -/
def State.pixLocal (s : State) (d : Nat) (j : Job) (opc : Nat) (c : Cap) : State :=
  let e := s.engine (pixRq j) j.space j.pts
  if j.done then e.pixEnd d j c j.detail.toNat j.status.toNat j.pxDone else
  let (e, blk) := e.atCap c c.off 32 true 3
  let e := e.touch (blk + 16) 16 true false 3
  let (e, h) := e.readOk blk 32 3
  let pool := if e.stop.isNone then getLe h 1 1 % 8 else if j.started then j.detail.toNat else noPool
  let body := min (pxBody (getLe h 0 1) (getLe h 2 2)) (c.len - c.off.toNat - 32)
  let (e, _) := e.atCap c (c.off + 32) body false 3
  let (e, r) := if e.stop.isSome then (e, []) else e.readOk (blk + 32) body 3
  let b := h ++ r
  let (k, res) := if e.stop.isSome then ((⟨e, 0, s.pool 0, [], [], none⟩ : Pix), j.pxDone)
    else e.pixRun j b opc (c.len - c.off.toNat) false j.space
  let finish (e : Eng) (st : Nat) : State :=
    ({ e with s := e.s.clearWait (pixRq j), stop := none, sp := j.space } : Eng).pixEnd d j c pool st res
  match k.e.stop, k.fail with
  | some .wait, _ => k.e.s.pixHold d j pool res k.e.pts
  | some p, _ => finish k.e p.pxStatus
  | none, some st => finish k.e st
  | none, none => finish k.e 0

/-- A remote command runs (R142): its status returns to its source in C3. -/
def State.pixRemote (s : State) (d : Nat) (j : Job) (b : List Byte) (src : BitVec 24) (sp : BitVec 16) : State :=
  let e := s.engine (pixRq j) sp j.pts
  let (k, res) := if e.stop.isSome then ((⟨e, 0, s.pool 0, [], [], none⟩ : Pix), j.pxDone)
    else e.pixRun j b (getLe b 0 1) b.length true sp
  let finish (s : State) (ts st : Nat) : State := (s.pixPop d j).send
    { src := s.modnum ++ 0x401#12
      dst := src
      kind := .pxReply
      cls := 3
      tag := BitVec.ofNat 16 (getLe b 8 2)
      tw := 0
      data := wordsBytes [sp.toNat, ts] ++ pxTail st res }
  match k.e.stop, k.fail with
  | some .wait, _ => k.e.s.pixHold d j (getLe b 1 1 % 8) res k.e.pts
  | some p, _ => finish k.e.s k.e.pts p.pxStatus
  | none, some st => finish k.e.s k.e.pts st
  | none, none => finish k.e.s k.e.pts 0

/-- Serve the engine's next command where it is of one OPC (R124). (DEDUCED, log 27.) -/
def State.pixServe (s : State) (opc : Nat) : Out :=
  match s.pixNext with
  | none => .next s
  | some (d, j) =>
    if j.pxOpc ≠ opc then .next s
    else match j.kind with
      | .px _ c => .next (s.pixLocal d j opc c)
      | .pxRemote b src sp => .next (s.pixRemote d j b src sp)
      | _ => .next s

/-- LOOKUP (R135). -/
def execLookup (s : State) : Out := s.pixServe 1
/-- INSERT (R137). -/
def execInsert (s : State) : Out := s.pixServe 2
/-- FORK (R136). -/
def execFork (s : State) : Out := s.pixServe 3
/-- APPEND (R138). -/
def execAppend (s : State) : Out := s.pixServe 4
/-- RELEASE (R139). -/
def execRelease (s : State) : Out := s.pixServe 5

/-- The commands a port holds (R124). -/
def portDepth : Nat := 64

/-- PX_REMOTE_COMMAND (R142): the block joins port 0 where there is room beside the commands on their way to it (R124).
The tag carries the issuer's space. (DEDUCED, log 27.) -/
def execPxRemoteCommand (m : Msg) (s : State) : Out :=
  if m.kind ≠ .px then .next s
  else match s.takeMsg m with
    | none => .next s
    | some t =>
      if pointOf m.dst ≠ 0x401 then .next t
      else if portDepth ≤ t.pxHeld 0 then .next s
      else
        let (t, id) := t.newId
        let j : Job :=
          { id := id
            bseq := 0
            core := 0
            ctx := 0
            task := 0
            space := m.tag
            kind := .pxRemote (m.data.take 4096) m.src m.tag
            flag := none
            pend := none
            reads := []
            writes := []
            started := false
            pos := 0
            done := false
            status := 0
            detail := 0
            result := []
            pts := 0
            held := [] }
        .next (t.setPort 0 (t.port 0 ++ [j]))

/-- PX_REMOTE_REPLY_ARRIVE (R142): the flag named in the block is posted at the source endpoint. -/
def execPxRemoteReplyArrive (m : Msg) (s : State) : Out :=
  s.arrival m [.pxReply] isCore (fun s =>
    if m.tag.getLsbD 15 then s.postTo (pointOf m.dst) (m.tag.toNat % 32) 1 (BitVec.ofNat 16 (msgWord m 0)) (msgWord m 1) else s)

/-- Whether a command of a pool is queued or running; one whose header has not been read counts for every pool
(R125), and so does one that has taken its slot and still stands in a core's port (R421). -/
def State.poolBusy (s : State) (p : Nat) : Bool :=
  (s.coresWith (fun _ => true)).any (fun n => 0 < (s.core n).coming JobKind.isPx) ||
  (s.pxq.flatMap (fun q => q.2)).any (fun j => !j.started || j.detail.toNat = noPool || j.detail.toNat = p)

/-- PX_DISABLE (R125): a write of PXCFG that covers byte 0 and writes ENABLE as 0. -/
def execPxDisable (p : Nat) (v : Word) (s : State) : Out :=
  let x := s.pool p
  if 8 ≤ p || v.getLsbD 0 || !x.enabled || s.poolBusy p || x.initbusy || x.rqact then .next s
  else .next (s.setPool p { x with cfg := x.cfg &&& ~~~1#64, ready := false })

/-- Whether a pool's fields and objects are in order (R125, R126). -/
def State.poolOk (s : State) (x : PxPool) : Bool :=
  let rq := Requester.pix 0
  let obj (n need : Nat) : Bool := match s.rqObject rq x.space n with
    | some o => !o.tw && need ≤ o.len
    | none => false
  10 ≤ x.lpg && x.lpg ≤ 24 && 4 ≤ x.lsq && x.lsq ≤ 20 && 10 ≤ x.lnd && x.lnd ≤ 22 &&
    genOf x.space = SMap.get 0 s.spgen (sidOf x.space).toNat &&
    obj x.metaobj (8 * x.npages + 256 * x.nseq + 128 * x.nnodes + 16 * (x.npages + x.nspare)) &&
    obj x.poolobj ((x.npages + x.nspare) * x.slotb) && obj x.cbobj (x.nh * 2 ^ 18)

/-- PX_INIT (R126). -/
def execPxInit (p : Nat) (s : State) : Out :=
  let x := s.pool p
  if 8 ≤ p || !x.enabled || x.ready || x.initbusy || s.poolBusy p then .next s
  else if !s.poolOk x then .next (s.setPool p { x with cfgerr := true })
  else .next (s.setPool p { x with cfgerr := false, initbusy := true })

/-- PX_INIT_COMPLETE (R126): the entries are written as 0 and the pool is READY; a killed or fatal fault ends it. -/
def execPxInitComplete (p : Nat) (s : State) : Out :=
  let x := s.pool p
  if 8 ≤ p || !x.initbusy then .next s
  else
    let rq := Requester.pix p
    let e := s.engine rq x.space 0
    let n := x.seqAt x.nseq
    let (e, d) := (match e.object x.metaobj 3 with
      | (e, some o) => (e, o.base)
      | (e, none) => (e, 0))
    let e := e.touch d n true false 3
    let e := if e.stop.isSome then e else e.write d (List.replicate n 0) 3
    match e.stop with
    | some .wait => .next e.s
    | some _ => .next ((e.s.clearWait rq).setPool p { x with cfgerr := true, initbusy := false, ready := false })
    | none => .next ((e.s.clearWait rq).setPool p { x with
        initbusy := false
        ready := true
        stack := []
        fresh := 0
        slots := x.npages + x.nspare
        blocks := [(x.lpg, 0)]
        entries := []
        retire := []
        cb0 := 0
        cb1 := 0 })

/-- PX_REQUANT_START (R145). -/
def execPxRequantStart (p : Nat) (s : State) : Out :=
  let x := s.pool p
  if 8 ≤ p || !x.ready || x.rqact then .next s
  else .next (s.setPool p { x with rqact := true, rqpos := 0, rqtgt := x.tgt })

/-- The new slot of a page that is requantised: positions below FILL re-encoded, the others as they are (R145). -/
def Pix.requant (k : Pix) (p : Page) (slot tgt : Nat) : Pix :=
  k.x.groups.foldl (fun k (g : Nat × Nat × Nat) =>
    let (k, b) := k.read k.x.poolobj (p.slot * k.x.slotb + k.x.groupAt g) k.x.p
    let (k, c) := k.reencode p.cbg tgt g.1 g.2.1 g.2.2 (b.take p.fill)
    if k.on then k.put slot (k.x.groupAt g) (c ++ b.drop p.fill) else k) k

/-- PX_REQUANT_STEP (R145 to R147): the pass visits one page number. A page whose step a killed fault or a poisoned word
ends is passed over, and so is one whose entry names no slot of the pool (R127). (DEDUCED, log 27.) -/
def execPxRequantStep (p : Nat) (s : State) : Out :=
  let x := s.pool p
  let rq := Requester.pix (8 + p)
  if 8 ≤ p || !x.rqact || (s.pxq.flatMap (fun q => q.2)).any (fun j => j.started) then .next s
  else
    let pass (s : State) (x : PxPool) : State := (s.clearWait rq).setPool p
      (if x.npages ≤ x.rqpos + 1 then { x with rqact := false, rqpos := 0 } else { x with rqpos := x.rqpos + 1 })
    let tgt := x.rqtgt.toNat
    let k : Pix := ⟨s.engine rq x.space 0, p, x, [], [], none⟩
    let (k, b) := k.read x.metaobj (x.pageAt x.rqpos) 8
    let pg := pageOf (ofBytes b)
    if k.e.stop = some .wait then .next k.e.s
    else if k.e.stop.isSome || !pg.v || pg.cbg = tgt || x.slots ≤ pg.slot then .next (pass k.e.s x)
    else match x.popSlot with
      | none => .next (pass k.e.s x)
      | some (slot, y) =>
        let k := ({ k with x := y }).requant pg slot tgt
        let (k, m) := k.atObj x.metaobj (x.pageAt x.rqpos) 8
        let ws := k.data ++ [(m, bytesOf 8 { pg with slot := slot, cbg := tgt }.word)]
        let e := ws.foldl (fun e w => e.touch w.1 w.2.length true false 3) k.e
        match e.stop with
        | some .wait => .next e.s
        | some _ => .next (pass e.s x)
        | none =>
          let e := ws.foldl (fun e w => e.write w.1 w.2 3) e
          .next (pass e.s { (y.count pg.cbg false).count tgt true with retire := y.retire ++ [(pg.slot, s.tick)] })

/-- PX_RECLAIM (R148): retired slots swapped before T go onto the slot stack. -/
def execPxReclaim (p : Nat) (t : Word) (s : State) : Out :=
  let x := s.pool p
  if 8 ≤ p then .next s
  else
    let old := x.retire.filter (fun r => r.2 < t.toNat)
    .next (s.setPool p { x with
      stack := (old.map (·.1)).reverse ++ x.stack
      retire := x.retire.filter (fun r => t.toNat ≤ r.2) })

end Sys2Proof.Machine
end

