-- ==== Sys2Proof/Machine/TierEngine.lean ====
section
/-!
DEFINITION. The tiers of memory and the engines that demote pages from them (R113 to R120).
-/

namespace Sys2Proof.Machine

/-- A tier's engine. -/
def State.tier (s : State) (t : Nat) : Tier := SMap.get Tier.init s.tiers t
/-- Write a tier's engine. -/
def State.setTier (s : State) (t : Nat) (x : Tier) : State := { s with tiers := SMap.set Tier.init s.tiers t x }

/-- The first address of a tier, and its frames (R113). -/
def tierBase (t : Nat) : Nat := if t = 0 then 0x20000000000 else if t = 1 then 0 else 0x100000000000
@[inherit_doc tierBase] def tierFrames (t : Nat) : Nat := if t = 0 then 2 ^ 23 else if t = 1 then 2 ^ 24 else 2 ^ 27

/-- The destination of a tier's demotions (R114): a NEXT that names no lower tier counts as 0. -/
def Tier.dest (x : Tier) (t : Nat) : Nat := if x.next.toNat = 3 || t < x.next.toNat then x.next.toNat else 0
/-- HIGH as it counts (R114). -/
def Tier.top (x : Tier) : Nat := max x.high.toNat x.low.toNat

/-- The address of a place of the free-frame stack. -/
def Tier.stackAt (x : Tier) (i : Nat) : Nat := x.fsbase.toNat + 8 * i
/-- The address of a frame-table entry. -/
def Tier.tableAt (x : Tier) (i : Nat) : Nat := x.ftbase.toNat + 16 * i

/-- An engine that is to stop takes no new victim until it has cleared ACTIVE (R115). (DEDUCED, log 31.) -/
def Tier.mark (x : Tier) : Tier := if x.active && (x.top ≤ x.count.toNat || !x.enable) then { x with ending := true } else x

/-- Pop the top free frame of a tier (R114). -/
def State.popFrame (s : State) (t : Nat) : State × Option Nat :=
  let x := s.tier t
  if x.count = 0 then (s, none)
  else
    (s.setTier t { x with count := x.count - 1 }, some (s.word0 (x.stackAt (x.count.toNat - 1)) 8 / 65536 * 65536))

/-- Push a frame onto a tier's stack (R114): a full stack drops it with OVF, an address that is no frame of the
tier with BADPUSH. -/
def State.pushFrame (s : State) (t pa : Nat) : State :=
  let x := s.tier t
  if pa < tierBase t || tierBase t + tierFrames t * 65536 ≤ pa then s.setTier t { x with badpush := true }
  else if x.fscap ≤ x.count then s.setTier t { x with ovf := true }
  else (s.memPut 0 (x.stackAt x.count.toNat) (bytesOf 8 pa)).setTier t ({ x with count := x.count + 1 } : Tier).mark

/-- TIER_FRAME_POP (R114): what the read of TFPOP gives stands in `sysRead`. -/
def execTierFramePop (t : Nat) (s : State) : Out :=
  if 3 ≤ t then .next s
  else
    match s.popFrame t with
    | (s, some pa) => .next { s with sysRead := BitVec.ofNat 64 (pa / 65536 * 65536 + 1) }
    | (s, none) => .next { s with sysRead := 0 }

/-- TIER_FRAME_PUSH (R114). -/
def execTierFramePush (t : Nat) (v : Word) (s : State) : Out :=
  if 3 ≤ t then .next s else .next (s.pushFrame t (fld v 16 48 * 65536))

/-- Drop every cached translation of a page, by its leaf entry (R116, R117). -/
def State.dropLeaf (s : State) (pte : Nat) : State := { s with tlb := s.tlb.filter (fun e => e.leaf ≠ pte) }

/-- Whether any granule of a frame is tagged (R116, R120). -/
def State.frameTagged (s : State) (pa : Nat) : Bool := s.mem.tags.any (fun g => pa / 16 ≤ g.1 && g.1 < pa / 16 + 4096)

/-- The moves a tier engine has in flight at most (R115). -/
def maxMoves : Nat := 8

/-- ACTIVE as R115 has it. -/
def Tier.wake (x : Tier) (t : Nat) : Tier :=
  let x := x.mark
  if !x.active && x.enable && x.dest t ≠ 0 && x.count < x.low then { x with active := true, ending := false }
  else if x.active && x.ending && x.moves = [] && x.victim.isNone then { x with active := false, ending := false }
  else x

/-- Whether an entry is the level-3 leaf that maps a page of a space to a frame, as a walk finds it (R113, R116, R120).
(DEDUCED, log 31.) -/
def State.isLeaf (s : State) (sid : BitVec 12) (dva pte frame : Nat) : Bool :=
  match s.spaceRaw sid with
  | none => false
  | some (root, _, _) =>
    match (s.walkFrom dva false false 0 root 0 walkLevels).1 with
    | .leaf _ size pa _ _ _ at_ => size = 65536 && pa = frame && at_ = pte
    | _ => false

/-- The frame under the hand (R116): skipped, aged, or a victim. -/
def State.clockStep (s : State) (t : Nat) : State :=
  let x := s.tier t
  let frame := tierBase t + 65536 * x.hand
  let w0 := s.word0 (x.tableAt x.hand) 8
  let w1 := s.word0 (x.tableAt x.hand + 8) 8
  let s := s.setTier t { x with hand := (x.hand + 1) % tierFrames t }
  let x := s.tier t
  let pte := bits w0 3 45 * 8
  let e := s.word0 pte 8
  if w0 % 2 = 0 || bits w1 60 4 ≠ (SMap.get 0 s.spgen (bits w1 48 12)).toNat then s
  else if !s.isLeaf (BitVec.ofNat 12 (bits w1 48 12)) (bits w1 16 32 * 65536) pte frame || e.testBit 59 || e.testBit 7 then s
  else if e.testBit 5 then (s.memPut 0 pte (bytesOf 8 (e - 32))).dropLeaf pte
  else if x.dest t = 3 && s.frameTagged frame then s
  else s.setTier t { x with victim := some ⟨frame, none, pte, BitVec.ofNat 64 e, false⟩ }

/-- Whether a tier's engine waits for room in the storage-out ring (R119). (DEDUCED, log 31.) -/
def State.ringWait (s : State) (t : Nat) : Bool := s.so.full && (s.tier t).moves.any (fun m => m.drained && m.dst.isNone)

/-- TIER_CLOCK_STEP (R115, R116, R119). (DEDUCED, log 31.) -/
def execTierClockStep (t : Nat) (s : State) : Out :=
  if 3 ≤ t then .next s
  else
    let x := (s.tier t).wake t
    let s := s.setTier t x
    if s.ringWait t then .next (s.setTier t { x with stall := true })
    else if x.active && !x.ending && x.dest t ≠ 0 && x.victim.isNone && x.moves.length < maxMoves then
      .next (s.clockStep t)
    else .next s

/-- DEMOTION_START (R117, R119): a destination frame is popped, and M is set where the entry has not changed. -/
def execDemotionStart (t : Nat) (s : State) : Out :=
  let x := s.tier t
  if s.ringWait t then .next (s.setTier t { x with stall := true }) else
  match x.victim with
  | none => .next s
  | some v =>
    let go (s : State) (dst : Option Nat) : Out :=
      let x := s.tier t
      let x := { x with victim := none, stall := false }
      if s.word0 v.pte 8 ≠ v.ent.toNat then
        let s := s.setTier t x
        .next (match dst with
          | some d => s.pushFrame (x.dest t) d
          | none => s)
      else
        .next ((s.memPut 0 v.pte (bytesOf 8 (v.ent.toNat + 128))).setTier t { x with moves := x.moves ++ [{ v with dst := dst }] })
    match x.dest t with
    | 0 => .next (s.setTier t { x with victim := none })
    | 3 => go s none
    | n =>
      match s.popFrame n with
      | (s, some d) => go s (some d)
      | (s, none) => .next (s.setTier t { x with stall := true })

/-- DEMOTION_DRAIN (R117): the page's translations are dropped, and its lines leave the slices. No access is under way between two steps of the
model, so nothing holds the page. (DEDUCED, log 31.) -/
def execDemotionDrain (t : Nat) (s : State) : Out :=
  let x := s.tier t
  match x.moves.find? (fun m => !m.drained) with
  | none => .next s
  | some m =>
    let mark (n : Move) : Move := if n.pte = m.pte then { n with drained := true } else n
    .next (((s.dropLeaf m.pte).dropLines (fun l => l / 1024 = m.src / 65536)).setTier t { x with moves := x.moves.map mark })

/-- A sparse store with one range of keys replaced by what another store lists in a range of the same length. -/
def SMap.moveRange {V : Type} [DecidableEq V] (d : V) (from_ onto : SMap V) (src dst n : Nat) : SMap V :=
  let rest := onto.filter (fun e => !(dst ≤ e.1 && e.1 < dst + n))
  SMap.setAll d rest ((from_.filter (fun e => src ≤ e.1 && e.1 < src + n)).map (fun e => (dst + (e.1 - src), e.2)))

/-- The frame at `src` as its copy at `dst` holds it under a key index, with its tags and poison (R117, R121): a line
held under another index is copied as it reads under this one, and a line that nothing has written stays so. A
source that reads as poisoned gives a poisoned copy, and a write that is dropped leaves the destination (R94, R123).
(DEDUCED, log 31.) -/
def State.copyFrame (s : State) (key : BitVec 9) (src dst : Nat) : State :=
  if s.keys.empty key || s.cxlLost dst then s
  else
    let held := s.mem.lineKey.filter (fun e => src / 64 ≤ e.1 && e.1 < src / 64 + 1024)
    let m := (held.foldl (fun s e => s.rekey key e.1) s).mem
    let poison := if s.cxlLost src then (List.range 8192).map (fun i => (src / 8 + i, true)) else m.poison
    { s with mem := {
        bytes := SMap.moveRange freshByte m.bytes s.mem.bytes src dst 65536
        tags := SMap.moveRange false m.tags s.mem.tags (src / 16) (dst / 16) 4096
        poison := SMap.moveRange false poison s.mem.poison (src / 8) (dst / 8) 8192
        lineKey := SMap.moveRange none m.lineKey s.mem.lineKey (src / 64) (dst / 64) 1024
        ts := SMap.moveRange (0, 0) m.ts s.mem.ts (src / 64) (dst / 64) 1024 } }

/-- DEMOTION_FINISH (R117): the frame is copied, the leaf entry and the frame tables are rewritten, and the source
frame comes free. -/
def execDemotionFinish (t : Nat) (s : State) : Out :=
  let x := s.tier t
  match x.moves.find? (fun m => m.drained && m.dst.isSome) with
  | none => .next s
  | some m =>
    let dst := m.dst.getD 0
    let n := tierOf dst
    let s := s.copyFrame (keyOf m.ent) m.src dst
    let e := s.word0 m.pte 8
    let e := e - bits e 8 40 * 256 + dst - (if e.testBit 7 then 128 else 0) - (if e.testBit 5 then 32 else 0)
    let s := s.memPut 0 m.pte (bytesOf 8 e)
    let at_ := x.tableAt ((m.src - tierBase t) / 65536)
    let ent := s.memRead 0 at_ 16
    let s := s.memPut 0 ((s.tier n).tableAt ((dst - tierBase n) / 65536)) ent
    let s := s.memPut 0 at_ (bytesOf 16 0)
    let s := s.setTier t { x with moves := x.moves.filter (fun k => k.pte ≠ m.pte) }
    let s := s.pushFrame t m.src
    .next (s.setTier t ((s.tier t).wake t))

/-- STORAGE_OUT_RECORD (R119): the record is written once the ring has room. -/
def execStorageOutRecord (t : Nat) (s : State) : Out :=
  let x := s.tier t
  match x.moves.find? (fun m => m.drained && m.dst.isNone) with
  | none => .next s
  | some m =>
    if s.so.full then .next (s.setTier t { x with stall := true })
    else
      let w1 := s.word0 (x.tableAt ((m.src - tierBase t) / 65536) + 8) 8
      let b := bytesOf 8 m.src ++ bytesOf 8 m.pte ++ bytesOf 2 (bits w1 48 16) ++ bytesOf 2 (keyOf m.ent).toNat ++
        bytesOf 4 (bits w1 16 32) ++ bytesOf 8 s.tick
      let s := (s.memPut 0 (s.so.entry 32 s.so.tail) b).raise 3
      let s := { s with so := { s.so with tail := s.so.tail + 1 } }
      let x := { x with moves := x.moves.filter (fun k => k.pte ≠ m.pte), stall := false }
      .next (s.setTier t (x.wake t))

end Sys2Proof.Machine
end

