-- ==== Sys2Proof/Machine/Registers.lean ====
section
/-!
DEFINITION. The system cores' view of the device registers (R6, R38, R40 to R42, R57, R63, R68 to R78, R83, R92, R101,
R114, R119, R122, R125, R160), and REGISTER_WRITE.
-/

namespace Sys2Proof.Machine

/-- The base of the device ranges (R63). -/
def devBase : Nat := 0x30000000000

/-- A word from fields, each as a value and its lowest bit. -/
def packed (l : List (Nat × Nat)) : Word := BitVec.ofNat 64 ((l.map (fun p => p.1 * 2 ^ p.2)).foldl (· + ·) 0)

/-- The five registers of a ring by offset (R68, R70). -/
def Ring.reg (r : Ring) (o : Nat) : Word :=
  match o with
  | 0x00 => r.base
  | 0x08 => packed [(r.log2.toNat, 0)]
  | 0x10 => packed [(r.head.toNat, 0)]
  | 0x18 => packed [(r.tail.toNat, 0)]
  | 0x20 => packed [(r.cfgErr.toNat, 0), (r.overrun.toNat, 1)]
  | _ => 0

/-- The WD registers (R160). -/
def State.wdReg (s : State) (o : Nat) : Word :=
  match o with
  | 0x00 => packed [(s.wd.quant.toNat, 0)]
  | 0x08 => s.wd.swbase
  | 0x10 => packed [(s.wd.swcnt.toNat, 0)]
  | 0x18 => packed [(s.wd.deplost.toNat, 48), (s.wd.postdrop.toNat, 32), (s.tasks.length % 65536, 16), (s.wd.uncut.toNat, 8),
      (s.wd.swapped.toNat, 0)]
  | _ => 0

/-- A media ring's registers (R83). -/
def MediaRing.reg (r : MediaRing) (o : Nat) : Word :=
  match o with
  | 0x00 => r.base
  | 0x08 => packed [(r.log2.toNat, 0)]
  | 0x10 => packed [(r.head.toNat, 0)]
  | 0x18 => packed [(r.cfgErr.toNat, 0), (r.busy.toNat, 1)]
  | _ => 0

/-- A drive entry's registers (R92). -/
def Drive.reg (d : Drive) (o : Nat) : Word :=
  match o with
  | 0x00 => d.sq
  | 0x08 => d.cq
  | 0x10 => packed [(d.nsid.toNat, 32), (d.qdepth.toNat, 16), (d.lbash.toNat, 12), (d.port.toNat, 10), (d.dstrd.toNat, 4),
      (d.enable.toNat, 0)]
  | 0x18 => d.db
  | 0x20 => packed [(d.mdts.toNat, 0)]
  | 0x28 => packed [(d.errors.toNat, 32), (d.ctrlerr.toNat, 2), (d.timeout.toNat, 1), ((!d.cmds.isEmpty).toNat, 0)]
  | _ => 0

/-- The translation channel's registers (R72, R74). -/
def Channel.reg (c : Channel) (o : Nat) : Word :=
  match o with
  | 0x20 => packed [(c.errIdx.toNat, 16), (c.ring.overrun.toNat, 3), (c.spaceLive.toNat, 2), (c.cmdErr.toNat, 1), (c.ring.cfgErr.toNat, 0)]
  | 0x28 => c.mark
  | o => c.ring.reg o

/-- The key registers that can be read (R122). -/
def Keys.reg (k : Keys) (o : Nat) : Word :=
  match o with
  | 0x00 => packed [(k.sel.toNat, 0)]
  | 0x50 => packed [((SMap.get none k.slots k.sel.toNat).isNone.toNat, 2), (k.err.toNat, 1), (k.busy.toNat, 0)]
  | _ => 0

/-- A tier's registers (R114). TFPOP's read is a step of its own; a look at it here gives 0. -/
def Tier.reg (x : Tier) (o : Nat) : Word :=
  match o with
  | 0x00 => packed [(x.high.toNat, 32), (x.low.toNat, 0)]
  | 0x08 => x.fsbase
  | 0x10 => packed [(x.fscap.toNat, 0)]
  | 0x18 => packed [(x.count.toNat, 0)]
  | 0x30 => x.ftbase
  | 0x38 => packed [(x.active.toNat, 7), (x.stall.toNat, 6), (x.ovf.toNat, 5), (x.badpush.toNat, 4), (x.next.toNat, 1), (x.enable.toNat, 0)]
  | _ => 0

/-- A pool's registers (R125). -/
def PxPool.reg (x : PxPool) (o : Nat) : Word :=
  let live (n : Nat) : Nat := if x.slots = 0 then 0 else n
  match o with
  | 0x00 => x.cfg
  | 0x08 => x.obj
  | 0x10 => x.cb
  | 0x18 => packed [(x.tgt.toNat, 2)]
  | 0x28 => packed [(x.freePages, 39), (x.freeSlots, 14), (x.rqact.toNat, 3), (x.ready.toNat, 2), (x.initbusy.toNat, 1), (x.cfgerr.toNat, 0)]
  | 0x30 => packed [(x.cb1, 32), (x.cb0, 0)]
  | 0x38 => packed [(live x.tokFree, 32), (live x.nodeFree, 0)]
  | _ => 0

/-- The states of a link as LNKSTS shows them (R42). -/
def LinkState.code : LinkState → Nat
  | .down => 0
  | .training => 1
  | .up => 2

/-- A link's registers (R42). -/
def Link.reg (k : Link) (o : Nat) : Word :=
  match o with
  | 0x00 => packed [(k.zbadv.toNat, 2), (k.enable.toNat, 0)]
  | 0x08 => packed [(k.crcErr.toNat, 32), (k.stall.toNat, 24), (k.downCause.toNat, 20), (k.peerMod.toNat, 8), (k.peerZb.toNat, 7),
      (k.state.code, 0)]
  | _ => 0

/-- A collective group's entry (R57). -/
def CollGroup.reg (g : CollGroup) (o : Nat) : Word :=
  match o with
  | 0x00 => packed [(fld g.list 4 44, 4), (g.v.toNat, 0)]
  | 0x08 => packed [(g.loc.toNat, 13), (g.members.toNat, 0)]
  | _ => 0

/-- Sample `i` of the series that SEL names (R77): 0 where none has been taken. -/
def Oarov.sample (o : Oarov) (sel : BitVec 3) (i : Nat) : BitVec 32 :=
  if sel = 7 then 0 else (o.samples.getD ((o.newest.toNat + 1024 - i) % 1024) []).getD sel.toNat 0

/-- The Oarov controller's registers (R77, R78). -/
def State.ocReg (s : State) (o : Nat) : Word :=
  let c := s.oarov
  let bytes (m : SMap Byte) (at_ : Nat) : Word := BitVec.ofNat 64 (ofBytes ((List.range 8).map (fun i => SMap.get 0 m (at_ + i))))
  if o = 0 then packed [(c.failStage.toNat, 20), (c.failCheck.toNat, 16), (c.stage.toNat, 12), (c.recovery.toNat, 11),
    (s.freeze.isSome.toNat, 10), (c.alarm.toNat, 9), (c.level.toNat, 6)]
  else if o = 8 then packed [(c.limit, 0)]
  else if o = 0x10 then packed [(c.telsel.toNat, 0)]
  else if o = 0x18 then packed [(c.newest.toNat, 0)]
  else if 0x1000 ≤ o && o < 0x2000 then
    packed [((c.sample c.telsel ((o - 0x1000) / 4)).toNat, 0), ((c.sample c.telsel ((o - 0x1000) / 4 + 1)).toNat, 32)]
  else if 0x7F80 ≤ o && o < 0x7FC0 then bytes c.mbReq (o - 0x7F80)
  else if o = 0x7FF0 then packed [(c.mbSts.toNat, 0)]
  else if 0x8000 ≤ o && o < 0x10000 then bytes c.mbResp (o - 0x8000)
  else 0

/-- The 8-byte register at an aligned offset of the device ranges; 0 where none lies (R63).
(DESIGN CHOICE, log 18.) -/
def State.devReg (s : State) (o : Nat) : Word :=
  if o < 0x200 then (s.lqOf (o / 0x40)).reg (o % 0x40)
  else if o < 0x400 then s.cq.reg (o - 0x200)
  else if o < 0x600 then s.fq.reg (o - 0x400)
  else if o < 0x800 then s.wdReg (o - 0x600)
  else if o < 0x1000 then (s.mring ((o - 0x800) / 0x40)).reg (o % 0x40)
  else if o < 0x2000 then (s.drive ((o - 0x1000) / 0x40)).reg (o % 0x40)
  else if o < 0x10000 then 0
  else if o < 0x11000 then s.ch.reg (o - 0x10000)
  else if o < 0x12000 then packed ((List.range 8).map (fun i => ((SMap.get 0 s.spgen (o - 0x11000 + i)).toNat, 8 * i)))
  else if o < 0x13000 then (if o = 0x12000 then s.sptbase else 0)
  else if o < 0x14000 then s.keys.reg (o - 0x13000)
  else if o < 0x140C0 then (s.tier ((o - 0x14000) / 0x40)).reg (o % 0x40)
  else if o < 0x15000 then s.so.reg (o - 0x140C0)
  else if o < 0x15400 then (s.pool ((o - 0x15000) / 0x80)).reg (o % 0x80)
  else if o < 0x20000 then 0
  else if o < 0x24000 then packed [((SMap.get 0 s.routes ((o - 0x20000) / 4)).toNat, 0), ((SMap.get 0 s.routes ((o - 0x20000) / 4 + 1)).toNat, 32)]
  else if o < 0x25000 then (if o = 0x24000 then packed [(s.modnum.toNat, 0)] else 0)
  else if o < 0x25180 then (s.link ((o - 0x25000) / 0x10)).reg (o % 0x10)
  else if o < 0x30000 then 0
  else if o < 0x31000 then (s.cgroup ((o - 0x30000) / 0x10)).reg (o % 0x10)
  else if o < 0x40000 then 0
  else s.ocReg (o - 0x40000)

/-- A write to a register: the covered bits, and the written value in its place. -/
structure RegWrite where
  mask : Word
  val : Word
  deriving DecidableEq, Repr

/-- The value a register takes: covered bits as written. -/
def RegWrite.onto (w : RegWrite) (old : Word) : Word := old &&& ~~~w.mask ||| w.val &&& w.mask
/-- A bit that is written as 1. -/
def RegWrite.hit (w : RegWrite) (i : Nat) : Bool := w.mask.getLsbD i && w.val.getLsbD i
/-- Whether a bit's byte is covered. -/
def RegWrite.covers (w : RegWrite) (i : Nat) : Bool := w.mask.getLsbD i

/-- The state after an event. -/
def afterOf (o : Out) (s : State) : State :=
  match o with
  | .next t => t
  | _ => s

/-- A write to a ring that software produces into (R68), but for its status register. -/
def Ring.writeProduced (r : Ring) (o : Nat) (w : RegWrite) : Ring :=
  let v := w.onto (r.reg o)
  match o with
  | 0x00 => if r.head = r.tail then { r with base := v } else r
  | 0x08 => if r.head = r.tail then { r with log2 := v.extractLsb' 0 5 } else r
  | 0x18 => r.produce (v.setWidth 32)
  | _ => r

/-- A write to a ring that the device produces into (R70). -/
def Ring.writeConsumed (r : Ring) (o : Nat) (w : RegWrite) (low : Word) : Ring :=
  let v := w.onto (r.reg o)
  match o with
  | 0x00 => if r.head = r.tail then { r with base := v &&& ~~~low } else r
  | 0x08 => if r.head = r.tail then { r with log2 := v.extractLsb' 0 5 } else r
  | 0x10 => r.consume (v.setWidth 32)
  | 0x20 => if w.hit 1 then { r with overrun := false } else r
  | _ => r

/-- A write to a launch queue (R68). -/
def State.writeLq (s : State) (n o : Nat) (w : RegWrite) : State :=
  let r := s.lqOf n
  let r' := r.writeProduced o w
  let r' := if o = 0 then { r' with base := r'.base &&& ~~~63#64 } else r'
  let r' := if o = 0x20 && w.hit 1 then { r' with overrun := false } else r'
  { s with lq := SMap.set Ring.init s.lq n r' }

/-- Whether any gang is swapped or on its way out or in (R160): a gang on its way out is asked to stop, one on its way
in waits for its load blocks. -/
def State.swapping (s : State) : Bool :=
  s.tasks.any (fun t => t.state = .swapped ||
    (t.state = .running && (t.stopAt.isSome || t.cut.isSome || (t.place = .commit && t.filled))))

/-- A write to the WD registers (R160). -/
def State.writeWd (s : State) (o : Nat) (w : RegWrite) : State :=
  let v := w.onto (s.wdReg o)
  match o with
  | 0x00 => { s with wd := { s.wd with quant := v.setWidth 32 } }
  | 0x08 => if s.swapping then s else { s with wd := { s.wd with swbase := v &&& 0xFFFFFFF00000#64 } }
  | 0x10 => if s.swapping then s else { s with wd := { s.wd with swcnt := v.extractLsb' 0 13 } }
  | 0x18 => { s with wd := { s.wd with
      deplost := if (w.val &&& w.mask).extractLsb' 48 16 ≠ 0 then 0 else s.wd.deplost
      postdrop := if (w.val &&& w.mask).extractLsb' 32 16 ≠ 0 then 0 else s.wd.postdrop } }
  | _ => s

/-- A write to a media ring (R83). -/
def State.writeMedia (s : State) (n o : Nat) (w : RegWrite) : State :=
  let v := w.onto ((s.mring n).reg o)
  match o with
  | 0x00 => afterOf (execMediaRingConfigWrite n false v s) s
  | 0x08 => afterOf (execMediaRingConfigWrite n true v s) s
  | _ => s

/-- A write to a drive entry (R92). (PRESUMED, log 26.) -/
def State.writeDrive (s : State) (e o : Nat) (w : RegWrite) : State :=
  let d := s.drive e
  let v := w.onto (d.reg o)
  if o = 0x28 then s.setDrive e { d with ctrlerr := d.ctrlerr && !w.hit 2, timeout := d.timeout && !w.hit 1 }
  else if d.cmds ≠ [] then s
  else match o with
    | 0x00 => s.setDrive e { d with sq := v &&& ~~~4095#64, sqTail := 0 }
    | 0x08 => s.setDrive e { d with cq := v &&& ~~~4095#64, cqHead := 0 }
    | 0x10 => s.setDrive e { d with
        nsid := v.extractLsb' 32 32
        qdepth := v.extractLsb' 16 10
        lbash := v.extractLsb' 12 4
        port := v.extractLsb' 10 2
        dstrd := v.extractLsb' 4 4
        enable := v.getLsbD 0 }
    | 0x18 => s.setDrive e { d with db := v &&& ~~~3#64 }
    | 0x20 => s.setDrive e { d with mdts := v.extractLsb' 0 8 }
    | _ => s

/-- A write to the translation channel (R72, R74). -/
def State.writeChannel (s : State) (o : Nat) (w : RegWrite) : State :=
  if o = 0x20 then
    { s with ch := { s.ch with
        ring := if w.hit 3 then { s.ch.ring with overrun := false } else s.ch.ring
        spaceLive := s.ch.spaceLive && !w.hit 2
        cmdErr := s.ch.cmdErr && !w.hit 1 } }
  else
    let r := s.ch.ring.writeProduced o w
    { s with ch := { s.ch with ring := if o = 0 then { r with base := r.base &&& ~~~63#64 } else r } }

/-- A write to the key registers (R122). -/
def State.writeKeys (s : State) (o : Nat) (w : RegWrite) : State :=
  if o = 0x50 then (if w.hit 1 then { s with keys := { s.keys with err := false } } else s)
  else if s.keys.busy then s
  else if o = 0 then { s with keys := { s.keys with sel := (w.onto (s.keys.reg 0)).extractLsb' 0 9 } }
  else if 8 ≤ o && o < 0x48 then
    { s with keys := { s.keys with data := SMap.set 0 s.keys.data (o / 8 - 1) (w.onto (SMap.get 0 s.keys.data (o / 8 - 1))) } }
  else if o = 0x48 then
    let c := w.val &&& w.mask
    if c = 1 then s.keyCommand true
    else if c = 2 then s.keyCommand false
    else { s with keys := { s.keys with err := true } }
  else s

/-- A write to a tier's registers (R114). -/
def State.writeTier (s : State) (t o : Nat) (w : RegWrite) : State :=
  let x := s.tier t
  let v := w.onto (x.reg o)
  match o with
  | 0x00 => s.setTier t ({ x with high := v.extractLsb' 32 32, low := v.setWidth 32 } : Tier).mark
  | 0x08 => if x.active then s else s.setTier t { x with fsbase := v &&& 0xFFFFFFFFFFF8#64 }
  | 0x10 => if x.active then s else s.setTier t { x with fscap := v.setWidth 32 }
  | 0x28 => s.pushFrame t (fld (w.val &&& w.mask) 16 48 * 65536)
  | 0x30 => if x.active then s else s.setTier t { x with ftbase := v &&& 0xFFFFFFFFFFF0#64 }
  | 0x38 => s.setTier t ({ x with
      ovf := x.ovf && !w.hit 5
      badpush := x.badpush && !w.hit 4
      next := if x.active then x.next else v.extractLsb' 1 2
      enable := v.getLsbD 0 } : Tier).mark
  | _ => s

/-- A write to a pool's registers (R125, R126, R145, R148). -/
def State.writePool (s : State) (p o : Nat) (w : RegWrite) : State :=
  let x := s.pool p
  let v := w.onto (x.reg o)
  let free : Bool := !x.enabled
  match o with
  | 0x00 => if free then s.setPool p { x with cfg := v &&& ~~~0xFFFF0000001E#64 }
      else if w.covers 0 && !w.val.getLsbD 0 then afterOf (execPxDisable p w.val s) s else s
  | 0x08 => if free then s.setPool p { x with obj := v &&& 0xFFFFFFFFFFFF#64 } else s
  | 0x10 => if free then s.setPool p { x with cb := v &&& 0xFFFFFF00FFFFFF#64 } else s
  | 0x18 =>
    let s := s.setPool p { x with tgt := v.getLsbD 2 }
    let s := if w.hit 1 then afterOf (execPxRequantStart p s) s else s
    if w.hit 0 then afterOf (execPxInit p s) s else s
  | 0x20 => afterOf (execPxReclaim p (w.val &&& w.mask) s) s
  | _ => s

/-- A write to two entries of the route table (R38, R41). -/
def State.writeRoutes (s : State) (m : Nat) (w : RegWrite) : State :=
  let one (s : State) (m lo : Nat) : State :=
    if w.covers lo || w.covers (lo + 8) || w.covers (lo + 16) || w.covers (lo + 24) then
      let old := SMap.get 0 s.routes m
      let v := (old &&& ~~~w.mask.extractLsb' lo 32 ||| w.val.extractLsb' lo 32 &&& w.mask.extractLsb' lo 32) &&& 0x1FFFFFF#32
      { s with routes := SMap.set 0 s.routes m v }
    else s
  one (one s m 0) (m + 1) 32

/-- A write to a link's registers (R42, R43). -/
def State.writeLink (s : State) (l o : Nat) (w : RegWrite) : State :=
  let k := s.link l
  if o = 8 then (if w.hit 24 then s.setLink l { k with stall := false } else s)
  else if o ≠ 0 || !w.covers 0 then s
  else
    let s := s.setLink l { k with zbadv := w.val.getLsbD 2 }
    if !w.val.getLsbD 0 then afterOf (execLinkDisable l s) s
    else
      let s := s.setLink l { s.link l with enable := true }
      if w.val.getLsbD 1 then afterOf (execLinkRetrain l s) s else s

/-- A write to a collective group's entry (R57): ignored while a job of the group is live here. -/
def State.writeGroup (s : State) (g o : Nat) (w : RegWrite) : State :=
  let e := s.cgroup g
  let v := w.onto (e.reg o)
  if (s.collRun g).isSome || s.collJobs g ≠ [] then s
  else match o with
    | 0x00 => s.setCgroup g { e with
        list := v &&& 0xFFFFFFFFFFF0#64
        v := v.getLsbD 0
        lastSeq := if v.getLsbD 0 then e.lastSeq else none }
    | 0x08 => s.setCgroup g { e with loc := v.extractLsb' 13 11, members := v.extractLsb' 0 13 }
    | _ => s

/-- MBCMD (R78): 1 asks for an attestation; another command is bad; a write while one is busy is ignored. -/
def State.mailCommand (s : State) (v : Word) : State :=
  if s.oarov.mbSts = 1 then s
  else if v = 1 then { s with oarov := { s.oarov with mbSts := 1 } }
  else { s with oarov := { s.oarov with mbSts := 4 } }.raise 4

/-- MBCMD_ATTESTATION (R78). -/
def execMbcmdAttestation (v : Word) (s : State) : Out := .next (s.mailCommand v)

/-- The bytes that a write brings to a byte array, from an offset on. -/
def RegWrite.bytesAt (w : RegWrite) (o : Nat) : List (Nat × Byte) :=
  ((List.range 8).filter (fun i => w.covers (8 * i))).map (fun i => (o + i, w.val.extractLsb' (8 * i) 8))

/-- A write to the Oarov controller's range (R77, R78): OCTELSEL and the mailbox, its request and its response area and
MBCMD, alone take it. (DEDUCED, log 15.) -/
def State.writeOc (s : State) (o : Nat) (w : RegWrite) : State :=
  if o = 0x10 then (if w.covers 0 then { s with oarov := { s.oarov with telsel := w.val.extractLsb' 0 3 } } else s)
  else if 0x7F80 ≤ o && o < 0x7FC0 then { s with oarov := { s.oarov with mbReq := SMap.setAll 0 s.oarov.mbReq (w.bytesAt (o - 0x7F80)) } }
  else if 0x8000 ≤ o && o < 0x10000 then { s with oarov := { s.oarov with mbResp := SMap.setAll 0 s.oarov.mbResp (w.bytesAt (o - 0x8000)) } }
  else if o = 0x7FF8 then s.mailCommand (w.val &&& w.mask)
  else s

/-- A write to the 8-byte register at an aligned offset of the device ranges; ignored where none lies (R63).
(DESIGN CHOICE, log 18.) -/
def State.devWrite (s : State) (o : Nat) (w : RegWrite) : State :=
  if o < 0x200 then s.writeLq (o / 0x40) (o % 0x40) w
  else if o < 0x400 then { s with cq := s.cq.writeConsumed (o - 0x200) w 63 }
  else if o < 0x600 then { s with fq := s.fq.writeConsumed (o - 0x400) w 63 }
  else if o < 0x800 then s.writeWd (o - 0x600) w
  else if o < 0x1000 then s.writeMedia ((o - 0x800) / 0x40) (o % 0x40) w
  else if o < 0x2000 then s.writeDrive ((o - 0x1000) / 0x40) (o % 0x40) w
  else if o < 0x10000 then s
  else if o < 0x11000 then s.writeChannel (o - 0x10000) w
  else if o = 0x12000 then
    (if s.tasks ≠ [] || s.outFaults ≠ [] then s else { s with sptbase := w.onto s.sptbase &&& 0xFFFFFFFE0000#64 })
  else if o < 0x13000 then s
  else if o < 0x14000 then s.writeKeys (o - 0x13000) w
  else if o < 0x140C0 then s.writeTier ((o - 0x14000) / 0x40) (o % 0x40) w
  else if o < 0x15000 then { s with so := s.so.writeConsumed (o - 0x140C0) w 63 }
  else if o < 0x15400 then s.writePool ((o - 0x15000) / 0x80) (o % 0x80) w
  else if o < 0x20000 then s
  else if o < 0x24000 then s.writeRoutes ((o - 0x20000) / 4) w
  else if o = 0x24000 then
    (if s.links.any (fun l => l.2.state ≠ .down) then s
     else { s with modnum := (w.onto (packed [(s.modnum.toNat, 0)])).extractLsb' 0 12 })
  else if o < 0x25000 then s
  else if o < 0x25180 then s.writeLink ((o - 0x25000) / 0x10) (o % 0x10) w
  else if o < 0x30000 then s
  else if o < 0x31000 then s.writeGroup ((o - 0x30000) / 0x10) (o % 0x10) w
  else if o < 0x40000 then s
  else s.writeOc (o - 0x40000) w

/-- REGISTER_WRITE (R6, R63): a store of a system core. Memory takes it under key index 0 (R121); a device register as
its access says; a device store that is not naturally aligned has no effect; outside the ranges of R63 the
system core takes an access fault. (DESIGN CHOICE, log 18.) -/
def execRegisterWrite (addr : Nat) (width : Nat) (v : Word) (s : State) : Out :=
  if isMemory addr width then
    .next (s.memPut 0 addr (bytesOf width v.toNat))
  else if addr < devBase || devBase + 0x50000 ≤ addr then .fault (.systemAccess addr)
  else if !(width = 1 || width = 2 || width = 4 || width = 8) || addr % width ≠ 0 then .next s
  else
    let lo := 8 * (addr % 8)
    let mask : Word := BitVec.ofNat 64 ((2 ^ (8 * width) - 1) * 2 ^ lo)
    .next (s.devWrite ((addr - devBase) / 8 * 8) ⟨mask, v <<< lo⟩)

/-- A load of a system core (R63): its value stands in `sysRead`. Memory is read under key index 0 (R121), with the order of
a load (R273); a device register gives its bytes, and the read of TFPOP pops a frame (R114); outside the ranges of
R63 the system core takes an access fault. What a poisoned word reads as to a system core, and a device load that is
not naturally aligned, the manual does not say: a free value. (DESIGN CHOICE, log 18.) -/
def State.systemLoad (addr width : Nat) (s : State) : Out :=
  let open_ (s : State) : State := { s with sysRead := BitVec.ofNat 64 (Config.freeNat s.fresh), fresh := s.fresh + 1 }
  if isMemory addr width then
    let t := { s with mem := (s.mem.stampAll Memory.loadAt 0 (linesOf addr width)).1 }
    if (s.poisonAt 0 addr width).isSome then .next (open_ t)
    else .next { t with sysRead := BitVec.ofNat 64 (ofBytes (s.memRead 0 addr width)) }
  else if addr < devBase || devBase + 0x50000 ≤ addr then .fault (.systemAccess addr)
  else if !(width = 1 || width = 2 || width = 4 || width = 8) || addr % width ≠ 0 then .next (open_ s)
  else
    let o := (addr - devBase) / 8 * 8
    let s := if 0x14000 ≤ o && o < 0x140C0 && o % 0x40 = 0x20 then afterOf (execTierFramePop ((o - 0x14000) / 0x40) s) s
      else { s with sysRead := s.devReg o }
    .next { s with sysRead := BitVec.ofNat 64 (fld s.sysRead (8 * (addr % 8)) (8 * width)) }

end Sys2Proof.Machine
end

