-- ==== Sys2Proof/Machine/Management.lean ====
section
/-!
DEFINITION. The Oarov controller (R15 to R19, R21 to R32, R77 to R80): reset and the boot chain, power and throttling,
scrubbing, the freeze and its read-out, attestation, and the management port.
-/

namespace Sys2Proof

/-- A manifest's signed bytes (R28). (DESIGN CHOICE, log 10.) -/
def Manifest.body (m : Manifest) : List Byte := Config.manifestBytes m.digests m.sv m.nextKey m.cmdKey

/-- The sequence number in a request's header (R79). -/
def MgmtReq.seq (q : MgmtReq) : Word := BitVec.ofNat 64 (Machine.getLe q.bytes 4 8)

/-- Whether a request has the header of R79 over the body of a command with given arguments: version 1, the command, the
body's length, the sequence number, zeros. (DESIGN CHOICE, log 16.) -/
def MgmtReq.carries (q : MgmtReq) (command : Nat) (args : List (List Byte)) : Bool :=
  let body := Config.mgmtBody command args
  q.bytes = [1, Config.mgmtCode command] ++ Machine.bytesOf 2 body.length ++ Machine.bytesOf 8 q.seq.toNat ++ Machine.bytesOf 4 0 ++ body

/-- The arguments of an image replacement (R30). (DESIGN CHOICE, log 16.) -/
def Manifest.args (m : Manifest) (stage : Nat) : List (List Byte) :=
  [Machine.bytesOf 1 stage, m.key, m.body, m.sig] ++ m.images

end Sys2Proof

namespace Sys2Proof.Machine

/-- Whether a signature of 29,792 bytes under a public key of 64 bytes verifies (R28). -/
def signedBy (key body sig : List Byte) : Bool := key.length = 64 && sig.length = 29792 && Config.slhVerify key body sig

/-- The fused speed table as bytes (R18). -/
def speedBytes : List Byte := (List.range 1024).flatMap (fun i => bytesOf 2 (Config.speedEntry i).toNat)

/-- The check that the speed table fails, or 0 (R18, R77). -/
def speedCheck : BitVec 4 :=
  if sha256 speedBytes ≠ Config.speedDigest then 7
  else if (List.range 1024).any (fun i => 70 < (Config.speedEntry i).toNat) then 8
  else 0

/-- Recovery mode with its failing stage and check (R30, R77). -/
def Oarov.fail (o : Oarov) (stage check : BitVec 4) : Oarov :=
  { o with recovery := true, failStage := stage, failCheck := check }

/-- MODULE_RESET (R18, R26): every register at its reset value. Memory's contents, the fuses, the enrolled loader key
and the command key stay, as does what is the model's own. (DESIGN CHOICE, log 9.) -/
def execModuleReset (s : State) : Out :=
  let r := State.reset
  let o : Oarov := { r.oarov with loaderKey := s.oarov.loaderKey, cmdKey := s.oarov.cmdKey }
  .next { r with
    sched := s.sched
    fresh := s.fresh
    ids := s.ids
    mem := { s.mem with ts := [] }
    keys := { r.keys with last := s.keys.last }
    thermo := s.thermo
    mgmtOut := s.mgmtOut
    doorbells := s.doorbells
    oarov := o }

/-- The count T of the thermometer field; a field with a gap counts as 64 (R29). -/
def thermoCount (t : BitVec 64) : Nat :=
  let n := ((List.range 64).filter (fun i => t.getLsbD i)).length
  if t.toNat = 2 ^ n - 1 then n else 64

/-- The check of a stage's manifest that fails first, or 0 (R28, R29, R77). (DESIGN CHOICE, log 10.) -/
def State.bootCheck (s : State) (stage : Nat) (m : Manifest) : BitVec 4 :=
  let h := sha256 m.key
  let roots := (List.range 4).filter (fun i => Config.rootDigest i = h)
  let signer : Bool := match stage with
    | 1 => !roots.isEmpty
    | 2 => m.key = s.oarov.nextKey
    | _ => m.key = s.oarov.loaderKey
  if !m.readable then 1
  else if !signer then 2
  else if stage = 1 && roots.all (fun i => Config.revoked.getLsbD i) then 3
  else if !signedBy m.key m.body m.sig then 4
  else if stage = 1 && m.sv.toNat < thermoCount s.thermo then 5
  else if m.images.map sha256 ≠ m.digests then 6
  else 0

/-- The thermometer fuses after a stage whose manifest has security version `sv` (R29): the stage may blow further fuses in
order, up to min(SV, 64) and never above; how many, the draw says. (DESIGN CHOICE, log 10.) -/
def raiseThermo (sv draw : Nat) (t : BitVec 64) : BitVec 64 :=
  let n := thermoCount t
  if min sv 64 ≤ n then t else BitVec.ofNat 64 (2 ^ (n + draw % (min sv 64 - n + 1)) - 1)

/-- A stage runs (R28, R29, R123): it may raise the thermometer; the first gives the command key and loads key slot 0; the
last releases the dies. (DESIGN CHOICE, log 10.) -/
def State.runStage (s : State) (stage : Nat) (m : Manifest) : State :=
  let o := s.oarov
  let s := { s with oarov := { o with
    stage := BitVec.ofNat 4 stage
    recovery := false
    failStage := 0
    failCheck := 0
    nextKey := m.nextKey
    manifests := o.manifests ++ [sha256 m.body]
    runSv := m.sv
    cmdKey := if stage = 1 then m.cmdKey else o.cmdKey
    released := stage = 3 } }
  let s := { s with
    thermo := raiseThermo m.sv.toNat (Config.freeNat s.fresh) s.thermo
    fresh := s.fresh + 1 }
  if stage = 1 then
    let k := Config.freshKey s.fresh
    { s.installKey 0 ⟨k.extractLsb' 256 256, k.extractLsb' 0 256⟩ with fresh := s.fresh + 1 }
  else s

/-- The checks of a stage, and the stage or recovery mode (R28, R30). -/
def State.tryStage (s : State) (stage : Nat) (m : Manifest) : State :=
  let c := s.bootCheck stage m
  if c = 0 then s.runStage stage m else { s with oarov := s.oarov.fail (BitVec.ofNat 4 stage) c }

/-- BOOT_STAGE (R18, R28 to R31): the stage after the last one verified; before the first, the speed table is checked.
(DESIGN CHOICE, log 10.) -/
def execBootStage (m : Manifest) (s : State) : Out :=
  if s.oarov.recovery || 3 ≤ s.oarov.stage.toNat then .next s
  else if s.oarov.stage = 0 && speedCheck ≠ 0 then .next { s with oarov := s.oarov.fail 4 speedCheck }
  else .next (s.tryStage (s.oarov.stage.toNat + 1) m)

/-- Ten samples' power of every domain together, in milliwatts, once ten have been taken (R16, R17).
(DEDUCED, log 14.) -/
def Oarov.sum10 (o : Oarov) : Option Nat :=
  if o.samples.length < 10 then none
  else some (((o.samples.take 10).flatMap (fun l => (l.take 6).map BitVec.toNat)).foldl (· + ·) 0)

/-- Whether the 10 ms average exceeds the limit (R17). -/
def Oarov.over (o : Oarov) : Bool := match o.sum10 with
  | some n => 10000 * o.limit < n
  | none => false
/-- Whether the 10 ms average is below 95 % of the limit (R17). -/
def Oarov.below (o : Oarov) : Bool := match o.sum10 with
  | some n => 100 * n < 95 * (10000 * o.limit)
  | none => false

/-- POWER_SAMPLE (R16, R77): the domains of R15 and the highest die temperature. (DEDUCED, log 14.) -/
def execPowerSample (mw : Vector (BitVec 32) 6) (temp : BitVec 32) (s : State) : Out :=
  let o := s.oarov
  let o := { o with
    samples := ((mw.toList ++ [temp]) :: o.samples).take 1024
    newest := if o.samples.isEmpty then 0 else o.newest + 1 }
  .next { s with oarov := { o with
    overFor := if o.over && o.level = 7 then o.overFor + 1 else 0
    belowFor := if o.below then o.belowFor + 1 else 0 } }

/-- The ticks of 10 ms, and the samples of 100 ms (R10, R16). -/
def tenMs : Nat := 10000 * usTicks
def hundredSamples : Nat := 100

/-- THROTTLE_RAISE (R17). (DEDUCED, log 14.) -/
def execThrottleRaise (s : State) : Out :=
  let o := s.oarov
  if o.over && o.level ≠ 7 && o.lastRaise + tenMs ≤ s.tick then
    .next { s with oarov := { o with level := o.level + 1, lastRaise := s.tick } }
  else .next s

/-- THROTTLE_LOWER (R17). (DEDUCED, log 14.) -/
def execThrottleLower (s : State) : Out :=
  let o := s.oarov
  if o.below && hundredSamples ≤ o.belowFor && o.level ≠ 0 then
    .next { s with oarov := { o with level := o.level - 1, belowFor := 0 } }
  else .next s

/-- POWER_ALARM (R17). -/
def execPowerAlarm (s : State) : Out :=
  let o := s.oarov
  if o.over && hundredSamples ≤ o.overFor && o.level = 7 then .next { s with oarov := { o with alarm := true } } else .next s

/-- CORE_FREQUENCY_CHANGE (R19, R20). -/
def execCoreFrequencyChange (core : Nat) (s : State) : Out :=
  .next (s.modCore core (fun c => { c with lvl := s.oarov.level }))

/-- The freeze (R24, R25): the first cause alone is recorded, and each link that is up sends a freeze notice, whose one byte
is the cause. (DESIGN CHOICE, log 20.) -/
def State.assertFreeze (s : State) (cause : BitVec 8) : State :=
  if s.freeze.isSome then s
  else
    { s with
      freeze := some ⟨cause, s.tick⟩
      links := s.links.map (fun l => if l.2.state = .up then (l.1, l.2.control 2 [cause]) else l) }

/-- A correctable error of a die's structures: corrected, and counted (R21). -/
def State.corrected (s : State) (die : Nat) : State :=
  { s with eccCount := SMap.set 0 s.eccCount die (SMap.get 0 s.eccCount die + 1) }

/-- Drop an entry of a translation structure, for the next use to walk again (R22). -/
def State.dropEntry (s : State) (table n : Nat) : State :=
  match table with
  | 0 => { s with tlb := s.tlb.eraseIdx n }
  | 1 => { s with walkCache := s.walkCache.eraseIdx n }
  | 2 => { s with spaceCache := s.spaceCache.eraseIdx n }
  | _ => { s with objCache := s.objCache.eraseIdx n }

/-- The register classes by number. -/
def clsOf (n : Nat) : Cls := [Cls.s, .a, .v, .x, .t, .d, .p, .m].getD n .k

/-- PATROL_SCRUB (R21 to R23): what the protection of the arrays finds, in one memory word or elsewhere.
(DEDUCED, log 13.) -/
def execPatrolScrub (pa : Nat) (e : EccFinding) (s : State) : Out :=
  match e with
  | .clean => .next s
  | .sharedStructure => .next (s.assertFreeze 4)
  | .correctable =>
    if isMemory pa 1 then .next (s.corrected (homeSlice (pa / 64) / 256)) else .next s
  | .uncorrectable =>
    if isMemory pa 1 then .next { s with mem := { s.mem with poison := SMap.set false s.mem.poison (pa / 8) true } }
    else .next s
  | .corrected die => if die < 5 then .next (s.corrected die) else .next s
  | .register core ctx cls n => .next (s.modCtx core ctx (fun x => { x with ecc := (clsOf cls, n) :: x.ecc }))
  | .row core n => .next (s.modCore core (fun c => { c with eccRows := n :: c.eccRows }))
  | .entry core n => .next (s.modCore core (fun c => { c with eccAcm := n :: c.eccAcm }))
  | .translation table n => .next (s.dropEntry table n)

/-- FREEZE_PIN (R24). -/
def execFreezePin (s : State) : Out := .next (s.assertFreeze 1)
/-- THERMAL_TRIP (R24), on one of the four compute dies or the I/O die. -/
def execThermalTrip (_die : Nat) (s : State) : Out := .next (s.assertFreeze 3)
/-- OAROV_FIRMWARE_FAULT (R24). -/
def execOarovFirmwareFault (s : State) : Out := .next (s.assertFreeze 5)

/-- An answer of the management port. (DESIGN CHOICE, log 16.) -/
def State.reply (s : State) (r : MgmtReply) : State := { s with mgmtOut := s.mgmtOut ++ [r] }

/-- A signed command (R79, R80): one with a bad signature or an old sequence number is refused with AUTH and changes
nothing. A request whose header or body is not that of the command is no request for it. (DESIGN CHOICE, log 16.) -/
def State.signed (s : State) (q : MgmtReq) (command : Nat) (args : List (List Byte)) (run : State → State) : State :=
  let newer : Bool := match s.oarov.lastSeq with
    | some n => n < q.seq
    | none => true
  if !q.carries command args then s
  else if newer && signedBy s.oarov.cmdKey q.bytes q.sig then
    run { s with oarov := { s.oarov with lastSeq := some q.seq } }
  else s.reply .auth

/-- MGMT_FREEZE (R24, R80). -/
def execMgmtFreeze (q : MgmtReq) (s : State) : Out := .next (s.signed q 0 [] (fun s => (s.assertFreeze 2).reply .ok))

/-- MGMT_POWER_LIMIT (R17, R80). -/
def execMgmtPowerLimit (q : MgmtReq) (watts : Nat) (s : State) : Out := .next (s.signed q 2 [bytesOf 4 watts] (fun s =>
  if 1200 ≤ watts && watts ≤ 2400 then { s with oarov := { s.oarov with limit := watts } }.reply .ok else s.reply .refused))

/-- MGMT_IMAGE_REPLACEMENT (R26, R30, R80): in recovery mode, unless the module is frozen, the failing stage is checked
again with its replacement. (DESIGN CHOICE, log 16.) -/
def execMgmtImageReplacement (q : MgmtReq) (stage : Nat) (m : Manifest) (s : State) : Out := .next (s.signed q 3 (m.args stage) (fun s =>
  if !s.oarov.recovery || s.freeze.isSome then s.reply .refused
  else if stage = s.oarov.failStage.toNat && 1 ≤ stage && stage ≤ 3 then (s.tryStage stage m).reply .ok
  else s.reply .ok))

/-- MGMT_LOADER_KEY_ENROL (R28, R80). -/
def execMgmtLoaderKeyEnrol (q : MgmtReq) (key : List Byte) (s : State) : Out := .next (s.signed q 4 [key] (fun s =>
  { s with oarov := { s.oarov with loaderKey := key } }.reply .ok))

/-- A command that needs no signature (R79, R80). A request whose header or body is not that of the command is no request
for it. (DESIGN CHOICE, log 16.) -/
def State.unsigned (s : State) (q : MgmtReq) (command : Nat) (args : List (List Byte)) (r : MgmtReply) : State :=
  if q.carries command args then s.reply r else s

/-- MGMT_REGISTER_READ (R77). -/
def execMgmtRegisterRead (off : Nat) (s : State) (q : MgmtReq := ⟨[], []⟩) : Out :=
  .next (s.unsigned q 5 [bytesOf 8 off] (.reg (s.ocReg off)))

/-- MGMT_TELEMETRY_READ (R16, R21, R77): the sample window of a series, and the corrected errors of the five dies.
(DEDUCED, log 13.) -/
def execMgmtTelemetryRead (sel : BitVec 3) (s : State) (q : MgmtReq := ⟨[], []⟩) : Out :=
  .next (s.unsigned q 6 [bytesOf 1 sel.toNat]
    (.telemetry ((List.range 1024).map (s.oarov.sample sel)) ((List.range 5).map (SMap.get 0 s.eccCount))))

/-- MGMT_CERTIFICATE_READ (R31). -/
def execMgmtCertificateRead (s : State) (q : MgmtReq := ⟨[], []⟩) : Out :=
  .next (s.unsigned q 7 [] (.certificate Config.certificate))

/-- The attestation report over a nonce, once every stage has passed (R32). The manual does not split bytes 184 to 191: the
power limit takes the first four and the throttle level the last four. (DESIGN CHOICE, log 63.) -/
def State.report (s : State) (nonce : List Byte) : Option (List Byte) :=
  let o := s.oarov
  if o.recovery || o.stage ≠ 3 then none
  else
    let digest (d : BitVec 256) : List Byte := bytesOf 32 d.toNat
    let body := nonce ++ bytesOf 16 Config.partSerial.toNat ++ (o.manifests.take 3).flatMap digest ++ digest (sha256 speedBytes) ++
      bytesOf 8 s.thermo.toNat ++ bytesOf 4 o.limit ++ bytesOf 4 o.level.toNat ++ bytesOf 8 s.tick
    some (body ++ bytesOf 29792 (Config.slhSign Config.uniqueSecret body).toNat)

/-- MGMT_ATTESTATION (R32). -/
def execMgmtAttestation (nonce : BitVec 256) (s : State) (q : MgmtReq := ⟨[], []⟩) : Out :=
  .next (s.unsigned q 8 [bytesOf 32 nonce.toNat] (match s.report (bytesOf 32 nonce.toNat) with
    | some r => .report r
    | none => .notBooted))

/-- MAILBOX_DONE (R32, R78). (DESIGN CHOICE, log 16.) -/
def execMailboxDone (s : State) : Out :=
  if s.oarov.mbSts ≠ 1 then .next s
  else
    let nonce := (List.range 32).map (fun i => SMap.get 0 s.oarov.mbReq i)
    let o := match s.report nonce with
      | some r => { s.oarov with
          mbSts := 2
          mbResp := SMap.setAll 0 s.oarov.mbResp (r.zipIdx.map (fun p => (p.2, p.1))) }
      | none => { s.oarov with mbSts := 3 }
    .next ({ s with oarov := o }.raise 4)

/-- The first `n` words of 64 bits of a number. -/
def wordsOf (n v : Nat) : List Word := (List.range n).map (fun i => BitVec.ofNat 64 (v >>> (64 * i)))
/-- Bytes as 8-byte words, the last one filled with 0 (R27). -/
def byteWords (b : List Byte) : List Word := wordsOf ((b.length + 7) / 8) (ofBytes b)
/-- A capability register as three words (R27). -/
def Cap.words (c : Cap) : List Word := wordsOf 2 c.bits.toNat ++ [(BitVec.ofBool c.tag).setWidth 64]

/-- A record as one count word and its entries (R27). -/
def recordWords (l : List (List Word)) : List Word := BitVec.ofNat 64 l.length :: l.flatten

/-- An entry of a snapshot or replay record: its header and its value words (R27). -/
def entryWords (cls idx : Nat) (w : Bool) (left fl : Nat) (vs : List Word) : List Word :=
  packed [(Config.classCode cls % 256, 0), (idx % 512, 8), (w.toNat, 17), (left % 32, 18), (fl, 23), (vs.length % 65536, 32)] :: vs

/-- A payload's class, register or latch index, and values. -/
def Payload.held (p : Payload) (slot : Nat) (lval : Row) : Nat × Nat × List Word :=
  match p with
  | .none => (0, slot, wordsOf 16 lval.toNat)
  | .reg c n v _ => (1 + (match c with
      | .s => 0
      | .a => 1
      | .v => 2
      | .x => 3
      | .t => 4
      | .d => 5
      | .p => 6
      | .m => 7
      | .k => 8), n, wordsOf 16 v.toNat)
  | .cap n c => (2, n, c.words)
  | .tile n t => (5, n, wordsOf 2 t.tw.toNat ++ [t.desc])
  | .sys n v => (10, n, [v])
  | .csys n c => (11, n, c.words)
  | .row r v _ => (12, r, wordsOf 16 v.toNat)
  | .acm ws => (13, slot, ws.map (fun e => packed [(e.1, 32), (e.2.toNat, 0)]))
  | .bins r ps => (14, r, ps.map (fun e => packed [(e.1, 32), (e.2.toNat, 0)]))
  | .terms _ ts ns => (15, slot, Config.heldImage (ts.flatMap (fun e => e.1 :: e.2.flatMap (fun t => [t.toNat, (-t).toNat])) ++ ns))
  | .clearInner => (16, slot, [])

/-- A snapshot entry as words (R27, R298): a result of W = 0 has the latch q(2k) of its slot k for its destination.
(DESIGN CHOICE, log 17.) -/
def Result.words (r : Result) : List Word :=
  let latch := 2 * r.slot.num
  let p := r.pay.held latch r.lval
  let d : Nat × Nat := if r.w || r.pay.isTerms then (p.1, p.2.1) else (0, latch)
  entryWords d.1 d.2 r.w r.due r.flags.toNat p.2.2

/-- An operation of the SY slot as numbers. -/
def SyOp.nums : SyOp → List Nat
  | .post f n => [0, f, n]
  | .expt f n => [1, f, n]
  | .rpost dst f n => [2, dst.toNat, f, n]
  | .arrive j lvl dom => [3, j, lvl, dom]
  | .fclr f => [4, f]

/-- The numbers that make up a capability, a tile operand, an operand of a copy, and what a job does with them.
(DESIGN CHOICE, log 17.) -/
def Cap.nums (c : Cap) : List Nat := [c.bits.toNat, c.tag.toNat]
@[inherit_doc Cap.nums] def TileOp.nums (t : TileOp) : List Nat := [t.tw.toNat, t.desc.toNat] ++ t.cap.nums
@[inherit_doc Cap.nums] def CpOperand.nums : CpOperand → List Nat
  | .mem c => 0 :: c.nums
  | .deep r => [1, r]
  | .edge e b => [2, e.toNat, b]
  | .acm e => [3, e]
  | .rink k => [4, k]
@[inherit_doc Cap.nums] def Rearr.nums : Rearr → List Nat
  | .reshape => [0]
  | .transpose => [1]
  | .cast rm sat => [2, rm.toNat, sat.toNat]
  | .slice start => [3, start]
  | .copy => [4]
  | .fill v => [5, v.toNat]
  | .qbx => [6]
  | .dqbx rm sat => [7, rm.toNat, sat.toNat]
@[inherit_doc Cap.nums] def JobKind.nums : JobKind → List Nat
  | .plain t slr a b ix op ph => 0 :: (t.flatMap (fun e => [e.1, e.2.toNat]) ++ [slr.toNat] ++ a.nums ++ b.nums ++
      (ix.toList.flatMap Cap.nums) ++ [op.toNat, ph.toNat])
  | .expand c e d => 1 :: c.nums ++ [e.toNat, d]
  | .rearrange k a b => 2 :: k.nums ++ a.nums ++ b.nums
  | .zbComp a b => 3 :: a.nums ++ b.nums
  | .zbExp a b => 4 :: a.nums ++ b.nums
  | .window a b w => 5 :: a.nums ++ b.nums ++ [w.toNat]
  | .matmul a b c => 6 :: a.nums ++ b.nums ++ c.nums
  | .nest t slr a b c sc => 7 :: (t.flatMap (fun e => [e.1, e.2.toNat]) ++ [slr.toNat] ++ a.nums ++ b.nums ++ c.nums ++
      sc.toList.flatMap CpOperand.nums)
  | .epilogue c d b al r cl rm sat q => 8 :: c.nums ++ d.nums ++ b.toList.flatMap TileOp.nums ++
      [al.toNat, r.toNat, cl.toNat, rm.toNat, sat.toNat, q.toNat]
  | .mopen c n => 9 :: c.nums ++ [n]
  | .mpush st rs e => 10 :: st :: rs.flatMap (fun p => [p.1.toNat, p.2.toNat]) ++ [e.toNat]
  | .mclose => [11]
  | .mstat => [12]
  | .px o c => 13 :: o :: c.nums
  | .pxRemote b src sp => 14 :: src.toNat :: sp.toNat :: b.map (·.toNat)
  | .xroute c t ch => 15 :: c.nums ++ [t.toNat] ++ ch.flatMap (fun p => [p.1.toNat, p.2.toNat])
  | .take => [16]
  | .launch c => 17 :: c.nums
  | .send t d tag => 18 :: t.nums ++ [d.toNat, tag.toNat]
  | .recv t src tag r => 19 :: t.nums ++ src.toList.map (·.toNat) ++ [tag.toNat, r]
  | .coll a b c g => 20 :: a.nums ++ b.nums ++ c.nums ++ [g]
  | .sgrd c lba e n len => 21 :: c.nums ++ [lba.toNat, e, n, len]
  | .rplack r l => 22 :: r.toNat :: l
  | .bxfer a b d f rp => 23 :: a.nums ++ b.nums ++ [d.toNat, f.toNat, rp.toNat]
  | .query => [24]

/-- The values of an access's register and deep-file sources (R298): a capability with its tag, the operands of an atomic,
the rows of a typed store that has no units yet, or the bytes of its units. (DESIGN CHOICE, log 17.) -/
def Acc.sources (a : Acc) : List Word :=
  match a.kind with
  | .atomic _ _ b c => [b, c]
  | .stCap => byteWords (a.units.flatMap (·.data)) ++ a.units.map (fun u => (BitVec.ofBool u.tag).setWidth 64)
  | .stTile _ _ rows => if a.units = [] then rows.flatMap (fun r => wordsOf 16 r.toNat) else byteWords (a.units.flatMap (·.data))
  | _ => byteWords (a.units.flatMap (·.data))

/-- A replay entry as words (R27, R298): the values of an access are its capability, its EO, those of its sources, and its
first unperformed unit. (DESIGN CHOICE, log 17.) -/
def PortEntry.words (p : PortEntry) : List Word :=
  match p.item with
  | .acc a => entryWords (32 + a.kind.code) a.dst.2 a.w 0 0 (a.cap.words ++ [BitVec.ofInt 64 a.eo] ++ a.sources ++
      [BitVec.ofNat 64 a.pos])
  | .cmd j => entryWords 40 0 false 0 0 (Config.heldImage ([j.id, j.core, j.ctx, j.task] ++ j.kind.nums))
  | .sy op => entryWords 41 0 false 0 0 (Config.heldImage op.nums)

/-- The per-context word registers of R358 in ascending number, capability registers among them.
(DESIGN CHOICE, log 17.) -/
def State.sysWords (s : State) (c : Core) (x : Ctx) (ci k : Nat) : List Word :=
  let word (n : Nat) : List Word := [s.sysWord c x ci k n]
  [0x000, 0x001, 0x004, 0x009, 0x00A, 0x00B, 0x00C, 0x00D, 0x00E, 0x00F, 0x010, 0x011, 0x012, 0x020, 0x021, 0x022, 0x023, 0x024,
    0x025, 0x026, 0x027, 0x028, 0x029, 0x02A, 0x02B].flatMap word ++ [0x030, 0x031, 0x032].flatMap (fun n => (x.sr.readCap n).words)

/-- A context's payload (R27). -/
def State.ctxWords (s : State) (ci k : Nat) : List Word :=
  let c := s.core ci
  let x := c.ctx k
  let each (n : Nat) (f : Nat → List Word) : List Word := (List.range n).flatMap f
  each 64 (fun i => [x.sReg i]) ++ each 32 (fun i => (x.aReg i).words) ++ each 384 (fun i => wordsOf 16 (x.vReg i).toNat) ++
    each 8 (fun i => [(x.xReg i).setWidth 64]) ++ each 32 (fun i => wordsOf 2 (x.tReg i).tw.toNat ++ [(x.tReg i).desc]) ++
    each 16 (fun i => [(x.dReg i).setWidth 64]) ++ [packed ((List.range 8).map (fun i => ((x.pReg i).toNat, i)))] ++
    each 8 (fun i => wordsOf 2 (x.mReg i).toNat) ++ s.sysWords c x ci k ++ [x.sr.loopst] ++
    each 16 (fun i => [SMap.get 0 x.ctab i]) ++ each 16 (fun i => [SMap.get 0 x.mtab i]) ++
    recordWords (x.snap1.map Result.words) ++ recordWords (x.rec1.map PortEntry.words) ++
    recordWords (x.snap2.map Result.words) ++ recordWords (x.rec2.map PortEntry.words)

/-- A core's shared payload (R27). -/
def State.coreWords (s : State) (ci : Nat) : List Word :=
  let c := s.core ci
  let each (n : Nat) (f : Nat → List Word) : List Word := (List.range n).flatMap f
  each 16 (fun i => packed [((c.latch i).valid.toNat, 8), ((c.latch i).owner.toNat, 0)] :: wordsOf 16 (c.latch i).val.toNat) ++
    each 32 (fun i =>
      let f := SMap.get Flag.init c.flags i
      [packed [(f.ovf.toNat, 48), (f.ph.toNat, 32), (f.exp.toNat, 16), (f.cnt.toNat, 0)]]) ++
    each 8 (fun i => [(c.rink i).word]) ++ [c.lbst] ++ each 2048 (fun i => wordsOf 16 (SMap.get 0 c.deep i).toNat) ++
    each 32768 (fun i => [packed [((SMap.get 0 c.acm (2 * i + 1)).toNat, 32), ((SMap.get 0 c.acm (2 * i)).toNat, 0)]]) ++
    each 2048 (fun i => wordsOf 8 (SMap.get 0 c.edges i).toNat)

/-- The lines of an L2 slice of 512 KiB (R1). -/
def sliceLines : Nat := 8192

/-- The lines that a slice holds (R27): those that load blocks pin there, and of those that have been touched the ones
that it has not evicted, as many as it has room for. (DESIGN CHOICE, log 17.) -/
def State.heldLines (s : State) (slice : Nat) : List Nat :=
  ((runsOf (s.pinned ++ (s.mem.ts.map (·.1)).filter (fun l => Config.sliceHolds l s.tick))).filter
    (fun l => homeSlice l = slice)).take sliceLines

/-- An L2 slice's payload (R27). (DESIGN CHOICE, log 17.) -/
def State.sliceWords (s : State) (slice : Nat) : List Word :=
  (s.heldLines slice).flatMap (fun l =>
    let poison : Bool := (List.range 8).any (fun i => SMap.get false s.mem.poison (l * 8 + i))
    packed [(l, 6), (((s.mem.key l).getD 0).toNat, 48), ((Config.sliceState l s.tick).toNat, 57), (poison.toNat, 59),
        ((s.pinned.contains l).toNat, 60)] ::
      BitVec.ofNat 64 (s.mem.stamp l).2 :: byteWords (s.mem.line l))

/-- A cached entry as words, behind its space (R27). -/
def cachedWords (sid : BitVec 12) (gen : BitVec 4) (l : List Nat) : List Word :=
  packed [(sid.toNat, 0), (gen.toNat, 12)] :: Config.heldImage l

/-- The leaves cached in one place (R27). -/
def State.tlbWords (s : State) (p : TlbPlace) : List Word :=
  (s.tlb.filter (fun e => e.place = p)).flatMap (fun e =>
    cachedWords e.sid e.gen [e.dva, e.size, e.pa, e.key.toNat, e.wrok.toNat, e.ex.toNat])

/-- Registers of the device ranges in ascending offset, from `o` for `n` words. -/
def State.regWords (s : State) (o n : Nat) : List Word := (List.range n).map (fun i => s.devReg (o + 8 * i))

/-- A job as the command that carried it: a message has its bytes (R27). (DESIGN CHOICE, log 17.) -/
def Job.words (j : Job) : List Word := match j.kind with
  | .pxRemote b _ _ => byteWords b
  | k => Config.heldImage ([j.id, j.core, j.ctx, j.task, j.space.toNat] ++ k.nums)

/-- The id of a section (R27). -/
def sectionId (die kind index : Nat) : BitVec 32 := BitVec.ofNat 32 (die * 2 ^ 28 + kind * 2 ^ 20 + index)

/-- The header of a section (R27): its id, the payload's length, the TICK at assertion, the cause, zeros. -/
def Freeze.header (f : Freeze) (id length : BitVec 32) : List Byte :=
  bytesOf 4 id.toNat ++ bytesOf 4 length.toNat ++ bytesOf 8 f.tick ++ [f.cause] ++ bytesOf 7 0

/-- A section of words, with its CRC-32C (R27). -/
def Freeze.section_ (f : Freeze) (id : BitVec 32) (ws : List Word) : Section :=
  let h := f.header id (BitVec.ofNat 32 (8 * ws.length))
  .words h ws (crc32c (h ++ ws.flatMap (fun w => bytesOf 8 w.toNat)))

/-- A section of memory, with its CRC-32C (R27). (DESIGN CHOICE, log 17.) -/
def Freeze.memory (f : Freeze) (id : BitVec 32) (base size : Nat) (stored : SMap Byte) (keys : SMap (Option (BitVec 9))) : Section :=
  let h := f.header id (Config.longLength (size + 8))
  .memory h base size stored keys
    (crc32c (h ++ bytesOf 8 base ++ (List.range size).map (fun i => SMap.get freshByte stored (base + i))))

/-- A compute die's sections (R27). -/
def State.dieSections (s : State) (f : Freeze) (die : Nat) : List Section :=
  let cores := (List.range 256).map (fun i => die * 256 + i)
  cores.flatMap (fun ci => (List.range 4).map (fun k => f.section_ (sectionId die 1 (ci * 4 + k)) (s.ctxWords ci k)) ++
      [f.section_ (sectionId die 2 ci) (s.coreWords ci)]) ++
    cores.map (fun ci => f.section_ (sectionId die 3 ci) (s.sliceWords ci)) ++
    [f.section_ (sectionId die 4 0) (s.tlbWords (.last die)),
      f.section_ (sectionId die 4 1) ((s.walkCache.filter (fun e => e.die = die)).flatMap (fun e =>
        cachedWords e.sid e.gen [e.level, e.dva, e.table])),
      f.section_ (sectionId die 4 2) ((s.spaceCache.filter (fun e => e.die = die)).flatMap (fun e =>
        cachedWords e.sid e.gen [e.pa, e.root, e.otbase, e.otcount]))] ++
    (List.range 16).map (fun i => f.section_ (sectionId die 4 (0x100 + i)) (s.tlbWords (.cluster (die * 16 + i)))) ++
    cores.map (fun ci => f.section_ (sectionId die 4 (0x200 + ci)) (s.tlbWords (.micro ci) ++
      (s.objCache.filter (fun e => e.core = ci)).flatMap (fun e =>
        cachedWords e.sid e.gen [e.obj, e.pa, e.ent.base, e.ent.len, e.ent.now.toNat, e.ent.tw.toNat, e.ent.pitch, e.ent.type.toNat])))

/-- A command to the work distributor: the query of a barrier is none. -/
def JobKind.isService : JobKind → Bool
  | .query => false
  | _ => true

/-- The I/O die's sections (R27). (DESIGN CHOICE, log 17.) -/
def State.ioSections (s : State) (f : Freeze) : List Section :=
  let jobs (p : JobKind → Bool) : List Job := s.cores.flatMap (fun c => c.2.jobs.filter (fun j => p j.kind))
  let services : List Job := s.cores.flatMap (fun c => c.2.svcs.filter (fun j => j.kind.isService)) ++ s.groups.flatMap (·.wait)
  let colls : List Job := s.cores.flatMap (fun c => c.2.colls) ++ s.cruns.flatMap (·.jobs)
  let io (i : Nat) (ws : List Word) : Section := f.section_ (sectionId 4 0x10 i) ws
  [io 0 (s.regWords 0 256 ++ s.tasks.flatMap (fun t => byteWords t.rcd.bytes) ++ services.flatMap Job.words),
    io 1 (s.regWords 0x15000 128 ++ (s.pxq.flatMap (·.2)).flatMap Job.words),
    io 2 (s.regWords 0x30000 512 ++ colls.flatMap Job.words)] ++
    (List.range 32).map (fun n => io (if n < 16 then 0x10 + n else 0x20 + (n - 16)) (s.regWords (0x800 + 0x40 * n) 8 ++
      byteWords ((s.mring n).card.getD []))) ++
    [io 0x30 (s.regWords 0x1000 512 ++ s.regWords 0x140C0 8 ++ (jobs (fun k => match k with
      | .sgrd .. => true
      | _ => false)).flatMap Job.words)] ++
    (List.range 3).map (fun t => io (0x40 + t) (s.regWords (0x14000 + 0x40 * t) 8 ++ (s.tier t).moves.flatMap (fun m =>
      Config.heldImage [m.src, m.pte, m.ent.toNat]))) ++
    (List.range nLinks).map (fun l => io (0x80 + l) (s.regWords (0x25000 + 0x10 * l) 2 ++
      (s.link l).senders.flatMap (fun m => byteWords (msgBytes m.2)))) ++
    (List.range 32).map (fun c => io (0x100 + c) (Config.heldImage [0x100 + c]))

/-- The memory tiers as stored (R27, R121): each line's bytes under the key pair of its index. -/
def State.memSections (s : State) (f : Freeze) : List Section :=
  let part (i base size : Nat) : Section :=
    let here (l : Nat) : Bool := base ≤ l * 64 && l * 64 < base + size
    let ls := (runsOf (s.mem.lineKey.map (·.1) ++ s.mem.bytes.map (fun e => e.1 / 64))).filter here
    let stored (l : Nat) : List Byte := match s.mem.key l with
      | some k => xtsStored (s.keys.pair k) l (s.mem.line l)
      | none => s.mem.line l
    f.memory (sectionId 0xF 0x20 i) base size
      (SMap.setAll freshByte [] (ls.flatMap (fun l => (stored l).zipIdx.map (fun p => (l * 64 + p.2, p.1)))))
      (s.mem.lineKey.filter (fun e => here e.1))
  [part 0 0x20000000000 0x8000000000, part 1 0 0x10000000000] ++
    (List.range 4).map (fun p => part (2 + p) (0x100000000000 + p * 0x20000000000) 0x20000000000)

/-- MGMT_READ_OUT (R27, R80): the frozen state in the order of the dies, the I/O die and memory.
(DESIGN CHOICE, log 17.) -/
def execMgmtReadOut (q : MgmtReq) (s : State) : Out := .next (s.signed q 1 [] (fun s =>
  match s.freeze with
  | some f => s.reply (.readOut f.tick f.cause ((List.range 4).flatMap (s.dieSections f) ++ s.ioSections f ++ s.memSections f))
  | none => s.reply .refused))

end Sys2Proof.Machine
end

