-- ==== Sys2Proof/Machine/MergeNet.lean ====
section
/-!
DEFINITION. The merge network of a cluster (R265 to R270, R239, R422, R427 to R430): open, push, close
and status as the network applies them from its queue.
-/

namespace Sys2Proof.Machine

/-- Change a cluster's session. -/
def State.setMerge (s : State) (cl : Nat) (m : Merge) : State := { s with merges := SMap.set Merge.init s.merges cl m }
/-- The session of a cluster. -/
def State.mergeOf (s : State) (cl : Nat) : Merge := SMap.get Merge.init s.merges cl

/-- The merge network as an engine, at work for a job. -/
def State.mergeEngine (s : State) (cl : Nat) (sp : BitVec 16) (j : Job) : Eng := s.engine (.merge cl) sp j.pts

/-- A command leaves the queue. -/
def State.mergePop (s : State) (cl : Nat) : State :=
  let m := s.mergeOf cl
  let s := (s.setMerge cl { m with queue := m.queue.drop 1 }).clearWait (.merge cl)
  (m.queue.take 1).foldl (fun s j => s.sgWake j.core) s

/-- The fold of the values of one coordinate (R239). Adding −0 to the first changes no number and makes a
NaN canonical. -/
def foldValues (vs : List (BitVec 32)) : BitVec 32 :=
  match vs with
  | [] => 0
  | v :: t => BitVec.ofNat 32 (t.foldl (fun a b => addFp32 a b.toNat) (addFp32 v.toNat 0x80000000))

/-- The values of a coordinate in ascending stream, then in the order of the list (R239). -/
def valuesAt (l : List MgRec) (c : Word) : List (BitVec 32) :=
  (sortBy (fun r => r.stream) (l.filter (fun r => r.coord = c))).map (·.val)

/-- The distinct coordinates of records, ascending. -/
def coordsOf (l : List MgRec) : List Word :=
  (sortBy (fun (c : Word) => c.toNat) (l.foldl (fun a r => if a.contains r.coord then a else a ++ [r.coord]) []))

/-- The status of a session that fails as its engine stops (R270). -/
def EngStop.mergeStatus : EngStop → BitVec 8
  | .ecc => 7
  | .killed | .wait => 8
  | .bounds | .window => 5

/-- A session at work: the engine and the session. -/
structure Mgn where
  e : Eng
  m : Merge
  deriving DecidableEq, Repr

/-- The session fails, unless it has failed already. (DEDUCED, log 36.) -/
def Mgn.fail (g : Mgn) (st : BitVec 8) : Mgn :=
  if g.m.st = .opened then { g with m := { g.m with st := .failed, fail := st } } else g

/-- Where the engine has stopped for good the session has failed, and the engine goes on (R270). -/
def Mgn.settle (g : Mgn) : Mgn :=
  match g.e.stop with
  | none | some .wait => g
  | some p => { g.fail p.mergeStatus with e := { (g.e) with stop := none, s := g.e.s.clearWait g.e.rq } }

/-- Whether the session goes on: it is open, and its engine is at work. -/
def Mgn.live (g : Mgn) : Bool := g.m.st = .opened && g.e.stop.isNone

/-- The bytes of an output entry (R268). -/
def entryBytes (coo : Bool) (c : Word) (v : BitVec 32) : List Byte :=
  if coo then bytesOf 8 c.toNat ++ bytesOf 4 v.toNat ++ bytesOf 4 0 else bytesOf 4 (fld c 0 32) ++ bytesOf 4 v.toNat

/-- Write the entry of a coordinate at the next free position of OUT (R268). -/
def Mgn.output (g : Mgn) (c : Word) (v : BitVec 32) : Mgn :=
  if !g.live then g
  else
    let b := entryBytes g.m.coo c v
    let pos := g.m.output.length * b.length
    if g.m.out.len < pos + b.length then g.fail 5
    else
      let g := { g with e := g.e.brefWrite g.m.out pos b 3 }
      if g.e.stop.isSome then g.settle else { g with m := { g.m with output := g.m.output ++ [(c, v)] } }

/-- Bound (R267): none while an unended stream has pushed nothing; else the least LAST of the streams not
ended, which is above every coordinate where there is none. -/
def Merge.bound (m : Merge) : Option Nat :=
  ((List.range 16).filter (fun i => !m.ended.contains i)).foldl (fun (a : Option Nat) i =>
    match a, SMap.get none m.last i with
    | some b, some l => some (min b l.toNat)
    | _, _ => none) (some (2 ^ 64))

/-- Emit every stored coordinate below Bound, while the session has not spilled (R267, R268). -/
def Mgn.emit (g : Mgn) : Mgn :=
  if !g.live || g.m.runs ≠ [] then g
  else
    match g.m.bound with
    | none => g
    | some b =>
      ((coordsOf g.m.store).filter (fun c => c.toNat < b)).foldl (fun g c =>
        if !g.live then g
        else
          let v := foldValues (valuesAt g.m.store c)
          { g with m := { g.m with store := g.m.store.filter (fun r => r.coord ≠ c) } }.output c v) g

/-- The bytes of a record of a run (R266). -/
def MgRec.bytes (r : MgRec) : List Byte :=
  bytesOf 8 r.coord.toNat ++ bytesOf 4 r.val.toNat ++ [BitVec.ofNat 8 (r.stream % 16), 0, 0, 0]

/-- A record from the bytes of a run (R266). -/
def recOf (b : List Byte) (i : Nat) : MgRec :=
  ⟨BitVec.ofNat 64 (getLe b (16 * i) 8), getLe b (16 * i + 12) 1 % 16, BitVec.ofNat 32 (getLe b (16 * i + 8) 4)⟩

/-- The runs a session may write (R269). -/
def maxRuns : Nat := 64

/-- Spill (R269): the store becomes a run. (DEDUCED, log 36.) -/
def Mgn.spill (g : Mgn) : Mgn :=
  let n := g.m.runs.length
  if maxRuns ≤ n then g.fail 6
  else
    let l := sortBy (fun r => r.coord.toNat * 16 + r.stream) g.m.store
    let off := max 1024 g.m.spillEnd
    let bs := l.flatMap MgRec.bytes
    if g.m.spill.len < off + bs.length then g.fail 4
    else
      let e := g.e.brefWrite g.m.spill off bs 3
      let e := e.brefWrite g.m.spill (16 * n) (bytesOf 8 off ++ bytesOf 4 l.length ++ bytesOf 4 0) 3
      let g := { g with e := e }
      if e.stop.isSome then g.settle
      else { g with m := { g.m with store := [], runs := g.m.runs ++ [(off, l)], spillEnd := off + bs.length } }

/-- One record of a push (R267). -/
def Mgn.record (g : Mgn) (stream : Nat) (c : Word) (v : BitVec 32) : Mgn :=
  if g.e.stop.isSome then g
  else
    let g := { g with m := { g.m with received := g.m.received + 1 } }
    if g.m.st ≠ .opened then g
    else if g.m.ended.contains stream || (match SMap.get none g.m.last stream with
        | some l => decide (c < l)
        | none => false) then g.fail 2
    else if (if g.m.coo then c.getLsbD 63 else decide (g.m.nrows ≤ fld c 32 32)) then g.fail 3
    else
      let g := if g.m.store.length = g.m.cap then g.spill else g
      if !g.live then g
      else
        let st := g.m.store ++ [⟨c, stream, v⟩]
        { g with m := { g.m with
            store := st
            last := SMap.set none g.m.last stream (some c)
            peak := max g.m.peak st.length } }.emit

/-- A push ends its stream (R267). -/
def Mgn.endStream (g : Mgn) (stream : Nat) : Mgn :=
  if g.e.stop.isSome then g
  else { g with m := { g.m with ended := if g.m.ended.contains stream then g.m.ended else g.m.ended ++ [stream] } }.emit

/-- The status record (R270). -/
def statBytes (st runs received out peak tick : Nat) : List Byte :=
  bytesOf 2 st ++ bytesOf 2 runs ++ bytesOf 4 received ++ bytesOf 4 out ++ bytesOf 4 peak ++ bytesOf 8 tick ++ bytesOf 8 0

/-- MERGE_PUSH_APPLY (R267, R269, R422, R429): the push at the head of the queue is applied, or waits whole
for its engine. -/
def execMergePushApply (cluster : Nat) (s : State) : Out :=
  let m := s.mergeOf cluster
  match m.queue with
  | [] => .next s
  | j :: _ =>
    if s.jobWaits j then .next s
    else match j.kind with
    | .mpush stream recs ending =>
      if m.st = .idle || m.task ≠ j.task then .next (s.mergePop cluster)
      else
        let g : Mgn := ⟨s.mergeEngine cluster m.space j, m⟩
        let g := g.settle
        let g := recs.foldl (fun g r => g.record stream r.1 r.2) g
        let g := if ending then g.endStream stream else g
        if g.e.stop.isSome then .next g.e.s
        else
          let t := (g.e.s.setMerge cluster g.m).mergePop cluster
          let full : Bool := m.st = .opened && g.m.st = .failed && g.m.fail = 6
          .next (if full then t.modGangCtx j.task j.core j.ctx (fun x =>
            if x.status = .idle then x else x.pendCause .mergeSpill 65) else t)
    | _ => .next s

/-- The records of a run as memory holds them (R269, R270). -/
def Mgn.readRun (g : Mgn) (r : Nat × List MgRec) : Mgn × List MgRec :=
  let (e, b) := g.e.brefRead g.m.spill r.1 (16 * r.2.length) 3
  ({ g with e := e }, if e.stop.isSome then [] else (List.range r.2.length).map (recOf b))

/-- The row pointers of CSR output (R270): the entries of the rows before each row. -/
def rowPtrs (nrows : Nat) (out : List (Word × BitVec 32)) : List Byte :=
  (List.range (nrows + 1)).flatMap (fun r => bytesOf 4 ((out.filter (fun p => fld p.1 32 32 < r)).length))

/-- The merge of the store with every run, and what it writes (R270). (DEDUCED, log 36.) -/
def Mgn.close (g : Mgn) : Mgn :=
  if !g.live then g
  else
    let (g, all) := g.m.runs.foldl (fun (a : Mgn × List MgRec) r =>
      let (g, l) := a.1.readRun r
      (g, a.2 ++ l)) (g, [])
    let g := g.settle
    let all := all ++ g.m.store
    let g := (coordsOf all).foldl (fun g c => g.output c (foldValues (valuesAt all c))) g
    if g.live && !g.m.coo then { g with e := g.e.brefWrite g.m.ptr 0 (rowPtrs g.m.nrows g.m.output) 3 }.settle else g

/-- The output regions of a failed session are left undefined (R270). -/
def Mgn.undefine (g : Mgn) : Mgn :=
  let blur (e : Eng) (b : Bref) : Eng := match e.s.rqObject e.rq e.sp b.obj with
    | some o => e.scramble (o.base + b.off) b.len
    | none => e
  let e := blur g.e g.m.out
  { g with e := if g.m.coo then e else blur e g.m.ptr }

/-- MERGE_CLOSE_APPLY (R270, R422, R430): the output, the status record, the post. -/
def execMergeCloseApply (cluster : Nat) (s : State) : Out :=
  let m := s.mergeOf cluster
  match m.queue with
  | [] => .next s
  | j :: _ =>
    if s.jobWaits j then .next s
    else match j.kind with
    | .mclose =>
      if m.st = .idle || m.task ≠ j.task then .next (s.mergePop cluster)
      else
        let g : Mgn := ⟨s.mergeEngine cluster m.space j, m⟩
        let g := g.settle.close
        if g.e.stop.isSome then .next g.e.s
        else
          let g := if g.m.st = .failed then g.undefine else g
          let st := if g.m.st = .failed then g.m.fail.toNat else 0
          let e := g.e.brefWrite g.m.stat 0 (statBytes st g.m.runs.length g.m.received g.m.output.length g.m.peak s.tick) 3
          if e.stop = some .wait then .next e.s
          else
            let t := e.s.setMerge cluster { Merge.init with queue := m.queue }
            .next ((t.mergePop cluster).postTo m.core m.flag.toNat 1 m.space e.pts)
    | _ => .next s

/-- The session that an open block names; none where the block breaks R427. -/
def openBlock (s : State) (rq : Requester) (sp : BitVec 16) (b : List Byte) (mcap : Nat) : Option Merge := do
  let n := getLe b 0 1
  let rows := getLe b 4 4
  let coo := n.testBit 5
  let out ← brefOf b 16
  let ptr ← brefOf b 32
  let spill ← brefOf b 48
  let stat ← brefOf b 64
  let ok (r : Bref) (least : Nat) : Bool := s.brefOk rq sp r true && least ≤ r.len
  if n % 32 = 0 || 16 < n % 32 || 64 ≤ n || getLe b 1 3 ≠ 0 || getLe b 8 8 ≠ 0 || (coo != (rows = 0)) ||
      !ok out 0 || !ok spill 1024 || !ok stat 32 ||
      (if coo then decide (getLe b 32 16 ≠ 0) else !ok ptr (4 * (rows + 1))) then none
  else some { Merge.init with
    st := .opened
    space := sp
    ns := n % 32
    coo := coo
    nrows := rows
    out := out
    ptr := ptr
    spill := spill
    stat := stat
    cap := max 4 (min 32768 mcap)
    ended := (List.range (16 - n % 32)).map (n % 32 + ·) }

/-- A refused open (R265, R428): STAT receives the status where it resolves. -/
def Eng.refuseOpen (e : Eng) (b : List Byte) (st : Nat) : Eng :=
  match brefOf b 64 with
  | some r => if e.s.brefOk e.rq e.sp r true && 32 ≤ r.len then e.brefWrite r 0 (statBytes st 0 0 0 0 e.s.tick) 3 else e
  | none => e

/-- MERGE_OPEN_APPLY (R427, R428). -/
def execMergeOpenApply (cluster : Nat) (s : State) : Out :=
  let m := s.mergeOf cluster
  match m.queue with
  | [] => .next s
  | j :: _ =>
    if s.jobWaits j then .next s
    else match j.kind with
    | .mopen c mcap =>
      let e := s.mergeEngine cluster j.space j
      let (e, d) := e.atCap c c.off 80 false 3
      let (e, b) := e.readOk d 80 3
      let refuse (e : Eng) (st : Nat) : Out := .next ((e.s.mergePop cluster).answer j [BitVec.ofNat 64 st])
      match e.stop with
      | some .wait => .next e.s
      | some .ecc => refuse e 7
      | some _ => refuse e 8
      | none =>
        match m.st, openBlock e.s e.rq j.space b mcap with
        | .idle, some n =>
          let n := { n with
            task := j.task
            core := j.core
            flag := j.flag.getD 0
            queue := m.queue }
          .next (((e.s.setMerge cluster n).mergePop cluster).answer { j with flag := none } [0])
        | st, _ =>
          let code := if st = .idle then 9 else 1
          let e := e.refuseOpen b code
          if e.stop = some .wait then .next e.s else refuse e code
    | _ => .next s

/-- MERGE_STATUS_APPLY (R430). -/
def execMergeStatusApply (cluster : Nat) (s : State) : Out :=
  let m := s.mergeOf cluster
  match m.queue with
  | [] => .next s
  | j :: _ =>
    if s.jobWaits j then .next s
    else match j.kind with
    | .mstat =>
      let st := match m.st with
        | .idle => 0
        | .opened => 1
        | .failed => 2
      let v := if st = 0 then 0 else
        st + m.store.length * 2 ^ 16 + m.runs.length * 2 ^ 32 + (if st = 2 then m.fail.toNat else 0) * 2 ^ 40
      .next ((s.mergePop cluster).answer j [BitVec.ofNat 64 v])
    | _ => .next s

end Sys2Proof.Machine
end

