-- ==== Sys2Proof/Machine/Placement.lean ====
section
/-!
DEFINITION. Gangs and their placement (R153, R154, R156 to R159, R161, R162): candidate sets, reservation,
backoff and hold, the starting state of a gang, and the victims of time-slicing.
-/

namespace Sys2Proof.Machine

/-- A gang's effective priority (R162): READY and SWAPPED gangs gain 1 for every 8 whole quanta. -/
def State.effPrio (s : State) (t : Task) : Nat :=
  match t.state with
  | .ready | .swapped => min 7 (t.rcd.prio.toNat + (s.tick - t.readyAt) / s.quantumTicks / 8)
  | .waiting | .running => t.rcd.prio.toNat

/-- Whether a task goes before another (R158): higher effective priority, then READY earlier. -/
def State.before (s : State) (t u : Task) : Bool :=
  s.effPrio u < s.effPrio t || (s.effPrio u = s.effPrio t && t.readyAt < u.readyAt)

/-- The candidate sets of a gang's shape on a die, ascending (R156): aligned runs of cores. -/
def candidates (size die : Nat) : List (List Nat) :=
  if size = 0 then [] else
    (List.range (256 / size)).map (fun i => (List.range size).map (fun j => die * 256 + i * size + j))

/-- The candidate sets of a task, in the order in which its agent tries them (R158); a swapped gang has its
own cores alone (R164). -/
def Task.sets (t : Task) : List (List Nat) :=
  if t.state = .swapped then [t.cores]
  else ([t.die] ++ [0, 1, 2, 3].filter (· ≠ t.die)).flatMap (candidates t.rcd.size)

/-- The cores of a die that are FREE. -/
def State.freeCores (s : State) (die : Nat) : Nat :=
  256 - ((s.cores.filter (fun c => c.1 / 256 = die && c.2.resv ≠ .free)).length)

/-- TASK_PLACEMENT_ASSIGN (R158): a READY task goes to the die with the most FREE cores. -/
def execTaskPlacementAssign (task : Nat) (s : State) : Out :=
  match s.task task with
  | none => .next s
  | some t =>
    if t.state ≠ .ready || t.place ≠ .none then .next s
    else
      let die := [1, 2, 3].foldl (fun b d => if s.freeCores b < s.freeCores d then d else b) 0
      .next (s.modTask task (fun t => { t with place := .select, die := die }))

/-- A core is FREE, or HELD for a task. -/
def State.openTo (s : State) (task core : Nat) : Bool :=
  (s.core core).resv = .free || (s.core core).resv = .held task

/-- Whether an agent has a task's placement in hand (R158): a task that its agent has yet to pick stands in SELECT
with no failed attempt. (DEDUCED, log 28.) -/
def Task.picked (t : Task) : Bool :=
  match t.place with
  | .phase1 | .backoff | .hold | .commit | .wait => true
  | .select => t.fails ≠ 0
  | .none => false

/-- The placements an agent has in hand (R158). -/
def State.placing (s : State) (die : Nat) : Nat := (s.tasks.filter (fun t => t.die = die && t.picked)).length

/-- Whether a core is one of a set that another waiter is to be placed on (R161). -/
def State.promised (s : State) (task core : Nat) : Bool :=
  s.tasks.any (fun t => t.rcd.task.toNat ≠ task && t.onto.any (fun l => l.contains core))

/-- The RUNNING gangs that own a core of a set. -/
def State.ownersOf (s : State) (set : List Nat) : List Task :=
  (runsOf (set.filterMap (fun c => (s.core c).resv.owner))).filterMap s.task

/-- Whether a gang may be swapped out for a waiter (R161, R163). -/
def State.victimOk (s : State) (w : Task) (strict : Bool) (v : Task) : Bool :=
  v.state = .running && v.place = .none && v.exempt ≤ s.tick &&
    (s.effPrio v < s.effPrio w || (!strict && s.effPrio v = s.effPrio w && v.ranAt + s.quantumTicks ≤ s.tick))

/-- The first set for a waiter that holds no core chosen before (R161), nor one of a set that another waiter is to be
placed on. (DEDUCED, log 28.) -/
def State.victimSet (s : State) (w : Task) (strict : Bool) (chosen : List Nat) : Option (List Nat) :=
  w.sets.find? (fun set => set.all (fun c => !chosen.contains c && !s.promised w.rcd.task.toNat c) &&
    (s.ownersOf set).all (s.victimOk w strict))

/-- Whether the set kept for a waiter still serves it (R161, R166): every gang that owns a core of it has been asked to
stop. A placement that was under way there may have committed since. (DEDUCED, log 28.) -/
def State.keeps (s : State) (w : Task) : Bool :=
  match w.onto with
  | some set => (s.ownersOf set).all (fun v => v.stopAt.isSome || v.cut.isSome)
  | none => false

/-- The ticks within which a gang must reach its gate (R163). (DEDUCED, log 28.) -/
def stopTicks : Nat := 1000 * usTicks

/-- Ask the gangs of a set to stop, and keep the set for the waiter that is then placed on it (R161). -/
def State.askStop (s : State) (task : Nat) (set : List Nat) : State :=
  ((s.ownersOf set).foldl (fun s v => s.modTask v.rcd.task.toNat (fun v =>
    { v with stopAt := some (v.stopAt.getD (s.tick + stopTicks)) })) s).modTask task (fun t => { t with onto := some set })

/-- PLACEMENT_SELECT (R158): a placement chooses its set, or waits; a waiter of higher priority than the
gangs of a set has them swapped out at once, and then takes that set (R161). A placement with its hold slot goes
on once every core is HELD. (DEDUCED, log 28.) -/
def execPlacementSelect (task : Nat) (s : State) : Out :=
  match s.task task with
  | none => .next s
  | some t =>
    let begin_ (set : List Nat) : Out := .next (s.modTask task (fun t =>
      { t with place := .phase1, cores := set, asked := set, granted := [], refused := false }))
    match t.place with
    | .hold => if t.cores.all (fun c => (s.core c).resv = .held task) then begin_ t.cores else .next s
    | .select | .wait =>
      if !t.picked && (4 ≤ s.placing t.die ||
          s.tasks.any (fun u => u.die = t.die && u.place = .select && !u.picked && s.before u t)) then
        .next s
      else
        match (t.onto.toList ++ t.sets).find? (fun set => set.all (fun c => s.openTo task c && !s.promised task c)) with
        | some set => begin_ set
        | none =>
          let s := s.modTask task (fun t => { t with place := .wait })
          match s.keeps t, s.victimSet t true [] with
          | false, some set => .next (s.askStop task set)
          | _, _ => .next s
    | _ => .next s

/-- RESERVE_REQUEST (R157): the next core of the set answers. -/
def execReserveRequest (core task : Nat) (s : State) : Out :=
  match s.task task with
  | none => .next s
  | some t =>
    match t.place, t.asked with
    | .phase1, c :: rest =>
      if c ≠ core then .next s
      else
        let ok := s.openTo task core
        let s := s.modTask task (fun t => { t with
          asked := rest
          granted := if ok then t.granted ++ [core] else t.granted
          refused := t.refused || !ok })
        .next (if ok then s.modCore core (fun k => { k with resv := .reserved task s.tick (k.resv = .held task) }) else s)
    | _, _ => .next s

/-- A core's reservation for a task ends without a commit (R157). -/
def State.release (s : State) (task core : Nat) : State :=
  match (s.core core).resv with
  | .reserved t _ wasHeld =>
    if t = task then s.modCore core (fun k => { k with resv := if wasHeld then .held task else s.freed core }) else s
  | _ => s

/-- The ticks a reservation lasts (R157). -/
def reserveTicks : Nat := 10 * usTicks

/-- RESERVATION_TIMEOUT (R157). -/
def execReservationTimeout (core : Nat) (s : State) : Out :=
  match (s.core core).resv with
  | .reserved task since _ => if since + reserveTicks ≤ s.tick then .next (s.release task core) else .next s
  | _ => .next s

/-- The starting state of a context (R66, R153). -/
def Ctx.start (t : Task) (rank k : Nat) : Ctx :=
  let r := t.rcd
  let rows := r.dfu.toNat * 16
  let b := r.entry.toNat / 1024
  let lvl0 : Nat := if r.size = 1 then 1 else if r.size ≤ 16 then 2 else 3
  { Ctx.init with
    status := .ready
    pc := ⟨b % 2 = 1, BitVec.ofNat 10 r.entry.toNat⟩
    s := SMap.setAll 0 [] [(1, BitVec.ofNat 64 rank), (2, BitVec.ofNat 64 r.size), (3, r.task.setWidth 64),
      (4, t.bucket.setWidth 64), (5, t.expert.setWidth 64)]
    a := SMap.set Cap.zero [] 0 (mkCap r.argobj.toNat (toS 48 r.argoff.toNat) r.arglen.toNat r.argrights 0 true)
    sr := { SysRegs.start with
      dmr := BitVec.ofNat 64 (0x10 + lvl0)
      dfbase := BitVec.ofNat 64 (k * rows)
      dflen := BitVec.ofNat 64 rows } }

/-- The starting state of a core of a gang (R153, R154). -/
def Core.begin_ (c : Core) (t : Task) (rank : Nat) (edges : SMap Bundle) : Core :=
  ({ c.vacated (.owned t.rcd.task.toNat) with
    ctxs := (List.range t.rcd.contexts).map (fun k => (k, Ctx.start t rank k))
    edges := edges } : Core).keepClocks c

/-- Bundles from bytes; the last is filled up with zeros. -/
def bundlesOf : Nat → List Byte → List Bundle
  | 0, _ => []
  | n + 1, l => if l.isEmpty then [] else Bundle.ofBytes (l.take 64) :: bundlesOf n (l.drop 64)

/-- A block of 1,024 bundles of a code object, read with EX (R108, R154). -/
def Eng.codeBlock (e : Eng) (o : ObjEntry) (blk : Nat) : Eng × List (Nat × Bundle) :=
  let lo := 65536 * blk
  let n := min 65536 (o.len - lo)
  let (e, b, bad) := e.read (o.base + lo) n true 2
  let e := if bad then e.halt .ecc else e
  (e, ((bundlesOf 1024 b).zipIdx).map (fun p => (edgeKey (blk % 2 = 1) p.2, p.1)))

/-- The first fill of the edges (R154). (DEDUCED, log 28.) -/
def State.fillEdges (s : State) (t : Task) : Eng × SMap Bundle :=
  let e := s.engine (.edgeFill t.rcd.task.toNat) t.space 0
  match e.object t.rcd.codeobj.toNat 2 with
  | (e, none) => (e, [])
  | (e, some o) =>
    let b := t.rcd.entry.toNat / 1024
    let (e, l) := e.codeBlock o b
    let (e, m) := e.codeBlock o (b + 1)
    (e, SMap.setAll 0 [] (l ++ m))

/-- COMMIT goes on (R153, R154, R158): the edges are filled, every context starts, and its barriers with it (R168). A fill that waits is tried
again; one that ends in a fatal fault completes the task KILLED. -/
def State.startGang (s : State) (t : Task) : State :=
  let id := t.rcd.task.toNat
  let (e, edges) := s.fillEdges t
  match e.stop with
  | some .wait => e.s
  | some _ => (e.s.clearWait (.edgeFill id)).modTask id (fun t => { t with killed := true, place := .none })
  | none =>
    let s := ((e.s.clearWait (.edgeFill id)).dropBars id).modTask id (fun t => { t with filled := true, place := .none, ranAt := s.tick })
    t.cores.zipIdx.foldl (fun s p => s.modCore p.1 (fun c => c.begin_ t p.2 edges)) s

/-- A placement's hold slot comes free at COMMIT (R159). -/
def State.dropHold (s : State) (task : Nat) : State := { s with hold := s.hold.filter (fun h => h.2 ≠ task + 1) }

/-- A placement claims its die's hold slot (R158): the FREE cores of its set are HELD. -/
def State.claimHold (s : State) (t : Task) : State :=
  let id := t.rcd.task.toNat
  let s := { (s.modTask id (fun t => { t with place := .hold, stopAt := none })) with hold := SMap.set 0 s.hold t.die (id + 1) }
  t.cores.foldl (fun s c => if (s.core c).resv = .free then s.modCore c (fun k => { k with resv := .held id }) else s) s

/-- Whether a die's hold slot is taken. -/
def State.holdTaken (s : State) (die : Nat) : Bool := s.hold.any (fun h => h.1 = die)

/-- A placement backs off (R158): a time drawn uniformly. -/
def State.backOff (s : State) (task k : Nat) : State :=
  let (s, n) := s.draw
  s.modTask task (fun t => { t with
    place := .backoff
    fails := k
    stopAt := some (s.tick + Config.freeNat n % min (2 ^ k) 256 * usTicks) })

/-- The placements that wait for a die's hold slot (R159). -/
def State.holdWaiters (s : State) (die : Nat) : List Task :=
  s.tasks.filter (fun t => t.die = die && t.place = .backoff && 8 ≤ t.fails)

/-- ABORT (R158, R159): a free hold slot goes to the placement unless one that waits for it stands before it. -/
def State.abortPlacement (s : State) (t : Task) : State :=
  let id := t.rcd.task.toNat
  let s := t.granted.foldl (fun s c => s.release id c) s
  let k := min 8 (t.fails + 1)
  let s := s.modTask id (fun t => { t with fails := k, granted := [], refused := false })
  if k < 8 then s.backOff id k
  else if s.hold.any (fun h => h.2 = id + 1) then s.modTask id (fun t => { t with place := .hold })
  else if s.holdTaken t.die || (s.holdWaiters t.die).any (fun u => s.before u t) then s.backOff id 8
  else s.claimHold t

/-- PHASE1_RESULT (R158): all answers are in; a granted set is committed where every reservation still stands. A
commit whose fill waits goes on. A swapped gang owns its cores from here on, and SWAP_IN loads its images.
(DEDUCED, log 28.) -/
def execPhase1Result (task : Nat) (s : State) : Out :=
  match s.task task with
  | none => .next s
  | some t =>
    let ours (c : Nat) : Bool := match (s.core c).resv with
      | .reserved u _ _ => decide (u = task)
      | _ => false
    match t.place, t.asked with
    | .phase1, [] =>
      if t.refused || !t.cores.all ours then .next (s.abortPlacement t)
      else
        let s := s.dropHold task
        let s := t.cores.foldl (fun s c => s.modCore c (fun k => { k with resv := .owned task })) s
        if t.state = .swapped then .next (s.modTask task (fun t => { t with place := .commit, fails := 0, onto := none }))
        else
          let s := s.modTask task (fun t => { t with
            place := .commit
            state := .running
            fails := 0
            stopAt := none
            onto := none
            granted := []
            ranAt := s.tick })
          .next (s.startGang { t with place := .commit, state := .running })
    | .commit, _ => if t.state = .running && !t.filled then .next (s.startGang t) else .next s
    | _, _ => .next s

/-- PLACEMENT_BACKOFF_EXPIRY (R158). -/
def execPlacementBackoffExpiry (task : Nat) (s : State) : Out :=
  match s.task task with
  | none => .next s
  | some t =>
    match t.place, t.stopAt with
    | .backoff, some d =>
      if s.tick < d then .next s else .next (s.modTask task (fun t => { t with place := .select, stopAt := none }))
    | _, _ => .next s

/-- HOLD_SLOT_GRANT (R159): a free hold slot goes to the first placement that has failed eight times. -/
def execHoldSlotGrant (die : Nat) (s : State) : Out :=
  if s.holdTaken die then .next s
  else
    let ws := s.holdWaiters die
    match ws.find? (fun t => ws.all (fun u => !s.before u t)) with
    | some t => .next (s.claimHold t)
    | none => .next s

/-- The waiters of a die (R161): READY tasks whose placement waits, and swapped gangs of its cores. -/
def State.waiters (s : State) (die : Nat) : List Task :=
  s.tasks.filter (fun t => (t.state = .ready && t.place = .wait && t.die = die) ||
    (t.state = .swapped && (t.place = .none || t.place = .wait) && t.cores.headD 0 / 256 = die))

/-- One waiter at a boundary (R161): the gangs of its set are to be swapped out, and the set is kept for it; one whose set
still serves keeps it, and any other looks for a set anew. -/
def State.serve (a : State × List Nat) (w : Task) : State × List Nat :=
  let (s, chosen) := a
  let id := w.rcd.task.toNat
  if s.keeps w then (s, chosen ++ w.onto.getD [])
  else
    let s := s.modTask id (fun t => { t with onto := none })
    match s.victimSet w false chosen with
    | none => (s, chosen)
    | some set =>
      let s := s.askStop id set
      (s.modTask id (fun t => if t.state = .swapped then { t with place := .select, die := set.headD 0 / 256 } else t),
        chosen ++ set)

/-- Waiters in the order of R158. -/
def State.inOrder (s : State) (l : List Task) : List Task :=
  l.foldl (fun acc t => acc.takeWhile (fun u => !s.before t u) ++ [t] ++ acc.dropWhile (fun u => !s.before t u)) []

/-- QUANTUM_BOUNDARY (R161): each die agent has one every QUANT µs of TICK. -/
def execQuantumBoundary (die : Nat) (s : State) : Out :=
  let n := s.tick / s.quantumTicks
  if 4 ≤ die || n = SMap.get 0 s.quantum die then .next s
  else
    let s := { s with quantum := SMap.set 0 s.quantum die n }
    .next ((s.inOrder (s.waiters die)).foldl State.serve (s, [])).1

end Sys2Proof.Machine
end

