-- ==== Sys2Proof/Machine/Swap.lean ====
section
/-!
DEFINITION. Stopping, swapping out and swapping in a gang (R163, R164, R301 to R304). An image is held as
data; the bytes that its slot of the swap area takes, whose layout the manual does not give, are free.
-/

namespace Sys2Proof.Machine

/-- The contexts of a task that are not IDLE. -/
def State.liveCtxs (s : State) (task : Nat) : List (Nat × Nat) :=
  (s.gang task).filter (fun p => (s.ctx p.1 p.2).status ≠ .idle)

/-- STOP_REQUEST (R303): every running context reports LASTCUT + 1. -/
def execStopRequest (task : Nat) (s : State) : Out :=
  match s.task task with
  | none => .next s
  | some t =>
    let l := s.liveCtxs task
    if t.state ≠ .running || t.place ≠ .none || t.stopAt.isNone || t.cut.isSome ||
        l.any (fun p => (s.ctx p.1 p.2).report.isSome) then .next s
    else .next (l.foldl (fun s p => s.modCtx p.1 p.2 (fun x =>
      { x with report := some ((fld x.sr.lastcut 0 32 + 1) % 2 ^ 32) })) s)

/-- The cut arrives at a context (R301, R304): held at it where it may stop, the context stops there; held below it, or
at a boundary that does not allow the stop, it goes on. -/
def Ctx.meetCut (x : Ctx) (c : Nat) : Ctx :=
  if !x.held then x
  else if x.lastCut = some c && x.mayStop then { x with stopped := true }
  else x.release

/-- STOP_CUT_BROADCAST (R303, R304): once every context that runs has reported, the maximum of all reports, those of
contexts that have executed EXIT since among them, is the cut; a context that has committed a cut number above it
makes the stop fail. -/
def execStopCutBroadcast (task : Nat) (s : State) : Out :=
  match s.task task with
  | none => .next s
  | some t =>
    let l := s.liveCtxs task
    if t.stopAt.isNone || t.cut.isSome || l.any (fun p => (s.ctx p.1 p.2).report.isNone) then .next s
    else
      let c := ((s.gang task).map (fun p => (s.ctx p.1 p.2).report.getD 0)).foldl max 0
      if l.any (fun p => (s.ctx p.1 p.2).lastCut.any (fun n => c < n)) then .next (s.abandonSwap task)
      else
        let s := s.modTask task (fun t => { t with cut := some c })
        .next (l.foldl (fun s p => s.modCtx p.1 p.2 (fun x => x.meetCut c)) s)

/-- Whether a context that was to stop has reached the boundary at which it does: it is not PARKED and everything that it
issued before has left its port (R297, R301). -/
def Ctx.atBoundary (x : Ctx) : Bool := x.stopped && x.status ≠ .parked && x.quiet && x.rerec = []

/-- STOP_TIMEOUT (R163): a gang that has not stopped within its time runs on. -/
def execStopTimeout (task : Nat) (s : State) : Out :=
  match s.task task with
  | none => .next s
  | some t =>
    match t.state, t.stopAt with
    | .running, some d =>
      if s.tick < d || (t.cut.isSome && (s.liveCtxs task).all (fun p => (s.ctx p.1 p.2).atBoundary)) then .next s
      else .next (s.abandonSwap task)
    | _, _ => .next s

/-- Whether a stopped context stands at a boundary at which it can be saved (R297, R301): nothing of it is in
its port, its loads have returned, no MSCL is pending, and every result that is never replayed has landed. -/
def Ctx.atRest (x : Ctx) : Bool :=
  x.quiet && x.rerec = [] && x.owed = [] && x.flight.all (fun r => r.replay) && x.rplacks = []

/-- Whether a job must end before its gang is saved (R163). -/
def JobKind.drains (k : JobKind) : Bool := k.isCopy || k.isMatrix || (match k with
  | .mopen .. | .mpush .. | .mclose | .mstat => true
  | _ => false)

/-- A context as its image holds it: the snapshot taken at the boundary at which it stopped is what its next issue
replays, and its W = 1 results are in its registers (R163, R298, R301). (DESIGN CHOICE, log 29.) -/
def Ctx.saved (x : Ctx) : Ctx :=
  if x.status = .idle then { x with report := none }
  else
    let y := x.resume
    { y with
      status := .ready
      flight := []
      watch := [] }

/-- A core as its image holds it (R163): the load blocks that are not FREE are to be declared again (R197),
and what stays at the endpoint is not in it. -/
def Core.saved (c : Core) : Core :=
  let due := [0, 1, 2, 3].flatMap (fun k => ((c.ctx k).flight.filter (fun r => r.w && !r.pay.isTerms)).map (fun r => (k, r)))
  let c := due.foldl (fun c p => c.landOne p.1 { p.2 with latch := false }) c
  { c with
    ctxs := c.ctxs.map (fun e => (e.1, e.2.saved))
    lbs := c.lbs.map (fun b => (b.1, { b.2 with st := .filling, lines := [] }))
    sends := []
    colls := []
    sgrds := []
    svcs := []
    unmatched := [] }

/-- The swap slots that hold no image (R160, R163). -/
def State.freeSlots (s : State) : List Nat :=
  let used := s.swaps.flatMap (fun g => g.slots)
  (List.range s.wd.swcnt.toNat).filter (fun n => !used.contains n)

/-- The bytes of an image (R163): 1 MiB, whose layout the manual does not give. -/
def imageSize : Nat := 2 ^ 20

/-- An image is written into its swap slot under key index 0 (R160, R163): its bytes, which no rule lays out, are free.
(DESIGN CHOICE, log 29.) -/
def State.writeImage (s : State) (slot : Nat) : State :=
  let bs := (List.range imageSize).map (fun i => Config.freeByte (Nat.pair s.fresh i))
  { s.memPut 0 (s.wd.swbase.toNat + slot * imageSize) bs with fresh := s.fresh + 1 }

/-- SWAP_OUT (R163): once every context has stopped at rest and the gang's copy, matrix and merge jobs are done,
its images are saved and its cores come free; with too few slots, or with a context at a trap level, the swap
is abandoned. It waits while a context is PARKED (R300). (DESIGN CHOICE, log 29.) -/
def execSwapOut (task : Nat) (s : State) : Out :=
  match s.task task with
  | none => .next s
  | some t =>
    let l := s.liveCtxs task
    if t.state ≠ .running || t.cut.isNone || !l.all (fun p => (s.ctx p.1 p.2).stopped) then .next s
    else if l.any (fun p => (s.ctx p.1 p.2).sr.xlvl ≠ 0 && (s.ctx p.1 p.2).status ≠ .parked) ||
        s.freeSlots.length < t.cores.length then .next (s.abandonSwap task)
    else if !(s.gang task).all (fun p => (s.ctx p.1 p.2).atRest && (s.ctx p.1 p.2).status ≠ .parked) ||
        (s.taskJobs t).any (fun j => j.kind.drains) then .next s
    else
      let g : SwapImage := ⟨task, t.cores.map (fun c => (c, (s.core c).saved)), s.freeSlots.take t.cores.length⟩
      let s := g.slots.foldl State.writeImage s
      let s := { s with
        swaps := s.swaps ++ [g]
        wd := { s.wd with swapped := s.wd.swapped + 1 } }
      let s := s.modTask task (fun t => { t with
        state := .swapped
        place := .none
        cut := none
        stopAt := none
        readyAt := s.tick })
      .next (s.leave t.cores Core.vacated)

/-- A core takes its image back (R164): its clock and its endpoint's jobs go on; its contexts wait where the gang has a
load block to declare again (R197). (DESIGN CHOICE, log 29.) -/
def Core.restored (c g : Core) (task : Nat) (wait : Bool) : Core :=
  ({ g with
    cycle := c.cycle
    lvl := c.lvl
    resv := .owned task
    sends := c.sends
    colls := c.colls
    sgrds := c.sgrds
    svcs := c.svcs
    unmatched := c.unmatched
    ctxs := g.ctxs.map (fun e => (e.1, { e.2 with held := wait && e.2.status ≠ .idle })) } : Core).keepClocks c

/-- SWAP_IN (R164, R197): the images return to the cores that the commit has given the gang; then, once every load
block is PINNED or NOPIN again, the gang resumes. Its posted receives meet the requests that came meanwhile (R53).
(DESIGN CHOICE, log 29.) -/
def execSwapIn (task : Nat) (s : State) : Out :=
  match s.task task with
  | none => .next s
  | some t =>
    match t.state, t.place with
    | .swapped, .commit =>
      match s.swaps.find? (fun g => g.task = task) with
      | none => .next s
      | some g =>
        if !g.cores.all (fun p => (s.core p.1).resv.owner = some task) then .next s
        else
          let wait : Bool := g.cores.any (fun p => p.2.lbs.any (fun b => b.2.st = .filling))
          let s := g.cores.foldl (fun s p => s.modCore p.1 (fun c => c.restored p.2 task wait)) s
          let s := { s with swaps := s.swaps.filter (fun h => h.task ≠ task) }
          let s := s.modTask task (fun t => { t with
            state := .running
            place := if wait then .commit else .none
            granted := []
            ranAt := s.tick })
          .next (g.cores.foldl (fun s p => s.rematch p.1) s)
    | .running, .commit =>
      if !t.filled || t.cores.any (fun c => (s.core c).lbs.any (fun b => b.2.st = .filling)) then .next s
      else
        let s := (s.gang task).foldl (fun s p => s.modCtx p.1 p.2 (fun x => { x with held := false })) s
        .next (s.modTask task (fun t => { t with place := .none }))
    | _, _ => .next s

end Sys2Proof.Machine
end

