-- ==== Sys2Proof/Machine/VectorConv.lean ====
section
/-!
DEFINITION. Conversions and quantisation (R369 to R372).
-/

namespace Sys2Proof.Machine

/-- Destination lane i of a conversion from width `ws` to `wd` with part `p`: converted, or the same
lane of v(SB) (R369). -/
def convertRow (ws wd p : Nat) (a b : Row) (op : Nat → Nat × Fl) : Row × Fl :=
  let ns := 1024 / ws
  let nd := 1024 / wd
  let rs := (List.range nd).map (fun i =>
    if wd < ws then
      if p * ns ≤ i && i < (p + 1) * ns then op (lane a ws (i - p * ns)) else (lane b wd i, 0)
    else op (lane a ws (p * nd + i)))
  (rowOf wd (rs.map (·.1)), rs.foldl (fun fl r => fl ||| r.2) 0)

/-- A conversion: v(SB) is read where it narrows (R369). -/
def Env.convert (e : Env) (f : RFmt) (ws wd : Nat) (op : Nat → Nat × Fl) : Except Stop State := do
  let a ← e.srcV f.sa
  let b ← if wd < ws then e.srcV f.sb else pure 0
  let r := convertRow ws wd (fld (f.imm.setWidth 64) 4 2) a b op
  e.retV 3 f.dst r.1 r.2

/-- Source and destination of a conversion, as format codes of R201, by FMT (R370). -/
def vcvtPairs : List (Nat × Nat) :=
  [(1, 2), (1, 3), (1, 4), (1, 5), (2, 1), (3, 1), (4, 1), (5, 1), (2, 3), (3, 2), (2, 4), (3, 4), (2, 5), (3, 5),
    (4, 3), (5, 3)]
@[inherit_doc vcvtPairs] def vcvtiPairs : List (Nat × Nat) :=
  [(1, 12), (2, 11), (3, 11), (1, 11), (1, 9), (1, 10), (2, 9), (3, 9), (3, 10)]
@[inherit_doc vcvtPairs] def vcvtfPairs : List (Nat × Nat) :=
  [(12, 1), (11, 2), (11, 3), (11, 1), (9, 1), (10, 1), (9, 2), (9, 3), (10, 3)]
@[inherit_doc vcvtPairs] def vsatnPairs : List (Nat × Nat) := [(12, 11), (12, 9), (12, 10), (11, 9), (11, 10)]
@[inherit_doc vcvtPairs] def vwidenPairs : List (Nat × Nat) := [(11, 12), (9, 12), (10, 12), (9, 11), (10, 11)]

/-- One element of a conversion that rounds between formats (R233, R234). -/
def convertElem (a b mode : Nat) (sat : Bool) (n : Nat) : Nat × Fl := convertTo b mode sat (valueOf a n)

/-- A conversion that rounds between formats (R233, R234). -/
def Env.vconv (e : Env) (f : RFmt) (pairs : List (Nat × Nat)) : Except Stop State :=
  let p := pairs.getD e.h.fmt.toNat (1, 1)
  e.convert f (8 * elemSize p.1) (8 * elemSize p.2) (convertElem p.1 p.2 (e.vmode f.imm) (f.imm.getLsbD 3))

/-- One element of an integer conversion that saturates or widens (R370). -/
def integerElem (a b n : Nat) : Nat × Fl :=
  let (sa, wa) := (intOf a).getD (true, 32)
  let (sb, wb) := (intOf b).getD (true, 32)
  let (r, c) := sat (rangeOf sb wb).1 (rangeOf sb wb).2 (laneVal wa sa n)
  (ofI wb r, Fl.when c Fl.satf)

/-- An integer conversion that saturates or widens (R370). -/
def Env.vints (e : Env) (f : RFmt) (pairs : List (Nat × Nat)) : Except Stop State :=
  let p := pairs.getD e.h.fmt.toNat (12, 12)
  e.convert f (8 * elemSize p.1) (8 * elemSize p.2) (integerElem p.1 p.2)

def execVcvt (u : VSlot) (h : Hd) (f : RFmt) (s : State) : Out := runR .vcvt u.slot h f s (fun e => e.vconv f vcvtPairs)
def execVcvti (u : VSlot) (h : Hd) (f : RFmt) (s : State) : Out := runR .vcvti u.slot h f s (fun e => e.vconv f vcvtiPairs)
def execVcvtf (u : VSlot) (h : Hd) (f : RFmt) (s : State) : Out := runR .vcvtf u.slot h f s (fun e => e.vconv f vcvtfPairs)
def execVsatn (u : VSlot) (h : Hd) (f : RFmt) (s : State) : Out := runR .vsatn u.slot h f s (fun e => e.vints f vsatnPairs)
def execVwiden (u : VSlot) (h : Hd) (f : RFmt) (s : State) : Out := runR .vwiden u.slot h f s (fun e => e.vints f vwidenPairs)

/-- The BX magnitude bits and the lane format of VQBX and VDQBX by FMT (R371). -/
def bxForm (fmt : Nat) : Nat × FFmt :=
  (if fmt % 4 = 0 then 2 else if fmt % 4 = 1 then 4 else 7,
    if fmt < 4 then fp32 else if fmt < 8 then bf16 else fp16)

/-- The values of block j of a row. -/
def blockVals (g : FFmt) (v : Row) (j : Nat) : List FV :=
  (List.range 16).map (fun i => unpack g (lane v g.w (16 * j + i)))

/-- VQBX: the blocks of a, as one byte string placed at offset o of b (R371). -/
def vqbxRow (fmt : Nat) (o : Int) (a b : Row) : Row × Fl :=
  let (m, g) := bxForm fmt
  let nb := if g.w = 32 then 2 else 4
  let qs := (List.range nb).map (fun j => bxQuant m (blockVals g a j))
  let str := qs.flatMap (fun q => bytesOf (bxBytes m) q.1)
  (rowOf 8 ((List.range 128).map (fun (i : Nat) =>
    let t := (i : Int) - o
    if 0 ≤ t && t < str.length then (str.getD t.toNat 0).toNat else lane b 8 i)), qs.foldl (fun fl q => fl ||| q.2) 0)

def execVqbx (u : VSlot) (h : Hd) (f : RFmt) (s : State) : Out := runR .vqbx u.slot h f s (fun e => do
  let a ← e.srcV f.sa
  let b ← e.srcV f.sb
  let r := vqbxRow e.h.fmt.toNat (toS 9 (f.imm.toNat % 512)) a b
  e.retV 5 f.dst r.1 r.2)

/-- VDQBX: the values of the blocks at offset o of the two rows, rounded (R371). -/
def vdqbxRow (fmt o mode : Nat) (sat : Bool) (a b : Row) : Row × Fl :=
  let (m, g) := bxForm fmt
  let nb := if g.w = 32 then 2 else 4
  let n := a.toNat + b.toNat * 2 ^ 1024
  let rs := (List.range nb).flatMap (fun j =>
    (bxValues m (bits n (8 * (o + j * bxBytes m)) (8 * bxBytes m))).map (roundTo g mode sat))
  (rowOf g.w (rs.map (·.1)), rs.foldl (fun fl r => fl ||| r.2) 0)

def execVdqbx (u : VSlot) (h : Hd) (f : RFmt) (s : State) : Out := runR .vdqbx u.slot h f s (fun e => do
  let a ← e.srcV f.sa
  let b ← e.srcV f.sb
  let r := vdqbxRow e.h.fmt.toNat (f.imm.toNat % 128) (e.mode (fld (f.imm.setWidth 64) 7 3)) (f.imm.getLsbD 10) a b
  e.retV 5 f.dst r.1 r.2)

/-- The scaled element kinds of VQS8 and VDQS8: E4M3, E5M2 and INT8 (R372). -/
def qsFmt (k : Nat) : Option FFmt := if k = 0 then some e4m3 else if k = 1 then some e5m2 else none

/-- A value times 2^k. -/
def FV.scale (v : FV) (k : Int) : FV :=
  match v with
  | .fin n m e => .fin n m (e + k)
  | v => v

/-- Mag(A × 2^(127 − S)) ≤ L (R372). -/
def qsFits (k : Nat) (a : FV) (sc : Nat) : Bool :=
  let v := a.scale (127 - (sc : Int))
  match k with
  | 0 => cmpMag v.int.natAbs v.exp 448 0 != .gt
  | 1 => cmpMag v.int.natAbs v.exp 57344 0 != .gt
  | _ => intRne v.int.natAbs v.exp ≤ 127

/-- The scale of a group (R372), and NV for a signalling NaN where it is 255. -/
def qsScale (k : Nat) (xs : List FV) : Nat × Fl :=
  let bad := xs.any (fun v => match v with
    | .fin _ _ _ => false
    | _ => true)
  if bad then (255, sigFlag xs) else (least (qsFits k (maxMag xs)) 0 254, 0)

/-- An element under its group's scale (R372). -/
def qsElem (k sc : Nat) (v : FV) : Nat × Fl :=
  if sc = 255 then (if k = 0 then 0x7F else if k = 1 then 0x7E else 0, 0)
  else
    let y := v.scale (127 - (sc : Int))
    match qsFmt k with
    | some g => roundTo g 0 true y
    | none =>
      let i : Int := if y.sign then -(intRne y.int.natAbs y.exp : Nat) else (intRne y.int.natAbs y.exp : Nat)
      let (r, c) := sat (-128) 127 i
      (ofI 8 r, Fl.when (cmpV (.fin (i < 0) i.natAbs 0) y != some .eq) Fl.nx ||| Fl.when c Fl.satf)

/-- VQS8: the elements, or the scales, of a at part p of b (R372); the flags are those of the lanes written
(R224). -/
def vqs8Row (fmt p : Nat) (a b : Row) : Row × Fl :=
  let k := fmt % 4
  let sc := (List.range 2).map (fun g => qsScale k (blockVals fp32 a g))
  let els := (List.range 32).map (fun i => qsElem k ((sc.getD (i / 16) (0, 0)).1) (unpack fp32 (lane a 32 i)))
  let fl := (sc ++ (if fmt < 4 then els else [])).foldl (fun fl x => fl ||| x.2) 0
  let (lo, str) := if fmt < 4 then (32 * p, els.map (·.1)) else (2 * p, sc.map (·.1))
  (rowOf 8 ((List.range 128).map (fun i =>
    if lo ≤ i && i < lo + str.length then str.getD (i - lo) 0 else lane b 8 i)), fl)

def execVqs8 (u : VSlot) (h : Hd) (f : RFmt) (s : State) : Out := runR .vqs8 u.slot h f s (fun e => do
  let a ← e.srcV f.sa
  let b ← e.srcV f.sb
  let r := vqs8Row e.h.fmt.toNat (f.imm.toNat % 64) a b
  e.retV 5 f.dst r.1 r.2)

/-- VDQS8: the elements at part p of a under the scales at place q of b (R372). -/
def vdqs8Row (fmt p q : Nat) (sat : Bool) (a b : Row) : Row × Fl :=
  let rs := (List.range 32).map (fun i =>
    let n := lane a 8 (32 * p + i)
    let sc := lane b 8 (2 * q + i / 16)
    let v := match qsFmt (fmt % 4) with
      | some g => unpack g n
      | none => FV.ofInt false (toS 8 n) 0
    if sc = 255 then (fp32.qnan, 0) else roundTo fp32 0 sat (v.scale ((sc : Int) - 127)))
  (rowOf 32 (rs.map (·.1)), rs.foldl (fun fl r => fl ||| r.2) 0)

def execVdqs8 (u : VSlot) (h : Hd) (f : RFmt) (s : State) : Out := runR .vdqs8 u.slot h f s (fun e => do
  let a ← e.srcV f.sa
  let b ← e.srcV f.sb
  let r := vdqs8Row e.h.fmt.toNat (f.imm.toNat % 4) (fld (f.imm.setWidth 64) 2 6) (f.imm.getLsbD 8) a b
  e.retV 5 f.dst r.1 r.2)

end Sys2Proof.Machine
end

