-- ==== Sys2Proof/Machine/VectorDeep.lean ====
section
/-!
DEFINITION. Deep-file access by computed row, and codebook attention (R377 to R381).
-/

namespace Sys2Proof.Machine

def execVdfrd (u : VSlot) (h : Hd) (f : RFmt) (s : State) : Out := runR .vdfrd u.slot h f s (fun e => do
  let a ← e.srcS f.sa
  let r := e.x.row (a.toNat + f.imm.toNat)
  e.rowCheck [r] []
  e.retV 2 f.dst (e.core.row r))
def execVdfwr (u : VSlot) (h : Hd) (f : RFmt) (s : State) : Out := runR .vdfwr u.slot h f s (fun e => do
  let a ← e.srcS f.sa
  let b ← e.srcV f.sb
  let r := e.x.row (a.toNat + f.imm.toNat)
  e.rowCheck [] [r]
  pure (e.fly { e.result 2 0 false (.row r b allBytes) 0 with w := true, latch := false, replay := false }))

/-- The first row, relative to the partition, of the table that x(SC) names (R378). -/
def Env.tableRow (e : Env) (f : RFmt) : Nat := ((e.x.xReg f.sc.toNat).extractLsb' 0 11).toNat
/-- The eight rows of a table (R378). -/
def Env.tableRows (e : Env) (f : RFmt) : List Nat := (List.range 8).map (fun i => e.x.row (e.tableRow f + i))
/-- The code of token lane i (R378). -/
def codeOf (f : RFmt) (a : Row) (i : Nat) : Nat := lane a 8 (32 * (f.imm.toNat % 4) + i)

def execVluta (u : VSlot) (h : Hd) (f : RFmt) (s : State) : Out := runR .vluta u.slot h f s (fun e => do
  let a ← e.srcV f.sa
  let b ← e.srcV f.sb
  e.rowCheck (e.tableRows f) []
  e.lanes f.dst (e.vmask f.imm) 4 32 (fun i =>
    let (r, l) := binPlace e.x (e.tableRow f) (codeOf f a i)
    fAdd fp32 0 (unpack fp32 (lane b 32 i)) (unpack fp32 (lane (e.core.row r) 32 l))))
def execVbina (u : VSlot) (h : Hd) (f : RFmt) (s : State) : Out := runR .vbina u.slot h f s (fun e => do
  let a ← e.srcV f.sa
  let b ← e.srcV f.sb
  e.rowCheck (e.tableRows f) (e.tableRows f)
  let ps := ((List.range 32).filter (laneBit (e.vmask f.imm) 32)).map (fun i =>
    (codeOf f a i, BitVec.ofNat 32 (lane b 32 i)))
  e.fpCheck (e.core.addBins e.x (e.tableRow f) ps).2
  pure (e.fly { e.result 6 0 false (.bins (e.tableRow f) ps) 0 with w := true, latch := false, replay := false }))

end Sys2Proof.Machine
end

