-- ==== Sys2Proof/Machine/Dispatch.lean ====
section
/-!
DEFINITION. The meaning of each instruction of the table: one arm per constructor, one direct call of
its meaning.
-/

namespace Sys2Proof.Machine

def exec (i : Instr) (s : State) : Host.Outcome State Fault Refusal :=
  match i with
  | .moduleReset => Sys2Proof.Machine.execModuleReset s
  | .bootStage m => Sys2Proof.Machine.execBootStage m s
  | .powerSample mw temp => Sys2Proof.Machine.execPowerSample mw temp s
  | .throttleRaise => Sys2Proof.Machine.execThrottleRaise s
  | .throttleLower => Sys2Proof.Machine.execThrottleLower s
  | .powerAlarm => Sys2Proof.Machine.execPowerAlarm s
  | .coreFrequencyChange core => Sys2Proof.Machine.execCoreFrequencyChange core s
  | .patrolScrub pa e => Sys2Proof.Machine.execPatrolScrub pa e s
  | .freezePin => Sys2Proof.Machine.execFreezePin s
  | .thermalTrip die => Sys2Proof.Machine.execThermalTrip die s
  | .oarovFirmwareFault => Sys2Proof.Machine.execOarovFirmwareFault s
  | .mgmtFreeze q => Sys2Proof.Machine.execMgmtFreeze q s
  | .mgmtReadOut q => Sys2Proof.Machine.execMgmtReadOut q s
  | .mgmtPowerLimit q watts => Sys2Proof.Machine.execMgmtPowerLimit q watts s
  | .mgmtImageReplacement q stage m => Sys2Proof.Machine.execMgmtImageReplacement q stage m s
  | .mgmtLoaderKeyEnrol q key => Sys2Proof.Machine.execMgmtLoaderKeyEnrol q key s
  | .mgmtRegisterRead off q => Sys2Proof.Machine.execMgmtRegisterRead off s q
  | .mgmtTelemetryRead sel q => Sys2Proof.Machine.execMgmtTelemetryRead sel s q
  | .mgmtCertificateRead q => Sys2Proof.Machine.execMgmtCertificateRead s q
  | .mgmtAttestation nonce q => Sys2Proof.Machine.execMgmtAttestation nonce s q
  | .mbcmdAttestation v => Sys2Proof.Machine.execMbcmdAttestation v s
  | .mailboxDone => Sys2Proof.Machine.execMailboxDone s
  | .registerWrite addr width v => Sys2Proof.Machine.execRegisterWrite addr width v s
  | .flitReceive link bytes => Sys2Proof.Machine.execFlitReceive link bytes s
  | .retryRequestReceive link seq => Sys2Proof.Machine.execRetryRequestReceive link seq s
  | .linkFlitSlot link => Sys2Proof.Machine.execLinkFlitSlot link s
  | .linkRetrain link => Sys2Proof.Machine.execLinkRetrain link s
  | .linkDisable link => Sys2Proof.Machine.execLinkDisable link s
  | .linkTrained link peerMod peerZb => Sys2Proof.Machine.execLinkTrained link peerMod peerZb s
  | .linkTrainingTimeout link => Sys2Proof.Machine.execLinkTrainingTimeout link s
  | .laneLockLoss link => Sys2Proof.Machine.execLaneLockLoss link s
  | .linkStall link => Sys2Proof.Machine.execLinkStall link s
  | .messageForward m => Sys2Proof.Machine.execMessageForward m s
  | .sendRequestArrive m => Sys2Proof.Machine.execSendRequestArrive m s
  | .sendGrantArrive m => Sys2Proof.Machine.execSendGrantArrive m s
  | .sendRefusalArrive m => Sys2Proof.Machine.execSendRefusalArrive m s
  | .sendRetryTimer core job => Sys2Proof.Machine.execSendRetryTimer core job s
  | .typedDataArrive m => Sys2Proof.Machine.execTypedDataArrive m s
  | .blockTransferArrive m => Sys2Proof.Machine.execBlockTransferArrive m s
  | .transferAckArrive m => Sys2Proof.Machine.execTransferAckArrive m s
  | .remotePostArrive m => Sys2Proof.Machine.execRemotePostArrive m s
  | .remoteBarrierArrival m => Sys2Proof.Machine.execRemoteBarrierArrival m s
  | .pxRemoteCommand m => Sys2Proof.Machine.execPxRemoteCommand m s
  | .collJobStart g => Sys2Proof.Machine.execCollJobStart g s
  | .collContributionArrive m => Sys2Proof.Machine.execCollContributionArrive m s
  | .collJobComplete g => Sys2Proof.Machine.execCollJobComplete g s
  | .collTimeout g => Sys2Proof.Machine.execCollTimeout g s
  | .launchQueueTailWrite n v => Sys2Proof.Machine.execLaunchQueueTailWrite n v s
  | .launchRecordRead => Sys2Proof.Machine.execLaunchRecordRead s
  | .consumerHeadWrite r v => Sys2Proof.Machine.execConsumerHeadWrite r v s
  | .taskComplete task => Sys2Proof.Machine.execTaskComplete task s
  | .completionDrain => Sys2Proof.Machine.execCompletionDrain s
  | .faultRecordDrain => Sys2Proof.Machine.execFaultRecordDrain s
  | .translationChannelTailWrite v => Sys2Proof.Machine.execTranslationChannelTailWrite v s
  | .ptwrite => Sys2Proof.Machine.execPtwrite s
  | .inval => Sys2Proof.Machine.execInval s
  | .replay => Sys2Proof.Machine.execReplay s
  | .kill => Sys2Proof.Machine.execKill s
  | .retire => Sys2Proof.Machine.execRetire s
  | .mark => Sys2Proof.Machine.execMark s
  | .tlbMissWalk r => Sys2Proof.Machine.execTlbMissWalk r s
  | .pageWalkComplete r => Sys2Proof.Machine.execPageWalkComplete r s
  | .keyLoad => Sys2Proof.Machine.execKeyLoad s
  | .keyClear => Sys2Proof.Machine.execKeyClear s
  | .keyCommandFinish => Sys2Proof.Machine.execKeyCommandFinish s
  | .tierFramePop t => Sys2Proof.Machine.execTierFramePop t s
  | .tierFramePush t v => Sys2Proof.Machine.execTierFramePush t v s
  | .tierClockStep t => Sys2Proof.Machine.execTierClockStep t s
  | .demotionStart t => Sys2Proof.Machine.execDemotionStart t s
  | .demotionDrain t => Sys2Proof.Machine.execDemotionDrain t s
  | .demotionFinish t => Sys2Proof.Machine.execDemotionFinish t s
  | .storageOutRecord t => Sys2Proof.Machine.execStorageOutRecord t s
  | .mediaRingConfigWrite n size v => Sys2Proof.Machine.execMediaRingConfigWrite n size v s
  | .mediaCardPoll n => Sys2Proof.Machine.execMediaCardPoll n s
  | .decodeCard n => Sys2Proof.Machine.execDecodeCard n s
  | .resizeCard n => Sys2Proof.Machine.execResizeCard n s
  | .mediaCardComplete n => Sys2Proof.Machine.execMediaCardComplete n s
  | .nvmeCompletion e cid sf data => Sys2Proof.Machine.execNvmeCompletion e cid sf data s
  | .nvmeCommandTimeout e cid => Sys2Proof.Machine.execNvmeCommandTimeout e cid s
  | .cxlLinkDown p => Sys2Proof.Machine.execCxlLinkDown p s
  | .pxDisable p v => Sys2Proof.Machine.execPxDisable p v s
  | .pxInit p => Sys2Proof.Machine.execPxInit p s
  | .pxInitComplete p => Sys2Proof.Machine.execPxInitComplete p s
  | .pxRequantStart p => Sys2Proof.Machine.execPxRequantStart p s
  | .pxRequantStep p => Sys2Proof.Machine.execPxRequantStep p s
  | .pxReclaim p t => Sys2Proof.Machine.execPxReclaim p t s
  | .lookup => Sys2Proof.Machine.execLookup s
  | .insert => Sys2Proof.Machine.execInsert s
  | .fork => Sys2Proof.Machine.execFork s
  | .append => Sys2Proof.Machine.execAppend s
  | .release => Sys2Proof.Machine.execRelease s
  | .taskPlacementAssign task => Sys2Proof.Machine.execTaskPlacementAssign task s
  | .placementSelect task => Sys2Proof.Machine.execPlacementSelect task s
  | .reserveRequest core task => Sys2Proof.Machine.execReserveRequest core task s
  | .phase1Result task => Sys2Proof.Machine.execPhase1Result task s
  | .reservationTimeout core => Sys2Proof.Machine.execReservationTimeout core s
  | .placementBackoffExpiry task => Sys2Proof.Machine.execPlacementBackoffExpiry task s
  | .holdSlotGrant die => Sys2Proof.Machine.execHoldSlotGrant die s
  | .quantumBoundary die => Sys2Proof.Machine.execQuantumBoundary die s
  | .stopRequest task => Sys2Proof.Machine.execStopRequest task s
  | .stopCutBroadcast task => Sys2Proof.Machine.execStopCutBroadcast task s
  | .stopTimeout task => Sys2Proof.Machine.execStopTimeout task s
  | .swapOut task => Sys2Proof.Machine.execSwapOut task s
  | .swapIn task => Sys2Proof.Machine.execSwapIn task s
  | .takeClaim core ctx => Sys2Proof.Machine.execTakeClaim core ctx s
  | .deviceLaunch core ctx => Sys2Proof.Machine.execDeviceLaunch core ctx s
  | .xrouteApply core ctx => Sys2Proof.Machine.execXrouteApply core ctx s
  | .xrouteResume task => Sys2Proof.Machine.execXrouteResume task s
  | .resultLand core => Sys2Proof.Machine.execResultLand core s
  | .loadReturn core ctx => Sys2Proof.Machine.execLoadReturn core ctx s
  | .varResultReturn core ctx => Sys2Proof.Machine.execVarResultReturn core ctx s
  | .trapEntry core ctx => Sys2Proof.Machine.execTrapEntry core ctx s
  | .watchdog core ctx => Sys2Proof.Machine.execWatchdog core ctx s
  | .sleepExpiry core ctx => Sys2Proof.Machine.execSleepExpiry core ctx s
  | .copyJobStart core => Sys2Proof.Machine.execCopyJobStart core s
  | .copyJobComplete core => Sys2Proof.Machine.execCopyJobComplete core s
  | .matrixJobStart core => Sys2Proof.Machine.execMatrixJobStart core s
  | .matrixJobComplete core => Sys2Proof.Machine.execMatrixJobComplete core s
  | .mergeOpenApply cluster => Sys2Proof.Machine.execMergeOpenApply cluster s
  | .mergePushApply cluster => Sys2Proof.Machine.execMergePushApply cluster s
  | .mergeCloseApply cluster => Sys2Proof.Machine.execMergeCloseApply cluster s
  | .mergeStatusApply cluster => Sys2Proof.Machine.execMergeStatusApply cluster s
  | .loadBlockSettled core id => Sys2Proof.Machine.execLoadBlockSettled core id s
  | .rplackComplete core ctx => Sys2Proof.Machine.execRplackComplete core ctx s
  | .nop k => Sys2Proof.Machine.execNop k s
  | .add h f => Sys2Proof.Machine.execAdd h f s
  | .sub h f => Sys2Proof.Machine.execSub h f s
  | .mul h f => Sys2Proof.Machine.execMul h f s
  | .mulh h f => Sys2Proof.Machine.execMulh h f s
  | .mulhu h f => Sys2Proof.Machine.execMulhu h f s
  | .div h f => Sys2Proof.Machine.execDiv h f s
  | .divu h f => Sys2Proof.Machine.execDivu h f s
  | .rem h f => Sys2Proof.Machine.execRem h f s
  | .remu h f => Sys2Proof.Machine.execRemu h f s
  | .and h f => Sys2Proof.Machine.execAnd h f s
  | .or h f => Sys2Proof.Machine.execOr h f s
  | .xor h f => Sys2Proof.Machine.execXor h f s
  | .andn h f => Sys2Proof.Machine.execAndn h f s
  | .shl h f => Sys2Proof.Machine.execShl h f s
  | .shr h f => Sys2Proof.Machine.execShr h f s
  | .sra h f => Sys2Proof.Machine.execSra h f s
  | .rol h f => Sys2Proof.Machine.execRol h f s
  | .min h f => Sys2Proof.Machine.execMin h f s
  | .max h f => Sys2Proof.Machine.execMax h f s
  | .minu h f => Sys2Proof.Machine.execMinu h f s
  | .maxu h f => Sys2Proof.Machine.execMaxu h f s
  | .clz h f => Sys2Proof.Machine.execClz h f s
  | .ctz h f => Sys2Proof.Machine.execCtz h f s
  | .popc h f => Sys2Proof.Machine.execPopc h f s
  | .sext h f => Sys2Proof.Machine.execSext h f s
  | .zext h f => Sys2Proof.Machine.execZext h f s
  | .sel h f => Sys2Proof.Machine.execSel h f s
  | .cmp h f => Sys2Proof.Machine.execCmp h f s
  | .cmpi h f => Sys2Proof.Machine.execCmpi h f s
  | .addi h f => Sys2Proof.Machine.execAddi h f s
  | .andi h f => Sys2Proof.Machine.execAndi h f s
  | .ori h f => Sys2Proof.Machine.execOri h f s
  | .xori h f => Sys2Proof.Machine.execXori h f s
  | .shli h f => Sys2Proof.Machine.execShli h f s
  | .shri h f => Sys2Proof.Machine.execShri h f s
  | .srai h f => Sys2Proof.Machine.execSrai h f s
  | .li h f => Sys2Proof.Machine.execLi h f s
  | .lih h f => Sys2Proof.Machine.execLih h f s
  | .plog h f => Sys2Proof.Machine.execPlog h f s
  | .fadd h f => Sys2Proof.Machine.execFadd h f s
  | .fsub h f => Sys2Proof.Machine.execFsub h f s
  | .fmul h f => Sys2Proof.Machine.execFmul h f s
  | .fma h f => Sys2Proof.Machine.execFma h f s
  | .fdiv h f => Sys2Proof.Machine.execFdiv h f s
  | .fsqrt h f => Sys2Proof.Machine.execFsqrt h f s
  | .fmin h f => Sys2Proof.Machine.execFmin h f s
  | .fmax h f => Sys2Proof.Machine.execFmax h f s
  | .fcmp h f => Sys2Proof.Machine.execFcmp h f s
  | .fcvt h f => Sys2Proof.Machine.execFcvt h f s
  | .fsgn h f => Sys2Proof.Machine.execFsgn h f s
  | .fcls h f => Sys2Proof.Machine.execFcls h f s
  | .br h f => Sys2Proof.Machine.execBr h f s
  | .call h f => Sys2Proof.Machine.execCall h f s
  | .jr h f => Sys2Proof.Machine.execJr h f s
  | .loop h f => Sys2Proof.Machine.execLoop h f s
  | .edge h f => Sys2Proof.Machine.execEdge h f s
  | .bkj h f => Sys2Proof.Machine.execBkj h f s
  | .trap h f => Sys2Proof.Machine.execTrap h f s
  | .tret h f => Sys2Proof.Machine.execTret h f s
  | .exit h f => Sys2Proof.Machine.execExit h f s
  | .cmov h f => Sys2Proof.Machine.execCmov h f s
  | .cbnd h f => Sys2Proof.Machine.execCbnd h f s
  | .cbndi h f => Sys2Proof.Machine.execCbndi h f s
  | .crst h f => Sys2Proof.Machine.execCrst h f s
  | .coff h f => Sys2Proof.Machine.execCoff h f s
  | .coffi h f => Sys2Proof.Machine.execCoffi h f s
  | .cseto h f => Sys2Proof.Machine.execCseto h f s
  | .cchk h f => Sys2Proof.Machine.execCchk h f s
  | .cget h f => Sys2Proof.Machine.execCget h f s
  | .cclr h f => Sys2Proof.Machine.execCclr h f s
  | .cclrMk h f => Sys2Proof.Machine.execCclrMk h f s
  | .csub h f => Sys2Proof.Machine.execCsub h f s
  | .dset h f => Sys2Proof.Machine.execDset h f s
  | .dseti h f => Sys2Proof.Machine.execDseti h f s
  | .dget h f => Sys2Proof.Machine.execDget h f s
  | .dunb h f => Sys2Proof.Machine.execDunb h f s
  | .mfsr h f => Sys2Proof.Machine.execMfsr h f s
  | .mtsr h f => Sys2Proof.Machine.execMtsr h f s
  | .mfsrc h f => Sys2Proof.Machine.execMfsrc h f s
  | .mtsrc h f => Sys2Proof.Machine.execMtsrc h f s
  | .vadd u h f => Sys2Proof.Machine.execVadd u h f s
  | .vsub u h f => Sys2Proof.Machine.execVsub u h f s
  | .vadds u h f => Sys2Proof.Machine.execVadds u h f s
  | .vsubs u h f => Sys2Proof.Machine.execVsubs u h f s
  | .vmul u h f => Sys2Proof.Machine.execVmul u h f s
  | .vmulh u h f => Sys2Proof.Machine.execVmulh u h f s
  | .vmin u h f => Sys2Proof.Machine.execVmin u h f s
  | .vmax u h f => Sys2Proof.Machine.execVmax u h f s
  | .vabs u h f => Sys2Proof.Machine.execVabs u h f s
  | .vand u h f => Sys2Proof.Machine.execVand u h f s
  | .vor u h f => Sys2Proof.Machine.execVor u h f s
  | .vxor u h f => Sys2Proof.Machine.execVxor u h f s
  | .vandn u h f => Sys2Proof.Machine.execVandn u h f s
  | .vshl u h f => Sys2Proof.Machine.execVshl u h f s
  | .vshr u h f => Sys2Proof.Machine.execVshr u h f s
  | .vsra u h f => Sys2Proof.Machine.execVsra u h f s
  | .vshli u h f => Sys2Proof.Machine.execVshli u h f s
  | .vshri u h f => Sys2Proof.Machine.execVshri u h f s
  | .vsrai u h f => Sys2Proof.Machine.execVsrai u h f s
  | .vclz u h f => Sys2Proof.Machine.execVclz u h f s
  | .vpopc u h f => Sys2Proof.Machine.execVpopc u h f s
  | .vaddi u h f => Sys2Proof.Machine.execVaddi u h f s
  | .vli u h f => Sys2Proof.Machine.execVli u h f s
  | .vfadd u h f => Sys2Proof.Machine.execVfadd u h f s
  | .vfsub u h f => Sys2Proof.Machine.execVfsub u h f s
  | .vfmul u h f => Sys2Proof.Machine.execVfmul u h f s
  | .vfma u h f => Sys2Proof.Machine.execVfma u h f s
  | .vfms u h f => Sys2Proof.Machine.execVfms u h f s
  | .vfnma u h f => Sys2Proof.Machine.execVfnma u h f s
  | .vfmin u h f => Sys2Proof.Machine.execVfmin u h f s
  | .vfmax u h f => Sys2Proof.Machine.execVfmax u h f s
  | .vfabs u h f => Sys2Proof.Machine.execVfabs u h f s
  | .vfneg u h f => Sys2Proof.Machine.execVfneg u h f s
  | .vfdiv u h f => Sys2Proof.Machine.execVfdiv u h f s
  | .vfsqrt u h f => Sys2Proof.Machine.execVfsqrt u h f s
  | .vfrcp u h f => Sys2Proof.Machine.execVfrcp u h f s
  | .vexp2 u h f => Sys2Proof.Machine.execVexp2 u h f s
  | .vlog2 u h f => Sys2Proof.Machine.execVlog2 u h f s
  | .vsin u h f => Sys2Proof.Machine.execVsin u h f s
  | .vcos u h f => Sys2Proof.Machine.execVcos u h f s
  | .vtanh u h f => Sys2Proof.Machine.execVtanh u h f s
  | .vrsq u h f => Sys2Proof.Machine.execVrsq u h f s
  | .vsig u h f => Sys2Proof.Machine.execVsig u h f s
  | .verf u h f => Sys2Proof.Machine.execVerf u h f s
  | .vcmp u h f => Sys2Proof.Machine.execVcmp u h f s
  | .vfcmp u h f => Sys2Proof.Machine.execVfcmp u h f s
  | .vsel u h f => Sys2Proof.Machine.execVsel u h f s
  | .vmlog u h f => Sys2Proof.Machine.execVmlog u h f s
  | .vmtv u h f => Sys2Proof.Machine.execVmtv u h f s
  | .vvtm u h f => Sys2Proof.Machine.execVvtm u h f s
  | .viota u h f => Sys2Proof.Machine.execViota u h f s
  | .vcvt u h f => Sys2Proof.Machine.execVcvt u h f s
  | .vcvti u h f => Sys2Proof.Machine.execVcvti u h f s
  | .vcvtf u h f => Sys2Proof.Machine.execVcvtf u h f s
  | .vsatn u h f => Sys2Proof.Machine.execVsatn u h f s
  | .vwiden u h f => Sys2Proof.Machine.execVwiden u h f s
  | .vqbx u h f => Sys2Proof.Machine.execVqbx u h f s
  | .vdqbx u h f => Sys2Proof.Machine.execVdqbx u h f s
  | .vqs8 u h f => Sys2Proof.Machine.execVqs8 u h f s
  | .vdqs8 u h f => Sys2Proof.Machine.execVdqs8 u h f s
  | .vperm u h f => Sys2Proof.Machine.execVperm u h f s
  | .vpermi u h f => Sys2Proof.Machine.execVpermi u h f s
  | .vbcst u h f => Sys2Proof.Machine.execVbcst u h f s
  | .vsplat u h f => Sys2Proof.Machine.execVsplat u h f s
  | .vshuf u h f => Sys2Proof.Machine.execVshuf u h f s
  | .vrotm u h f => Sys2Proof.Machine.execVrotm u h f s
  | .vzip u h f => Sys2Proof.Machine.execVzip u h f s
  | .vunzip u h f => Sys2Proof.Machine.execVunzip u h f s
  | .vins u h f => Sys2Proof.Machine.execVins u h f s
  | .vcompr u h f => Sys2Proof.Machine.execVcompr u h f s
  | .vexpd u h f => Sys2Proof.Machine.execVexpd u h f s
  | .vmov u h f => Sys2Proof.Machine.execVmov u h f s
  | .vcxs u h f => Sys2Proof.Machine.execVcxs u h f s
  | .vradd u h f => Sys2Proof.Machine.execVradd u h f s
  | .vrfadd u h f => Sys2Proof.Machine.execVrfadd u h f s
  | .vrmax u h f => Sys2Proof.Machine.execVrmax u h f s
  | .vrmin u h f => Sys2Proof.Machine.execVrmin u h f s
  | .vrfmax u h f => Sys2Proof.Machine.execVrfmax u h f s
  | .vrfmin u h f => Sys2Proof.Machine.execVrfmin u h f s
  | .vscan u h f => Sys2Proof.Machine.execVscan u h f s
  | .vfscan u h f => Sys2Proof.Machine.execVfscan u h f s
  | .vdot u h f => Sys2Proof.Machine.execVdot u h f s
  | .vfdot u h f => Sys2Proof.Machine.execVfdot u h f s
  | .vdfrd u h f => Sys2Proof.Machine.execVdfrd u h f s
  | .vdfwr u h f => Sys2Proof.Machine.execVdfwr u h f s
  | .vluta u h f => Sys2Proof.Machine.execVluta u h f s
  | .vbina u h f => Sys2Proof.Machine.execVbina u h f s
  | .tset h f => Sys2Proof.Machine.execTset h f s
  | .tcpy h f => Sys2Proof.Machine.execTcpy h f s
  | .tgetl h f => Sys2Proof.Machine.execTgetl h f s
  | .tgeth h f => Sys2Proof.Machine.execTgeth h f s
  | .tsto h f => Sys2Proof.Machine.execTsto h f s
  | .tstoi h f => Sys2Proof.Machine.execTstoi h f s
  | .tgets h f => Sys2Proof.Machine.execTgets h f s
  | .tclr h f => Sys2Proof.Machine.execTclr h f s
  | .text h f => Sys2Proof.Machine.execText h f s
  | .tsext h f => Sys2Proof.Machine.execTsext h f s
  | .tsexti h f => Sys2Proof.Machine.execTsexti h f s
  | .trshp h f => Sys2Proof.Machine.execTrshp h f s
  | .ttrn h f => Sys2Proof.Machine.execTtrn h f s
  | .tcast h f => Sys2Proof.Machine.execTcast h f s
  | .tslc h f => Sys2Proof.Machine.execTslc h f s
  | .tslci h f => Sys2Proof.Machine.execTslci h f s
  | .tchk h f => Sys2Proof.Machine.execTchk h f s
  | .tbind h f => Sys2Proof.Machine.execTbind h f s
  | .tinfo h f => Sys2Proof.Machine.execTinfo h f s
  | .mtw h f => Sys2Proof.Machine.execMtw h f s
  | .mtwi h f => Sys2Proof.Machine.execMtwi h f s
  | .mtr h f => Sys2Proof.Machine.execMtr h f s
  | .mgo h f => Sys2Proof.Machine.execMgo h f s
  | .mgoTm h f => Sys2Proof.Machine.execMgoTm h f s
  | .mstep h f => Sys2Proof.Machine.execMstep h f s
  | .mscl h f => Sys2Proof.Machine.execMscl h f s
  | .maclr h f => Sys2Proof.Machine.execMaclr h f s
  | .mard h f => Sys2Proof.Machine.execMard h f s
  | .mawr h f => Sys2Proof.Machine.execMawr h f s
  | .mepi h f => Sys2Proof.Machine.execMepi h f s
  | .mepiq h f => Sys2Proof.Machine.execMepiq h f s
  | .mstz h f => Sys2Proof.Machine.execMstz h f s
  | .mmul h f => Sys2Proof.Machine.execMmul h f s
  | .tfill h f => Sys2Proof.Machine.execTfill h f s
  | .tcopy h f => Sys2Proof.Machine.execTcopy h f s
  | .tqbx h f => Sys2Proof.Machine.execTqbx h f s
  | .tdqbx h f => Sys2Proof.Machine.execTdqbx h f s
  | .tzb h f => Sys2Proof.Machine.execTzb h f s
  | .tzx h f => Sys2Proof.Machine.execTzx h f s
  | .twex h f => Sys2Proof.Machine.execTwex h f s
  | .ldb h f => Sys2Proof.Machine.execLdb h f s
  | .ldbz h f => Sys2Proof.Machine.execLdbz h f s
  | .ldh h f => Sys2Proof.Machine.execLdh h f s
  | .ldhz h f => Sys2Proof.Machine.execLdhz h f s
  | .ldw h f => Sys2Proof.Machine.execLdw h f s
  | .ldwz h f => Sys2Proof.Machine.execLdwz h f s
  | .ldd h f => Sys2Proof.Machine.execLdd h f s
  | .ldv h f => Sys2Proof.Machine.execLdv h f s
  | .ldvx h f => Sys2Proof.Machine.execLdvx h f s
  | .ldg h f => Sys2Proof.Machine.execLdg h f s
  | .ldcap h f => Sys2Proof.Machine.execLdcap h f s
  | .ldt h f => Sys2Proof.Machine.execLdt h f s
  | .ldtx h f => Sys2Proof.Machine.execLdtx h f s
  | .lds h f => Sys2Proof.Machine.execLds h f s
  | .ldsx h f => Sys2Proof.Machine.execLdsx h f s
  | .pop h f => Sys2Proof.Machine.execPop h f s
  | .lbd h f => Sys2Proof.Machine.execLbd h f s
  | .lddx h f => Sys2Proof.Machine.execLddx h f s
  | .ldwx h f => Sys2Proof.Machine.execLdwx h f s
  | .ldbx h f => Sys2Proof.Machine.execLdbx h f s
  | .ldhx h f => Sys2Proof.Machine.execLdhx h f s
  | .ldvm h f => Sys2Proof.Machine.execLdvm h f s
  | .ldcx h f => Sys2Proof.Machine.execLdcx h f s
  | .stb h f => Sys2Proof.Machine.execStb h f s
  | .sth h f => Sys2Proof.Machine.execSth h f s
  | .stw h f => Sys2Proof.Machine.execStw h f s
  | .std h f => Sys2Proof.Machine.execStd h f s
  | .stv h f => Sys2Proof.Machine.execStv h f s
  | .stvx h f => Sys2Proof.Machine.execStvx h f s
  | .stvm h f => Sys2Proof.Machine.execStvm h f s
  | .sct h f => Sys2Proof.Machine.execSct h f s
  | .stcap h f => Sys2Proof.Machine.execStcap h f s
  | .stt h f => Sys2Proof.Machine.execStt h f s
  | .sttx h f => Sys2Proof.Machine.execSttx h f s
  | .push h f => Sys2Proof.Machine.execPush h f s
  | .stbx h f => Sys2Proof.Machine.execStbx h f s
  | .sthx h f => Sys2Proof.Machine.execSthx h f s
  | .stwx h f => Sys2Proof.Machine.execStwx h f s
  | .stdx h f => Sys2Proof.Machine.execStdx h f s
  | .aadd h f => Sys2Proof.Machine.execAadd h f s
  | .amin h f => Sys2Proof.Machine.execAmin h f s
  | .amax h f => Sys2Proof.Machine.execAmax h f s
  | .aminu h f => Sys2Proof.Machine.execAminu h f s
  | .amaxu h f => Sys2Proof.Machine.execAmaxu h f s
  | .aand h f => Sys2Proof.Machine.execAand h f s
  | .aor h f => Sys2Proof.Machine.execAor h f s
  | .axor h f => Sys2Proof.Machine.execAxor h f s
  | .axch h f => Sys2Proof.Machine.execAxch h f s
  | .acas h f => Sys2Proof.Machine.execAcas h f s
  | .afadd h f => Sys2Proof.Machine.execAfadd h f s
  | .ctw h f => Sys2Proof.Machine.execCtw h f s
  | .ctwi h f => Sys2Proof.Machine.execCtwi h f s
  | .ctr h f => Sys2Proof.Machine.execCtr h f s
  | .cgomm h f => Sys2Proof.Machine.execCgomm h f s
  | .cgomd h f => Sys2Proof.Machine.execCgomd h f s
  | .cgome h f => Sys2Proof.Machine.execCgome h f s
  | .cgoma h f => Sys2Proof.Machine.execCgoma h f s
  | .cgomk h f => Sys2Proof.Machine.execCgomk h f s
  | .cgodm h f => Sys2Proof.Machine.execCgodm h f s
  | .cgodd h f => Sys2Proof.Machine.execCgodd h f s
  | .cgode h f => Sys2Proof.Machine.execCgode h f s
  | .cgoda h f => Sys2Proof.Machine.execCgoda h f s
  | .cgodk h f => Sys2Proof.Machine.execCgodk h f s
  | .cgoam h f => Sys2Proof.Machine.execCgoam h f s
  | .cgoad h f => Sys2Proof.Machine.execCgoad h f s
  | .cgoae h f => Sys2Proof.Machine.execCgoae h f s
  | .cgoaa h f => Sys2Proof.Machine.execCgoaa h f s
  | .cgoak h f => Sys2Proof.Machine.execCgoak h f s
  | .rkdef h f => Sys2Proof.Machine.execRkdef h f s
  | .mopen h f => Sys2Proof.Machine.execMopen h f s
  | .mpush h f => Sys2Proof.Machine.execMpush h f s
  | .mpushe h f => Sys2Proof.Machine.execMpushe h f s
  | .mclose h f => Sys2Proof.Machine.execMclose h f s
  | .mstat h f => Sys2Proof.Machine.execMstat h f s
  | .pxlkp h f => Sys2Proof.Machine.execPxlkp h f s
  | .pxins h f => Sys2Proof.Machine.execPxins h f s
  | .pxfrk h f => Sys2Proof.Machine.execPxfrk h f s
  | .pxapp h f => Sys2Proof.Machine.execPxapp h f s
  | .pxrel h f => Sys2Proof.Machine.execPxrel h f s
  | .xroute h f => Sys2Proof.Machine.execXroute h f s
  | .take h f => Sys2Proof.Machine.execTake h f s
  | .launch h f => Sys2Proof.Machine.execLaunch h f s
  | .send h f => Sys2Proof.Machine.execSend h f s
  | .recv h f => Sys2Proof.Machine.execRecv h f s
  | .recva h f => Sys2Proof.Machine.execRecva h f s
  | .coll h f => Sys2Proof.Machine.execColl h f s
  | .sgrd h f => Sys2Proof.Machine.execSgrd h f s
  | .rplack h f => Sys2Proof.Machine.execRplack h f s
  | .bxfer h f => Sys2Proof.Machine.execBxfer h f s
  | .wait h f => Sys2Proof.Machine.execWait h f s
  | .waitPh h f => Sys2Proof.Machine.execWaitPh h f s
  | .waits h f => Sys2Proof.Machine.execWaits h f s
  | .post h f => Sys2Proof.Machine.execPost h f s
  | .posts h f => Sys2Proof.Machine.execPosts h f s
  | .rpost h f => Sys2Proof.Machine.execRpost h f s
  | .expt h f => Sys2Proof.Machine.execExpt h f s
  | .arv h f => Sys2Proof.Machine.execArv h f s
  | .arvw h f => Sys2Proof.Machine.execArvw h f s
  | .bwait h f => Sys2Proof.Machine.execBwait h f s
  | .strag h f => Sys2Proof.Machine.execStrag h f s
  | .gate h f => Sys2Proof.Machine.execGate h f s
  | .gateS h f => Sys2Proof.Machine.execGateS h f s
  | .efence h f => Sys2Proof.Machine.execEfence h f s
  | .ifence h f => Sys2Proof.Machine.execIfence h f s
  | .yield h f => Sys2Proof.Machine.execYield h f s
  | .sleep h f => Sys2Proof.Machine.execSleep h f s
  | .sleepS h f => Sys2Proof.Machine.execSleepS h f s
  | .frd h f => Sys2Proof.Machine.execFrd h f s
  | .fclr h f => Sys2Proof.Machine.execFclr h f s
  | .bphase h f => Sys2Proof.Machine.execBphase h f s
  | .waitm h f => Sys2Proof.Machine.execWaitm h f s
  | .cxlLinkUp p => Sys2Proof.Machine.execCxlLinkUp p s
  | .rinkRowFilled core k => Sys2Proof.Machine.execRinkRowFilled core k s
  | .pxRemoteReplyArrive m => Sys2Proof.Machine.execPxRemoteReplyArrive m s

end Sys2Proof.Machine
end

