-- ==== Sys2Proof/Machine/Schedule.lean ====
section
/-!
DEFINITION. What moves next. The manual lets the module's agents run side by side; the model takes them one at a time,
in the order that the state's `sched` gives, and in rotation where it gives none.
-/

namespace Sys2Proof.Machine

/-- Events of the Oarov controller and its management port, which run in recovery mode too (R26, R30).
(DEDUCED, log 5.) -/
def controllerEvent : Instr → Bool
  | .moduleReset | .bootStage _ | .powerSample _ _ | .throttleRaise | .throttleLower | .powerAlarm | .freezePin | .thermalTrip _
  | .oarovFirmwareFault | .mgmtFreeze _ | .mgmtReadOut _ | .mgmtPowerLimit _ _ | .mgmtImageReplacement _ _ _
  | .mgmtLoaderKeyEnrol _ _ | .mgmtRegisterRead _ _ | .mgmtTelemetryRead _ _ | .mgmtCertificateRead _ | .mgmtAttestation _ _ => true
  | _ => false

/-- Events that a frozen module still takes: a reset and the management port (R25 to R27). (DEDUCED, log 5.) -/
def frozenEvent : Instr → Bool
  | .moduleReset | .mgmtFreeze _ | .mgmtReadOut _ | .mgmtPowerLimit _ _ | .mgmtImageReplacement _ _ _
  | .mgmtLoaderKeyEnrol _ _ | .mgmtRegisterRead _ _ | .mgmtTelemetryRead _ _ | .mgmtCertificateRead _ | .mgmtAttestation _ _ => true
  | _ => false

/-- The code of an event that asserts the freeze (R24); 0 of any other. -/
def freezeCode : Instr → Nat
  | .freezePin => 1
  | .mgmtFreeze _ => 2
  | .thermalTrip _ => 3
  | .patrolScrub _ .sharedStructure => 4
  | .oarovFirmwareFault => 5
  | _ => 0

/-- Freeze causes that arrive together, the lowest code first (R24). -/
def byCode (l : List Instr) : List Instr := (List.range 6).flatMap (fun c => l.filter (fun i => freezeCode i = c))

/-- Whether a turn may run: a freeze and recovery mode stop all but the controller (R25, R30), system cores run once
the second stage has passed, and compute cores once the dies are released (R18, R28). (DEDUCED, log 5.) -/
noncomputable def State.allows (s : State) : Turn → Bool
  | .event i =>
    if s.freeze.isSome then frozenEvent i
    else if s.oarov.recovery || s.oarov.stage.toNat < 2 then controllerEvent i
    else true
  | .together l => s.freeze.isNone && l.all (fun i => freezeCode i ≠ 0 && (controllerEvent i || (!s.oarov.recovery && 2 ≤ s.oarov.stage.toNat)))
  | .load _ _ => s.freeze.isNone && !s.oarov.recovery && 2 ≤ s.oarov.stage.toNat
  | .issue _ => s.freeze.isNone && !s.oarov.recovery && s.oarov.released

/-- Run one slot word through `exec`. -/
noncomputable def runWord : Runner := fun op k w s => exec (op.instr k w) s

/-- One turn: an event, an issue cycle of a core, a system core's load, or freeze causes together. A slot instruction runs only within its bundle, and a turn that
may not run changes nothing. (DESIGN CHOICE, log 4.) -/
noncomputable def State.run (s : State) (t : Turn) : Out :=
  if s.allows t then
    match t with
    | .event i => if (encodeWord i).isSome then .next s else exec i s
    | .issue core => s.issueCycle runWord core
    | .load addr width => s.systemLoad addr width
    | .together l => (byCode l).foldl (fun o i => match o with
        | .next s => exec i s
        | stop => stop) (.next s)
  else .next s

/-- The events of one context that may be due. -/
def ctxTurns (n k : Nat) : List Turn :=
  [.event (.tlbMissWalk (.ctx n k)), .event (.pageWalkComplete (.ctx n k)), .event (.loadReturn n k), .event (.varResultReturn n k),
    .event (.watchdog n k), .event (.sleepExpiry n k), .event (.rplackComplete n k), .event (.takeClaim n k),
    .event (.deviceLaunch n k), .event (.xrouteApply n k)]

/-- The events of one core that may be due. -/
noncomputable def Core.turns (c : Core) (n : Nat) : List Turn :=
  [.issue n, .event (.resultLand n), .event (.coreFrequencyChange n), .event (.copyJobStart n), .event (.copyJobComplete n),
    .event (.matrixJobStart n), .event (.matrixJobComplete n), .event (.reservationTimeout n)] ++
    c.ctxs.flatMap (fun x => ctxTurns n x.1) ++ c.lbs.map (fun b => .event (.loadBlockSettled n b.1)) ++
    c.rinks.map (fun r => .event (.rinkRowFilled n r.1)) ++ c.sends.map (fun j => .event (.sendRetryTimer n j.id)) ++
    [.event (.mergeOpenApply (n / 16)), .event (.mergePushApply (n / 16)), .event (.mergeCloseApply (n / 16)),
      .event (.mergeStatusApply (n / 16))]

/-- The events of one task that may be due. -/
def Task.turns (t : Task) : List Turn :=
  let n := t.rcd.task.toNat
  [.event (.taskComplete n), .event (.taskPlacementAssign n), .event (.placementSelect n)] ++
    t.asked.map (fun c => .event (.reserveRequest c n)) ++
    [.event (.phase1Result n), .event (.placementBackoffExpiry n), .event (.stopRequest n), .event (.stopCutBroadcast n),
      .event (.stopTimeout n), .event (.swapOut n), .event (.swapIn n), .event (.xrouteResume n)]

/-- A message's arrival at its endpoint, or its way on (R36, R38). -/
noncomputable def Msg.turn (here : BitVec 12) (m : Msg) : Turn :=
  .event (if m.dst.extractLsb' 12 12 ≠ here then .messageForward m else match m.kind with
    | .sendReq => .sendRequestArrive m
    | .sendGrant => .sendGrantArrive m
    | .sendRefuse | .sendBusy => .sendRefusalArrive m
    | .typedData => .typedDataArrive m
    | .block => .blockTransferArrive m
    | .ack | .nak => .transferAckArrive m
    | .post => .remotePostArrive m
    | .barrier => .remoteBarrierArrival m
    | .collective => .collContributionArrive m
    | .px => .pxRemoteCommand m
    | .pxReply => .pxRemoteReplyArrive m
    | .mailbox => .messageForward m)

/-- The events of the module's shared parts that may be due. -/
noncomputable def State.sharedTurns (s : State) : List Turn :=
  [.event .launchRecordRead, .event .completionDrain, .event .faultRecordDrain, .event .ptwrite, .event .inval, .event .replay,
    .event .kill, .event .retire, .event .mark, .event .keyCommandFinish, .event .mailboxDone, .event .lookup, .event .insert,
    .event .fork, .event .append, .event .release] ++
    s.tiers.flatMap (fun t => [.event (.tierClockStep t.1), .event (.demotionStart t.1), .event (.demotionDrain t.1),
      .event (.demotionFinish t.1), .event (.storageOutRecord t.1)]) ++
    s.media.flatMap (fun r => [.event (.mediaCardPoll r.1), .event (if r.1 < 16 then .decodeCard r.1 else .resizeCard r.1),
      .event (.mediaCardComplete r.1)]) ++
    s.px.flatMap (fun p => [.event (.pxInitComplete p.1), .event (.pxRequantStep p.1)]) ++
    s.links.flatMap (fun l => [.event (.linkFlitSlot l.1), .event (.linkStall l.1), .event (.linkTrainingTimeout l.1)]) ++
    s.cgroups.flatMap (fun g => [.event (.collJobStart g.1), .event (.collJobComplete g.1), .event (.collTimeout g.1)]) ++
    s.inbox.map (Msg.turn s.modnum) ++ (List.range 4).flatMap (fun d => [.event (.holdSlotGrant d), .event (.quantumBoundary d)]) ++
    s.groups.flatMap (fun g => g.running.map (fun n => .event (.xrouteResume n)))

/-- The turns that the module goes through where `sched` gives none. (DESIGN CHOICE, log 2.) -/
noncomputable def State.agents (s : State) : List Turn :=
  s.cores.flatMap (fun c => c.2.turns c.1) ++ s.tasks.flatMap Task.turns ++ s.sharedTurns

/-- The turn that comes next. DESIGN CHOICE: the head of `sched`; else a rotation over the agents by TICK.
(DESIGN CHOICE, log 2.) -/
noncomputable def State.nextTurn (s : State) : Turn :=
  match s.sched with
  | t :: _ => t
  | [] => s.agents.getD (s.tick % s.agents.length) (.event .completionDrain)

/-- The state as a turn finds it: its entry of `sched` is used up, and TICK has counted on, unless the module is
frozen (R25). (DESIGN CHOICE, log 1.) -/
def State.tickOn (s : State) : State :=
  { s with sched := s.sched.tail, tick := if s.freeze.isSome then s.tick else s.tick + 1 }

/-- The task under which a program loaded from outside runs: one core, one context, all of the deep file.
(DESIGN CHOICE, log 3.) -/
def loadedTask : Task where
  rcd :=
    { task := 0
      gen := 0
      sid := 0
      prio := 0
      cpc := 0
      gang := 0
      dfu := 128
      depcnt := 0
      entry := 0
      codeobj := 0
      argrights := 0
      argobj := 0
      argoff := 0
      arglen := 0
      tilefirst := 0
      tilecount := 0
      gran := 1
      succv := false
      succ := 0
      reservedOk := true }
  queue := 0
  state := .running
  dep := 0
  cursor := 0
  cores := [0]
  die := 0
  place := .none
  asked := []
  granted := []
  refused := false
  fails := 0
  readyAt := 0
  ranAt := 0
  exempt := 0
  killed := false
  bucket := 0
  expert := 0
  group := none
  cut := none
  stopAt := none
  filled := true
  onto := none

/-- Context 0 of core 0 made ready to fetch: a core that no gang holds starts the loaded task.
(DESIGN CHOICE, log 3.) -/
def State.ready0 (s : State) : State :=
  let s := if (s.ctx 0 0).status = .idle then
      { s with tasks := s.tasks ++ [loadedTask] }.setCore 0 ((s.core 0).begin_ loadedTask 0 [])
    else s
  s.modCtx 0 0 (fun x => { x with
    status := .running
    causes := []
    trapWait := none
    trapSnap := none
    arvw := none
    held := false
    stopped := false
    resnap := []
    rerec := []
    stale := [] })

/-- The state with a bundle where core 0 fetches its next one, and core 0's issue cycle as the next turn.
(DESIGN CHOICE, log 3.) -/
def State.withBundle (s : State) (b : Bundle) : State :=
  let s := s.ready0
  let p := (s.ctx 0 0).pc
  let s := s.modCore 0 (fun c => { c with cur := 0, edges := SMap.set 0 c.edges (edgeKey p.edge p.idx.toNat) b })
  { s with
    sched := [.issue 0]
    freeze := none
    oarov := { s.oarov with recovery := false, released := true, stage := 3, failStage := 0, failCheck := 0 } }

end Sys2Proof.Machine
end

