-- ==== Sys2Proof/Machine/Step.lean ====
section
/-!
DEFINITION. One step of the module: the turn that comes next runs (R177, R181, R293).
-/

namespace Sys2Proof.Machine

/-- One step: the next turn of the module. (DESIGN CHOICE, log 2.) -/
noncomputable def step (s : State) : Host.Outcome State Fault Refusal := s.tickOn.run s.nextTurn

/-- The state with a bundle, given as its bits, where the next step fetches. (DESIGN CHOICE, log 3.) -/
def State.withFetchWord (s : State) (nbits w : Nat) : State := s.withBundle (Bundle.ofBytes (bytesOf 64 (w % 2 ^ nbits)))

end Sys2Proof.Machine
end

