-- ==== Sys2Proof/Safety.lean ====
section
/-!
DEFINITION. What counts as a safe run: a step that answers a next state, and the promises that the manual makes about
the whole module (R25, R26, R30).
-/

namespace Sys2Proof.Machine

/-- A step that the machine takes without a fault or a refusal. -/
def Goes (o : Host.Outcome State Fault Refusal) : Prop := ∃ t, o = .next t

/-- A slot instruction executes normally at issue: its bundle is being issued (R181), its word is legal alone in its bundle
(R313), it is enabled by a predicate that is not in error (R22, R308), no operand is pending or held by a job (R178, R193),
and none is in error or lost (R186, R294). -/
structure Ready (op : Op) (k : Slot) (w : Word) (h : Hd) (s : State) : Prop where
  plain : s.iss.ask = .issue
  legal : (s.env k h).illegalAlone op w = none
  pred : (s.env k h).predStop = none
  on : (s.env k h).enabled = true
  free : (s.env k h).waits (op.sources w) (op.dests w) = .ok ()
  tiles : (s.env k h).tileWait op w = .ok ()
  sound : (s.env k h).operandStop op w = none

/-- No flag that a result raises is enabled to trap (R225). -/
def Env.FpQuiet (e : Env) (fl : Fl) : Prop := bits fl.toNat 0 5 &&& fld e.x.sr.fpcsr 8 5 = 0

/-- What a floating-point instruction comes to (R225): a state in which its result is in flight, where its flags meet no
enabled exception, else FP_EXCEPTION with the slot and those flags in the trap value. -/
def Env.fpEnds (e : Env) (fl : Fl) (t : State) : State :=
  let on := bits fl.toNat 0 5 &&& fld e.x.sr.fpcsr 8 5
  let v := BitVec.ofNat 64 (e.slot.num * 2 ^ 8 + on)
  if on = 0 then t.setVerdict .committed
  else (e.s.trapNow e.ci e.k .fpException v (slotMask [e.slot])).setVerdict (.trapped .fpException v)

/-- What a slot's result to a register leaves: the result in flight, and nothing else changed (R183). -/
def Env.flyTo (e : Env) (lat : Nat) (cls : Cls) (d : BitVec 9) (v : Row) (fl : Fl) : State :=
  e.fly (e.result lat v false (.reg cls d.toNat v allBytes) fl)

/-- A scalar result in flight. -/
def Env.flyS (e : Env) (lat : Nat) (d : BitVec 9) (v : Word) (fl : Fl) : State := e.flyTo lat .s d (v.setWidth 1024) fl

/-- A predicate result in flight (R339). -/
def Env.flyP (e : Env) (lat : Nat) (d : BitVec 9) (v : Bool) (fl : Fl) : State :=
  e.flyTo lat .p d ((BitVec.ofBool v).setWidth 1024) fl

/-- A mask result in flight. -/
def Env.flyM (e : Env) (lat : Nat) (d : BitVec 9) (v : Quad) (fl : Fl) : State := e.flyTo lat .m d (v.setWidth 1024) fl

/-- A capability result in flight, with its tag (R339). -/
def Env.flyA (e : Env) (lat : Nat) (d : BitVec 9) (c : Cap) : State :=
  e.fly (e.result lat (c.bits.setWidth 1024) c.tag (.cap d.toNat c) 0)

/-- A vector result in flight: to a register, or to the deep-file row that an index register names (R191). -/
def Env.flyV (e : Env) (lat : Nat) (d : BitVec 9) (v : Row) (mask : Quad) (fl : Fl) : State :=
  e.fly (e.result lat v false
    (if 400 ≤ d.toNat then .row (e.x.xRow (d.toNat - 400)) v mask else .reg .v d.toNat v mask) fl)

/-- A lane-wise result in flight: the active lanes of width w take `op`, the others are not written and set no flag
(R362). -/
def Env.flyLanes (e : Env) (lat : Nat) (d : BitVec 9) (m : Quad) (w : Nat) (op : Nat → Nat × Fl) : State :=
  let rs := (List.range (1024 / w)).map (fun i => if laneBit m w i then op i else (0, 0))
  e.flyV lat d (rowOf w (rs.map (·.1))) (laneMask m w) (rs.foldl (fun a r => a ||| r.2) 0)

/-- The flags of the active lanes of a lane-wise result (R362). -/
def laneFlags (m : Quad) (w : Nat) (op : Nat → Nat × Fl) : Fl :=
  ((List.range (1024 / w)).map (fun i => if laneBit m w i then op i else (0, 0))).foldl (fun a r => a ||| r.2) 0

/-- A typed copy command passes its checks (R216, R217, R388): the copy queue has room, the extents are constants, both
operands' storage holds, and the images share no row. -/
structure Env.CopyReady (e : Env) (u : Uni) (a : Option (Quad × Word)) (d : Quad × Word) (src : Option TileOp) (out : TileOp) :
    Prop where
  room : e.copyFull = false
  constant : e.constant ((a.map (fun a => (0, a.1))).toList ++ [(4, d.1)]) u = .ok ()
  source : match a, src with
    | some p, some o => e.storage 0 .jobSrc (e.resolved u p.1) p.2 = .ok o
    | none, none => True
    | _, _ => False
  dest : e.storage 4 .jobDst (e.resolved u d.1) d.2 = .ok out
  apart : (src.map (fun o => e.sharedRows o out)).getD 0 = 0

/-- A typed copy command in the port, and the destination register in flight (R388). -/
def Env.copyIssued (e : Env) (u : Uni) (src : Option TileOp) (out : TileOp) (d : Quad × Word) (dst : BitVec 9)
    (flag : Option (BitVec 5)) (kind : JobKind) : State :=
  e.issue (e.retT (e.bind u e.s) dst (e.resolved u d.1) d.2)
    (e.job kind flag none ((src.map e.tileRegion).getD []) (e.tileRegion out))

/-- A capability derived from another (R354): the object and the reserved byte stay, offset, length and rights are those
given, and the tag needs a valid source and the condition. -/
def Cap.DerivesTo (c d : Cap) (off : Int) (len : Nat) (rights : BitVec 8) (ok : Bool) : Prop :=
  d.obj = c.obj ∧ d.bits.extractLsb' 120 8 = c.bits.extractLsb' 120 8 ∧ d.off = off ∧ d.len = len ∧ d.rights = rights ∧
    d.tag = (c.valid && ok)

/-- Every register but one reads as before (R187). -/
def Ctx.SameRegsBut (x y : Ctx) (cls : Cls) (n : Nat) : Prop :=
  (∀ j, (cls, n) ≠ (.s, j) → x.sReg j = y.sReg j) ∧ (∀ j, (cls, n) ≠ (.a, j) → x.aReg j = y.aReg j) ∧
    (∀ j, (cls, n) ≠ (.v, j) → x.vReg j = y.vReg j) ∧ (∀ j, (cls, n) ≠ (.x, j) → x.xReg j = y.xReg j) ∧
    (∀ j, (cls, n) ≠ (.t, j) → x.tReg j = y.tReg j) ∧ (∀ j, (cls, n) ≠ (.d, j) → x.dReg j = y.dReg j) ∧
    (∀ j, (cls, n) ≠ (.p, j) → x.pReg j = y.pReg j) ∧ (∀ j, (cls, n) ≠ (.m, j) → x.mReg j = y.mReg j) ∧
    x.sr = y.sr ∧ x.pc = y.pc ∧ x.status = y.status

/-- The checks of a capability over `n` bytes at `eo` pass (R98). -/
structure Cap.Allows (c : Cap) (need : BitVec 8) (eo : Int) (n : Nat) : Prop where
  valid : c.valid = true
  rights : need &&& ~~~c.rights = 0
  inside : n = 0 ∨ 0 ≤ eo ∧ eo + n ≤ c.len

/-- The units of an access pass every check made at issue: capability, object and live jobs (R98, R103, R281, R405). -/
structure Env.Reaches (e : Env) (c : Cap) (need : BitVec 8) (write : Bool) (l : List (Int × Nat)) : Prop where
  allows : ∀ u ∈ l, c.Allows need u.1 u.2
  inside : ∀ o, e.objOf c = some o → ∀ u ∈ l, u.1 + u.2 ≤ o.len
  writable : ∀ o, e.objOf c = some o → write = true → o.now = false
  alone : ∀ o, e.objOf c = some o → e.overlaps write (l.map (fun u => (o.base + u.1.toNat, u.2))) = false

/-- What an access that passes its checks leaves: it stands in the port, its destination pending (R272, R297, R406). -/
def Env.accessed (e : Env) (kind : AccKind) (d : Option Dest) (areg : Nat) (c : Cap) (units : List MUnit) : State :=
  e.putAccess e.s kind d areg c (match units with
    | u :: _ => u.off
    | [] => 0) units ((e.objOf c).isSome || units.isEmpty)

/-- The checks of a capability that an engine command names pass (R98, R103, R421). -/
structure Env.EngAllows (e : Env) (c : Cap) (need : BitVec 8) (eo : Int) (n : Nat) : Prop where
  cap : c.Allows (need ||| rE) eo n
  inside : n ≠ 0 → ∀ o, e.objOf c = some o → eo + n ≤ o.len
  writable : n ≠ 0 → need &&& rW ≠ 0 → ∀ o, e.objOf c = some o → o.now = false

/-- A frozen module (R24). -/
def State.frozen (s : State) : Bool := s.freeze.isSome

/-- Two states agree on what a freeze captures: cores, memory, keys and caches, links, rings, tasks, engines and TICK
(R25, R26), and on every other part of the machine, but for the turns to come, what the management port has answered and
the three counters that its requests keep in the on-chip controller (R79, R80). -/
structure State.SameCapture (s t : State) : Prop where
  freeze : t.freeze = s.freeze
  tick : t.tick = s.tick
  cores : t.cores = s.cores
  mem : t.mem = s.mem
  links : t.links = s.links
  tasks : t.tasks = s.tasks
  inbox : t.inbox = s.inbox
  walks : t.walks = s.walks
  tlb : t.tlb = s.tlb
  lq : t.lq = s.lq
  cq : t.cq = s.cq
  fq : t.fq = s.fq
  media : t.media = s.media
  px : t.px = s.px
  merges : t.merges = s.merges
  tiers : t.tiers = s.tiers
  walkCache : t.walkCache = s.walkCache
  spaceCache : t.spaceCache = s.spaceCache
  objCache : t.objCache = s.objCache
  so : t.so = s.so
  ch : t.ch = s.ch
  drives : t.drives = s.drives
  keys : t.keys = s.keys
  cruns : t.cruns = s.cruns
  groups : t.groups = s.groups
  swaps : t.swaps = s.swaps
  compWait : t.compWait = s.compWait
  faultWait : t.faultWait = s.faultWait
  outFaults : t.outFaults = s.outFaults
  engWaits : t.engWaits = s.engWaits
  vde : t.vde = s.vde
  pxq : t.pxq = s.pxq
  cgroups : t.cgroups = s.cgroups
  wd : t.wd = s.wd
  bars : t.bars = s.bars
  iss : t.iss = s.iss
  fresh : t.fresh = s.fresh
  ids : t.ids = s.ids
  sptbase : t.sptbase = s.sptbase
  spgen : t.spgen = s.spgen
  nextFault : t.nextFault = s.nextFault
  routes : t.routes = s.routes
  modnum : t.modnum = s.modnum
  doorbells : t.doorbells = s.doorbells
  cxlDown : t.cxlDown = s.cxlDown
  pxNext : t.pxNext = s.pxNext
  hold : t.hold = s.hold
  quantum : t.quantum = s.quantum
  oarov : t.oarov = { s.oarov with lastSeq := t.oarov.lastSeq, limit := t.oarov.limit, loaderKey := t.oarov.loaderKey }
  thermo : t.thermo = s.thermo
  irq : t.irq = s.irq
  sysRead : t.sysRead = s.sysRead
  eccCount : t.eccCount = s.eccCount

/-- A run of `n` steps that goes on: no step of it faults or refuses. -/
def SafeFor : Nat → State → Prop
  | 0, _ => True
  | n + 1, s => ∃ t, step s = .next t ∧ SafeFor n t

end Sys2Proof.Machine
end

