-- ==== Sys2Proof/WellFormed.lean ====
section
/-!
DEFINITION. What makes an instruction well formed. A slot instruction is well formed where, alone in its bundle, it
passes the illegal-bundle rule of R313 whatever the index registers hold; an event where the parts it names exist.
-/

namespace Sys2Proof

/-- Numbers of cores, contexts and die agents (R12, R13, R37). -/
def Instr.coreOk (core : Nat) : Bool := core < 1024
@[inherit_doc Instr.coreOk] def Instr.ctxOk (core ctx : Nat) : Bool := core < 1024 && ctx < 4
@[inherit_doc Instr.coreOk] def Instr.dieOk (die : Nat) : Bool := die < 4
/-- Task identities have 20 bits (R65). -/
def Instr.taskOk (task : Nat) : Bool := task < 2 ^ 20

/-- The parties of R86 and R108 that exist. -/
def Requester.ok : Requester → Bool
  | .ctx c k => Instr.ctxOk c k
  | .ce c | .me c | .fabric c _ => Instr.coreOk c
  | .loadBlock c i => Instr.coreOk c && i < 16
  | .merge c => c < 64
  | .pix _ => true
  | .media r => r < 32
  | .edgeFill t => Instr.taskOk t

/-- The parts that an event names exist. -/
def Instr.rangesOk : Instr → Bool
  | .coreFrequencyChange c | .reservationTimeout c | .resultLand c | .copyJobStart c | .copyJobComplete c | .matrixJobStart c
  | .matrixJobComplete c | .sendRetryTimer c _ => Instr.coreOk c
  | .thermalTrip d => d < 5
  | .mgmtImageReplacement _ st _ => 1 ≤ st && st ≤ 3
  | .registerWrite _ n _ => n = 1 || n = 2 || n = 4 || n = 8
  | .flitReceive l b => l < 24 && b.length = 224
  | .retryRequestReceive l _ | .linkFlitSlot l | .linkRetrain l | .linkDisable l | .linkTrained l _ _ | .linkTrainingTimeout l
  | .laneLockLoss l | .linkStall l => l < 24
  | .collJobStart g | .collJobComplete g | .collTimeout g => g < 256
  | .launchQueueTailWrite n _ => n < 8
  | .tlbMissWalk r | .pageWalkComplete r => r.ok
  | .tierFramePop t | .tierFramePush t _ | .tierClockStep t | .demotionStart t | .demotionDrain t | .demotionFinish t
  | .storageOutRecord t => t < 3
  | .mediaRingConfigWrite n _ _ | .mediaCardPoll n | .mediaCardComplete n => n < 32
  | .decodeCard n => n < 16
  | .resizeCard n => 16 ≤ n && n < 32
  | .nvmeCompletion e c _ _ | .nvmeCommandTimeout e c => e < 64 && c < 2 ^ 16
  | .cxlLinkDown p | .cxlLinkUp p => p < 4
  | .pxDisable p _ | .pxInit p | .pxInitComplete p | .pxRequantStart p | .pxRequantStep p | .pxReclaim p _ => p < 8
  | .taskComplete t | .taskPlacementAssign t | .placementSelect t | .phase1Result t | .placementBackoffExpiry t | .stopRequest t
  | .stopCutBroadcast t | .stopTimeout t | .swapOut t | .swapIn t | .xrouteResume t => Instr.taskOk t
  | .reserveRequest c t => Instr.coreOk c && Instr.taskOk t
  | .holdSlotGrant d | .quantumBoundary d => Instr.dieOk d
  | .takeClaim c k | .deviceLaunch c k | .xrouteApply c k | .loadReturn c k | .varResultReturn c k | .trapEntry c k
  | .watchdog c k | .sleepExpiry c k | .rplackComplete c k => Instr.ctxOk c k
  | .mergeOpenApply c | .mergePushApply c | .mergeCloseApply c | .mergeStatusApply c => c < 64
  | .loadBlockSettled c i => Instr.coreOk c && i < 16
  | .rinkRowFilled c k => Instr.coreOk c && k < 8
  | _ => true

/-- The two rows that share an opcode number keep apart by their variant (R314, R318 to R324). -/
def Instr.variantOk : Instr → Bool
  | .cclr h _ => h.fmt ≠ 1
  | .cclrMk h _ => h.fmt = 1
  | .mgo h _ => h.fmt ≠ 3
  | .mgoTm h _ => h.fmt = 3
  | .wait h _ => h.fmt ≠ 1
  | .waitPh h _ => h.fmt = 1
  | .gate h _ => h.fmt ≠ 1
  | .gateS h _ => h.fmt = 1
  | .sleep h _ => h.fmt ≠ 1
  | .sleepS h _ => h.fmt = 1
  | _ => true

/-- A well-formed instruction: one of a slot passes R313 alone, with the variant of its own row; an event names
parts that exist. -/
def Instr.wellFormed (i : Instr) : Bool := if (encodeWord i).isSome then i.variantOk && i.legal else i.rangesOk

end Sys2Proof
end

