-- ==== Sys2Proof/Certificates/Slice0/Obligations.lean ====
section
/-!
DEFINITION. The statements for the provers: each formalises rules of the manual, named in its docstring, about the
machine of Sys2Proof.Machine. OBLIGATIONS.json lists them.
-/

open Sys2Proof Sys2Proof.Machine

/-- Decoding an encoded well-formed slot instruction gives it back (R308, R309, R310). -/
def Obligations.RoundTrip : Prop :=
  ∀ (i : Instr) (k : Slot) (w : Word), i.wellFormed = true → encodeWord i = some (k, w) → decodeSlot k w = .ok i

/-- Words that the manual writes out decode to the instructions they stand for (R342, R350, R355, R309). -/
def Obligations.DecodesSpecWords : Prop :=
  decodeSlot .sc 0x061801C060400000 = .ok (.div ⟨1, true, 0, false⟩ ⟨7, 3, 4, 0, 0⟩) ∧
  decodeSlot .sc 0x3F0800C040000001 = .ok (.crst ⟨0, true, 0, false⟩ ⟨3, 2, 1⟩) ∧
  decodeSlot .sc 0x3301000000000042 = .ok (.br ⟨0, false, 1, false⟩ ⟨0, 0, 0, 0, 0x42⟩) ∧
  decodeSlot .sc 0x2508028000000004 = .ok (.li ⟨0, true, 0, false⟩ ⟨10, 4⟩)

/-- The module after reset (R26, R17, R42, R160, R359, R153). The model's own choice: the zeros of registers that no
rule gives a reset value, those of a context before its start among them (log 7). -/
def Obligations.ResetLeaves : Prop :=
  State.reset.oarov.stage = 0 ∧ State.reset.oarov.released = false ∧ State.reset.oarov.limit = 2400 ∧ State.reset.oarov.level = 0 ∧
  State.reset.freeze = none ∧ State.reset.wd.quant = 2000 ∧ State.reset.tasks = [] ∧
  (∀ l, (State.reset.link l).state = .down ∧ (State.reset.link l).zbadv = true ∧ (State.reset.link l).downCause = 4) ∧
  (∀ r, r = State.reset.cq ∨ r = State.reset.fq ∨ r = State.reset.so ∨ r = State.reset.ch.ring ∨ (∃ n, r = State.reset.lqOf n) →
   r.log2 = 0 ∧ r.head = 0 ∧ r.tail = 0) ∧ (∀ n, (State.reset.mring n).log2 = 0 ∧ (State.reset.mring n).card = none) ∧
  (∀ p, (State.reset.pool p).cfgerr = true) ∧
  ∀ ci k, (State.reset.ctx ci k).status = .idle ∧ (State.reset.ctx ci k).sr.dmr = 0x11 ∧ (State.reset.ctx ci k).sr.rdepth = 1 ∧
   (State.reset.ctx ci k).sr.mcap = 32768 ∧ (State.reset.ctx ci k).sr.lastcut = 0xFFFFFFFF ∧ (State.reset.ctx ci k).pReg 0 = true ∧
   ∀ n, (State.reset.ctx ci k).sReg n = 0 ∧ (State.reset.ctx ci k).aReg n = Cap.zero ∧ (State.reset.ctx ci k).vReg n = 0 ∧
    (State.reset.ctx ci k).xReg n = 0 ∧ (State.reset.ctx ci k).tReg n = ⟨0, 0⟩ ∧ (State.reset.ctx ci k).dReg n = 0 ∧
    (n ≠ 0 → (State.reset.ctx ci k).pReg n = false) ∧ (State.reset.ctx ci k).mReg n = 0

/-- A step runs the turn that comes next (R177, R293, R19, R181, R305, R272, R24). The model's own choice: that TICK
goes up by one at each turn (log 1), the order of turns (log 2), and that a turn which may not run leaves all
but TICK and sched (logs 4, 5). -/
def Obligations.StepRunsTheTurn : Prop :=
  (∀ (s : State) (i : Instr) (n : Nat),
  (s.nextTurn = .event i → s.tickOn.allows (.event i) = true → encodeWord i = none → step s = exec i s.tickOn) ∧
  (s.nextTurn = .issue n → s.tickOn.allows (.issue n) = true → step s = s.tickOn.issueCycle runWord n) ∧
  (∀ w, s.nextTurn = .load n w → s.tickOn.allows (.load n w) = true → step s = s.tickOn.systemLoad n w) ∧
  (∀ l, s.nextTurn = .together l → s.tickOn.allows (.together l) = true →
   step s = (byCode l).foldl (fun o i => match o with
    | .next t => exec i t
    | stop => stop) (.next s.tickOn)) ∧
  (s.tickOn.allows s.nextTurn = false → step s = .next s.tickOn) ∧
  s.tickOn = { s with sched := s.sched.tail, tick := s.tickOn.tick } ∧
  s.tickOn.tick = if s.freeze.isSome then s.tick else s.tick + 1)
   ∧ ((∀ (k : Slot) (w : Word) (op : Op) (i : Instr) (s : State), findOp k w = .ok op → decodeSlot k w = .ok i →
   runWord op k w s = exec i s) ∧
  ∀ (k : Slot) (w : Word) (op : Op) (i : Instr) (s u : State) (t : List (Slot × Op × Word)) (fs : List Fared),
   findOp k w = .ok op → decodeSlot k w = .ok i → exec i (s.setVerdict .none) = .next u →
   runSlots runWord ((k, op, w) :: t) s fs =
    if u.iss.verdict = .committed ∨ u.iss.verdict = .disabled ∨ u.iss.verdict = .none then
     runSlots runWord t u (fs ++ [⟨k, u.iss.verdict⟩])
    else runSlots runWord t s (fs ++ [⟨k, u.iss.verdict⟩]))

/-- An issue cycle fetches, checks, runs and commits one bundle (R179, R181, R183, R177). The model's own choice:
one cycle for each issue turn (log 1), and that accesses issued before a wait go through the port first (log
37). -/
def Obligations.IssueCommitsBundle : Prop :=
  ∀ (s u : State) (ci k : Nat) (fs : List Fared),
   let s0 := s.land ci
   let s1 := s0.settleFor ci k
   let x := s1.ctx ci k
   let s2 := s1.modCore ci (fun c => c.replay k)
   let b := slotWords (s2.fetch ci k)
   let s3 := { s2 with iss := { Issue.init with core := ci, ctx := k, pc := x.pc } }
   (s0.core ci).cur.toNat = k → (s0.ctx ci k).status = .running → x.eligible = true → x.hasCause = false → x.arvwWaits = false →
   illegalWith (s3.boundBy runWord b) (fun i => ((s3.seen ci k .sc).ctx k).xReg i) b = none →
   runSlots runWord (runList b) s3 [] = .ok (u, fs) →
   (∀ f ∈ fs, f.v = .committed ∨ f.v = .disabled) →
   s.issueCycle runWord ci = .next (([0, 1, 2, 3].foldl (State.recheck runWord ci) (s3.commit u ci k b fs)).modCore ci
    (fun c => { c with cycle := c.cycle + 1 }))

/-- A frozen module never resumes; only a module reset ends the freeze, through secure boot (R26). -/
def Obligations.FrozenHolds : Prop :=
  ∀ (s t : State), s.freeze.isSome = true → step s = .next t →
   (s.nextTurn ≠ .event .moduleReset → s.SameCapture t) ∧
   (∀ q, s.nextTurn = .event (.mgmtReadOut q) →
    t = { s with sched := s.sched.tail, mgmtOut := t.mgmtOut, oarov := { s.oarov with lastSeq := t.oarov.lastSeq } }) ∧
   (s.nextTurn = .event .moduleReset → t.freeze = none ∧ t.oarov.stage = 0 ∧ t.oarov.released = false)

/-- In recovery mode only the controller acts (R30). The model's own choice: which events are the controller's, and
that a turn of freeze causes runs only where each may (log 5); that TICK goes up by one (log 1) and that a turn
which may not run changes nothing else (log 4). -/
def Obligations.RecoveryHolds : Prop :=
  ∀ (s t : State), s.oarov.recovery = true → (∀ i, s.nextTurn = .event i → controllerEvent i = false) →
   (∀ l, s.nextTurn = .together l → ∃ i ∈ l, controllerEvent i = false) → step s = .next t →
   t = s.tickOn

/-- No instruction is refused, and only a system access outside its ranges faults (R63, R181). The model's own
choice: a system-core access is a turn (log 18). -/
def Obligations.ExecAnswers : Prop :=
  (∀ (s : State) (a n : Nat), (∃ t, s.systemLoad a n = .next t) ∨ (isMemory a n = false ∧ (a < devBase ∨ devBase + 0x50000 ≤ a) ∧
   s.systemLoad a n = .fault (.systemAccess a))) ∧
  ∀ (i : Instr) (s : State), (∃ t, exec i s = .next t) ∨
   ∃ a n v, i = .registerWrite a n v ∧ isMemory a n = false ∧ (a < devBase ∨ devBase + 0x50000 ≤ a) ∧
    exec i s = .fault (.systemAccess a)

/-- The translation channel and page walks (R72, R73, R74, R75, R76, R108, R109, R111, R112). The model's own
choice: ERRIDX holds the HEAD counter (log 64), and a walk runs from its own turn to its end (log 32). -/
def Obligations.ChannelAndWalks : Prop :=
  ∀ (s : State),
   let over_ (t : State) : State := { t with ch := { t.ch with ring := { t.ch.ring with head := t.ch.ring.head + 1 } } }
   (s.command = none → ∀ i ∈ [.ptwrite, .inval, .replay, .kill, .retire, .mark], exec i s = .next s) ∧
   (∀ c, s.command = some c →
    (s.skips c = true → ∀ i ∈ [.ptwrite, .inval, .replay, .kill, .retire, .mark], ∃ t, exec i s = .next t ∧ t.ch.ring.head = s.ch.ring.head + 1 ∧ t.ch.cmdErr = true ∧
     t.ch.errIdx = s.ch.ring.head ∧ t.mem = s.mem ∧ t.cores = s.cores) ∧
    (s.skips c = false → c.opc = 1 → (∀ m ∈ s.moves, m.pte ≠ c.addr) → ∃ t, exec .ptwrite s = .next t ∧ t.mem = (s.memPut 0 c.addr (bytesOf 8 c.data.toNat)).mem ∧
     t.ch.ring.head = s.ch.ring.head + 1 ∧ (∀ e ∈ t.objCache, e.pa / 64 ≠ c.addr / 64) ∧ (∀ e ∈ t.spaceCache, e.pa / 32 ≠ c.addr / 32)) ∧
    (s.skips c = false → c.opc = 1 → (∃ m ∈ s.moves, m.pte = c.addr) → exec .ptwrite s = .next s) ∧
    (s.skips c = false → c.opc = 2 → exec .inval s = .next (over_ (s.inval (c.arg.setWidth 16) c.addr c.data.toNat))) ∧
    (∀ f, s.skips c = false → s.fault? c.arg = some f →
     (∀ ci k, f.req = .ctx ci k → c.opc = 3 → let t := (s.dropFault c.arg).modCtx ci k (fun x => { x with lastReplay := some c.arg })
      exec .replay s = .next (over_ (if (s.ctx ci k).status = .parked then t.trapReturn ci k else t))) ∧
     (∀ ci k, f.req = .ctx ci k → c.opc = 4 →
      ((s.ctx ci k).status ≠ .idle → exec .kill s = .next (over_ ((s.dropFault c.arg).kill ci k 0 0))) ∧
      ((s.ctx ci k).status = .idle → ∃ t, exec .kill s = .next t ∧ (t.ctx ci k).port = [] ∧ (∀ g ∈ t.outFaults, g.id ≠ c.arg) ∧
       ∀ u, s.task (s.taskIdOf ci) = some u → t.task (s.taskIdOf ci) = some { u with killed := true })) ∧
     ((∀ ci k, f.req ≠ .ctx ci k) →
      (c.opc = 3 → exec .replay s = .next (over_ ((s.dropFault c.arg).setPhase c.arg .replayed))) ∧
      (c.opc = 4 → exec .kill s = .next (over_ ((s.dropFault c.arg).setPhase c.arg .killed))))) ∧
    (s.skips c = false → c.opc = 5 → let sid : BitVec 12 := c.arg.setWidth 12
     let gen := SMap.get 0 s.spgen sid.toNat
     s.movesOf sid = false →
     ((∃ t ∈ s.tasks, t.space = mkSpace gen sid) ∨ (∃ f ∈ s.outFaults, f.space = mkSpace gen sid) → exec .retire s = .next (over_ { s with ch := { s.ch with spaceLive := true } })) ∧
     ((∀ t ∈ s.tasks, t.space ≠ mkSpace gen sid) → (∀ f ∈ s.outFaults, f.space ≠ mkSpace gen sid) → ∃ t, exec .retire s = .next t ∧
      SMap.get 0 t.spgen sid.toNat = gen + 1 ∧ (∀ e ∈ t.tlb, ¬ (e.sid = sid ∧ e.gen = gen + 1)) ∧ t.mem = s.mem)) ∧
    (s.skips c = false → c.opc = 6 → exec .mark s = .next (over_ { s with ch := { s.ch with mark := c.data } }))) ∧
   (∀ (id : BitVec 32) (p : EngPhase) (w : EngWait), w ∈ s.engWaits →
    (if w.id = id ∧ w.phase = .waiting then { w with phase := p } else w) ∈ (s.setPhase id p).engWaits) ∧
   (∀ (r : Requester), (∀ ci k, r ≠ .ctx ci k) → exec (.tlbMissWalk r) s = .next s ∧ exec (.pageWalkComplete r) s = .next s) ∧
   ∀ ci k,
    (s.portMiss ci k = none ∨ (∃ w ∈ s.walks, w.req = .ctx ci k) → exec (.tlbMissWalk (.ctx ci k)) s = .next s) ∧
    (∀ dva acc, s.portMiss ci k = some (dva, acc) → (∀ w ∈ s.walks, w.req ≠ .ctx ci k) → ∃ t, exec (.tlbMissWalk (.ctx ci k)) s = .next t ∧
     t.walks.length = s.walks.length + 1 ∧ (∃ w ∈ t.walks, w.req = .ctx ci k ∧ w.dva = dva ∧ w.sid = sidOf (s.spaceOf ci) ∧ w.gen = genOf (s.spaceOf ci)) ∧ t.mem = s.mem ∧ t.cores = s.cores) ∧
    ((∀ w ∈ s.walks, ¬ (w.req = .ctx ci k ∧ w.running = true)) → exec (.pageWalkComplete (.ctx ci k)) s = .next s) ∧
    ((∃ w ∈ s.walks, w.req = .ctx ci k ∧ w.running = true) →
     (s.portMiss ci k = none → exec (.pageWalkComplete (.ctx ci k)) s = .next (s.endWalk (.ctx ci k))) ∧
     (∀ dva acc, s.portMiss ci k = some (dva, acc) → 2 ^ 63 ≤ dva →
      exec (.pageWalkComplete (.ctx ci k)) s = .next ((s.endWalk (.ctx ci k)).portFault ci k dva acc)) ∧
     ∀ dva acc u, s.portMiss ci k = some (dva, acc) → dva < 2 ^ 63 →
      (s.walk (.ctx ci k) (s.spaceOf ci) dva (acc = 1) false acc = (u, .installed) → exec (.pageWalkComplete (.ctx ci k)) s = .next (u.endWalk (.ctx ci k))) ∧
      (s.walk (.ctx ci k) (s.spaceOf ci) dva (acc = 1) false acc = (u, .waiting) → exec (.pageWalkComplete (.ctx ci k)) s = .next u) ∧
      (∀ a x, s.walk (.ctx ci k) (s.spaceOf ci) dva (acc = 1) false acc = (u, .faulted a x) →
       exec (.pageWalkComplete (.ctx ci k)) s = .next ((u.endWalk (.ctx ci k)).portFault ci k a x)) ∧
      (∀ x p a, s.walk (.ctx ci k) (s.spaceOf ci) dva (acc = 1) false acc = (u, .noSpace x) → u.front ci k = some (p, a) →
       exec (.pageWalkComplete (.ctx ci k)) s = .next ((u.endWalk (.ctx ci k)).portFault ci k (0x8000000000000000 + a.cap.obj) x)))

/-- Memory tiers, demotion and the memory keys (R114, R115, R116, R117, R119, R122, R123). The model's own choice: a
stopped engine, what is a victim, and the lines of a copied frame (log 31), and what a line reads as under
another pair (log 12). -/
def Obligations.TiersAndKeys : Prop :=
  ∀ (s : State),
   (∀ t, t < 3 → let x := s.tier t
    (x.count = 0 → exec (.tierFramePop t) s = .next { s with sysRead := 0 }) ∧
    (x.count ≠ 0 → ∃ u : State, exec (.tierFramePop t) s = .next u ∧ (u.tier t).count = x.count - 1 ∧ u.mem = s.mem ∧ u.sysRead.getLsbD 0 = true ∧
     (s.word0 (x.stackAt (x.count.toNat - 1)) 8 < 2 ^ 64 → u.sysRead.toNat / 65536 = s.word0 (x.stackAt (x.count.toNat - 1)) 8 / 65536)) ∧
    (∀ v : Word, let pa := fld v 16 48 * 65536
     (pa < tierBase t ∨ tierBase t + tierFrames t * 65536 ≤ pa → exec (.tierFramePush t v) s = .next (s.setTier t { x with badpush := true })) ∧
     (tierBase t ≤ pa → pa < tierBase t + tierFrames t * 65536 → x.fscap ≤ x.count → exec (.tierFramePush t v) s = .next (s.setTier t { x with ovf := true })) ∧
     (tierBase t ≤ pa → pa < tierBase t + tierFrames t * 65536 → x.count < x.fscap →
      exec (.tierFramePush t v) s = .next ((s.memPut 0 (x.stackAt x.count.toNat) (bytesOf 8 pa)).setTier t ({ x with count := x.count + 1 } : Tier).mark)))) ∧
   (∀ t, t < 3 → let x := (s.tier t).wake t
    let u := s.setTier t x
    exec (.tierClockStep t) s = .next (if u.ringWait t = true then u.setTier t { x with stall := true }
     else if x.active = true ∧ x.ending = false ∧ x.dest t ≠ 0 ∧ x.victim = none ∧ x.moves.length < 8 then u.clockStep t else u)) ∧
   (∀ t, let x := s.tier t
    let frame := tierBase t + 65536 * x.hand
    let w0 := s.word0 (x.tableAt x.hand) 8
    let w1 := s.word0 (x.tableAt x.hand + 8) 8
    let pte := bits w0 3 45 * 8
    let u := s.setTier t { x with hand := (x.hand + 1) % tierFrames t }
    let e := u.word0 pte 8
    let free : Prop := w0 % 2 = 0 ∨ bits w1 60 4 ≠ (SMap.get 0 s.spgen (bits w1 48 12)).toNat ∨
     u.isLeaf (BitVec.ofNat 12 (bits w1 48 12)) (bits w1 16 32 * 65536) pte frame = false ∨ e.testBit 59 = true ∨ e.testBit 7 = true
    (free → s.clockStep t = u) ∧
    (¬ free → e.testBit 5 = true → s.clockStep t = (u.memPut 0 pte (bytesOf 8 (e - 32))).dropLeaf pte) ∧
    (¬ free → e.testBit 5 = false → (u.tier t).dest t = 3 → u.frameTagged frame = true → s.clockStep t = u) ∧
    (¬ free → e.testBit 5 = false → (u.tier t).dest t ≠ 3 ∨ u.frameTagged frame = false →
     s.clockStep t = u.setTier t { u.tier t with victim := some ⟨frame, none, pte, BitVec.ofNat 64 e, false⟩ })) ∧
   (∀ t, (s.ringWait t = true → exec (.demotionStart t) s = .next (s.setTier t { s.tier t with stall := true })) ∧
    (s.ringWait t = false → (s.tier t).victim = none → exec (.demotionStart t) s = .next s) ∧
    ∀ v, s.ringWait t = false → (s.tier t).victim = some v →
     let begun (p : State) (d : Option Nat) : State :=
      (p.memPut 0 v.pte (bytesOf 8 (v.ent.toNat + 128))).setTier t { p.tier t with victim := none, stall := false, moves := (p.tier t).moves ++ [{ v with dst := d }] }
     let none_ (p : State) : State := p.setTier t { p.tier t with victim := none, stall := false }
     let n := (s.tier t).dest t
     (n = 0 → exec (.demotionStart t) s = .next (s.setTier t { s.tier t with victim := none })) ∧
     (n = 3 → exec (.demotionStart t) s = .next (if s.word0 v.pte 8 = v.ent.toNat then begun s none else none_ s)) ∧
     (n ≠ 0 → n ≠ 3 → (s.tier n).count = 0 → exec (.demotionStart t) s = .next (s.setTier t { s.tier t with stall := true })) ∧
     ∀ p d, n ≠ 0 → n ≠ 3 → s.popFrame n = (p, some d) →
      exec (.demotionStart t) s = .next (if p.word0 v.pte 8 = v.ent.toNat then begun p (some d) else (none_ p).pushFrame ((p.tier t).dest t) d)) ∧
   (∀ t m, (s.tier t).moves.find? (fun m => !m.drained) = some m → ∃ u : State, exec (.demotionDrain t) s = .next u ∧ (∀ e ∈ u.tlb, e.leaf ≠ m.pte) ∧ u.mem = s.mem ∧
    (u.tier t).moves = (s.tier t).moves.map (fun n => if n.pte = m.pte then { n with drained := true } else n)) ∧
   (∀ t m d, (s.tier t).moves.find? (fun m => m.drained && m.dst.isSome) = some m → m.dst = some d →
    let c := s.copyFrame (keyOf m.ent) m.src d
    let e := c.word0 m.pte 8
    let v := c.memPut 0 m.pte (bytesOf 8 (e - bits e 8 40 * 256 + d - (if e.testBit 7 then 128 else 0) - (if e.testBit 5 then 32 else 0)))
    let a := (s.tier t).tableAt ((m.src - tierBase t) / 65536)
    let w := (v.memPut 0 ((v.tier (tierOf d)).tableAt ((d - tierBase (tierOf d)) / 65536)) (v.memRead 0 a 16)).memPut 0 a (bytesOf 16 0)
    let y := (w.setTier t { s.tier t with moves := (s.tier t).moves.filter (fun k => k.pte ≠ m.pte) }).pushFrame t m.src
    exec (.demotionFinish t) s = .next (y.setTier t ((y.tier t).wake t)) ∧ y.cores = s.cores ∧ y.tasks = s.tasks) ∧
   (∀ t m, (s.tier t).moves.find? (fun m => m.drained && m.dst.isNone) = some m →
    let w1 := s.word0 ((s.tier t).tableAt ((m.src - tierBase t) / 65536) + 8) 8
    (s.so.full = true → exec (.storageOutRecord t) s = .next (s.setTier t { s.tier t with stall := true })) ∧
    (s.so.full = false → ∃ u : State, exec (.storageOutRecord t) s = .next u ∧ u.so.tail = s.so.tail + 1 ∧ SMap.get false u.irq 3 = true ∧
     u.mem = (s.memPut 0 (s.so.entry 32 s.so.tail) (bytesOf 8 m.src ++ bytesOf 8 m.pte ++ bytesOf 2 (bits w1 48 16) ++
      bytesOf 2 (keyOf m.ent).toNat ++ bytesOf 4 (bits w1 16 32) ++ bytesOf 8 s.tick)).mem ∧
     ∀ n ∈ (u.tier t).moves, n ∈ (s.tier t).moves ∧ n.pte ≠ m.pte)) ∧
   (∀ p ∈ ([(.keyLoad, true), (.keyClear, false)] : List (Instr × Bool)),
    (s.keys.busy = true → exec p.1 s = .next s) ∧
    (s.keys.busy = false → s.keys.sel = 0 → exec p.1 s = .next { s with keys := { s.keys with err := true } }) ∧
    (s.keys.busy = false → s.keys.sel ≠ 0 → exec p.1 s = .next { s with keys := { s.keys with busy := true, loading := p.2 } })) ∧
   (s.keys.busy = false ∨ (∃ t ∈ s.tiers, ∃ m ∈ t.2.moves, keyOf m.ent = s.keys.sel) → exec .keyCommandFinish s = .next s) ∧
   (s.keys.busy = true → (∀ t ∈ s.tiers, ∀ m ∈ t.2.moves, keyOf m.ent ≠ s.keys.sel) → ∃ u : State, exec .keyCommandFinish s = .next u ∧ u.keys.busy = false ∧ u.keys.data = [] ∧
    SMap.get none u.keys.slots s.keys.sel.toNat = if s.keys.loading then some s.keys.loaded else none)

/-- Media cards, storage reads and CXL links (R82, R84, R85, R86, R87, R88, R89, R90, R92, R93, R94, R439). The
model's own choice: the decoder and its pictures (log 11), the order of a card's checks (log 24), the rounding
steps of a resize, its bicubic and area weights among them (log 25), the entries of the NVMe queues and data
past the window (log 26), what stands for a doorbell write (log 67). -/
def Obligations.MediaStorageAndCxl : Prop :=
  ∀ (s : State) (n : Nat), let r := s.mring n
   (n < 32 → r.cfgErr = false → r.busy = false → let b := s.memRead 0 r.place 128
    ((b.getD 0 0).getLsbD 0 = true → exec (.mediaCardPoll n) s = .next (s.setMring n { r with
     busy := true
     card := some b
     finished := if (s.poisonAt 0 r.place 128).isSome then some (10, 0, 0) else none })) ∧
    ((b.getD 0 0).getLsbD 0 = false → exec (.mediaCardPoll n) s = .next s)) ∧
   (∀ b, r.card = some b → r.finished = none → n < 16 → s.cardOk b 1 = false ∨ decodeBodyOk b = false → exec (.decodeCard n) s = .next (s.cardRan n 1 0 0)) ∧
   (∀ b bin ref pool, r.card = some b → r.finished = none → n < 16 → s.cardOk b 1 = true → decodeBodyOk b = true → brefOf b 32 = some bin → brefOf b 48 = some ref → brefOf b 64 = some pool →
    let sp := cardSpace b
    s.brefOk (.media n) sp bin false = true → s.brefOk (.media n) sp ref true = true → s.brefOk (.media n) sp pool true = true →
    ref.len < 2 ^ 20 + 18 * (pool.len / bits (getLe b 80 4) 8 8) → exec (.decodeCard n) s = .next (s.cardRan n 6 0 0)) ∧
   (∀ b bin ref pool, r.card = some b → r.finished = none → n < 16 → s.cardOk b 1 = true → decodeBodyOk b = true → brefOf b 32 = some bin → brefOf b 48 = some ref → brefOf b 64 = some pool →
    let sp := cardSpace b
    let w := getLe b 80 4
    let slot := pool.len / bits w 8 8
    s.brefOk (.media n) sp bin false = true → s.brefOk (.media n) sp ref true = true → s.brefOk (.media n) sp pool true = true → 2 ^ 20 + 18 * slot ≤ ref.len →
    let o := s.session n sp ref (w.testBit 4)
    let r1 := (o.1.engine (.media n) sp 0).brefRead bin 0 bin.len 3
    let rd := r1.1.atBref ref 0 3
    let pd := rd.1.atBref pool 0 3
    let e := (pd.1.touch rd.2 ref.len true false 3).touch pd.2 pool.len true false 3
    let d := o.2.decode (bits w 0 4) (bits w 16 16) r1.2
    let f := e.writeFrames (bits w 0 4) pool (bits w 8 8) slot (getLe b 84 4) o.2.frames d.out
    let g := f.1.scramble rd.2 ref.len
    e.stop = none → g.stop = none → ∃ u : State, exec (.decodeCard n) s = .next u ∧ u.mem = g.s.mem ∧
     (u.mring n).finished = some (if f.2.2 then 7 else d.status, if f.2.2 then 0 else d.detail, BitVec.ofNat 32 f.2.1)) ∧
   (∀ b, r.card = some b → r.finished = none → 16 ≤ n → n < 32 → s.cardOk b 2 = false ∨ resizeBodyOk b = false → exec (.resizeCard n) s = .next (s.cardRan n 1 0 0)) ∧
   (∀ b src dst o, r.card = some b → r.finished = none → 16 ≤ n → n < 32 → s.cardOk b 2 = true → resizeBodyOk b = true → brefOf b 32 = some src → brefOf b 48 = some dst →
    s.brefOk (.media n) (cardSpace b) src false = true → s.brefOk (.media n) (cardSpace b) dst true = true → s.rqObject (.media n) (cardSpace b) dst.obj = some o → o.tw = false →
    exec (.resizeCard n) s = .next (s.cardRan n 8 0 0)) ∧
   (∀ b src dst o k f, r.card = some b → r.finished = none → 16 ≤ n → n < 32 → s.cardOk b 2 = true → resizeBodyOk b = true → brefOf b 32 = some src → brefOf b 48 = some dst →
    let sp := cardSpace b
    s.brefOk (.media n) sp src false = true → s.brefOk (.media n) sp dst true = true → s.rqObject (.media n) sp dst.obj = some o → o.tw = true → resizeTypeOk o.type = true →
    windowBytes o.type (twExts o.type) o.pitch = some k → k ≤ dst.len →
    let g := (s.engine (.media n) sp 0).readFrame src
    g.2 = some f → g.1.stop = none → cropOk f ⟨getLe b 64 2, getLe b 66 2, getLe b 68 2, getLe b 70 2⟩ (twExt o.type 1) (twExt o.type 2) = true →
    let m := resizeImage f b o.type
    let units := typedUnits o.type o.pitch dst.off m.2
    let e := units.foldl (fun e p => e.touch (o.base + p.1) p.2 true false 3) g.1
    let w := (units.zipIdx).foldl (fun e p => e.write (o.base + p.1.1) ((rowBytes (BitVec.ofNat 1024 (bits m.1 (1024 * p.2) 1024))).take p.1.2) 3) e
    e.stop = none → w.stop = none → ∃ u : State, exec (.resizeCard n) s = .next u ∧ u.mem = w.s.mem ∧
     (u.mring n).finished = some (0, 0, BitVec.ofNat 32 ((units.map (·.2)).foldl (· + ·) 0))) ∧
   (∀ b st det count, r.card = some b → r.finished = some (st, det, count) →
    let u := ((s.memPut 0 (r.place + 16) (bytesOf 2 st.toNat ++ bytesOf 2 det.toNat ++ bytesOf 4 count.toNat ++ bytesOf 8 s.tick)).memPut 0 r.place [0]).setMring n { r with
     head := r.head + 1
     busy := false
     card := none
     finished := none }
    let f := getLe b 4 4
    let t := getLe b 8 4
    let v := if f.testBit 31 then u.postTo (bits f 0 10) (bits f 10 5) 1 (cardSpace b) r.pts else u
    exec (.mediaCardComplete n) s = .next (if t.testBit 31 then v.decTask (bits t 0 20) (cardSpace b) else v)) ∧
   (∀ e cid sf data, e < 64 → (s.drive e).cmds.find? (fun c => c.cid = cid) = none → exec (.nvmeCompletion e cid sf data) s = .next (s.setDrive e { s.drive e with ctrlerr := true })) ∧
   (∀ (e : Nat) (c : SgCmd) (sf : BitVec 15) (data : List Byte), e < 64 → (s.drive e).cmds.find? (fun x => x.cid = c.cid) = some c →
    let place (v : State) : Nat := (v.drive e).cq.toNat + 16 * (v.drive e).cqHead.toNat
    let taken (v u : State) : Prop := (∃ (q : List Byte) (ph : Nat), q.length = 12 ∧
      u.mem = (v.memPut 0 (place v) (q ++ bytesOf 4 (c.cid % 65536 + ph % 2 * 2 ^ 16 + sf.toNat * 2 ^ 17))).mem) ∧
     (u.drive e).errors = (if sf = 0 then (v.drive e).errors else (v.drive e).errors + 1) ∧
     (u.drive e).cmds = (v.drive e).cmds.filter (fun x => x.cid ≠ c.cid) ∧ u.cores = v.cores ∧
     u.doorbells = v.doorbells ++ [⟨(v.drive e).port, (v.drive e).db + BitVec.ofNat 64 (4 * 2 ^ (v.drive e).dstrd.toNat),
      BitVec.ofNat 32 (((v.drive e).cqHead.toNat + 1) % (v.drive e).depth)⟩]
    (sf ≠ 0 → ∃ u : State, taken s u ∧ exec (.nvmeCompletion e c.cid sf data) s =
     .next ((u.modSg c.core c.job (fun j => if (u.poisonAt 0 (place s) 16).isSome then j.failSg 5 0 else j.failSg 3 sf)).sgAfter e c.core c.job)) ∧
    (sf = 0 → data.length ≠ c.blocks * (s.drive e).block → exec (.nvmeCompletion e c.cid sf data) s = .next s) ∧
    (sf = 0 → data.length = c.blocks * (s.drive e).block → s.sgJob c.core c.job = none → ∃ u : State, taken s u ∧
     exec (.nvmeCompletion e c.cid sf data) s = .next u) ∧
    ∀ j v, sf = 0 → data.length = c.blocks * (s.drive e).block → s.sgJob c.core c.job = some j →
     (s.sgLand j c.off data = (v, none) → exec (.nvmeCompletion e c.cid sf data) s = .next v) ∧
     ∀ st, s.sgLand j c.off data = (v, some st) → ∃ u : State, taken v u ∧ exec (.nvmeCompletion e c.cid sf data) s =
      .next ((u.modSg c.core c.job (fun j => if (u.poisonAt 0 (place v) 16).isSome then j.failSg 5 0
       else if st = 0 then j else j.failSg st 0)).sgAfter e c.core c.job)) ∧
   (∀ (j : Job) (off : Nat) (data : List Byte) c lba d n len, j.kind = .sgrd c lba d n len →
    let b := data.take (len - off)
    let a := (s.engine (.fabric j.core j.id) j.space j.pts).atCap c (c.off + off) b.length true 3
    let e := a.1.touch a.2 b.length true false 3
    let w := e.write a.2 b 3
    (e.stop = none → w.stop = none → (s.sgLand j off data).2 = some 0 ∧ (s.sgLand j off data).1.mem = w.s.mem ∧
     (s.sgLand j off data).1.core j.core = { w.s.core j.core with sgrds := (w.s.core j.core).sgrds.map (fun (i : Job) => if i.id = j.id then { i with pts := w.pts } else i) }) ∧
    (e.stop = some .wait → s.sgLand j off data = (e.s, none)) ∧
    (e.stop ≠ none → e.stop ≠ some .wait → s.sgLand j off data = (e.s.clearWait (.fabric j.core j.id), some 6))) ∧
   (∀ e c, (s.drive e).cmds.find? (fun x => x.cid = c.cid) = some c → c.tick + 30000000000 ≤ s.tick → exec (.nvmeCommandTimeout e c.cid) s =
    .next (((s.setDrive e { s.drive e with
     timeout := true
     cmds := (s.drive e).cmds.filter (fun x => x.cid ≠ c.cid) }).modSg c.core c.job (fun j => j.failSg 4 0)).sgAfter e c.core c.job)) ∧
   (∀ (e n : Nat) (j : Job), (s.sgCommand e j n).doorbells =
    s.doorbells ++ [⟨(s.drive e).port, (s.drive e).db, BitVec.ofNat 32 (((s.drive e).sqTail.toNat + 1) % (s.drive e).depth)⟩]) ∧
   (∀ p, p < 4 → exec (.cxlLinkDown p) s = .next { s with cxlDown := SMap.set false s.cxlDown p true } ∧ exec (.cxlLinkUp p) s = .next { s with cxlDown := SMap.set false s.cxlDown p false }) ∧
   ∀ pa m key, s.cxlLost pa = true → m ≠ 0 → (s.poisonAt key pa m).isSome ∧ ∀ b en g, s.memWriteEn key pa b en g = s

/-- Prefix-index commands, pools and requantisation (R124, R125, R126, R135, R136, R137, R138, R139, R143, R144,
R145). The model's own choice: what a command that stops has done, when one holds a pool, and the pages that a
pass leaves (log 27). -/
def Obligations.PrefixIndexServes : Prop :=
  (∀ (s : State) (p : Nat), let x := s.pool p
   (∀ r ∈ ([(.lookup, 1), (.insert, 2), (.fork, 3), (.append, 4), (.release, 5)] : List (Instr × Nat)),
    (s.pixNext = none → exec r.1 s = .next s) ∧
    ∀ d j, s.pixNext = some (d, j) →
    (∀ o c, j.kind = .px o c → j.pxOpc = r.2 → exec r.1 s = .next (s.pixLocal d j r.2 c)) ∧
    (∀ b src sp, j.kind = .pxRemote b src sp → j.pxOpc = r.2 → exec r.1 s = .next (s.pixRemote d j b src sp)) ∧
    (j.pxOpc ≠ r.2 → exec r.1 s = .next s)) ∧
   (∀ d j opc (c : Cap), let a := (s.engine (pixRq j) j.space j.pts).atCap c c.off 32 true 3
    let h := (a.1.touch (a.2 + 16) 16 true false 3).readOk a.2 32 3
    let body := min (pxBody (getLe h.2 0 1) (getLe h.2 2 2)) (c.len - c.off.toNat - 32)
    let e := (h.1.atCap c (c.off + 32) body false 3).1
    let r := if e.stop.isSome then (e, []) else e.readOk (a.2 + 32) body 3
    let q := if r.1.stop.isSome then ((⟨r.1, 0, s.pool 0, [], [], none⟩ : Pix), j.pxDone) else r.1.pixRun j (h.2 ++ r.2) opc (c.len - c.off.toNat) false j.space
    let pool := if h.1.stop = none then getLe h.2 1 1 % 8 else if j.started then j.detail.toNat else noPool
    let last (e : Eng) (pool st : Nat) (r : PxDone) : State :=
     let w := e.pixTail c (bytesOf 2 st ++ [0, 0] ++ bytesOf 4 r.done ++ bytesOf 4 r.result ++ bytesOf 4 r.aux)
     if w.stop = some .wait then w.s.pixHold d { j with done := true, status := BitVec.ofNat 8 st } pool r w.pts
     else (w.s.pixPop d j).postJob { j with pts := w.pts }
    let over_ (st : Nat) : State :=
     last { q.1.e with s := q.1.e.s.clearWait (pixRq j), stop := none, sp := j.space } pool st q.2
    (j.done = true → s.pixLocal d j opc c = last (s.engine (pixRq j) j.space j.pts) j.detail.toNat j.status.toNat j.pxDone) ∧ (j.done = false →
    (q.1.e.stop = some .wait → ∃ i l, (s.pixLocal d j opc c).port d = i :: l ∧ i.id = j.id ∧ i.started = true ∧ i.pos = q.2.done ∧ (s.pixLocal d j opc c).mem = q.1.e.s.mem) ∧
    (∀ p, q.1.e.stop = some p → p ≠ .wait → s.pixLocal d j opc c = over_ (if p = .killed then 13 else 12)) ∧
    (∀ st, q.1.e.stop = none → q.1.fail = some st → s.pixLocal d j opc c = over_ st) ∧
    (q.1.e.stop = none → q.1.fail = none → s.pixLocal d j opc c = over_ 0))) ∧
   (∀ v : Word, p < 8 → v.getLsbD 0 = false → x.enabled = true → s.poolBusy p = false → x.initbusy = false → x.rqact = false →
    exec (.pxDisable p v) s = .next (s.setPool p { x with cfg := x.cfg &&& ~~~1#64, ready := false })) ∧
   (p < 8 → x.enabled = true → x.ready = false → x.initbusy = false → s.poolBusy p = false →
    exec (.pxInit p) s = .next (if s.poolOk x then s.setPool p { x with cfgerr := false, initbusy := true } else s.setPool p { x with cfgerr := true })) ∧
   (∀ e o, p < 8 → x.initbusy = true → (s.engine (.pix p) x.space 0).object x.metaobj 3 = (e, some o) → e.stop = none →
    let f := e.touch o.base (x.seqAt x.nseq) true false 3
    let w := f.write o.base (List.replicate (x.seqAt x.nseq) 0) 3
    f.stop = none → w.stop = none → ∃ u : State, exec (.pxInitComplete p) s = .next u ∧ u.mem = w.s.mem ∧
     u.pool p = { x with
      initbusy := false
      ready := true
      stack := []
      fresh := 0
      slots := x.npages + x.nspare
      blocks := [(x.lpg, 0)]
      entries := []
      retire := []
      cb0 := 0
      cb1 := 0 }) ∧
   (p < 8 → x.ready = true → x.rqact = false → exec (.pxRequantStart p) s = .next (s.setPool p { x with rqact := true, rqpos := 0, rqtgt := x.tgt })) ∧
   (∀ e b, p < 8 → x.rqact = true → (∀ q ∈ s.pxq, ∀ j ∈ q.2, j.started = false) →
    (⟨s.engine (.pix (8 + p)) x.space 0, p, x, [], [], none⟩ : Pix).read x.metaobj (x.pageAt x.rqpos) 8 = (e, b) → e.e.stop = none →
    let pg := pageOf (ofBytes b)
    let pass (t : State) (y : PxPool) : State := (t.clearWait (.pix (8 + p))).setPool p
     (if x.npages ≤ x.rqpos + 1 then { y with rqact := false, rqpos := 0 } else { y with rqpos := x.rqpos + 1 })
    (pg.v = false ∨ pg.cbg = x.rqtgt.toNat ∨ x.slots ≤ pg.slot ∨ x.popSlot = none → exec (.pxRequantStep p) s = .next (pass e.e.s x)) ∧
    ∀ slot y, pg.v = true → pg.cbg ≠ x.rqtgt.toNat → pg.slot < x.slots → x.popSlot = some (slot, y) →
     let k := (({ e with x := y }).requant pg slot x.rqtgt.toNat).atObj x.metaobj (x.pageAt x.rqpos) 8
     let ws := k.1.data ++ [(k.2, bytesOf 8 ({ pg with slot := slot, cbg := x.rqtgt.toNat } : Page).word)]
     let f := ws.foldl (fun e w => e.touch w.1 w.2.length true false 3) k.1.e
     f.stop = none → y.rqpos = x.rqpos ∧ y.npages = x.npages ∧ exec (.pxRequantStep p) s =
      .next (pass (ws.foldl (fun e w => e.write w.1 w.2 3) f).s { (y.count pg.cbg false).count x.rqtgt.toNat true with retire := y.retire ++ [(pg.slot, s.tick)] })) ∧
   ∀ t : Word, p < 8 → exec (.pxReclaim p t) s = .next (s.setPool p { x with
    stack := ((x.retire.filter (fun r => r.2 < t.toNat)).map (·.1)).reverse ++ x.stack
    retire := x.retire.filter (fun r => t.toNat ≤ r.2) })) ∧
  (∀ (x : PxPool) (t : List (BitVec 32)), let m := x.matchOf t
   (∀ e ∈ x.entries, commonLen e.2 t ≤ m.1) ∧ (m.2 = none → m.1 = 0) ∧
   ∀ i, m.2 = some i → 0 < m.1 ∧ (∃ l, (i, l) ∈ x.entries ∧ commonLen l t = m.1) ∧ ∀ e ∈ x.entries, commonLen e.2 t = m.1 → i ≤ e.1) ∧
  ∀ (k : Pix) (b : List Byte) (d : PxDone) (opc room : Nat) (remote : Bool) (sp : BitVec 16), let n := getLe b 2 2
   let w := getLe b 32 4
   let v := getLe b 36 4
   let items (f : Pix → Nat → Pix × Nat) (k : Pix) : Pix × PxDone := Pix.items f (n - d.done) d.done k d
   (getLe b 0 1 ≠ opc ∨ pxArgsOk b room remote = false → k.command b opc room remote sp d = (k.halt 1, d)) ∧
   (getLe b 0 1 = opc → pxArgsOk b room remote = true → k.x.ready = false ∨ k.x.space ≠ sp → k.command b opc room remote sp d = (k.halt 2, d)) ∧
   (getLe b 0 1 = opc → pxArgsOk b room remote = true → k.x.ready = true → k.x.space = sp → k.command b opc room remote sp d =
    if ∃ i ∈ pxIds b, k.x.nseq ≤ i then (k.halt 1, d) else k.body b d) ∧
   (getLe b 0 1 = 1 → let r := k.ref b 48 (4 * w) false
    let t := r.1.tokens r.2 w
    k.body b d = (t.1, ⟨0, (t.1.x.matchOf t.2).1, (t.1.x.matchOf t.2).2.getD 0xFFFFFFFF⟩)) ∧
   (getLe b 0 1 = 2 → ∀ q u r, k.seq (bits w 0 20) = (u, q) → u.ref b 48 (if q.v then 4 * q.len else 0) false = r → r.1.on = true →
    (q.v = false → k.body b d = (r.1.halt 4, ⟨0, 0, 0⟩)) ∧ (q.v = true → q.ix = true → k.body b d = (r.1.halt 6, ⟨0, 0, 0⟩)) ∧
    (q.v = true → q.ix = false → q.len ≠ 0 → 2 ≤ r.1.x.nodeFree → q.len ≤ r.1.x.tokFree → w.testBit 31 = true →
     let t := r.1.tokens r.2 q.len
     let y := ({ t.1 with x := { t.1.x with entries := t.1.x.entries ++ [(bits w 0 20, t.2)] } } : Pix).commit (bits w 0 20) (some { q with ix := true })
     k.body b d = (y, ⟨0, if y.on then bits w 0 20 else 0, 0⟩)) ∧
    (q.v = true → q.ix = false → q.len ≠ 0 → 2 ≤ r.1.x.nodeFree → q.len ≤ r.1.x.tokFree → w.testBit 31 = false →
     let i := bits v 0 20
     let z := r.1.seq i
     let pages := extPages q.ext
     let f := pages.foldl (fun (a : Pix × Bool) p => ((a.1.page p).1, a.2 || (a.1.page p).2.ref = 65535)) (z.1, false)
     f.1.on = true → (z.2.v = true → k.body b d = (f.1.halt 5, ⟨0, 0, 0⟩)) ∧ (z.2.v = false → f.2 = true → k.body b d = (f.1.halt 9, ⟨0, 0, 0⟩)) ∧
     (z.2.v = false → f.2 = false → let t := f.1.tokens r.2 q.len
      let y := (({ t.1 with x := { t.1.x with entries := t.1.x.entries ++ [(i, t.2)] } } : Pix).refer pages).commit i (some { q with ix := true })
      k.body b d = (y, ⟨0, if y.on then i else 0, 0⟩)))) ∧
   (getLe b 0 1 = 3 → v.testBit 31 = true → ∀ q u, k.seq (bits v 0 20) = (u, q) → u.on = true → q.v = true →
    let r := items (fun k i => (k.forkItem (getLe b (64 + 4 * i) 4) q.len q, 0)) u
    k.body b d = (r.1, { r.2 with result := q.len, aux := bits v 0 20 })) ∧
   (getLe b 0 1 = 3 → v.testBit 31 = false → let r := k.ref b 48 (4 * w) false
    let t := r.1.tokens r.2 w
    let m := t.1.x.matchOf t.2
    let u := match m.2 with
     | some i => t.1.seq i
     | none => (t.1, ⟨0, false, false, []⟩)
    u.1.on = true → let r := items (fun k i => (k.forkItem (getLe b (64 + 4 * i) 4) m.1 u.2, 0)) u.1
    k.body b d = (r.1, { r.2 with result := m.1, aux := m.2.getD 0xFFFFFFFF })) ∧
   (getLe b 0 1 = 4 → k.body b d = items (fun k i => (k.append ((b.drop (32 + 32 * i)).take 32), 0)) k) ∧
   (getLe b 0 1 = 5 → k.body b d = items (fun k i => k.releaseItem (getLe b (32 + 4 * i) 4)) k) ∧
   (∀ i m src q u, k.seq i = (u, q) → u.on = true →
    (q.v = true → k.forkItem i m src = u.halt 5) ∧
    (q.v = false → let pages := extPages (cutExtents (ceilDiv m u.x.p) src.ext)
     let f := pages.foldl (fun (a : Pix × Bool) p => ((a.1.page p).1, a.2 || (a.1.page p).2.ref = 65535)) (u, false)
     f.1.on = true → k.forkItem i m src = if f.2 then f.1.halt 9
      else (f.1.refer pages).commit i (some ⟨m, true, false, cutExtents (ceilDiv m u.x.p) src.ext⟩))) ∧
   (∀ i q u, k.seq i = (u, q) → u.on = true →
    (q.v = false → k.releaseItem i = (u.halt 4, 0)) ∧
    (q.v = true → let f := (extPages q.ext).foldl (fun (a : Pix × Nat) p =>
      let r := a.1.page p
      if r.1.on = false then (r.1, a.2)
      else if r.2.ref ≤ 1 then
       let y := r.1.setPage p ⟨0, 0, 0, false, 0⟩
       ({ y with x := (y.x.give p r.2.slot).count r.2.cbg false }, a.2 + 1)
      else (r.1.setPage p { r.2 with ref := r.2.ref - 1 }, a.2)) (u, 0)
     k.releaseItem i = (({ f.1 with x := { f.1.x with entries := f.1.x.entries.filter (fun t => t.1 ≠ i) } } : Pix).commit i none, f.2))) ∧
   (let i := bits (getLe b 0 4) 0 20
    let c := getLe b 4 2
    let gen := bits (getLe b 6 1) 0 1
    ∀ q u, k.seq i = (u, q) → u.on = true → (q.v = false → k.append b = u.halt 4) ∧ (q.v = true → q.ix = true → k.append b = u.halt 6) ∧
    (q.v = true → q.ix = false → 2 ^ 32 ≤ q.len + c → k.append b = u.halt 11) ∧
    ∀ y z, q.v = true → q.ix = false → q.len + c < 2 ^ 32 → u.ref b 16 (c * u.x.nh * 32) false = y →
     let old := extPages q.ext
     let o := q.len % y.1.x.p
     (if o = 0 then (y.1, pageOf 0) else y.1.page (old.getLastD 0)) = z → z.1.on = true →
     let cow : Bool := o ≠ 0 && 1 < z.2.ref
     let fresh := ceilDiv (q.len + c) z.1.x.p - ceilDiv q.len z.1.x.p
     let g := z.1.x.takeMany (fresh + cow.toNat)
     let ext := g.2.foldl (fun l p => addPage l p.1) (if cow && g.2 ≠ [] then dropPage q.ext else q.ext)
     (16 < ext.length → k.append b = z.1.halt 8) ∧
     (ext.length ≤ 16 → g.2.length < fresh + cow.toNat → k.append b = z.1.halt 7) ∧
     (ext.length ≤ 16 → fresh + cow.toNat ≤ g.2.length →
      let m : Pix := { z.1 with x := g.1 }
      let copied := (((m.copySlot z.2.slot (g.2.headD (0, 0)).2 o).setPage (old.getLastD 0) { z.2 with ref := z.2.ref - 1 }).setPage (g.2.headD (0, 0)).1
       ⟨1, o, z.2.cbg, true, (g.2.headD (0, 0)).2⟩)
      let n := if cow then { copied with x := copied.x.count z.2.cbg true } else m
      let a := (if cow then g.2.drop 1 else g.2).foldl (fun (k : Pix) p => { (k.setPage p.1 ⟨1, 0, gen, true, p.2⟩) with x := (k.setPage p.1 ⟨1, 0, gen, true, p.2⟩).x.count gen true }) n
      let s := a.e.brefRead y.2 0 (c * u.x.nh * 32) 3
      k.append b = (({ a with e := s.1 }).writeAll s.2 gen q.len c (extPages ext) (ext.length + c + 1) 0).commit i (some { q with len := q.len + c, ext := ext }))) ∧
   ∀ i q, k.on = true → let m := k.atObj k.x.metaobj 0 (k.x.seqAt k.x.nseq)
    let at_ := m.2 + m.1.x.seqAt i
    let ws := m.1.data ++ m.1.pages.map (fun p => (m.2 + m.1.x.pageAt p.1, bytesOf 8 p.2.word)) ++
     (match q with
      | some q => [(at_ + 16, q.extBytes), (at_, q.headBytes)]
      | none => [(at_, List.replicate 256 0)])
    let f := ws.foldl (fun e w => e.touch w.1 w.2.length true false 3) m.1.e
    let w := ws.foldl (fun e w => e.write w.1 w.2 3) f
    (f.stop ≠ none → k.commit i q = { m.1 with e := f }) ∧
    (f.stop = none → k.commit i q = { m.1 with
     e := { w with s := w.s.setPool m.1.n m.1.x }
     pages := []
     data := [] })

/-- Results land, traps are taken at boundaries, and sleeps expire (R183, R195, R197, R290, R293, R295, R421, R440,
R450, R299). The model's own choice: how many cycles a core counts, an idle cycle among them (log 1), and the
entries that an acknowledgement covers (log 33). -/
def Obligations.CoresAdvance : Prop :=
  ∀ (s : State) (ci k : Nat), let c := s.core ci
   let x := s.ctx ci k
   (∀ due : Bool, due = [0, 1, 2, 3].any (fun k => (c.ctx k).flight.any (fun r => r.due ≤ c.cycle)) →
    exec (.resultLand ci) s = .next ((if due || !c.idleCycle then s else s.modCore ci (fun c => { c with cycle := c.cycle + 1 })).land ci)) ∧
   (∀ j, c.svcs.find? (fun j => j.ctx = k && j.done) = some j → let u := s.modCore ci (fun c => { c with svcs := c.svcs.filter (fun i => i.id ≠ j.id) })
    (((u.gangCore j.task ci).ctx k).pend.find? (fun p => some p.id = j.pend) = none → exec (.varResultReturn ci k) s = .next (u.postJob j)) ∧
    ∀ p, ((u.gangCore j.task ci).ctx k).pend.find? (fun p => some p.id = j.pend) = some p → exec (.varResultReturn ci k) s =
     .next ((u.modGangCore j.task ci (fun d => d.landWords k p j.result (c.resv.owner = some j.task))).postJob j)) ∧
   (∀ (p : Pending) (ws : List Word) (live : Bool) (i n : Nat), p.w = true → p.regs.Nodup → let y := (c.landWords k p ws live).ctx k
    (p.regs[i]? = some (.s, n) → n ≠ 0 → y.sReg n = ws.getD i 0) ∧
    (p.regs[i]? = some (.t, n) → (y.tReg n).tw = (wordsRow ws).setWidth 128 ∧ (y.tReg n).desc = (x.tReg n).desc) ∧
    y.pend = x.pend.filter (fun q => q.id ≠ p.id)) ∧
   (c.svcs.find? (fun j => j.ctx = k && j.done) = none → exec (.varResultReturn ci k) s = .next s) ∧
   (x.eligible = true → x.hasCause = true → exec (.trapEntry ci k) s = .next (s.boundary ci k).1) ∧
   (x.hasCause = false → exec (.trapEntry ci k) s = .next s) ∧
   (∀ p, let s1 := (s.land ci).modCore ci (fun c => c.replay k)
    ((s1.ctx ci k).quiet = false → s.boundary ci k = (s1.modCore ci (fun c => c.hold k), false)) ∧
    ((s1.ctx ci k).quiet = true → (s1.ctx ci k).nextCause = some p → (s.boundary ci k).1 = (s1.modCtx ci k (fun x => { x with
     causes := x.causes.filter (fun q => q.cause ≠ p.cause) })).takeTrap ci k p.cause p.val 0 [])) ∧
   (∀ w, x.watch.find? (fun w => w.row ≠ 6 && w.since + 2 ^ 30 ≤ w.last) = some w → x.sr.arithx.getLsbD 1 = true → x.status = .blocked → x.held = false → x.stopped = false →
    exec (.watchdog ci k) s = .next (s.modCtx ci k (fun x => x.pendCause .watchdog (w.row.setWidth 64)))) ∧
   (x.sr.arithx.getLsbD 1 = false ∨ x.status ≠ .blocked ∨ (∀ w ∈ x.watch, w.row = 6 ∨ w.last < w.since + 2 ^ 30) → exec (.watchdog ci k) s = .next s) ∧
   (∀ d, SMap.get none x.deadline x.pauseKey = some d → exec (.sleepExpiry ci k) s =
    .next (if x.status = .blocked ∧ d ≤ s.tick then s.modCtx ci k (fun x => { x with status := .ready }) else s)) ∧
   (SMap.get none x.deadline x.pauseKey = none → exec (.sleepExpiry ci k) s = .next s) ∧
   (∀ n rest, (c.rink k).landed = n :: rest → (n = 128 → exec (.rinkRowFilled ci k) s = .next (s.modCore ci (fun d => d.setRink k { c.rink k with
     infl := (c.rink k).infl - 1
     filled := (c.rink k).filled + 1
     landed := rest }))) ∧ (n ≠ 128 → exec (.rinkRowFilled ci k) s = .next s)) ∧
   (∀ b, b = SMap.get LoadBlock.init c.lbs k → (b.st ≠ .filling → exec (.loadBlockSettled ci k) s = .next s) ∧
    ∀ u d v ls, b.st = .filling → (s.engine (.loadBlock ci k) b.space (s.ctx ci b.ctx).pts).atCap b.cap b.start (64 * b.count) false 3 = (u, d) →
     (List.range b.count).foldl (fun (a : Eng × List Nat) i => match a.1.xlate (d + 64 * i) false false 3 with
      | (e, some (pa, _)) => (e, a.2 ++ [pa / 64])
      | (e, none) => (e, a.2)) (u, []) = (v, ls) →
     (v.stop = none → exec (.loadBlockSettled ci k) s = .next (if v.s.pinRoom ls then v.s.settleBlock ci k .pinned ls v.pts else v.s.settleBlock ci k .nopin [] v.pts)) ∧
     (v.stop = some .wait → exec (.loadBlockSettled ci k) s = .next v.s) ∧
     (v.stop ≠ none → v.stop ≠ some .wait → exec (.loadBlockSettled ci k) s = .next (v.s.settleBlock ci k .nopin [] v.pts))) ∧
   (x.rplacks = [] → exec (.rplackComplete ci k) s = .next s) ∧
   (∀ j rest r l, x.rplacks = j :: rest → j.kind = .rplack r l → (∃ i ∈ l, x.entryIds.contains i = true) ∨ (r = true ∧ (s.faultWait ≠ [] ∨ s.fq.full = true)) →
    exec (.rplackComplete ci k) s = .next s) ∧
   (∀ j rest r l, x.rplacks = j :: rest → j.kind = .rplack r l → (∀ i ∈ l, x.entryIds.contains i = false) →
    (r = false → exec (.rplackComplete ci k) s = .next ((s.modCtx ci k (fun x => { x with rplacks := rest })).postJob j)) ∧
    (r = true → s.faultWait = [] → s.fq.full = false → let u := s.pushFault (bytesOf 4 (x.lastReplay.getD (BitVec.allOnes 32)).toNat ++
      bytesOf 2 (s.spaceOf ci).toNat ++ [0, 0] ++ bytesOf 8 0 ++ bytesOf 2 ci ++ [BitVec.ofNat 8 (x.sr.xlvl.toNat % 4 * 4 + k % 4), 0] ++
      bytesOf 4 (s.taskIdOf ci) ++ bytesOf 8 s.tick)
     exec (.rplackComplete ci k) s = .next ((u.modCtx ci k (fun x => { x with rplacks := rest })).postJob j) ∧
     u.fq.tail = s.fq.tail + 1 ∧ u.cores = s.cores))

/-- Copy, matrix and merge jobs start, run and complete (R240, R241, R242, R246, R266, R267, R271, R422, R427, R428,
R429, R430). The model's own choice: a job does its work in its completion turn (log 34), a started job waits
again where an earlier job meets it (log 47), and the order of merge commands (log 36). -/
def Obligations.EnginesRunJobs : Prop :=
  ∀ (s : State) (n : Nat),
   (∀ j t, (s.core n).ce = j :: t → j.started = false → s.jobWaits j = false →
    exec (.copyJobStart n) s = .next (s.modCore n (fun c => { c with ce := { j with started := true } :: t }))) ∧
   (∀ j t, (s.core n).ce = j :: t → j.started = true ∨ s.jobWaits j = true → exec (.copyJobStart n) s = .next s) ∧
   (∀ j t c st, (s.core n).ce = j :: t → j.started = true → s.jobWaits j = false → (Copy.start s j).run = (c, st) → c.e.stop = none →
    exec (.copyJobComplete n) s = .next (c.e.s.finishJob { j with pts := c.e.pts } (.ce n) st c.j.pos)) ∧
   (∀ j t, (s.core n).ce = j :: t → s.jobWaits j = true → exec (.copyJobComplete n) s = .next s) ∧
   (∀ j t, (s.core n).me = j :: t → j.started = false → s.jobWaits j = false → exec (.matrixJobStart n) s = .next (s.modCore n (fun c => { c with
    me := { j with started := true, held := (rowsIn j.reads).map (fun r => (r, (s.core n).row r)) } :: t }))) ∧
   (∀ j t c, (s.core n).me = j :: t → j.started = true → (Copy.startMatrix s j).runMatrix = c → c.e.stop = none →
    exec (.matrixJobComplete n) s = .next (c.e.s.finishJob { j with pts := c.e.pts } (.me n) 0 0)) ∧
   (∀ m, m = s.mergeOf n →
    (∀ j t, m.queue = j :: t → s.jobWaits j = true → ∀ i ∈ [.mergeOpenApply n, .mergePushApply n, .mergeCloseApply n, .mergeStatusApply n], exec i s = .next s) ∧
    (∀ j t c cap e d e' b x, m.queue = j :: t → s.jobWaits j = false → j.kind = .mopen c cap → m.st = .idle → (s.mergeEngine n j.space j).atCap c c.off 80 false 3 = (e, d) → e.readOk d 80 3 = (e', b) → e'.stop = none →
     openBlock e'.s e'.rq j.space b cap = some x → exec (.mergeOpenApply n) s = .next (((e'.s.setMerge n { x with
      task := j.task
      core := j.core
      flag := j.flag.getD 0
      queue := m.queue }).mergePop n).answer { j with flag := none } [0])) ∧
    (∀ j t st recs ending, m.queue = j :: t → s.jobWaits j = false → j.kind = .mpush st recs ending → m.st = .idle ∨ m.task ≠ j.task → exec (.mergePushApply n) s = .next (s.mergePop n)) ∧
    (∀ j t st recs ending, m.queue = j :: t → s.jobWaits j = false → j.kind = .mpush st recs ending → m.st ≠ .idle → m.task = j.task →
     let g := recs.foldl (fun g r => g.record st r.1 r.2) (⟨s.mergeEngine n m.space j, m⟩ : Mgn).settle
     let g := if ending then g.endStream st else g
     g.e.stop = none → ¬ (m.st = .opened ∧ g.m.st = .failed ∧ g.m.fail = 6) → exec (.mergePushApply n) s = .next ((g.e.s.setMerge n g.m).mergePop n)) ∧
    (∀ j t, m.queue = j :: t → s.jobWaits j = false → j.kind = .mclose → m.st = .idle ∨ m.task ≠ j.task → exec (.mergeCloseApply n) s = .next (s.mergePop n)) ∧
    (∀ j t, m.queue = j :: t → s.jobWaits j = false → j.kind = .mclose → m.st ≠ .idle → m.task = j.task →
     let g := (⟨s.mergeEngine n m.space j, m⟩ : Mgn).settle.close
     g.e.stop = none → g.m.st ≠ .failed → ∀ e, g.e.brefWrite g.m.stat 0 (statBytes 0 g.m.runs.length g.m.received g.m.output.length g.m.peak s.tick) 3 = e → e.stop = none →
     exec (.mergeCloseApply n) s = .next (((e.s.setMerge n { Merge.init with queue := m.queue }).mergePop n).postTo m.core m.flag.toNat 1 m.space e.pts)) ∧
    (∀ j t, m.queue = j :: t → s.jobWaits j = false → j.kind = .mstat → m.st = .idle → exec (.mergeStatusApply n) s = .next ((s.mergePop n).answer j [0])) ∧
    (∀ j t, m.queue = j :: t → s.jobWaits j = false → j.kind = .mstat → m.st = .opened →
     exec (.mergeStatusApply n) s = .next ((s.mergePop n).answer j [BitVec.ofNat 64 (1 + m.store.length * 2 ^ 16 + m.runs.length * 2 ^ 32)])))

/-- Two-source scalar instructions (R340, R341, R183, R342, R296). -/
def Obligations.ScalarTwoSource : Prop :=
  ((∀ r ∈ ([(.add, .add, 1, fun h n x y => if satOf h then BitVec.ofInt n (max (-(2 ^ (n - 1) : Int)) (min (2 ^ (n - 1) - 1) (x.toInt + y.toInt))) else x + y),
   (.sub, .sub, 1, fun h n x y => if satOf h then BitVec.ofInt n (max (-(2 ^ (n - 1) : Int)) (min (2 ^ (n - 1) - 1) (x.toInt - y.toInt))) else x - y),
   (.mul, .mul, 3, fun _ _ x y => x * y),
   (.and, .and, 1, fun _ _ x y => x &&& y),
   (.or, .or, 1, fun _ _ x y => x ||| y),
   (.xor, .xor, 1, fun _ _ x y => x ^^^ y),
   (.andn, .andn, 1, fun _ _ x y => x &&& ~~~y),
   (.shl, .shl, 1, fun _ n x y => x <<< (y.toNat % n)),
   (.shr, .shr, 1, fun _ n x y => x >>> (y.toNat % n)),
   (.sra, .sra, 1, fun _ n x y => x.sshiftRight (y.toNat % n)),
   (.rol, .rol, 1, fun _ n x y => x.rotateLeft (y.toNat % n)),
   (.min, .min, 1, fun _ _ x y => if x.sle y then x else y),
   (.max, .max, 1, fun _ _ x y => if x.sle y then y else x),
   (.minu, .minu, 1, fun _ _ x y => if x.ule y then x else y),
   (.maxu, .maxu, 1, fun _ _ x y => if x.ule y then y else x)] :
   List ((Hd → RFmt → Instr) × Op × Nat × (Hd → (n : Nat) → BitVec n → BitVec n → BitVec n))),
  ∀ (h : Hd) (f : RFmt) (s : State) (a b : Word), Ready r.2.1 .sc (mkR r.2.1.code h f) h s →
  (s.env .sc h).srcS f.sa = .ok a → (s.env .sc h).srcS f.sb = .ok b →
  exec (r.1 h f) s = .next (((s.env .sc h).flyS r.2.2.1 f.dst
   ((r.2.2.2 h (widthOf h) (a.setWidth _) (b.setWidth _)).signExtend 64) 0).setVerdict .committed))
   ∧ (∀ r ∈ ([(.div, .div, fun n x y => if y = 0 then BitVec.allOnes n else x.sdiv y),
   (.divu, .divu, fun n x y => if y = 0 then BitVec.allOnes n else x / y),
   (.rem, .rem, fun _ x y => if y = 0 then x else x.srem y),
   (.remu, .remu, fun _ x y => if y = 0 then x else x % y)] :
   List ((Hd → RFmt → Instr) × Op × ((n : Nat) → BitVec n → BitVec n → BitVec n))),
  ∀ (h : Hd) (f : RFmt) (s : State) (a b : Word), Ready r.2.1 .sc (mkR r.2.1.code h f) h s →
  (s.env .sc h).srcS f.sa = .ok a → (s.env .sc h).srcS f.sb = .ok b →
  if b.setWidth (widthOf h) = 0 ∧ (s.env .sc h).x.sr.arithx.getLsbD 0 then
   exec (r.1 h f) s = .next ((s.trapNow s.iss.core s.iss.ctx .divZero (BitVec.ofNat 64 (f.dst.toNat * 2 ^ 8))
    (slotMask [.sc])).setVerdict (.trapped .divZero (BitVec.ofNat 64 (f.dst.toNat * 2 ^ 8))))
  else exec (r.1 h f) s = .next (((s.env .sc h).flyS 18 f.dst
   ((r.2.2 (widthOf h) (a.setWidth _) (b.setWidth _)).signExtend 64) 0).setVerdict .committed)))
   ∧ (∀ r ∈ ([(.mulh, .mulh, fun a b => (a.signExtend 128 * b.signExtend 128).extractLsb' 64 64),
   (.mulhu, .mulhu, fun a b => (a.setWidth 128 * b.setWidth 128).extractLsb' 64 64)] :
   List ((Hd → RFmt → Instr) × Op × (Word → Word → Word))),
  ∀ (h : Hd) (f : RFmt) (s : State) (a b : Word), h.fmt = 0 → Ready r.2.1 .sc (mkR r.2.1.code h f) h s →
  (s.env .sc h).srcS f.sa = .ok a → (s.env .sc h).srcS f.sb = .ok b →
  exec (r.1 h f) s = .next (((s.env .sc h).flyS 3 f.dst (r.2.2 a b) 0).setVerdict .committed))

/-- One-source and immediate scalar instructions (R341, R345, R343, R344). -/
def Obligations.ScalarOneSource : Prop :=
  (((∀ r ∈ ([(.clz, .clz, fun n x => n - if x = 0 then 0 else Nat.log2 x + 1),
    (.ctz, .ctz, fun n x => ((List.range n).takeWhile (fun i => !x.testBit i)).length),
    (.popc, .popc, fun n x => ((List.range n).filter (fun i => x.testBit i)).length)] :
    List ((Hd → RFmt → Instr) × Op × (Nat → Nat → Nat))),
   ∀ (h : Hd) (f : RFmt) (s : State) (a : Word), Ready r.2.1 .sc (mkR r.2.1.code h f) h s →
   (s.env .sc h).srcS f.sa = .ok a →
   exec (r.1 h f) s = .next (((s.env .sc h).flyS 1 f.dst
    (BitVec.ofNat 64 (r.2.2 (widthOf h) (a.toNat % 2 ^ widthOf h))) 0).setVerdict .committed)) ∧
  (∀ (h : Hd) (f : RFmt) (s : State) (a : Word), Ready .sext .sc (mkR Op.sext.code h f) h s →
   (s.env .sc h).srcS f.sa = .ok a →
   exec (.sext h f) s = .next (((s.env .sc h).flyS 1 f.dst
    ((a.setWidth (f.imm.toNat % 64 + 1)).signExtend 64) 0).setVerdict .committed)) ∧
  (∀ (h : Hd) (f : RFmt) (s : State) (a : Word), Ready .zext .sc (mkR Op.zext.code h f) h s →
   (s.env .sc h).srcS f.sa = .ok a →
   exec (.zext h f) s = .next (((s.env .sc h).flyS 1 f.dst
    ((a.setWidth (f.imm.toNat % 64 + 1)).setWidth 64) 0).setVerdict .committed)) ∧
  ∀ (h : Hd) (f : RFmt) (s : State) (a b : Word), Ready .sel .sc (mkR Op.sel.code h f) h s →
   (s.env .sc h).srcS f.sa = .ok a → (s.env .sc h).srcS f.sb = .ok b →
   exec (.sel h f) s = .next (((s.env .sc h).flyS 1 f.dst
    (if (s.env .sc h).x.pReg f.sc.toNat then a else b) 0).setVerdict .committed))
   ∧ ((∀ r ∈ ([(0, fun _ x y => x == y), (1, fun _ x y => x != y), (2, fun _ x y => x.slt y), (3, fun _ x y => y.sle x),
    (4, fun _ x y => x.ult y), (5, fun _ x y => y.ule x)] : List (Nat × ((n : Nat) → BitVec n → BitVec n → Bool))),
   ∀ (h : Hd) (s : State), h.fmt.toNat % 8 = r.1 →
   (∀ (f : RFmt) (a b : Word), Ready .cmp .sc (mkR Op.cmp.code h f) h s →
    (s.env .sc h).srcS f.sa = .ok a → (s.env .sc h).srcS f.sb = .ok b →
    exec (.cmp h f) s = .next (((s.env .sc h).flyP 1 f.dst
     (r.2 (if h.fmt.getLsbD 3 then 32 else 64) (a.setWidth _) (b.setWidth _)) 0).setVerdict .committed)) ∧
   ∀ (f : IFmt) (a : Word), Ready .cmpi .sc (mkI Op.cmpi.code h f) h s →
    (s.env .sc h).srcS f.sa = .ok a →
    exec (.cmpi h f) s = .next (((s.env .sc h).flyP 1 f.dst
     (r.2 (if h.fmt.getLsbD 3 then 32 else 64) (a.setWidth _) ((f.imm.signExtend 64).setWidth _)) 0).setVerdict .committed))))
   ∧ ((∀ r ∈ ([(.addi, .addi, fun n x i => x + i.setWidth n), (.andi, .andi, fun n x i => x &&& i.setWidth n),
    (.ori, .ori, fun n x i => x ||| i.setWidth n), (.xori, .xori, fun n x i => x ^^^ i.setWidth n),
    (.shli, .shli, fun n x i => x <<< (i.toNat % 64 % n)), (.shri, .shri, fun n x i => x >>> (i.toNat % 64 % n)),
    (.srai, .srai, fun n x i => x.sshiftRight (i.toNat % 64 % n))] :
    List ((Hd → IFmt → Instr) × Op × ((n : Nat) → BitVec n → Word → BitVec n))),
   ∀ (h : Hd) (f : IFmt) (s : State) (a : Word), Ready r.2.1 .sc (mkI r.2.1.code h f) h s →
   (s.env .sc h).srcS f.sa = .ok a →
   exec (r.1 h f) s = .next (((s.env .sc h).flyS 1 f.dst
    ((r.2.2 (widthOf h) (a.setWidth _) (f.imm.signExtend 64)).signExtend 64) 0).setVerdict .committed)) ∧
  (∀ (h : Hd) (f : LFmt) (s : State), Ready .li .sc (mkL Op.li.code h f) h s →
   exec (.li h f) s = .next (((s.env .sc h).flyS 1 f.dst (f.imm.signExtend 64) 0).setVerdict .committed)) ∧
  ∀ (h : Hd) (f : LFmt) (s : State) (d : Word), Ready .lih .sc (mkL Op.lih.code h f) h s →
   (s.env .sc h).srcS f.dst = .ok d →
   exec (.lih h f) s = .next (((s.env .sc h).flyS 1 f.dst (f.imm.extractLsb' 0 26 ++ d.extractLsb' 0 38) 0).setVerdict .committed))

/-- PLOG looks its two predicates up in its truth table (R346). -/
def Obligations.PredicateLogic : Prop :=
  (∀ (h : Hd) (f : RFmt) (s : State),
   let e := s.env .sc h
   (mkR Op.plog.code h f).extractLsb' 56 8 = 0x27 ∧ encodeWord (.plog h f) = some (.sc, mkR Op.plog.code h f) ∧
   (Ready .plog .sc (mkR Op.plog.code h f) h s → h.fmt = 0 ∧ f.imm.extractLsb' 4 7 = 0 ∧
    exec (.plog h f) s = .next ((e.flyP 1 f.dst ((f.imm.extractLsb' 0 4).getLsbD
     (2 * (e.x.pReg f.sa.toNat).toNat + (e.x.pReg f.sb.toNat).toNat)) 0).setVerdict .committed)) ∧
   (f.imm.extractLsb' 4 7 ≠ 0 → ∃ m, exec (.plog h f) s =
    .next ((s.trapNow s.iss.core s.iss.ctx .illegalBundle 4 m).setVerdict (.trapped .illegalBundle 4)))) ∧
  ∀ a b : Bool, let tt (t : BitVec 4) : Bool := t.getLsbD (2 * a.toNat + b.toNat)
   tt 8 = (a && b) ∧ tt 14 = (a || b) ∧ tt 6 = (a ^^ b) ∧ tt 3 = !a

/-- Scalar floating point completes with the rounded result (R347, R348, R224, R225). -/
def Obligations.ScalarFpCompletes : Prop :=
  ((∀ r ∈ ([(.fadd, .fadd, fun m a b => fAdd fp32 m a b), (.fsub, .fsub, fun m a b => fAdd fp32 m a b.neg),
    (.fmul, .fmul, fun m a b => fMul fp32 m a b), (.fdiv, .fdiv, fun m a b => fDiv fp32 m a b)] :
    List ((Hd → RFmt → Instr) × Op × (Nat → FV → FV → Nat × Fl))),
   ∀ (h : Hd) (f : RFmt) (s : State) (a b : Word), Ready r.2.1 .sc (mkR r.2.1.code h f) h s →
   (s.env .sc h).srcS f.sa = .ok a → (s.env .sc h).srcS f.sb = .ok b →
   ∀ v, r.2.2 ((s.env .sc h).mode h.fmt.toNat) (unpack fp32 (a.toNat % 2 ^ 32)) (unpack fp32 (b.toNat % 2 ^ 32)) = v →
   exec (r.1 h f) s = .next ((s.env .sc h).fpEnds v.2 ((s.env .sc h).flyS 4 f.dst (BitVec.ofNat 64 v.1) v.2))) ∧
  (∀ (h : Hd) (f : RFmt) (s : State) (a b c : Word), Ready .fma .sc (mkR Op.fma.code h f) h s →
   (s.env .sc h).srcS f.sa = .ok a → (s.env .sc h).srcS f.sb = .ok b → (s.env .sc h).srcS f.sc = .ok c →
   ∀ v, fMulAdd fp32 ((s.env .sc h).mode h.fmt.toNat) false false (unpack fp32 (a.toNat % 2 ^ 32))
    (unpack fp32 (b.toNat % 2 ^ 32)) (unpack fp32 (c.toNat % 2 ^ 32)) = v →
   exec (.fma h f) s = .next ((s.env .sc h).fpEnds v.2 ((s.env .sc h).flyS 4 f.dst (BitVec.ofNat 64 v.1) v.2))) ∧
  (∀ r ∈ ([(.fmin, .fmin, fMinMax fp32 false), (.fmax, .fmax, fMinMax fp32 true)] :
    List ((Hd → RFmt → Instr) × Op × (Nat → Nat → Nat × Fl))),
   ∀ (h : Hd) (f : RFmt) (s : State) (a b : Word), Ready r.2.1 .sc (mkR r.2.1.code h f) h s →
   (s.env .sc h).srcS f.sa = .ok a → (s.env .sc h).srcS f.sb = .ok b →
   ∀ v, r.2.2 (a.toNat % 2 ^ 32) (b.toNat % 2 ^ 32) = v →
   exec (r.1 h f) s = .next ((s.env .sc h).fpEnds v.2 ((s.env .sc h).flyS 4 f.dst (BitVec.ofNat 64 v.1) v.2))) ∧
  (∀ (h : Hd) (f : RFmt) (s : State) (a b : Word), Ready .fcmp .sc (mkR Op.fcmp.code h f) h s →
   (s.env .sc h).srcS f.sa = .ok a → (s.env .sc h).srcS f.sb = .ok b →
   ∀ v, fCompare h.fmt.toNat (unpack fp32 (a.toNat % 2 ^ 32)) (unpack fp32 (b.toNat % 2 ^ 32)) = v →
   exec (.fcmp h f) s = .next ((s.env .sc h).fpEnds v.2 ((s.env .sc h).flyP 4 f.dst v.1 v.2))) ∧
  (∀ (h : Hd) (f : RFmt) (s : State) (a : Word), (s.env .sc h).srcS f.sa = .ok a →
   (∀ v, Ready .fsqrt .sc (mkR Op.fsqrt.code h f) h s →
    fSqrt fp32 ((s.env .sc h).mode h.fmt.toNat) (unpack fp32 (a.toNat % 2 ^ 32)) = v →
    exec (.fsqrt h f) s = .next ((s.env .sc h).fpEnds v.2 ((s.env .sc h).flyS 4 f.dst (BitVec.ofNat 64 v.1) v.2))) ∧
   (∀ v, Ready .fcvt .sc (mkR Op.fcvt.code h f) h s →
    fcvt h.fmt.toNat ((s.env .sc h).mode (f.imm.toNat % 8)) (f.imm.getLsbD 3) a = v →
    exec (.fcvt h f) s = .next ((s.env .sc h).fpEnds v.2 ((s.env .sc h).flyS 4 f.dst v.1 v.2))) ∧
   (Ready .fcls .sc (mkR Op.fcls.code h f) h s →
    exec (.fcls h f) s = .next (((s.env .sc h).flyS 4 f.dst (BitVec.ofNat 64 (2 ^ fClass fp32 (a.toNat % 2 ^ 32))) 0).setVerdict .committed)) ∧
   ∀ b, Ready .fsgn .sc (mkR Op.fsgn.code h f) h s → (s.env .sc h).srcS f.sb = .ok b →
    exec (.fsgn h f) s = .next (((s.env .sc h).flyS 4 f.dst (BitVec.setWidth 64 (BitVec.ofBool
     (if h.fmt = 0 then b.getLsbD 31 else if h.fmt = 1 then !b.getLsbD 31 else a.getLsbD 31 != b.getLsbD 31) ++
     a.extractLsb' 0 31)) 0).setVerdict .committed)))

/-- The derivation instructions change one field and carry the tag only where they may (R354, R355, R100, R98). -/
def Obligations.CapabilityDerives : Prop :=
  (((∀ r ∈ ([(.cbnd, .cbnd, fun c n => (c.off, ((c.off + n) % 2 ^ 40).toNat, c.rights, decide (0 ≤ c.off ∧ c.off + n ≤ c.len))),
    (.coff, .coff, fun c n => ((BitVec.ofInt 48 (c.off + n)).toInt, c.len, c.rights, true)),
    (.cseto, .cseto, fun c n => ((BitVec.ofInt 48 n).toInt, c.len, c.rights, true))] :
    List ((Hd → RFmt → Instr) × Op × (Cap → Int → Int × Nat × BitVec 8 × Bool))),
   ∀ (h : Hd) (f : RFmt) (s : State) (c : Cap) (b : Word), Ready r.2.1 .sc (mkR r.2.1.code h f) h s →
   (s.env .sc h).srcA f.sa = .ok c → (s.env .sc h).srcS f.sb = .ok b →
   ∃ c', exec (r.1 h f) s = .next (((s.env .sc h).flyA 1 f.dst c').setVerdict .committed) ∧
    c.DerivesTo c' (r.2.2 c b.toNat).1 (r.2.2 c b.toNat).2.1 (r.2.2 c b.toNat).2.2.1 (r.2.2 c b.toNat).2.2.2) ∧
  (∀ r ∈ ([(.cbndi, .cbndi, fun c f => (c.off, ((c.off + f.imm.toNat) % 2 ^ 40).toNat, c.rights, decide (0 ≤ c.off ∧ c.off + f.imm.toNat ≤ c.len))),
    (.crst, .crst, fun c f => (c.off, c.len, c.rights &&& f.imm.extractLsb' 0 8, true)),
    (.coffi, .coffi, fun c f => ((BitVec.ofInt 48 (c.off + f.imm.toInt)).toInt, c.len, c.rights, true))] :
    List ((Hd → IFmt → Instr) × Op × (Cap → IFmt → Int × Nat × BitVec 8 × Bool))),
   ∀ (h : Hd) (f : IFmt) (s : State) (c : Cap), Ready r.2.1 .sc (mkI r.2.1.code h f) h s →
   (s.env .sc h).srcA f.sa = .ok c →
   ∃ c', exec (r.1 h f) s = .next (((s.env .sc h).flyA 1 f.dst c').setVerdict .committed) ∧
    c.DerivesTo c' (r.2.2 c f).1 (r.2.2 c f).2.1 (r.2.2 c f).2.2.1 (r.2.2 c f).2.2.2) ∧
  (∀ (h : Hd) (f : RFmt) (s : State) (c : Cap), (s.env .sc h).srcA f.sa = .ok c →
   (Ready .cmov .sc (mkR Op.cmov.code h f) h s →
    exec (.cmov h f) s = .next (((s.env .sc h).flyA 1 f.dst c).setVerdict .committed)) ∧
   (Ready .cclr .sc (mkR Op.cclr.code h f) h s →
    exec (.cclr h f) s = .next (((s.env .sc h).flyA 1 f.dst ⟨c.bits, false⟩).setVerdict .committed))) ∧
  ∀ (h : Hd) (f : RFmt) (s : State) (lo hi : Word), Ready .cclrMk .sc (mkR Op.cclrMk.code h f) h s →
   (s.env .sc h).srcS f.sb = .ok lo → (s.env .sc h).srcS f.sc = .ok hi →
   exec (.cclrMk h f) s = .next (((s.env .sc h).flyA 1 f.dst ⟨hi ++ lo, false⟩).setVerdict .committed))
   ∧ (∀ (c c' : Cap) (n : Nat) (off : Int) (r : BitVec 8),
   (c' = c.bound n ∨ c' = c.derive c.off c.len (c.rights &&& r) true ∨ c' = c.derive off c.len c.rights true) →
   c'.valid = true → c.valid = true ∧ c'.obj = c.obj ∧ c'.rights &&& ~~~c.rights = 0 ∧ c'.len ≤ c.len))
   ∧ ((∀ r ∈ ([(0, fun c => BitVec.ofNat 64 c.obj), (1, fun c => BitVec.ofInt 64 c.off), (2, fun c => BitVec.ofNat 64 c.len),
    (3, fun c => c.rights.setWidth 64), (4, fun c => (BitVec.ofBool c.tag).setWidth 64), (5, fun c => c.bits.extractLsb' 0 64),
    (6, fun c => c.bits.extractLsb' 64 64), (7, fun c => (BitVec.ofBool c.valid).setWidth 64)] : List (Nat × (Cap → Word))),
   ∀ (h : Hd) (f : RFmt) (s : State) (c : Cap), h.fmt.toNat = r.1 → Ready .cget .sc (mkR Op.cget.code h f) h s →
   (s.env .sc h).srcA f.sa = .ok c →
   exec (.cget h f) s = .next (((s.env .sc h).flyS 1 f.dst (r.2 c) 0).setVerdict .committed)) ∧
  (∀ (h : Hd) (f : RFmt) (s : State) (a b : Cap), Ready .csub .sc (mkR Op.csub.code h f) h s →
   (s.env .sc h).srcA f.sa = .ok a → (s.env .sc h).srcA f.sb = .ok b →
   exec (.csub h f) s = .next (((s.env .sc h).flyS 1 f.dst (BitVec.ofInt 64 (a.off - b.off)) 0).setVerdict .committed)) ∧
  ∀ (h : Hd) (f : RFmt) (s : State) (c : Cap) (n : Word), Ready .cchk .sc (mkR Op.cchk.code h f) h s →
   (s.env .sc h).srcA f.sa = .ok c → (s.env .sc h).srcS f.sb = .ok n →
   (c.valid = true → f.imm.extractLsb' 0 8 &&& ~~~c.rights = 0 → (n ≠ 0 → 0 ≤ c.off ∧ c.off + n.toNat ≤ c.len) →
    exec (.cchk h f) s = .next (s.setVerdict .committed)) ∧
   (c.valid = false → ∃ v, exec (.cchk h f) s =
    .next ((s.trapNow s.iss.core s.iss.ctx .capTag v (slotMask [.sc])).setVerdict (.trapped .capTag v))) ∧
   (c.valid = true → f.imm.extractLsb' 0 8 &&& ~~~c.rights ≠ 0 → ∃ v, exec (.cchk h f) s =
    .next ((s.trapNow s.iss.core s.iss.ctx .capRights v (slotMask [.sc])).setVerdict (.trapped .capRights v))) ∧
   (c.valid = true → f.imm.extractLsb' 0 8 &&& ~~~c.rights = 0 → n ≠ 0 → (c.off < 0 ∨ (c.len : Int) < c.off + n.toNat) →
    ∃ v, exec (.cchk h f) s =
    .next ((s.trapNow s.iss.core s.iss.ctx .capBounds v (slotMask [.sc])).setVerdict (.trapped .capBounds v))))

/-- Branches, jumps and the hardware loop (R349, R350, R351, R352). -/
def Obligations.ControlTransfers : Prop :=
  (∀ (h : Hd) (s : State), (s.env .sc h).x.tmpl = none →
  (∀ (f : BFmt), Ready .br .sc (mkB Op.br.code h f) h s →
   exec (.br h f) s = .next ((s.transfer { s.iss.pc with idx := f.tgt }).setVerdict .committed)) ∧
  (∀ (f : BFmt), Ready .call .sc (mkB Op.call.code h f) h s →
   exec (.call h f) s = .next ((((s.env .sc h).flyS 1 f.dst
    ((BitVec.ofBool s.iss.pc.edge ++ (s.iss.pc.idx + 1)).setWidth 64) 0).transfer { s.iss.pc with idx := f.tgt }).setVerdict .committed)) ∧
  (∀ (f : BFmt), Ready .edge .sc (mkB Op.edge.code h f) h s →
   exec (.edge h f) s = .next ((s.transfer ⟨!s.iss.pc.edge, f.tgt⟩).setVerdict .committed)) ∧
  (∀ (f : RFmt) (a : Word), Ready .jr .sc (mkR Op.jr.code h f) h s → (s.env .sc h).srcS f.sa = .ok a →
   exec (.jr h f) s = .next ((s.transfer { s.iss.pc with idx := a.extractLsb' 0 10 }).setVerdict .committed)) ∧
  (∀ (f : RFmt) (b : Word), Ready .bkj .sc (mkR Op.bkj.code h f) h s → (s.env .sc h).srcS f.sa = .ok b →
   exec (.bkj h f) s = .next ((if b.toNat ≤ fld (s.env .sc h).x.sr.dispt 20 3 then
    s.transfer ⟨s.iss.pc.edge, BitVec.ofNat 10
     (fld (s.env .sc h).x.sr.dispt 0 10 + b.toNat * fld (s.env .sc h).x.sr.dispt 10 10)⟩ else s).setVerdict .committed)) ∧
  ∀ (f : BFmt) (a : Word), Ready .loop .sc (mkB Op.loop.code h f) h s → (s.env .sc h).srcS f.sa = .ok a →
   (a.setWidth 32 = (0 : BitVec 32) →
    exec (.loop h f) s = .next ((s.transfer { s.iss.pc with idx := f.tgt + 1 }).setVerdict .committed)) ∧
   (a.setWidth 32 ≠ (0 : BitVec 32) →
    exec (.loop h f) s = .next ((((s.modCtx s.iss.core s.iss.ctx (fun x => x.setLoop (mkLoop (a.setWidth 32) true (s.env .sc h).x.sr.xlvl
     s.iss.pc.edge f.tgt (s.iss.pc.idx + 1)))).asLoop).transfer s.iss.pc.succ).setVerdict .committed)))
   ∧ ((∀ (n : BitVec 32) (lvl : BitVec 2) (p : Pc) (st : BitVec 10), 1 < n.toNat →
   loopStep (mkLoop n true lvl p.edge p.idx st) lvl.toNat p =
    some (mkLoop (n - 1) true lvl p.edge p.idx st, { p with idx := st })) ∧
  (∀ (lvl : BitVec 2) (p : Pc) (st : BitVec 10),
   loopStep (mkLoop 1 true lvl p.edge p.idx st) lvl.toNat p =
    some (mkLoop 0 false lvl p.edge p.idx st, { p with idx := p.idx + 1 })) ∧
  ∀ (n : BitVec 32) (act : Bool) (lvl : BitVec 2) (e : Bool) (last st : BitVec 10) (l : Nat) (p : Pc),
   (act = false ∨ l ≠ lvl.toNat ∨ e ≠ p.edge ∨ last ≠ p.idx) → loopStep (mkLoop n act lvl e last st) l p = none)

/-- TRAP, TRET, EXIT and NOP complete with their own effect (R353, R292, R307, R290). -/
def Obligations.TrapAndReturn : Prop :=
  (∀ (h : Hd) (f : RFmt) (s : State), (s.env .sc h).x.tmpl = none →
  (Ready .trap .sc (mkR Op.trap.code h f) h s →
   exec (.trap h f) s = .next ((s.modCtx s.iss.core s.iss.ctx (fun x => x.pendCause .trapInstruction (f.imm.setWidth 64))).setVerdict .committed)) ∧
  (Ready .tret .sc (mkR Op.tret.code h f) h s → (s.env .sc h).x.quietBefore = true → (s.env .sc h).x.sr.xlvl ≠ 0 →
   exec (.tret h f) s = .next ((s.trapReturn s.iss.core s.iss.ctx).asReturn.setVerdict .committed)) ∧
  (Ready .tret .sc (mkR Op.tret.code h f) h s → (s.env .sc h).x.quietBefore = true → (s.env .sc h).x.sr.xlvl = 0 → h.fmt = 0 →
   exec (.tret h f) s = .next ((s.trapNow s.iss.core s.iss.ctx .illegalOpcode 0x3A (slotMask [.sc])).setVerdict (.trapped .illegalOpcode 0x3A))) ∧
  (Ready .exit .sc (mkR Op.exit.code h f) h s →
   exec (.exit h f) s = .next ((s.exitCtx s.iss.core s.iss.ctx).asExit.setVerdict .committed)) ∧
  ∀ k, Ready .nop k 0 (hdOf 0) s → exec (.nop k) s = .next (s.setVerdict .committed))
   ∧ ((∀ (s : State) (ci k n : Nat), n = (s.ctx ci k).sr.xlvl.toNat → 1 ≤ n → n ≤ 2 →
   let x := s.ctx ci k
   let y := (s.trapReturn ci k).ctx ci k
   y.pc = pcOf (x.sr.bank n).pc ∧ y.aReg 31 = (x.sr.bank n).as ∧ y.sr.xlvl.toNat = n - 1 ∧
    y.resnap = x.resnap ++ (if n = 1 then x.snap1 else x.snap2) ∧ y.rerec = x.rerec ++ (if n = 1 then x.rec1 else x.rec2) ∧
    (∀ r, r ≠ 31 → y.aReg r = x.aReg r) ∧ y.s = x.s ∧ y.v = x.v ∧ y.x = x.x ∧ y.t = x.t ∧ y.d = x.d ∧ y.p = x.p ∧ y.m = x.m ∧
    y.sr = { x.sr with xlvl := y.sr.xlvl } ∧ (s.trapReturn ci k).mem = s.mem ∧ ∀ j, j ≠ ci → (s.trapReturn ci k).core j = s.core j) ∧
  ∀ (t : State) (ci k : Nat) (c : Cause) (v : Word) (m : BitVec 8),
   let s := t.land ci
   c ≠ .translation → (s.ctx ci k).sr.xlvl.toNat < 2 →
   ((s.ctx ci k).sr.bank ((s.ctx ci k).sr.xlvl.toNat + 1)).vec.getLsbD 11 = true →
   let y := ((t.takeTrap ci k c v m []).trapReturn ci k).ctx ci k
   y.pc = (s.ctx ci k).pc ∧ y.aReg 31 = (s.ctx ci k).aReg 31 ∧ y.sr.xlvl = (s.ctx ci k).sr.xlvl)

/-- Dimension variables and system registers move (R356, R357, R358, R359, R291). -/
def Obligations.DimensionVariables : Prop :=
  (∀ (h : Hd) (s : State),
  (∀ (f : RFmt) (a : Word), Ready .dset .sc (mkR Op.dset.code h f) h s → (s.env .sc h).srcS f.sa = .ok a →
   (1 ≤ a.toNat ∧ a.toNat ≤ 0x7FFFFF → exec (.dset h f) s = .next (((s.env .sc h).flyTo 1 .d f.dst
    (BitVec.ofNat 1024 (0x800000 + a.toNat)) 0).setVerdict .committed)) ∧
   (¬ (1 ≤ a.toNat ∧ a.toNat ≤ 0x7FFFFF) → ∃ v, exec (.dset h f) s =
    .next ((s.trapNow s.iss.core s.iss.ctx .shapeFault v (slotMask [.sc])).setVerdict (.trapped .shapeFault v)))) ∧
  (∀ (f : IFmt), Ready .dseti .sc (mkI Op.dseti.code h f) h s →
   (1 ≤ f.imm.toNat ∧ f.imm.toNat ≤ 0x7FFFFF → exec (.dseti h f) s = .next (((s.env .sc h).flyTo 1 .d f.dst
    (BitVec.ofNat 1024 (0x800000 + f.imm.toNat)) 0).setVerdict .committed)) ∧
   (¬ (1 ≤ f.imm.toNat ∧ f.imm.toNat ≤ 0x7FFFFF) → ∃ v, exec (.dseti h f) s =
    .next ((s.trapNow s.iss.core s.iss.ctx .shapeFault v (slotMask [.sc])).setVerdict (.trapped .shapeFault v)))) ∧
  (∀ (f : RFmt), Ready .dget .sc (mkR Op.dget.code h f) h s →
   exec (.dget h f) s = .next (((s.env .sc h).flyS 1 f.dst (((s.env .sc h).x.dReg f.sa.toNat).setWidth 64) 0).setVerdict .committed)) ∧
  ∀ (f : RFmt), Ready .dunb .sc (mkR Op.dunb.code h f) h s →
   exec (.dunb h f) s = .next (((s.env .sc h).flyTo 1 .d f.dst 0 0).setVerdict .committed))
   ∧ ((∀ r ∈ ([(0x000, fun _ x _ _ => x.sr.fpcsr), (0x001, fun _ x _ _ => x.sr.arithx), (0x002, fun s _ _ _ => BitVec.ofNat 64 s.tick),
    (0x003, fun s _ ci _ => s.speedWord ci), (0x004, fun _ _ _ k => BitVec.ofNat 64 k), (0x005, fun _ _ ci _ => BitVec.ofNat 64 ci),
    (0x006, fun _ _ ci _ => BitVec.ofNat 64 (ci / 16 % 16)), (0x007, fun _ _ ci _ => BitVec.ofNat 64 (ci / 256)),
    (0x008, fun s _ _ _ => s.modnum.setWidth 64), (0x009, fun _ x _ _ => x.sr.dmr), (0x00A, fun _ x _ _ => x.sr.dfbase),
    (0x00B, fun _ x _ _ => x.sr.dflen), (0x00C, fun _ x _ _ => x.sr.slr), (0x00D, fun _ x _ _ => x.sr.rdepth), (0x00E, fun _ x _ _ => x.sr.mcap),
    (0x00F, fun _ x _ _ => x.sr.dispt), (0x010, fun _ x _ _ => x.sr.loopst), (0x011, fun _ x _ _ => x.sr.cestat), (0x012, fun _ x _ _ => x.sr.mestat),
    (0x020, fun _ x _ _ => x.sr.xlvl.setWidth 64), (0x021, fun _ x _ _ => x.sr.x1.cause), (0x022, fun _ x _ _ => x.sr.x2.cause),
    (0x023, fun _ x _ _ => x.sr.x1.pc), (0x024, fun _ x _ _ => x.sr.x2.pc), (0x025, fun _ x _ _ => x.sr.x1.val), (0x026, fun _ x _ _ => x.sr.x2.val),
    (0x027, fun _ x _ _ => x.sr.x1.mask), (0x028, fun _ x _ _ => x.sr.x2.mask), (0x029, fun _ x _ _ => x.sr.x1.vec), (0x02A, fun _ x _ _ => x.sr.x2.vec),
    (0x02B, fun _ x _ _ => x.sr.lastcut), (0x013, fun s _ ci k => (s.seen ci k .sc).lbst)] ++
    (List.range 8).map (fun i => (0x018 + i, fun (s : State) (_ : Ctx) (ci k : Nat) => ((s.seen ci k .sc).rink i).word)) : List (Nat × (State → Ctx → Nat → Nat → Word))),
   ∀ (h : Hd) (f : IFmt) (s : State), Ready .mfsr .sc (mkI Op.mfsr.code h f) h s → f.imm.toNat % 2 ^ 12 = r.1 →
   exec (.mfsr h f) s = .next (((s.env .sc h).flyS 1 f.dst (r.2 s (s.env .sc h).x s.iss.core s.iss.ctx) 0).setVerdict .committed)) ∧
  (∀ r ∈ ([(0x000, 0x61F7F), (0x001, 0x3), (0x009, 0xFF7777), (0x00C, 0xFFFFFFFF), (0x00E, 0xFFFF), (0x00F, 0x7FFFFF), (0x010, 0xFFFFFFFF00FFFFFF),
    (0x021, 0xFF), (0x022, 0xFF), (0x023, 0x7FF), (0x024, 0x7FF), (0x025, 0xFFFFFFFFFFFFFFFF), (0x026, 0xFFFFFFFFFFFFFFFF), (0x027, 0xFF),
    (0x028, 0xFF), (0x029, 0xFFF), (0x02A, 0xFFF)] : List (Nat × Word)),
   ∀ (h : Hd) (f : IFmt) (s : State) (a : Word), Ready .mtsr .sc (mkI Op.mtsr.code h f) h s → (s.env .sc h).srcS f.sa = .ok a →
   f.imm.toNat % 2 ^ 12 = r.1 →
   exec (.mtsr h f) s = .next (((s.env .sc h).effect 1 (.sys r.1 (a &&& r.2))).setVerdict .committed)) ∧
  (∀ n ∈ [0x002, 0x003, 0x004, 0x005, 0x006, 0x007, 0x008, 0x00A, 0x00B, 0x011, 0x012, 0x013, 0x018, 0x019, 0x01A, 0x01B, 0x01C, 0x01D, 0x01E,
    0x01F, 0x020, 0x02B],
   ∀ (h : Hd) (f : IFmt) (s : State) (a : Word), Ready .mtsr .sc (mkI Op.mtsr.code h f) h s → (s.env .sc h).srcS f.sa = .ok a →
   f.imm.toNat % 2 ^ 12 = n → exec (.mtsr h f) s = .next (s.setVerdict .committed)) ∧
  (∀ (h : Hd) (f : IFmt) (s : State) (a : Word), Ready .mtsr .sc (mkI Op.mtsr.code h f) h s → (s.env .sc h).srcS f.sa = .ok a →
   f.imm.toNat % 2 ^ 12 = 0x00D →
   exec (.mtsr h f) s = .next ((if 1 ≤ a.toNat % 16 ∧ a.toNat % 16 ≤ 8 then (s.env .sc h).effect 1 (.sys 0x00D (a &&& 0xF)) else s).setVerdict .committed)) ∧
  (∀ r ∈ ([(0x030, fun x => x.sr.xsave), (0x031, fun x => x.sr.x1.as), (0x032, fun x => x.sr.x2.as)] : List (Nat × (Ctx → Cap))),
   ∀ (h : Hd) (f : IFmt) (s : State), f.imm.toNat % 2 ^ 12 = r.1 →
   (Ready .mfsrc .sc (mkI Op.mfsrc.code h f) h s →
    exec (.mfsrc h f) s = .next (((s.env .sc h).flyA 1 f.dst (r.2 (s.env .sc h).x)).setVerdict .committed)) ∧
   ∀ c, Ready .mtsrc .sc (mkI Op.mtsrc.code h f) h s → (s.env .sc h).srcA f.sa = .ok c →
    exec (.mtsrc h f) s = .next (((s.env .sc h).effect 1 (.csys r.1 c)).setVerdict .committed)))

/-- The integer vector instructions compute lane by lane (R365, R361, R362, R364). -/
def Obligations.VectorInteger : Prop :=
  ((∀ r ∈ ([(.vadd, .vadd, 2, fun _ _ x y => x + y),
    (.vsub, .vsub, 2, fun _ _ x y => x - y),
    (.vmul, .vmul, 4, fun _ _ x y => x * y),
    (.vmulh, .vmulh, 4, fun n sg x y => if sg then (x.signExtend (2 * n) * y.signExtend (2 * n)).extractLsb' n n else (x.setWidth (2 * n) * y.setWidth (2 * n)).extractLsb' n n),
    (.vmin, .vmin, 2, fun _ sg x y => if (if sg then x.sle y else x.ule y) then x else y),
    (.vmax, .vmax, 2, fun _ sg x y => if (if sg then x.sle y else x.ule y) then y else x),
    (.vand, .vand, 2, fun _ _ x y => x &&& y),
    (.vor, .vor, 2, fun _ _ x y => x ||| y),
    (.vxor, .vxor, 2, fun _ _ x y => x ^^^ y),
    (.vandn, .vandn, 2, fun _ _ x y => x &&& ~~~y),
    (.vshl, .vshl, 2, fun n _ x y => x <<< (y.toNat % n)),
    (.vshr, .vshr, 2, fun n _ x y => x >>> (y.toNat % n)),
    (.vsra, .vsra, 2, fun n _ x y => x.sshiftRight (y.toNat % n))] :
    List ((VSlot → Hd → RFmt → Instr) × Op × Nat × ((n : Nat) → Bool → BitVec n → BitVec n → BitVec n))),
   ∀ (u : VSlot) (h : Hd) (f : RFmt) (s : State) (a b : Row), Ready r.2.1 u.slot (mkR r.2.1.code h f) h s →
   (s.env u.slot h).srcV f.sa = .ok a → (s.env u.slot h).srcV f.sb = .ok b →
   exec (r.1 u h f) s = .next (((s.env u.slot h).flyLanes r.2.2.1 f.dst ((s.env u.slot h).vmask f.imm) (laneW h.fmt.toNat) (fun i =>
    ((r.2.2.2 (laneW h.fmt.toNat) (laneSigned h.fmt.toNat) (BitVec.ofNat _ (lane a (laneW h.fmt.toNat) i))
     (BitVec.ofNat _ (lane b (laneW h.fmt.toNat) i))).toNat, 0))).setVerdict .committed)) ∧
  (∀ r ∈ ([(.vabs, .vabs, fun _ _ x => if x.msb then -x else x),
    (.vshli, .vshli, fun n k x => x <<< (k % 32 % n)),
    (.vshri, .vshri, fun n k x => x >>> (k % 32 % n)),
    (.vsrai, .vsrai, fun n k x => x.sshiftRight (k % 32 % n)),
    (.vclz, .vclz, fun n _ x => BitVec.ofNat n (n - if x = 0 then 0 else Nat.log2 x.toNat + 1)),
    (.vpopc, .vpopc, fun n _ x => BitVec.ofNat n ((List.range n).filter (fun i => x.getLsbD i)).length)] :
    List ((VSlot → Hd → RFmt → Instr) × Op × ((n : Nat) → Nat → BitVec n → BitVec n))),
   ∀ (u : VSlot) (h : Hd) (f : RFmt) (s : State) (a : Row), Ready r.2.1 u.slot (mkR r.2.1.code h f) h s →
   (s.env u.slot h).srcV f.sa = .ok a →
   exec (r.1 u h f) s = .next (((s.env u.slot h).flyLanes 2 f.dst ((s.env u.slot h).vmask f.imm) (laneW h.fmt.toNat) (fun i =>
    ((r.2.2 (laneW h.fmt.toNat) f.imm.toNat (BitVec.ofNat _ (lane a (laneW h.fmt.toNat) i))).toNat, 0))).setVerdict .committed)) ∧
  (∀ (u : VSlot) (h : Hd) (f : IFmt) (s : State) (a : Row), Ready .vaddi u.slot (mkI Op.vaddi.code h f) h s → (s.env u.slot h).srcV f.sa = .ok a →
   exec (.vaddi u h f) s = .next (((s.env u.slot h).flyLanes 2 f.dst allBytes (laneW h.fmt.toNat) (fun i =>
    ((BitVec.ofNat (laneW h.fmt.toNat) (lane a (laneW h.fmt.toNat) i) + (f.imm.signExtend 64).setWidth _).toNat, 0))).setVerdict .committed)) ∧
  ∀ (u : VSlot) (h : Hd) (f : IFmt) (s : State), Ready .vli u.slot (mkI Op.vli.code h f) h s →
   exec (.vli u h f) s = .next (((s.env u.slot h).flyLanes 2 f.dst allBytes (laneW h.fmt.toNat) (fun _ =>
    (((f.imm.signExtend 64).setWidth (laneW h.fmt.toNat)).toNat, 0))).setVerdict .committed))
   ∧ (∀ r ∈ ([(.vadds, .vadds, fun x y => x + y), (.vsubs, .vsubs, fun x y => x - y)] :
    List ((VSlot → Hd → RFmt → Instr) × Op × (Int → Int → Int))),
   ∀ (u : VSlot) (h : Hd) (f : RFmt) (s : State) (a b : Row), Ready r.2.1 u.slot (mkR r.2.1.code h f) h s →
   (s.env u.slot h).srcV f.sa = .ok a → (s.env u.slot h).srcV f.sb = .ok b →
   let w := laneW h.fmt.toNat
   let sg := laneSigned h.fmt.toNat
   let v (i : Nat) : Int := r.2.2 (laneVal w sg (lane a w i)) (laneVal w sg (lane b w i))
   exec (r.1 u h f) s = .next (((s.env u.slot h).flyLanes 2 f.dst ((s.env u.slot h).vmask f.imm) w (fun i =>
    ((BitVec.ofInt w (max (rangeOf sg w).1 (min (rangeOf sg w).2 (v i)))).toNat,
     if v i < (rangeOf sg w).1 ∨ (rangeOf sg w).2 < v i then Fl.satf else 0))).setVerdict .committed))

/-- The floating-point vector instructions complete lane by lane (R366, R367, R364). The model's own choice: the
lanes of VEXP2, VLOG2, VSIN, VCOS, VTANH, VSIG and VERF are its trans, whose 800-bit evaluation is taken, not
proved, to be the correctly rounded result that R367 asks for (log 43). -/
def Obligations.VectorFloatingPoint : Prop :=
  (∀ r ∈ ([(.vfadd, .vfadd, 4, fun g m a b => fAdd g m (unpack g a) (unpack g b)),
    (.vfsub, .vfsub, 4, fun g m a b => fAdd g m (unpack g a) (unpack g b).neg),
    (.vfmul, .vfmul, 4, fun g m a b => fMul g m (unpack g a) (unpack g b)),
    (.vfdiv, .vfdiv, 12, fun g m a b => fDiv g m (unpack g a) (unpack g b)),
    (.vfmin, .vfmin, 4, fun g _ a b => fMinMax g false a b),
    (.vfmax, .vfmax, 4, fun g _ a b => fMinMax g true a b)] :
    List ((VSlot → Hd → RFmt → Instr) × Op × Nat × (FFmt → Nat → Nat → Nat → Nat × Fl))),
   ∀ (u : VSlot) (h : Hd) (f : RFmt) (s : State) (a b : Row) (op : Nat → Nat × Fl), Ready r.2.1 u.slot (mkR r.2.1.code h f) h s →
   (s.env u.slot h).srcV f.sa = .ok a → (s.env u.slot h).srcV f.sb = .ok b →
   op = (fun i => r.2.2.2 (vfmt h.fmt.toNat) ((s.env u.slot h).vmode f.imm) (lane a (vfmt h.fmt.toNat).w i) (lane b (vfmt h.fmt.toNat).w i)) →
   exec (r.1 u h f) s = .next ((s.env u.slot h).fpEnds (laneFlags ((s.env u.slot h).vmask f.imm) (vfmt h.fmt.toNat).w op) ((s.env u.slot h).flyLanes r.2.2.1 f.dst ((s.env u.slot h).vmask f.imm) (vfmt h.fmt.toNat).w op))) ∧
  (∀ r ∈ ([(.vfabs, .vfabs, 4, fun g _ a => (a % 2 ^ (g.w - 1), 0)),
    (.vfneg, .vfneg, 4, fun g _ a => (a ^^^ 2 ^ (g.w - 1), 0)),
    (.vfsqrt, .vfsqrt, 12, fun g m a => fSqrt g m (unpack g a)),
    (.vfrcp, .vfrcp, 12, fun g m a => fDiv g m (.fin false 1 0) (unpack g a)),
    (.vexp2, .vexp2, 6, fun g m a => trans .exp2 g m (unpack g a)),
    (.vlog2, .vlog2, 6, fun g m a => trans .log2 g m (unpack g a)),
    (.vsin, .vsin, 6, fun g m a => trans .sin g m (unpack g a)),
    (.vcos, .vcos, 6, fun g m a => trans .cos g m (unpack g a)),
    (.vtanh, .vtanh, 6, fun g m a => trans .tanh g m (unpack g a)),
    (.vrsq, .vrsq, 6, fun g m a => trans .rsq g m (unpack g a)),
    (.vsig, .vsig, 6, fun g m a => trans .sig g m (unpack g a)),
    (.verf, .verf, 6, fun g m a => trans .erf g m (unpack g a))] :
    List ((VSlot → Hd → RFmt → Instr) × Op × Nat × (FFmt → Nat → Nat → Nat × Fl))),
   ∀ (u : VSlot) (h : Hd) (f : RFmt) (s : State) (a : Row) (op : Nat → Nat × Fl), Ready r.2.1 u.slot (mkR r.2.1.code h f) h s →
   (s.env u.slot h).srcV f.sa = .ok a →
   op = (fun i => r.2.2.2 (vfmt h.fmt.toNat) ((s.env u.slot h).vmode f.imm) (lane a (vfmt h.fmt.toNat).w i)) →
   exec (r.1 u h f) s = .next ((s.env u.slot h).fpEnds (laneFlags ((s.env u.slot h).vmask f.imm) (vfmt h.fmt.toNat).w op) ((s.env u.slot h).flyLanes r.2.2.1 f.dst ((s.env u.slot h).vmask f.imm) (vfmt h.fmt.toNat).w op))) ∧
  ∀ r ∈ ([(.vfma, .vfma, false, false),
    (.vfms, .vfms, false, true),
    (.vfnma, .vfnma, true, false)] : List ((VSlot → Hd → RFmt → Instr) × Op × Bool × Bool)),
   ∀ (u : VSlot) (h : Hd) (f : RFmt) (s : State) (a b c : Row) (op : Nat → Nat × Fl), Ready r.2.1 u.slot (mkR r.2.1.code h f) h s →
   (s.env u.slot h).srcV f.sa = .ok a → (s.env u.slot h).srcV f.sb = .ok b → (s.env u.slot h).srcV f.sc = .ok c →
   op = (fun i => fMulAdd (vfmt h.fmt.toNat) ((s.env u.slot h).vmode f.imm) r.2.2.1 r.2.2.2 (unpack (vfmt h.fmt.toNat) (lane a (vfmt h.fmt.toNat).w i))
    (unpack (vfmt h.fmt.toNat) (lane b (vfmt h.fmt.toNat).w i)) (unpack (vfmt h.fmt.toNat) (lane c (vfmt h.fmt.toNat).w i))) →
   exec (r.1 u h f) s = .next ((s.env u.slot h).fpEnds (laneFlags ((s.env u.slot h).vmask f.imm) (vfmt h.fmt.toNat).w op) ((s.env u.slot h).flyLanes 4 f.dst ((s.env u.slot h).vmask f.imm) (vfmt h.fmt.toNat).w op))

/-- Masks and reductions (R368, R375, R376). -/
def Obligations.MaskInstructions : Prop :=
  ((∀ (u : VSlot) (h : Hd) (f : RFmt) (s : State) (a b : Row), (s.env u.slot h).srcV f.sa = .ok a → (s.env u.slot h).srcV f.sb = .ok b →
   let e := s.env u.slot h
   (Ready .vcmp u.slot (mkR Op.vcmp.code h f) h s →
    ∃ m, exec (.vcmp u h f) s = .next ((e.flyM 2 f.dst m 0).setVerdict .committed) ∧
     ∀ j, j < 128 → m.getLsbD j = (laneBit (e.vmask f.imm) (laneW h.fmt.toNat) (j / (laneW h.fmt.toNat / 8)) &&
      vcond (f.imm.toNat % 8) (laneVal (laneW h.fmt.toNat) (laneSigned h.fmt.toNat) (lane a (laneW h.fmt.toNat) (j / (laneW h.fmt.toNat / 8))))
       (laneVal (laneW h.fmt.toNat) (laneSigned h.fmt.toNat) (lane b (laneW h.fmt.toNat) (j / (laneW h.fmt.toNat / 8)))))) ∧
   (Ready .vsel u.slot (mkR Op.vsel.code h f) h s →
    exec (.vsel u h f) s = .next ((e.flyV 2 f.dst (mergeRow (e.x.mReg f.sc.toNat) b a) allBytes 0).setVerdict .committed)) ∧
   ∀ (cmp : Nat → Bool × Fl) (fl : Fl), cmp = (fun i => fCompare (f.imm.toNat % 8) (unpack (vfmt h.fmt.toNat) (lane a (vfmt h.fmt.toNat).w i))
     (unpack (vfmt h.fmt.toNat) (lane b (vfmt h.fmt.toNat).w i))) →
    fl = ((List.range (1024 / (vfmt h.fmt.toNat).w)).filter (laneBit (e.vmask f.imm) (vfmt h.fmt.toNat).w)).foldl (fun fl i => fl ||| (cmp i).2) 0 →
    Ready .vfcmp u.slot (mkR Op.vfcmp.code h f) h s →
    ∃ m, exec (.vfcmp u h f) s = .next (e.fpEnds fl (e.flyM 4 f.dst m fl)) ∧
     ∀ j, j < 128 → m.getLsbD j = (laneBit (e.vmask f.imm) (vfmt h.fmt.toNat).w (j / ((vfmt h.fmt.toNat).w / 8)) && (cmp (j / ((vfmt h.fmt.toNat).w / 8))).1)) ∧
  ∀ (u : VSlot) (h : Hd) (f : RFmt) (s : State),
   let e := s.env u.slot h
   (Ready .vmlog u.slot (mkR Op.vmlog.code h f) h s → ∃ m, exec (.vmlog u h f) s = .next ((e.flyM 2 f.dst m 0).setVerdict .committed) ∧
    ∀ j, j < 128 → m.getLsbD j = f.imm.getLsbD (2 * ((e.x.mReg f.sa.toNat).getLsbD j).toNat + ((e.x.mReg f.sb.toNat).getLsbD j).toNat)) ∧
   (Ready .vmtv u.slot (mkR Op.vmtv.code h f) h s →
    exec (.vmtv u h f) s = .next ((e.flyV 2 f.dst (byteMask (e.x.mReg f.sa.toNat)) allBytes 0).setVerdict .committed)) ∧
   (∀ a, e.srcV f.sa = .ok a → Ready .vvtm u.slot (mkR Op.vvtm.code h f) h s → ∃ m,
    exec (.vvtm u h f) s = .next ((e.flyM 2 f.dst m 0).setVerdict .committed) ∧ ∀ j, j < 128 → m.getLsbD j = a.getLsbD (8 * j + 7)) ∧
   (Ready .viota u.slot (mkR Op.viota.code h f) h s → ∃ v, exec (.viota u h f) s = .next ((e.flyV 2 f.dst v allBytes 0).setVerdict .committed) ∧
    ∀ i, i < 1024 / laneW h.fmt.toNat →
     lane v (laneW h.fmt.toNat) i = ((List.range i).filter (laneBit (e.x.mReg f.sa.toNat) (laneW h.fmt.toNat))).length))
   ∧ (∀ (u : VSlot) (h : Hd) (f : RFmt) (s : State) (a : Row), (s.env u.slot h).srcV f.sa = .ok a →
   let e := s.env u.slot h
   let w := laneW h.fmt.toNat
   let sg := laneSigned h.fmt.toNat
   let g := vfmt h.fmt.toNat
   let ints := (activeLanes (e.vmask f.imm) w).map (fun i => laneVal w sg (lane a w i))
   let fps := (activeLanes (e.vmask f.imm) g.w).map (lane a g.w)
   (Ready .vradd u.slot (mkR Op.vradd.code h f) h s →
    exec (.vradd u h f) s = .next ((e.flyS 6 f.dst (BitVec.ofInt 64 ints.sum) 0).setVerdict .committed)) ∧
   (Ready .vrmax u.slot (mkR Op.vrmax.code h f) h s →
    exec (.vrmax u h f) s = .next ((e.flyS 6 f.dst (BitVec.ofInt 64 (ints.foldl max (rangeOf sg w).1)) 0).setVerdict .committed)) ∧
   (Ready .vrmin u.slot (mkR Op.vrmin.code h f) h s →
    exec (.vrmin u h f) s = .next ((e.flyS 6 f.dst (BitVec.ofInt 64 (ints.foldl min (rangeOf sg w).2)) 0).setVerdict .committed)) ∧
   (∀ v, v = finish fp32 (e.vmode f.imm) false (sumAll (fps.map (unpack g))) → Ready .vrfadd u.slot (mkR Op.vrfadd.code h f) h s →
    exec (.vrfadd u h f) s = .next (e.fpEnds v.2 (e.flyS 6 f.dst (BitVec.ofNat 64 v.1) v.2))) ∧
   (∀ r ∈ ([(.vrfmax, .vrfmax, true), (.vrfmin, .vrfmin, false)] : List ((VSlot → Hd → RFmt → Instr) × Op × Bool)),
    ∀ v, v = fps.foldl (fun (acc : Nat × Fl) n => ((fMinMax g r.2.2 acc.1 n).1, acc.2 ||| (fMinMax g r.2.2 acc.1 n).2)) (g.infBits r.2.2, 0) →
    Ready r.2.1 u.slot (mkR r.2.1.code h f) h s →
    exec (r.1 u h f) s = .next (e.fpEnds v.2 (e.flyS 6 f.dst (BitVec.ofNat 64 (roundTo fp32 0 false (unpack g v.1)).1) v.2))) ∧
   (Ready .vscan u.slot (mkR Op.vscan.code h f) h s →
    exec (.vscan u h f) s = .next ((e.flyLanes 7 f.dst (e.vmask f.imm) w (fun i =>
     ((((List.range (i + 1)).filter (laneBit (e.vmask f.imm) w)).map (lane a w)).sum % 2 ^ w, 0))).setVerdict .committed)) ∧
   (∀ op, op = (fun i => finish g (e.vmode f.imm) false (sumV (e.vmode f.imm) (((List.range (i + 1)).filter (laneBit (e.vmask f.imm) g.w)).map
     (fun k => unpack g (lane a g.w k))))) → Ready .vfscan u.slot (mkR Op.vfscan.code h f) h s →
    exec (.vfscan u h f) s = .next (e.fpEnds (laneFlags (e.vmask f.imm) g.w op) (e.flyLanes 7 f.dst (e.vmask f.imm) g.w op))) ∧
   ∀ b c, e.srcV f.sb = .ok b → e.srcV f.sc = .ok c →
    (∀ k sa sb, dotForm h.fmt.toNat = (k, sa, sb) → Ready .vdot u.slot (mkR Op.vdot.code h f) h s →
     exec (.vdot u h f) s = .next ((e.flyLanes 4 f.dst (e.vmask f.imm) 32 (fun i =>
      let v := (List.range (32 / k)).foldl (fun acc t => acc + laneVal k sa (lane a k (32 / k * i + t)) * laneVal k sb (lane b k (32 / k * i + t)))
       (toS 32 (lane c 32 i))
      if f.imm.getLsbD 0 then (ofI 32 (sat (-2147483648) 2147483647 v).1, Fl.when (sat (-2147483648) 2147483647 v).2 Fl.satf)
      else (ofI 32 v, 0))).setVerdict .committed)) ∧
    ∀ d op, d = fdotFmt h.fmt.toNat → op = (fun i =>
      let ps := (List.range (32 / d.w)).map (fun t => mulV (unpack d (lane a d.w (32 / d.w * i + t))) (unpack d (lane b d.w (32 / d.w * i + t))))
      let r := sumV (e.vmode f.imm) (unpack fp32 (lane c 32 i) :: ps.map (·.1))
      finish fp32 (e.vmode f.imm) false (r.1, ps.foldl (fun fl p => fl ||| p.2) r.2)) →
     Ready .vfdot u.slot (mkR Op.vfdot.code h f) h s →
     exec (.vfdot u h f) s = .next (e.fpEnds (laneFlags (e.vmask f.imm) 32 op) (e.flyLanes 4 f.dst (e.vmask f.imm) 32 op)))

/-- Conversions and quantisation complete (R369, R370, R371, R372). -/
def Obligations.VectorConversions : Prop :=
  (∀ r ∈ ([(.vcvt, .vcvt, vcvtPairs), (.vcvti, .vcvti, vcvtiPairs), (.vcvtf, .vcvtf, vcvtfPairs)] :
    List ((VSlot → Hd → RFmt → Instr) × Op × List (Nat × Nat))),
   ∀ (u : VSlot) (h : Hd) (f : RFmt) (s : State) (a b : Row) (p : Nat × Nat) (v : Row × Fl), Ready r.2.1 u.slot (mkR r.2.1.code h f) h s →
   (s.env u.slot h).srcV f.sa = .ok a → p = r.2.2.getD h.fmt.toNat (1, 1) →
   (if 8 * elemSize p.2 < 8 * elemSize p.1 then (s.env u.slot h).srcV f.sb = .ok b else b = 0) →
   v = convertRow (8 * elemSize p.1) (8 * elemSize p.2) (bits f.imm.toNat 4 2) a b
    (convertElem p.1 p.2 ((s.env u.slot h).mode (f.imm.toNat % 8)) (f.imm.getLsbD 3)) →
   exec (r.1 u h f) s = .next ((s.env u.slot h).fpEnds v.2 ((s.env u.slot h).flyV 3 f.dst v.1 allBytes v.2))) ∧
  (∀ r ∈ ([(.vsatn, .vsatn, vsatnPairs), (.vwiden, .vwiden, vwidenPairs)] :
    List ((VSlot → Hd → RFmt → Instr) × Op × List (Nat × Nat))),
   ∀ (u : VSlot) (h : Hd) (f : RFmt) (s : State) (a b : Row) (p : Nat × Nat) (v : Row × Fl), Ready r.2.1 u.slot (mkR r.2.1.code h f) h s →
   (s.env u.slot h).srcV f.sa = .ok a → p = r.2.2.getD h.fmt.toNat (12, 12) →
   (if 8 * elemSize p.2 < 8 * elemSize p.1 then (s.env u.slot h).srcV f.sb = .ok b else b = 0) →
   v = convertRow (8 * elemSize p.1) (8 * elemSize p.2) (bits f.imm.toNat 4 2) a b (integerElem p.1 p.2) →
   exec (r.1 u h f) s = .next ((s.env u.slot h).fpEnds v.2 ((s.env u.slot h).flyV 3 f.dst v.1 allBytes v.2))) ∧
  ∀ r ∈ ([(.vqbx, .vqbx, fun _ fmt i a b => vqbxRow fmt (toS 9 (i.toNat % 512)) a b),
    (.vdqbx, .vdqbx, fun m fmt i a b => vdqbxRow fmt (i.toNat % 128) (m (bits i.toNat 7 3)) (i.getLsbD 10) a b),
    (.vqs8, .vqs8, fun _ fmt i a b => vqs8Row fmt (i.toNat % 64) a b),
    (.vdqs8, .vdqs8, fun _ fmt i a b => vdqs8Row fmt (i.toNat % 4) (bits i.toNat 2 6) (i.getLsbD 8) a b)] :
    List ((VSlot → Hd → RFmt → Instr) × Op × ((Nat → Nat) → Nat → BitVec 11 → Row → Row → Row × Fl))),
   ∀ (u : VSlot) (h : Hd) (f : RFmt) (s : State) (a b : Row) (v : Row × Fl), Ready r.2.1 u.slot (mkR r.2.1.code h f) h s →
   (s.env u.slot h).srcV f.sa = .ok a → (s.env u.slot h).srcV f.sb = .ok b →
   v = r.2.2 (s.env u.slot h).mode h.fmt.toNat f.imm a b →
   exec (r.1 u h f) s = .next ((s.env u.slot h).fpEnds v.2 ((s.env u.slot h).flyV 5 f.dst v.1 allBytes v.2))

/-- The permutes move lanes as the manual names them (R373, R374). -/
def Obligations.VectorPermutes : Prop :=
  (∀ (u : VSlot) (h : Hd) (f : RFmt) (s : State),
   let e := s.env u.slot h
   let w := laneW h.fmt.toNat
   let n := 1024 / w
   let gives (i : Instr) (g : Nat → Nat) : Prop :=
    ∃ v, exec i s = .next ((e.flyV 3 f.dst v allBytes 0).setVerdict .committed) ∧ ∀ j, j < n → lane v w j = g j
   (∀ a, e.srcV f.sa = .ok a →
    (Ready .vpermi u.slot (mkR Op.vpermi.code h f) h s → gives (.vpermi u h f) (fun j => lane a w (j ^^^ (f.imm.toNat % 128)))) ∧
    (Ready .vbcst u.slot (mkR Op.vbcst.code h f) h s → gives (.vbcst u h f) (fun _ => lane a w (f.imm.toNat % 128))) ∧
    (Ready .vshuf u.slot (mkR Op.vshuf.code h f) h s →
     gives (.vshuf u h f) (fun j => lane a w (j / 4 * 4 + bits f.imm.toNat (2 * (j % 4)) 2))) ∧
    (Ready .vcompr u.slot (mkR Op.vcompr.code h f) h s →
     gives (.vcompr u h f) (fun j => (((activeLanes (e.x.mReg f.sb.toNat) w).map (lane a w))[j]?).getD 0)) ∧
    (Ready .vexpd u.slot (mkR Op.vexpd.code h f) h s →
     gives (.vexpd u h f) (fun j => if laneBit (e.x.mReg f.sb.toNat) w j then
      lane a w ((List.range j).filter (laneBit (e.x.mReg f.sb.toNat) w)).length else 0)) ∧
    (Ready .vmov u.slot (mkR Op.vmov.code h f) h s →
     exec (.vmov u h f) s = .next ((e.flyLanes 2 f.dst (e.vmask f.imm) w (fun j => (lane a w j, 0))).setVerdict .committed)) ∧
    (∀ b, e.srcS f.sb = .ok b → Ready .vins u.slot (mkR Op.vins.code h f) h s →
     gives (.vins u h f) (fun j => if j = f.imm.toNat % 128 then b.toNat % 2 ^ w else lane a w j)) ∧
    ∀ b, e.srcV f.sb = .ok b →
     (Ready .vzip u.slot (mkR Op.vzip.code h f) h s →
      gives (.vzip u h f) (fun j => lane (if j % 2 = 0 then a else b) w (f.imm.toNat % 2 * (n / 2) + j / 2))) ∧
     (Ready .vunzip u.slot (mkR Op.vunzip.code h f) h s →
      gives (.vunzip u h f) (fun j => if j < n / 2 then lane a w (2 * j + f.imm.toNat % 2) else lane b w (2 * (j - n / 2) + f.imm.toNat % 2))) ∧
     (∀ c, e.srcV f.sc = .ok c → Ready .vperm u.slot (mkR Op.vperm.code h f) h s →
      gives (.vperm u h f) (fun j => let k := lane c w j % (2 * n); if k < n then lane a w k else lane b w (k - n))) ∧
     ∀ c, e.srcS f.sc = .ok c → Ready .vrotm u.slot (mkR Op.vrotm.code h f) h s →
      ∃ v, exec (.vrotm u h f) s = .next ((e.flyV 3 f.dst v allBytes 0).setVerdict .committed) ∧
       ∀ j, j < 128 → lane v 8 j = (let k := c.toNat % 128 + j; if k < 128 then lane a 8 k else lane b 8 (k - 128))) ∧
   ∀ a, e.srcS f.sa = .ok a → Ready .vsplat u.slot (mkR Op.vsplat.code h f) h s → gives (.vsplat u h f) (fun _ => a.toNat % 2 ^ w))
   ∧ ((∀ (u : VSlot) (h : Hd) (f : RFmt) (s : State) (a b : Row), Ready .vcxs u.slot (mkR Op.vcxs.code h f) h s →
   (s.env u.slot h).srcV f.sa = .ok a → (s.env u.slot h).srcV f.sb = .ok b →
   let e := s.env u.slot h
   let w := cxsWidth h.fmt.toNat
   let from_ := cxsFrom h.fmt.toNat a (f.imm.toNat % 8) (bits f.imm.toNat 3 3) (f.imm.getLsbD 6)
   ∃ keys pays : Row,
    exec (.vcxs u h f) s = .next (((e.flyTo 2 .v f.dst keys 0).fly s.iss.core s.iss.ctx
     { e.result 2 pays false (.reg .v (f.dst.toNat + 1) pays allBytes) 0 with latch := false }).setVerdict .committed) ∧
    ∀ i, i < 1024 / w → lane keys w i = lane a w (from_ i) ∧ lane pays w i = lane b w (from_ i)) ∧
  ∀ (fmt : Nat) (a : Row) (j k : Nat) (desc : Bool) (i : Nat), i.testBit j = false →
   let key (n : Nat) : Int := cxsKey fmt (lane a (cxsWidth fmt) n)
   let lo := cxsFrom fmt a j k desc i
   let hi := cxsFrom fmt a j k desc (i + 2 ^ j)
   ((lo = i ∧ hi = i + 2 ^ j) ∨ (lo = i + 2 ^ j ∧ hi = i ∧ key i ≠ key (i + 2 ^ j))) ∧
    (if (k = 7 ∨ i.testBit k = false) ↔ desc = false then key lo ≤ key hi else key hi ≤ key lo))

/-- Deep-file access by row number and codebook attention complete (R377, R379, R380). -/
def Obligations.DeepFileInstructions : Prop :=
  ∀ (u : VSlot) (h : Hd) (f : RFmt) (s : State),
   let e := s.env u.slot h
   (∀ a r, e.srcS f.sa = .ok a → r = e.x.dfbase + (a.toNat + f.imm.toNat) % e.x.dflen →
    (Ready .vdfrd u.slot (mkR Op.vdfrd.code h f) h s → e.rowCheck [r] [] = .ok () →
     exec (.vdfrd u h f) s = .next ((e.flyV 2 f.dst (e.core.row r) allBytes 0).setVerdict .committed)) ∧
    ∀ b, e.srcV f.sb = .ok b → Ready .vdfwr u.slot (mkR Op.vdfwr.code h f) h s → e.rowCheck [] [r] = .ok () →
     exec (.vdfwr u h f) s = .next ((e.fly { e.result 2 0 false (.row r b allBytes) 0 with w := true, latch := false, replay := false }).setVerdict .committed)) ∧
   ∀ a b, e.srcV f.sa = .ok a → e.srcV f.sb = .ok b →
    (∀ op, op = (fun i => fAdd fp32 0 (unpack fp32 (lane b 32 i)) (unpack fp32 (lane (e.core.row (e.x.row (e.tableRow f + codeOf f a i / 32))) 32 (codeOf f a i % 32)))) →
     Ready .vluta u.slot (mkR Op.vluta.code h f) h s → e.rowCheck (e.tableRows f) [] = .ok () →
     exec (.vluta u h f) s = .next (e.fpEnds (laneFlags (e.vmask f.imm) 32 op) (e.flyLanes 4 f.dst (e.vmask f.imm) 32 op))) ∧
    ∀ ps, ps = ((List.range 32).filter (laneBit (e.vmask f.imm) 32)).map (fun i => (codeOf f a i, BitVec.ofNat 32 (lane b 32 i))) →
     Ready .vbina u.slot (mkR Op.vbina.code h f) h s → e.rowCheck (e.tableRows f) (e.tableRows f) = .ok () →
     exec (.vbina u h f) s = .next (e.fpEnds (e.core.addBins e.x (e.tableRow f) ps).2 (e.fly { e.result 6 0 false (.bins (e.tableRow f) ps) 0 with w := true, latch := false, replay := false }))

/-- Tile registers are built, copied, cleared, resized, read and inspected (R384, R387, R382, R385). -/
def Obligations.TileRegisterWrites : Prop :=
  (∀ (h : Hd) (s : State),
   let e := s.env .mt h
   let goes (i : Instr) (d : BitVec 9) (tw : Quad) (desc : Word) : Prop := exec i s = .next ((e.retT s d tw desc).setVerdict .committed)
   (∀ (f : RFmt) (a b : Word), e.srcS f.sa = .ok a → e.srcS f.sb = .ok b → Ready .tset .mt (mkR Op.tset.code h f) h s →
    (twBad (b ++ a) = none → goes (.tset h f) f.dst (b ++ a) (e.x.tReg f.dst.toNat).desc) ∧
    (∀ n, twBad (b ++ a) = some n → ∃ v, exec (.tset h f) s = .next ((s.trapNow s.iss.core s.iss.ctx .shapeFault v (slotMask [.mt])).setVerdict (.trapped .shapeFault v)))) ∧
   (∀ (f : RFmt), Ready .tcpy .mt (mkR Op.tcpy.code h f) h s → goes (.tcpy h f) f.dst (e.x.tReg f.sa.toNat).tw (e.x.tReg f.sa.toNat).desc) ∧
   (∀ (f : RFmt), Ready .tclr .mt (mkR Op.tclr.code h f) h s → goes (.tclr h f) f.dst 0 0) ∧
   (∀ (f : RFmt) (a : Word), e.srcS f.sa = .ok a → Ready .tsto .mt (mkR Op.tsto.code h f) h s → descBad a = none → descLeaves a e.x.dflen = none →
    goes (.tsto h f) f.dst (e.x.tReg f.dst.toNat).tw a) ∧
   (∀ (f : IFmt), Ready .tstoi .mt (mkI Op.tstoi.code h f) h s → descBad (mkDeep (f.imm.toNat % 2 ^ 11) (bits f.imm.toNat 11 12)) = none →
    descLeaves (mkDeep (f.imm.toNat % 2 ^ 11) (bits f.imm.toNat 11 12)) e.x.dflen = none →
    goes (.tstoi h f) f.dst (e.x.tReg f.dst.toNat).tw (mkDeep (f.imm.toNat % 2 ^ 11) (bits f.imm.toNat 11 12))) ∧
   (∀ (f : RFmt) (b : Word), e.srcS f.sb = .ok b → Ready .tsext .mt (mkR Op.tsext.code h f) h s → f.imm.toNat % 4 < twRank (e.x.tReg f.sa.toNat).tw →
    twBad (twSetExt (e.x.tReg f.sa.toNat).tw (f.imm.toNat % 4) (b.toNat % 2 ^ 24)) = none →
    goes (.tsext h f) f.dst (twSetExt (e.x.tReg f.sa.toNat).tw (f.imm.toNat % 4) (b.toNat % 2 ^ 24)) (e.x.tReg f.sa.toNat).desc) ∧
   (∀ (f : IFmt), Ready .tsexti .mt (mkI Op.tsexti.code h f) h s → bits f.imm.toNat 24 2 < twRank (e.x.tReg f.sa.toNat).tw →
    twBad (twSetExt (e.x.tReg f.sa.toNat).tw (bits f.imm.toNat 24 2) (f.imm.toNat % 2 ^ 24)) = none →
    goes (.tsexti h f) f.dst (twSetExt (e.x.tReg f.sa.toNat).tw (bits f.imm.toNat 24 2) (f.imm.toNat % 2 ^ 24)) (e.x.tReg f.sa.toNat).desc) ∧
   ∀ (f : RFmt) (c : Word), e.srcS f.sc = .ok c → Ready .tbind .mt (mkR Op.tbind.code h f) h s →
    descBad (mkWindow 0 0 ||| (c &&& 0xFFFFFFFFFFFF)) = none → c.toNat < 2 ^ 48 →
    goes (.tbind h f) f.dst (e.x.tReg f.sa.toNat).tw (mkWindow f.sb.toNat c.toNat))
   ∧ (∀ (h : Hd) (f : RFmt) (s : State),
   let e := s.env .mt h
   let t := e.x.tReg f.sa.toNat
   let goes (i : Instr) (v : Word) : Prop := exec i s = .next ((e.flyS 1 f.dst v 0).setVerdict .committed)
   (Ready .tgetl .mt (mkR Op.tgetl.code h f) h s → goes (.tgetl h f) (t.tw.extractLsb' 0 64)) ∧
   (Ready .tgeth .mt (mkR Op.tgeth.code h f) h s → goes (.tgeth h f) (t.tw.extractLsb' 64 64)) ∧
   (Ready .tgets .mt (mkR Op.tgets.code h f) h s → goes (.tgets h f) t.desc) ∧
   (Ready .text .mt (mkR Op.text.code h f) h s → e.dimPending (twVars t.tw) = false →
    goes (.text h f) (let n := (e.extents t.tw).getD (f.imm.toNat % 4) 0; if isVar n then 0 else BitVec.ofNat 64 n)) ∧
   (Ready .tinfo .mt (mkR Op.tinfo.code h f) h s → e.dimPending (twVars t.tw) = false →
    goes (.tinfo h f) (BitVec.ofNat 64 (tinfo (f.imm.toNat % 16) t.tw (e.extents t.tw)))))

/-- Type checks, and rearrangements that only rewrite the type word (R386, R211, R214, R389, R390, R391, R215). -/
def Obligations.TypeCheck : Prop :=
  (∀ (h : Hd) (f : RFmt) (s : State), Ready .tchk .mt (mkR Op.tchk.code h f) h s →
   let e := s.env .mt h
   let a := (e.x.tReg f.sa.toNat).tw
   let b := (e.x.tReg f.sb.toNat).tw
   let c : Cell := if f.imm.getLsbD 0 then .any else .sym 0
   let rs : List TRow := [⟨0, a, .sym 0, c, c, c, sharedExts⟩, ⟨1, b, .sym 0, c, c, c, sharedExts⟩]
   (b = a → twBad a = none → twRank a ≠ 0 → (∀ n ∈ twExts a, isVar n = false) → exec (.tchk h f) s = .next (s.setVerdict .committed)) ∧
   (f.imm.getLsbD 0 = false → twBad a = none → twBad b = none → twRank a ≠ 0 → twRank b = twRank a → twFmt a ≠ twFmt b →
    (∀ n ∈ twExts a ++ twExts b, isVar n = false) →
    ∃ v, exec (.tchk h f) s = .next ((s.trapNow s.iss.core s.iss.ctx .shapeFault v (slotMask [.mt])).setVerdict (.trapped .shapeFault v)) ∧
     fld v 0 4 = 1 ∧ fld v 4 4 = Slot.mt.num ∧ fld v 8 3 = 1 ∧ fld v 12 24 = twFmt a ∧ fld v 36 24 = twFmt b) ∧
   ∀ u, e.uniForm rs = .ok () → twRank a ≠ 0 → twRank b ≠ 0 → e.unify rs = .ok u →
    exec (.tchk h f) s = .next ((e.bind u s).setVerdict .committed))
   ∧ (∀ (h : Hd) (s : State),
   let e := s.env .mt h
   (∀ (f : RFmt) (u : Uni), Ready .ttrn .mt (mkR Op.ttrn.code h f) h s → twRank (e.x.tReg f.dst.toNat).tw = 0 →
    let a := e.x.tReg f.sa.toNat
    let d := e.x.tReg f.dst.toNat
    e.uniForm [⟨0, a.tw, .any, .any, .any, .any, []⟩, ⟨4, d.tw, .any, .any, .any, .any, []⟩] = .ok () →
    e.unify [⟨0, a.tw, .oneOf [2], .any, .oneOf [0, 1, 2, 3], .any, []⟩] = .ok u →
    exec (.ttrn h f) s = .next ((e.retT (e.bind u s) f.dst (e.resolved u (mkTw 2 (twFmt a.tw) (partner (twLay a.tw)) (swapScale (twScale a.tw))
     (swapLast (twExts a.tw)))) a.desc).setVerdict .committed)) ∧
   (∀ (f : RFmt) (u : Uni), Ready .ttrn .mt (mkR Op.ttrn.code h f) h s →
    let a := e.x.tReg f.sa.toNat
    let d := e.x.tReg f.dst.toNat
    e.formAD a.tw d.tw = .ok () → twRank a.tw = 2 → twRank d.tw = 2 → twLay a.tw ≤ 3 → twLay d.tw = partner (twLay a.tw) →
    e.unify [⟨0, a.tw, .any, .sym 0, .oneOf [0, 1, 2, 3, 4, 5], .any, [.sym 0, .sym 1]⟩,
     ⟨4, d.tw, .oneOf [2], .sym 0, .oneOf [0, 1, 2, 3, 4, 5], .oneOf [swapScale (twScale a.tw)], [.sym 1, .sym 0]⟩] = .ok u →
    exec (.ttrn h f) s = .next ((e.retT (e.bind u s) f.dst (e.resolved u d.tw) a.desc).setVerdict .committed)) ∧
   (∀ (f : RFmt) (u v : Uni), Ready .trshp .mt (mkR Op.trshp.code h f) h s →
    let a := e.x.tReg f.sa.toNat
    let d := e.x.tReg f.dst.toNat
    e.formAD a.tw d.tw = .ok () → twRank d.tw ≠ 0 → e.unify [⟨0, a.tw, .any, .sym 0, .any, .sym 0, []⟩, ⟨4, d.tw, .any, .sym 0, .any, .sym 0, []⟩] = .ok u →
    e.constant [(0, a.tw)] u = .ok () → e.reshapeBind u (prod (e.extents a.tw)) (e.extents d.tw) = .ok v →
    prod (e.extents a.tw) = prod ((twExts d.tw).map (e.resolve v.pend)) →
    reshapeOnly a.tw d.tw (e.extents a.tw) ((twExts d.tw).map (e.resolve v.pend)) = true →
    exec (.trshp h f) s = .next ((e.retT (e.bind v s) f.dst (e.resolved v d.tw) a.desc).setVerdict .committed)) ∧
   (∀ (f : RFmt) (u : Uni), Ready .tcast .mt (mkR Op.tcast.code h f) h s →
    let a := e.x.tReg f.sa.toNat
    let d := e.x.tReg f.dst.toNat
    e.formAD a.tw d.tw = .ok () → twRank d.tw ≠ 0 → ((twFmt a.tw = 10 ∧ twFmt d.tw = 14) ∨ (twFmt a.tw = 14 ∧ twFmt d.tw = 10)) → twLay a.tw = twLay d.tw →
    e.unify [⟨0, a.tw, .sym 0, castCell (twFmt d.tw), .any, .oneOf [0], sharedExts⟩,
     ⟨4, d.tw, .sym 0, castCell (twFmt a.tw), .any, .oneOf [0], sharedExts⟩] = .ok u →
    exec (.tcast h f) s = .next ((e.retT (e.bind u s) f.dst (e.resolved u d.tw) a.desc).setVerdict .committed)) ∧
   let sliced (i : Instr) (dst sa : BitVec 9) (start count : Nat) : Prop :=
    ∀ u desc, e.uniForm [⟨0, (e.x.tReg sa.toNat).tw, .any, .any, .any, .any, []⟩] = .ok () → twRank (e.x.tReg sa.toNat).tw ≠ 0 →
     e.unify [⟨0, (e.x.tReg sa.toNat).tw, .any, .any, .any, .any, []⟩] = .ok u →
     isVar ((e.extents (e.x.tReg sa.toNat).tw).getD (slowAxis (e.x.tReg sa.toNat).tw) 0) = false → 1 ≤ count →
     start + count ≤ (e.extents (e.x.tReg sa.toNat).tw).getD (slowAxis (e.x.tReg sa.toNat).tw) 0 →
     e.sliceDesc (e.x.tReg sa.toNat).tw (e.x.tReg sa.toNat).desc start = some desc →
     exec i s = .next ((e.retT s dst (twSetExt (e.resolved u (e.x.tReg sa.toNat).tw) (slowAxis (e.x.tReg sa.toNat).tw) count) desc).setVerdict .committed)
   (∀ (f : RFmt) (b c : Word), Ready .tslc .mt (mkR Op.tslc.code h f) h s → e.srcS f.sb = .ok b → e.srcS f.sc = .ok c →
    sliced (.tslc h f) f.dst f.sa b.toNat c.toNat) ∧
   ∀ (f : IFmt), Ready .tslci .mt (mkI Op.tslci.code h f) h s →
    sliced (.tslci h f) f.dst f.sa (f.imm.toNat % 2 ^ 15) (bits f.imm.toNat 15 14))

/-- Engine-backed rearrangements issue one copy job and write the destination register (R388, R253, R216, R389,
R390, R391, R215). -/
def Obligations.TileCopyCommands : Prop :=
  ∀ (h : Hd) (f : RFmt) (s : State),
   let e := s.env .mt h
   let a := e.x.tReg f.sa.toNat
   let d := e.x.tReg f.dst.toNat
   (∀ r ∈ ([(.tcopy, .tcopy, fun a => ⟨0, a, .sym 0, .sym 0, .sym 0, .sym 0, sharedExts⟩, fun _ d => ⟨4, d, .sym 0, .sym 0, .sym 0, .sym 0, sharedExts⟩, .rearrange .copy),
     (.tqbx, .tqbx, fun a => ⟨0, a, .sym 0, .oneOf [1, 2, 3], .oneOf [0, 1], .oneOf [0], sharedExts⟩,
      fun _ d => ⟨4, d, .sym 0, .oneOf [6, 7, 8], .oneOf [0, 1], .oneOf [if twLay d = 1 then 6 else 5], sharedExts⟩, .rearrange .qbx),
     (.tdqbx, .tdqbx, fun a => ⟨0, a, .sym 0, .oneOf [6, 7, 8], .oneOf [0, 1], .any, sharedExts⟩,
      fun _ d => ⟨4, d, .sym 0, .oneOf [1, 2, 3], .oneOf [0, 1], .oneOf [0], sharedExts⟩,
      .rearrange (.dqbx (BitVec.ofNat 2 (e.mode (bits f.imm.toNat 6 3))) (f.imm.getLsbD 9))),
     (.tzb, .tzb, fun a => ⟨0, a, .oneOf [2, 3, 4], .sym 0, .oneOf [0, 4], .any, sharedExts⟩,
      fun a d => ⟨4, d, .oneOf [twRank a], .sym 0, .oneOf [5], .any, sharedExts⟩, .zbComp),
     (.tzx, .tzx, fun a => ⟨0, a, .sym 0, .sym 0, .oneOf [5], .any, sharedExts⟩,
      fun _ d => ⟨4, d, .sym 0, .sym 0, .oneOf [4], .any, sharedExts⟩, .zbExp)] :
     List ((Hd → RFmt → Instr) × Op × (Quad → TRow) × (Quad → Quad → TRow) × (TileOp → TileOp → JobKind))),
    ∀ (u : Uni) (src out : TileOp), Ready r.2.1 .mt (mkR r.2.1.code h f) h s → e.formAD a.tw d.tw = .ok () → twRank d.tw ≠ 0 →
    e.unify [r.2.2.1 a.tw, r.2.2.2.1 a.tw d.tw] = .ok u → e.CopyReady u (some (a.tw, a.desc)) (d.tw, d.desc) (some src) out →
    exec (r.1 h f) s = .next ((e.copyIssued u (some src) out (d.tw, d.desc) f.dst (engFlag f.imm) (r.2.2.2.2 src out)).setVerdict .committed)) ∧
   (∀ (v : Word) (u : Uni) (out : TileOp), Ready .tfill .mt (mkR Op.tfill.code h f) h s → e.srcS f.sa = .ok v → twBad d.tw = none → twRank d.tw ≠ 0 →
    e.unify [⟨4, d.tw, .any, .oneOf [1, 2, 3, 4, 5, 9, 10, 11, 12, 14], .oneOf [0, 1, 2, 3, 4, 6], .any, []⟩] = .ok u →
    e.CopyReady u none (d.tw, d.desc) none out →
    exec (.tfill h f) s = .next ((e.copyIssued u none out (d.tw, d.desc) f.dst (engFlag f.imm) (.rearrange (.fill v) out out)).setVerdict .committed)) ∧
   (∀ (b : Word) (p : Nat) (u v : Uni) (src out : TileOp), Ready .twex .mt (mkR Op.twex.code h f) h s → e.srcS f.sb = .ok b → e.formAD a.tw d.tw = .ok () → twRank d.tw ≠ 0 →
    e.unify [⟨0, a.tw, .oneOf [2], .sym 0, .oneOf [0], .any, []⟩, ⟨4, d.tw, .oneOf [2], .sym 0, .oneOf [6], .any, []⟩] = .ok v →
    e.constant [(0, a.tw)] v = .ok () → windowsOf (b.extractLsb' 0 16) ((e.extents a.tw).getD 0 0) = p → 1 ≤ p →
    e.unify [⟨0, a.tw, .oneOf [2], .sym 0, .oneOf [0], .any, []⟩, ⟨4, d.tw, .oneOf [2], .sym 0, .oneOf [6], .any,
     [.lit p, .lit ((wparOf (b.extractLsb' 0 16)).1 * (e.extents a.tw).getD 1 0)]⟩] = .ok u →
    e.CopyReady u (some (a.tw, a.desc)) (d.tw, d.desc) (some src) out →
    exec (.twex h f) s = .next ((e.copyIssued u (some src) out (d.tw, d.desc) f.dst (engFlag f.imm) (.window src out (b.extractLsb' 0 16))).setVerdict .committed)) ∧
   (∀ (u : Uni) (src out : TileOp), Ready .tcast .mt (mkR Op.tcast.code h f) h s → e.formAD a.tw d.tw = .ok () → twRank d.tw ≠ 0 →
    (((twFmt a.tw = 10 ∧ twFmt d.tw = 14) ∨ (twFmt a.tw = 14 ∧ twFmt d.tw = 10)) → twLay a.tw ≠ twLay d.tw) →
    e.unify [⟨0, a.tw, .sym 0, castCell (twFmt d.tw), .any, .oneOf [0], sharedExts⟩,
     ⟨4, d.tw, .sym 0, castCell (twFmt a.tw), .any, .oneOf [0], sharedExts⟩] = .ok u →
    e.CopyReady u (some (a.tw, a.desc)) (d.tw, d.desc) (some src) out →
    exec (.tcast h f) s = .next ((e.copyIssued u (some src) out (d.tw, d.desc) f.dst (engFlag f.imm)
     (.rearrange (.cast (BitVec.ofNat 2 (e.mode (bits f.imm.toNat 6 3))) (f.imm.getLsbD 9)) src out)).setVerdict .committed)) ∧
   (∀ (u v : Uni) (src out : TileOp), Ready .trshp .mt (mkR Op.trshp.code h f) h s → e.formAD a.tw d.tw = .ok () → twRank d.tw ≠ 0 →
    e.unify [⟨0, a.tw, .any, .sym 0, .any, .sym 0, []⟩, ⟨4, d.tw, .any, .sym 0, .any, .sym 0, []⟩] = .ok u →
    e.constant [(0, a.tw)] u = .ok () → e.reshapeBind u (prod (e.extents a.tw)) (e.extents d.tw) = .ok v →
    prod (e.extents a.tw) = prod ((twExts d.tw).map (e.resolve v.pend)) →
    reshapeOnly a.tw d.tw (e.extents a.tw) ((twExts d.tw).map (e.resolve v.pend)) = false → twScale a.tw = 0 → twScale d.tw = 0 →
    e.CopyReady v (some (a.tw, a.desc)) (d.tw, d.desc) (some src) out →
    exec (.trshp h f) s = .next ((e.copyIssued v (some src) out (d.tw, d.desc) f.dst (engFlag f.imm) (.rearrange .reshape src out)).setVerdict .committed)) ∧
   (∀ (u : Uni) (src out : TileOp), Ready .ttrn .mt (mkR Op.ttrn.code h f) h s → e.formAD a.tw d.tw = .ok () → twRank d.tw ≠ 0 →
    ¬ (twRank a.tw = 2 ∧ twRank d.tw = 2 ∧ twLay a.tw ≤ 3 ∧ twLay d.tw = partner (twLay a.tw)) → twScale a.tw = 0 → twScale d.tw = 0 →
    let cells := ([.sym 0, .sym 1, .sym 2, .sym 3] : List ECell).take (twRank a.tw)
    e.unify [⟨0, a.tw, .any, .sym 0, .oneOf [0, 1, 2, 3, 4, 5], if 2 < twRank a.tw then .oneOf [0] else .any, cells⟩,
     ⟨4, d.tw, .oneOf [twRank a.tw], .sym 0, .oneOf [0, 1, 2, 3, 4, 5],
      if twRank a.tw = 2 then .oneOf [swapScale (twScale a.tw)] else .any, swapLast cells⟩] = .ok u →
    e.CopyReady u (some (a.tw, a.desc)) (d.tw, d.desc) (some src) out →
    exec (.ttrn h f) s = .next ((e.copyIssued u (some src) out (d.tw, d.desc) f.dst (engFlag f.imm) (.rearrange .transpose src out)).setVerdict .committed)) ∧
   let sliced (i : Instr) (dst sa : BitVec 9) (start count : Nat) (flag : Option (BitVec 5)) : Prop :=
    ∀ u src out, let q := e.x.tReg sa.toNat
     let n := (e.extents q.tw).getD (slowAxis q.tw) 0
     let t := twSetExt (e.resolved u q.tw) (slowAxis q.tw) count
     let tgt : Quad × Word := (t, (e.x.tReg dst.toNat).desc)
     e.uniForm [⟨0, q.tw, .any, .any, .any, .any, []⟩] = .ok () → twRank q.tw ≠ 0 →
     e.unify [⟨0, q.tw, .any, .any, .any, .any, []⟩] = .ok u → isVar n = false → 1 ≤ count → start + count ≤ n →
     e.sliceDesc q.tw q.desc start = none → twScale q.tw = 0 → twScale t = 0 → e.CopyReady u (some (q.tw, q.desc)) tgt (some src) out →
     exec i s = .next ((e.copyIssued u (some src) out tgt dst flag (.rearrange (.slice start) src out)).setVerdict .committed)
   (∀ (b c : Word), Ready .tslc .mt (mkR Op.tslc.code h f) h s → e.srcS f.sb = .ok b → e.srcS f.sc = .ok c →
    sliced (.tslc h f) f.dst f.sa b.toNat c.toNat (engFlag f.imm)) ∧
   ∀ (f : IFmt), Ready .tslci .mt (mkI Op.tslci.code h f) h s →
    sliced (.tslci h f) f.dst f.sa (f.imm.toNat % 2 ^ 15) (bits f.imm.toNat 15 14) none

/-- The matrix tables, the accumulators, step mode and the matrix commands (R392, R398, R399, R402, R400, R401,
R261, R395, R396, R397, R262). The model's own choice: the exponents that MSTEP takes of a block beyond K (log
44). -/
def Obligations.MatrixTables : Prop :=
  ((∀ (h : Hd) (s : State),
   let e := s.env .mt h
   (∀ (f : RFmt) (a : Word), Ready .mtw .mt (mkR Op.mtw.code h f) h s → e.srcS f.sa = .ok a →
    exec (.mtw h f) s = .next ((s.modCtx s.iss.core s.iss.ctx (fun x => { x with mtab := tabWrite x.mtab (f.imm.toNat % 16) a (BitVec.allOnes 64) })).setVerdict .committed)) ∧
   (∀ (f : LFmt), Ready .mtwi .mt (mkL Op.mtwi.code h f) h s →
    exec (.mtwi h f) s = .next ((s.modCtx s.iss.core s.iss.ctx (fun x => { x with
     mtab := tabWrite x.mtab (bits f.imm.toNat 34 4) ((f.imm.extractLsb' 0 32).setWidth 64 <<< (if f.imm.getLsbD 33 then 32 else 0))
      ((0xFFFFFFFF : Word) <<< (if f.imm.getLsbD 33 then 32 else 0)) })).setVerdict .committed)) ∧
   (∀ (f : RFmt), Ready .mtr .mt (mkR Op.mtr.code h f) h s →
    exec (.mtr h f) s = .next ((e.flyS 1 f.dst (tabWord e.x.mtab (f.imm.toNat % 16)) 0).setVerdict .committed)) ∧
   (∀ (f : RFmt), Ready .mstz .mt (mkR Op.mstz.code h f) h s → exec (.mstz h f) s = .next ((e.effect 1 .clearInner).setVerdict .committed)) ∧
   ∀ (f : RFmt) (u : Uni) (base : Nat) (ex : List Nat), e.acmOf f.sa [] = .ok (u, base, ex) →
    let blocks (i : Instr) : Prop := exec i s = .next ((s.block s.iss.core s.iss.ctx 4).setVerdict (.blocked 4))
    let beyond (i : Instr) (n : Nat) : Prop := ∃ v, fld v 0 4 = 8 ∧ fld v 4 4 = Slot.mt.num ∧ fld v 8 3 = 0 ∧ fld v 12 24 = min (prod ex) 0xFFFFFF ∧
     fld v 36 24 = min n 0xFFFFFF ∧ exec i s = .next ((s.trapNow s.iss.core s.iss.ctx .shapeFault v (slotMask [.mt])).setVerdict (.trapped .shapeFault v))
    let all := (List.range (prod ex)).map (base + ·)
    let lanes (w : Word) := (List.range (min 32 (prod ex - fld w 0 32))).map (base + fld w 0 32 + ·)
    (Ready .maclr .mt (mkR Op.maclr.code h f) h s →
     (e.acmHeld all = false → exec (.maclr h f) s = .next ((e.acmWrite (e.bind u s) 2 (all.map (fun n => (n, 0)))).setVerdict .committed)) ∧
     (e.acmHeld all = true → blocks (.maclr h f))) ∧
    (∀ b, Ready .mard .mt (mkR Op.mard.code h f) h s → e.srcS f.sb = .ok b →
     (prod ex ≤ fld b 0 32 → beyond (.mard h f) (fld b 0 32)) ∧
     (fld b 0 32 < prod ex → e.acmHeld (lanes b) = true → blocks (.mard h f)) ∧
     (∀ n, fld b 0 32 < prod ex → e.acmHeld (lanes b) = false → (lanes b).find? (fun n => e.core.eccAcm.contains n) = some n →
      let v := BitVec.ofNat 64 (2 * 2 ^ 60 + n)
      exec (.mard h f) s = .next ((s.trapNow s.iss.core s.iss.ctx .eccUncorrectable v (slotMask [.mt])).setVerdict (.trapped .eccUncorrectable v))) ∧
     (fld b 0 32 < prod ex → e.acmHeld (lanes b) = false → (∀ n ∈ lanes b, n ∉ e.core.eccAcm) →
      exec (.mard h f) s = .next (({ e with s := e.bind u s } : Env).flyV 2 f.dst (rowOf 32 ((lanes b).map (fun i => (e.core.acmAt i).toNat)))
       allBytes 0 |>.setVerdict .committed))) ∧
    ∀ v c, Ready .mawr .mt (mkR Op.mawr.code h f) h s → e.srcV f.sb = .ok v → e.srcS f.sc = .ok c →
     (prod ex ≤ fld c 0 32 → beyond (.mawr h f) (fld c 0 32)) ∧
     (fld c 0 32 < prod ex → e.acmHeld (lanes c) = true → blocks (.mawr h f)) ∧
     (fld c 0 32 < prod ex → e.acmHeld (lanes c) = false →
      exec (.mawr h f) s = .next ((e.acmWrite (e.bind u s) 2 ((List.range (min 32 (prod ex - fld c 0 32))).map
       (fun i => (base + fld c 0 32 + i, BitVec.ofNat 32 (lane v 32 i))))).setVerdict .committed)))
   ∧ (∀ (h : Hd) (f : RFmt) (s : State),
   let e := s.env .mt h
   let ra := e.x.tReg f.sa.toNat
   let rb := e.x.tReg f.sb.toNat
   (∀ ix u a b, Ready .mstep .mt (mkR Op.mstep.code h f) h s → e.srcS f.sc = .ok ix →
    e.unify [⟨0, ra.tw, .oneOf [2], .oneOf [6, 7, 8, 9], .oneOf [2], matScale (twFmt ra.tw) 5 true, [.sym 0, .sym 1]⟩,
     ⟨1, rb.tw, .oneOf [2], .oneOf (if twFmt ra.tw = 9 then [9] else [6, 7, 8]), .oneOf [3], matScale (twFmt rb.tw) 6 true, [.sym 1, .sym 2]⟩] = .ok u →
    e.constant [(0, ra.tw), (1, rb.tw)] u = .ok () → e.stepTile 0 (e.resolved u ra.tw) ra.desc = .ok a → e.stepTile 1 (e.resolved u rb.tw) rb.desc = .ok b →
    let fa := twFmt a.tw
    let fb := twFmt b.tw
    let m := (twExts a.tw).getD 0 0
    let n := (twExts b.tw).getD 1 0
    let i0 := fld ix 0 16 * (atomOf fa fb).1
    let j0 := fld ix 16 16 * (atomOf fa fb).2
    let ij := ((List.range (atomOf fa fb).1).filter (fun i => i0 + i < m)).flatMap (fun i =>
     ((List.range (atomOf fa fb).2).filter (fun j => j0 + j < n)).map (fun j => (i, j)))
    let ks := ((List.range 16).map (16 * fld ix 32 16 + ·)).filter (· < (twExts a.tw).getD 1 0)
    e.rowCheck (distinct (ks.flatMap (fun k => ((List.range (atomOf fa fb).1).filter (fun i => i0 + i < m)).map (fun i => e.deepRow a [i0 + i, k]) ++
     ((List.range (atomOf fa fb).2).filter (fun j => j0 + j < n)).map (fun j => e.deepRow b [k, j0 + j])))) [] = .ok () →
    let head (g : Nat → Nat) : Option Nat := ks.head?.map g
    let ua (i : Nat) : Option Nat := head (fun k => e.deepUnit a [i0 + i, k])
    let ub (j : Nat) : Option Nat := head (fun k => e.deepUnit b [k, j0 + j])
    let noNumber (o : Option Nat) : Bool := isBx fa && (o.map (fun x => bits x 0 8)).getD 0 = 255
    exec (.mstep h f) s = .next ((((e.bind u s).modCtx s.iss.core s.iss.ctx (fun x => { x with sinceStep := some 0, owed := x.owed ++ [0] })).fly
     s.iss.core s.iss.ctx { e.result 6 0 false (.terms
      ⟨fld ix 0 16, fld ix 16 16, (atomOf fa fb).1, (atomOf fa fb).2, m, n, isBx fa, if isBx fa then ij.map (fun p => (p.1 * 32 + p.2,
       (e.blockExp 0 p.1 (ua p.1) : Int) + e.blockExp 1 p.2 (ub p.2) - 260)) else []⟩
      (ij.map (fun p => (p.1 * 32 + p.2, ks.map (fun k => stepTerm fa fb (e.deepUnit a [i0 + p.1, k]) (e.deepUnit b [k, j0 + p.2]) k))))
      ((ij.filter (fun p => noNumber (ua p.1) || noNumber (ub p.2))).map (fun p => p.1 * 32 + p.2))) 0 with
       w := true, latch := false }).setVerdict .committed)) ∧
   (Ready .mscl .mt (mkR Op.mscl.code h f) h s → e.x.owed.contains 6 = false → exec (.mscl h f) s =
    .next ((s.trapNow s.iss.core s.iss.ctx .scheduleViolation (BitVec.ofNat 64 e.x.stepCount) (slotMask [.mt])).setVerdict
     (.trapped .scheduleViolation (BitVec.ofNat 64 e.x.stepCount)))) ∧
   ∀ r u base ex v, Ready .mscl .mt (mkR Op.mscl.code h f) h s → e.x.owed.contains 6 = true → e.x.stepRec = some r →
    (if f.imm.getLsbD 0 then e.srcV f.sb = .ok v else v = 0) →
    e.acmOf f.sa [.lit r.m, .lit r.n] = .ok (u, base, ex) →
    let ij := ((List.range r.atm).flatMap (fun i => (List.range r.atn).map (fun j => (i, j)))).filter
     (fun p => decide (r.ma * r.atm + p.1 < r.m) && decide (r.na * r.atn + p.2 < r.n))
    let entry (p : Nat × Nat) : Nat := base + (r.ma * r.atm + p.1) * ex.getD 1 0 + (r.na * r.atn + p.2)
    let value (p : Nat × Nat) : Nat := match promoteExp r (f.imm.getLsbD 0) v p.1 p.2, SMap.get false e.x.innerNan (p.1 * 32 + p.2) with
     | some x, false => (fAdd fp32 0 (unpack fp32 (e.core.acmAt (entry p)).toNat) (FV.ofInt false (SMap.get 0 e.x.inner (p.1 * 32 + p.2)) x)).1
     | _, _ => fp32.qnan
    let faults (c : Cause) (v : Word) : Prop :=
     exec (.mscl h f) s = .next ((s.trapNow s.iss.core s.iss.ctx c v (slotMask [.mt])).setVerdict (.trapped c v))
    (e.acmHeld (ij.map entry) = true → faults .scheduleViolation 6) ∧
    (∀ n, e.acmHeld (ij.map entry) = false → (ij.map entry).find? (fun n => e.core.eccAcm.contains n) = some n →
     faults .eccUncorrectable (BitVec.ofNat 64 (2 * 2 ^ 60 + n))) ∧
    (e.acmHeld (ij.map entry) = false → (∀ n ∈ ij.map entry, n ∉ e.core.eccAcm) →
    exec (.mscl h f) s = .next ((e.acmWrite ((e.bind u s).modCtx s.iss.core s.iss.ctx (fun x => { x with inner := [], innerNan := [], owed := x.owed.erase 6 })) 4
     (ij.map (fun p => (entry p, BitVec.ofNat 32 (value p))))).setVerdict .committed))))
   ∧ (∀ (h : Hd) (f : RFmt) (s : State),
   let e := s.env .mt h
   let a := e.x.tReg f.sa.toNat
   let b := e.x.tReg f.sb.toNat
   let c := e.x.tReg f.sc.toNat
   (∀ u x y z, Ready .mmul .mt (mkR Op.mmul.code h f) h s → e.matrixFull = false → e.matType a.tw b.tw c.tw false = .ok u → e.matStore u a b c = .ok (x, y, z) →
    exec (.mmul h f) s = .next ((e.issue (e.retT (e.bind u s) f.dst z.tw c.desc) (e.job (.matmul x y z) (engFlag f.imm) none
     (e.tileRegion x ++ e.tileRegion y) (e.tileRegion z))).setVerdict .committed)) ∧
   (∀ u x y z sc rs, Ready .mgo .mt (mkR Op.mgo.code h f) h s → e.x.tmpl = none → e.matrixFull = false → nestBad .matrix e.x.mtab = false →
    e.matType a.tw b.tw c.tw (h.fmt.toNat ≠ 0) = .ok u → e.matStore u a b c = .ok (x, y, z) →
    e.nestScale h.fmt.toNat (bits f.imm.toNat 6 5) x.tw y.tw = .ok (sc, rs) →
    exec (.mgo h f) s = .next ((e.issue (e.bind u s) (e.job (.nest e.x.mtab e.x.sr.slr x y z sc) (engFlag f.imm) none
     (e.tileRegion x ++ e.tileRegion y ++ rs) (e.tileRegion z))).setVerdict .committed)) ∧
   (∀ t, e.x.tmpl = some t → let v := BitVec.ofNat 64 (0x07 * 8 + Slot.mt.num)
    let faults (i : Instr) : Prop :=
     exec i s = .next ((s.trapNow s.iss.core s.iss.ctx .engineError v (slotMask [.mt])).setVerdict (.trapped .engineError v))
    (Ready .mgo .mt (mkR Op.mgo.code h f) h s → e.matrixFull = false → faults (.mgo h f)) ∧
    (Ready .mgoTm .mt (mkR Op.mgoTm.code h f) h s → faults (.mgoTm h f))) ∧
   (Ready .mgoTm .mt (mkR Op.mgoTm.code h f) h s → e.x.tmpl = none → nestBad .template e.x.mtab = false →
    exec (.mgoTm h f) s = .next ((if nestIters e.x.mtab e.x.sr.slr = 0 then s else s.modCtx s.iss.core s.iss.ctx (fun x =>
     { x with tmpl := some ⟨s.iss.pc.succ, s.iss.pc.edge, e.x.mtab, e.x.sr.slr, 0, 0⟩ })).setVerdict .committed)) ∧
   ∀ r ∈ ([(.mepi, .mepi, false), (.mepiq, .mepiq, true)] : List ((Hd → RFmt → Instr) × Op × Bool)),
    let d := e.x.tReg f.dst.toNat
    let be := f.imm.getLsbD 10
    ∀ al u x z (y : Option TileOp), Ready r.2.1 .mt (mkR r.2.1.code h f) h s → e.matrixFull = false → e.srcS f.sb = .ok al →
    e.unify ([⟨0, a.tw, .oneOf [2], .oneOf [1], .oneOf [0], .oneOf [0], [.sym 0, .sym 1]⟩] ++
     (if be then [⟨2, c.tw, .oneOf [1], .oneOf [1], .oneOf [0], .oneOf [0], [.sym 1]⟩] else []) ++
     [⟨4, d.tw, .oneOf [2], .oneOf (if r.2.2 then [6, 7, 8] else [1, 2, 3, 4, 5]), .oneOf (if r.2.2 then [0, 1] else [0, 1, 2, 3, 4, 5]),
      .oneOf (if r.2.2 then [if twLay d.tw = 1 then 6 else 5] else [0]), [.sym 0, .sym 1]⟩]) = .ok u →
    e.constant ([(0, a.tw)] ++ (if be then [(2, c.tw)] else []) ++ [(4, d.tw)]) u = .ok () → e.acmTile 0 (e.resolved u a.tw) a.desc = .ok x →
    (if be then ∃ o, y = some o ∧ e.dataTile 2 .jobSrc (e.resolved u c.tw) c.desc = .ok o else y = none) →
    e.storage 4 .jobDst (e.resolved u d.tw) d.desc = .ok z →
    exec (r.1 h f) s = .next ((e.issue (e.retT (e.bind u s) f.dst z.tw d.desc) (e.job (.epilogue x z y (al.extractLsb' 0 32) (h.fmt.getLsbD 0) (h.fmt.getLsbD 1)
     (BitVec.ofNat 2 (e.mode (bits f.imm.toNat 6 3))) (f.imm.getLsbD 9) r.2.2) (engFlag f.imm) none
     (e.tileRegion x ++ ((y.map e.tileRegion).getD [])) (e.tileRegion z ++ (if h.fmt.getLsbD 1 then e.tileRegion x else [])))).setVerdict .committed))

/-- A load computes its address, makes its checks in order and enters the port (R403, R404, R405, R406, R408, R409,
R410, R412, R415). The model's own choice: a register with a pending load blocks its writers too (log 37). -/
def Obligations.LoadsIssue : Prop :=
  ∀ (h : Hd) (s : State),
   let e := s.env .ld h
   (∀ r ∈ ([(.ldb, .ldb, .s, 1, .ldS 1 true),
     (.ldbz, .ldbz, .s, 1, .ldS 1 false),
     (.ldh, .ldh, .s, 2, .ldS 2 true),
     (.ldhz, .ldhz, .s, 2, .ldS 2 false),
     (.ldw, .ldw, .s, 4, .ldS 4 true),
     (.ldwz, .ldwz, .s, 4, .ldS 4 false),
     (.ldd, .ldd, .s, 8, .ldS 8 false),
     (.ldv, .ldv, .v, 128, .ldRow allBytes),
     (.ldcap, .ldcap, .a, 16, .ldCap)] :
     List ((Hd → MFmt → Instr) × Op × Cls × Nat × AccKind)),
    ∀ (f : MFmt) (c : Cap), Ready r.2.1 .ld (mkM r.2.1.code h f) h s → e.srcA f.ab = .ok c →
    let o := (c.off + f.disp.toInt) / r.2.2.2.1 * r.2.2.2.1
    e.Reaches c rR false [(o, r.2.2.2.1)] →
    exec (r.1 h f) s = .next ((e.accessed r.2.2.2.2 (some (e.dest r.2.2.1 f.dt)) (aIndex f.ab) c [ldUnit (o.toNat, r.2.2.2.1)]).setVerdict .committed)) ∧
   (∀ r ∈ ([(.lddx, .lddx, .s, 8, fun _ => .ldS 8 false),
     (.ldwx, .ldwx, .s, 4, fun _ => .ldS 4 (h.fmt = 0)),
     (.ldhx, .ldhx, .s, 2, fun _ => .ldS 2 (h.fmt = 0)),
     (.ldbx, .ldbx, .s, 1, fun _ => .ldS 1 (h.fmt = 0)),
     (.ldvx, .ldvx, .v, 128, fun _ => .ldRow allBytes),
     (.ldvm, .ldvm, .v, 128, fun f => .ldRow (e.x.mReg (bits f.imm.toNat 3 3))),
     (.ldcx, .ldcx, .a, 16, fun _ => .ldCap)] :
     List ((Hd → RFmt → Instr) × Op × Cls × Nat × (RFmt → AccKind))),
    ∀ (f : RFmt) (c : Cap) (i : Word), Ready r.2.1 .ld (mkR r.2.1.code h f) h s → e.srcA f.sa = .ok c → e.srcS f.sb = .ok i →
    let o := (c.off + i.toInt * (2 ^ (f.imm.toNat % 8) : Nat)) / r.2.2.2.1 * r.2.2.2.1
    e.Reaches c rR false [(o, r.2.2.2.1)] →
    exec (r.1 h f) s = .next ((e.accessed (r.2.2.2.2 f) (some (e.dest r.2.2.1 f.dst)) (aIndex f.sa) c [ldUnit (o.toNat, r.2.2.2.1)]).setVerdict .committed)) ∧
   (∀ (f : RFmt) (c : Cap) (idx : Row), Ready .ldg .ld (mkR Op.ldg.code h f) h s → e.srcA f.sa = .ok c → e.srcV f.sb = .ok idx →
    let w := if h.fmt = 0 then 32 else 16
    let ls := activeLanes (e.vmask f.imm) w
    let os : List Int := ls.map (fun i => (c.off + toS w (lane idx w i) * (2 ^ (f.imm.toNat % 8) : Nat)) / (w / 8 : Nat) * (w / 8 : Nat))
    e.Reaches c rR false (os.map (fun o => (o, w / 8))) →
    exec (.ldg h f) s = .next ((e.accessed (.gather w ls) (some (e.dest .v f.dst)) (aIndex f.sa) c (os.map (fun o => ldUnit (o.toNat, w / 8)))).setVerdict .committed)) ∧
   (∀ (f : MFmt) (c : Cap) (old : Row), Ready .lds .ld (mkM Op.lds.code h f) h s → e.srcV f.dt = .ok old → e.srcA f.ab = .ok c →
    let o := (c.off + f.disp.toInt) / 64 * 64
    e.Reaches c rR false [(o, 64)] →
    exec (.lds h f) s = .next ((e.accessed (.ldScale (h.fmt.getLsbD 0) old) (some (e.dest .v f.dt)) (aIndex f.ab) c [ldUnit (o.toNat, 64)]).setVerdict .committed)) ∧
   ∀ (f : RFmt) (c : Cap) (b t : Word) (old : Row), Ready .ldsx .ld (mkR Op.ldsx.code h f) h s → e.srcV f.dst = .ok old → e.srcA f.sa = .ok c →
    e.srcS f.sb = .ok b → e.srcS f.sc = .ok t →
    let os : List Int := (List.range 64).map (fun i => c.off + b.toInt + (i * (t.toNat % 2 ^ 16) : Nat))
    e.Reaches c rR false (os.map (fun o => (o, 1))) →
    exec (.ldsx h f) s = .next ((e.accessed (.ldScale (h.fmt.getLsbD 0) old) (some (e.dest .v f.dst)) (aIndex f.sa) c (os.map (fun o => ldUnit (o.toNat, 1)))).setVerdict .committed)

/-- A store or an atomic makes its checks and enters the port with its data (R403, R404, R405, R408, R409, R411,
R412, R418). -/
def Obligations.StoresIssue : Prop :=
  ∀ (h : Hd) (s : State),
   let e := s.env .st h
   let put (c : Cap) (areg : BitVec 9) (o : Int) (n : Nat) (d : Row) (en : Quad) : State :=
    e.accessed .store none (aIndex areg) c [⟨o.toNat, n, (rowBytes d).take n, en, false⟩]
   (∀ r ∈ ([(.stb, .stb, 1), (.sth, .sth, 2), (.stw, .stw, 4), (.std, .std, 8)] : List ((Hd → MFmt → Instr) × Op × Nat)), ∀ (f : MFmt) (c : Cap) (d : Word),
    Ready r.2.1 .st (mkM r.2.1.code h f) h s → e.srcS f.dt = .ok d → e.srcA f.ab = .ok c →
    let o := (c.off + f.disp.toInt) / r.2.2 * r.2.2
    e.Reaches c rW true [(o, r.2.2)] → exec (r.1 h f) s = .next ((put c f.ab o r.2.2 (d.setWidth 1024) allBytes).setVerdict .committed)) ∧
   (∀ r ∈ ([(.stbx, .stbx, 1), (.sthx, .sthx, 2), (.stwx, .stwx, 4), (.stdx, .stdx, 8)] : List ((Hd → RFmt → Instr) × Op × Nat)), ∀ (f : RFmt) (c : Cap) (i d : Word),
    Ready r.2.1 .st (mkR r.2.1.code h f) h s → e.srcS f.sb = .ok i → e.srcS f.sc = .ok d → e.srcA f.sa = .ok c →
    let o := (c.off + i.toInt * (2 ^ (f.imm.toNat % 8) : Nat)) / r.2.2 * r.2.2
    e.Reaches c rW true [(o, r.2.2)] → exec (r.1 h f) s = .next ((put c f.sa o r.2.2 (d.setWidth 1024) allBytes).setVerdict .committed)) ∧
   (∀ (f : MFmt) (c : Cap) (d : Row), Ready .stv .st (mkM Op.stv.code h f) h s → e.srcV f.dt = .ok d → e.srcA f.ab = .ok c →
    let o := (c.off + f.disp.toInt) / 128 * 128
    e.Reaches c rW true [(o, 128)] → exec (.stv h f) s = .next ((put c f.ab o 128 d allBytes).setVerdict .committed)) ∧
   (∀ r ∈ ([(.stvx, .stvx, fun _ => allBytes), (.stvm, .stvm, fun f => e.x.mReg (bits f.imm.toNat 3 3))] : List ((Hd → RFmt → Instr) × Op × (RFmt → Quad))),
    ∀ (f : RFmt) (c : Cap) (i : Word) (d : Row), Ready r.2.1 .st (mkR r.2.1.code h f) h s → e.srcS f.sb = .ok i → e.srcV f.sc = .ok d → e.srcA f.sa = .ok c →
    let o := (c.off + i.toInt * (2 ^ (f.imm.toNat % 8) : Nat)) / 128 * 128
    e.Reaches c rW true [(o, 128)] → exec (r.1 h f) s = .next ((put c f.sa o 128 d (r.2.2 f)).setVerdict .committed)) ∧
   (∀ (f : RFmt) (c : Cap) (idx d : Row), Ready .sct .st (mkR Op.sct.code h f) h s → e.srcA f.sa = .ok c → e.srcV f.sb = .ok idx → e.srcV f.sc = .ok d →
    let w := if h.fmt = 0 then 32 else 16
    let ls := activeLanes (e.vmask f.imm) w
    let os : List Int := ls.map (fun i => (c.off + toS w (lane idx w i) * (2 ^ (f.imm.toNat % 8) : Nat)) / (w / 8 : Nat) * (w / 8 : Nat))
    e.Reaches c rW true (os.map (fun o => (o, w / 8))) →
    exec (.sct h f) s = .next ((e.accessed .store none (aIndex f.sa) c ((ls.zip os).map (fun p =>
     ⟨p.2.toNat, w / 8, bytesOf (w / 8) (lane d w p.1), allBytes, false⟩))).setVerdict .committed)) ∧
   (∀ (f : MFmt) (d c : Cap), Ready .stcap .st (mkM Op.stcap.code h f) h s → e.srcA f.dt = .ok d → e.srcA f.ab = .ok c →
    let o := (c.off + f.disp.toInt) / 16 * 16
    (d.valid = true → d.rights &&& rG ≠ 0) → e.Reaches c (if d.valid then rW ||| rScap else rW) true [(o, 16)] →
    exec (.stcap h f) s = .next ((e.accessed .stCap none (aIndex f.ab) c [⟨o.toNat, 16, bytesOf 16 d.bits.toNat, allBytes, d.valid⟩]).setVerdict .committed)) ∧
   ∀ r ∈ ([(.aadd, .aadd, .add), (.amin, .amin, .min), (.amax, .amax, .max), (.aminu, .aminu, .minu), (.amaxu, .amaxu, .maxu), (.aand, .aand, .and), (.aor, .aor, .or), (.axor, .axor, .xor), (.axch, .axch, .xch), (.acas, .acas, .cas), (.afadd, .afadd, .fadd)] : List ((Hd → RFmt → Instr) × Op × AtomOp)), ∀ (f : RFmt) (c : Cap) (b v : Word),
    Ready r.2.1 .st (mkR r.2.1.code h f) h s → e.srcS f.sb = .ok b → (if r.2.2 = .cas then e.srcS f.sc = .ok v else v = 0) → e.srcA f.sa = .ok c →
    let n : Nat := if h.fmt = 0 then 4 else 8
    let o := (c.off + f.imm.toInt) / n * n
    e.Reaches c (rR ||| rW) true [(o, n)] →
    exec (r.1 h f) s = .next ((e.accessed (.atomic r.2.2 (8 * n) b v) (some (e.dest .s f.dst)) (aIndex f.sa) c [ldUnit (o.toNat, n)]).setVerdict .committed)

/-- Typed accesses, rinks and load blocks (R413, R414, R211, R194, R195, R197, R416, R417). -/
def Obligations.TypedAccessesIssue : Prop :=
  (∀ (h : Hd) (s : State),
   let loads (i : Instr) (dt sa : BitVec 9) (c : Cap) (eo : Int) : Prop :=
    let e := s.env .ld h
    let t := e.x.tReg dt.toNat
    let o := eo / 128 * 128
    c.Allows (rR ||| rT) o 0 → e.dimPending (twVars t.tw) = false →
    (∀ w u tw, e.objOf c = some w → e.typedCheck 4 (aIndex sa) false c o t.tw t.desc w = .ok (u, tw) →
     let us := typedUnits tw w.pitch o.toNat none
     let rows := e.descRows t.desc (imageRows tw (twExts tw))
     e.overlaps false (us.map (fun p => (w.base + p.1, p.2))) = false → e.rowCheck [] rows = .ok () →
     exec i s = .next ((e.putAccess (e.retT (e.bind u s) dt t.tw t.desc) (.ldTile tw t.desc rows) (some ⟨.t, dt.toNat, rows, [], [], false⟩)
      (aIndex sa) c o (us.map ldUnit) true).setVerdict .committed)) ∧
    (e.objOf c = none → e.rowCheck [] (e.descRows t.desc (dCount t.desc)) = .ok () →
     exec i s = .next ((e.putAccess s (.ldTile t.tw t.desc (e.descRows t.desc (dCount t.desc)))
      (some ⟨.t, dt.toNat, e.descRows t.desc (dCount t.desc), [(.t, dt.toNat)], twVars t.tw, true⟩) (aIndex sa) c o [] false).setVerdict .committed))
   let stores (i : Instr) (dt sa : BitVec 9) (c : Cap) (eo : Int) : Prop :=
    let e := s.env .st h
    let t := e.x.tReg dt.toNat
    let o := eo / 128 * 128
    c.Allows (rW ||| rT) o 0 → e.dimPending (twVars t.tw) = false →
    (∀ w u tw, e.objOf c = some w → e.typedCheck 0 (aIndex sa) true c o t.tw t.desc w = .ok (u, tw) →
     let rows := e.descRows t.desc (imageRows tw (twExts tw))
     let us := typedStoreUnits tw w.pitch o.toNat (rows.map e.core.row)
     e.rowCheck rows [] = .ok () → e.overlaps true (us.map (fun p => (w.base + p.off, p.len))) = false →
     exec i s = .next ((e.putAccess (e.bind u s) (.stTile tw t.desc (rows.map e.core.row)) none (aIndex sa) c o us true).setVerdict .committed)) ∧
    (e.objOf c = none → e.rowCheck (e.descRows t.desc (dCount t.desc)) [] = .ok () →
     exec i s = .next ((e.putAccess s (.stTile t.tw t.desc ((e.descRows t.desc (dCount t.desc)).map e.core.row))
      (some ⟨.t, dt.toNat, [], [(.t, dt.toNat)], twVars t.tw, false⟩) (aIndex sa) c o [] false).setVerdict .committed))
   (∀ (f : MFmt) (c : Cap), (s.env .ld h).srcA f.ab = .ok c → Ready .ldt .ld (mkM Op.ldt.code h f) h s → loads (.ldt h f) f.dt f.ab c (c.off + f.disp.toInt)) ∧
   (∀ (f : RFmt) (c : Cap) (i : Word), (s.env .ld h).srcA f.sa = .ok c → (s.env .ld h).srcS f.sb = .ok i → Ready .ldtx .ld (mkR Op.ldtx.code h f) h s →
    loads (.ldtx h f) f.dst f.sa c (c.off + i.toInt * (2 ^ (f.imm.toNat % 8) : Nat))) ∧
   (∀ (f : MFmt) (c : Cap), (s.env .st h).srcA f.ab = .ok c → Ready .stt .st (mkM Op.stt.code h f) h s → stores (.stt h f) f.dt f.ab c (c.off + f.disp.toInt)) ∧
   ∀ (f : RFmt) (c : Cap) (i : Word), (s.env .st h).srcA f.sa = .ok c → (s.env .st h).srcS f.sb = .ok i → Ready .sttx .st (mkR Op.sttx.code h f) h s →
    stores (.sttx h f) f.sc f.sa c (c.off + i.toInt * (2 ^ (f.imm.toNat % 8) : Nat)))
   ∧ (∀ (h : Hd) (s : State),
   (∀ (f : RFmt), Ready .pop .ld (mkR Op.pop.code h f) h s →
    let e := s.env .ld h
    let r := e.core.rink f.sa.toNat
    (r.defd = false → let v := BitVec.ofNat 64 (3 * 8 + f.sa.toNat)
     exec (.pop h f) s = .next ((s.trapNow s.iss.core s.iss.ctx .engineError v (slotMask [.ld])).setVerdict (.trapped .engineError v))) ∧
    (r.defd = true → r.filled = 0 → exec (.pop h f) s = .next ((s.block s.iss.core s.iss.ctx 2).setVerdict (.blocked 2))) ∧
    (r.defd = true → r.filled ≠ 0 → e.rowCheck [r.base + r.head] [] = .ok () → ∃ t, exec (.pop h f) s = .next t ∧
     (t.core s.iss.core).rink f.sa.toNat = r.pop ∧ t.mem = s.mem ∧
     ∃ q : Result, (t.ctx s.iss.core s.iss.ctx).flight = e.x.flight ++ [q] ∧ q.due = e.core.cycle + 2 ∧ q.lval = e.core.row (r.base + r.head) ∧ q.w = h.w)) ∧
   (∀ (f : RFmt) (v : Row), Ready .push .st (mkR Op.push.code h f) h s → (s.env .st h).srcV f.sc = .ok v →
    let e := s.env .st h
    let r := e.core.rink f.sa.toNat
    (r.defd = true → r.src = false → r.free = 0 → exec (.push h f) s = .next ((s.block s.iss.core s.iss.ctx 2).setVerdict (.blocked 2))) ∧
    (r.defd = true → r.src = false → r.free ≠ 0 → e.rowCheck [] [r.base + (r.head + r.filled + r.infl) % r.slots] = .ok () → ∃ t, exec (.push h f) s = .next t ∧
     (t.core s.iss.core).row (r.base + (r.head + r.filled + r.infl) % r.slots) = v ∧ t.mem = s.mem ∧
     (t.core s.iss.core).rink f.sa.toNat = { r with free := r.free - 1, filled := r.filled + 1 })) ∧
   ∀ (f : EFmt), Ready .lbd .ld (mkE Op.lbd.code h f) h s →
    let e := s.env .ld h
    let n := (f.imm18.extractLsb' 11 7).toNat
    (n = 0 → exec (.lbd h f) s = .next (((s.clearWait (.loadBlock s.iss.core (f.mod.toNat % 16))).modCore s.iss.core (fun c => ({ c with
     lbs := SMap.set LoadBlock.init c.lbs (f.mod.toNat % 16) LoadBlock.init } : Core).postFlag f.flag.toNat 1 e.x.pts)).setVerdict .committed)) ∧
    ∀ c o, n ≠ 0 → e.srcA f.sa = .ok c → o = (c.off + (f.imm18.extractLsb' 0 11).toInt * 64) / 64 * 64 → c.Allows rR o (64 * n) →
     (∀ w, e.objOf c = some w → o + (64 * n : Nat) ≤ w.len) → ∃ t, exec (.lbd h f) s = .next t ∧ t.mem = s.mem ∧
     SMap.get LoadBlock.init (t.core s.iss.core).lbs (f.mod.toNat % 16) =
      ⟨.filling, c, o.toNat, n, f.flag, s.spaceOf s.iss.core, s.iss.ctx, []⟩)

/-- The port performs its accesses in order, and a load lands what it read (R273, R186, R297, R408, R409, R412,
R415, R418). The model's own choice: every access performs unit by unit in one turn (log 53). -/
def Obligations.PortSteps : Prop :=
  (∀ (s : State) (ci k : Nat) (p : PortEntry) (a : Acc) (o : ObjEntry), s.front ci k = some (p, a) →
   ((s.ctx ci k).status = .idle → s.outFaults.any (fun f => f.req = .ctx ci k) = false) → a.checked = true →
   (a.finished = true → exec (.loadReturn ci k) s = .next (s.finishAcc ci k a)) ∧
   (a.finished = false → s.object ci (s.spaceOf ci) a.cap.obj = none → exec (.loadReturn ci k) s = .next s) ∧
   (a.finished = false → s.object ci (s.spaceOf ci) a.cap.obj = some o → ∀ u, a.units[a.pos]? = some u →
    let s' := s.cacheObject ci (s.spaceOf ci) a.cap.obj
    match s'.tlbFind (.ctx ci k) (s.spaceOf ci) (o.base + u.off) a.kind.writes false with
    | none => exec (.loadReturn ci k) s = .next s
    | some (pa, key) =>
     let r := s'.performUnit ci k a u pa key
     let b := { r.2 with pos := r.2.pos + 1 }
     exec (.loadReturn ci k) s = .next (if b.finished then r.1.finishAcc ci k b else r.1.setFront ci k b)))
   ∧ (∀ (a : Acc) (b : List Byte), a.got = [b] →
   (∀ n sg, a.kind = .ldS n sg → b.length = n → n ∈ [1, 2, 4, 8] →
    a.value.1 = ((if sg then BitVec.ofInt 64 (BitVec.ofNat (8 * n) (ofBytes b)).toInt else BitVec.ofNat 64 (ofBytes b)).setWidth 1024)) ∧
   (∀ m i, a.kind = .ldRow m → i < 128 → b.length = 128 →
    a.value.1.extractLsb' (8 * i) 8 = if m.getLsbD i then b.getD i 0 else 0) ∧
   (a.kind = .ldCap → a.value.2.2 = (a.ctag && a.cap.rights &&& rLcap ≠ 0)) ∧
   (∀ op n x y, a.kind = .atomic op n x y → n ∈ [32, 64] → b.length = n / 8 →
    a.value.1 = ((if op = .minu ∨ op = .maxu ∨ op = .fadd then BitVec.ofNat 64 (ofBytes b) else BitVec.ofInt 64 (BitVec.ofNat n (ofBytes b)).toInt).setWidth 1024)) ∧
   (∀ hi old, a.kind = .ldScale hi old → b.length = 64 →
    a.value.1.extractLsb' (if hi then 512 else 0) 512 = BitVec.ofNat 512 (ofBytes b) ∧
    a.value.1.extractLsb' (if hi then 0 else 512) 512 = old.extractLsb' (if hi then 0 else 512) 512))

/-- The copy table and the copy gos (R242, R248, R249, R250, R423, R424, R425). -/
def Obligations.CopyGos : Prop :=
  ∀ (h : Hd) (s : State),
   let e := s.env .eg h
   let t := e.x.ctab
   let slr := e.x.sr.slr
   (∀ (f : RFmt) (a : Word), Ready .ctw .eg (mkR Op.ctw.code h f) h s → e.srcS f.sa = .ok a →
    exec (.ctw h f) s = .next ((s.modCtx s.iss.core s.iss.ctx (fun x => { x with ctab := tabWrite x.ctab (f.imm.toNat % 16) a (BitVec.allOnes 64) })).setVerdict .committed)) ∧
   (∀ (f : LFmt), Ready .ctwi .eg (mkL Op.ctwi.code h f) h s →
    exec (.ctwi h f) s = .next ((s.modCtx s.iss.core s.iss.ctx (fun x => { x with
     ctab := tabWrite x.ctab (bits f.imm.toNat 34 4) ((f.imm.extractLsb' 0 32).setWidth 64 <<< (if f.imm.getLsbD 33 then 32 else 0))
      ((0xFFFFFFFF : Word) <<< (if f.imm.getLsbD 33 then 32 else 0)) })).setVerdict .committed)) ∧
   (∀ (f : RFmt), Ready .ctr .eg (mkR Op.ctr.code h f) h s →
    exec (.ctr h f) s = .next ((e.flyS 1 f.dst (tabWord e.x.ctab (f.imm.toNat % 16)) 0).setVerdict .committed)) ∧
   (∀ r ∈ ([(.cgomm, .cgomm, .m, .m), (.cgomd, .cgomd, .m, .d), (.cgome, .cgome, .m, .e), (.cgoma, .cgoma, .m, .a), (.cgomk, .cgomk, .m, .k), (.cgodm, .cgodm, .d, .m), (.cgodd, .cgodd, .d, .d), (.cgode, .cgode, .d, .e), (.cgoda, .cgoda, .d, .a), (.cgodk, .cgodk, .d, .k), (.cgoam, .cgoam, .a, .m), (.cgoad, .cgoad, .a, .d), (.cgoae, .cgoae, .a, .e), (.cgoaa, .cgoaa, .a, .a), (.cgoak, .cgoak, .a, .k)] :
     List ((Hd → EFmt → Instr) × Op × CpStore × CpStore)), ∀ (f : EFmt), Ready r.2.1 .eg (mkE r.2.1.code h f) h s →
    (e.copyFull = true → exec (r.1 h f) s = .next ((s.block s.iss.core s.iss.ctx 3).setVerdict (.blocked 3))) ∧
    (e.copyFull = false → h.fmt ≠ 0 → h.fmt ≠ 5 → let v := BitVec.ofNat 64 (6 * 8)
     exec (r.1 h f) s = .next ((s.trapNow s.iss.core s.iss.ctx .engineError v (slotMask [.eg])).setVerdict (.trapped .engineError v))) ∧
    ∀ (a d : CpOperand) (ra rd : List Region) (idx : Option (Cap × List Region)), e.copyFull = false → h.fmt = 0 → nestBad .copy t = false →
     f.mod.getLsbD 4 = decide (nIdx t ≠ 0) → (r.2.2.2 = .a → f.mod.toNat % 4 < 2) →
     let idle := decide (nestIters t slr = 0)
     e.cpOperand r.2.2.1 f.sa 0 (nestReach t slr 0).1 (nestReach t slr 0).2 (2 ^ nUsz t) (decide (nIdx t = 1)) idle = .ok (a, ra) →
     e.cpOperand r.2.2.2 f.dst 1 (nestReach t slr 1).1 (nestReach t slr 1).2 (2 ^ nUsz t) (decide (nIdx t = 2)) idle = .ok (d, rd) →
     (match idx with
      | none => f.mod.getLsbD 4 = false
      | some (c, ri) => f.mod.getLsbD 4 = true ∧ e.cpOperand .m f.sb 2 (nestReach t slr 2).1 (nestReach t slr 2).2 4 false idle = .ok (.mem c, ri)) →
     exec (r.1 h f) s = .next ((e.command s (.plain t slr a d (idx.map (·.1)) (if r.2.2.2 = .a then f.mod.extractLsb' 0 2 else 0)
      (decide (r.2.2.2 = .a) && f.mod.getLsbD 2)) (fvFlag f) (ra ++ (idx.map (·.2)).getD []) rd).setVerdict .committed)) ∧
   (∀ (field : BitVec 9) (role : Nat) (lo hi : Int) (u : Nat) (c : Cap), e.srcA field = .ok c →
    let a := (c.off + lo) / u * u
    let n := ((c.off + hi) / u * u + u - a).toNat
    e.EngAllows c (if role = 1 then rW else rR) a n → e.cpOperand .m field role lo hi u false false = .ok (.mem c, e.memRegion c a n)) ∧
   ∀ (f : EFmt) (c : Cap) (v : Word), Ready .cgome .eg (mkE Op.cgome.code h f) h s → e.copyFull = false → h.fmt = 5 → f.mod.getLsbD 4 = false →
    e.srcA f.sa = .ok c → e.srcS f.dst = .ok v → c.Allows (rX ||| rE) c.off 16 →
    exec (.cgome h f) s = .next ((e.command s (.expand c (v.getLsbD 10) (v.toNat % 1024)) (fvFlag f)
     (e.memRegion c c.off (c.len - c.off.toNat)) [.edge (v.getLsbD 10) (v.toNat % 1024) 1024]).setVerdict .committed)

/-- Commands to rinks, the merge network, the prefix index, the work distributor and the storage and fabric engines
(R421, R422, R426, R428, R429, R431, R432, R433, R434, R439, R440). The model's own choice: the regions of
XROUTE, LAUNCH and MOPEN (log 47), and those of a prefix-index command (log 27). -/
def Obligations.ServiceCommands : Prop :=
  ∀ (h : Hd) (f : EFmt) (s : State),
   let e := s.env .eg h
   let goes (i : Instr) (t : State) : Prop := exec i s = .next (t.setVerdict .committed)
   let mergeRoom : Prop := s.jobCount (s.coresWith (fun n => n / 16 = s.iss.core / 16)) JobKind.isMerge < 16
   let m := s.merge s.iss.core
   let own : Prop := m.st ≠ .idle ∧ m.task = s.taskIdOf s.iss.core
   let wdRoom : Prop := ((s.ctxJobs s.iss.core s.iss.ctx).filter (fun j => JobKind.isWd j.kind)).length < 4
   (∀ v : Word, Ready .rkdef .eg (mkE Op.rkdef.code h f) h s → e.srcS f.sb = .ok v → (e.core.rink f.sa.toNat).infl = 0 →
    (1 ≤ fld v 16 9 → fld v 16 9 ≤ 256 → fld v 0 11 + fld v 16 9 ≤ e.x.dflen →
     goes (.rkdef h f) (s.modCore s.iss.core (fun c => c.setRink f.sa.toNat
      ⟨true, f.mod.getLsbD 0, 0, e.x.dfbase + fld v 0 11, fld v 16 9, fld v 16 9, 0, 0, []⟩))) ∧
    (fld v 16 9 = 0 ∨ 256 < fld v 16 9 ∨ e.x.dflen < fld v 0 11 + fld v 16 9 → let x := BitVec.ofNat 64 (8 + f.sa.toNat)
     exec (.rkdef h f) s = .next ((s.trapNow s.iss.core s.iss.ctx .engineError x (slotMask [.eg])).setVerdict (.trapped .engineError x)))) ∧
   (∀ c : Cap, Ready .mopen .eg (mkE Op.mopen.code h f) h s → mergeRoom → e.srcA f.sa = .ok c → let o := c.off / 16 * 16
    e.EngAllows c rR o 80 →
    goes (.mopen h f) (e.query (.mopen (c.withOff o) (fld e.x.sr.mcap 0 16)) (some f.flag) [(.s, f.dst.toNat)] (e.memRegion c o 80)
     (match e.peek c.obj o.toNat 80 with
      | none => allMemory
      | some b => let v := getLe b 64 16
       if 2 ^ 112 ≤ v then []
       else s.brefRegion s.iss.core (s.spaceOf s.iss.core) ⟨bits v 0 24, bits v 24 48, min 32 (bits v 72 40)⟩))) ∧
   (∀ r ∈ ([(.mpush, .mpush, false), (.mpushe, .mpushe, true)] : List ((Hd → EFmt → Instr) × Op × Bool)), ∀ (v : Row) (b : Word),
    Ready r.2.1 .eg (mkE r.2.1.code h f) h s → e.srcV f.sa = .ok v → e.srcS f.sb = .ok b → mergeRoom → own →
    goes (r.1 h f) (e.command s (.mpush (b.toNat % 16) ((List.range (f.mod.toNat % 16)).map (fun i =>
     (BitVec.ofNat 64 (lane v 64 (2 * i)), BitVec.ofNat 32 (lane v 32 (4 * i + 2))))) r.2.2) none [] (e.mergeRegions [Merge.spill, Merge.out]))) ∧
   (Ready .mclose .eg (mkE Op.mclose.code h f) h s → mergeRoom → own → goes (.mclose h f) (e.command s .mclose none
    (e.mergeRegions [Merge.spill]) (e.mergeRegions [Merge.spill, Merge.out, Merge.ptr, Merge.stat]))) ∧
   (∀ r ∈ ([(.mpush, .mpush), (.mpushe, .mpushe), (.mclose, .mclose)] : List ((Hd → EFmt → Instr) × Op)), ∀ (v : Row) (b : Word),
    Ready r.2 .eg (mkE r.2.code h f) h s → e.srcV f.sa = .ok v → e.srcS f.sb = .ok b → mergeRoom → ¬ own → let x := BitVec.ofNat 64 (8 * 8)
    exec (r.1 h f) s = .next ((s.trapNow s.iss.core s.iss.ctx .engineError x (slotMask [.eg])).setVerdict (.trapped .engineError x))) ∧
   (Ready .mstat .eg (mkE Op.mstat.code h f) h s → mergeRoom → own ∨ m.st = .idle →
    goes (.mstat h f) (e.query .mstat none [(.s, f.dst.toNat)] [] [])) ∧
   (∀ r ∈ ([(.pxlkp, .pxlkp, 1), (.pxins, .pxins, 2), (.pxfrk, .pxfrk, 3), (.pxapp, .pxapp, 4), (.pxrel, .pxrel, 5)] : List ((Hd → EFmt → Instr) × Op × Nat)), ∀ c : Cap,
    Ready r.2.1 .eg (mkE r.2.1.code h f) h s → s.pxHeld (s.iss.core / 256) < 64 →
    e.srcA f.sa = .ok c → let o := c.off / 32 * 32
    e.EngAllows c (rR ||| rW) o 32 →
    goes (r.1 h f) (e.command s (.px r.2.2 (c.withOff o)) (some f.flag) (e.pxRegions r.2.2 c o).1 (e.pxRegions r.2.2 c o).2)) ∧
   (∀ (c : Cap) (t : Word) (v : Row), Ready .xroute .eg (mkE Op.xroute.code h f) h s → wdRoom → e.srcA f.sa = .ok c → e.srcS f.sb = .ok t → e.srcV f.sc = .ok v →
    e.EngAllows c (rR ||| rW) c.off 128 →
    goes (.xroute h f) (e.query (.xroute c (t.extractLsb' 0 32) ((List.range (fld e.x.sr.rdepth 0 4)).map (fun i =>
     (BitVec.ofNat 32 (lane v 32 (2 * i)), BitVec.ofNat 32 (lane v 32 (2 * i + 1)))))) (fvFlag f) [(.s, f.dst.toNat)] (e.memRegion c c.off 128) (e.groupRegions c))) ∧
   (Ready .take .eg (mkE Op.take.code h f) h s → wdRoom →
    goes (.take h f) (e.query .take none [(.s, f.dst.toNat), (.s, f.dst.toNat + 1)] [] [])) ∧
   (∀ c : Cap, Ready .launch .eg (mkE Op.launch.code h f) h s → wdRoom → e.srcA f.sa = .ok c → let o := c.off / 64 * 64
    e.EngAllows c rR o 64 →
    goes (.launch h f) (e.query (.launch (c.withOff o)) (fvFlag f) [(.s, f.dst.toNat)] (e.memRegion c o 64) [])) ∧
   (∀ (a : Cap) (b c : Word), Ready .sgrd .eg (mkE Op.sgrd.code h f) h s → s.jobCount [s.iss.core] JobKind.isSgrd < 32 → e.srcA f.sa = .ok a → e.srcS f.sb = .ok b → e.srcS f.sc = .ok c →
    let n := match e.objOf a with
     | some o => if o.tw then o.len - a.off.toNat else a.len - a.off.toNat
     | none => a.len - a.off.toNat
    e.EngAllows a rW a.off n →
    goes (.sgrd h f) (e.query (.sgrd a b (c.toNat % 64) (fld c 32 32) n) (fvFlag f) [(.s, f.dst.toNat)] [] (e.memRegion a a.off n))) ∧
   (Ready .rplack .eg (mkE Op.rplack.code h f) h s →
    goes (.rplack h f) (e.command s (.rplack (f.mod.getLsbD 4) e.x.replayIds) (fvFlag f) [] []))

/-- Sends, receives, block transfers and collectives (R421, R435, R436, R437, R438). The model's own choice: the
regions that COLL holds (log 47), and those of a window without a valid entry (log 60). -/
def Obligations.FabricCommands : Prop :=
  ∀ (h : Hd) (f : EFmt) (s : State),
   let e := s.env .eg h
   let goes (i : Instr) (t : State) : Prop := exec i s = .next (t.setVerdict .committed)
   (∀ (b c : Word) (u : Uni) (x : TileOp), Ready .send .eg (mkE Op.send.code h f) h s → e.srcS f.sb = .ok b → e.srcS f.sc = .ok c →
    s.jobCount [s.iss.core] JobKind.isSend < 16 → let t := e.x.tReg f.sa.toNat
    e.unify [⟨0, t.tw, .any, .any, .any, .any, []⟩] = .ok u → twRank t.tw ≠ 0 → e.constant [(0, t.tw)] u = .ok () →
    e.dataTile 0 .jobSrc (e.resolved u t.tw) t.desc = .ok x →
    goes (.send h f) (e.query (.send x (b.extractLsb' 0 24) (c.extractLsb' 0 16)) (fvFlag f) [(.s, f.dst.toNat)] (e.tileRegion x) [])) ∧
   (∀ r ∈ ([(.recv, .recv, true), (.recva, .recva, false)] : List ((Hd → EFmt → Instr) × Op × Bool)), ∀ (b c : Word),
    Ready r.2.1 .eg (mkE r.2.1.code h f) h s → e.srcS f.sb = .ok b → e.srcS f.sc = .ok c →
    ((s.ctxJobs s.iss.core s.iss.ctx).filter (fun j => JobKind.isRecv j.kind)).length < 16 →
    let t := e.x.tReg f.dst.toNat
    let src := if r.2.2 then some (b.extractLsb' 0 24) else none
    let tw := twWith t.tw (e.extents t.tw)
    e.dimPending (twVars t.tw) = false → e.uniForm [⟨4, t.tw, .any, .any, .any, .any, []⟩] = .ok () →
    (dKind t.desc = 1 → e.rowsPending ((List.range (dCount t.desc)).map (e.x.dfbase + dRow t.desc + ·)) = false →
     goes (r.1 h f) (e.query (.recv ⟨tw, t.desc, Cap.zero⟩ src (c.extractLsb' 0 16) f.dst.toNat) (fvFlag f) [(.t, f.dst.toNat)] []
      [.rows (e.x.dfbase + dRow t.desc) (e.x.dfbase + dRow t.desc + dCount t.desc)])) ∧
    (dKind t.desc = 2 → let a := e.x.aReg (dAreg t.desc)
     let eo := a.off + dOffset t.desc
     e.EngAllows a (rW ||| rT) eo 0 →
     goes (r.1 h f) (e.query (.recv ⟨tw, t.desc, a.withOff eo⟩ src (c.extractLsb' 0 16) f.dst.toNat) (fvFlag f) [(.t, f.dst.toNat)] []
      (match e.objOf a with
       | some o => e.memRegion a eo (min a.len o.len - eo.toNat)
       | none => e.memRegion a eo (a.len - eo.toNat))))) ∧
   (∀ (a b : Cap) (c : Word), Ready .bxfer .eg (mkE Op.bxfer.code h f) h s → s.jobCount [s.iss.core] JobKind.isSend < 16 →
    e.srcA f.sa = .ok a → e.srcA f.sb = .ok b → e.srcS f.sc = .ok c → let n := (a.len - a.off).toNat
    e.EngAllows a rR a.off n → b.Allows (rW ||| rE) b.off n →
    goes (.bxfer h f) (e.query (.bxfer a b (c.extractLsb' 0 24) (c.extractLsb' 24 5) (c.getLsbD 29)) (fvFlag f) [(.s, f.dst.toNat)] (e.memRegion a a.off n) [])) ∧
   (∀ (a b c : Cap), Ready .coll .eg (mkE Op.coll.code h f) h s → s.jobCount [s.iss.core] JobKind.isColl < 8 →
    e.srcA f.sa = .ok a → e.srcA f.sb = .ok b → e.srcA f.sc = .ok c → e.EngAllows a rR a.off 16 →
    goes (.coll h f) (e.query (.coll a b c e.x.fgrp) (fvFlag f) [(.s, f.dst.toNat)]
     (e.memRegion a a.off 16 ++ e.memRegion b b.off (b.len - b.off.toNat)) (e.memRegion c c.off (c.len - c.off.toNat))))

/-- Waits on flags (R442, R443, R271, R272, R273). The model's own choice: what its context issued before a wait
performs first, as far as it can, and the wait blocks while something cannot (log 37). -/
def Obligations.FlagWaits : Prop :=
  ∀ (h : Hd) (f : EFmt) (s : State),
   let e := s.env .sy h
   let g := e.core.flag f.flag.toNat
   let ci := s.iss.core
   let ok (i : Instr) (t : State) : Prop := exec i s = .next (t.setVerdict .committed)
   let blocks (i : Instr) : Prop := exec i s = .next ((s.block ci s.iss.ctx 0).setVerdict (.blocked 0))
   let counted (l : List Nat) : State :=
    s.modCtx ci s.iss.ctx (fun x => { x with pts := (l.map (SMap.get 0 (s.core ci).flagTs)).foldl max x.pts })
   (∀ r ∈ ([(.wait, .wait), (.waitPh, .waitPh), (.waits, .waits), (.waitm, .waitm)] : List ((Hd → EFmt → Instr) × Op)), ∀ a : Word,
    e.x.port ≠ [] → (r.2 = .waitm → ∃ i, i < 32 ∧ a.getLsbD i = true) → Ready r.2 .sy (mkE r.2.code h f) h s → e.srcS f.sa = .ok a → blocks (r.1 h f)) ∧
   (∀ a : Word, Ready .waitm .sy (mkE Op.waitm.code h f) h s → e.srcS f.sa = .ok a → (∀ i, i < 32 → a.getLsbD i = false) →
    ∃ t, ok (.waitm h f) t ∧ t.mem = s.mem ∧ (t.core ci).flags = (s.core ci).flags) ∧ (e.x.port = [] →
   (Ready .wait .sy (mkE Op.wait.code h f) h s → g.ovf = false →
    (f.imm18.toNat ≤ g.cnt.toNat → ok (.wait h f) (counted [f.flag.toNat])) ∧ (g.cnt.toNat < f.imm18.toNat → blocks (.wait h f))) ∧
   (Ready .wait .sy (mkE Op.wait.code h f) h s → g.ovf = true → exec (.wait h f) s = .next ((s.overflow ci s.iss.ctx f.flag.toNat).setVerdict (.overflow f.flag.toNat))) ∧
   ((Ready .waits .sy (mkE Op.waits.code h f) h s → g.ovf = true → exec (.waits h f) s = .next ((s.overflow ci s.iss.ctx f.flag.toNat).setVerdict (.overflow f.flag.toNat))) ∧
    (∀ a : Word, Ready .waitPh .sy (mkE Op.waitPh.code h f) h s → e.srcS f.sa = .ok a → g.ovf = true →
     exec (.waitPh h f) s = .next ((s.overflow ci s.iss.ctx f.flag.toNat).setVerdict (.overflow f.flag.toNat))) ∧
    ∀ (a : Word) (i : Nat), Ready .waitm .sy (mkE Op.waitm.code h f) h s → e.srcS f.sa = .ok a → i < 32 → a.getLsbD i = true → (e.core.flag i).ovf = true →
     (∀ j, j < i → a.getLsbD j = true → (e.core.flag j).ovf = false) →
     exec (.waitm h f) s = .next ((s.overflow ci s.iss.ctx i).setVerdict (.overflow i))) ∧
   (∀ a : Word, Ready .waitPh .sy (mkE Op.waitPh.code h f) h s → e.srcS f.sa = .ok a → g.ovf = false →
    (g.ph ≠ a.extractLsb' 0 16 → ok (.waitPh h f) (counted [f.flag.toNat])) ∧ (g.ph = a.extractLsb' 0 16 → blocks (.waitPh h f))) ∧
   (Ready .waits .sy (mkE Op.waits.code h f) h s → g.ovf = false →
    (f.imm18.toNat ≤ g.cnt.toNat → ∃ t, ok (.waits h f) t ∧ (t.core ci).flag f.flag.toNat = { g with cnt := g.cnt - BitVec.ofNat 16 f.imm18.toNat } ∧
     t.mem = s.mem ∧ (∀ j, (t.ctx ci j) = (counted [f.flag.toNat]).ctx ci j) ∧ ∀ j, j ≠ f.flag.toNat → (t.core ci).flag j = e.core.flag j) ∧
    (g.cnt.toNat < f.imm18.toNat → blocks (.waits h f))) ∧
   ∀ a : Word, Ready .waitm .sy (mkE Op.waitm.code h f) h s → e.srcS f.sa = .ok a → (∀ i, i < 32 → a.getLsbD i = true → (e.core.flag i).ovf = false) →
    ((∀ i, i < 32 → a.getLsbD i = true → (e.core.flag i).cnt ≠ 0) →
     (f.mod.getLsbD 0 = false → ok (.waitm h f) (counted ((List.range 32).filter (fun i => a.getLsbD i)))) ∧
     (f.mod.getLsbD 0 = true → ∃ t, ok (.waitm h f) t ∧ t.mem = s.mem ∧ ∀ i, i < 32 →
      (t.core ci).flag i = if a.getLsbD i then { e.core.flag i with cnt := (e.core.flag i).cnt - 1 } else e.core.flag i)) ∧
    ((∃ i, i < 32 ∧ a.getLsbD i = true ∧ (e.core.flag i).cnt = 0) → blocks (.waitm h f)))

/-- Posts and expectations (R442, R444, R273). The model's own choice: own posts go through the port behind earlier
accesses, and what they will make of the flag is seen at issue (log 37). -/
def Obligations.FlagPosts : Prop :=
  ∀ (h : Hd) (f : EFmt) (s : State),
   let e := s.env .sy h
   let n := f.flag.toNat
   let g := e.flagView n
   let ok (i : Instr) (t : State) : Prop := exec i s = .next (t.setVerdict .committed)
   let refused (i : Instr) (g : Flag) : Prop := let v := BitVec.ofNat 64 (g.cnt.toNat * 2 ^ 16 + n)
    exec i s = .next ((s.trapNow s.iss.core s.iss.ctx .flagOverflow v (slotMask [.sy])).setVerdict (.trapped .flagOverflow v))
   let others := [0, 1, 2, 3].filter (· ≠ e.k)
   let takes (i : Instr) (u : Option Flag) (op : SyOp) : Prop :=
    (∀ v, u = some v → (e.core.keeps n others v = true → ok i (e.syOp op)) ∧ (e.core.keeps n others v = false → refused i g) ∧
     ((∀ k ∈ others, (e.core.ctx k).dueOps = []) → ok i (e.syOp op))) ∧ (u = none → refused i g)
   let settled (f : Flag) : Flag := if 0 < f.exp.toNat ∧ f.exp.toNat ≤ f.cnt.toNat then ⟨f.cnt - f.exp, 0, f.ph + 1, f.ovf⟩ else f
   let late (m c : Nat) : State := if (s.ctx m c).status = .idle then s.modCore m (fun q => q.setFlag n { (s.core m).flag n with ovf := true })
    else s.modCtx m c (fun x => x.pendCause .flagOverflow (BitVec.ofNat 64 (((s.core m).flag n).cnt.toNat * 2 ^ 16 + n)))
   (∀ m c k : Nat, s.applySy m c (.post n k) = match ((s.core m).flag n).post k with
    | some g => (s.modCore m (fun q => q.setFlag n g)).stampFlag m n (s.ctx m c).pts
    | none => late m c) ∧
   (∀ m c k : Nat, s.applySy m c (.expt n k) = match ((s.core m).flag n).expect k with
    | some g => s.modCore m (fun q => q.setFlag n g)
    | none => late m c) ∧
   (∀ (c : Core) (k ts : Nat),
    (∀ u, (c.flag n).post k = some u → c.keeps n [0, 1, 2, 3] u = true → (c.postFlag n k ts).flag n = u ∧
     SMap.get 0 (c.postFlag n k ts).flagTs n = max ts (SMap.get 0 c.flagTs n) ∧ ∀ j, j ≠ n → (c.postFlag n k ts).flag j = c.flag j) ∧
    ((∀ u, (c.flag n).post k = some u → c.keeps n [0, 1, 2, 3] u = false) → c.postFlag n k ts = c.setFlag n { c.flag n with ovf := true })) ∧
   (∀ (f : Flag) (k : Nat), f.expect k = if 65535 < f.exp.toNat + k then none else some (settled { f with exp := f.exp + BitVec.ofNat 16 k })) ∧
   (∀ (f : Flag) (k : Nat), f.post k = if 65535 < f.cnt.toNat + k then none else some (settled { f with cnt := f.cnt + BitVec.ofNat 16 k })) ∧
   (Ready .post .sy (mkE Op.post.code h f) h s → takes (.post h f) (g.post f.imm18.toNat) (.post n f.imm18.toNat)) ∧
   (∀ a : Word, Ready .posts .sy (mkE Op.posts.code h f) h s → e.srcS f.sa = .ok a →
    takes (.posts h f) (g.post a.toNat) (.post n a.toNat)) ∧
   (∀ a : Word, Ready .rpost .sy (mkE Op.rpost.code h f) h s → e.srcS f.sa = .ok a →
    ok (.rpost h f) (e.syOp (.rpost (a.extractLsb' 0 24) n f.imm18.toNat))) ∧
   (Ready .expt .sy (mkE Op.expt.code h f) h s → takes (.expt h f) (g.expect f.imm18.toNat) (.expt n f.imm18.toNat))

/-- FRD reads a flag and FCLR clears it (R445). The model's own choice: FRD sees the flag as the context's own
operations in the port will leave it, and FCLR goes through the port behind earlier accesses (log 37). -/
def Obligations.FlagReadAndClear : Prop :=
  ∀ (h : Hd) (f : EFmt) (s : State),
   let e := s.env .sy h
   let n := f.flag.toNat
   (Ready .frd .sy (mkE Op.frd.code h f) h s → ∃ v : Word, exec (.frd h f) s = .next ((e.flyS 1 f.dst v 0).setVerdict .committed) ∧
    v.extractLsb' 48 16 = 0 ∧ v.extractLsb' 32 16 = (e.flagView n).ph ∧ v.extractLsb' 16 16 = (e.flagView n).exp ∧
    v.extractLsb' 0 16 = (e.flagView n).cnt ∧ (e.x.portOps = [] → e.flagView n = e.core.flag n)) ∧
   (Ready .fclr .sy (mkE Op.fclr.code h f) h s → exec (.fclr h f) s = .next ((e.syOp (.fclr n)).setVerdict .committed)) ∧
   ∀ (t : State) (ci k j : Nat), ((t.applySy ci k (.fclr n)).core ci).flag n = ⟨0, 0, ((t.core ci).flag n).ph, false⟩ ∧
    (j ≠ n → ((t.applySy ci k (.fclr n)).core ci).flag j = (t.core ci).flag j) ∧
    ∀ m, m ≤ 65535 → ((((t.applySy ci k (.fclr n)).core ci).flag n).postBy m).cnt = BitVec.ofNat 16 m

/-- Barriers, gates, fences, yield and sleep (R199, R446, R447, R448, R449, R450). The model's own choice: an
arrival goes through the port behind earlier accesses (log 37). -/
def Obligations.BarriersAndGates : Prop :=
  ∀ (h : Hd) (f : EFmt) (s : State),
   let e := s.env .sy h
   let j := f.mod.toNat % 4
   let ci := s.iss.core
   let k := s.iss.ctx
   let ok (i : Instr) (t : State) : Prop := exec i s = .next (t.setVerdict .committed)
   let blocks (i : Instr) : Prop := exec i s = .next ((s.block ci k 0).setVerdict (.blocked 0))
   let arrives (i : Instr) (w : Bool) : Prop :=
    (SMap.get 0 e.x.arrived j ≠ 0 → blocks i) ∧
    (SMap.get 0 e.x.arrived j = 0 → e.x.lvl j = 0 → ok i s) ∧
    (SMap.get 0 e.x.arrived j = 0 → e.x.lvl j ≠ 0 → let b := s.barrier (s.taskIdOf ci) j (e.x.lvl j) (domainOf (e.x.lvl j) ci e.x)
     let t := ({ e with s := s.modCtx ci k (fun x => { x with arrived := SMap.set 0 x.arrived j 1 }) } : Env).syOp (.arrive j b.lvl b.dom)
     ok i (if w then { t.modCtx ci k (fun x => { x with arvw := some j }) with iss := { t.iss with arvw := true } } else t))
   (Ready .arv .sy (mkE Op.arv.code h f) h s → arrives (.arv h f) false) ∧ (Ready .arvw .sy (mkE Op.arvw.code h f) h s → arrives (.arvw h f) true) ∧
   (Ready .bwait .sy (mkE Op.bwait.code h f) h s → (SMap.get 0 e.x.arrived j = 0 → ok (.bwait h f) s) ∧
    (SMap.get 0 e.x.arrived j ≠ 0 → blocks (.bwait h f))) ∧
   (Ready .strag .sy (mkE Op.strag.code h f) h s →
    let r : Quad := if e.x.lvl j = 0 then 0 else (s.barrier (s.taskIdOf ci) j (e.x.lvl j) (domainOf (e.x.lvl j) ci e.x)).rcd
    ok (.strag h f) (e.barrierRead [(.s, f.dst.toNat), (.s, f.dst.toNat + 1)] [r.extractLsb' 0 64, r.extractLsb' 64 64])) ∧
   (Ready .bphase .sy (mkE Op.bphase.code h f) h s → ∃ r : Word, ok (.bphase h f) (e.barrierRead [(.s, f.dst.toNat)] [r]) ∧ (e.x.lvl j = 0 → r = 0) ∧
    (e.x.lvl j ≠ 0 → r.toNat = (s.barrier (s.taskIdOf ci) j (e.x.lvl j) (domainOf (e.x.lvl j) ci e.x)).phase.toNat + (if SMap.get 0 e.x.arrived j ≠ 0 then 2 ^ 16 else 0))) ∧
   (Ready .gate .sy (mkE Op.gate.code h f) h s → ok (.gate h f) (s.modCtx ci k (fun x => { x with sr := { x.sr with lastcut := f.imm18.setWidth 64 } }))) ∧
   (∀ a : Word, Ready .gateS .sy (mkE Op.gateS.code h f) h s → e.srcS f.sa = .ok a →
    ok (.gateS h f) (s.modCtx ci k (fun x => { x with sr := { x.sr with lastcut := BitVec.ofNat 64 (a.toNat % 2 ^ 32) } }))) ∧
   (Ready .efence .sy (mkE Op.efence.code h f) h s →
    ((∀ w ∈ s.ctxJobs ci k ++ e.x.rplacks, w.bseq = e.x.seq ∨ fenceCovers h.fmt.toNat w = false) → ok (.efence h f) s) ∧
    ((∃ w ∈ s.ctxJobs ci k ++ e.x.rplacks, w.bseq ≠ e.x.seq ∧ fenceCovers h.fmt.toNat w = true) → blocks (.efence h f))) ∧
   (Ready .ifence .sy (mkE Op.ifence.code h f) h s → ok (.ifence h f) (s.modCtx ci k (fun x => { x with stale := [] }))) ∧
   let waits (i : Instr) (n : Nat) : Prop :=
    let due := SMap.get none e.x.deadline e.x.pauseKey
    (∀ t, due = some t → s.tick < t → exec i s = .next ((s.block ci k 6).setVerdict (.blocked 6))) ∧
    (∀ t, due = some t → t ≤ s.tick → ok i (s.modCtx ci k (fun x => { x with deadline := SMap.set none x.deadline x.pauseKey none }))) ∧
    (due = none → n ≠ 0 → exec i s = .next ((s.pause ci k (some (s.tick + n))).setVerdict (.paused (some (s.tick + n)))))
   let yields (i : Instr) : Prop :=
    (SMap.get false e.x.yielded e.x.pauseKey = false → exec i s = .next ((s.pause ci k none).setVerdict (.paused none))) ∧
    (SMap.get false e.x.yielded e.x.pauseKey = true → ok i (s.modCtx ci k (fun x => { x with yielded := SMap.set false x.yielded x.pauseKey false })))
   (Ready .yield .sy (mkE Op.yield.code h f) h s → yields (.yield h f)) ∧
   (Ready .sleep .sy (mkE Op.sleep.code h f) h s → waits (.sleep h f) f.imm18.toNat ∧
    (SMap.get none e.x.deadline e.x.pauseKey = none → f.imm18 = 0 → yields (.sleep h f))) ∧
   ∀ a : Word, Ready .sleepS .sy (mkE Op.sleepS.code h f) h s → e.srcS f.sa = .ok a → waits (.sleepS h f) a.toNat ∧
    (SMap.get none e.x.deadline e.x.pauseKey = none → a = 0 → yields (.sleepS h f))

/-- A module reset, the boot chain and the freeze (R24, R26, R28, R29, R30, R18, R77). The model's own choice: what
a reset keeps (log 9), and the order of the boot checks, the speed table's turn among them (log 10). -/
def Obligations.ResetBootAndFreeze : Prop :=
  ∀ (s : State),
   (∃ t, exec .moduleReset s = .next t ∧ t.freeze = none ∧ t.oarov.released = false ∧ t.oarov.stage = 0 ∧ t.oarov.recovery = false ∧
    t.cores = [] ∧ t.tasks = [] ∧ t.mem.bytes = s.mem.bytes ∧ t.mem.tags = s.mem.tags ∧ t.thermo = s.thermo ∧ t.oarov.loaderKey = s.oarov.loaderKey) ∧
   (∀ m, s.oarov.recovery = false → s.oarov.stage = 0 → speedCheck ≠ 0 → exec (.bootStage m) s = .next { s with oarov := { s.oarov with
     recovery := true
     failStage := 4
     failCheck := speedCheck } }) ∧
   (∀ m, s.oarov.recovery = false → s.oarov.stage.toNat < 3 → s.oarov.stage ≠ 0 ∨ speedCheck = 0 → let n := s.oarov.stage.toNat + 1
    (s.bootCheck n m = 0 → ∃ t, exec (.bootStage m) s = .next t ∧ t.oarov.stage.toNat = n ∧ t.oarov.released = decide (n = 3) ∧ t.oarov.recovery = false ∧
     t.oarov.manifests = s.oarov.manifests ++ [sha256 m.body] ∧ t.oarov.nextKey = m.nextKey ∧
     thermoCount s.thermo ≤ thermoCount t.thermo ∧ (t.thermo = s.thermo ∨ thermoCount t.thermo ≤ min m.sv.toNat 64)) ∧
    (s.bootCheck n m ≠ 0 → exec (.bootStage m) s = .next { s with oarov := { s.oarov with
     recovery := true
     failStage := BitVec.ofNat 4 n
     failCheck := s.bootCheck n m } })) ∧
   (∀ m, s.oarov.recovery = true ∨ 3 ≤ s.oarov.stage.toNat → exec (.bootStage m) s = .next s) ∧
   (∀ n m, s.bootCheck n m = 0 → m.readable = true ∧ m.key.length = 64 ∧ m.sig.length = 29792 ∧ Config.slhVerify m.key m.body m.sig = true ∧
    m.images.map sha256 = m.digests ∧
    (n = 1 → thermoCount s.thermo ≤ m.sv.toNat ∧ ∃ i, i < 4 ∧ Config.rootDigest i = sha256 m.key ∧ Config.revoked.getLsbD i = false) ∧
    (n = 2 → m.key = s.oarov.nextKey) ∧ (n = 3 → m.key = s.oarov.loaderKey)) ∧
   ∀ p ∈ ([(.freezePin, 1), (.thermalTrip 0, 3), (.thermalTrip 1, 3), (.thermalTrip 2, 3), (.thermalTrip 3, 3), (.thermalTrip 4, 3), (.oarovFirmwareFault, 5)] :
     List (Instr × BitVec 8)),
    (s.freeze = none → ∃ t, exec p.1 s = .next t ∧ t.freeze = some ⟨p.2, s.tick⟩ ∧ t.mem = s.mem ∧ t.cores = s.cores ∧ t.tasks = s.tasks) ∧
    (s.freeze ≠ none → exec p.1 s = .next s)

/-- The management port and the mailbox (R17, R27, R28, R30, R31, R32, R77, R78, R80, R79). The model's own choice:
the bytes of requests and answers, no image replacement while frozen, and the stage that runs again (log 16);
the read-out's bytes (log 17). -/
def Obligations.ManagementCommands : Prop :=
  ∀ (s : State) (q : MgmtReq),
   let good : Prop := (∀ n, s.oarov.lastSeq = some n → n < q.seq) ∧ signedBy s.oarov.cmdKey q.bytes q.sig = true
   let a : State := { s with oarov := { s.oarov with lastSeq := some q.seq } }
   (∀ (w n : Nat) (m : Manifest) (k : List Byte), ∀ r ∈ ([(.mgmtFreeze q, 0, []), (.mgmtReadOut q, 1, []), (.mgmtPowerLimit q w, 2, [bytesOf 4 w]),
     (.mgmtImageReplacement q n m, 3, m.args n), (.mgmtLoaderKeyEnrol q k, 4, [k])] : List (Instr × Nat × List (List Byte))),
    (q.carries r.2.1 r.2.2 = false → exec r.1 s = .next s) ∧
    (q.carries r.2.1 r.2.2 = true → ¬ good → exec r.1 s = .next { s with mgmtOut := s.mgmtOut ++ [.auth] })) ∧
   (∀ (o : Nat) (v : BitVec 3) (n : BitVec 256), ∀ r ∈ ([(.mgmtRegisterRead o q, 5, [bytesOf 8 o]), (.mgmtTelemetryRead v q, 6, [bytesOf 1 v.toNat]),
     (.mgmtCertificateRead q, 7, []), (.mgmtAttestation n q, 8, [bytesOf 32 n.toNat])] : List (Instr × Nat × List (List Byte))),
    q.carries r.2.1 r.2.2 = false → exec r.1 s = .next s) ∧
   (∀ c l, q.carries c l = true → q.bytes.take 4 = [1, Config.mgmtCode c] ++ bytesOf 2 (Config.mgmtBody c l).length ∧
    (q.bytes.drop 4).take 12 = bytesOf 8 q.seq.toNat ++ bytesOf 4 0 ∧ q.bytes.drop 16 = Config.mgmtBody c l) ∧
   (good →
    (q.carries 0 [] = true → exec (.mgmtFreeze q) s = .next ((a.assertFreeze 2).reply .ok)) ∧
    (q.carries 1 [] = true → s.freeze = none → exec (.mgmtReadOut q) s = .next (a.reply .refused)) ∧
    (∀ f, q.carries 1 [] = true → s.freeze = some f → ∃ l, exec (.mgmtReadOut q) s = .next (a.reply (.readOut f.tick f.cause l))) ∧
    (∀ w, q.carries 2 [bytesOf 4 w] = true → 1200 ≤ w → w ≤ 2400 → exec (.mgmtPowerLimit q w) s = .next ({ a with oarov := { a.oarov with limit := w } }.reply .ok)) ∧
    (∀ w, q.carries 2 [bytesOf 4 w] = true → w < 1200 ∨ 2400 < w → exec (.mgmtPowerLimit q w) s = .next (a.reply .refused)) ∧
    (∀ n m, q.carries 3 (m.args n) = true → s.oarov.recovery = false ∨ s.freeze ≠ none → exec (.mgmtImageReplacement q n m) s = .next (a.reply .refused)) ∧
    (∀ n m, q.carries 3 (m.args n) = true → s.oarov.recovery = true → s.freeze = none → n = s.oarov.failStage.toNat → 1 ≤ n → n ≤ 3 →
     exec (.mgmtImageReplacement q n m) s = .next ((a.tryStage n m).reply .ok)) ∧
    ∀ k, q.carries 4 [k] = true → exec (.mgmtLoaderKeyEnrol q k) s = .next ({ a with oarov := { a.oarov with loaderKey := k } }.reply .ok)) ∧
   (∀ o, q.carries 5 [bytesOf 8 o] = true → exec (.mgmtRegisterRead o q) s = .next (s.reply (.reg (s.ocReg o)))) ∧
   (∀ v, q.carries 6 [bytesOf 1 v.toNat] = true → exec (.mgmtTelemetryRead v q) s = .next (s.reply (.telemetry ((List.range 1024).map (s.oarov.sample v)) ((List.range 5).map (SMap.get 0 s.eccCount))))) ∧
   (q.carries 7 [] = true → exec (.mgmtCertificateRead q) s = .next (s.reply (.certificate Config.certificate))) ∧
   (∀ n, q.carries 8 [bytesOf 32 n.toNat] = true → (s.oarov.recovery = true ∨ s.oarov.stage ≠ 3 → exec (.mgmtAttestation n q) s = .next (s.reply .notBooted)) ∧
    (s.oarov.recovery = false → s.oarov.stage = 3 → ∃ r, s.report (bytesOf 32 n.toNat) = some r ∧ exec (.mgmtAttestation n q) s = .next (s.reply (.report r)))) ∧
   (∀ v, (s.oarov.mbSts = 1 → exec (.mbcmdAttestation v) s = .next s) ∧
    (s.oarov.mbSts ≠ 1 → exec (.mbcmdAttestation 1) s = .next { s with oarov := { s.oarov with mbSts := 1 } }) ∧
    (s.oarov.mbSts ≠ 1 → v ≠ 1 → exec (.mbcmdAttestation v) s = .next ({ s with oarov := { s.oarov with mbSts := 4 } }.raise 4))) ∧
   (s.oarov.mbSts = 1 → ∃ t, exec .mailboxDone s = .next t ∧ SMap.get false t.irq 4 = true ∧ t.mem = s.mem ∧
    t.oarov.mbSts = if s.oarov.recovery = false ∧ s.oarov.stage = 3 then 2 else 3)

/-- Power samples, throttling, core frequency and the patrol scrub (R16, R17, R19, R21, R22, R23, R24). The model's
own choice: what the scrub finds is the turn's argument, and how it counts (log 13); the samples and NEWEST (log
14); times in ticks (log 1). -/
def Obligations.PowerAndScrub : Prop :=
  ∀ (s : State),
   let o := s.oarov
   let total : Nat := ((o.samples.take 10).flatMap (fun l => (l.take 6).map BitVec.toNat)).foldl (· + ·) 0
   let exceeds : Prop := 10 ≤ o.samples.length ∧ 10000 * o.limit < total
   let under : Prop := 10 ≤ o.samples.length ∧ 100 * total < 95 * (10000 * o.limit)
   (∀ mw temp, ∃ t, exec (.powerSample mw temp) s = .next t ∧ t.oarov.samples = ((mw.toList ++ [temp]) :: o.samples).take 1024 ∧
    t.oarov.level = o.level ∧ t.oarov.limit = o.limit ∧ t.mem = s.mem ∧ t.cores = s.cores) ∧
   (exceeds → o.level ≠ 7 → o.lastRaise + 10000 * 1000 ≤ s.tick →
    exec .throttleRaise s = .next { s with oarov := { o with level := o.level + 1, lastRaise := s.tick } }) ∧
   (¬ exceeds ∨ o.level = 7 ∨ s.tick < o.lastRaise + 10000 * 1000 → exec .throttleRaise s = .next s) ∧
   (under → 100 ≤ o.belowFor → o.level ≠ 0 → exec .throttleLower s = .next { s with oarov := { o with level := o.level - 1, belowFor := 0 } }) ∧
   (¬ under ∨ o.belowFor < 100 ∨ o.level = 0 → exec .throttleLower s = .next s) ∧
   (exceeds → o.level = 7 → 100 ≤ o.overFor → exec .powerAlarm s = .next { s with oarov := { o with alarm := true } }) ∧
   (∀ c, ∃ t, exec (.coreFrequencyChange c) s = .next t ∧ (t.core c).lvl = o.level ∧ (∀ d, d ≠ c → t.core d = s.core d) ∧ t.mem = s.mem ∧ ∀ k, t.ctx c k = s.ctx c k) ∧
   (∀ pa, exec (.patrolScrub pa .clean) s = .next s ∧ exec (.patrolScrub pa .sharedStructure) s = .next (s.assertFreeze 4) ∧
    (isMemory pa 1 = true → exec (.patrolScrub pa .correctable) s = .next { s with
     eccCount := SMap.set 0 s.eccCount (homeSlice (pa / 64) / 256) (SMap.get 0 s.eccCount (homeSlice (pa / 64) / 256) + 1) }) ∧
    (isMemory pa 1 = true → ∃ t, exec (.patrolScrub pa .uncorrectable) s = .next t ∧ t.mem.bytes = s.mem.bytes ∧
     ∀ w, SMap.get false t.mem.poison w = (w = pa / 8 || SMap.get false s.mem.poison w)) ∧
    (∀ d, d < 5 → exec (.patrolScrub pa (.corrected d)) s = .next { s with eccCount := SMap.set 0 s.eccCount d (SMap.get 0 s.eccCount d + 1) }) ∧
    (∀ c k l n, exec (.patrolScrub pa (.register c k l n)) s =
     .next (s.modCtx c k (fun x => { x with ecc := ([Cls.s, .a, .v, .x, .t, .d, .p, .m].getD l .k, n) :: x.ecc }))) ∧
    (∀ c n, exec (.patrolScrub pa (.row c n)) s = .next (s.modCore c (fun c => { c with eccRows := n :: c.eccRows })) ∧
     exec (.patrolScrub pa (.entry c n)) s = .next (s.modCore c (fun c => { c with eccAcm := n :: c.eccAcm }))) ∧
    ∀ n, exec (.patrolScrub pa (.translation 0 n)) s = .next { s with tlb := s.tlb.eraseIdx n } ∧
     exec (.patrolScrub pa (.translation 1 n)) s = .next { s with walkCache := s.walkCache.eraseIdx n } ∧
     exec (.patrolScrub pa (.translation 2 n)) s = .next { s with spaceCache := s.spaceCache.eraseIdx n } ∧
     exec (.patrolScrub pa (.translation 3 n)) s = .next { s with objCache := s.objCache.eraseIdx n })

/-- What a system core writes (R63, R68, R70, R72, R83, R119). The model's own choice: a store is a turn (log 18),
and POWER_ALARM stays set (log 15). -/
def Obligations.SystemCoreWrites : Prop :=
  ∀ (s : State) (v : Word),
   let fills (r : Ring) : Ring := if r.size < ((v.setWidth 32 : BitVec 32) - r.head).toNat ∨ ((v.setWidth 32 : BitVec 32) - r.head).toNat < (r.tail - r.head).toNat
    then { r with overrun := true } else { r with tail := v.setWidth 32 }
   let drains (r : Ring) : Ring := if (r.tail - r.head).toNat < ((v.setWidth 32 : BitVec 32) - r.head).toNat
    then { r with overrun := true } else { r with head := v.setWidth 32 }
   (∀ a n, isMemory a n = true → ∃ t, exec (.registerWrite a n v) s = .next t ∧ t.mem.bytes = (s.memWrite 0 a (bytesOf n v.toNat)).mem.bytes ∧ t.cores = s.cores) ∧
   (∀ a n, isMemory a n = false → devBase ≤ a → a < devBase + 0x50000 → n ∈ [1, 2, 4, 8] → a % n = 0 →
    exec (.registerWrite a n v) s = .next (s.devWrite ((a - devBase) / 8 * 8) ⟨BitVec.ofNat 64 ((2 ^ (8 * n) - 1) * 2 ^ (8 * (a % 8))), v <<< (8 * (a % 8))⟩)) ∧
   (∀ a n, isMemory a n = false → a < devBase ∨ devBase + 0x50000 ≤ a →
    exec (.registerWrite a n v) s = .fault (.systemAccess a) ∧ s.systemLoad a n = .fault (.systemAccess a)) ∧
   (∀ a n, isMemory a n = true → (s.poisonAt 0 a n).isSome = false → ∃ t, s.systemLoad a n = .next t ∧
    t.sysRead = BitVec.ofNat 64 (ofBytes (s.memRead 0 a n)) ∧ t.mem.bytes = s.mem.bytes ∧ t.cores = s.cores) ∧
   (∀ n, n < 8 → exec (.launchQueueTailWrite n v) s = .next { s with lq := SMap.set Ring.init s.lq n (fills (s.lqOf n)) }) ∧
   exec (.translationChannelTailWrite v) s = .next { s with ch := { s.ch with ring := fills s.ch.ring } } ∧
   exec (.consumerHeadWrite .completion v) s = .next { s with cq := drains s.cq } ∧
   exec (.consumerHeadWrite .fault v) s = .next { s with fq := drains s.fq } ∧
   exec (.consumerHeadWrite .storageOut v) s = .next { s with so := drains s.so } ∧
   (∀ n, n < 32 → (s.mring n).busy = false →
    exec (.mediaRingConfigWrite n true v) s = .next (s.setMring n { s.mring n with log2 := v.extractLsb' 0 5, head := 0 }) ∧
    exec (.mediaRingConfigWrite n false v) s = .next (s.setMring n { s.mring n with base := v &&& ~~~127#64, head := 0 })) ∧
   ∀ n z, (s.mring n).busy = true → exec (.mediaRingConfigWrite n z v) s = .next s

/-- Flits, retries and the states of a link (R34, R35, R38, R39, R43, R44, R46). The model's own choice: the first
SEQ and ACK, malformed flits, tokens, DOWNCAUSE and the measure of a stall (log 20). -/
def Obligations.LinksCarryFlits : Prop :=
  ∀ (s : State) (l : Nat), l < 24 →
   let k := s.link l
   (∀ b, k.state = .up → let f := rsCorrect b
    let h := flitHead (BitVec.ofNat 64 (getLe f 0 8))
    (flitOk f = false → exec (.flitReceive l b) s = .next (s.dropFlit l)) ∧
    (flitOk f = true → h.kind = 2 → exec (.flitReceive l b) s = .next (s.linkDown l 2)) ∧
    (flitOk f = true → h.kind = 1 → exec (.flitReceive l b) s = .next (s.setLink l (k.acked h.ack))) ∧
    (flitOk f = true → h.kind = 0 → h.seq ≠ k.rxSeq → exec (.flitReceive l b) s = .next (s.dropFlit l)) ∧
    (flitOk f = true → h.kind = 0 → h.seq = k.rxSeq → exec (.flitReceive l b) s = .next ((s.setLink l (k.acked h.ack)).deliver l h f))) ∧
   (16 ≤ k.rxRetries + 1 → ((s.dropFlit l).link l).state = .down) ∧
   (∀ q, k.state = .up → (if k.retrySeq = q then k.retries + 1 else 1) < 16 → exec (.retryRequestReceive l q) s = .next (s.setLink l { k with
    retrySeq := q
    retries := if k.retrySeq = q then k.retries + 1 else 1
    wire := k.wire ++ (k.replay.filter (fun e => (e.1 - q).toNat < 2048)).map (·.2.2) })) ∧
   (k.state = .up → k.replay.length < 256 →
    let k' := { k with
     slotCount := (k.slotCount + 1) % 8
     tokens := if k.slotCount = 7 then min 8 (k.tokens + 1) else k.tokens }
    (∀ c f, k'.choose = some c → k.queue.find? (fun f => f.cls = c) = some f → ∃ t b, exec (.linkFlitSlot l) s = .next t ∧
     (t.link l).queue = k.queue.erase f ∧ (t.link l).wire = k.wire ++ [b] ∧ (t.link l).replay = k.replay ++ [(k.txSeq, f.msgNo, b)] ∧
     (t.link l).txSeq = k.txSeq + 1 ∧ (c = 0 → (t.link l).tokens = k'.tokens - 1)) ∧
    (k'.choose = none → exec (.linkFlitSlot l) s = .next (s.setLink l k'))) ∧
   (k.state = .down → k.enable = true → exec (.linkRetrain l) s = .next (s.setLink l { k with state := .training, crcErr := 0, since := s.tick })) ∧
   (k.state ≠ .down ∨ k.enable = false → exec (.linkRetrain l) s = .next s) ∧
   exec (.linkDisable l) s = .next ((s.setLink l { k with enable := false }).linkDown l 4) ∧
   (∀ p z, k.state = .training → (p = s.modnum → exec (.linkTrained l p z) s = .next (s.linkDown l 5)) ∧
    (p ≠ s.modnum → ∃ t, exec (.linkTrained l p z) s = .next t ∧ (t.link l).state = .up ∧ (t.link l).peerMod = p ∧ (t.link l).peerZb = z ∧ (t.link l).txSeq = 0 ∧ (t.link l).rxSeq = 0)) ∧
   (k.state = .training → k.since + 100000000 ≤ s.tick → exec (.linkTrainingTimeout l) s = .next (s.linkDown l 3)) ∧
   (k.state = .up → exec (.laneLockLoss l) s = .next (s.linkDown l 3)) ∧
   (k.queue ≠ [] → k.lastSent + 10000000 ≤ s.tick → exec (.linkStall l) s = .next (s.setLink l { k with stall := true })) ∧
   (∀ c, ((s.linkDown l c).link l).state = .down ∧ ((s.linkDown l c).link l).queue = [] ∧ ((s.linkDown l c).link l).downCause = c) ∧
   ∀ m, moduleOf m.dst ≠ s.modnum → m.kind ≠ .block → s.inbox.contains m = true → m.cls = 1 ∨ s.inbox.find? (fun n => n.cls = m.cls && n.src = m.src && n.dst = m.dst) = some m →
    let s' := { s with inbox := s.inbox.erase m }
    (s.routeOf m = none → exec (.messageForward m) s = .next (s'.lose m .noRoute)) ∧
    (∀ n, s.routeOf m = some n → n < 24 → ∃ t, exec (.messageForward m) s = .next t ∧ t.inbox = s.inbox.erase m ∧
     (t.link n).queue = (s.link n).queue ++ flitsOf (crossing m (s.link n).peerZb) ((SMap.get 0 s.routes (moduleOf m.dst).toNat).getLsbD 24) s.ids)

/-- What messages do at their destination (R37, R48, R52, R53, R54, R55, R142, R168, R435, R436, R437, R444). The
model's own choice: the words of payloads and the inbox (log 19), reserved endpoints and early barrier arrivals
(log 21), barriers of level 5 (log 46), the retry delay (log 23). -/
def Obligations.MessagesArrive : Prop :=
  ∀ (s : State) (m : Msg) (t : State), s.takeMsg m = some t →
   let ci := pointOf m.dst
   let reply (u : State) (kind : MsgKind) (l : List Nat) : State := u.send ⟨m.dst, m.src, kind, 0, m.tag, 0, wordsBytes l⟩
   (m.kind = .sendReq → ci < 1024 → exec (.sendRequestArrive m) s = .next (t.offer ci m)) ∧
   (m.kind = .sendReq → 1024 ≤ ci → exec (.sendRequestArrive m) s = .next (t.lose m .noEndpoint)) ∧
   (∀ j, t.receiver ci m = some j → t.offer ci m = t.meet ci m j) ∧
   (t.receiver ci m = none → (t.core ci).unmatched.length < 64 → t.offer ci m = t.modCore ci (fun c => { c with unmatched := c.unmatched ++ [m] })) ∧
   (t.receiver ci m = none → 64 ≤ (t.core ci).unmatched.length → t.offer ci m = t.send ⟨m.dst, m.src, .sendBusy, 0, m.tag, m.tw, wordsBytes [msgWord m 0]⟩) ∧
   (∀ j x d g, m.kind = .sendGrant → t.sendJob ci (msgWord m 0) = some j → j.kind = .send x d g → s.jobWaits j = false →
    (∀ u o, s.sendData j x m = (u, some (.ok o)) → ∀ w, u.takeMsg m = some w → exec (.sendGrantArrive m) s = .next (w.send o)) ∧
    (∀ u st, s.sendData j x m = (u, some (.error st)) → ∀ w, u.takeMsg m = some w → exec (.sendGrantArrive m) s = .next (w.sendDone j st))) ∧
   (∀ j, m.kind = .sendRefuse → ci < 1024 → t.sendJob ci (msgWord m 0) = some j → exec (.sendRefusalArrive m) s = .next (t.sendDone j 1)) ∧
   (∀ j, m.kind = .sendBusy → ci < 1024 → t.sendJob ci (msgWord m 0) = some j → ∃ d, t.tick + 1000 ≤ d ∧ d ≤ t.tick + 16000 ∧
    exec (.sendRefusalArrive m) s = .next (t.draw.1.modSend j (fun i => { i with result := [BitVec.ofNat 64 d] }))) ∧
   (∀ c n j x d g (due : Word), s.sendJob c n = some j → j.kind = .send x d g → j.result = [due] → due.toNat ≤ s.tick →
    (s.tick < j.pos + 1000000000 → exec (.sendRetryTimer c n) s = .next ((s.modSend j (fun i => { i with result := [] })).send (s.sendRequest c j x d g))) ∧
    (j.pos + 1000000000 ≤ s.tick → exec (.sendRetryTimer c n) s = .next (s.sendDone j 2))) ∧
   (∀ j x src g n, m.kind = .typedData → t.matchedRecv ci (msgWord m 1) (msgWord m 2) = some j → j.kind = .recv x src g n → s.jobWaits j = false →
    let im := landImage x.tw m
    let e := (s.engine (.fabric ci j.id) j.space j.pts).landTile j { x with tw := im.1 } im.2.1 im.2.2
    (e.stop = none → exec (.typedDataArrive m) s = .next (reply (({ e.s with inbox := e.s.inbox.erase m }).recvDone { j with pts := e.pts } im.1) .ack [msgWord m 0]))) ∧
   (m.kind = .typedData → t.matchedRecv ci (msgWord m 1) (msgWord m 2) = none → exec (.typedDataArrive m) s = .next (t.lose m .noEndpoint)) ∧
   (m.kind = .block → ci < 1024 → ∀ u d w, s.loadBlock m = (u, some (.ok d)) →
    (∀ ts, u.landBlock d = (w, some (some ts)) →
     let v := if msgWord m 5 = 1 then w.postTo ci (m.tag.toNat % 32) 1 (BitVec.ofNat 16 (msgWord m 3)) ts else w
     exec (.blockTransferArrive m) s = .next (reply { v with inbox := v.inbox.erase m } .ack [msgWord m 0])) ∧
    (u.landBlock d = (w, some none) →
     exec (.blockTransferArrive m) s = .next (reply { w with inbox := w.inbox.erase m } .nak [msgWord m 0, 3]))) ∧
   (∀ j, m.kind = .ack → ci < 1024 → t.sendJob ci (msgWord m 0) = some j → exec (.transferAckArrive m) s = .next (t.sendDone j 0)) ∧
   (m.kind = .post → ci < 1024 → exec (.remotePostArrive m) s = .next (t.postTo ci (m.tag.toNat % 32) (msgWord m 0) (BitVec.ofNat 16 (msgWord m 1)) (msgWord m 2))) ∧
   (m.kind = .post → 1024 ≤ ci → exec (.remotePostArrive m) s = .next (t.lose m .noEndpoint)) ∧
   (m.kind = .barrier → let b := t.barrier (msgWord m 0) (msgWord m 1) 5 m.tag.toNat
    let p := (moduleOf m.src).toNat
    (ci ≠ 0x400 → exec (.remoteBarrierArrival m) s = .next (t.lose m .noEndpoint)) ∧
    (ci = 0x400 → msgWord m 2 = b.phase.toNat → p ∈ t.members b.dom → t.timer b.dom = t.modnum.toNat → (∀ r ∈ b.remote, r.1 ≠ p) →
     exec (.remoteBarrierArrival m) s = .next ((t.setBarrier { b with remote := b.remote ++ [(p, t.tick)] }).settleGroup { b with remote := b.remote ++ [(p, t.tick)] })) ∧
    (ci = 0x400 → msgWord m 2 = b.phase.toNat → p ∈ t.members b.dom → t.timer b.dom ≠ t.modnum.toNat → p = t.timer b.dom → m.data.length = 40 →
     exec (.remoteBarrierArrival m) s = .next (t.endPhase b (BitVec.ofNat 128 (getLe m.data 24 16))))) ∧
   (m.kind = .px → ci = 0x401 → 64 ≤ t.pxHeld 0 → exec (.pxRemoteCommand m) s = .next s) ∧
   (m.kind = .px → ci = 0x401 → t.pxHeld 0 < 64 → ∃ u j, exec (.pxRemoteCommand m) s = .next u ∧ u.inbox = t.inbox ∧
    SMap.get [] u.pxq 0 = SMap.get [] s.pxq 0 ++ [j] ∧ j.kind = .pxRemote (m.data.take 4096) m.src m.tag) ∧
   (m.kind = .pxReply → ci < 1024 → m.tag.getLsbD 15 = true → exec (.pxRemoteReplyArrive m) s = .next (t.postTo ci (m.tag.toNat % 32) 1 (BitVec.ofNat 16 (msgWord m 0)) (msgWord m 1)))

/-- Collectives start, gather, complete and time out (R56, R57, R58, R59, R60, R62). The model's own choice: the
order of a contribution's checks, lost messages and the sequence numbers (log 22), and the words of payloads
(log 19). -/
def Obligations.CollectivesRun : Prop :=
  ∀ (s : State) (g : Nat),
   (g < 256 → s.collRun g = none → s.groupOk g = false → exec (.collJobStart g) s = .next ((s.collJobs g).foldl (fun s j => s.collDone j 7) s)) ∧
   (∀ r, s.collRun g = some r → exec (.collJobStart g) s = .next s) ∧
   (g < 256 → s.collRun g = none → s.groupOk g = true → ∀ u j d x l, s.collGather g false [] (s.collJobs g) = (u, (j, d, x) :: l) → (∀ p ∈ l, p.2.1.seq = d.seq) →
    (u.cgroup g).loc.toNat = l.length + 1 → ∃ t r, exec (.collJobStart g) s = .next t ∧ t.collRun g = some r ∧ r.desc = d ∧
     r.status = (if ∀ p ∈ l, p.2.1 = d then 0 else 1) ∧ r.jobs.map (·.id) = (j :: l.map (·.1)).map (·.id) ∧ r.contribs = [(u.memberNo g, x :: l.map (·.2.2))] ∧ (t.cgroup g).lastSeq = some d.seq) ∧
   (∀ m t r, m.kind = .collective → s.takeMsg m = some t → pointOf m.dst = 0x400 → m.tag.toNat = g → t.collRun g = some r → r.status = 0 → msgDesc m = r.desc → msgWord m 0 = 0 →
    let no := (t.members g).idxOf (moduleOf m.src).toNat
    no < (t.members g).length → (∀ c ∈ r.contribs, c.1 ≠ no) →
    exec (.collContributionArrive m) s = .next (t.modRun g (fun r => { r with
     contribs := sortBy (fun c => c.1) (r.contribs ++ [(no, msgSources m)])
     tick := t.tick }))) ∧
   (∀ r, s.collRun g = some r → r.status = 0 → (s.members g).length ≤ r.contribs.length →
    let u := r.jobs.foldl (fun x j => x.collDeliver r (r.share (s.members g).length (x.memberNo g)) j) s
    let v := u.modRun g (fun t => if t.jobs.length < r.jobs.length then { t with tick := u.tick } else t)
    exec (.collJobComplete g) s = .next { v with cruns := v.cruns.filter (fun r => r.grp ≠ g || r.jobs ≠ []) }) ∧
   (∀ r, s.collRun g = some r → r.status = 0 →
    (r.contribs.length < (s.members g).length ∨ ∃ j ∈ r.jobs, (s.engWait (collRq j)).isSome = true) → r.tick + 1000000000 ≤ s.tick →
    exec (.collTimeout g) s = .next (s.endColl g 3)) ∧
   (∀ r, s.collRun g = some r → s.tick < r.tick + 1000000000 → exec (.collTimeout g) s = .next s) ∧
   (s.collRun g = none → exec (.collTimeout g) s = .next (((s.collJobs g).filter (fun j => j.pos + 1000000000 ≤ s.tick)).foldl (fun s j => s.collDone j 3) s))

/-- Launch records, completion and TAKE (R65, R67, R69, R70, R71, R149, R150, R152, R155). The model's own choice:
what a core keeps when its task is over (log 28), and that LAUNCH waits for the jobs it meets (log 47). -/
def Obligations.TasksLaunchAndComplete : Prop :=
  ∀ (s : State),
   (∀ n, s.tasks.length < 16384 → s.nextQueue = some n → let q := s.lqOf n
    let r := recordOf (s.memRead 0 (q.entry 64 q.head) 64)
    let st := if (s.poisonAt 0 (q.entry 64 q.head) 64).isSome then 1 else s.checkRecord r (decide (r.prio.toNat ≠ n)) false
    let u := { s with lq := SMap.set Ring.init s.lq n { q with head := q.head + 1 } }
    exec .launchRecordRead s = .next (if st = 0 then u.adopt r n else u.pushComp (compBytes r.task.toNat st n s.tick))) ∧
   (∀ n, s.nextQueue = some n → n < 8 ∧ (s.lqOf n).head ≠ (s.lqOf n).tail ∧ ∀ m, n < m → m < 8 → (s.lqOf m).cfgErr = true ∨ (s.lqOf m).head = (s.lqOf m).tail) ∧
   (∀ r (prioBad spaceBad : Bool),
    (s.checkRecord r prioBad spaceBad = 1 ↔ r.reservedOk = false ∨ 7 ≤ r.gang.toNat ∨ r.dfu = 0 ∨ r.gran = 0) ∧
    (r.reservedOk = true → r.gang.toNat < 7 → r.dfu ≠ 0 → r.gran ≠ 0 → s.checkRecord r prioBad spaceBad =
     if prioBad = true then 2 else if 2048 < (r.cpc.toNat + 1) * r.dfu.toNat * 16 then 3
     else if spaceBad = true ∨ r.gen ≠ SMap.get 0 s.spgen r.sid.toNat ∨ s.objRaw 0 (mkSpace r.gen r.sid) r.codeobj.toNat = none ∨
      s.objRaw 0 (mkSpace r.gen r.sid) r.argobj.toNat = none then 4
     else if s.task r.task.toNat ≠ none then 5 else 0)) ∧
   (∀ b : List Byte, let r := recordOf b
    let field (lo n at_ w : Nat) : Nat := bits (getLe b lo n) at_ w
    r.task.toNat = field 0 4 0 20 ∧ r.gen.toNat = field 4 2 12 4 ∧ r.sid.toNat = field 4 2 0 12 ∧ r.prio.toNat = field 6 1 0 3 ∧ r.cpc.toNat = field 7 1 4 2 ∧
    r.gang.toNat = field 7 1 0 4 ∧ r.dfu.toNat = field 8 2 0 8 ∧ r.depcnt.toNat = field 10 2 0 16 ∧ r.entry.toNat = field 12 4 0 32 ∧
    r.codeobj.toNat = field 16 4 0 24 ∧ r.argrights.toNat = field 20 4 24 8 ∧ r.argobj.toNat = field 20 4 0 24 ∧ r.argoff.toNat = field 24 8 0 48 ∧
    r.arglen.toNat = field 32 8 0 40 ∧ r.tilefirst.toNat = field 40 4 0 32 ∧ r.tilecount.toNat = field 44 4 0 32 ∧ r.gran.toNat = field 48 4 0 16 ∧
    (r.succv = true ↔ field 52 4 31 1 = 1) ∧ r.succ.toNat = field 52 4 0 20 ∧
    (r.reservedOk = true ↔ field 0 4 20 12 = 0 ∧ field 6 1 3 5 = 0 ∧ field 7 1 6 2 = 0 ∧ field 8 2 8 8 = 0 ∧ field 16 4 24 8 = 0 ∧ field 24 8 48 16 = 0 ∧
     field 32 8 40 24 = 0 ∧ field 48 4 16 16 = 0 ∧ field 52 4 20 11 = 0 ∧ getLe b 56 8 = 0)) ∧
   (∀ n t, s.task n = some t → s.gangDone t = false → exec (.taskComplete n) s = .next s) ∧
   (∀ n t, s.task n = some t → s.gangDone t = true → t.rcd.succv = false → s.cq.full = false → s.compWait = [] → ∃ u : State, exec (.taskComplete n) s = .next u ∧
    (∀ x ∈ u.tasks, x.rcd.task.toNat ≠ n) ∧ u.cq.tail = s.cq.tail + 1 ∧
    u.mem.bytes = (s.memWrite 0 (s.cq.entry 16 s.cq.tail) (bytesOf 4 n ++ bytesOf 2 (if t.killed then 6 else 0) ++ bytesOf 2 t.queue ++ bytesOf 8 s.tick)).mem.bytes ∧
    (∀ c ∈ t.cores, (u.core c).resv.owner ≠ some n ∧ (u.core c).lbs = [] ∧ (u.core c).flags = (s.core c).flags) ∧
    ∀ c, (u.core c).ctxs = (s.core c).ctxs) ∧
   (∀ n t, s.task n = some t → s.gangDone t = true → t.rcd.succv = true → let m := t.rcd.succ.toNat
    ∃ u : State, exec (.taskComplete n) s = .next u ∧ (∀ x ∈ u.tasks, x.rcd.task.toNat ≠ n) ∧
     (∀ w, m ≠ n → s.task m = some w → w.space = t.space → w.dep ≠ 0 → u.task m =
      some (if w.dep = 1 ∧ w.state = .waiting then { w with dep := 0, state := .ready, readyAt := s.tick } else { w with dep := w.dep - 1 })) ∧
     ((∀ w, s.task m = some w → w.space ≠ t.space ∨ w.dep = 0) →
      u.wd.deplost = if s.wd.deplost = BitVec.allOnes 16 then s.wd.deplost else s.wd.deplost + 1) ∧
     ∀ k, k ≠ m → k ≠ n → u.task k = s.task k) ∧
   (∀ e t, s.compWait = e :: t → s.cq.full = false → ∃ u : State, exec .completionDrain s = .next u ∧ u.compWait = t ∧ u.cq.tail = s.cq.tail + 1 ∧
    u.mem.bytes = (s.memWrite 0 (s.cq.entry 16 s.cq.tail) e).mem.bytes ∧ SMap.get false u.irq 1 = true) ∧
   (∀ e t, s.faultWait = e :: t → s.fq.full = false → ∃ u : State, exec .faultRecordDrain s = .next u ∧ u.faultWait = t ∧ u.fq.tail = s.fq.tail + 1 ∧
    u.mem.bytes = (s.memWrite 0 (s.fq.entry 32 s.fq.tail) e).mem.bytes ∧ SMap.get false u.irq 2 = true) ∧
   (∀ ci k j t, s.wdJob ci k (fun k => k = .take) = some j → s.task j.task = some t → (s.core ci).resv.owner = some j.task →
    let left := t.rcd.tilefirst.toNat + t.rcd.tilecount.toNat - t.cursor
    let n := min (max 1 (t.rcd.gran.toNat * s.weight ci / 1024)) left
    exec (.takeClaim ci k) s = .next ((s.modTask j.task (fun t => { t with cursor := t.cursor + n })).answer j [BitVec.ofNat 64 t.cursor, BitVec.ofNat 64 n])) ∧
   (∀ ci k j c u d b v, s.wdJob ci k (fun k => match k with
      | .launch _ => true
      | _ => false) = some j → j.kind = .launch c → s.tasks.length < 16384 → s.jobWaits j = false →
    (s.engine (.fabric ci j.id) j.space j.pts).atCap c c.off 64 false 3 = (u, d) → u.readOk d 64 3 = (v, b) → v.stop = none →
    let x := v.s.launchFrom (recordOf b) j.task j.space
    exec (.deviceLaunch ci k) s = .next ((x.1.clearWait (.fabric ci j.id)).answer { j with pts := v.pts } [BitVec.ofNat 64 x.2]))

/-- Placement: selection, reservation, backoff and hold (R153, R154, R156, R157, R158, R159, R161). The model's own
choice: which placements count, the kept sets and their order (log 28). -/
def Obligations.GangsArePlaced : Prop :=
  ∀ (s : State) (n : Nat) (t : Task), s.task n = some t →
   (t.state = .ready → t.place = .none → ∃ d, d < 4 ∧ (∀ e, e < 4 → s.freeCores e ≤ s.freeCores d) ∧
    exec (.taskPlacementAssign n) s = .next (s.modTask n (fun t => { t with place := .select, die := d }))) ∧
   (t.state ≠ .ready ∨ t.place ≠ .none → exec (.taskPlacementAssign n) s = .next s) ∧
   (∀ set, t.place = .select ∨ t.place = .wait → t.picked = true ∨ (s.placing t.die < 4 ∧
     ∀ u ∈ s.tasks, u.die = t.die → u.place = .select → u.picked = false → s.before u t = false) →
    (t.onto.toList ++ t.sets).find? (fun set => set.all (fun c => s.openTo n c && !s.promised n c)) = some set →
    exec (.placementSelect n) s = .next (s.modTask n (fun t => { t with place := .phase1, cores := set, asked := set, granted := [], refused := false }))) ∧
   (∀ set, t.place = .select ∨ t.place = .wait → t.picked = true ∨ (s.placing t.die < 4 ∧
     ∀ u ∈ s.tasks, u.die = t.die → u.place = .select → u.picked = false → s.before u t = false) →
    (t.onto.toList ++ t.sets).find? (fun set => set.all (fun c => s.openTo n c && !s.promised n c)) = none →
    let u := s.modTask n (fun t => { t with place := .wait })
    let serves : Prop := ∃ kept, t.onto = some kept ∧ ∀ v ∈ s.ownersOf kept, v.stopAt ≠ none ∨ v.cut ≠ none
    (serves → exec (.placementSelect n) s = .next u) ∧
    (¬ serves → u.victimSet t true [] = some set → exec (.placementSelect n) s = .next (u.askStop n set)) ∧
    (u.victimSet t true [] = none → exec (.placementSelect n) s = .next u)) ∧
   (t.place = .hold → (∀ c ∈ t.cores, (s.core c).resv = .held n) →
    exec (.placementSelect n) s = .next (s.modTask n (fun u => { u with place := .phase1, cores := t.cores, asked := t.cores, granted := [], refused := false }))) ∧
   (∀ c rest, t.place = .phase1 → t.asked = c :: rest →
    (s.openTo n c = true → exec (.reserveRequest c n) s = .next ((s.modTask n (fun t => { t with
     asked := rest
     granted := t.granted ++ [c]
     refused := t.refused })).modCore c (fun k => { k with resv := .reserved n s.tick (k.resv = .held n) }))) ∧
    (s.openTo n c = false → exec (.reserveRequest c n) s = .next (s.modTask n (fun t => { t with
     asked := rest
     granted := t.granted
     refused := true })))) ∧
   (t.place = .phase1 → t.asked = [] → t.refused = true → exec (.phase1Result n) s = .next (s.abortPlacement t)) ∧
   (t.place = .phase1 → t.asked = [] → t.refused = false → t.state = .swapped →
    (∀ c ∈ t.cores, ∃ since held, (s.core c).resv = .reserved n since held) → ∃ u : State, exec (.phase1Result n) s = .next u ∧
    (∀ c ∈ t.cores, (u.core c).resv = .owned n) ∧ u.swaps = s.swaps ∧ ∃ v, u.task n = some v ∧ v.place = .commit ∧ v.state = .swapped) ∧
   (t.place = .phase1 → t.asked = [] → t.refused = false → t.state ≠ .swapped →
    (∀ c ∈ t.cores, ∃ since held, (s.core c).resv = .reserved n since held) → ∃ u : State, exec (.phase1Result n) s = .next (u.startGang { t with
     place := .commit
     state := .running }) ∧ (∀ c ∈ t.cores, (u.core c).resv = .owned n) ∧ u.mem = s.mem ∧ ∀ h ∈ u.hold, h.2 ≠ n + 1) ∧
   (∀ c since held, (s.core c).resv = .reserved n since held →
    (since + 10000 ≤ s.tick → exec (.reservationTimeout c) s = .next (s.release n c)) ∧ (s.tick < since + 10000 → exec (.reservationTimeout c) s = .next s)) ∧
   (∀ d, t.place = .backoff → t.stopAt = some d → d ≤ s.tick →
    exec (.placementBackoffExpiry n) s = .next (s.modTask n (fun t => { t with place := .select, stopAt := none }))) ∧
   (∀ die u, s.holdTaken die = false → let ws := s.tasks.filter (fun t => t.die = die && t.place = .backoff && 8 ≤ t.fails)
    ws.find? (fun t => ws.all (fun u => !s.before u t)) = some u → exec (.holdSlotGrant die) s = .next (s.claimHold u)) ∧
   (∀ die, s.holdTaken die = true → exec (.holdSlotGrant die) s = .next s) ∧
   ∀ die, die < 4 → s.tick / s.quantumTicks ≠ SMap.get 0 s.quantum die →
    let u : State := { s with quantum := SMap.set 0 s.quantum die (s.tick / s.quantumTicks) }
    exec (.quantumBoundary die) s = .next ((u.inOrder (u.waiters die)).foldl State.serve (u, [])).1

/-- Stopping and swapping a gang, and routing tokens to experts (R163, R164, R173, R176, R197, R303, R304, R432,
R172). The model's own choice: the image of a gang and when a swap is abandoned (log 29), and how the XROUTEs of
a group go on and wait (log 30). -/
def Obligations.GangsSwapAndRoute : Prop :=
  (∀ (s : State) (n : Nat) (t : Task), s.task n = some t →
   let l := s.liveCtxs n
   (t.state = .running → t.place = .none → t.stopAt ≠ none → t.cut = none → (∀ p ∈ l, (s.ctx p.1 p.2).report = none) →
    exec (.stopRequest n) s = .next (l.foldl (fun s p => s.modCtx p.1 p.2 (fun x => { x with report := some ((fld x.sr.lastcut 0 32 + 1) % 2 ^ 32) })) s)) ∧
   (t.stopAt ≠ none → t.cut = none → (∀ p ∈ l, (s.ctx p.1 p.2).report ≠ none) → let c := ((s.gang n).map (fun p => (s.ctx p.1 p.2).report.getD 0)).foldl max 0
    let past (p : Nat × Nat) : Prop := ∃ n, (s.ctx p.1 p.2).lastCut = some n ∧ c < n
    ((∀ p ∈ l, ¬ past p) → exec (.stopCutBroadcast n) s =
     .next (l.foldl (fun s p => s.modCtx p.1 p.2 (fun x => x.meetCut c)) (s.modTask n (fun t => { t with cut := some c })))) ∧
    ((∃ p ∈ l, past p) → exec (.stopCutBroadcast n) s = .next (s.abandonSwap n))) ∧
   (∀ d, t.state = .running → t.stopAt = some d → d ≤ s.tick → t.cut = none ∨ (∃ p ∈ l, (s.ctx p.1 p.2).atBoundary = false) →
    exec (.stopTimeout n) s = .next (s.abandonSwap n)) ∧
   ((∃ v, (s.abandonSwap n).task n = some v ∧ v.exempt = s.tick + 8 * s.quantumTicks ∧ v.cut = none ∧ v.stopAt = none) ∧
    (s.abandonSwap n).wd.uncut = s.wd.uncut + 1) ∧
   (t.state = .running → t.cut ≠ none → (∀ p ∈ l, (s.ctx p.1 p.2).stopped = true) →
    (s.freeSlots.length < t.cores.length → exec (.swapOut n) s = .next (s.abandonSwap n)) ∧
    (t.cores.length ≤ s.freeSlots.length → (∀ p ∈ l, (s.ctx p.1 p.2).sr.xlvl = 0) →
     (∀ p ∈ s.gang n, (s.ctx p.1 p.2).atRest = true ∧ (s.ctx p.1 p.2).status ≠ .parked) → (∀ j ∈ s.taskJobs t, j.kind.drains = false) →
     ∃ u : State, exec (.swapOut n) s = .next u ∧ u.swaps = s.swaps ++ [⟨n, t.cores.map (fun c => (c, (s.core c).saved)), s.freeSlots.take t.cores.length⟩] ∧
      (∀ a, (∀ i ∈ s.freeSlots.take t.cores.length, a < s.wd.swbase.toNat + i * 2 ^ 20 ∨ s.wd.swbase.toNat + i * 2 ^ 20 + 2 ^ 20 ≤ a) →
       u.memRead 0 a 1 = s.memRead 0 a 1) ∧
      ∀ c ∈ t.cores, ∀ k, k < 4 → (u.ctx c k) = { Ctx.init with pts := (u.ctx c k).pts } ∧ (s.ctx c k).pts ≤ (u.ctx c k).pts)) ∧
   (∀ g, t.state = .swapped → t.place = .commit → s.swaps.find? (fun g => g.task = n) = some g →
    (∀ p ∈ g.cores, (s.core p.1).resv.owner = some n) → ∃ u : State, exec (.swapIn n) s = .next u ∧
     u.swaps = s.swaps.filter (fun h => h.task ≠ n) ∧ u.mem = s.mem ∧
     ∀ c ∈ g.cores.map (·.1), ∀ k, k < 4 → (s.ctx c k).pts ≤ (u.ctx c k).pts) ∧
   (t.state = .running → t.place = .commit → t.filled = true → (∀ c ∈ t.cores, (s.core c).lbs.any (fun b => b.2.st = .filling) = false) →
    exec (.swapIn n) s = .next (((s.gang n).foldl (fun s p => s.modCtx p.1 p.2 (fun x => { x with held := false })) s).modTask n (fun t => { t with place := .none })))) ∧
  (∀ (x : Ctx) (c : Nat), (x.held = false → x.meetCut c = x) ∧
   (x.held = true → x.lastCut = some c → x.mayStop = true → x.meetCut c = { x with stopped := true }) ∧
   (x.held = true → x.lastCut ≠ some c ∨ x.mayStop = false → (x.meetCut c).held = false ∧ (x.meetCut c).sr = x.sr)) ∧
  ∀ s : State,
   (∀ ci k j c token ch, s.wdJob ci k (fun k => (xrouteOf k).isSome) = some j → j.kind = .xroute c token ch →
    exec (.xrouteApply ci k) s = .next ((s.joinGroup j c).1.pumpGroup (s.joinGroup j c).2.key (s.joinGroup j c).2.fuel) ∧
    ∃ rest, (s.joinGroup j c).2.wait = rest ++ [j]) ∧
   (∀ key fuel g j rest c token ch, s.groups.find? (fun g => g.key = key) = some g → g.wait = j :: rest → j.kind = .xroute c token ch →
    (g.stuck = true ∨ ((g.starting ≠ [] ∨ g.result = none) ∧ s.jobWaits j = true) → s.pumpGroup key (fuel + 1) = s) ∧
    (∀ w, g.stuck = false → g.starting = [] → g.result = some w →
     s.pumpGroup key (fuel + 1) = State.pumpGroup key fuel ((s.setGroup { g with wait := rest, step := 0, begun := false, result := none }).answer j [BitVec.ofNat 64 w])) ∧
    let r := (⟨s.engine (.fabric j.core j.id) j.space j.pts, g, c, j.task⟩ : Route).turn j token ch
    (g.stuck = false → g.starting ≠ [] ∨ g.result = none → s.jobWaits j = false → r.e.stop = none →
     s.pumpGroup key (fuel + 1) = State.pumpGroup key fuel ((r.e.s.clearWait (.fabric j.core j.id)).setGroup (r.g.clock r.e.pts))) ∧
    (g.stuck = false → g.starting ≠ [] ∨ g.result = none → s.jobWaits j = false → r.e.stop = some .wait → s.pumpGroup key (fuel + 1) = r.e.s) ∧
    (g.stuck = false → g.starting ≠ [] ∨ g.result = none → s.jobWaits j = false → r.e.stop ≠ none → r.e.stop ≠ some .wait →
     s.pumpGroup key (fuel + 1) = State.pumpGroup key fuel (((r.e.s.clearWait (.fabric j.core j.id)).setGroup g.popHead).answer j [6]))) ∧
   (∀ g : XGroup, g.ready = true → g.bad = false → g.midway = false → (∀ n < g.nexp, (g.expert n).st = 2) →
    (g.wait = [] → (s.setGroup g).groups.find? (fun h => h.key = g.key) = none) ∧
    (g.wait ≠ [] → (s.setGroup g).groups.find? (fun h => h.key = g.key) = some { g with ready := false })) ∧
   ∀ m g e, s.groups.findSome? (fun g => ((List.range g.nexp).find? (fun e => (g.expert e).st = 1 && (g.tmpl.task + BitVec.ofNat 20 e).toNat = m &&
      !s.tasks.any (fun t => t.group = some g.key && t.expert.toNat = e))).map (fun e => (g, e))) = some (g, e) →
    let q := (⟨s.engine (.fabric g.core (2 ^ 64 + e)) g.space 0, g, mkCap g.obj 0 (2 ^ 40 - 1) 0 0 true, 0⟩ : Route).hold
    let r := q.finish e
    let u := (r.e.s.clearWait (.fabric g.core (2 ^ 64 + e))).setGroup r.g
    let free (h : XGroup) : XGroup := if h.key = g.key then { h with stuck := false } else h
    exec (.xrouteResume m) s = .next (if q.e.stop = some .wait then q.e.s else ({ u with groups := u.groups.map free }).pumpGroup g.key g.fuel) ∧ (r.g.expert e).st = 2

/-- Taking an exception (R290, R291, R305, R306). The model's own choice: a cause found at issue waits for the port
(log 42), and terms that have not landed are withdrawn (log 41). -/
def Obligations.TrapEntry : Prop :=
  (∀ (t : State) (ci k : Nat) (c : Cause) (v : Word) (m : BitVec 8) (rec : List PortEntry) (n : Nat),
  let s := t.land ci
  c ≠ .translation → n = (s.ctx ci k).sr.xlvl.toNat + 1 → n ≤ 2 → ((s.ctx ci k).sr.bank n).vec.getLsbD 11 = true →
  let x := s.ctx ci k
  let y := (t.takeTrap ci k c v m rec).ctx ci k
  y.sr.xlvl.toNat = n ∧ y.sr.bank n = { x.sr.bank n with
    cause := BitVec.ofNat 64 c.code, val := v, mask := m.setWidth 64, pc := x.pc.word, as := x.aReg 31 } ∧
   y.sr.bank (3 - n) = x.sr.bank (3 - n) ∧
   y.status = (if x.status = .running then .running else .ready) ∧ y.pc = pcOf (x.sr.bank n).vec ∧
   y.aReg 31 = x.sr.xsave.withOff (x.sr.xsave.off + 512 * ((n : Int) - 1)) ∧ (∀ r, r ≠ 31 → y.aReg r = x.aReg r) ∧
   y.s = x.s ∧ y.v = x.v ∧ y.x = x.x ∧ y.t = x.t ∧ y.d = x.d ∧ y.p = x.p ∧ y.m = x.m ∧ y.sr.fpcsr = x.sr.fpcsr ∧
   y.sr.xsave = x.sr.xsave ∧ (t.takeTrap ci k c v m rec).mem = s.mem ∧
   (∀ j, j ≠ ci → (t.takeTrap ci k c v m rec).core j = s.core j) ∧
   ∀ j, j ≠ k → (t.takeTrap ci k c v m rec).ctx ci j = s.ctx ci j)
   ∧ (∀ (t : State) (ci k : Nat) (c : Cause) (v : Word) (m : BitVec 8) (rec : List PortEntry),
  let s := t.land ci
  ((s.ctx ci k).sr.xlvl.toNat < 2 → c = .translation →
   ((t.takeTrap ci k c v m rec).ctx ci k).status = .parked ∧ ((t.takeTrap ci k c v m rec).ctx ci k).pc = (s.ctx ci k).pc ∧
   ((t.takeTrap ci k c v m rec).ctx ci k).sr.xlvl.toNat = (s.ctx ci k).sr.xlvl.toNat + 1) ∧
  (((s.ctx ci k).sr.xlvl.toNat = 2 ∨ (c ≠ .translation ∧
    ((s.ctx ci k).sr.bank ((s.ctx ci k).sr.xlvl.toNat + 1)).vec.getLsbD 11 = false)) →
   ((t.takeTrap ci k c v m rec).ctx ci k).status = .idle))

/-- Memory writes, and how a unit of an access performs (R99, R121, R123, R273, R406, R412, R418). The model's own
choice: what unwritten memory reads as (log 6), and what a line reads as under another pair (log 12). -/
def Obligations.MemoryWrites : Prop :=
  (∀ (s : State) (key : BitVec 9) (pa : Nat) (bs : List Byte) (en : Nat → Bool) (tag : Bool), s.mem.wf = true →
   let t := s.memWriteEn key pa bs en tag
   (s.keys.empty key = true ∨ s.cxlLost pa = true → t = s) ∧
   (s.keys.empty key = false → s.cxlLost pa = false →
    (∀ i, i < bs.length → en i = true → t.byteUnder key (pa + i) = bs.getD i 0) ∧
    (∀ a, a ∉ written pa bs en → t.byteUnder key a = s.byteUnder key a) ∧
    (∀ a k, (∀ x ∈ written pa bs en, x / 64 ≠ a / 64) → t.byteUnder k a = s.byteUnder k a) ∧
    (∀ a, t.tagAt a = if (written pa bs en).any (fun x => x / 16 = a / 16) then tag else s.tagAt a)) ∧ t.mem.wf = true)
   ∧ (∀ (s : State) (ci k : Nat) (a : Acc) (u : MUnit) (pa : Nat) (key : BitVec 9),
   let r := s.performUnit ci k a u pa key
   let bytes (t : State) : Prop := t.mem.bytes = s.mem.bytes ∧ t.mem.tags = s.mem.tags ∧ t.mem.poison = s.mem.poison ∧ t.mem.lineKey = s.mem.lineKey
   (∀ n sg, a.kind = .ldS n sg → bytes r.1 ∧ r.2.got = a.got ++ [s.memRead key pa u.len]) ∧
   (∀ m, a.kind = .ldRow m → bytes r.1 ∧ r.2.got = a.got ++ [s.memRead key pa u.len]) ∧
   (∀ w ls, a.kind = .gather w ls → bytes r.1 ∧ r.2.got = a.got ++ [s.memRead key pa u.len]) ∧
   (a.kind = .ldCap → bytes r.1 ∧ r.2.got = a.got ++ [s.memRead key pa u.len] ∧ r.2.ctag = s.tagAt pa) ∧
   (a.kind = .store → let w := s.memWriteEn key pa u.data (fun i => u.en.getLsbD i) false
    r.1.mem.bytes = w.mem.bytes ∧ r.1.mem.tags = w.mem.tags ∧ r.1.mem.poison = w.mem.poison ∧ r.1.mem.lineKey = w.mem.lineKey ∧ r.2 = a) ∧
   (a.kind = .stCap → let w := s.memWriteEn key pa u.data (fun _ => true) u.tag
    r.1.mem.bytes = w.mem.bytes ∧ r.1.mem.tags = w.mem.tags ∧ r.1.mem.poison = w.mem.poison ∧ r.1.mem.lineKey = w.mem.lineKey ∧ r.2 = a) ∧
   (∀ op n b c, a.kind = .atomic op n b c → a.poison = none → s.poisonAt key pa u.len = none →
    r.2.got = [s.memRead key pa u.len] ∧
    match atomNew op n (ofBytes (s.memRead key pa u.len)) (b.toNat % 2 ^ n) (c.toNat % 2 ^ n) with
    | none => bytes r.1
    | some v => r.1.mem.bytes = (s.memWrite key pa (bytesOf u.len v)).mem.bytes) ∧
   (s.ctx ci k).pts ≤ (r.1.ctx ci k).pts ∧
   ∀ l ∈ linesOf pa u.len, (a.kind = .store → (s.mem.stamp l).2 < (r.1.mem.stamp l).1))

/-- An access without its right, tag or bounds traps before anything is done (R405, R98, R181, R281). -/
def Obligations.AccessChecksTrap : Prop :=
  ∀ (h : Hd) (f : MFmt) (s : State) (c : Cap) (d : Word), ∀ r ∈ ([(.ldd, .ldd, .ld, 0, 1), (.std, .std, .st, 1, 2)] : List ((Hd → MFmt → Instr) × Op × Slot × Nat × BitVec 8)),
   let e := s.env r.2.2.1 h
   let o := (c.off + f.disp.toInt) / 8 * 8
   let traps (cause : Cause) (rights : Nat) : Prop :=
    let v := capValue (f.ab.toNat % 32) r.2.2.2.1 rights o
    exec (r.1 h f) s = .next ((s.trapNow s.iss.core s.iss.ctx cause v (slotMask [r.2.2.1])).setVerdict (.trapped cause v))
   Ready r.2.1 r.2.2.1 (mkM r.2.1.code h f) h s → e.srcS f.dt = .ok d → e.srcA f.ab = .ok c →
   (c.valid = false → traps .capTag 0) ∧
   let free : Prop := ∀ w, e.objOf c = some w → e.overlaps (r.2.2.2.1 = 1) [(((w.base : Int) + o).toNat, 8)] = false
   (c.valid = true → free → c.rights &&& r.2.2.2.2 = 0 → traps .capRights r.2.2.2.2.toNat) ∧
   (c.valid = true → free → c.rights &&& r.2.2.2.2 ≠ 0 → o < 0 ∨ (c.len : Int) < o + 8 → traps .capBounds 0)

/-- A slot that is not enabled does nothing (R308, R181). -/
def Obligations.DisabledDoesNothing : Prop :=
  ∀ (h : Hd) (s : State) (u : VSlot), s.iss.ask = .issue → (∀ k, (s.env k h).predStop = none ∧ (s.env k h).enabled = false) →
   (∀ f, (s.env .sc h).illegalAlone .add (mkR Op.add.code h f) = none → exec (.add h f) s = .next (s.setVerdict .disabled)) ∧
   (∀ f, (s.env .sc h).illegalAlone .li (mkL Op.li.code h f) = none → exec (.li h f) s = .next (s.setVerdict .disabled)) ∧
   (∀ f, (s.env .sc h).illegalAlone .br (mkB Op.br.code h f) = none → exec (.br h f) s = .next (s.setVerdict .disabled)) ∧
   (∀ f, (s.env .sc h).illegalAlone .exit (mkR Op.exit.code h f) = none → exec (.exit h f) s = .next (s.setVerdict .disabled)) ∧
   (∀ f, (s.env .ld h).illegalAlone .ldd (mkM Op.ldd.code h f) = none → exec (.ldd h f) s = .next (s.setVerdict .disabled)) ∧
   (∀ f, (s.env .st h).illegalAlone .std (mkM Op.std.code h f) = none → exec (.std h f) s = .next (s.setVerdict .disabled)) ∧
   (∀ f, (s.env .mt h).illegalAlone .mstz (mkR Op.mstz.code h f) = none → exec (.mstz h f) s = .next (s.setVerdict .disabled)) ∧
   (∀ f, (s.env .sc h).illegalAlone .addi (mkI Op.addi.code h f) = none → exec (.addi h f) s = .next (s.setVerdict .disabled)) ∧
   (∀ f, (s.env u.slot h).illegalAlone .vadd (mkR Op.vadd.code h f) = none → exec (.vadd u h f) s = .next (s.setVerdict .disabled)) ∧
   (∀ f, (s.env u.slot h).illegalAlone .vaddi (mkI Op.vaddi.code h f) = none → exec (.vaddi u h f) s = .next (s.setVerdict .disabled)) ∧
   (∀ f, (s.env .eg h).illegalAlone .cgomm (mkE Op.cgomm.code h f) = none → exec (.cgomm h f) s = .next (s.setVerdict .disabled)) ∧
   (∀ f, (s.env .sy h).illegalAlone .post (mkE Op.post.code h f) = none → exec (.post h f) s = .next (s.setVerdict .disabled))

/-- Rounding a representable value gives its own encoding and no flag (R219, R221). -/
def Obligations.RepresentableRoundsToItself : Prop :=
  ∀ f ∈ [fp32, fp16, bf16, e4m3, e5m2], ∀ (m n : Nat) (sat : Bool), m < 4 → n < 2 ^ f.w → (unpack f n).isNan = false →
   roundTo f m sat (unpack f n) = (n, 0)

/-- A result in flight changes nothing until it lands (R182, R183). -/
def Obligations.FlightFrame : Prop :=
  ∀ (s : State) (ci k : Nat) (r : Result) (cj j : Nat),
   (s.fly ci k r).mem = s.mem ∧ (s.fly ci k r).tasks = s.tasks ∧ (s.fly ci k r).iss = s.iss ∧
   ((s.fly ci k r).core cj).deep = (s.core cj).deep ∧ ((s.fly ci k r).core cj).acm = (s.core cj).acm ∧
   ((s.fly ci k r).core cj).edges = (s.core cj).edges ∧ ((s.fly ci k r).core cj).flags = (s.core cj).flags ∧
   ((s.fly ci k r).core cj).latches = (s.core cj).latches ∧
   (s.fly ci k r).ctx cj j = (if cj = ci ∧ j = k then { s.ctx cj j with flight := (s.ctx cj j).flight ++ [r] } else s.ctx cj j)

/-- A landing result writes its own destination alone (R183, R187, R409). -/
def Obligations.LandingFrame : Prop :=
  (∀ (c : Core) (k n : Nat) (v : Row) (m : Quad),
   (∀ cls ∈ [Cls.s, .a, .v, .x, .t, .d, .p, .m], ((c.landPay k (.reg cls n v m)).1.ctx k).SameRegsBut (c.ctx k) cls n) ∧
   ((c.landPay k (.reg .s n v m)).1.ctx k).sReg n = (if n = 0 then 0 else v.setWidth 64) ∧
   ((c.landPay k (.reg .p n v m)).1.ctx k).pReg n = (if n = 0 then true else v.getLsbD 0) ∧
   ((c.landPay k (.reg .v n v m)).1.ctx k).vReg n = mergeRow m ((c.ctx k).vReg n) v ∧
   ((c.landPay k (.reg .x n v m)).1.ctx k).xReg n = v.setWidth 32 ∧
   ((c.landPay k (.reg .d n v m)).1.ctx k).dReg n = v.setWidth 24 ∧
   ((c.landPay k (.reg .m n v m)).1.ctx k).mReg n = v.setWidth 128 ∧
   (∀ p, ((c.landPay k (.cap n p)).1.ctx k).aReg n = p ∧ ((c.landPay k (.cap n p)).1.ctx k).SameRegsBut (c.ctx k) .a n) ∧
   (∀ t, ((c.landPay k (.tile n t)).1.ctx k).tReg n = t ∧ ((c.landPay k (.tile n t)).1.ctx k).SameRegsBut (c.ctx k) .t n) ∧
   ∀ cls j, j ≠ k → (c.landPay k (.reg cls n v m)).1.ctx j = c.ctx j ∧ (c.landPay k (.reg cls n v m)).1.deep = c.deep ∧
    (c.landPay k (.reg cls n v m)).1.acm = c.acm ∧ (c.landPay k (.reg cls n v m)).1.edges = c.edges ∧
    (c.landPay k (.reg cls n v m)).1.flags = c.flags)
   ∧ (∀ (m : Quad) (old v : Row) (i : Nat), i < 128 →
   (mergeRow m old v).extractLsb' (8 * i) 8 = if m.getLsbD i then v.extractLsb' (8 * i) 8 else old.extractLsb' (8 * i) 8)
end

