-- ==== Sys2Proof/Laws/Issue.lean ====
section
/-!
SUPPORT. What issuing one slot does (R181, R308, R315): it answers a next state always; it commits where it is ready and
its own work goes through; it does nothing where it is not enabled.
-/

set_option Elab.async false

namespace Sys2Proof.Machine

/-- A ready slot whose work stops stops with it. -/
theorem attempt_stops {op : Op} {k : Slot} {w : Word} {h : Hd} {s : State} {body : Body} {p : Stop} (r : Ready op k w h s)
    (hb : body (s.env k h) = .error p) : (s.env k h).attempt op w body = .error p := by
  have hp : (s.env k h).s.iss.ask ≠ .binds := by simp [show (s.env k h).s.iss.ask = .issue from r.plain]
  unfold Env.attempt
  rw [r.legal, if_neg hp, r.pred, r.on, r.free, r.tiles, r.sound, hb]
  cases p <;> rfl

/-- A ready slot whose work goes through. -/
theorem attempt_ready {op : Op} {k : Slot} {w : Word} {h : Hd} {s t : State} {body : Body} (r : Ready op k w h s)
    (hb : body (s.env k h) = .ok t) : (s.env k h).attempt op w body = .ok (some t) := by
  have hp : (s.env k h).s.iss.ask ≠ .binds := by simp [show (s.env k h).s.iss.ask = .issue from r.plain]
  unfold Env.attempt
  rw [r.legal, if_neg hp, r.pred, r.on, r.free, r.tiles, r.sound, hb]
  rfl

/-- A ready slot whose work goes through commits with its effect. -/
theorem runSlot_ready {op : Op} {k : Slot} {w : Word} {h : Hd} {s t : State} {body : Body} (r : Ready op k w h s)
    (hb : body (s.env k h) = .ok t) : runSlot op k w h s body = .next (t.setVerdict .committed) := by
  unfold runSlot
  simp only [attempt_ready r hb]

/-- A ready slot whose work stops with an exception takes it (R181, R290). -/
theorem runSlot_traps {op : Op} {k : Slot} {w : Word} {h : Hd} {s : State} {body : Body} {c : Cause} {v : Word}
    (r : Ready op k w h s) (hb : body (s.env k h) = .error (.trap c v)) :
    runSlot op k w h s body =
      .next ((s.trapNow s.iss.core s.iss.ctx c v (slotMask [k])).setVerdict (.trapped c v)) := by
  unfold runSlot
  simp only [attempt_stops r hb, r.legal]
  rfl

/-- A ready slot whose work blocks leaves its context blocked (R178). -/
theorem runSlot_blocks {op : Op} {k : Slot} {w : Word} {h : Hd} {s : State} {body : Body} {row : BitVec 4}
    (r : Ready op k w h s) (hb : body (s.env k h) = .error (.block row)) :
    runSlot op k w h s body = .next ((s.block s.iss.core s.iss.ctx row).setVerdict (.blocked row)) := by
  unfold runSlot
  simp only [attempt_stops r hb]
  rfl

/-- A ready slot that pauses leaves its context paused (R450). -/
theorem runSlot_pauses {op : Op} {k : Slot} {w : Word} {h : Hd} {s : State} {body : Body} {t : Option Nat}
    (r : Ready op k w h s) (hb : body (s.env k h) = .error (.pause t)) :
    runSlot op k w h s body = .next ((s.pause s.iss.core s.iss.ctx t).setVerdict (.paused t)) := by
  unfold runSlot
  simp only [attempt_stops r hb]
  rfl

/-- A ready wait whose flag was refused a post takes FLAG_OVERFLOW between bundles (R442). -/
theorem runSlot_overflows {op : Op} {k : Slot} {w : Word} {h : Hd} {s : State} {body : Body} {f : Nat}
    (r : Ready op k w h s) (hb : body (s.env k h) = .error (.overflow f)) :
    runSlot op k w h s body = .next ((s.overflow s.iss.core s.iss.ctx f).setVerdict (.overflow f)) := by
  unfold runSlot
  simp only [attempt_stops r hb]
  rfl

/-- A check that does not stop. -/
theorem stopIf_false {c : Bool} {x : Stop} (h : c = false) : stopIf c x = .ok () := by
  subst h
  rfl
/-- A check that stops. -/
theorem stopIf_true {c : Bool} {x : Stop} (h : c = true) : stopIf c x = .error x := by
  subst h
  rfl
/-- A check that does not block. -/
theorem Env.blockIf_false {e : Env} {c : Bool} {r : BitVec 4} (h : c = false) : e.blockIf c r = .ok () :=
  stopIf_false (by simp [h])
/-- A bundle that is being issued passes over no condition. -/
theorem Env.passes_issue {e : Env} (h : e.s.iss.ask = .issue) (r : BitVec 4) : e.passes r = false := by
  simp [Env.passes, h]
/-- A check that blocks. -/
theorem Env.blockIf_true {e : Env} {c : Bool} {r : BitVec 4} (hp : e.s.iss.ask = .issue) (h : c = true) :
    e.blockIf c r = .error (.block r) := stopIf_true (by simp [h, Env.passes_issue hp])

/-- A legal slot that is not enabled, by a predicate that is not in error, does nothing (R308). -/
theorem runSlot_disabled {op : Op} {k : Slot} {w : Word} {h : Hd} {s : State} {body : Body} (ha : s.iss.ask = .issue)
    (hl : (s.env k h).illegalAlone op w = none) (hp : (s.env k h).predStop = none) (hd : (s.env k h).enabled = false) :
    runSlot op k w h s body = .next (s.setVerdict .disabled) := by
  have hq : (s.env k h).s.iss.ask ≠ .binds := by simp [show (s.env k h).s.iss.ask = .issue from ha]
  have ha : (s.env k h).attempt op w body = .ok none := by
    unfold Env.attempt
    rw [hl, if_neg hq, hp, hd]
    rfl
  unfold runSlot
  simp only [ha]

/-- A slot instruction answers a next state, whatever it comes to. -/
theorem runSlot_next (op : Op) (k : Slot) (w : Word) (h : Hd) (s : State) (body : Body) :
    ∃ t, runSlot op k w h s body = .next t := by
  unfold runSlot
  dsimp only
  split <;> exact ⟨_, rfl⟩

/-- A floating-point result with no enabled exception goes through (R225). -/
theorem Env.fpCheck_none (e : Env) (fl : Fl) (h : bits fl.toNat 0 5 &&& fld e.x.sr.fpcsr 8 5 = 0) : e.fpCheck fl = .ok () := by
  unfold Env.fpCheck trapIf stopIf
  simp [h]

/-- A result without flags goes through. -/
theorem Env.fpCheck_zero (e : Env) : e.fpCheck 0 = .ok () := Env.fpCheck_none e 0 (by simp [bits])

/-- A scalar result without flags. -/
theorem Env.retS_eq (e : Env) (lat : Nat) (d : BitVec 9) (v : Word) :
    e.retS lat d v = .ok (e.fly (e.result lat (v.setWidth 1024) false (.reg .s d.toNat (v.setWidth 1024) allBytes) 0)) := by
  unfold Env.retS Env.ret
  rw [Env.fpCheck_zero]
  rfl

/-- A predicate result without flags. -/
theorem Env.retP_eq (e : Env) (lat : Nat) (d : BitVec 9) (v : Bool) :
    e.retP lat d v = .ok (e.fly (e.result lat ((BitVec.ofBool v).setWidth 1024) false
      (.reg .p d.toNat ((BitVec.ofBool v).setWidth 1024) allBytes) 0)) := by
  unfold Env.retP Env.ret
  rw [Env.fpCheck_zero]
  rfl

/-- A mask result without flags. -/
theorem Env.retM_eq (e : Env) (lat : Nat) (d : BitVec 9) (v : Quad) :
    e.retM lat d v = .ok (e.fly (e.result lat (v.setWidth 1024) false (.reg .m d.toNat (v.setWidth 1024) allBytes) 0)) := by
  unfold Env.retM Env.ret
  rw [Env.fpCheck_zero]
  rfl

/-- A vector result whose flags raise no enabled exception: a register, or the row an index register names. -/
theorem Env.retVm_eq (e : Env) (lat : Nat) (d : BitVec 9) (v : Row) (mask : Quad) (fl : Fl)
    (h : bits fl.toNat 0 5 &&& fld e.x.sr.fpcsr 8 5 = 0) :
    e.retVm lat d v mask fl = .ok (e.fly (e.result lat v false
      (if 400 ≤ d.toNat then .row (e.x.xRow (d.toNat - 400)) v mask else .reg .v d.toNat v mask) fl)) := by
  unfold Env.retVm
  rw [Env.fpCheck_none e fl h]
  show (if 400 ≤ d.toNat then _ else _) = _
  split <;> rfl

/-- A result in flight leaves every register and memory as they are until it lands. -/
theorem Env.fly_mem (e : Env) (r : Result) : (e.fly r).mem = e.s.mem := rfl

end Sys2Proof.Machine
end

