-- ==== Sys2Proof/Laws/Access.lean ====
section
/-!
SUPPORT. What the checks of an access come to: capability, object and live jobs (R98, R103, R281, R405, R421).
-/

set_option Elab.async false

namespace Sys2Proof.Machine

/-- The checks of R98 pass. -/
theorem capCheck_ok {areg acc : Nat} {c : Cap} {need : BitVec 8} {eo : Int} {n : Nat} (h : c.Allows need eo n) :
    capCheck areg acc c need eo n = .ok () := by
  obtain ⟨hv, hr, hi⟩ := h
  unfold capCheck
  rw [if_neg (by simp [hv]), if_neg (by simp [hr]), if_neg]
  rcases hi with hi | hi
  · simp [hi]
  · simp
    omega

/-- The object's checks pass. -/
theorem objCheck_ok {e : Env} {areg acc : Nat} {c : Cap} {eo : Int} {n : Nat} {w : Bool}
    (h1 : ∀ o, e.objOf c = some o → eo + n ≤ o.len) (h2 : ∀ o, e.objOf c = some o → w = true → o.now = false) :
    e.objCheck areg acc c eo n w = .ok () := by
  unfold Env.objCheck
  unfold Env.objOf at h1 h2
  split
  · rfl
  · rename_i o ho
    have a := h1 o ho
    have b := h2 o ho
    rw [stopIf_false (by simp; omega), stopIf_false (by cases w <;> simp_all)]
    rfl

/-- The checks of a capability that an engine command names pass (R421). -/
theorem engCap_ok {e : Env} {areg : Nat} {c : Cap} {need : BitVec 8} {eo : Int} {n : Nat} (h : e.EngAllows c need eo n) :
    e.engCap areg c need eo n = .ok () := by
  obtain ⟨h1, h2, h3⟩ := h
  unfold Env.engCap
  rw [capCheck_ok h1]
  simp only [bind, Except.bind]
  split
  · rfl
  · rename_i hn
    exact objCheck_ok (fun o ho => h2 hn o ho) (fun o ho hw => h3 hn (by simpa using hw) o ho)

/-- An access that meets no live job enters the port. -/
theorem start_ok {e : Env} {kind : AccKind} {d : Option Dest} {areg : Nat} {c : Cap} {us : List MUnit}
    (h : ∀ o, e.objOf c = some o → e.overlaps kind.writes (us.map (fun u => (o.base + u.off, u.len))) = false) :
    e.start kind d areg c us = .ok (e.accessed kind d areg c us) := by
  unfold Env.start Env.accessed
  cases us <;> cases ho : e.objOf c <;> simp [pure, Except.pure, bind, Except.bind]
  all_goals
    have := h _ ho
    simp at this
    simp [Env.blockIf_false this]

/-- The checks of several units pass (R405). -/
theorem checkUnits_ok {e : Env} {areg acc : Nat} {c : Cap} {need : BitVec 8} {w : Bool} {n : Nat} : ∀ {l : List Int},
    (∀ u ∈ l.map (fun o => (o, n)), c.Allows need u.1 u.2) →
    (∀ o, e.objOf c = some o → ∀ u ∈ l.map (fun o => (o, n)), u.1 + (u.2 : Nat) ≤ (o.len : Int)) →
    (∀ o, e.objOf c = some o → w = true → o.now = false) → e.checkUnits areg acc c need w n l = .ok ()
  | [], _, _, _ => rfl
  | o :: t, h1, h2, h3 => by
    unfold Env.checkUnits
    simp only [bind, Except.bind]
    rw [capCheck_ok (h1 (o, n) (by simp))]
    simp only []
    rw [objCheck_ok (fun p hp => h2 p hp (o, n) (by simp)) h3]
    exact checkUnits_ok (fun u hu => h1 u (by simp at hu ⊢; exact .inr hu))
      (fun p hp u hu => h2 p hp u (by simp at hu ⊢; exact .inr hu)) h3

end Sys2Proof.Machine
end

