-- ==== Sys2Proof/Laws/SMap.lean ====
section
/-!
SUPPORT. What a sparse store does: reading after a write, and that each write keeps the canonical form.
-/

set_option Elab.async false

namespace Sys2Proof

variable {V : Type}

@[simp] theorem SMap.get_nil (d : V) (k : Nat) : SMap.get d [] k = d := rfl

theorem SMap.get_erase (d : V) (l : SMap V) (k j : Nat) :
    SMap.get d (SMap.erase l k) j = if j = k then d else SMap.get d l j := by
  induction l with
  | nil => simp [SMap.erase, SMap.get]
  | cons e t ih =>
    obtain ⟨i, v⟩ := e
    by_cases h : i = k
    · subst h
      by_cases hj : j = i
      · subst hj; simpa [SMap.erase] using ih
      · simp [SMap.erase, ih, hj, SMap.get, Ne.symm hj]
    · by_cases hj : i = j
      · subst hj; simp [SMap.erase, h, SMap.get]
      · simp [SMap.erase, h, SMap.get, hj, ih]

/-- No entry of the store has key `k`. -/
def SMap.lacks (l : SMap V) (k : Nat) : Prop := ∀ e ∈ l, e.1 ≠ k

theorem SMap.lacks_erase (l : SMap V) (k : Nat) : SMap.lacks (SMap.erase l k) k := by
  induction l with
  | nil => simp [SMap.erase, SMap.lacks]
  | cons e t ih =>
    obtain ⟨i, v⟩ := e
    by_cases h : i = k
    · simpa [SMap.erase, h] using ih
    · intro e he
      simp only [SMap.erase, h, if_false, List.mem_cons] at he
      rcases he with rfl | he
      · exact h
      · exact ih e he

theorem SMap.get_lacks (d : V) {l : SMap V} {k : Nat} (h : SMap.lacks l k) : SMap.get d l k = d := by
  induction l with
  | nil => rfl
  | cons e t ih =>
    obtain ⟨i, v⟩ := e
    have hi : i ≠ k := h (i, v) (by simp)
    simp only [SMap.get, hi, if_false]
    exact ih (fun e he => h e (by simp [he]))

theorem SMap.get_insert (d : V) {l : SMap V} {k : Nat} (h : SMap.lacks l k) (v : V) (j : Nat) :
    SMap.get d (SMap.insert l k v) j = if j = k then v else SMap.get d l j := by
  induction l with
  | nil => by_cases hj : k = j <;> simp [SMap.insert, SMap.get, hj, eq_comm]
  | cons e t ih =>
    obtain ⟨i, u⟩ := e
    have hi : i ≠ k := h (i, u) (by simp)
    have ht : SMap.lacks t k := fun e he => h e (by simp [he])
    by_cases hk : k < i
    · by_cases hj : k = j
      · subst hj; simp [SMap.insert, hk, SMap.get]
      · simp [SMap.insert, hk, SMap.get, hj, Ne.symm hj]
    · by_cases hij : i = j
      · subst hij; simp [SMap.insert, hk, SMap.get, hi]
      · simp [SMap.insert, hk, SMap.get, hij, ih ht]

/-- Reading after a write. -/
theorem SMap.get_set [DecidableEq V] (d : V) (l : SMap V) (k : Nat) (v : V) (j : Nat) :
    SMap.get d (SMap.set d l k v) j = if j = k then v else SMap.get d l j := by
  unfold SMap.set
  split
  · next h => rw [SMap.get_erase]; simp [h]
  · rw [SMap.get_insert d (SMap.lacks_erase l k), SMap.get_erase]
    split <;> rfl

@[simp] theorem SMap.get_set_same [DecidableEq V] (d : V) (l : SMap V) (k : Nat) (v : V) :
    SMap.get d (SMap.set d l k v) k = v := by simp [SMap.get_set]

theorem SMap.get_set_other [DecidableEq V] (d : V) (l : SMap V) {k j : Nat} (v : V) (h : j ≠ k) :
    SMap.get d (SMap.set d l k v) j = SMap.get d l j := by simp [SMap.get_set, h]

/-- A key that a list of writes does not name reads as before. -/
theorem SMap.get_setAll_other [DecidableEq V] (d : V) (l : SMap V) (ws : List (Nat × V)) {j : Nat}
    (h : ∀ w ∈ ws, w.1 ≠ j) : SMap.get d (SMap.setAll d l ws) j = SMap.get d l j := by
  induction ws generalizing l with
  | nil => rfl
  | cons w t ih =>
    obtain ⟨k, v⟩ := w
    have hk : k ≠ j := h (k, v) (by simp)
    rw [SMap.setAll, ih _ (fun w hw => h w (by simp [hw])), SMap.get_set_other d l v (Ne.symm hk)]

theorem SMap.rising_mono {lo lo' : Nat} (h : lo' ≤ lo) {l : SMap V} (hl : SMap.rising (some lo) l = true) :
    SMap.rising (some lo') l = true := by
  cases l with
  | nil => rfl
  | cons e t =>
    obtain ⟨i, v⟩ := e
    simp only [SMap.rising, Bool.and_eq_true, decide_eq_true_eq] at hl ⊢
    exact ⟨by omega, hl.2⟩

theorem SMap.rising_none {lo : Nat} {l : SMap V} (hl : SMap.rising (some lo) l = true) : SMap.rising none l = true := by
  cases l with
  | nil => rfl
  | cons e t =>
    obtain ⟨i, v⟩ := e
    simp only [SMap.rising, Bool.and_eq_true] at hl ⊢
    exact hl.2

theorem SMap.rising_erase (lo : Option Nat) (l : SMap V) (k : Nat) (h : SMap.rising lo l = true) :
    SMap.rising lo (SMap.erase l k) = true := by
  induction l generalizing lo with
  | nil => cases lo <;> rfl
  | cons e t ih =>
    obtain ⟨i, v⟩ := e
    have ht : SMap.rising (some i) t = true := by
      cases lo <;> simp_all [SMap.rising]
    by_cases hik : i = k
    · simp only [SMap.erase, hik, if_true]
      apply ih
      cases lo with
      | none => exact SMap.rising_none ht
      | some n =>
        simp only [SMap.rising, Bool.and_eq_true, decide_eq_true_eq] at h
        exact SMap.rising_mono (by omega) ht
    · simp only [SMap.erase, hik, if_false]
      cases lo with
      | none => simpa [SMap.rising] using ih _ ht
      | some n =>
        simp only [SMap.rising, Bool.and_eq_true] at h ⊢
        exact ⟨h.1, ih _ ht⟩

theorem SMap.rising_insert (lo : Option Nat) {l : SMap V} {k : Nat} (v : V) (hk : SMap.lacks l k)
    (hlo : ∀ n, lo = some n → n < k) (h : SMap.rising lo l = true) : SMap.rising lo (SMap.insert l k v) = true := by
  induction l generalizing lo with
  | nil =>
    cases lo with
    | none => rfl
    | some n => simpa [SMap.insert, SMap.rising] using hlo n rfl
  | cons e t ih =>
    obtain ⟨i, u⟩ := e
    have hi : i ≠ k := hk (i, u) (by simp)
    have hrest : SMap.lacks t k := fun e he => hk e (by simp [he])
    have ht : SMap.rising (some i) t = true := by
      cases lo <;> simp_all [SMap.rising]
    by_cases hki : k < i
    · cases lo with
      | none => simp [SMap.insert, hki, SMap.rising, ht]
      | some n => simp [SMap.insert, hki, SMap.rising, ht, hlo n rfl]
    · have := ih (some i) hrest (fun n hn => by cases hn; omega) ht
      cases lo with
      | none => simpa [SMap.insert, hki, SMap.rising] using this
      | some n =>
        simp only [SMap.rising, Bool.and_eq_true] at h
        simp [SMap.insert, hki, SMap.rising, this]
        simpa using h.1

theorem SMap.mem_erase {l : SMap V} {k : Nat} {e : Nat × V} (h : e ∈ SMap.erase l k) : e ∈ l := by
  induction l with
  | nil => simp [SMap.erase] at h
  | cons a t ih =>
    obtain ⟨i, v⟩ := a
    by_cases hi : i = k
    · simp only [SMap.erase, hi, if_true] at h
      exact List.mem_cons_of_mem _ (ih h)
    · simp only [SMap.erase, hi, if_false, List.mem_cons] at h ⊢
      exact h.imp id ih

theorem SMap.mem_insert {l : SMap V} {k : Nat} {v : V} {e : Nat × V} (h : e ∈ SMap.insert l k v) : e = (k, v) ∨ e ∈ l := by
  induction l with
  | nil => simpa [SMap.insert] using h
  | cons a t ih =>
    obtain ⟨i, u⟩ := a
    by_cases hi : k < i
    · simpa [SMap.insert, hi] using h
    · simp only [SMap.insert, hi, if_false, List.mem_cons] at h ⊢
      rcases h with h | h
      · exact .inr (.inl h)
      · exact (ih h).imp id .inr

/-- A write keeps the canonical form. -/
theorem SMap.wf_set [DecidableEq V] (d : V) {l : SMap V} (k : Nat) (v : V) (h : SMap.wf d l = true) :
    SMap.wf d (SMap.set d l k v) = true := by
  simp only [SMap.wf, Bool.and_eq_true, List.all_eq_true, decide_eq_true_eq] at h ⊢
  unfold SMap.set
  split
  · exact ⟨SMap.rising_erase _ _ _ h.1, fun e he => h.2 e (SMap.mem_erase he)⟩
  · next hv =>
    refine ⟨SMap.rising_insert _ _ (SMap.lacks_erase l k) (by simp) (SMap.rising_erase _ _ _ h.1), fun e he => ?_⟩
    rcases SMap.mem_insert he with rfl | he
    · exact hv
    · exact h.2 e (SMap.mem_erase he)

/-- Several writes keep the canonical form. -/
theorem SMap.wf_setAll [DecidableEq V] (d : V) {l : SMap V} (ws : List (Nat × V)) (h : SMap.wf d l = true) :
    SMap.wf d (SMap.setAll d l ws) = true := by
  induction ws generalizing l with
  | nil => exact h
  | cons w t ih => exact ih (SMap.wf_set d w.1 w.2 h)

end Sys2Proof
end

