-- ==== Sys2Proof/Laws/State.lean ====
section
/-!
SUPPORT. One lemma per field per named update of the state: which fields an update leaves alone, and what it gives the
field it writes.
-/

set_option Elab.async false

namespace Sys2Proof.Machine

@[simp] theorem State.setCore_sched (s : State) (n : Nat) (c : Core) : (s.setCore n c).sched = s.sched := rfl
@[simp] theorem State.setCore_iss (s : State) (n : Nat) (c : Core) : (s.setCore n c).iss = s.iss := rfl
@[simp] theorem State.setCore_fresh (s : State) (n : Nat) (c : Core) : (s.setCore n c).fresh = s.fresh := rfl
@[simp] theorem State.setCore_ids (s : State) (n : Nat) (c : Core) : (s.setCore n c).ids = s.ids := rfl
@[simp] theorem State.setCore_tick (s : State) (n : Nat) (c : Core) : (s.setCore n c).tick = s.tick := rfl
@[simp] theorem State.setCore_mem (s : State) (n : Nat) (c : Core) : (s.setCore n c).mem = s.mem := rfl
@[simp] theorem State.setCore_sptbase (s : State) (n : Nat) (c : Core) : (s.setCore n c).sptbase = s.sptbase := rfl
@[simp] theorem State.setCore_spgen (s : State) (n : Nat) (c : Core) : (s.setCore n c).spgen = s.spgen := rfl
@[simp] theorem State.setCore_objCache (s : State) (n : Nat) (c : Core) : (s.setCore n c).objCache = s.objCache := rfl
@[simp] theorem State.setCore_tlb (s : State) (n : Nat) (c : Core) : (s.setCore n c).tlb = s.tlb := rfl
@[simp] theorem State.setCore_walkCache (s : State) (n : Nat) (c : Core) : (s.setCore n c).walkCache = s.walkCache := rfl
@[simp] theorem State.setCore_spaceCache (s : State) (n : Nat) (c : Core) : (s.setCore n c).spaceCache = s.spaceCache := rfl
@[simp] theorem State.setCore_walks (s : State) (n : Nat) (c : Core) : (s.setCore n c).walks = s.walks := rfl
@[simp] theorem State.setCore_outFaults (s : State) (n : Nat) (c : Core) : (s.setCore n c).outFaults = s.outFaults := rfl
@[simp] theorem State.setCore_engWaits (s : State) (n : Nat) (c : Core) : (s.setCore n c).engWaits = s.engWaits := rfl
@[simp] theorem State.setCore_nextFault (s : State) (n : Nat) (c : Core) : (s.setCore n c).nextFault = s.nextFault := rfl
@[simp] theorem State.setCore_faultWait (s : State) (n : Nat) (c : Core) : (s.setCore n c).faultWait = s.faultWait := rfl
@[simp] theorem State.setCore_compWait (s : State) (n : Nat) (c : Core) : (s.setCore n c).compWait = s.compWait := rfl
@[simp] theorem State.setCore_lq (s : State) (n : Nat) (c : Core) : (s.setCore n c).lq = s.lq := rfl
@[simp] theorem State.setCore_cq (s : State) (n : Nat) (c : Core) : (s.setCore n c).cq = s.cq := rfl
@[simp] theorem State.setCore_fq (s : State) (n : Nat) (c : Core) : (s.setCore n c).fq = s.fq := rfl
@[simp] theorem State.setCore_so (s : State) (n : Nat) (c : Core) : (s.setCore n c).so = s.so := rfl
@[simp] theorem State.setCore_ch (s : State) (n : Nat) (c : Core) : (s.setCore n c).ch = s.ch := rfl
@[simp] theorem State.setCore_keys (s : State) (n : Nat) (c : Core) : (s.setCore n c).keys = s.keys := rfl
@[simp] theorem State.setCore_tiers (s : State) (n : Nat) (c : Core) : (s.setCore n c).tiers = s.tiers := rfl
@[simp] theorem State.setCore_links (s : State) (n : Nat) (c : Core) : (s.setCore n c).links = s.links := rfl
@[simp] theorem State.setCore_routes (s : State) (n : Nat) (c : Core) : (s.setCore n c).routes = s.routes := rfl
@[simp] theorem State.setCore_modnum (s : State) (n : Nat) (c : Core) : (s.setCore n c).modnum = s.modnum := rfl
@[simp] theorem State.setCore_inbox (s : State) (n : Nat) (c : Core) : (s.setCore n c).inbox = s.inbox := rfl
@[simp] theorem State.setCore_cgroups (s : State) (n : Nat) (c : Core) : (s.setCore n c).cgroups = s.cgroups := rfl
@[simp] theorem State.setCore_cruns (s : State) (n : Nat) (c : Core) : (s.setCore n c).cruns = s.cruns := rfl
@[simp] theorem State.setCore_media (s : State) (n : Nat) (c : Core) : (s.setCore n c).media = s.media := rfl
@[simp] theorem State.setCore_vde (s : State) (n : Nat) (c : Core) : (s.setCore n c).vde = s.vde := rfl
@[simp] theorem State.setCore_drives (s : State) (n : Nat) (c : Core) : (s.setCore n c).drives = s.drives := rfl
@[simp] theorem State.setCore_doorbells (s : State) (n : Nat) (c : Core) : (s.setCore n c).doorbells = s.doorbells := rfl
@[simp] theorem State.setCore_cxlDown (s : State) (n : Nat) (c : Core) : (s.setCore n c).cxlDown = s.cxlDown := rfl
@[simp] theorem State.setCore_px (s : State) (n : Nat) (c : Core) : (s.setCore n c).px = s.px := rfl
@[simp] theorem State.setCore_pxq (s : State) (n : Nat) (c : Core) : (s.setCore n c).pxq = s.pxq := rfl
@[simp] theorem State.setCore_pxNext (s : State) (n : Nat) (c : Core) : (s.setCore n c).pxNext = s.pxNext := rfl
@[simp] theorem State.setCore_wd (s : State) (n : Nat) (c : Core) : (s.setCore n c).wd = s.wd := rfl
@[simp] theorem State.setCore_tasks (s : State) (n : Nat) (c : Core) : (s.setCore n c).tasks = s.tasks := rfl
@[simp] theorem State.setCore_swaps (s : State) (n : Nat) (c : Core) : (s.setCore n c).swaps = s.swaps := rfl
@[simp] theorem State.setCore_hold (s : State) (n : Nat) (c : Core) : (s.setCore n c).hold = s.hold := rfl
@[simp] theorem State.setCore_quantum (s : State) (n : Nat) (c : Core) : (s.setCore n c).quantum = s.quantum := rfl
@[simp] theorem State.setCore_bars (s : State) (n : Nat) (c : Core) : (s.setCore n c).bars = s.bars := rfl
@[simp] theorem State.setCore_groups (s : State) (n : Nat) (c : Core) : (s.setCore n c).groups = s.groups := rfl
@[simp] theorem State.setCore_merges (s : State) (n : Nat) (c : Core) : (s.setCore n c).merges = s.merges := rfl
@[simp] theorem State.setCore_oarov (s : State) (n : Nat) (c : Core) : (s.setCore n c).oarov = s.oarov := rfl
@[simp] theorem State.setCore_thermo (s : State) (n : Nat) (c : Core) : (s.setCore n c).thermo = s.thermo := rfl
@[simp] theorem State.setCore_mgmtOut (s : State) (n : Nat) (c : Core) : (s.setCore n c).mgmtOut = s.mgmtOut := rfl
@[simp] theorem State.setCore_freeze (s : State) (n : Nat) (c : Core) : (s.setCore n c).freeze = s.freeze := rfl
@[simp] theorem State.setCore_irq (s : State) (n : Nat) (c : Core) : (s.setCore n c).irq = s.irq := rfl
@[simp] theorem State.setCore_sysRead (s : State) (n : Nat) (c : Core) : (s.setCore n c).sysRead = s.sysRead := rfl
@[simp] theorem State.setCore_eccCount (s : State) (n : Nat) (c : Core) : (s.setCore n c).eccCount = s.eccCount := rfl

@[simp] theorem State.modCore_sched (s : State) (n : Nat) (f : Core → Core) : (s.modCore n f).sched = s.sched := rfl
@[simp] theorem State.modCore_iss (s : State) (n : Nat) (f : Core → Core) : (s.modCore n f).iss = s.iss := rfl
@[simp] theorem State.modCore_fresh (s : State) (n : Nat) (f : Core → Core) : (s.modCore n f).fresh = s.fresh := rfl
@[simp] theorem State.modCore_ids (s : State) (n : Nat) (f : Core → Core) : (s.modCore n f).ids = s.ids := rfl
@[simp] theorem State.modCore_tick (s : State) (n : Nat) (f : Core → Core) : (s.modCore n f).tick = s.tick := rfl
@[simp] theorem State.modCore_mem (s : State) (n : Nat) (f : Core → Core) : (s.modCore n f).mem = s.mem := rfl
@[simp] theorem State.modCore_sptbase (s : State) (n : Nat) (f : Core → Core) : (s.modCore n f).sptbase = s.sptbase := rfl
@[simp] theorem State.modCore_spgen (s : State) (n : Nat) (f : Core → Core) : (s.modCore n f).spgen = s.spgen := rfl
@[simp] theorem State.modCore_objCache (s : State) (n : Nat) (f : Core → Core) : (s.modCore n f).objCache = s.objCache := rfl
@[simp] theorem State.modCore_tlb (s : State) (n : Nat) (f : Core → Core) : (s.modCore n f).tlb = s.tlb := rfl
@[simp] theorem State.modCore_walkCache (s : State) (n : Nat) (f : Core → Core) : (s.modCore n f).walkCache = s.walkCache := rfl
@[simp] theorem State.modCore_spaceCache (s : State) (n : Nat) (f : Core → Core) : (s.modCore n f).spaceCache = s.spaceCache := rfl
@[simp] theorem State.modCore_walks (s : State) (n : Nat) (f : Core → Core) : (s.modCore n f).walks = s.walks := rfl
@[simp] theorem State.modCore_outFaults (s : State) (n : Nat) (f : Core → Core) : (s.modCore n f).outFaults = s.outFaults := rfl
@[simp] theorem State.modCore_engWaits (s : State) (n : Nat) (f : Core → Core) : (s.modCore n f).engWaits = s.engWaits := rfl
@[simp] theorem State.modCore_nextFault (s : State) (n : Nat) (f : Core → Core) : (s.modCore n f).nextFault = s.nextFault := rfl
@[simp] theorem State.modCore_faultWait (s : State) (n : Nat) (f : Core → Core) : (s.modCore n f).faultWait = s.faultWait := rfl
@[simp] theorem State.modCore_compWait (s : State) (n : Nat) (f : Core → Core) : (s.modCore n f).compWait = s.compWait := rfl
@[simp] theorem State.modCore_lq (s : State) (n : Nat) (f : Core → Core) : (s.modCore n f).lq = s.lq := rfl
@[simp] theorem State.modCore_cq (s : State) (n : Nat) (f : Core → Core) : (s.modCore n f).cq = s.cq := rfl
@[simp] theorem State.modCore_fq (s : State) (n : Nat) (f : Core → Core) : (s.modCore n f).fq = s.fq := rfl
@[simp] theorem State.modCore_so (s : State) (n : Nat) (f : Core → Core) : (s.modCore n f).so = s.so := rfl
@[simp] theorem State.modCore_ch (s : State) (n : Nat) (f : Core → Core) : (s.modCore n f).ch = s.ch := rfl
@[simp] theorem State.modCore_keys (s : State) (n : Nat) (f : Core → Core) : (s.modCore n f).keys = s.keys := rfl
@[simp] theorem State.modCore_tiers (s : State) (n : Nat) (f : Core → Core) : (s.modCore n f).tiers = s.tiers := rfl
@[simp] theorem State.modCore_links (s : State) (n : Nat) (f : Core → Core) : (s.modCore n f).links = s.links := rfl
@[simp] theorem State.modCore_routes (s : State) (n : Nat) (f : Core → Core) : (s.modCore n f).routes = s.routes := rfl
@[simp] theorem State.modCore_modnum (s : State) (n : Nat) (f : Core → Core) : (s.modCore n f).modnum = s.modnum := rfl
@[simp] theorem State.modCore_inbox (s : State) (n : Nat) (f : Core → Core) : (s.modCore n f).inbox = s.inbox := rfl
@[simp] theorem State.modCore_cgroups (s : State) (n : Nat) (f : Core → Core) : (s.modCore n f).cgroups = s.cgroups := rfl
@[simp] theorem State.modCore_cruns (s : State) (n : Nat) (f : Core → Core) : (s.modCore n f).cruns = s.cruns := rfl
@[simp] theorem State.modCore_media (s : State) (n : Nat) (f : Core → Core) : (s.modCore n f).media = s.media := rfl
@[simp] theorem State.modCore_vde (s : State) (n : Nat) (f : Core → Core) : (s.modCore n f).vde = s.vde := rfl
@[simp] theorem State.modCore_drives (s : State) (n : Nat) (f : Core → Core) : (s.modCore n f).drives = s.drives := rfl
@[simp] theorem State.modCore_doorbells (s : State) (n : Nat) (f : Core → Core) : (s.modCore n f).doorbells = s.doorbells := rfl
@[simp] theorem State.modCore_cxlDown (s : State) (n : Nat) (f : Core → Core) : (s.modCore n f).cxlDown = s.cxlDown := rfl
@[simp] theorem State.modCore_px (s : State) (n : Nat) (f : Core → Core) : (s.modCore n f).px = s.px := rfl
@[simp] theorem State.modCore_pxq (s : State) (n : Nat) (f : Core → Core) : (s.modCore n f).pxq = s.pxq := rfl
@[simp] theorem State.modCore_pxNext (s : State) (n : Nat) (f : Core → Core) : (s.modCore n f).pxNext = s.pxNext := rfl
@[simp] theorem State.modCore_wd (s : State) (n : Nat) (f : Core → Core) : (s.modCore n f).wd = s.wd := rfl
@[simp] theorem State.modCore_tasks (s : State) (n : Nat) (f : Core → Core) : (s.modCore n f).tasks = s.tasks := rfl
@[simp] theorem State.modCore_swaps (s : State) (n : Nat) (f : Core → Core) : (s.modCore n f).swaps = s.swaps := rfl
@[simp] theorem State.modCore_hold (s : State) (n : Nat) (f : Core → Core) : (s.modCore n f).hold = s.hold := rfl
@[simp] theorem State.modCore_quantum (s : State) (n : Nat) (f : Core → Core) : (s.modCore n f).quantum = s.quantum := rfl
@[simp] theorem State.modCore_bars (s : State) (n : Nat) (f : Core → Core) : (s.modCore n f).bars = s.bars := rfl
@[simp] theorem State.modCore_groups (s : State) (n : Nat) (f : Core → Core) : (s.modCore n f).groups = s.groups := rfl
@[simp] theorem State.modCore_merges (s : State) (n : Nat) (f : Core → Core) : (s.modCore n f).merges = s.merges := rfl
@[simp] theorem State.modCore_oarov (s : State) (n : Nat) (f : Core → Core) : (s.modCore n f).oarov = s.oarov := rfl
@[simp] theorem State.modCore_thermo (s : State) (n : Nat) (f : Core → Core) : (s.modCore n f).thermo = s.thermo := rfl
@[simp] theorem State.modCore_mgmtOut (s : State) (n : Nat) (f : Core → Core) : (s.modCore n f).mgmtOut = s.mgmtOut := rfl
@[simp] theorem State.modCore_freeze (s : State) (n : Nat) (f : Core → Core) : (s.modCore n f).freeze = s.freeze := rfl
@[simp] theorem State.modCore_irq (s : State) (n : Nat) (f : Core → Core) : (s.modCore n f).irq = s.irq := rfl
@[simp] theorem State.modCore_sysRead (s : State) (n : Nat) (f : Core → Core) : (s.modCore n f).sysRead = s.sysRead := rfl
@[simp] theorem State.modCore_eccCount (s : State) (n : Nat) (f : Core → Core) : (s.modCore n f).eccCount = s.eccCount := rfl

@[simp] theorem State.setCtx_sched (s : State) (n k : Nat) (x : Ctx) : (s.setCtx n k x).sched = s.sched := rfl
@[simp] theorem State.setCtx_iss (s : State) (n k : Nat) (x : Ctx) : (s.setCtx n k x).iss = s.iss := rfl
@[simp] theorem State.setCtx_fresh (s : State) (n k : Nat) (x : Ctx) : (s.setCtx n k x).fresh = s.fresh := rfl
@[simp] theorem State.setCtx_ids (s : State) (n k : Nat) (x : Ctx) : (s.setCtx n k x).ids = s.ids := rfl
@[simp] theorem State.setCtx_tick (s : State) (n k : Nat) (x : Ctx) : (s.setCtx n k x).tick = s.tick := rfl
@[simp] theorem State.setCtx_mem (s : State) (n k : Nat) (x : Ctx) : (s.setCtx n k x).mem = s.mem := rfl
@[simp] theorem State.setCtx_sptbase (s : State) (n k : Nat) (x : Ctx) : (s.setCtx n k x).sptbase = s.sptbase := rfl
@[simp] theorem State.setCtx_spgen (s : State) (n k : Nat) (x : Ctx) : (s.setCtx n k x).spgen = s.spgen := rfl
@[simp] theorem State.setCtx_objCache (s : State) (n k : Nat) (x : Ctx) : (s.setCtx n k x).objCache = s.objCache := rfl
@[simp] theorem State.setCtx_tlb (s : State) (n k : Nat) (x : Ctx) : (s.setCtx n k x).tlb = s.tlb := rfl
@[simp] theorem State.setCtx_walkCache (s : State) (n k : Nat) (x : Ctx) : (s.setCtx n k x).walkCache = s.walkCache := rfl
@[simp] theorem State.setCtx_spaceCache (s : State) (n k : Nat) (x : Ctx) : (s.setCtx n k x).spaceCache = s.spaceCache := rfl
@[simp] theorem State.setCtx_walks (s : State) (n k : Nat) (x : Ctx) : (s.setCtx n k x).walks = s.walks := rfl
@[simp] theorem State.setCtx_outFaults (s : State) (n k : Nat) (x : Ctx) : (s.setCtx n k x).outFaults = s.outFaults := rfl
@[simp] theorem State.setCtx_engWaits (s : State) (n k : Nat) (x : Ctx) : (s.setCtx n k x).engWaits = s.engWaits := rfl
@[simp] theorem State.setCtx_nextFault (s : State) (n k : Nat) (x : Ctx) : (s.setCtx n k x).nextFault = s.nextFault := rfl
@[simp] theorem State.setCtx_faultWait (s : State) (n k : Nat) (x : Ctx) : (s.setCtx n k x).faultWait = s.faultWait := rfl
@[simp] theorem State.setCtx_compWait (s : State) (n k : Nat) (x : Ctx) : (s.setCtx n k x).compWait = s.compWait := rfl
@[simp] theorem State.setCtx_lq (s : State) (n k : Nat) (x : Ctx) : (s.setCtx n k x).lq = s.lq := rfl
@[simp] theorem State.setCtx_cq (s : State) (n k : Nat) (x : Ctx) : (s.setCtx n k x).cq = s.cq := rfl
@[simp] theorem State.setCtx_fq (s : State) (n k : Nat) (x : Ctx) : (s.setCtx n k x).fq = s.fq := rfl
@[simp] theorem State.setCtx_so (s : State) (n k : Nat) (x : Ctx) : (s.setCtx n k x).so = s.so := rfl
@[simp] theorem State.setCtx_ch (s : State) (n k : Nat) (x : Ctx) : (s.setCtx n k x).ch = s.ch := rfl
@[simp] theorem State.setCtx_keys (s : State) (n k : Nat) (x : Ctx) : (s.setCtx n k x).keys = s.keys := rfl
@[simp] theorem State.setCtx_tiers (s : State) (n k : Nat) (x : Ctx) : (s.setCtx n k x).tiers = s.tiers := rfl
@[simp] theorem State.setCtx_links (s : State) (n k : Nat) (x : Ctx) : (s.setCtx n k x).links = s.links := rfl
@[simp] theorem State.setCtx_routes (s : State) (n k : Nat) (x : Ctx) : (s.setCtx n k x).routes = s.routes := rfl
@[simp] theorem State.setCtx_modnum (s : State) (n k : Nat) (x : Ctx) : (s.setCtx n k x).modnum = s.modnum := rfl
@[simp] theorem State.setCtx_inbox (s : State) (n k : Nat) (x : Ctx) : (s.setCtx n k x).inbox = s.inbox := rfl
@[simp] theorem State.setCtx_cgroups (s : State) (n k : Nat) (x : Ctx) : (s.setCtx n k x).cgroups = s.cgroups := rfl
@[simp] theorem State.setCtx_cruns (s : State) (n k : Nat) (x : Ctx) : (s.setCtx n k x).cruns = s.cruns := rfl
@[simp] theorem State.setCtx_media (s : State) (n k : Nat) (x : Ctx) : (s.setCtx n k x).media = s.media := rfl
@[simp] theorem State.setCtx_vde (s : State) (n k : Nat) (x : Ctx) : (s.setCtx n k x).vde = s.vde := rfl
@[simp] theorem State.setCtx_drives (s : State) (n k : Nat) (x : Ctx) : (s.setCtx n k x).drives = s.drives := rfl
@[simp] theorem State.setCtx_doorbells (s : State) (n k : Nat) (x : Ctx) : (s.setCtx n k x).doorbells = s.doorbells := rfl
@[simp] theorem State.setCtx_cxlDown (s : State) (n k : Nat) (x : Ctx) : (s.setCtx n k x).cxlDown = s.cxlDown := rfl
@[simp] theorem State.setCtx_px (s : State) (n k : Nat) (x : Ctx) : (s.setCtx n k x).px = s.px := rfl
@[simp] theorem State.setCtx_pxq (s : State) (n k : Nat) (x : Ctx) : (s.setCtx n k x).pxq = s.pxq := rfl
@[simp] theorem State.setCtx_pxNext (s : State) (n k : Nat) (x : Ctx) : (s.setCtx n k x).pxNext = s.pxNext := rfl
@[simp] theorem State.setCtx_wd (s : State) (n k : Nat) (x : Ctx) : (s.setCtx n k x).wd = s.wd := rfl
@[simp] theorem State.setCtx_tasks (s : State) (n k : Nat) (x : Ctx) : (s.setCtx n k x).tasks = s.tasks := rfl
@[simp] theorem State.setCtx_swaps (s : State) (n k : Nat) (x : Ctx) : (s.setCtx n k x).swaps = s.swaps := rfl
@[simp] theorem State.setCtx_hold (s : State) (n k : Nat) (x : Ctx) : (s.setCtx n k x).hold = s.hold := rfl
@[simp] theorem State.setCtx_quantum (s : State) (n k : Nat) (x : Ctx) : (s.setCtx n k x).quantum = s.quantum := rfl
@[simp] theorem State.setCtx_bars (s : State) (n k : Nat) (x : Ctx) : (s.setCtx n k x).bars = s.bars := rfl
@[simp] theorem State.setCtx_groups (s : State) (n k : Nat) (x : Ctx) : (s.setCtx n k x).groups = s.groups := rfl
@[simp] theorem State.setCtx_merges (s : State) (n k : Nat) (x : Ctx) : (s.setCtx n k x).merges = s.merges := rfl
@[simp] theorem State.setCtx_oarov (s : State) (n k : Nat) (x : Ctx) : (s.setCtx n k x).oarov = s.oarov := rfl
@[simp] theorem State.setCtx_thermo (s : State) (n k : Nat) (x : Ctx) : (s.setCtx n k x).thermo = s.thermo := rfl
@[simp] theorem State.setCtx_mgmtOut (s : State) (n k : Nat) (x : Ctx) : (s.setCtx n k x).mgmtOut = s.mgmtOut := rfl
@[simp] theorem State.setCtx_freeze (s : State) (n k : Nat) (x : Ctx) : (s.setCtx n k x).freeze = s.freeze := rfl
@[simp] theorem State.setCtx_irq (s : State) (n k : Nat) (x : Ctx) : (s.setCtx n k x).irq = s.irq := rfl
@[simp] theorem State.setCtx_sysRead (s : State) (n k : Nat) (x : Ctx) : (s.setCtx n k x).sysRead = s.sysRead := rfl
@[simp] theorem State.setCtx_eccCount (s : State) (n k : Nat) (x : Ctx) : (s.setCtx n k x).eccCount = s.eccCount := rfl

@[simp] theorem State.modCtx_sched (s : State) (n k : Nat) (f : Ctx → Ctx) : (s.modCtx n k f).sched = s.sched := rfl
@[simp] theorem State.modCtx_iss (s : State) (n k : Nat) (f : Ctx → Ctx) : (s.modCtx n k f).iss = s.iss := rfl
@[simp] theorem State.modCtx_fresh (s : State) (n k : Nat) (f : Ctx → Ctx) : (s.modCtx n k f).fresh = s.fresh := rfl
@[simp] theorem State.modCtx_ids (s : State) (n k : Nat) (f : Ctx → Ctx) : (s.modCtx n k f).ids = s.ids := rfl
@[simp] theorem State.modCtx_tick (s : State) (n k : Nat) (f : Ctx → Ctx) : (s.modCtx n k f).tick = s.tick := rfl
@[simp] theorem State.modCtx_mem (s : State) (n k : Nat) (f : Ctx → Ctx) : (s.modCtx n k f).mem = s.mem := rfl
@[simp] theorem State.modCtx_sptbase (s : State) (n k : Nat) (f : Ctx → Ctx) : (s.modCtx n k f).sptbase = s.sptbase := rfl
@[simp] theorem State.modCtx_spgen (s : State) (n k : Nat) (f : Ctx → Ctx) : (s.modCtx n k f).spgen = s.spgen := rfl
@[simp] theorem State.modCtx_objCache (s : State) (n k : Nat) (f : Ctx → Ctx) : (s.modCtx n k f).objCache = s.objCache := rfl
@[simp] theorem State.modCtx_tlb (s : State) (n k : Nat) (f : Ctx → Ctx) : (s.modCtx n k f).tlb = s.tlb := rfl
@[simp] theorem State.modCtx_walkCache (s : State) (n k : Nat) (f : Ctx → Ctx) : (s.modCtx n k f).walkCache = s.walkCache := rfl
@[simp] theorem State.modCtx_spaceCache (s : State) (n k : Nat) (f : Ctx → Ctx) : (s.modCtx n k f).spaceCache = s.spaceCache := rfl
@[simp] theorem State.modCtx_walks (s : State) (n k : Nat) (f : Ctx → Ctx) : (s.modCtx n k f).walks = s.walks := rfl
@[simp] theorem State.modCtx_outFaults (s : State) (n k : Nat) (f : Ctx → Ctx) : (s.modCtx n k f).outFaults = s.outFaults := rfl
@[simp] theorem State.modCtx_engWaits (s : State) (n k : Nat) (f : Ctx → Ctx) : (s.modCtx n k f).engWaits = s.engWaits := rfl
@[simp] theorem State.modCtx_nextFault (s : State) (n k : Nat) (f : Ctx → Ctx) : (s.modCtx n k f).nextFault = s.nextFault := rfl
@[simp] theorem State.modCtx_faultWait (s : State) (n k : Nat) (f : Ctx → Ctx) : (s.modCtx n k f).faultWait = s.faultWait := rfl
@[simp] theorem State.modCtx_compWait (s : State) (n k : Nat) (f : Ctx → Ctx) : (s.modCtx n k f).compWait = s.compWait := rfl
@[simp] theorem State.modCtx_lq (s : State) (n k : Nat) (f : Ctx → Ctx) : (s.modCtx n k f).lq = s.lq := rfl
@[simp] theorem State.modCtx_cq (s : State) (n k : Nat) (f : Ctx → Ctx) : (s.modCtx n k f).cq = s.cq := rfl
@[simp] theorem State.modCtx_fq (s : State) (n k : Nat) (f : Ctx → Ctx) : (s.modCtx n k f).fq = s.fq := rfl
@[simp] theorem State.modCtx_so (s : State) (n k : Nat) (f : Ctx → Ctx) : (s.modCtx n k f).so = s.so := rfl
@[simp] theorem State.modCtx_ch (s : State) (n k : Nat) (f : Ctx → Ctx) : (s.modCtx n k f).ch = s.ch := rfl
@[simp] theorem State.modCtx_keys (s : State) (n k : Nat) (f : Ctx → Ctx) : (s.modCtx n k f).keys = s.keys := rfl
@[simp] theorem State.modCtx_tiers (s : State) (n k : Nat) (f : Ctx → Ctx) : (s.modCtx n k f).tiers = s.tiers := rfl
@[simp] theorem State.modCtx_links (s : State) (n k : Nat) (f : Ctx → Ctx) : (s.modCtx n k f).links = s.links := rfl
@[simp] theorem State.modCtx_routes (s : State) (n k : Nat) (f : Ctx → Ctx) : (s.modCtx n k f).routes = s.routes := rfl
@[simp] theorem State.modCtx_modnum (s : State) (n k : Nat) (f : Ctx → Ctx) : (s.modCtx n k f).modnum = s.modnum := rfl
@[simp] theorem State.modCtx_inbox (s : State) (n k : Nat) (f : Ctx → Ctx) : (s.modCtx n k f).inbox = s.inbox := rfl
@[simp] theorem State.modCtx_cgroups (s : State) (n k : Nat) (f : Ctx → Ctx) : (s.modCtx n k f).cgroups = s.cgroups := rfl
@[simp] theorem State.modCtx_cruns (s : State) (n k : Nat) (f : Ctx → Ctx) : (s.modCtx n k f).cruns = s.cruns := rfl
@[simp] theorem State.modCtx_media (s : State) (n k : Nat) (f : Ctx → Ctx) : (s.modCtx n k f).media = s.media := rfl
@[simp] theorem State.modCtx_vde (s : State) (n k : Nat) (f : Ctx → Ctx) : (s.modCtx n k f).vde = s.vde := rfl
@[simp] theorem State.modCtx_drives (s : State) (n k : Nat) (f : Ctx → Ctx) : (s.modCtx n k f).drives = s.drives := rfl
@[simp] theorem State.modCtx_doorbells (s : State) (n k : Nat) (f : Ctx → Ctx) : (s.modCtx n k f).doorbells = s.doorbells := rfl
@[simp] theorem State.modCtx_cxlDown (s : State) (n k : Nat) (f : Ctx → Ctx) : (s.modCtx n k f).cxlDown = s.cxlDown := rfl
@[simp] theorem State.modCtx_px (s : State) (n k : Nat) (f : Ctx → Ctx) : (s.modCtx n k f).px = s.px := rfl
@[simp] theorem State.modCtx_pxq (s : State) (n k : Nat) (f : Ctx → Ctx) : (s.modCtx n k f).pxq = s.pxq := rfl
@[simp] theorem State.modCtx_pxNext (s : State) (n k : Nat) (f : Ctx → Ctx) : (s.modCtx n k f).pxNext = s.pxNext := rfl
@[simp] theorem State.modCtx_wd (s : State) (n k : Nat) (f : Ctx → Ctx) : (s.modCtx n k f).wd = s.wd := rfl
@[simp] theorem State.modCtx_tasks (s : State) (n k : Nat) (f : Ctx → Ctx) : (s.modCtx n k f).tasks = s.tasks := rfl
@[simp] theorem State.modCtx_swaps (s : State) (n k : Nat) (f : Ctx → Ctx) : (s.modCtx n k f).swaps = s.swaps := rfl
@[simp] theorem State.modCtx_hold (s : State) (n k : Nat) (f : Ctx → Ctx) : (s.modCtx n k f).hold = s.hold := rfl
@[simp] theorem State.modCtx_quantum (s : State) (n k : Nat) (f : Ctx → Ctx) : (s.modCtx n k f).quantum = s.quantum := rfl
@[simp] theorem State.modCtx_bars (s : State) (n k : Nat) (f : Ctx → Ctx) : (s.modCtx n k f).bars = s.bars := rfl
@[simp] theorem State.modCtx_groups (s : State) (n k : Nat) (f : Ctx → Ctx) : (s.modCtx n k f).groups = s.groups := rfl
@[simp] theorem State.modCtx_merges (s : State) (n k : Nat) (f : Ctx → Ctx) : (s.modCtx n k f).merges = s.merges := rfl
@[simp] theorem State.modCtx_oarov (s : State) (n k : Nat) (f : Ctx → Ctx) : (s.modCtx n k f).oarov = s.oarov := rfl
@[simp] theorem State.modCtx_thermo (s : State) (n k : Nat) (f : Ctx → Ctx) : (s.modCtx n k f).thermo = s.thermo := rfl
@[simp] theorem State.modCtx_mgmtOut (s : State) (n k : Nat) (f : Ctx → Ctx) : (s.modCtx n k f).mgmtOut = s.mgmtOut := rfl
@[simp] theorem State.modCtx_freeze (s : State) (n k : Nat) (f : Ctx → Ctx) : (s.modCtx n k f).freeze = s.freeze := rfl
@[simp] theorem State.modCtx_irq (s : State) (n k : Nat) (f : Ctx → Ctx) : (s.modCtx n k f).irq = s.irq := rfl
@[simp] theorem State.modCtx_sysRead (s : State) (n k : Nat) (f : Ctx → Ctx) : (s.modCtx n k f).sysRead = s.sysRead := rfl
@[simp] theorem State.modCtx_eccCount (s : State) (n k : Nat) (f : Ctx → Ctx) : (s.modCtx n k f).eccCount = s.eccCount := rfl

@[simp] theorem State.fly_sched (s : State) (n k : Nat) (r : Result) : (s.fly n k r).sched = s.sched := rfl
@[simp] theorem State.fly_iss (s : State) (n k : Nat) (r : Result) : (s.fly n k r).iss = s.iss := rfl
@[simp] theorem State.fly_fresh (s : State) (n k : Nat) (r : Result) : (s.fly n k r).fresh = s.fresh := rfl
@[simp] theorem State.fly_ids (s : State) (n k : Nat) (r : Result) : (s.fly n k r).ids = s.ids := rfl
@[simp] theorem State.fly_tick (s : State) (n k : Nat) (r : Result) : (s.fly n k r).tick = s.tick := rfl
@[simp] theorem State.fly_mem (s : State) (n k : Nat) (r : Result) : (s.fly n k r).mem = s.mem := rfl
@[simp] theorem State.fly_sptbase (s : State) (n k : Nat) (r : Result) : (s.fly n k r).sptbase = s.sptbase := rfl
@[simp] theorem State.fly_spgen (s : State) (n k : Nat) (r : Result) : (s.fly n k r).spgen = s.spgen := rfl
@[simp] theorem State.fly_objCache (s : State) (n k : Nat) (r : Result) : (s.fly n k r).objCache = s.objCache := rfl
@[simp] theorem State.fly_tlb (s : State) (n k : Nat) (r : Result) : (s.fly n k r).tlb = s.tlb := rfl
@[simp] theorem State.fly_walkCache (s : State) (n k : Nat) (r : Result) : (s.fly n k r).walkCache = s.walkCache := rfl
@[simp] theorem State.fly_spaceCache (s : State) (n k : Nat) (r : Result) : (s.fly n k r).spaceCache = s.spaceCache := rfl
@[simp] theorem State.fly_walks (s : State) (n k : Nat) (r : Result) : (s.fly n k r).walks = s.walks := rfl
@[simp] theorem State.fly_outFaults (s : State) (n k : Nat) (r : Result) : (s.fly n k r).outFaults = s.outFaults := rfl
@[simp] theorem State.fly_engWaits (s : State) (n k : Nat) (r : Result) : (s.fly n k r).engWaits = s.engWaits := rfl
@[simp] theorem State.fly_nextFault (s : State) (n k : Nat) (r : Result) : (s.fly n k r).nextFault = s.nextFault := rfl
@[simp] theorem State.fly_faultWait (s : State) (n k : Nat) (r : Result) : (s.fly n k r).faultWait = s.faultWait := rfl
@[simp] theorem State.fly_compWait (s : State) (n k : Nat) (r : Result) : (s.fly n k r).compWait = s.compWait := rfl
@[simp] theorem State.fly_lq (s : State) (n k : Nat) (r : Result) : (s.fly n k r).lq = s.lq := rfl
@[simp] theorem State.fly_cq (s : State) (n k : Nat) (r : Result) : (s.fly n k r).cq = s.cq := rfl
@[simp] theorem State.fly_fq (s : State) (n k : Nat) (r : Result) : (s.fly n k r).fq = s.fq := rfl
@[simp] theorem State.fly_so (s : State) (n k : Nat) (r : Result) : (s.fly n k r).so = s.so := rfl
@[simp] theorem State.fly_ch (s : State) (n k : Nat) (r : Result) : (s.fly n k r).ch = s.ch := rfl
@[simp] theorem State.fly_keys (s : State) (n k : Nat) (r : Result) : (s.fly n k r).keys = s.keys := rfl
@[simp] theorem State.fly_tiers (s : State) (n k : Nat) (r : Result) : (s.fly n k r).tiers = s.tiers := rfl
@[simp] theorem State.fly_links (s : State) (n k : Nat) (r : Result) : (s.fly n k r).links = s.links := rfl
@[simp] theorem State.fly_routes (s : State) (n k : Nat) (r : Result) : (s.fly n k r).routes = s.routes := rfl
@[simp] theorem State.fly_modnum (s : State) (n k : Nat) (r : Result) : (s.fly n k r).modnum = s.modnum := rfl
@[simp] theorem State.fly_inbox (s : State) (n k : Nat) (r : Result) : (s.fly n k r).inbox = s.inbox := rfl
@[simp] theorem State.fly_cgroups (s : State) (n k : Nat) (r : Result) : (s.fly n k r).cgroups = s.cgroups := rfl
@[simp] theorem State.fly_cruns (s : State) (n k : Nat) (r : Result) : (s.fly n k r).cruns = s.cruns := rfl
@[simp] theorem State.fly_media (s : State) (n k : Nat) (r : Result) : (s.fly n k r).media = s.media := rfl
@[simp] theorem State.fly_vde (s : State) (n k : Nat) (r : Result) : (s.fly n k r).vde = s.vde := rfl
@[simp] theorem State.fly_drives (s : State) (n k : Nat) (r : Result) : (s.fly n k r).drives = s.drives := rfl
@[simp] theorem State.fly_doorbells (s : State) (n k : Nat) (r : Result) : (s.fly n k r).doorbells = s.doorbells := rfl
@[simp] theorem State.fly_cxlDown (s : State) (n k : Nat) (r : Result) : (s.fly n k r).cxlDown = s.cxlDown := rfl
@[simp] theorem State.fly_px (s : State) (n k : Nat) (r : Result) : (s.fly n k r).px = s.px := rfl
@[simp] theorem State.fly_pxq (s : State) (n k : Nat) (r : Result) : (s.fly n k r).pxq = s.pxq := rfl
@[simp] theorem State.fly_pxNext (s : State) (n k : Nat) (r : Result) : (s.fly n k r).pxNext = s.pxNext := rfl
@[simp] theorem State.fly_wd (s : State) (n k : Nat) (r : Result) : (s.fly n k r).wd = s.wd := rfl
@[simp] theorem State.fly_tasks (s : State) (n k : Nat) (r : Result) : (s.fly n k r).tasks = s.tasks := rfl
@[simp] theorem State.fly_swaps (s : State) (n k : Nat) (r : Result) : (s.fly n k r).swaps = s.swaps := rfl
@[simp] theorem State.fly_hold (s : State) (n k : Nat) (r : Result) : (s.fly n k r).hold = s.hold := rfl
@[simp] theorem State.fly_quantum (s : State) (n k : Nat) (r : Result) : (s.fly n k r).quantum = s.quantum := rfl
@[simp] theorem State.fly_bars (s : State) (n k : Nat) (r : Result) : (s.fly n k r).bars = s.bars := rfl
@[simp] theorem State.fly_groups (s : State) (n k : Nat) (r : Result) : (s.fly n k r).groups = s.groups := rfl
@[simp] theorem State.fly_merges (s : State) (n k : Nat) (r : Result) : (s.fly n k r).merges = s.merges := rfl
@[simp] theorem State.fly_oarov (s : State) (n k : Nat) (r : Result) : (s.fly n k r).oarov = s.oarov := rfl
@[simp] theorem State.fly_thermo (s : State) (n k : Nat) (r : Result) : (s.fly n k r).thermo = s.thermo := rfl
@[simp] theorem State.fly_mgmtOut (s : State) (n k : Nat) (r : Result) : (s.fly n k r).mgmtOut = s.mgmtOut := rfl
@[simp] theorem State.fly_freeze (s : State) (n k : Nat) (r : Result) : (s.fly n k r).freeze = s.freeze := rfl
@[simp] theorem State.fly_irq (s : State) (n k : Nat) (r : Result) : (s.fly n k r).irq = s.irq := rfl
@[simp] theorem State.fly_sysRead (s : State) (n k : Nat) (r : Result) : (s.fly n k r).sysRead = s.sysRead := rfl
@[simp] theorem State.fly_eccCount (s : State) (n k : Nat) (r : Result) : (s.fly n k r).eccCount = s.eccCount := rfl

@[simp] theorem State.setVerdict_sched (s : State) (v : Verdict) : (s.setVerdict v).sched = s.sched := rfl
@[simp] theorem State.setVerdict_fresh (s : State) (v : Verdict) : (s.setVerdict v).fresh = s.fresh := rfl
@[simp] theorem State.setVerdict_ids (s : State) (v : Verdict) : (s.setVerdict v).ids = s.ids := rfl
@[simp] theorem State.setVerdict_tick (s : State) (v : Verdict) : (s.setVerdict v).tick = s.tick := rfl
@[simp] theorem State.setVerdict_cores (s : State) (v : Verdict) : (s.setVerdict v).cores = s.cores := rfl
@[simp] theorem State.setVerdict_mem (s : State) (v : Verdict) : (s.setVerdict v).mem = s.mem := rfl
@[simp] theorem State.setVerdict_sptbase (s : State) (v : Verdict) : (s.setVerdict v).sptbase = s.sptbase := rfl
@[simp] theorem State.setVerdict_spgen (s : State) (v : Verdict) : (s.setVerdict v).spgen = s.spgen := rfl
@[simp] theorem State.setVerdict_objCache (s : State) (v : Verdict) : (s.setVerdict v).objCache = s.objCache := rfl
@[simp] theorem State.setVerdict_tlb (s : State) (v : Verdict) : (s.setVerdict v).tlb = s.tlb := rfl
@[simp] theorem State.setVerdict_walkCache (s : State) (v : Verdict) : (s.setVerdict v).walkCache = s.walkCache := rfl
@[simp] theorem State.setVerdict_spaceCache (s : State) (v : Verdict) : (s.setVerdict v).spaceCache = s.spaceCache := rfl
@[simp] theorem State.setVerdict_walks (s : State) (v : Verdict) : (s.setVerdict v).walks = s.walks := rfl
@[simp] theorem State.setVerdict_outFaults (s : State) (v : Verdict) : (s.setVerdict v).outFaults = s.outFaults := rfl
@[simp] theorem State.setVerdict_engWaits (s : State) (v : Verdict) : (s.setVerdict v).engWaits = s.engWaits := rfl
@[simp] theorem State.setVerdict_nextFault (s : State) (v : Verdict) : (s.setVerdict v).nextFault = s.nextFault := rfl
@[simp] theorem State.setVerdict_faultWait (s : State) (v : Verdict) : (s.setVerdict v).faultWait = s.faultWait := rfl
@[simp] theorem State.setVerdict_compWait (s : State) (v : Verdict) : (s.setVerdict v).compWait = s.compWait := rfl
@[simp] theorem State.setVerdict_lq (s : State) (v : Verdict) : (s.setVerdict v).lq = s.lq := rfl
@[simp] theorem State.setVerdict_cq (s : State) (v : Verdict) : (s.setVerdict v).cq = s.cq := rfl
@[simp] theorem State.setVerdict_fq (s : State) (v : Verdict) : (s.setVerdict v).fq = s.fq := rfl
@[simp] theorem State.setVerdict_so (s : State) (v : Verdict) : (s.setVerdict v).so = s.so := rfl
@[simp] theorem State.setVerdict_ch (s : State) (v : Verdict) : (s.setVerdict v).ch = s.ch := rfl
@[simp] theorem State.setVerdict_keys (s : State) (v : Verdict) : (s.setVerdict v).keys = s.keys := rfl
@[simp] theorem State.setVerdict_tiers (s : State) (v : Verdict) : (s.setVerdict v).tiers = s.tiers := rfl
@[simp] theorem State.setVerdict_links (s : State) (v : Verdict) : (s.setVerdict v).links = s.links := rfl
@[simp] theorem State.setVerdict_routes (s : State) (v : Verdict) : (s.setVerdict v).routes = s.routes := rfl
@[simp] theorem State.setVerdict_modnum (s : State) (v : Verdict) : (s.setVerdict v).modnum = s.modnum := rfl
@[simp] theorem State.setVerdict_inbox (s : State) (v : Verdict) : (s.setVerdict v).inbox = s.inbox := rfl
@[simp] theorem State.setVerdict_cgroups (s : State) (v : Verdict) : (s.setVerdict v).cgroups = s.cgroups := rfl
@[simp] theorem State.setVerdict_cruns (s : State) (v : Verdict) : (s.setVerdict v).cruns = s.cruns := rfl
@[simp] theorem State.setVerdict_media (s : State) (v : Verdict) : (s.setVerdict v).media = s.media := rfl
@[simp] theorem State.setVerdict_vde (s : State) (v : Verdict) : (s.setVerdict v).vde = s.vde := rfl
@[simp] theorem State.setVerdict_drives (s : State) (v : Verdict) : (s.setVerdict v).drives = s.drives := rfl
@[simp] theorem State.setVerdict_doorbells (s : State) (v : Verdict) : (s.setVerdict v).doorbells = s.doorbells := rfl
@[simp] theorem State.setVerdict_cxlDown (s : State) (v : Verdict) : (s.setVerdict v).cxlDown = s.cxlDown := rfl
@[simp] theorem State.setVerdict_px (s : State) (v : Verdict) : (s.setVerdict v).px = s.px := rfl
@[simp] theorem State.setVerdict_pxq (s : State) (v : Verdict) : (s.setVerdict v).pxq = s.pxq := rfl
@[simp] theorem State.setVerdict_pxNext (s : State) (v : Verdict) : (s.setVerdict v).pxNext = s.pxNext := rfl
@[simp] theorem State.setVerdict_wd (s : State) (v : Verdict) : (s.setVerdict v).wd = s.wd := rfl
@[simp] theorem State.setVerdict_tasks (s : State) (v : Verdict) : (s.setVerdict v).tasks = s.tasks := rfl
@[simp] theorem State.setVerdict_swaps (s : State) (v : Verdict) : (s.setVerdict v).swaps = s.swaps := rfl
@[simp] theorem State.setVerdict_hold (s : State) (v : Verdict) : (s.setVerdict v).hold = s.hold := rfl
@[simp] theorem State.setVerdict_quantum (s : State) (v : Verdict) : (s.setVerdict v).quantum = s.quantum := rfl
@[simp] theorem State.setVerdict_bars (s : State) (v : Verdict) : (s.setVerdict v).bars = s.bars := rfl
@[simp] theorem State.setVerdict_groups (s : State) (v : Verdict) : (s.setVerdict v).groups = s.groups := rfl
@[simp] theorem State.setVerdict_merges (s : State) (v : Verdict) : (s.setVerdict v).merges = s.merges := rfl
@[simp] theorem State.setVerdict_oarov (s : State) (v : Verdict) : (s.setVerdict v).oarov = s.oarov := rfl
@[simp] theorem State.setVerdict_thermo (s : State) (v : Verdict) : (s.setVerdict v).thermo = s.thermo := rfl
@[simp] theorem State.setVerdict_mgmtOut (s : State) (v : Verdict) : (s.setVerdict v).mgmtOut = s.mgmtOut := rfl
@[simp] theorem State.setVerdict_freeze (s : State) (v : Verdict) : (s.setVerdict v).freeze = s.freeze := rfl
@[simp] theorem State.setVerdict_irq (s : State) (v : Verdict) : (s.setVerdict v).irq = s.irq := rfl
@[simp] theorem State.setVerdict_sysRead (s : State) (v : Verdict) : (s.setVerdict v).sysRead = s.sysRead := rfl
@[simp] theorem State.setVerdict_eccCount (s : State) (v : Verdict) : (s.setVerdict v).eccCount = s.eccCount := rfl

@[simp] theorem State.transfer_sched (s : State) (p : Pc) : (s.transfer p).sched = s.sched := rfl
@[simp] theorem State.transfer_fresh (s : State) (p : Pc) : (s.transfer p).fresh = s.fresh := rfl
@[simp] theorem State.transfer_ids (s : State) (p : Pc) : (s.transfer p).ids = s.ids := rfl
@[simp] theorem State.transfer_tick (s : State) (p : Pc) : (s.transfer p).tick = s.tick := rfl
@[simp] theorem State.transfer_cores (s : State) (p : Pc) : (s.transfer p).cores = s.cores := rfl
@[simp] theorem State.transfer_mem (s : State) (p : Pc) : (s.transfer p).mem = s.mem := rfl
@[simp] theorem State.transfer_sptbase (s : State) (p : Pc) : (s.transfer p).sptbase = s.sptbase := rfl
@[simp] theorem State.transfer_spgen (s : State) (p : Pc) : (s.transfer p).spgen = s.spgen := rfl
@[simp] theorem State.transfer_objCache (s : State) (p : Pc) : (s.transfer p).objCache = s.objCache := rfl
@[simp] theorem State.transfer_tlb (s : State) (p : Pc) : (s.transfer p).tlb = s.tlb := rfl
@[simp] theorem State.transfer_walkCache (s : State) (p : Pc) : (s.transfer p).walkCache = s.walkCache := rfl
@[simp] theorem State.transfer_spaceCache (s : State) (p : Pc) : (s.transfer p).spaceCache = s.spaceCache := rfl
@[simp] theorem State.transfer_walks (s : State) (p : Pc) : (s.transfer p).walks = s.walks := rfl
@[simp] theorem State.transfer_outFaults (s : State) (p : Pc) : (s.transfer p).outFaults = s.outFaults := rfl
@[simp] theorem State.transfer_engWaits (s : State) (p : Pc) : (s.transfer p).engWaits = s.engWaits := rfl
@[simp] theorem State.transfer_nextFault (s : State) (p : Pc) : (s.transfer p).nextFault = s.nextFault := rfl
@[simp] theorem State.transfer_faultWait (s : State) (p : Pc) : (s.transfer p).faultWait = s.faultWait := rfl
@[simp] theorem State.transfer_compWait (s : State) (p : Pc) : (s.transfer p).compWait = s.compWait := rfl
@[simp] theorem State.transfer_lq (s : State) (p : Pc) : (s.transfer p).lq = s.lq := rfl
@[simp] theorem State.transfer_cq (s : State) (p : Pc) : (s.transfer p).cq = s.cq := rfl
@[simp] theorem State.transfer_fq (s : State) (p : Pc) : (s.transfer p).fq = s.fq := rfl
@[simp] theorem State.transfer_so (s : State) (p : Pc) : (s.transfer p).so = s.so := rfl
@[simp] theorem State.transfer_ch (s : State) (p : Pc) : (s.transfer p).ch = s.ch := rfl
@[simp] theorem State.transfer_keys (s : State) (p : Pc) : (s.transfer p).keys = s.keys := rfl
@[simp] theorem State.transfer_tiers (s : State) (p : Pc) : (s.transfer p).tiers = s.tiers := rfl
@[simp] theorem State.transfer_links (s : State) (p : Pc) : (s.transfer p).links = s.links := rfl
@[simp] theorem State.transfer_routes (s : State) (p : Pc) : (s.transfer p).routes = s.routes := rfl
@[simp] theorem State.transfer_modnum (s : State) (p : Pc) : (s.transfer p).modnum = s.modnum := rfl
@[simp] theorem State.transfer_inbox (s : State) (p : Pc) : (s.transfer p).inbox = s.inbox := rfl
@[simp] theorem State.transfer_cgroups (s : State) (p : Pc) : (s.transfer p).cgroups = s.cgroups := rfl
@[simp] theorem State.transfer_cruns (s : State) (p : Pc) : (s.transfer p).cruns = s.cruns := rfl
@[simp] theorem State.transfer_media (s : State) (p : Pc) : (s.transfer p).media = s.media := rfl
@[simp] theorem State.transfer_vde (s : State) (p : Pc) : (s.transfer p).vde = s.vde := rfl
@[simp] theorem State.transfer_drives (s : State) (p : Pc) : (s.transfer p).drives = s.drives := rfl
@[simp] theorem State.transfer_doorbells (s : State) (p : Pc) : (s.transfer p).doorbells = s.doorbells := rfl
@[simp] theorem State.transfer_cxlDown (s : State) (p : Pc) : (s.transfer p).cxlDown = s.cxlDown := rfl
@[simp] theorem State.transfer_px (s : State) (p : Pc) : (s.transfer p).px = s.px := rfl
@[simp] theorem State.transfer_pxq (s : State) (p : Pc) : (s.transfer p).pxq = s.pxq := rfl
@[simp] theorem State.transfer_pxNext (s : State) (p : Pc) : (s.transfer p).pxNext = s.pxNext := rfl
@[simp] theorem State.transfer_wd (s : State) (p : Pc) : (s.transfer p).wd = s.wd := rfl
@[simp] theorem State.transfer_tasks (s : State) (p : Pc) : (s.transfer p).tasks = s.tasks := rfl
@[simp] theorem State.transfer_swaps (s : State) (p : Pc) : (s.transfer p).swaps = s.swaps := rfl
@[simp] theorem State.transfer_hold (s : State) (p : Pc) : (s.transfer p).hold = s.hold := rfl
@[simp] theorem State.transfer_quantum (s : State) (p : Pc) : (s.transfer p).quantum = s.quantum := rfl
@[simp] theorem State.transfer_bars (s : State) (p : Pc) : (s.transfer p).bars = s.bars := rfl
@[simp] theorem State.transfer_groups (s : State) (p : Pc) : (s.transfer p).groups = s.groups := rfl
@[simp] theorem State.transfer_merges (s : State) (p : Pc) : (s.transfer p).merges = s.merges := rfl
@[simp] theorem State.transfer_oarov (s : State) (p : Pc) : (s.transfer p).oarov = s.oarov := rfl
@[simp] theorem State.transfer_thermo (s : State) (p : Pc) : (s.transfer p).thermo = s.thermo := rfl
@[simp] theorem State.transfer_mgmtOut (s : State) (p : Pc) : (s.transfer p).mgmtOut = s.mgmtOut := rfl
@[simp] theorem State.transfer_freeze (s : State) (p : Pc) : (s.transfer p).freeze = s.freeze := rfl
@[simp] theorem State.transfer_irq (s : State) (p : Pc) : (s.transfer p).irq = s.irq := rfl
@[simp] theorem State.transfer_sysRead (s : State) (p : Pc) : (s.transfer p).sysRead = s.sysRead := rfl
@[simp] theorem State.transfer_eccCount (s : State) (p : Pc) : (s.transfer p).eccCount = s.eccCount := rfl

@[simp] theorem State.raise_sched (s : State) (n : Nat) : (s.raise n).sched = s.sched := rfl
@[simp] theorem State.raise_iss (s : State) (n : Nat) : (s.raise n).iss = s.iss := rfl
@[simp] theorem State.raise_fresh (s : State) (n : Nat) : (s.raise n).fresh = s.fresh := rfl
@[simp] theorem State.raise_ids (s : State) (n : Nat) : (s.raise n).ids = s.ids := rfl
@[simp] theorem State.raise_tick (s : State) (n : Nat) : (s.raise n).tick = s.tick := rfl
@[simp] theorem State.raise_cores (s : State) (n : Nat) : (s.raise n).cores = s.cores := rfl
@[simp] theorem State.raise_mem (s : State) (n : Nat) : (s.raise n).mem = s.mem := rfl
@[simp] theorem State.raise_sptbase (s : State) (n : Nat) : (s.raise n).sptbase = s.sptbase := rfl
@[simp] theorem State.raise_spgen (s : State) (n : Nat) : (s.raise n).spgen = s.spgen := rfl
@[simp] theorem State.raise_objCache (s : State) (n : Nat) : (s.raise n).objCache = s.objCache := rfl
@[simp] theorem State.raise_tlb (s : State) (n : Nat) : (s.raise n).tlb = s.tlb := rfl
@[simp] theorem State.raise_walkCache (s : State) (n : Nat) : (s.raise n).walkCache = s.walkCache := rfl
@[simp] theorem State.raise_spaceCache (s : State) (n : Nat) : (s.raise n).spaceCache = s.spaceCache := rfl
@[simp] theorem State.raise_walks (s : State) (n : Nat) : (s.raise n).walks = s.walks := rfl
@[simp] theorem State.raise_outFaults (s : State) (n : Nat) : (s.raise n).outFaults = s.outFaults := rfl
@[simp] theorem State.raise_engWaits (s : State) (n : Nat) : (s.raise n).engWaits = s.engWaits := rfl
@[simp] theorem State.raise_nextFault (s : State) (n : Nat) : (s.raise n).nextFault = s.nextFault := rfl
@[simp] theorem State.raise_faultWait (s : State) (n : Nat) : (s.raise n).faultWait = s.faultWait := rfl
@[simp] theorem State.raise_compWait (s : State) (n : Nat) : (s.raise n).compWait = s.compWait := rfl
@[simp] theorem State.raise_lq (s : State) (n : Nat) : (s.raise n).lq = s.lq := rfl
@[simp] theorem State.raise_cq (s : State) (n : Nat) : (s.raise n).cq = s.cq := rfl
@[simp] theorem State.raise_fq (s : State) (n : Nat) : (s.raise n).fq = s.fq := rfl
@[simp] theorem State.raise_so (s : State) (n : Nat) : (s.raise n).so = s.so := rfl
@[simp] theorem State.raise_ch (s : State) (n : Nat) : (s.raise n).ch = s.ch := rfl
@[simp] theorem State.raise_keys (s : State) (n : Nat) : (s.raise n).keys = s.keys := rfl
@[simp] theorem State.raise_tiers (s : State) (n : Nat) : (s.raise n).tiers = s.tiers := rfl
@[simp] theorem State.raise_links (s : State) (n : Nat) : (s.raise n).links = s.links := rfl
@[simp] theorem State.raise_routes (s : State) (n : Nat) : (s.raise n).routes = s.routes := rfl
@[simp] theorem State.raise_modnum (s : State) (n : Nat) : (s.raise n).modnum = s.modnum := rfl
@[simp] theorem State.raise_inbox (s : State) (n : Nat) : (s.raise n).inbox = s.inbox := rfl
@[simp] theorem State.raise_cgroups (s : State) (n : Nat) : (s.raise n).cgroups = s.cgroups := rfl
@[simp] theorem State.raise_cruns (s : State) (n : Nat) : (s.raise n).cruns = s.cruns := rfl
@[simp] theorem State.raise_media (s : State) (n : Nat) : (s.raise n).media = s.media := rfl
@[simp] theorem State.raise_vde (s : State) (n : Nat) : (s.raise n).vde = s.vde := rfl
@[simp] theorem State.raise_drives (s : State) (n : Nat) : (s.raise n).drives = s.drives := rfl
@[simp] theorem State.raise_doorbells (s : State) (n : Nat) : (s.raise n).doorbells = s.doorbells := rfl
@[simp] theorem State.raise_cxlDown (s : State) (n : Nat) : (s.raise n).cxlDown = s.cxlDown := rfl
@[simp] theorem State.raise_px (s : State) (n : Nat) : (s.raise n).px = s.px := rfl
@[simp] theorem State.raise_pxq (s : State) (n : Nat) : (s.raise n).pxq = s.pxq := rfl
@[simp] theorem State.raise_pxNext (s : State) (n : Nat) : (s.raise n).pxNext = s.pxNext := rfl
@[simp] theorem State.raise_wd (s : State) (n : Nat) : (s.raise n).wd = s.wd := rfl
@[simp] theorem State.raise_tasks (s : State) (n : Nat) : (s.raise n).tasks = s.tasks := rfl
@[simp] theorem State.raise_swaps (s : State) (n : Nat) : (s.raise n).swaps = s.swaps := rfl
@[simp] theorem State.raise_hold (s : State) (n : Nat) : (s.raise n).hold = s.hold := rfl
@[simp] theorem State.raise_quantum (s : State) (n : Nat) : (s.raise n).quantum = s.quantum := rfl
@[simp] theorem State.raise_bars (s : State) (n : Nat) : (s.raise n).bars = s.bars := rfl
@[simp] theorem State.raise_groups (s : State) (n : Nat) : (s.raise n).groups = s.groups := rfl
@[simp] theorem State.raise_merges (s : State) (n : Nat) : (s.raise n).merges = s.merges := rfl
@[simp] theorem State.raise_oarov (s : State) (n : Nat) : (s.raise n).oarov = s.oarov := rfl
@[simp] theorem State.raise_thermo (s : State) (n : Nat) : (s.raise n).thermo = s.thermo := rfl
@[simp] theorem State.raise_mgmtOut (s : State) (n : Nat) : (s.raise n).mgmtOut = s.mgmtOut := rfl
@[simp] theorem State.raise_freeze (s : State) (n : Nat) : (s.raise n).freeze = s.freeze := rfl
@[simp] theorem State.raise_sysRead (s : State) (n : Nat) : (s.raise n).sysRead = s.sysRead := rfl
@[simp] theorem State.raise_eccCount (s : State) (n : Nat) : (s.raise n).eccCount = s.eccCount := rfl

@[simp] theorem State.send_sched (s : State) (m : Msg) : (s.send m).sched = s.sched := rfl
@[simp] theorem State.send_iss (s : State) (m : Msg) : (s.send m).iss = s.iss := rfl
@[simp] theorem State.send_fresh (s : State) (m : Msg) : (s.send m).fresh = s.fresh := rfl
@[simp] theorem State.send_ids (s : State) (m : Msg) : (s.send m).ids = s.ids := rfl
@[simp] theorem State.send_tick (s : State) (m : Msg) : (s.send m).tick = s.tick := rfl
@[simp] theorem State.send_cores (s : State) (m : Msg) : (s.send m).cores = s.cores := rfl
@[simp] theorem State.send_mem (s : State) (m : Msg) : (s.send m).mem = s.mem := rfl
@[simp] theorem State.send_sptbase (s : State) (m : Msg) : (s.send m).sptbase = s.sptbase := rfl
@[simp] theorem State.send_spgen (s : State) (m : Msg) : (s.send m).spgen = s.spgen := rfl
@[simp] theorem State.send_objCache (s : State) (m : Msg) : (s.send m).objCache = s.objCache := rfl
@[simp] theorem State.send_tlb (s : State) (m : Msg) : (s.send m).tlb = s.tlb := rfl
@[simp] theorem State.send_walkCache (s : State) (m : Msg) : (s.send m).walkCache = s.walkCache := rfl
@[simp] theorem State.send_spaceCache (s : State) (m : Msg) : (s.send m).spaceCache = s.spaceCache := rfl
@[simp] theorem State.send_walks (s : State) (m : Msg) : (s.send m).walks = s.walks := rfl
@[simp] theorem State.send_outFaults (s : State) (m : Msg) : (s.send m).outFaults = s.outFaults := rfl
@[simp] theorem State.send_engWaits (s : State) (m : Msg) : (s.send m).engWaits = s.engWaits := rfl
@[simp] theorem State.send_nextFault (s : State) (m : Msg) : (s.send m).nextFault = s.nextFault := rfl
@[simp] theorem State.send_faultWait (s : State) (m : Msg) : (s.send m).faultWait = s.faultWait := rfl
@[simp] theorem State.send_compWait (s : State) (m : Msg) : (s.send m).compWait = s.compWait := rfl
@[simp] theorem State.send_lq (s : State) (m : Msg) : (s.send m).lq = s.lq := rfl
@[simp] theorem State.send_cq (s : State) (m : Msg) : (s.send m).cq = s.cq := rfl
@[simp] theorem State.send_fq (s : State) (m : Msg) : (s.send m).fq = s.fq := rfl
@[simp] theorem State.send_so (s : State) (m : Msg) : (s.send m).so = s.so := rfl
@[simp] theorem State.send_ch (s : State) (m : Msg) : (s.send m).ch = s.ch := rfl
@[simp] theorem State.send_keys (s : State) (m : Msg) : (s.send m).keys = s.keys := rfl
@[simp] theorem State.send_tiers (s : State) (m : Msg) : (s.send m).tiers = s.tiers := rfl
@[simp] theorem State.send_links (s : State) (m : Msg) : (s.send m).links = s.links := rfl
@[simp] theorem State.send_routes (s : State) (m : Msg) : (s.send m).routes = s.routes := rfl
@[simp] theorem State.send_modnum (s : State) (m : Msg) : (s.send m).modnum = s.modnum := rfl
@[simp] theorem State.send_cgroups (s : State) (m : Msg) : (s.send m).cgroups = s.cgroups := rfl
@[simp] theorem State.send_cruns (s : State) (m : Msg) : (s.send m).cruns = s.cruns := rfl
@[simp] theorem State.send_media (s : State) (m : Msg) : (s.send m).media = s.media := rfl
@[simp] theorem State.send_vde (s : State) (m : Msg) : (s.send m).vde = s.vde := rfl
@[simp] theorem State.send_drives (s : State) (m : Msg) : (s.send m).drives = s.drives := rfl
@[simp] theorem State.send_doorbells (s : State) (m : Msg) : (s.send m).doorbells = s.doorbells := rfl
@[simp] theorem State.send_cxlDown (s : State) (m : Msg) : (s.send m).cxlDown = s.cxlDown := rfl
@[simp] theorem State.send_px (s : State) (m : Msg) : (s.send m).px = s.px := rfl
@[simp] theorem State.send_pxq (s : State) (m : Msg) : (s.send m).pxq = s.pxq := rfl
@[simp] theorem State.send_pxNext (s : State) (m : Msg) : (s.send m).pxNext = s.pxNext := rfl
@[simp] theorem State.send_wd (s : State) (m : Msg) : (s.send m).wd = s.wd := rfl
@[simp] theorem State.send_tasks (s : State) (m : Msg) : (s.send m).tasks = s.tasks := rfl
@[simp] theorem State.send_swaps (s : State) (m : Msg) : (s.send m).swaps = s.swaps := rfl
@[simp] theorem State.send_hold (s : State) (m : Msg) : (s.send m).hold = s.hold := rfl
@[simp] theorem State.send_quantum (s : State) (m : Msg) : (s.send m).quantum = s.quantum := rfl
@[simp] theorem State.send_bars (s : State) (m : Msg) : (s.send m).bars = s.bars := rfl
@[simp] theorem State.send_groups (s : State) (m : Msg) : (s.send m).groups = s.groups := rfl
@[simp] theorem State.send_merges (s : State) (m : Msg) : (s.send m).merges = s.merges := rfl
@[simp] theorem State.send_oarov (s : State) (m : Msg) : (s.send m).oarov = s.oarov := rfl
@[simp] theorem State.send_thermo (s : State) (m : Msg) : (s.send m).thermo = s.thermo := rfl
@[simp] theorem State.send_mgmtOut (s : State) (m : Msg) : (s.send m).mgmtOut = s.mgmtOut := rfl
@[simp] theorem State.send_freeze (s : State) (m : Msg) : (s.send m).freeze = s.freeze := rfl
@[simp] theorem State.send_irq (s : State) (m : Msg) : (s.send m).irq = s.irq := rfl
@[simp] theorem State.send_sysRead (s : State) (m : Msg) : (s.send m).sysRead = s.sysRead := rfl
@[simp] theorem State.send_eccCount (s : State) (m : Msg) : (s.send m).eccCount = s.eccCount := rfl

@[simp] theorem State.reply_sched (s : State) (r : MgmtReply) : (s.reply r).sched = s.sched := rfl
@[simp] theorem State.reply_iss (s : State) (r : MgmtReply) : (s.reply r).iss = s.iss := rfl
@[simp] theorem State.reply_fresh (s : State) (r : MgmtReply) : (s.reply r).fresh = s.fresh := rfl
@[simp] theorem State.reply_ids (s : State) (r : MgmtReply) : (s.reply r).ids = s.ids := rfl
@[simp] theorem State.reply_tick (s : State) (r : MgmtReply) : (s.reply r).tick = s.tick := rfl
@[simp] theorem State.reply_cores (s : State) (r : MgmtReply) : (s.reply r).cores = s.cores := rfl
@[simp] theorem State.reply_mem (s : State) (r : MgmtReply) : (s.reply r).mem = s.mem := rfl
@[simp] theorem State.reply_sptbase (s : State) (r : MgmtReply) : (s.reply r).sptbase = s.sptbase := rfl
@[simp] theorem State.reply_spgen (s : State) (r : MgmtReply) : (s.reply r).spgen = s.spgen := rfl
@[simp] theorem State.reply_objCache (s : State) (r : MgmtReply) : (s.reply r).objCache = s.objCache := rfl
@[simp] theorem State.reply_tlb (s : State) (r : MgmtReply) : (s.reply r).tlb = s.tlb := rfl
@[simp] theorem State.reply_walkCache (s : State) (r : MgmtReply) : (s.reply r).walkCache = s.walkCache := rfl
@[simp] theorem State.reply_spaceCache (s : State) (r : MgmtReply) : (s.reply r).spaceCache = s.spaceCache := rfl
@[simp] theorem State.reply_walks (s : State) (r : MgmtReply) : (s.reply r).walks = s.walks := rfl
@[simp] theorem State.reply_outFaults (s : State) (r : MgmtReply) : (s.reply r).outFaults = s.outFaults := rfl
@[simp] theorem State.reply_engWaits (s : State) (r : MgmtReply) : (s.reply r).engWaits = s.engWaits := rfl
@[simp] theorem State.reply_nextFault (s : State) (r : MgmtReply) : (s.reply r).nextFault = s.nextFault := rfl
@[simp] theorem State.reply_faultWait (s : State) (r : MgmtReply) : (s.reply r).faultWait = s.faultWait := rfl
@[simp] theorem State.reply_compWait (s : State) (r : MgmtReply) : (s.reply r).compWait = s.compWait := rfl
@[simp] theorem State.reply_lq (s : State) (r : MgmtReply) : (s.reply r).lq = s.lq := rfl
@[simp] theorem State.reply_cq (s : State) (r : MgmtReply) : (s.reply r).cq = s.cq := rfl
@[simp] theorem State.reply_fq (s : State) (r : MgmtReply) : (s.reply r).fq = s.fq := rfl
@[simp] theorem State.reply_so (s : State) (r : MgmtReply) : (s.reply r).so = s.so := rfl
@[simp] theorem State.reply_ch (s : State) (r : MgmtReply) : (s.reply r).ch = s.ch := rfl
@[simp] theorem State.reply_keys (s : State) (r : MgmtReply) : (s.reply r).keys = s.keys := rfl
@[simp] theorem State.reply_tiers (s : State) (r : MgmtReply) : (s.reply r).tiers = s.tiers := rfl
@[simp] theorem State.reply_links (s : State) (r : MgmtReply) : (s.reply r).links = s.links := rfl
@[simp] theorem State.reply_routes (s : State) (r : MgmtReply) : (s.reply r).routes = s.routes := rfl
@[simp] theorem State.reply_modnum (s : State) (r : MgmtReply) : (s.reply r).modnum = s.modnum := rfl
@[simp] theorem State.reply_inbox (s : State) (r : MgmtReply) : (s.reply r).inbox = s.inbox := rfl
@[simp] theorem State.reply_cgroups (s : State) (r : MgmtReply) : (s.reply r).cgroups = s.cgroups := rfl
@[simp] theorem State.reply_cruns (s : State) (r : MgmtReply) : (s.reply r).cruns = s.cruns := rfl
@[simp] theorem State.reply_media (s : State) (r : MgmtReply) : (s.reply r).media = s.media := rfl
@[simp] theorem State.reply_vde (s : State) (r : MgmtReply) : (s.reply r).vde = s.vde := rfl
@[simp] theorem State.reply_drives (s : State) (r : MgmtReply) : (s.reply r).drives = s.drives := rfl
@[simp] theorem State.reply_doorbells (s : State) (r : MgmtReply) : (s.reply r).doorbells = s.doorbells := rfl
@[simp] theorem State.reply_cxlDown (s : State) (r : MgmtReply) : (s.reply r).cxlDown = s.cxlDown := rfl
@[simp] theorem State.reply_px (s : State) (r : MgmtReply) : (s.reply r).px = s.px := rfl
@[simp] theorem State.reply_pxq (s : State) (r : MgmtReply) : (s.reply r).pxq = s.pxq := rfl
@[simp] theorem State.reply_pxNext (s : State) (r : MgmtReply) : (s.reply r).pxNext = s.pxNext := rfl
@[simp] theorem State.reply_wd (s : State) (r : MgmtReply) : (s.reply r).wd = s.wd := rfl
@[simp] theorem State.reply_tasks (s : State) (r : MgmtReply) : (s.reply r).tasks = s.tasks := rfl
@[simp] theorem State.reply_swaps (s : State) (r : MgmtReply) : (s.reply r).swaps = s.swaps := rfl
@[simp] theorem State.reply_hold (s : State) (r : MgmtReply) : (s.reply r).hold = s.hold := rfl
@[simp] theorem State.reply_quantum (s : State) (r : MgmtReply) : (s.reply r).quantum = s.quantum := rfl
@[simp] theorem State.reply_bars (s : State) (r : MgmtReply) : (s.reply r).bars = s.bars := rfl
@[simp] theorem State.reply_groups (s : State) (r : MgmtReply) : (s.reply r).groups = s.groups := rfl
@[simp] theorem State.reply_merges (s : State) (r : MgmtReply) : (s.reply r).merges = s.merges := rfl
@[simp] theorem State.reply_oarov (s : State) (r : MgmtReply) : (s.reply r).oarov = s.oarov := rfl
@[simp] theorem State.reply_thermo (s : State) (r : MgmtReply) : (s.reply r).thermo = s.thermo := rfl
@[simp] theorem State.reply_freeze (s : State) (r : MgmtReply) : (s.reply r).freeze = s.freeze := rfl
@[simp] theorem State.reply_irq (s : State) (r : MgmtReply) : (s.reply r).irq = s.irq := rfl
@[simp] theorem State.reply_sysRead (s : State) (r : MgmtReply) : (s.reply r).sysRead = s.sysRead := rfl
@[simp] theorem State.reply_eccCount (s : State) (r : MgmtReply) : (s.reply r).eccCount = s.eccCount := rfl

@[simp] theorem State.setLink_sched (s : State) (l : Nat) (k : Link) : (s.setLink l k).sched = s.sched := rfl
@[simp] theorem State.setLink_iss (s : State) (l : Nat) (k : Link) : (s.setLink l k).iss = s.iss := rfl
@[simp] theorem State.setLink_fresh (s : State) (l : Nat) (k : Link) : (s.setLink l k).fresh = s.fresh := rfl
@[simp] theorem State.setLink_ids (s : State) (l : Nat) (k : Link) : (s.setLink l k).ids = s.ids := rfl
@[simp] theorem State.setLink_tick (s : State) (l : Nat) (k : Link) : (s.setLink l k).tick = s.tick := rfl
@[simp] theorem State.setLink_cores (s : State) (l : Nat) (k : Link) : (s.setLink l k).cores = s.cores := rfl
@[simp] theorem State.setLink_mem (s : State) (l : Nat) (k : Link) : (s.setLink l k).mem = s.mem := rfl
@[simp] theorem State.setLink_sptbase (s : State) (l : Nat) (k : Link) : (s.setLink l k).sptbase = s.sptbase := rfl
@[simp] theorem State.setLink_spgen (s : State) (l : Nat) (k : Link) : (s.setLink l k).spgen = s.spgen := rfl
@[simp] theorem State.setLink_objCache (s : State) (l : Nat) (k : Link) : (s.setLink l k).objCache = s.objCache := rfl
@[simp] theorem State.setLink_tlb (s : State) (l : Nat) (k : Link) : (s.setLink l k).tlb = s.tlb := rfl
@[simp] theorem State.setLink_walkCache (s : State) (l : Nat) (k : Link) : (s.setLink l k).walkCache = s.walkCache := rfl
@[simp] theorem State.setLink_spaceCache (s : State) (l : Nat) (k : Link) : (s.setLink l k).spaceCache = s.spaceCache := rfl
@[simp] theorem State.setLink_walks (s : State) (l : Nat) (k : Link) : (s.setLink l k).walks = s.walks := rfl
@[simp] theorem State.setLink_outFaults (s : State) (l : Nat) (k : Link) : (s.setLink l k).outFaults = s.outFaults := rfl
@[simp] theorem State.setLink_engWaits (s : State) (l : Nat) (k : Link) : (s.setLink l k).engWaits = s.engWaits := rfl
@[simp] theorem State.setLink_nextFault (s : State) (l : Nat) (k : Link) : (s.setLink l k).nextFault = s.nextFault := rfl
@[simp] theorem State.setLink_faultWait (s : State) (l : Nat) (k : Link) : (s.setLink l k).faultWait = s.faultWait := rfl
@[simp] theorem State.setLink_compWait (s : State) (l : Nat) (k : Link) : (s.setLink l k).compWait = s.compWait := rfl
@[simp] theorem State.setLink_lq (s : State) (l : Nat) (k : Link) : (s.setLink l k).lq = s.lq := rfl
@[simp] theorem State.setLink_cq (s : State) (l : Nat) (k : Link) : (s.setLink l k).cq = s.cq := rfl
@[simp] theorem State.setLink_fq (s : State) (l : Nat) (k : Link) : (s.setLink l k).fq = s.fq := rfl
@[simp] theorem State.setLink_so (s : State) (l : Nat) (k : Link) : (s.setLink l k).so = s.so := rfl
@[simp] theorem State.setLink_ch (s : State) (l : Nat) (k : Link) : (s.setLink l k).ch = s.ch := rfl
@[simp] theorem State.setLink_keys (s : State) (l : Nat) (k : Link) : (s.setLink l k).keys = s.keys := rfl
@[simp] theorem State.setLink_tiers (s : State) (l : Nat) (k : Link) : (s.setLink l k).tiers = s.tiers := rfl
@[simp] theorem State.setLink_routes (s : State) (l : Nat) (k : Link) : (s.setLink l k).routes = s.routes := rfl
@[simp] theorem State.setLink_modnum (s : State) (l : Nat) (k : Link) : (s.setLink l k).modnum = s.modnum := rfl
@[simp] theorem State.setLink_inbox (s : State) (l : Nat) (k : Link) : (s.setLink l k).inbox = s.inbox := rfl
@[simp] theorem State.setLink_cgroups (s : State) (l : Nat) (k : Link) : (s.setLink l k).cgroups = s.cgroups := rfl
@[simp] theorem State.setLink_cruns (s : State) (l : Nat) (k : Link) : (s.setLink l k).cruns = s.cruns := rfl
@[simp] theorem State.setLink_media (s : State) (l : Nat) (k : Link) : (s.setLink l k).media = s.media := rfl
@[simp] theorem State.setLink_vde (s : State) (l : Nat) (k : Link) : (s.setLink l k).vde = s.vde := rfl
@[simp] theorem State.setLink_drives (s : State) (l : Nat) (k : Link) : (s.setLink l k).drives = s.drives := rfl
@[simp] theorem State.setLink_doorbells (s : State) (l : Nat) (k : Link) : (s.setLink l k).doorbells = s.doorbells := rfl
@[simp] theorem State.setLink_cxlDown (s : State) (l : Nat) (k : Link) : (s.setLink l k).cxlDown = s.cxlDown := rfl
@[simp] theorem State.setLink_px (s : State) (l : Nat) (k : Link) : (s.setLink l k).px = s.px := rfl
@[simp] theorem State.setLink_pxq (s : State) (l : Nat) (k : Link) : (s.setLink l k).pxq = s.pxq := rfl
@[simp] theorem State.setLink_pxNext (s : State) (l : Nat) (k : Link) : (s.setLink l k).pxNext = s.pxNext := rfl
@[simp] theorem State.setLink_wd (s : State) (l : Nat) (k : Link) : (s.setLink l k).wd = s.wd := rfl
@[simp] theorem State.setLink_tasks (s : State) (l : Nat) (k : Link) : (s.setLink l k).tasks = s.tasks := rfl
@[simp] theorem State.setLink_swaps (s : State) (l : Nat) (k : Link) : (s.setLink l k).swaps = s.swaps := rfl
@[simp] theorem State.setLink_hold (s : State) (l : Nat) (k : Link) : (s.setLink l k).hold = s.hold := rfl
@[simp] theorem State.setLink_quantum (s : State) (l : Nat) (k : Link) : (s.setLink l k).quantum = s.quantum := rfl
@[simp] theorem State.setLink_bars (s : State) (l : Nat) (k : Link) : (s.setLink l k).bars = s.bars := rfl
@[simp] theorem State.setLink_groups (s : State) (l : Nat) (k : Link) : (s.setLink l k).groups = s.groups := rfl
@[simp] theorem State.setLink_merges (s : State) (l : Nat) (k : Link) : (s.setLink l k).merges = s.merges := rfl
@[simp] theorem State.setLink_oarov (s : State) (l : Nat) (k : Link) : (s.setLink l k).oarov = s.oarov := rfl
@[simp] theorem State.setLink_thermo (s : State) (l : Nat) (k : Link) : (s.setLink l k).thermo = s.thermo := rfl
@[simp] theorem State.setLink_mgmtOut (s : State) (l : Nat) (k : Link) : (s.setLink l k).mgmtOut = s.mgmtOut := rfl
@[simp] theorem State.setLink_freeze (s : State) (l : Nat) (k : Link) : (s.setLink l k).freeze = s.freeze := rfl
@[simp] theorem State.setLink_irq (s : State) (l : Nat) (k : Link) : (s.setLink l k).irq = s.irq := rfl
@[simp] theorem State.setLink_sysRead (s : State) (l : Nat) (k : Link) : (s.setLink l k).sysRead = s.sysRead := rfl
@[simp] theorem State.setLink_eccCount (s : State) (l : Nat) (k : Link) : (s.setLink l k).eccCount = s.eccCount := rfl

@[simp] theorem State.modTask_sched (s : State) (id : Nat) (f : Task → Task) : (s.modTask id f).sched = s.sched := rfl
@[simp] theorem State.modTask_iss (s : State) (id : Nat) (f : Task → Task) : (s.modTask id f).iss = s.iss := rfl
@[simp] theorem State.modTask_fresh (s : State) (id : Nat) (f : Task → Task) : (s.modTask id f).fresh = s.fresh := rfl
@[simp] theorem State.modTask_ids (s : State) (id : Nat) (f : Task → Task) : (s.modTask id f).ids = s.ids := rfl
@[simp] theorem State.modTask_tick (s : State) (id : Nat) (f : Task → Task) : (s.modTask id f).tick = s.tick := rfl
@[simp] theorem State.modTask_cores (s : State) (id : Nat) (f : Task → Task) : (s.modTask id f).cores = s.cores := rfl
@[simp] theorem State.modTask_mem (s : State) (id : Nat) (f : Task → Task) : (s.modTask id f).mem = s.mem := rfl
@[simp] theorem State.modTask_sptbase (s : State) (id : Nat) (f : Task → Task) : (s.modTask id f).sptbase = s.sptbase := rfl
@[simp] theorem State.modTask_spgen (s : State) (id : Nat) (f : Task → Task) : (s.modTask id f).spgen = s.spgen := rfl
@[simp] theorem State.modTask_objCache (s : State) (id : Nat) (f : Task → Task) : (s.modTask id f).objCache = s.objCache := rfl
@[simp] theorem State.modTask_tlb (s : State) (id : Nat) (f : Task → Task) : (s.modTask id f).tlb = s.tlb := rfl
@[simp] theorem State.modTask_walkCache (s : State) (id : Nat) (f : Task → Task) : (s.modTask id f).walkCache = s.walkCache := rfl
@[simp] theorem State.modTask_spaceCache (s : State) (id : Nat) (f : Task → Task) : (s.modTask id f).spaceCache = s.spaceCache := rfl
@[simp] theorem State.modTask_walks (s : State) (id : Nat) (f : Task → Task) : (s.modTask id f).walks = s.walks := rfl
@[simp] theorem State.modTask_outFaults (s : State) (id : Nat) (f : Task → Task) : (s.modTask id f).outFaults = s.outFaults := rfl
@[simp] theorem State.modTask_engWaits (s : State) (id : Nat) (f : Task → Task) : (s.modTask id f).engWaits = s.engWaits := rfl
@[simp] theorem State.modTask_nextFault (s : State) (id : Nat) (f : Task → Task) : (s.modTask id f).nextFault = s.nextFault := rfl
@[simp] theorem State.modTask_faultWait (s : State) (id : Nat) (f : Task → Task) : (s.modTask id f).faultWait = s.faultWait := rfl
@[simp] theorem State.modTask_compWait (s : State) (id : Nat) (f : Task → Task) : (s.modTask id f).compWait = s.compWait := rfl
@[simp] theorem State.modTask_lq (s : State) (id : Nat) (f : Task → Task) : (s.modTask id f).lq = s.lq := rfl
@[simp] theorem State.modTask_cq (s : State) (id : Nat) (f : Task → Task) : (s.modTask id f).cq = s.cq := rfl
@[simp] theorem State.modTask_fq (s : State) (id : Nat) (f : Task → Task) : (s.modTask id f).fq = s.fq := rfl
@[simp] theorem State.modTask_so (s : State) (id : Nat) (f : Task → Task) : (s.modTask id f).so = s.so := rfl
@[simp] theorem State.modTask_ch (s : State) (id : Nat) (f : Task → Task) : (s.modTask id f).ch = s.ch := rfl
@[simp] theorem State.modTask_keys (s : State) (id : Nat) (f : Task → Task) : (s.modTask id f).keys = s.keys := rfl
@[simp] theorem State.modTask_tiers (s : State) (id : Nat) (f : Task → Task) : (s.modTask id f).tiers = s.tiers := rfl
@[simp] theorem State.modTask_links (s : State) (id : Nat) (f : Task → Task) : (s.modTask id f).links = s.links := rfl
@[simp] theorem State.modTask_routes (s : State) (id : Nat) (f : Task → Task) : (s.modTask id f).routes = s.routes := rfl
@[simp] theorem State.modTask_modnum (s : State) (id : Nat) (f : Task → Task) : (s.modTask id f).modnum = s.modnum := rfl
@[simp] theorem State.modTask_inbox (s : State) (id : Nat) (f : Task → Task) : (s.modTask id f).inbox = s.inbox := rfl
@[simp] theorem State.modTask_cgroups (s : State) (id : Nat) (f : Task → Task) : (s.modTask id f).cgroups = s.cgroups := rfl
@[simp] theorem State.modTask_cruns (s : State) (id : Nat) (f : Task → Task) : (s.modTask id f).cruns = s.cruns := rfl
@[simp] theorem State.modTask_media (s : State) (id : Nat) (f : Task → Task) : (s.modTask id f).media = s.media := rfl
@[simp] theorem State.modTask_vde (s : State) (id : Nat) (f : Task → Task) : (s.modTask id f).vde = s.vde := rfl
@[simp] theorem State.modTask_drives (s : State) (id : Nat) (f : Task → Task) : (s.modTask id f).drives = s.drives := rfl
@[simp] theorem State.modTask_doorbells (s : State) (id : Nat) (f : Task → Task) : (s.modTask id f).doorbells = s.doorbells := rfl
@[simp] theorem State.modTask_cxlDown (s : State) (id : Nat) (f : Task → Task) : (s.modTask id f).cxlDown = s.cxlDown := rfl
@[simp] theorem State.modTask_px (s : State) (id : Nat) (f : Task → Task) : (s.modTask id f).px = s.px := rfl
@[simp] theorem State.modTask_pxq (s : State) (id : Nat) (f : Task → Task) : (s.modTask id f).pxq = s.pxq := rfl
@[simp] theorem State.modTask_pxNext (s : State) (id : Nat) (f : Task → Task) : (s.modTask id f).pxNext = s.pxNext := rfl
@[simp] theorem State.modTask_wd (s : State) (id : Nat) (f : Task → Task) : (s.modTask id f).wd = s.wd := rfl
@[simp] theorem State.modTask_swaps (s : State) (id : Nat) (f : Task → Task) : (s.modTask id f).swaps = s.swaps := rfl
@[simp] theorem State.modTask_hold (s : State) (id : Nat) (f : Task → Task) : (s.modTask id f).hold = s.hold := rfl
@[simp] theorem State.modTask_quantum (s : State) (id : Nat) (f : Task → Task) : (s.modTask id f).quantum = s.quantum := rfl
@[simp] theorem State.modTask_bars (s : State) (id : Nat) (f : Task → Task) : (s.modTask id f).bars = s.bars := rfl
@[simp] theorem State.modTask_groups (s : State) (id : Nat) (f : Task → Task) : (s.modTask id f).groups = s.groups := rfl
@[simp] theorem State.modTask_merges (s : State) (id : Nat) (f : Task → Task) : (s.modTask id f).merges = s.merges := rfl
@[simp] theorem State.modTask_oarov (s : State) (id : Nat) (f : Task → Task) : (s.modTask id f).oarov = s.oarov := rfl
@[simp] theorem State.modTask_thermo (s : State) (id : Nat) (f : Task → Task) : (s.modTask id f).thermo = s.thermo := rfl
@[simp] theorem State.modTask_mgmtOut (s : State) (id : Nat) (f : Task → Task) : (s.modTask id f).mgmtOut = s.mgmtOut := rfl
@[simp] theorem State.modTask_freeze (s : State) (id : Nat) (f : Task → Task) : (s.modTask id f).freeze = s.freeze := rfl
@[simp] theorem State.modTask_irq (s : State) (id : Nat) (f : Task → Task) : (s.modTask id f).irq = s.irq := rfl
@[simp] theorem State.modTask_sysRead (s : State) (id : Nat) (f : Task → Task) : (s.modTask id f).sysRead = s.sysRead := rfl
@[simp] theorem State.modTask_eccCount (s : State) (id : Nat) (f : Task → Task) : (s.modTask id f).eccCount = s.eccCount := rfl

@[simp] theorem State.clearWait_sched (s : State) (rq : Requester) : (s.clearWait rq).sched = s.sched := rfl
@[simp] theorem State.clearWait_iss (s : State) (rq : Requester) : (s.clearWait rq).iss = s.iss := rfl
@[simp] theorem State.clearWait_fresh (s : State) (rq : Requester) : (s.clearWait rq).fresh = s.fresh := rfl
@[simp] theorem State.clearWait_ids (s : State) (rq : Requester) : (s.clearWait rq).ids = s.ids := rfl
@[simp] theorem State.clearWait_tick (s : State) (rq : Requester) : (s.clearWait rq).tick = s.tick := rfl
@[simp] theorem State.clearWait_cores (s : State) (rq : Requester) : (s.clearWait rq).cores = s.cores := rfl
@[simp] theorem State.clearWait_mem (s : State) (rq : Requester) : (s.clearWait rq).mem = s.mem := rfl
@[simp] theorem State.clearWait_sptbase (s : State) (rq : Requester) : (s.clearWait rq).sptbase = s.sptbase := rfl
@[simp] theorem State.clearWait_spgen (s : State) (rq : Requester) : (s.clearWait rq).spgen = s.spgen := rfl
@[simp] theorem State.clearWait_objCache (s : State) (rq : Requester) : (s.clearWait rq).objCache = s.objCache := rfl
@[simp] theorem State.clearWait_tlb (s : State) (rq : Requester) : (s.clearWait rq).tlb = s.tlb := rfl
@[simp] theorem State.clearWait_walkCache (s : State) (rq : Requester) : (s.clearWait rq).walkCache = s.walkCache := rfl
@[simp] theorem State.clearWait_spaceCache (s : State) (rq : Requester) : (s.clearWait rq).spaceCache = s.spaceCache := rfl
@[simp] theorem State.clearWait_outFaults (s : State) (rq : Requester) : (s.clearWait rq).outFaults = s.outFaults := rfl
@[simp] theorem State.clearWait_nextFault (s : State) (rq : Requester) : (s.clearWait rq).nextFault = s.nextFault := rfl
@[simp] theorem State.clearWait_faultWait (s : State) (rq : Requester) : (s.clearWait rq).faultWait = s.faultWait := rfl
@[simp] theorem State.clearWait_compWait (s : State) (rq : Requester) : (s.clearWait rq).compWait = s.compWait := rfl
@[simp] theorem State.clearWait_lq (s : State) (rq : Requester) : (s.clearWait rq).lq = s.lq := rfl
@[simp] theorem State.clearWait_cq (s : State) (rq : Requester) : (s.clearWait rq).cq = s.cq := rfl
@[simp] theorem State.clearWait_fq (s : State) (rq : Requester) : (s.clearWait rq).fq = s.fq := rfl
@[simp] theorem State.clearWait_so (s : State) (rq : Requester) : (s.clearWait rq).so = s.so := rfl
@[simp] theorem State.clearWait_ch (s : State) (rq : Requester) : (s.clearWait rq).ch = s.ch := rfl
@[simp] theorem State.clearWait_keys (s : State) (rq : Requester) : (s.clearWait rq).keys = s.keys := rfl
@[simp] theorem State.clearWait_tiers (s : State) (rq : Requester) : (s.clearWait rq).tiers = s.tiers := rfl
@[simp] theorem State.clearWait_links (s : State) (rq : Requester) : (s.clearWait rq).links = s.links := rfl
@[simp] theorem State.clearWait_routes (s : State) (rq : Requester) : (s.clearWait rq).routes = s.routes := rfl
@[simp] theorem State.clearWait_modnum (s : State) (rq : Requester) : (s.clearWait rq).modnum = s.modnum := rfl
@[simp] theorem State.clearWait_inbox (s : State) (rq : Requester) : (s.clearWait rq).inbox = s.inbox := rfl
@[simp] theorem State.clearWait_cgroups (s : State) (rq : Requester) : (s.clearWait rq).cgroups = s.cgroups := rfl
@[simp] theorem State.clearWait_cruns (s : State) (rq : Requester) : (s.clearWait rq).cruns = s.cruns := rfl
@[simp] theorem State.clearWait_media (s : State) (rq : Requester) : (s.clearWait rq).media = s.media := rfl
@[simp] theorem State.clearWait_vde (s : State) (rq : Requester) : (s.clearWait rq).vde = s.vde := rfl
@[simp] theorem State.clearWait_drives (s : State) (rq : Requester) : (s.clearWait rq).drives = s.drives := rfl
@[simp] theorem State.clearWait_doorbells (s : State) (rq : Requester) : (s.clearWait rq).doorbells = s.doorbells := rfl
@[simp] theorem State.clearWait_cxlDown (s : State) (rq : Requester) : (s.clearWait rq).cxlDown = s.cxlDown := rfl
@[simp] theorem State.clearWait_px (s : State) (rq : Requester) : (s.clearWait rq).px = s.px := rfl
@[simp] theorem State.clearWait_pxq (s : State) (rq : Requester) : (s.clearWait rq).pxq = s.pxq := rfl
@[simp] theorem State.clearWait_pxNext (s : State) (rq : Requester) : (s.clearWait rq).pxNext = s.pxNext := rfl
@[simp] theorem State.clearWait_wd (s : State) (rq : Requester) : (s.clearWait rq).wd = s.wd := rfl
@[simp] theorem State.clearWait_tasks (s : State) (rq : Requester) : (s.clearWait rq).tasks = s.tasks := rfl
@[simp] theorem State.clearWait_swaps (s : State) (rq : Requester) : (s.clearWait rq).swaps = s.swaps := rfl
@[simp] theorem State.clearWait_hold (s : State) (rq : Requester) : (s.clearWait rq).hold = s.hold := rfl
@[simp] theorem State.clearWait_quantum (s : State) (rq : Requester) : (s.clearWait rq).quantum = s.quantum := rfl
@[simp] theorem State.clearWait_bars (s : State) (rq : Requester) : (s.clearWait rq).bars = s.bars := rfl
@[simp] theorem State.clearWait_groups (s : State) (rq : Requester) : (s.clearWait rq).groups = s.groups := rfl
@[simp] theorem State.clearWait_merges (s : State) (rq : Requester) : (s.clearWait rq).merges = s.merges := rfl
@[simp] theorem State.clearWait_oarov (s : State) (rq : Requester) : (s.clearWait rq).oarov = s.oarov := rfl
@[simp] theorem State.clearWait_thermo (s : State) (rq : Requester) : (s.clearWait rq).thermo = s.thermo := rfl
@[simp] theorem State.clearWait_mgmtOut (s : State) (rq : Requester) : (s.clearWait rq).mgmtOut = s.mgmtOut := rfl
@[simp] theorem State.clearWait_freeze (s : State) (rq : Requester) : (s.clearWait rq).freeze = s.freeze := rfl
@[simp] theorem State.clearWait_irq (s : State) (rq : Requester) : (s.clearWait rq).irq = s.irq := rfl
@[simp] theorem State.clearWait_sysRead (s : State) (rq : Requester) : (s.clearWait rq).sysRead = s.sysRead := rfl
@[simp] theorem State.clearWait_eccCount (s : State) (rq : Requester) : (s.clearWait rq).eccCount = s.eccCount := rfl

@[simp] theorem State.ringBell_sched (s : State) (d : Drive) (addr : Word) (v : Nat) : (s.ringBell d addr v).sched = s.sched := rfl
@[simp] theorem State.ringBell_iss (s : State) (d : Drive) (addr : Word) (v : Nat) : (s.ringBell d addr v).iss = s.iss := rfl
@[simp] theorem State.ringBell_fresh (s : State) (d : Drive) (addr : Word) (v : Nat) : (s.ringBell d addr v).fresh = s.fresh := rfl
@[simp] theorem State.ringBell_ids (s : State) (d : Drive) (addr : Word) (v : Nat) : (s.ringBell d addr v).ids = s.ids := rfl
@[simp] theorem State.ringBell_tick (s : State) (d : Drive) (addr : Word) (v : Nat) : (s.ringBell d addr v).tick = s.tick := rfl
@[simp] theorem State.ringBell_cores (s : State) (d : Drive) (addr : Word) (v : Nat) : (s.ringBell d addr v).cores = s.cores := rfl
@[simp] theorem State.ringBell_mem (s : State) (d : Drive) (addr : Word) (v : Nat) : (s.ringBell d addr v).mem = s.mem := rfl
@[simp] theorem State.ringBell_sptbase (s : State) (d : Drive) (addr : Word) (v : Nat) : (s.ringBell d addr v).sptbase = s.sptbase := rfl
@[simp] theorem State.ringBell_spgen (s : State) (d : Drive) (addr : Word) (v : Nat) : (s.ringBell d addr v).spgen = s.spgen := rfl
@[simp] theorem State.ringBell_objCache (s : State) (d : Drive) (addr : Word) (v : Nat) : (s.ringBell d addr v).objCache = s.objCache := rfl
@[simp] theorem State.ringBell_tlb (s : State) (d : Drive) (addr : Word) (v : Nat) : (s.ringBell d addr v).tlb = s.tlb := rfl
@[simp] theorem State.ringBell_walkCache (s : State) (d : Drive) (addr : Word) (v : Nat) : (s.ringBell d addr v).walkCache = s.walkCache := rfl
@[simp] theorem State.ringBell_spaceCache (s : State) (d : Drive) (addr : Word) (v : Nat) : (s.ringBell d addr v).spaceCache = s.spaceCache := rfl
@[simp] theorem State.ringBell_walks (s : State) (d : Drive) (addr : Word) (v : Nat) : (s.ringBell d addr v).walks = s.walks := rfl
@[simp] theorem State.ringBell_outFaults (s : State) (d : Drive) (addr : Word) (v : Nat) : (s.ringBell d addr v).outFaults = s.outFaults := rfl
@[simp] theorem State.ringBell_engWaits (s : State) (d : Drive) (addr : Word) (v : Nat) : (s.ringBell d addr v).engWaits = s.engWaits := rfl
@[simp] theorem State.ringBell_nextFault (s : State) (d : Drive) (addr : Word) (v : Nat) : (s.ringBell d addr v).nextFault = s.nextFault := rfl
@[simp] theorem State.ringBell_faultWait (s : State) (d : Drive) (addr : Word) (v : Nat) : (s.ringBell d addr v).faultWait = s.faultWait := rfl
@[simp] theorem State.ringBell_compWait (s : State) (d : Drive) (addr : Word) (v : Nat) : (s.ringBell d addr v).compWait = s.compWait := rfl
@[simp] theorem State.ringBell_lq (s : State) (d : Drive) (addr : Word) (v : Nat) : (s.ringBell d addr v).lq = s.lq := rfl
@[simp] theorem State.ringBell_cq (s : State) (d : Drive) (addr : Word) (v : Nat) : (s.ringBell d addr v).cq = s.cq := rfl
@[simp] theorem State.ringBell_fq (s : State) (d : Drive) (addr : Word) (v : Nat) : (s.ringBell d addr v).fq = s.fq := rfl
@[simp] theorem State.ringBell_so (s : State) (d : Drive) (addr : Word) (v : Nat) : (s.ringBell d addr v).so = s.so := rfl
@[simp] theorem State.ringBell_ch (s : State) (d : Drive) (addr : Word) (v : Nat) : (s.ringBell d addr v).ch = s.ch := rfl
@[simp] theorem State.ringBell_keys (s : State) (d : Drive) (addr : Word) (v : Nat) : (s.ringBell d addr v).keys = s.keys := rfl
@[simp] theorem State.ringBell_tiers (s : State) (d : Drive) (addr : Word) (v : Nat) : (s.ringBell d addr v).tiers = s.tiers := rfl
@[simp] theorem State.ringBell_links (s : State) (d : Drive) (addr : Word) (v : Nat) : (s.ringBell d addr v).links = s.links := rfl
@[simp] theorem State.ringBell_routes (s : State) (d : Drive) (addr : Word) (v : Nat) : (s.ringBell d addr v).routes = s.routes := rfl
@[simp] theorem State.ringBell_modnum (s : State) (d : Drive) (addr : Word) (v : Nat) : (s.ringBell d addr v).modnum = s.modnum := rfl
@[simp] theorem State.ringBell_inbox (s : State) (d : Drive) (addr : Word) (v : Nat) : (s.ringBell d addr v).inbox = s.inbox := rfl
@[simp] theorem State.ringBell_cgroups (s : State) (d : Drive) (addr : Word) (v : Nat) : (s.ringBell d addr v).cgroups = s.cgroups := rfl
@[simp] theorem State.ringBell_cruns (s : State) (d : Drive) (addr : Word) (v : Nat) : (s.ringBell d addr v).cruns = s.cruns := rfl
@[simp] theorem State.ringBell_media (s : State) (d : Drive) (addr : Word) (v : Nat) : (s.ringBell d addr v).media = s.media := rfl
@[simp] theorem State.ringBell_vde (s : State) (d : Drive) (addr : Word) (v : Nat) : (s.ringBell d addr v).vde = s.vde := rfl
@[simp] theorem State.ringBell_drives (s : State) (d : Drive) (addr : Word) (v : Nat) : (s.ringBell d addr v).drives = s.drives := rfl
@[simp] theorem State.ringBell_cxlDown (s : State) (d : Drive) (addr : Word) (v : Nat) : (s.ringBell d addr v).cxlDown = s.cxlDown := rfl
@[simp] theorem State.ringBell_px (s : State) (d : Drive) (addr : Word) (v : Nat) : (s.ringBell d addr v).px = s.px := rfl
@[simp] theorem State.ringBell_pxq (s : State) (d : Drive) (addr : Word) (v : Nat) : (s.ringBell d addr v).pxq = s.pxq := rfl
@[simp] theorem State.ringBell_pxNext (s : State) (d : Drive) (addr : Word) (v : Nat) : (s.ringBell d addr v).pxNext = s.pxNext := rfl
@[simp] theorem State.ringBell_wd (s : State) (d : Drive) (addr : Word) (v : Nat) : (s.ringBell d addr v).wd = s.wd := rfl
@[simp] theorem State.ringBell_tasks (s : State) (d : Drive) (addr : Word) (v : Nat) : (s.ringBell d addr v).tasks = s.tasks := rfl
@[simp] theorem State.ringBell_swaps (s : State) (d : Drive) (addr : Word) (v : Nat) : (s.ringBell d addr v).swaps = s.swaps := rfl
@[simp] theorem State.ringBell_hold (s : State) (d : Drive) (addr : Word) (v : Nat) : (s.ringBell d addr v).hold = s.hold := rfl
@[simp] theorem State.ringBell_quantum (s : State) (d : Drive) (addr : Word) (v : Nat) : (s.ringBell d addr v).quantum = s.quantum := rfl
@[simp] theorem State.ringBell_bars (s : State) (d : Drive) (addr : Word) (v : Nat) : (s.ringBell d addr v).bars = s.bars := rfl
@[simp] theorem State.ringBell_groups (s : State) (d : Drive) (addr : Word) (v : Nat) : (s.ringBell d addr v).groups = s.groups := rfl
@[simp] theorem State.ringBell_merges (s : State) (d : Drive) (addr : Word) (v : Nat) : (s.ringBell d addr v).merges = s.merges := rfl
@[simp] theorem State.ringBell_oarov (s : State) (d : Drive) (addr : Word) (v : Nat) : (s.ringBell d addr v).oarov = s.oarov := rfl
@[simp] theorem State.ringBell_thermo (s : State) (d : Drive) (addr : Word) (v : Nat) : (s.ringBell d addr v).thermo = s.thermo := rfl
@[simp] theorem State.ringBell_mgmtOut (s : State) (d : Drive) (addr : Word) (v : Nat) : (s.ringBell d addr v).mgmtOut = s.mgmtOut := rfl
@[simp] theorem State.ringBell_freeze (s : State) (d : Drive) (addr : Word) (v : Nat) : (s.ringBell d addr v).freeze = s.freeze := rfl
@[simp] theorem State.ringBell_irq (s : State) (d : Drive) (addr : Word) (v : Nat) : (s.ringBell d addr v).irq = s.irq := rfl
@[simp] theorem State.ringBell_sysRead (s : State) (d : Drive) (addr : Word) (v : Nat) : (s.ringBell d addr v).sysRead = s.sysRead := rfl
@[simp] theorem State.ringBell_eccCount (s : State) (d : Drive) (addr : Word) (v : Nat) : (s.ringBell d addr v).eccCount = s.eccCount := rfl

@[simp] theorem State.askWalk_sched (s : State) (rq : Requester) (sp : BitVec 16) (dva : Nat) (w x : Bool) : (s.askWalk rq sp dva w x).sched = s.sched := rfl
@[simp] theorem State.askWalk_iss (s : State) (rq : Requester) (sp : BitVec 16) (dva : Nat) (w x : Bool) : (s.askWalk rq sp dva w x).iss = s.iss := rfl
@[simp] theorem State.askWalk_fresh (s : State) (rq : Requester) (sp : BitVec 16) (dva : Nat) (w x : Bool) : (s.askWalk rq sp dva w x).fresh = s.fresh := rfl
@[simp] theorem State.askWalk_ids (s : State) (rq : Requester) (sp : BitVec 16) (dva : Nat) (w x : Bool) : (s.askWalk rq sp dva w x).ids = s.ids := rfl
@[simp] theorem State.askWalk_tick (s : State) (rq : Requester) (sp : BitVec 16) (dva : Nat) (w x : Bool) : (s.askWalk rq sp dva w x).tick = s.tick := rfl
@[simp] theorem State.askWalk_cores (s : State) (rq : Requester) (sp : BitVec 16) (dva : Nat) (w x : Bool) : (s.askWalk rq sp dva w x).cores = s.cores := rfl
@[simp] theorem State.askWalk_mem (s : State) (rq : Requester) (sp : BitVec 16) (dva : Nat) (w x : Bool) : (s.askWalk rq sp dva w x).mem = s.mem := rfl
@[simp] theorem State.askWalk_sptbase (s : State) (rq : Requester) (sp : BitVec 16) (dva : Nat) (w x : Bool) : (s.askWalk rq sp dva w x).sptbase = s.sptbase := rfl
@[simp] theorem State.askWalk_spgen (s : State) (rq : Requester) (sp : BitVec 16) (dva : Nat) (w x : Bool) : (s.askWalk rq sp dva w x).spgen = s.spgen := rfl
@[simp] theorem State.askWalk_objCache (s : State) (rq : Requester) (sp : BitVec 16) (dva : Nat) (w x : Bool) : (s.askWalk rq sp dva w x).objCache = s.objCache := rfl
@[simp] theorem State.askWalk_tlb (s : State) (rq : Requester) (sp : BitVec 16) (dva : Nat) (w x : Bool) : (s.askWalk rq sp dva w x).tlb = s.tlb := rfl
@[simp] theorem State.askWalk_walkCache (s : State) (rq : Requester) (sp : BitVec 16) (dva : Nat) (w x : Bool) : (s.askWalk rq sp dva w x).walkCache = s.walkCache := rfl
@[simp] theorem State.askWalk_spaceCache (s : State) (rq : Requester) (sp : BitVec 16) (dva : Nat) (w x : Bool) : (s.askWalk rq sp dva w x).spaceCache = s.spaceCache := rfl
@[simp] theorem State.askWalk_outFaults (s : State) (rq : Requester) (sp : BitVec 16) (dva : Nat) (w x : Bool) : (s.askWalk rq sp dva w x).outFaults = s.outFaults := rfl
@[simp] theorem State.askWalk_engWaits (s : State) (rq : Requester) (sp : BitVec 16) (dva : Nat) (w x : Bool) : (s.askWalk rq sp dva w x).engWaits = s.engWaits := rfl
@[simp] theorem State.askWalk_nextFault (s : State) (rq : Requester) (sp : BitVec 16) (dva : Nat) (w x : Bool) : (s.askWalk rq sp dva w x).nextFault = s.nextFault := rfl
@[simp] theorem State.askWalk_faultWait (s : State) (rq : Requester) (sp : BitVec 16) (dva : Nat) (w x : Bool) : (s.askWalk rq sp dva w x).faultWait = s.faultWait := rfl
@[simp] theorem State.askWalk_compWait (s : State) (rq : Requester) (sp : BitVec 16) (dva : Nat) (w x : Bool) : (s.askWalk rq sp dva w x).compWait = s.compWait := rfl
@[simp] theorem State.askWalk_lq (s : State) (rq : Requester) (sp : BitVec 16) (dva : Nat) (w x : Bool) : (s.askWalk rq sp dva w x).lq = s.lq := rfl
@[simp] theorem State.askWalk_cq (s : State) (rq : Requester) (sp : BitVec 16) (dva : Nat) (w x : Bool) : (s.askWalk rq sp dva w x).cq = s.cq := rfl
@[simp] theorem State.askWalk_fq (s : State) (rq : Requester) (sp : BitVec 16) (dva : Nat) (w x : Bool) : (s.askWalk rq sp dva w x).fq = s.fq := rfl
@[simp] theorem State.askWalk_so (s : State) (rq : Requester) (sp : BitVec 16) (dva : Nat) (w x : Bool) : (s.askWalk rq sp dva w x).so = s.so := rfl
@[simp] theorem State.askWalk_ch (s : State) (rq : Requester) (sp : BitVec 16) (dva : Nat) (w x : Bool) : (s.askWalk rq sp dva w x).ch = s.ch := rfl
@[simp] theorem State.askWalk_keys (s : State) (rq : Requester) (sp : BitVec 16) (dva : Nat) (w x : Bool) : (s.askWalk rq sp dva w x).keys = s.keys := rfl
@[simp] theorem State.askWalk_tiers (s : State) (rq : Requester) (sp : BitVec 16) (dva : Nat) (w x : Bool) : (s.askWalk rq sp dva w x).tiers = s.tiers := rfl
@[simp] theorem State.askWalk_links (s : State) (rq : Requester) (sp : BitVec 16) (dva : Nat) (w x : Bool) : (s.askWalk rq sp dva w x).links = s.links := rfl
@[simp] theorem State.askWalk_routes (s : State) (rq : Requester) (sp : BitVec 16) (dva : Nat) (w x : Bool) : (s.askWalk rq sp dva w x).routes = s.routes := rfl
@[simp] theorem State.askWalk_modnum (s : State) (rq : Requester) (sp : BitVec 16) (dva : Nat) (w x : Bool) : (s.askWalk rq sp dva w x).modnum = s.modnum := rfl
@[simp] theorem State.askWalk_inbox (s : State) (rq : Requester) (sp : BitVec 16) (dva : Nat) (w x : Bool) : (s.askWalk rq sp dva w x).inbox = s.inbox := rfl
@[simp] theorem State.askWalk_cgroups (s : State) (rq : Requester) (sp : BitVec 16) (dva : Nat) (w x : Bool) : (s.askWalk rq sp dva w x).cgroups = s.cgroups := rfl
@[simp] theorem State.askWalk_cruns (s : State) (rq : Requester) (sp : BitVec 16) (dva : Nat) (w x : Bool) : (s.askWalk rq sp dva w x).cruns = s.cruns := rfl
@[simp] theorem State.askWalk_media (s : State) (rq : Requester) (sp : BitVec 16) (dva : Nat) (w x : Bool) : (s.askWalk rq sp dva w x).media = s.media := rfl
@[simp] theorem State.askWalk_vde (s : State) (rq : Requester) (sp : BitVec 16) (dva : Nat) (w x : Bool) : (s.askWalk rq sp dva w x).vde = s.vde := rfl
@[simp] theorem State.askWalk_drives (s : State) (rq : Requester) (sp : BitVec 16) (dva : Nat) (w x : Bool) : (s.askWalk rq sp dva w x).drives = s.drives := rfl
@[simp] theorem State.askWalk_doorbells (s : State) (rq : Requester) (sp : BitVec 16) (dva : Nat) (w x : Bool) : (s.askWalk rq sp dva w x).doorbells = s.doorbells := rfl
@[simp] theorem State.askWalk_cxlDown (s : State) (rq : Requester) (sp : BitVec 16) (dva : Nat) (w x : Bool) : (s.askWalk rq sp dva w x).cxlDown = s.cxlDown := rfl
@[simp] theorem State.askWalk_px (s : State) (rq : Requester) (sp : BitVec 16) (dva : Nat) (w x : Bool) : (s.askWalk rq sp dva w x).px = s.px := rfl
@[simp] theorem State.askWalk_pxq (s : State) (rq : Requester) (sp : BitVec 16) (dva : Nat) (w x : Bool) : (s.askWalk rq sp dva w x).pxq = s.pxq := rfl
@[simp] theorem State.askWalk_pxNext (s : State) (rq : Requester) (sp : BitVec 16) (dva : Nat) (w x : Bool) : (s.askWalk rq sp dva w x).pxNext = s.pxNext := rfl
@[simp] theorem State.askWalk_wd (s : State) (rq : Requester) (sp : BitVec 16) (dva : Nat) (w x : Bool) : (s.askWalk rq sp dva w x).wd = s.wd := rfl
@[simp] theorem State.askWalk_tasks (s : State) (rq : Requester) (sp : BitVec 16) (dva : Nat) (w x : Bool) : (s.askWalk rq sp dva w x).tasks = s.tasks := rfl
@[simp] theorem State.askWalk_swaps (s : State) (rq : Requester) (sp : BitVec 16) (dva : Nat) (w x : Bool) : (s.askWalk rq sp dva w x).swaps = s.swaps := rfl
@[simp] theorem State.askWalk_hold (s : State) (rq : Requester) (sp : BitVec 16) (dva : Nat) (w x : Bool) : (s.askWalk rq sp dva w x).hold = s.hold := rfl
@[simp] theorem State.askWalk_quantum (s : State) (rq : Requester) (sp : BitVec 16) (dva : Nat) (w x : Bool) : (s.askWalk rq sp dva w x).quantum = s.quantum := rfl
@[simp] theorem State.askWalk_bars (s : State) (rq : Requester) (sp : BitVec 16) (dva : Nat) (w x : Bool) : (s.askWalk rq sp dva w x).bars = s.bars := rfl
@[simp] theorem State.askWalk_groups (s : State) (rq : Requester) (sp : BitVec 16) (dva : Nat) (w x : Bool) : (s.askWalk rq sp dva w x).groups = s.groups := rfl
@[simp] theorem State.askWalk_merges (s : State) (rq : Requester) (sp : BitVec 16) (dva : Nat) (w x : Bool) : (s.askWalk rq sp dva w x).merges = s.merges := rfl
@[simp] theorem State.askWalk_oarov (s : State) (rq : Requester) (sp : BitVec 16) (dva : Nat) (w x : Bool) : (s.askWalk rq sp dva w x).oarov = s.oarov := rfl
@[simp] theorem State.askWalk_thermo (s : State) (rq : Requester) (sp : BitVec 16) (dva : Nat) (w x : Bool) : (s.askWalk rq sp dva w x).thermo = s.thermo := rfl
@[simp] theorem State.askWalk_mgmtOut (s : State) (rq : Requester) (sp : BitVec 16) (dva : Nat) (w x : Bool) : (s.askWalk rq sp dva w x).mgmtOut = s.mgmtOut := rfl
@[simp] theorem State.askWalk_freeze (s : State) (rq : Requester) (sp : BitVec 16) (dva : Nat) (w x : Bool) : (s.askWalk rq sp dva w x).freeze = s.freeze := rfl
@[simp] theorem State.askWalk_irq (s : State) (rq : Requester) (sp : BitVec 16) (dva : Nat) (w x : Bool) : (s.askWalk rq sp dva w x).irq = s.irq := rfl
@[simp] theorem State.askWalk_sysRead (s : State) (rq : Requester) (sp : BitVec 16) (dva : Nat) (w x : Bool) : (s.askWalk rq sp dva w x).sysRead = s.sysRead := rfl
@[simp] theorem State.askWalk_eccCount (s : State) (rq : Requester) (sp : BitVec 16) (dva : Nat) (w x : Bool) : (s.askWalk rq sp dva w x).eccCount = s.eccCount := rfl

@[simp] theorem State.endWalk_sched (s : State) (rq : Requester) : (s.endWalk rq).sched = s.sched := rfl
@[simp] theorem State.endWalk_iss (s : State) (rq : Requester) : (s.endWalk rq).iss = s.iss := rfl
@[simp] theorem State.endWalk_fresh (s : State) (rq : Requester) : (s.endWalk rq).fresh = s.fresh := rfl
@[simp] theorem State.endWalk_ids (s : State) (rq : Requester) : (s.endWalk rq).ids = s.ids := rfl
@[simp] theorem State.endWalk_tick (s : State) (rq : Requester) : (s.endWalk rq).tick = s.tick := rfl
@[simp] theorem State.endWalk_cores (s : State) (rq : Requester) : (s.endWalk rq).cores = s.cores := rfl
@[simp] theorem State.endWalk_mem (s : State) (rq : Requester) : (s.endWalk rq).mem = s.mem := rfl
@[simp] theorem State.endWalk_sptbase (s : State) (rq : Requester) : (s.endWalk rq).sptbase = s.sptbase := rfl
@[simp] theorem State.endWalk_spgen (s : State) (rq : Requester) : (s.endWalk rq).spgen = s.spgen := rfl
@[simp] theorem State.endWalk_objCache (s : State) (rq : Requester) : (s.endWalk rq).objCache = s.objCache := rfl
@[simp] theorem State.endWalk_tlb (s : State) (rq : Requester) : (s.endWalk rq).tlb = s.tlb := rfl
@[simp] theorem State.endWalk_walkCache (s : State) (rq : Requester) : (s.endWalk rq).walkCache = s.walkCache := rfl
@[simp] theorem State.endWalk_spaceCache (s : State) (rq : Requester) : (s.endWalk rq).spaceCache = s.spaceCache := rfl
@[simp] theorem State.endWalk_outFaults (s : State) (rq : Requester) : (s.endWalk rq).outFaults = s.outFaults := rfl
@[simp] theorem State.endWalk_engWaits (s : State) (rq : Requester) : (s.endWalk rq).engWaits = s.engWaits := rfl
@[simp] theorem State.endWalk_nextFault (s : State) (rq : Requester) : (s.endWalk rq).nextFault = s.nextFault := rfl
@[simp] theorem State.endWalk_faultWait (s : State) (rq : Requester) : (s.endWalk rq).faultWait = s.faultWait := rfl
@[simp] theorem State.endWalk_compWait (s : State) (rq : Requester) : (s.endWalk rq).compWait = s.compWait := rfl
@[simp] theorem State.endWalk_lq (s : State) (rq : Requester) : (s.endWalk rq).lq = s.lq := rfl
@[simp] theorem State.endWalk_cq (s : State) (rq : Requester) : (s.endWalk rq).cq = s.cq := rfl
@[simp] theorem State.endWalk_fq (s : State) (rq : Requester) : (s.endWalk rq).fq = s.fq := rfl
@[simp] theorem State.endWalk_so (s : State) (rq : Requester) : (s.endWalk rq).so = s.so := rfl
@[simp] theorem State.endWalk_ch (s : State) (rq : Requester) : (s.endWalk rq).ch = s.ch := rfl
@[simp] theorem State.endWalk_keys (s : State) (rq : Requester) : (s.endWalk rq).keys = s.keys := rfl
@[simp] theorem State.endWalk_tiers (s : State) (rq : Requester) : (s.endWalk rq).tiers = s.tiers := rfl
@[simp] theorem State.endWalk_links (s : State) (rq : Requester) : (s.endWalk rq).links = s.links := rfl
@[simp] theorem State.endWalk_routes (s : State) (rq : Requester) : (s.endWalk rq).routes = s.routes := rfl
@[simp] theorem State.endWalk_modnum (s : State) (rq : Requester) : (s.endWalk rq).modnum = s.modnum := rfl
@[simp] theorem State.endWalk_inbox (s : State) (rq : Requester) : (s.endWalk rq).inbox = s.inbox := rfl
@[simp] theorem State.endWalk_cgroups (s : State) (rq : Requester) : (s.endWalk rq).cgroups = s.cgroups := rfl
@[simp] theorem State.endWalk_cruns (s : State) (rq : Requester) : (s.endWalk rq).cruns = s.cruns := rfl
@[simp] theorem State.endWalk_media (s : State) (rq : Requester) : (s.endWalk rq).media = s.media := rfl
@[simp] theorem State.endWalk_vde (s : State) (rq : Requester) : (s.endWalk rq).vde = s.vde := rfl
@[simp] theorem State.endWalk_drives (s : State) (rq : Requester) : (s.endWalk rq).drives = s.drives := rfl
@[simp] theorem State.endWalk_doorbells (s : State) (rq : Requester) : (s.endWalk rq).doorbells = s.doorbells := rfl
@[simp] theorem State.endWalk_cxlDown (s : State) (rq : Requester) : (s.endWalk rq).cxlDown = s.cxlDown := rfl
@[simp] theorem State.endWalk_px (s : State) (rq : Requester) : (s.endWalk rq).px = s.px := rfl
@[simp] theorem State.endWalk_pxq (s : State) (rq : Requester) : (s.endWalk rq).pxq = s.pxq := rfl
@[simp] theorem State.endWalk_pxNext (s : State) (rq : Requester) : (s.endWalk rq).pxNext = s.pxNext := rfl
@[simp] theorem State.endWalk_wd (s : State) (rq : Requester) : (s.endWalk rq).wd = s.wd := rfl
@[simp] theorem State.endWalk_tasks (s : State) (rq : Requester) : (s.endWalk rq).tasks = s.tasks := rfl
@[simp] theorem State.endWalk_swaps (s : State) (rq : Requester) : (s.endWalk rq).swaps = s.swaps := rfl
@[simp] theorem State.endWalk_hold (s : State) (rq : Requester) : (s.endWalk rq).hold = s.hold := rfl
@[simp] theorem State.endWalk_quantum (s : State) (rq : Requester) : (s.endWalk rq).quantum = s.quantum := rfl
@[simp] theorem State.endWalk_bars (s : State) (rq : Requester) : (s.endWalk rq).bars = s.bars := rfl
@[simp] theorem State.endWalk_groups (s : State) (rq : Requester) : (s.endWalk rq).groups = s.groups := rfl
@[simp] theorem State.endWalk_merges (s : State) (rq : Requester) : (s.endWalk rq).merges = s.merges := rfl
@[simp] theorem State.endWalk_oarov (s : State) (rq : Requester) : (s.endWalk rq).oarov = s.oarov := rfl
@[simp] theorem State.endWalk_thermo (s : State) (rq : Requester) : (s.endWalk rq).thermo = s.thermo := rfl
@[simp] theorem State.endWalk_mgmtOut (s : State) (rq : Requester) : (s.endWalk rq).mgmtOut = s.mgmtOut := rfl
@[simp] theorem State.endWalk_freeze (s : State) (rq : Requester) : (s.endWalk rq).freeze = s.freeze := rfl
@[simp] theorem State.endWalk_irq (s : State) (rq : Requester) : (s.endWalk rq).irq = s.irq := rfl
@[simp] theorem State.endWalk_sysRead (s : State) (rq : Requester) : (s.endWalk rq).sysRead = s.sysRead := rfl
@[simp] theorem State.endWalk_eccCount (s : State) (rq : Requester) : (s.endWalk rq).eccCount = s.eccCount := rfl

@[simp] theorem State.tickOn_iss (s : State) : (s.tickOn).iss = s.iss := rfl
@[simp] theorem State.tickOn_fresh (s : State) : (s.tickOn).fresh = s.fresh := rfl
@[simp] theorem State.tickOn_ids (s : State) : (s.tickOn).ids = s.ids := rfl
@[simp] theorem State.tickOn_cores (s : State) : (s.tickOn).cores = s.cores := rfl
@[simp] theorem State.tickOn_mem (s : State) : (s.tickOn).mem = s.mem := rfl
@[simp] theorem State.tickOn_sptbase (s : State) : (s.tickOn).sptbase = s.sptbase := rfl
@[simp] theorem State.tickOn_spgen (s : State) : (s.tickOn).spgen = s.spgen := rfl
@[simp] theorem State.tickOn_objCache (s : State) : (s.tickOn).objCache = s.objCache := rfl
@[simp] theorem State.tickOn_tlb (s : State) : (s.tickOn).tlb = s.tlb := rfl
@[simp] theorem State.tickOn_walkCache (s : State) : (s.tickOn).walkCache = s.walkCache := rfl
@[simp] theorem State.tickOn_spaceCache (s : State) : (s.tickOn).spaceCache = s.spaceCache := rfl
@[simp] theorem State.tickOn_walks (s : State) : (s.tickOn).walks = s.walks := rfl
@[simp] theorem State.tickOn_outFaults (s : State) : (s.tickOn).outFaults = s.outFaults := rfl
@[simp] theorem State.tickOn_engWaits (s : State) : (s.tickOn).engWaits = s.engWaits := rfl
@[simp] theorem State.tickOn_nextFault (s : State) : (s.tickOn).nextFault = s.nextFault := rfl
@[simp] theorem State.tickOn_faultWait (s : State) : (s.tickOn).faultWait = s.faultWait := rfl
@[simp] theorem State.tickOn_compWait (s : State) : (s.tickOn).compWait = s.compWait := rfl
@[simp] theorem State.tickOn_lq (s : State) : (s.tickOn).lq = s.lq := rfl
@[simp] theorem State.tickOn_cq (s : State) : (s.tickOn).cq = s.cq := rfl
@[simp] theorem State.tickOn_fq (s : State) : (s.tickOn).fq = s.fq := rfl
@[simp] theorem State.tickOn_so (s : State) : (s.tickOn).so = s.so := rfl
@[simp] theorem State.tickOn_ch (s : State) : (s.tickOn).ch = s.ch := rfl
@[simp] theorem State.tickOn_keys (s : State) : (s.tickOn).keys = s.keys := rfl
@[simp] theorem State.tickOn_tiers (s : State) : (s.tickOn).tiers = s.tiers := rfl
@[simp] theorem State.tickOn_links (s : State) : (s.tickOn).links = s.links := rfl
@[simp] theorem State.tickOn_routes (s : State) : (s.tickOn).routes = s.routes := rfl
@[simp] theorem State.tickOn_modnum (s : State) : (s.tickOn).modnum = s.modnum := rfl
@[simp] theorem State.tickOn_inbox (s : State) : (s.tickOn).inbox = s.inbox := rfl
@[simp] theorem State.tickOn_cgroups (s : State) : (s.tickOn).cgroups = s.cgroups := rfl
@[simp] theorem State.tickOn_cruns (s : State) : (s.tickOn).cruns = s.cruns := rfl
@[simp] theorem State.tickOn_media (s : State) : (s.tickOn).media = s.media := rfl
@[simp] theorem State.tickOn_vde (s : State) : (s.tickOn).vde = s.vde := rfl
@[simp] theorem State.tickOn_drives (s : State) : (s.tickOn).drives = s.drives := rfl
@[simp] theorem State.tickOn_doorbells (s : State) : (s.tickOn).doorbells = s.doorbells := rfl
@[simp] theorem State.tickOn_cxlDown (s : State) : (s.tickOn).cxlDown = s.cxlDown := rfl
@[simp] theorem State.tickOn_px (s : State) : (s.tickOn).px = s.px := rfl
@[simp] theorem State.tickOn_pxq (s : State) : (s.tickOn).pxq = s.pxq := rfl
@[simp] theorem State.tickOn_pxNext (s : State) : (s.tickOn).pxNext = s.pxNext := rfl
@[simp] theorem State.tickOn_wd (s : State) : (s.tickOn).wd = s.wd := rfl
@[simp] theorem State.tickOn_tasks (s : State) : (s.tickOn).tasks = s.tasks := rfl
@[simp] theorem State.tickOn_swaps (s : State) : (s.tickOn).swaps = s.swaps := rfl
@[simp] theorem State.tickOn_hold (s : State) : (s.tickOn).hold = s.hold := rfl
@[simp] theorem State.tickOn_quantum (s : State) : (s.tickOn).quantum = s.quantum := rfl
@[simp] theorem State.tickOn_bars (s : State) : (s.tickOn).bars = s.bars := rfl
@[simp] theorem State.tickOn_groups (s : State) : (s.tickOn).groups = s.groups := rfl
@[simp] theorem State.tickOn_merges (s : State) : (s.tickOn).merges = s.merges := rfl
@[simp] theorem State.tickOn_oarov (s : State) : (s.tickOn).oarov = s.oarov := rfl
@[simp] theorem State.tickOn_thermo (s : State) : (s.tickOn).thermo = s.thermo := rfl
@[simp] theorem State.tickOn_mgmtOut (s : State) : (s.tickOn).mgmtOut = s.mgmtOut := rfl
@[simp] theorem State.tickOn_freeze (s : State) : (s.tickOn).freeze = s.freeze := rfl
@[simp] theorem State.tickOn_irq (s : State) : (s.tickOn).irq = s.irq := rfl
@[simp] theorem State.tickOn_sysRead (s : State) : (s.tickOn).sysRead = s.sysRead := rfl
@[simp] theorem State.tickOn_eccCount (s : State) : (s.tickOn).eccCount = s.eccCount := rfl

@[simp] theorem State.setCore_cores (s : State) (n : Nat) (c : Core) :
    (s.setCore n c).cores = SMap.set Core.init s.cores n c := rfl
@[simp] theorem State.setVerdict_iss (s : State) (v : Verdict) : (s.setVerdict v).iss = { s.iss with verdict := v } := rfl
@[simp] theorem State.transfer_iss (s : State) (p : Pc) : (s.transfer p).iss = { s.iss with next := some p } := rfl
@[simp] theorem State.raise_irq (s : State) (n : Nat) : (s.raise n).irq = SMap.set false s.irq n true := rfl
@[simp] theorem State.send_inbox (s : State) (m : Msg) : (s.send m).inbox = s.inbox ++ [m] := rfl
@[simp] theorem State.reply_mgmtOut (s : State) (r : MgmtReply) : (s.reply r).mgmtOut = s.mgmtOut ++ [r] := rfl
@[simp] theorem State.setLink_links (s : State) (l : Nat) (k : Link) :
    (s.setLink l k).links = SMap.set Link.init s.links l k := rfl
@[simp] theorem State.ringBell_doorbells (s : State) (d : Drive) (addr : Word) (v : Nat) :
    (s.ringBell d addr v).doorbells = s.doorbells ++ [⟨d.port, addr, BitVec.ofNat 32 v⟩] := rfl
@[simp] theorem State.tickOn_sched (s : State) : s.tickOn.sched = s.sched.tail := rfl

end Sys2Proof.Machine
end

