-- ==== Sys2Proof/Laws/Core.lean ====
section
/-!
SUPPORT. Reading after writing for cores, contexts and registers (R187), and what taking an exception, returning from one
and a landing result can do (R183, R290, R292).
-/

set_option Elab.async false

namespace Sys2Proof.Machine

@[simp] theorem State.core_setCore_same (s : State) (n : Nat) (c : Core) : (s.setCore n c).core n = c :=
  SMap.get_set_same ..
theorem State.core_setCore_other (s : State) {n m : Nat} (c : Core) (h : m ≠ n) : (s.setCore n c).core m = s.core m :=
  SMap.get_set_other _ _ _ h
@[simp] theorem State.core_modCore_same (s : State) (n : Nat) (f : Core → Core) : (s.modCore n f).core n = f (s.core n) :=
  State.core_setCore_same ..
theorem State.core_modCore_other (s : State) {n m : Nat} (f : Core → Core) (h : m ≠ n) :
    (s.modCore n f).core m = s.core m := State.core_setCore_other _ _ h
@[simp] theorem Core.ctx_setCtx_same (c : Core) (k : Nat) (x : Ctx) : (c.setCtx k x).ctx k = x := SMap.get_set_same ..
theorem Core.ctx_setCtx_other (c : Core) {k j : Nat} (x : Ctx) (h : j ≠ k) : (c.setCtx k x).ctx j = c.ctx j :=
  SMap.get_set_other _ _ _ h
@[simp] theorem State.ctx_modCtx_same (s : State) (n k : Nat) (f : Ctx → Ctx) : (s.modCtx n k f).ctx n k = f (s.ctx n k) := by
  simp [State.modCtx, State.setCtx, State.ctx]
theorem State.ctx_modCtx_other (s : State) {n k j : Nat} (f : Ctx → Ctx) (h : j ≠ k) :
    (s.modCtx n k f).ctx n j = s.ctx n j := by
  simp [State.modCtx, State.setCtx, State.ctx, Core.ctx_setCtx_other _ _ h]
theorem State.core_modCtx_other (s : State) {n m k : Nat} (f : Ctx → Ctx) (h : m ≠ n) :
    (s.modCtx n k f).core m = s.core m := State.core_setCore_other _ _ h

/-- Registers read back what was written, and s0 and p0 their constants (R187). -/
theorem Ctx.sReg_zero (x : Ctx) : x.sReg 0 = 0 := rfl
theorem Ctx.pReg_zero (x : Ctx) : x.pReg 0 = true := rfl
theorem Ctx.sReg_setS (x : Ctx) (n m : Nat) (v : Word) :
    (x.setS n v).sReg m = if m = 0 then 0 else if m = n then v else x.sReg m := by
  by_cases hm : m = 0 <;> by_cases hn : n = 0 <;> simp_all [Ctx.setS, Ctx.sReg, SMap.get_set]
theorem Ctx.pReg_setP (x : Ctx) (n m : Nat) (v : Bool) :
    (x.setP n v).pReg m = if m = 0 then true else if m = n then v else x.pReg m := by
  by_cases hm : m = 0 <;> by_cases hn : n = 0 <;> simp_all [Ctx.setP, Ctx.pReg, SMap.get_set]
theorem Ctx.aReg_setA (x : Ctx) (n m : Nat) (v : Cap) : (x.setA n v).aReg m = if m = n then v else x.aReg m :=
  SMap.get_set ..
theorem Ctx.vReg_setV (x : Ctx) (n m : Nat) (v : Row) : (x.setV n v).vReg m = if m = n then v else x.vReg m :=
  SMap.get_set ..
theorem Ctx.xReg_setX (x : Ctx) (n m : Nat) (v : BitVec 32) : (x.setX n v).xReg m = if m = n then v else x.xReg m :=
  SMap.get_set ..
theorem Ctx.tReg_setT (x : Ctx) (n m : Nat) (v : TileReg) : (x.setT n v).tReg m = if m = n then v else x.tReg m :=
  SMap.get_set ..
theorem Ctx.dReg_setD (x : Ctx) (n m : Nat) (v : BitVec 24) : (x.setD n v).dReg m = if m = n then v else x.dReg m :=
  SMap.get_set ..
theorem Ctx.mReg_setM (x : Ctx) (n m : Nat) (v : Quad) : (x.setM n v).mReg m = if m = n then v else x.mReg m :=
  SMap.get_set ..

/-- A detached context keeps its registers and everything but its results in flight and pending latches (R184, R186). -/
theorem Core.detach_ctx (c : Core) (k : Nat) : (c.detach k).ctx k = { c.ctx k with
    flight := ((c.ctx k).flight.filter (fun r => r.w)).map (fun r =>
      { r with latch := false, det := r.det || r.replay })
    pend := ((c.ctx k).pend.map (fun p => { p with latch := false })).filter (fun p => p.w || p.rows ≠ []) } := by
  simp [Core.detach, Core.ctx, Core.setCtx, SMap.get_set_same]
theorem Core.detach_other (c : Core) {k j : Nat} (h : j ≠ k) : (c.detach k).ctx j = c.ctx j := by
  simp [Core.detach, Core.ctx, Core.setCtx, SMap.get_set_other _ _ _ h]

/-- Taking an exception below level 2, with a vector or for TRANSLATION, changes one core alone, beside what lands
there first. -/
theorem State.takeTrap_eq (s : State) (ci k : Nat) (c : Cause) (v : Word) (m : BitVec 8) (rc : List PortEntry)
    (hn : ((s.land ci).ctx ci k).sr.xlvl.toNat + 1 ≠ 3)
    (hv : c = .translation ∨
      (((s.land ci).ctx ci k).sr.bank (((s.land ci).ctx ci k).sr.xlvl.toNat + 1)).vec.getLsbD 11 = true) :
    ∃ f, s.takeTrap ci k c v m rc = (s.land ci).modCore ci f := by
  unfold State.takeTrap
  dsimp only
  rw [if_neg hn, if_neg]
  · exact ⟨_, rfl⟩
  · rcases hv with rfl | hv <;> simp [*]

end Sys2Proof.Machine
end

