-- ==== Sys2Proof/Laws/Memory.lean ====
section
/-!
SUPPORT. What the operations on memory do: each keeps the canonical form, and a write leaves every other byte alone.
-/

set_option Elab.async false

namespace Sys2Proof.Machine

theorem Memory.wf_iff (m : Memory) : m.wf = true ↔
    SMap.wf freshByte m.bytes = true ∧ SMap.wf false m.tags = true ∧ SMap.wf false m.poison = true ∧
      SMap.wf none m.lineKey = true ∧ SMap.wf (0, 0) m.ts = true := by
  simp only [Memory.wf, Bool.and_eq_true, and_assoc]

theorem reset_mem_wf : State.reset.mem.wf = true := by decide

theorem State.rekey_wf (s : State) (key : BitVec 9) (line : Nat) (h : s.mem.wf = true) : (s.rekey key line).mem.wf = true := by
  rw [Memory.wf_iff] at h
  unfold State.rekey
  split
  · rwa [Memory.wf_iff]
  · rw [Memory.wf_iff]
    exact ⟨SMap.wf_setAll _ _ h.1, h.2.1, h.2.2.1, SMap.wf_set _ line (some key) h.2.2.2.1, h.2.2.2.2⟩

theorem State.rekeyAll_wf (key : BitVec 9) (ls : List Nat) (s : State) (h : s.mem.wf = true) :
    (ls.foldl (fun s l => s.rekey key l) s).mem.wf = true := by
  induction ls generalizing s with
  | nil => exact h
  | cons l t ih => exact ih _ (s.rekey_wf key l h)

theorem State.memWriteEn_wf (s : State) (key : BitVec 9) (pa : Nat) (bs : List Byte) (en : Nat → Bool) (tag : Bool)
    (h : s.mem.wf = true) : (s.memWriteEn key pa bs en tag).mem.wf = true := by
  unfold State.memWriteEn
  split
  · exact h
  · have hk := State.rekeyAll_wf key (runsOf ((written pa bs en).map (· / 64))) s h
    rw [Memory.wf_iff] at hk ⊢
    exact ⟨SMap.wf_setAll _ _ hk.1, SMap.wf_setAll _ _ hk.2.1, SMap.wf_setAll _ _ hk.2.2.1, hk.2.2.2.1, hk.2.2.2.2⟩

theorem State.memWrite_wf (s : State) (key : BitVec 9) (pa : Nat) (bs : List Byte) (h : s.mem.wf = true) :
    (s.memWrite key pa bs).mem.wf = true := s.memWriteEn_wf key pa bs _ _ h

theorem Memory.loadAt_wf (m : Memory) (pts line : Nat) (h : m.wf = true) : (m.loadAt pts line).1.wf = true := by
  rw [Memory.wf_iff] at h ⊢
  exact ⟨h.1, h.2.1, h.2.2.1, h.2.2.2.1, SMap.wf_set _ _ _ h.2.2.2.2⟩

theorem Memory.storeAt_wf (m : Memory) (pts line : Nat) (h : m.wf = true) : (m.storeAt pts line).1.wf = true := by
  rw [Memory.wf_iff] at h ⊢
  exact ⟨h.1, h.2.1, h.2.2.1, h.2.2.2.1, SMap.wf_set _ _ _ h.2.2.2.2⟩

theorem Memory.atomicAt_wf (m : Memory) (pts line : Nat) (h : m.wf = true) : (m.atomicAt pts line).1.wf = true := by
  rw [Memory.wf_iff] at h ⊢
  exact ⟨h.1, h.2.1, h.2.2.1, h.2.2.2.1, SMap.wf_set _ _ _ h.2.2.2.2⟩

theorem Memory.stampAll_wf (step : Memory → Nat → Nat → Memory × Nat)
    (hs : ∀ m p l, Memory.wf m = true → (step m p l).1.wf = true) (ls : List Nat) (m : Memory) (pts : Nat)
    (h : m.wf = true) : (m.stampAll step pts ls).1.wf = true := by
  unfold Memory.stampAll
  induction ls generalizing m pts with
  | nil => exact h
  | cons l t ih => exact ih _ _ (hs _ _ _ h)

theorem State.memPut_wf (s : State) (key : BitVec 9) (pa : Nat) (bs : List Byte) (h : s.mem.wf = true) :
    (s.memPut key pa bs).mem.wf = true :=
  Memory.stampAll_wf _ Memory.storeAt_wf _ _ _ (s.memWrite_wf key pa bs h)

/-- A stamp leaves what memory holds alone. -/
theorem Memory.stampAll_bytes (step : Memory → Nat → Nat → Memory × Nat)
    (hs : ∀ m p l, (step m p l).1.bytes = m.bytes) (ls : List Nat) (m : Memory) (pts : Nat) :
    (m.stampAll step pts ls).1.bytes = m.bytes := by
  unfold Memory.stampAll
  induction ls generalizing m pts with
  | nil => rfl
  | cons l t ih => exact (ih _ _).trans (hs _ _ _)
theorem State.memPut_byte (s : State) (key : BitVec 9) (pa : Nat) (bs : List Byte) (a : Nat) :
    (s.memPut key pa bs).mem.byte a = (s.memWrite key pa bs).mem.byte a := by
  unfold Memory.byte State.memPut
  rw [show ∀ (m : Memory) (b : Memory × Nat), b.1.bytes = m.bytes → ({ s.memWrite key pa bs with mem := b.1 } : State).mem.bytes = m.bytes from
    fun _ _ h => h]
  exact Memory.stampAll_bytes _ (fun _ _ _ => rfl) _ _ _

/-- A byte under a key index that no line changes, outside what a write covers, is as before. -/
theorem State.memWriteEn_byte (s : State) (key : BitVec 9) (pa : Nat) (bs : List Byte) (en : Nat → Bool) (tag : Bool)
    (hk : ∀ l, s.mem.key l = some key) (a : Nat) (ha : a ∉ written pa bs en) :
    (s.memWriteEn key pa bs en tag).mem.byte a = s.mem.byte a := by
  have hr : ∀ (ls : List Nat), ls.foldl (fun (s : State) l => s.rekey key l) s = s := by
    intro ls
    induction ls with
    | nil => rfl
    | cons l t ih =>
      have h1 : s.rekey key l = s := if_pos (hk l)
      simpa [List.foldl, h1] using ih
  unfold State.memWriteEn
  split
  · rfl
  · simp only [hr, Memory.byte]
    apply SMap.get_setAll_other
    intro w hw
    simp only [List.mem_map] at hw
    obtain ⟨b, hb, rfl⟩ := hw
    exact fun e => ha (e ▸ hb)

end Sys2Proof.Machine
end

