-- ==== Sys2Proof/Laws/PerInstr.lean ====
section
/-!
SUPPORT. Facts made for each instruction by itself. The family RoundTrip says that the decoder reads a
well-formed instruction's own word back.
-/

set_option Elab.async false

namespace Sys2Proof.Laws

/-- The decoder reads a well-formed instruction's own word back. -/
def RoundTrip.Statement (i : Instr) : Prop :=
  ∀ k w, encodeWord i = some (k, w) → i.wellFormed = true → decodeSlot k w = .ok i

/-- A concatenation as a number. -/
theorem append_toNat {n m : Nat} (x : BitVec n) (y : BitVec m) : (x ++ y).toNat = x.toNat * 2 ^ m + y.toNat := by
  rw [BitVec.toNat_append, ← Nat.shiftLeft_add_eq_or_of_lt y.isLt, Nat.shiftLeft_eq]

theorem mkHd_toNat (o : BitVec 8) (h : Hd) : (mkHd o h).toNat =
    o.toNat * 512 + h.fmt.toNat * 32 + h.w.toNat * 16 + h.pred.toNat * 2 + h.pn.toNat := by
  unfold mkHd
  simp only [append_toNat, BitVec.toNat_ofBool]
  omega

theorem ofBool_lt (b : Bool) : b.toNat < 2 := by cases b <;> decide

theorem bit_eq (n i : Nat) (b : Bool) (h : n / 2 ^ i % 2 = b.toNat) : n.testBit i = b := by
  rw [Nat.testBit_eq_decide_div_mod_eq, h]
  cases b <;> decide

theorem mkR_toNat (o : BitVec 8) (h : Hd) (f : RFmt) : (mkR o h f).toNat = o.toNat * 72057594037927936 +
    h.fmt.toNat * 4503599627370496 + h.w.toNat * 2251799813685248 + h.pred.toNat * 281474976710656 + h.pn.toNat * 140737488355328 +
    (f.dst.toNat * 274877906944 + f.sa.toNat * 536870912 + f.sb.toNat * 1048576 + f.sc.toNat * 2048 + f.imm.toNat) := by
  unfold mkR
  refine (append_toNat _ _).trans ?_
  simp only [append_toNat, mkHd_toNat]
  omega
theorem opOf_mkR (o : BitVec 8) (h : Hd) (f : RFmt) : opOf (mkR o h f) = o := by
  apply BitVec.eq_of_toNat_eq
  have := ofBool_lt h.w
  have := ofBool_lt h.pn
  have := f.dst.isLt
  have := f.sa.isLt
  have := f.sb.isLt
  have := f.sc.isLt
  have := f.imm.isLt
  simp only [opOf, BitVec.extractLsb'_toNat, mkR_toNat, Nat.shiftRight_eq_div_pow]
  omega
theorem hdOf_mkR (o : BitVec 8) (h : Hd) (f : RFmt) : hdOf (mkR o h f) = h := by
  have := ofBool_lt h.w
  have := ofBool_lt h.pn
  have := f.dst.isLt
  have := f.sa.isLt
  have := f.sb.isLt
  have := f.sc.isLt
  have := f.imm.isLt
  have e : hdOf (mkR o h f) = ⟨h.fmt, h.w, h.pred, h.pn⟩ := by
    unfold hdOf
    congr 1
    · apply BitVec.eq_of_toNat_eq
      simp only [BitVec.extractLsb'_toNat, mkR_toNat, Nat.shiftRight_eq_div_pow]
      omega
    · apply bit_eq
      simp only [mkR_toNat]
      omega
    · apply BitVec.eq_of_toNat_eq
      simp only [BitVec.extractLsb'_toNat, mkR_toNat, Nat.shiftRight_eq_div_pow]
      omega
    · apply bit_eq
      simp only [mkR_toNat]
      omega
  exact e
theorem rOf_mkR (o : BitVec 8) (h : Hd) (f : RFmt) : rOf (mkR o h f) = f := by
  have := ofBool_lt h.w
  have := ofBool_lt h.pn
  have := f.dst.isLt
  have := f.sa.isLt
  have := f.sb.isLt
  have := f.sc.isLt
  have := f.imm.isLt
  have e : rOf (mkR o h f) = ⟨f.dst, f.sa, f.sb, f.sc, f.imm⟩ := by
    unfold rOf
    congr 1 <;>
    · apply BitVec.eq_of_toNat_eq
      simp only [BitVec.extractLsb'_toNat, mkR_toNat, Nat.shiftRight_eq_div_pow]
      omega
  exact e

theorem mkI_toNat (o : BitVec 8) (h : Hd) (f : IFmt) : (mkI o h f).toNat = o.toNat * 72057594037927936 +
    h.fmt.toNat * 4503599627370496 + h.w.toNat * 2251799813685248 + h.pred.toNat * 281474976710656 + h.pn.toNat * 140737488355328 +
    (f.dst.toNat * 274877906944 + f.sa.toNat * 536870912 + f.imm.toNat) := by
  unfold mkI
  refine (append_toNat _ _).trans ?_
  simp only [append_toNat, mkHd_toNat]
  omega
theorem opOf_mkI (o : BitVec 8) (h : Hd) (f : IFmt) : opOf (mkI o h f) = o := by
  apply BitVec.eq_of_toNat_eq
  have := ofBool_lt h.w
  have := ofBool_lt h.pn
  have := f.dst.isLt
  have := f.sa.isLt
  have := f.imm.isLt
  simp only [opOf, BitVec.extractLsb'_toNat, mkI_toNat, Nat.shiftRight_eq_div_pow]
  omega
theorem hdOf_mkI (o : BitVec 8) (h : Hd) (f : IFmt) : hdOf (mkI o h f) = h := by
  have := ofBool_lt h.w
  have := ofBool_lt h.pn
  have := f.dst.isLt
  have := f.sa.isLt
  have := f.imm.isLt
  have e : hdOf (mkI o h f) = ⟨h.fmt, h.w, h.pred, h.pn⟩ := by
    unfold hdOf
    congr 1
    · apply BitVec.eq_of_toNat_eq
      simp only [BitVec.extractLsb'_toNat, mkI_toNat, Nat.shiftRight_eq_div_pow]
      omega
    · apply bit_eq
      simp only [mkI_toNat]
      omega
    · apply BitVec.eq_of_toNat_eq
      simp only [BitVec.extractLsb'_toNat, mkI_toNat, Nat.shiftRight_eq_div_pow]
      omega
    · apply bit_eq
      simp only [mkI_toNat]
      omega
  exact e
theorem iOf_mkI (o : BitVec 8) (h : Hd) (f : IFmt) : iOf (mkI o h f) = f := by
  have := ofBool_lt h.w
  have := ofBool_lt h.pn
  have := f.dst.isLt
  have := f.sa.isLt
  have := f.imm.isLt
  have e : iOf (mkI o h f) = ⟨f.dst, f.sa, f.imm⟩ := by
    unfold iOf
    congr 1 <;>
    · apply BitVec.eq_of_toNat_eq
      simp only [BitVec.extractLsb'_toNat, mkI_toNat, Nat.shiftRight_eq_div_pow]
      omega
  exact e

theorem mkL_toNat (o : BitVec 8) (h : Hd) (f : LFmt) : (mkL o h f).toNat = o.toNat * 72057594037927936 +
    h.fmt.toNat * 4503599627370496 + h.w.toNat * 2251799813685248 + h.pred.toNat * 281474976710656 + h.pn.toNat * 140737488355328 +
    (f.dst.toNat * 274877906944 + f.imm.toNat) := by
  unfold mkL
  refine (append_toNat _ _).trans ?_
  simp only [append_toNat, mkHd_toNat]
  omega
theorem opOf_mkL (o : BitVec 8) (h : Hd) (f : LFmt) : opOf (mkL o h f) = o := by
  apply BitVec.eq_of_toNat_eq
  have := ofBool_lt h.w
  have := ofBool_lt h.pn
  have := f.dst.isLt
  have := f.imm.isLt
  simp only [opOf, BitVec.extractLsb'_toNat, mkL_toNat, Nat.shiftRight_eq_div_pow]
  omega
theorem hdOf_mkL (o : BitVec 8) (h : Hd) (f : LFmt) : hdOf (mkL o h f) = h := by
  have := ofBool_lt h.w
  have := ofBool_lt h.pn
  have := f.dst.isLt
  have := f.imm.isLt
  have e : hdOf (mkL o h f) = ⟨h.fmt, h.w, h.pred, h.pn⟩ := by
    unfold hdOf
    congr 1
    · apply BitVec.eq_of_toNat_eq
      simp only [BitVec.extractLsb'_toNat, mkL_toNat, Nat.shiftRight_eq_div_pow]
      omega
    · apply bit_eq
      simp only [mkL_toNat]
      omega
    · apply BitVec.eq_of_toNat_eq
      simp only [BitVec.extractLsb'_toNat, mkL_toNat, Nat.shiftRight_eq_div_pow]
      omega
    · apply bit_eq
      simp only [mkL_toNat]
      omega
  exact e
theorem lOf_mkL (o : BitVec 8) (h : Hd) (f : LFmt) : lOf (mkL o h f) = f := by
  have := ofBool_lt h.w
  have := ofBool_lt h.pn
  have := f.dst.isLt
  have := f.imm.isLt
  have e : lOf (mkL o h f) = ⟨f.dst, f.imm⟩ := by
    unfold lOf
    congr 1 <;>
    · apply BitVec.eq_of_toNat_eq
      simp only [BitVec.extractLsb'_toNat, mkL_toNat, Nat.shiftRight_eq_div_pow]
      omega
  exact e

theorem mkM_toNat (o : BitVec 8) (h : Hd) (f : MFmt) : (mkM o h f).toNat = o.toNat * 72057594037927936 +
    h.fmt.toNat * 4503599627370496 + h.w.toNat * 2251799813685248 + h.pred.toNat * 281474976710656 + h.pn.toNat * 140737488355328 +
    (f.dt.toNat * 274877906944 + f.ab.toNat * 536870912 + f.disp.toNat) := by
  unfold mkM
  refine (append_toNat _ _).trans ?_
  simp only [append_toNat, mkHd_toNat]
  omega
theorem opOf_mkM (o : BitVec 8) (h : Hd) (f : MFmt) : opOf (mkM o h f) = o := by
  apply BitVec.eq_of_toNat_eq
  have := ofBool_lt h.w
  have := ofBool_lt h.pn
  have := f.dt.isLt
  have := f.ab.isLt
  have := f.disp.isLt
  simp only [opOf, BitVec.extractLsb'_toNat, mkM_toNat, Nat.shiftRight_eq_div_pow]
  omega
theorem hdOf_mkM (o : BitVec 8) (h : Hd) (f : MFmt) : hdOf (mkM o h f) = h := by
  have := ofBool_lt h.w
  have := ofBool_lt h.pn
  have := f.dt.isLt
  have := f.ab.isLt
  have := f.disp.isLt
  have e : hdOf (mkM o h f) = ⟨h.fmt, h.w, h.pred, h.pn⟩ := by
    unfold hdOf
    congr 1
    · apply BitVec.eq_of_toNat_eq
      simp only [BitVec.extractLsb'_toNat, mkM_toNat, Nat.shiftRight_eq_div_pow]
      omega
    · apply bit_eq
      simp only [mkM_toNat]
      omega
    · apply BitVec.eq_of_toNat_eq
      simp only [BitVec.extractLsb'_toNat, mkM_toNat, Nat.shiftRight_eq_div_pow]
      omega
    · apply bit_eq
      simp only [mkM_toNat]
      omega
  exact e
theorem mOf_mkM (o : BitVec 8) (h : Hd) (f : MFmt) : mOf (mkM o h f) = f := by
  have := ofBool_lt h.w
  have := ofBool_lt h.pn
  have := f.dt.isLt
  have := f.ab.isLt
  have := f.disp.isLt
  have e : mOf (mkM o h f) = ⟨f.dt, f.ab, f.disp⟩ := by
    unfold mOf
    congr 1 <;>
    · apply BitVec.eq_of_toNat_eq
      simp only [BitVec.extractLsb'_toNat, mkM_toNat, Nat.shiftRight_eq_div_pow]
      omega
  exact e

theorem mkB_toNat (o : BitVec 8) (h : Hd) (f : BFmt) : (mkB o h f).toNat = o.toNat * 72057594037927936 +
    h.fmt.toNat * 4503599627370496 + h.w.toNat * 2251799813685248 + h.pred.toNat * 281474976710656 + h.pn.toNat * 140737488355328 +
    (f.dst.toNat * 274877906944 + f.sa.toNat * 536870912 + f.imm.toNat * 2048 + f.rsv.toNat * 1024 + f.tgt.toNat) := by
  unfold mkB
  refine (append_toNat _ _).trans ?_
  simp only [append_toNat, mkHd_toNat]
  omega
theorem opOf_mkB (o : BitVec 8) (h : Hd) (f : BFmt) : opOf (mkB o h f) = o := by
  apply BitVec.eq_of_toNat_eq
  have := ofBool_lt h.w
  have := ofBool_lt h.pn
  have := f.dst.isLt
  have := f.sa.isLt
  have := f.imm.isLt
  have := f.rsv.isLt
  have := f.tgt.isLt
  simp only [opOf, BitVec.extractLsb'_toNat, mkB_toNat, Nat.shiftRight_eq_div_pow]
  omega
theorem hdOf_mkB (o : BitVec 8) (h : Hd) (f : BFmt) : hdOf (mkB o h f) = h := by
  have := ofBool_lt h.w
  have := ofBool_lt h.pn
  have := f.dst.isLt
  have := f.sa.isLt
  have := f.imm.isLt
  have := f.rsv.isLt
  have := f.tgt.isLt
  have e : hdOf (mkB o h f) = ⟨h.fmt, h.w, h.pred, h.pn⟩ := by
    unfold hdOf
    congr 1
    · apply BitVec.eq_of_toNat_eq
      simp only [BitVec.extractLsb'_toNat, mkB_toNat, Nat.shiftRight_eq_div_pow]
      omega
    · apply bit_eq
      simp only [mkB_toNat]
      omega
    · apply BitVec.eq_of_toNat_eq
      simp only [BitVec.extractLsb'_toNat, mkB_toNat, Nat.shiftRight_eq_div_pow]
      omega
    · apply bit_eq
      simp only [mkB_toNat]
      omega
  exact e
theorem bOf_mkB (o : BitVec 8) (h : Hd) (f : BFmt) : bOf (mkB o h f) = f := by
  have := ofBool_lt h.w
  have := ofBool_lt h.pn
  have := f.dst.isLt
  have := f.sa.isLt
  have := f.imm.isLt
  have := f.rsv.isLt
  have := f.tgt.isLt
  have e : bOf (mkB o h f) = ⟨f.dst, f.sa, f.imm, f.rsv, f.tgt⟩ := by
    unfold bOf
    congr 1 <;>
    · apply BitVec.eq_of_toNat_eq
      simp only [BitVec.extractLsb'_toNat, mkB_toNat, Nat.shiftRight_eq_div_pow]
      omega
  exact e

theorem mkE_toNat (o : BitVec 8) (h : Hd) (f : EFmt) : (mkE o h f).toNat = o.toNat * 72057594037927936 +
    h.fmt.toNat * 4503599627370496 + h.w.toNat * 2251799813685248 + h.pred.toNat * 281474976710656 + h.pn.toNat * 140737488355328 +
    (f.dst.toNat * 274877906944 + f.sa.toNat * 536870912 + f.sb.toNat * 1048576 + f.sc.toNat * 2048 + f.flag.toNat * 64 + f.mod.toNat) := by
  unfold mkE
  refine (append_toNat _ _).trans ?_
  simp only [append_toNat, mkHd_toNat]
  omega
theorem opOf_mkE (o : BitVec 8) (h : Hd) (f : EFmt) : opOf (mkE o h f) = o := by
  apply BitVec.eq_of_toNat_eq
  have := ofBool_lt h.w
  have := ofBool_lt h.pn
  have := f.dst.isLt
  have := f.sa.isLt
  have := f.sb.isLt
  have := f.sc.isLt
  have := f.flag.isLt
  have := f.mod.isLt
  simp only [opOf, BitVec.extractLsb'_toNat, mkE_toNat, Nat.shiftRight_eq_div_pow]
  omega
theorem hdOf_mkE (o : BitVec 8) (h : Hd) (f : EFmt) : hdOf (mkE o h f) = h := by
  have := ofBool_lt h.w
  have := ofBool_lt h.pn
  have := f.dst.isLt
  have := f.sa.isLt
  have := f.sb.isLt
  have := f.sc.isLt
  have := f.flag.isLt
  have := f.mod.isLt
  have e : hdOf (mkE o h f) = ⟨h.fmt, h.w, h.pred, h.pn⟩ := by
    unfold hdOf
    congr 1
    · apply BitVec.eq_of_toNat_eq
      simp only [BitVec.extractLsb'_toNat, mkE_toNat, Nat.shiftRight_eq_div_pow]
      omega
    · apply bit_eq
      simp only [mkE_toNat]
      omega
    · apply BitVec.eq_of_toNat_eq
      simp only [BitVec.extractLsb'_toNat, mkE_toNat, Nat.shiftRight_eq_div_pow]
      omega
    · apply bit_eq
      simp only [mkE_toNat]
      omega
  exact e
theorem eOf_mkE (o : BitVec 8) (h : Hd) (f : EFmt) : eOf (mkE o h f) = f := by
  have := ofBool_lt h.w
  have := ofBool_lt h.pn
  have := f.dst.isLt
  have := f.sa.isLt
  have := f.sb.isLt
  have := f.sc.isLt
  have := f.flag.isLt
  have := f.mod.isLt
  have e : eOf (mkE o h f) = ⟨f.dst, f.sa, f.sb, f.sc, f.flag, f.mod⟩ := by
    unfold eOf
    congr 1 <;>
    · apply BitVec.eq_of_toNat_eq
      simp only [BitVec.extractLsb'_toNat, mkE_toNat, Nat.shiftRight_eq_div_pow]
      omega
  exact e

/-- Reading an opcode by its number in a slot's space. -/
def spaceOp (k : Slot) (op fmt : Nat) : Option Op :=
  match k with
  | .sc => scOp op fmt
  | .va | .vb => vOp op fmt
  | .mt => mtOp op fmt
  | .ld => ldOp op fmt
  | .st => stOp op fmt
  | .eg => egOp op fmt
  | .sy => syOp op fmt

theorem findOp_of (k : Slot) (w : Word) (o : Op) (h0 : opOf w ≠ 0)
    (h : spaceOp k (opOf w).toNat (hdOf w).fmt.toNat = some o) : findOp k w = .ok o := by
  unfold findOp
  rw [if_neg h0]
  unfold spaceOp at h
  cases k <;> simp only at h ⊢ <;> rw [h]

theorem decodeR (k : Slot) (o : Op) (h : Hd) (f : RFmt) (h0 : o.code ≠ 0)
    (hf : spaceOp k o.code.toNat h.fmt.toNat = some o) : decodeSlot k (mkR o.code h f) = .ok (Op.instr k (mkR o.code h f) o) := by
  have e : findOp k (mkR o.code h f) = .ok o := findOp_of k _ o (by rw [opOf_mkR]; exact h0) (by rw [opOf_mkR, hdOf_mkR]; exact hf)
  unfold decodeSlot
  rw [e]
  rfl
theorem decodeI (k : Slot) (o : Op) (h : Hd) (f : IFmt) (h0 : o.code ≠ 0)
    (hf : spaceOp k o.code.toNat h.fmt.toNat = some o) : decodeSlot k (mkI o.code h f) = .ok (Op.instr k (mkI o.code h f) o) := by
  have e : findOp k (mkI o.code h f) = .ok o := findOp_of k _ o (by rw [opOf_mkI]; exact h0) (by rw [opOf_mkI, hdOf_mkI]; exact hf)
  unfold decodeSlot
  rw [e]
  rfl
theorem decodeL (k : Slot) (o : Op) (h : Hd) (f : LFmt) (h0 : o.code ≠ 0)
    (hf : spaceOp k o.code.toNat h.fmt.toNat = some o) : decodeSlot k (mkL o.code h f) = .ok (Op.instr k (mkL o.code h f) o) := by
  have e : findOp k (mkL o.code h f) = .ok o := findOp_of k _ o (by rw [opOf_mkL]; exact h0) (by rw [opOf_mkL, hdOf_mkL]; exact hf)
  unfold decodeSlot
  rw [e]
  rfl
theorem decodeM (k : Slot) (o : Op) (h : Hd) (f : MFmt) (h0 : o.code ≠ 0)
    (hf : spaceOp k o.code.toNat h.fmt.toNat = some o) : decodeSlot k (mkM o.code h f) = .ok (Op.instr k (mkM o.code h f) o) := by
  have e : findOp k (mkM o.code h f) = .ok o := findOp_of k _ o (by rw [opOf_mkM]; exact h0) (by rw [opOf_mkM, hdOf_mkM]; exact hf)
  unfold decodeSlot
  rw [e]
  rfl
theorem decodeB (k : Slot) (o : Op) (h : Hd) (f : BFmt) (h0 : o.code ≠ 0)
    (hf : spaceOp k o.code.toNat h.fmt.toNat = some o) : decodeSlot k (mkB o.code h f) = .ok (Op.instr k (mkB o.code h f) o) := by
  have e : findOp k (mkB o.code h f) = .ok o := findOp_of k _ o (by rw [opOf_mkB]; exact h0) (by rw [opOf_mkB, hdOf_mkB]; exact hf)
  unfold decodeSlot
  rw [e]
  rfl
theorem decodeE (k : Slot) (o : Op) (h : Hd) (f : EFmt) (h0 : o.code ≠ 0)
    (hf : spaceOp k o.code.toNat h.fmt.toNat = some o) : decodeSlot k (mkE o.code h f) = .ok (Op.instr k (mkE o.code h f) o) := by
  have e : findOp k (mkE o.code h f) = .ok o := findOp_of k _ o (by rw [opOf_mkE]; exact h0) (by rw [opOf_mkE, hdOf_mkE]; exact hf)
  unfold decodeSlot
  rw [e]
  rfl

theorem RoundTrip.nop (k : Slot) : RoundTrip.Statement (.nop k) := by
  rintro k w ⟨⟩ _
  cases k <;> rfl
theorem RoundTrip.add (h : Hd) (f : RFmt) : RoundTrip.Statement (.add h f) := by
  rintro k w ⟨⟩ _
  exact (decodeR _ .add h f (by decide) rfl).trans (by simp only [Op.instr, hdOf_mkR, rOf_mkR]; try rfl)
theorem RoundTrip.sub (h : Hd) (f : RFmt) : RoundTrip.Statement (.sub h f) := by
  rintro k w ⟨⟩ _
  exact (decodeR _ .sub h f (by decide) rfl).trans (by simp only [Op.instr, hdOf_mkR, rOf_mkR]; try rfl)
theorem RoundTrip.mul (h : Hd) (f : RFmt) : RoundTrip.Statement (.mul h f) := by
  rintro k w ⟨⟩ _
  exact (decodeR _ .mul h f (by decide) rfl).trans (by simp only [Op.instr, hdOf_mkR, rOf_mkR]; try rfl)
theorem RoundTrip.mulh (h : Hd) (f : RFmt) : RoundTrip.Statement (.mulh h f) := by
  rintro k w ⟨⟩ _
  exact (decodeR _ .mulh h f (by decide) rfl).trans (by simp only [Op.instr, hdOf_mkR, rOf_mkR]; try rfl)
theorem RoundTrip.mulhu (h : Hd) (f : RFmt) : RoundTrip.Statement (.mulhu h f) := by
  rintro k w ⟨⟩ _
  exact (decodeR _ .mulhu h f (by decide) rfl).trans (by simp only [Op.instr, hdOf_mkR, rOf_mkR]; try rfl)
theorem RoundTrip.div (h : Hd) (f : RFmt) : RoundTrip.Statement (.div h f) := by
  rintro k w ⟨⟩ _
  exact (decodeR _ .div h f (by decide) rfl).trans (by simp only [Op.instr, hdOf_mkR, rOf_mkR]; try rfl)
theorem RoundTrip.divu (h : Hd) (f : RFmt) : RoundTrip.Statement (.divu h f) := by
  rintro k w ⟨⟩ _
  exact (decodeR _ .divu h f (by decide) rfl).trans (by simp only [Op.instr, hdOf_mkR, rOf_mkR]; try rfl)
theorem RoundTrip.rem (h : Hd) (f : RFmt) : RoundTrip.Statement (.rem h f) := by
  rintro k w ⟨⟩ _
  exact (decodeR _ .rem h f (by decide) rfl).trans (by simp only [Op.instr, hdOf_mkR, rOf_mkR]; try rfl)
theorem RoundTrip.remu (h : Hd) (f : RFmt) : RoundTrip.Statement (.remu h f) := by
  rintro k w ⟨⟩ _
  exact (decodeR _ .remu h f (by decide) rfl).trans (by simp only [Op.instr, hdOf_mkR, rOf_mkR]; try rfl)
theorem RoundTrip.and (h : Hd) (f : RFmt) : RoundTrip.Statement (.and h f) := by
  rintro k w ⟨⟩ _
  exact (decodeR _ .and h f (by decide) rfl).trans (by simp only [Op.instr, hdOf_mkR, rOf_mkR]; try rfl)
theorem RoundTrip.or (h : Hd) (f : RFmt) : RoundTrip.Statement (.or h f) := by
  rintro k w ⟨⟩ _
  exact (decodeR _ .or h f (by decide) rfl).trans (by simp only [Op.instr, hdOf_mkR, rOf_mkR]; try rfl)
theorem RoundTrip.xor (h : Hd) (f : RFmt) : RoundTrip.Statement (.xor h f) := by
  rintro k w ⟨⟩ _
  exact (decodeR _ .xor h f (by decide) rfl).trans (by simp only [Op.instr, hdOf_mkR, rOf_mkR]; try rfl)
theorem RoundTrip.andn (h : Hd) (f : RFmt) : RoundTrip.Statement (.andn h f) := by
  rintro k w ⟨⟩ _
  exact (decodeR _ .andn h f (by decide) rfl).trans (by simp only [Op.instr, hdOf_mkR, rOf_mkR]; try rfl)
theorem RoundTrip.shl (h : Hd) (f : RFmt) : RoundTrip.Statement (.shl h f) := by
  rintro k w ⟨⟩ _
  exact (decodeR _ .shl h f (by decide) rfl).trans (by simp only [Op.instr, hdOf_mkR, rOf_mkR]; try rfl)
theorem RoundTrip.shr (h : Hd) (f : RFmt) : RoundTrip.Statement (.shr h f) := by
  rintro k w ⟨⟩ _
  exact (decodeR _ .shr h f (by decide) rfl).trans (by simp only [Op.instr, hdOf_mkR, rOf_mkR]; try rfl)
theorem RoundTrip.sra (h : Hd) (f : RFmt) : RoundTrip.Statement (.sra h f) := by
  rintro k w ⟨⟩ _
  exact (decodeR _ .sra h f (by decide) rfl).trans (by simp only [Op.instr, hdOf_mkR, rOf_mkR]; try rfl)
theorem RoundTrip.rol (h : Hd) (f : RFmt) : RoundTrip.Statement (.rol h f) := by
  rintro k w ⟨⟩ _
  exact (decodeR _ .rol h f (by decide) rfl).trans (by simp only [Op.instr, hdOf_mkR, rOf_mkR]; try rfl)
theorem RoundTrip.min (h : Hd) (f : RFmt) : RoundTrip.Statement (.min h f) := by
  rintro k w ⟨⟩ _
  exact (decodeR _ .min h f (by decide) rfl).trans (by simp only [Op.instr, hdOf_mkR, rOf_mkR]; try rfl)
theorem RoundTrip.max (h : Hd) (f : RFmt) : RoundTrip.Statement (.max h f) := by
  rintro k w ⟨⟩ _
  exact (decodeR _ .max h f (by decide) rfl).trans (by simp only [Op.instr, hdOf_mkR, rOf_mkR]; try rfl)
theorem RoundTrip.minu (h : Hd) (f : RFmt) : RoundTrip.Statement (.minu h f) := by
  rintro k w ⟨⟩ _
  exact (decodeR _ .minu h f (by decide) rfl).trans (by simp only [Op.instr, hdOf_mkR, rOf_mkR]; try rfl)
theorem RoundTrip.maxu (h : Hd) (f : RFmt) : RoundTrip.Statement (.maxu h f) := by
  rintro k w ⟨⟩ _
  exact (decodeR _ .maxu h f (by decide) rfl).trans (by simp only [Op.instr, hdOf_mkR, rOf_mkR]; try rfl)
theorem RoundTrip.clz (h : Hd) (f : RFmt) : RoundTrip.Statement (.clz h f) := by
  rintro k w ⟨⟩ _
  exact (decodeR _ .clz h f (by decide) rfl).trans (by simp only [Op.instr, hdOf_mkR, rOf_mkR]; try rfl)
theorem RoundTrip.ctz (h : Hd) (f : RFmt) : RoundTrip.Statement (.ctz h f) := by
  rintro k w ⟨⟩ _
  exact (decodeR _ .ctz h f (by decide) rfl).trans (by simp only [Op.instr, hdOf_mkR, rOf_mkR]; try rfl)
theorem RoundTrip.popc (h : Hd) (f : RFmt) : RoundTrip.Statement (.popc h f) := by
  rintro k w ⟨⟩ _
  exact (decodeR _ .popc h f (by decide) rfl).trans (by simp only [Op.instr, hdOf_mkR, rOf_mkR]; try rfl)
theorem RoundTrip.sext (h : Hd) (f : RFmt) : RoundTrip.Statement (.sext h f) := by
  rintro k w ⟨⟩ _
  exact (decodeR _ .sext h f (by decide) rfl).trans (by simp only [Op.instr, hdOf_mkR, rOf_mkR]; try rfl)
theorem RoundTrip.zext (h : Hd) (f : RFmt) : RoundTrip.Statement (.zext h f) := by
  rintro k w ⟨⟩ _
  exact (decodeR _ .zext h f (by decide) rfl).trans (by simp only [Op.instr, hdOf_mkR, rOf_mkR]; try rfl)
theorem RoundTrip.sel (h : Hd) (f : RFmt) : RoundTrip.Statement (.sel h f) := by
  rintro k w ⟨⟩ _
  exact (decodeR _ .sel h f (by decide) rfl).trans (by simp only [Op.instr, hdOf_mkR, rOf_mkR]; try rfl)
theorem RoundTrip.cmp (h : Hd) (f : RFmt) : RoundTrip.Statement (.cmp h f) := by
  rintro k w ⟨⟩ _
  exact (decodeR _ .cmp h f (by decide) rfl).trans (by simp only [Op.instr, hdOf_mkR, rOf_mkR]; try rfl)
theorem RoundTrip.cmpi (h : Hd) (f : IFmt) : RoundTrip.Statement (.cmpi h f) := by
  rintro k w ⟨⟩ _
  exact (decodeI _ .cmpi h f (by decide) rfl).trans (by simp only [Op.instr, hdOf_mkI, iOf_mkI]; try rfl)
theorem RoundTrip.addi (h : Hd) (f : IFmt) : RoundTrip.Statement (.addi h f) := by
  rintro k w ⟨⟩ _
  exact (decodeI _ .addi h f (by decide) rfl).trans (by simp only [Op.instr, hdOf_mkI, iOf_mkI]; try rfl)
theorem RoundTrip.andi (h : Hd) (f : IFmt) : RoundTrip.Statement (.andi h f) := by
  rintro k w ⟨⟩ _
  exact (decodeI _ .andi h f (by decide) rfl).trans (by simp only [Op.instr, hdOf_mkI, iOf_mkI]; try rfl)
theorem RoundTrip.ori (h : Hd) (f : IFmt) : RoundTrip.Statement (.ori h f) := by
  rintro k w ⟨⟩ _
  exact (decodeI _ .ori h f (by decide) rfl).trans (by simp only [Op.instr, hdOf_mkI, iOf_mkI]; try rfl)
theorem RoundTrip.xori (h : Hd) (f : IFmt) : RoundTrip.Statement (.xori h f) := by
  rintro k w ⟨⟩ _
  exact (decodeI _ .xori h f (by decide) rfl).trans (by simp only [Op.instr, hdOf_mkI, iOf_mkI]; try rfl)
theorem RoundTrip.shli (h : Hd) (f : IFmt) : RoundTrip.Statement (.shli h f) := by
  rintro k w ⟨⟩ _
  exact (decodeI _ .shli h f (by decide) rfl).trans (by simp only [Op.instr, hdOf_mkI, iOf_mkI]; try rfl)
theorem RoundTrip.shri (h : Hd) (f : IFmt) : RoundTrip.Statement (.shri h f) := by
  rintro k w ⟨⟩ _
  exact (decodeI _ .shri h f (by decide) rfl).trans (by simp only [Op.instr, hdOf_mkI, iOf_mkI]; try rfl)
theorem RoundTrip.srai (h : Hd) (f : IFmt) : RoundTrip.Statement (.srai h f) := by
  rintro k w ⟨⟩ _
  exact (decodeI _ .srai h f (by decide) rfl).trans (by simp only [Op.instr, hdOf_mkI, iOf_mkI]; try rfl)
theorem RoundTrip.li (h : Hd) (f : LFmt) : RoundTrip.Statement (.li h f) := by
  rintro k w ⟨⟩ _
  exact (decodeL _ .li h f (by decide) rfl).trans (by simp only [Op.instr, hdOf_mkL, lOf_mkL]; try rfl)
theorem RoundTrip.lih (h : Hd) (f : LFmt) : RoundTrip.Statement (.lih h f) := by
  rintro k w ⟨⟩ _
  exact (decodeL _ .lih h f (by decide) rfl).trans (by simp only [Op.instr, hdOf_mkL, lOf_mkL]; try rfl)
theorem RoundTrip.plog (h : Hd) (f : RFmt) : RoundTrip.Statement (.plog h f) := by
  rintro k w ⟨⟩ _
  exact (decodeR _ .plog h f (by decide) rfl).trans (by simp only [Op.instr, hdOf_mkR, rOf_mkR]; try rfl)
theorem RoundTrip.fadd (h : Hd) (f : RFmt) : RoundTrip.Statement (.fadd h f) := by
  rintro k w ⟨⟩ _
  exact (decodeR _ .fadd h f (by decide) rfl).trans (by simp only [Op.instr, hdOf_mkR, rOf_mkR]; try rfl)
theorem RoundTrip.fsub (h : Hd) (f : RFmt) : RoundTrip.Statement (.fsub h f) := by
  rintro k w ⟨⟩ _
  exact (decodeR _ .fsub h f (by decide) rfl).trans (by simp only [Op.instr, hdOf_mkR, rOf_mkR]; try rfl)
theorem RoundTrip.fmul (h : Hd) (f : RFmt) : RoundTrip.Statement (.fmul h f) := by
  rintro k w ⟨⟩ _
  exact (decodeR _ .fmul h f (by decide) rfl).trans (by simp only [Op.instr, hdOf_mkR, rOf_mkR]; try rfl)
theorem RoundTrip.fma (h : Hd) (f : RFmt) : RoundTrip.Statement (.fma h f) := by
  rintro k w ⟨⟩ _
  exact (decodeR _ .fma h f (by decide) rfl).trans (by simp only [Op.instr, hdOf_mkR, rOf_mkR]; try rfl)
theorem RoundTrip.fdiv (h : Hd) (f : RFmt) : RoundTrip.Statement (.fdiv h f) := by
  rintro k w ⟨⟩ _
  exact (decodeR _ .fdiv h f (by decide) rfl).trans (by simp only [Op.instr, hdOf_mkR, rOf_mkR]; try rfl)
theorem RoundTrip.fsqrt (h : Hd) (f : RFmt) : RoundTrip.Statement (.fsqrt h f) := by
  rintro k w ⟨⟩ _
  exact (decodeR _ .fsqrt h f (by decide) rfl).trans (by simp only [Op.instr, hdOf_mkR, rOf_mkR]; try rfl)
theorem RoundTrip.fmin (h : Hd) (f : RFmt) : RoundTrip.Statement (.fmin h f) := by
  rintro k w ⟨⟩ _
  exact (decodeR _ .fmin h f (by decide) rfl).trans (by simp only [Op.instr, hdOf_mkR, rOf_mkR]; try rfl)
theorem RoundTrip.fmax (h : Hd) (f : RFmt) : RoundTrip.Statement (.fmax h f) := by
  rintro k w ⟨⟩ _
  exact (decodeR _ .fmax h f (by decide) rfl).trans (by simp only [Op.instr, hdOf_mkR, rOf_mkR]; try rfl)
theorem RoundTrip.fcmp (h : Hd) (f : RFmt) : RoundTrip.Statement (.fcmp h f) := by
  rintro k w ⟨⟩ _
  exact (decodeR _ .fcmp h f (by decide) rfl).trans (by simp only [Op.instr, hdOf_mkR, rOf_mkR]; try rfl)
theorem RoundTrip.fcvt (h : Hd) (f : RFmt) : RoundTrip.Statement (.fcvt h f) := by
  rintro k w ⟨⟩ _
  exact (decodeR _ .fcvt h f (by decide) rfl).trans (by simp only [Op.instr, hdOf_mkR, rOf_mkR]; try rfl)
theorem RoundTrip.fsgn (h : Hd) (f : RFmt) : RoundTrip.Statement (.fsgn h f) := by
  rintro k w ⟨⟩ _
  exact (decodeR _ .fsgn h f (by decide) rfl).trans (by simp only [Op.instr, hdOf_mkR, rOf_mkR]; try rfl)
theorem RoundTrip.br (h : Hd) (f : BFmt) : RoundTrip.Statement (.br h f) := by
  rintro k w ⟨⟩ _
  exact (decodeB _ .br h f (by decide) rfl).trans (by simp only [Op.instr, hdOf_mkB, bOf_mkB]; try rfl)
theorem RoundTrip.call (h : Hd) (f : BFmt) : RoundTrip.Statement (.call h f) := by
  rintro k w ⟨⟩ _
  exact (decodeB _ .call h f (by decide) rfl).trans (by simp only [Op.instr, hdOf_mkB, bOf_mkB]; try rfl)
theorem RoundTrip.jr (h : Hd) (f : RFmt) : RoundTrip.Statement (.jr h f) := by
  rintro k w ⟨⟩ _
  exact (decodeR _ .jr h f (by decide) rfl).trans (by simp only [Op.instr, hdOf_mkR, rOf_mkR]; try rfl)
theorem RoundTrip.loop (h : Hd) (f : BFmt) : RoundTrip.Statement (.loop h f) := by
  rintro k w ⟨⟩ _
  exact (decodeB _ .loop h f (by decide) rfl).trans (by simp only [Op.instr, hdOf_mkB, bOf_mkB]; try rfl)
theorem RoundTrip.edge (h : Hd) (f : BFmt) : RoundTrip.Statement (.edge h f) := by
  rintro k w ⟨⟩ _
  exact (decodeB _ .edge h f (by decide) rfl).trans (by simp only [Op.instr, hdOf_mkB, bOf_mkB]; try rfl)
theorem RoundTrip.bkj (h : Hd) (f : RFmt) : RoundTrip.Statement (.bkj h f) := by
  rintro k w ⟨⟩ _
  exact (decodeR _ .bkj h f (by decide) rfl).trans (by simp only [Op.instr, hdOf_mkR, rOf_mkR]; try rfl)
theorem RoundTrip.trap (h : Hd) (f : RFmt) : RoundTrip.Statement (.trap h f) := by
  rintro k w ⟨⟩ _
  exact (decodeR _ .trap h f (by decide) rfl).trans (by simp only [Op.instr, hdOf_mkR, rOf_mkR]; try rfl)
theorem RoundTrip.tret (h : Hd) (f : RFmt) : RoundTrip.Statement (.tret h f) := by
  rintro k w ⟨⟩ _
  exact (decodeR _ .tret h f (by decide) rfl).trans (by simp only [Op.instr, hdOf_mkR, rOf_mkR]; try rfl)
theorem RoundTrip.exit (h : Hd) (f : RFmt) : RoundTrip.Statement (.exit h f) := by
  rintro k w ⟨⟩ _
  exact (decodeR _ .exit h f (by decide) rfl).trans (by simp only [Op.instr, hdOf_mkR, rOf_mkR]; try rfl)
theorem RoundTrip.cmov (h : Hd) (f : RFmt) : RoundTrip.Statement (.cmov h f) := by
  rintro k w ⟨⟩ _
  exact (decodeR _ .cmov h f (by decide) rfl).trans (by simp only [Op.instr, hdOf_mkR, rOf_mkR]; try rfl)
theorem RoundTrip.cbnd (h : Hd) (f : RFmt) : RoundTrip.Statement (.cbnd h f) := by
  rintro k w ⟨⟩ _
  exact (decodeR _ .cbnd h f (by decide) rfl).trans (by simp only [Op.instr, hdOf_mkR, rOf_mkR]; try rfl)
theorem RoundTrip.cbndi (h : Hd) (f : IFmt) : RoundTrip.Statement (.cbndi h f) := by
  rintro k w ⟨⟩ _
  exact (decodeI _ .cbndi h f (by decide) rfl).trans (by simp only [Op.instr, hdOf_mkI, iOf_mkI]; try rfl)
theorem RoundTrip.crst (h : Hd) (f : IFmt) : RoundTrip.Statement (.crst h f) := by
  rintro k w ⟨⟩ _
  exact (decodeI _ .crst h f (by decide) rfl).trans (by simp only [Op.instr, hdOf_mkI, iOf_mkI]; try rfl)
theorem RoundTrip.coff (h : Hd) (f : RFmt) : RoundTrip.Statement (.coff h f) := by
  rintro k w ⟨⟩ _
  exact (decodeR _ .coff h f (by decide) rfl).trans (by simp only [Op.instr, hdOf_mkR, rOf_mkR]; try rfl)
theorem RoundTrip.coffi (h : Hd) (f : IFmt) : RoundTrip.Statement (.coffi h f) := by
  rintro k w ⟨⟩ _
  exact (decodeI _ .coffi h f (by decide) rfl).trans (by simp only [Op.instr, hdOf_mkI, iOf_mkI]; try rfl)
theorem RoundTrip.cseto (h : Hd) (f : RFmt) : RoundTrip.Statement (.cseto h f) := by
  rintro k w ⟨⟩ _
  exact (decodeR _ .cseto h f (by decide) rfl).trans (by simp only [Op.instr, hdOf_mkR, rOf_mkR]; try rfl)
theorem RoundTrip.cchk (h : Hd) (f : RFmt) : RoundTrip.Statement (.cchk h f) := by
  rintro k w ⟨⟩ _
  exact (decodeR _ .cchk h f (by decide) rfl).trans (by simp only [Op.instr, hdOf_mkR, rOf_mkR]; try rfl)
theorem RoundTrip.cget (h : Hd) (f : RFmt) : RoundTrip.Statement (.cget h f) := by
  rintro k w ⟨⟩ _
  exact (decodeR _ .cget h f (by decide) rfl).trans (by simp only [Op.instr, hdOf_mkR, rOf_mkR]; try rfl)
theorem RoundTrip.cclr (h : Hd) (f : RFmt) : RoundTrip.Statement (.cclr h f) := by
  rintro k w ⟨⟩ hl
  have hv : h.fmt ≠ 1 := by
    unfold Instr.wellFormed at hl
    simp only [encodeWord, Option.isSome_some, if_true, Bool.and_eq_true] at hl
    simpa [Instr.variantOk] using hl.1
  have hf : spaceOp .sc (Op.code .cclr).toNat h.fmt.toNat = some .cclr :=
    congrArg some (if_neg (fun e => hv (BitVec.eq_of_toNat_eq (e.trans rfl))))
  exact (decodeR _ .cclr h f (by decide) hf).trans (by simp only [Op.instr, hdOf_mkR, rOf_mkR])
theorem RoundTrip.cclrMk (h : Hd) (f : RFmt) : RoundTrip.Statement (.cclrMk h f) := by
  rintro k w ⟨⟩ hl
  have hv : h.fmt = 1 := by
    unfold Instr.wellFormed at hl
    simp only [encodeWord, Option.isSome_some, if_true, Bool.and_eq_true] at hl
    simpa [Instr.variantOk] using hl.1
  have hf : spaceOp .sc (Op.code .cclrMk).toNat h.fmt.toNat = some .cclrMk := by rw [hv]; rfl
  exact (decodeR _ .cclrMk h f (by decide) hf).trans (by simp only [Op.instr, hdOf_mkR, rOf_mkR])
theorem RoundTrip.csub (h : Hd) (f : RFmt) : RoundTrip.Statement (.csub h f) := by
  rintro k w ⟨⟩ _
  exact (decodeR _ .csub h f (by decide) rfl).trans (by simp only [Op.instr, hdOf_mkR, rOf_mkR]; try rfl)
theorem RoundTrip.dset (h : Hd) (f : RFmt) : RoundTrip.Statement (.dset h f) := by
  rintro k w ⟨⟩ _
  exact (decodeR _ .dset h f (by decide) rfl).trans (by simp only [Op.instr, hdOf_mkR, rOf_mkR]; try rfl)
theorem RoundTrip.dseti (h : Hd) (f : IFmt) : RoundTrip.Statement (.dseti h f) := by
  rintro k w ⟨⟩ _
  exact (decodeI _ .dseti h f (by decide) rfl).trans (by simp only [Op.instr, hdOf_mkI, iOf_mkI]; try rfl)
theorem RoundTrip.dget (h : Hd) (f : RFmt) : RoundTrip.Statement (.dget h f) := by
  rintro k w ⟨⟩ _
  exact (decodeR _ .dget h f (by decide) rfl).trans (by simp only [Op.instr, hdOf_mkR, rOf_mkR]; try rfl)
theorem RoundTrip.dunb (h : Hd) (f : RFmt) : RoundTrip.Statement (.dunb h f) := by
  rintro k w ⟨⟩ _
  exact (decodeR _ .dunb h f (by decide) rfl).trans (by simp only [Op.instr, hdOf_mkR, rOf_mkR]; try rfl)
theorem RoundTrip.mfsr (h : Hd) (f : IFmt) : RoundTrip.Statement (.mfsr h f) := by
  rintro k w ⟨⟩ _
  exact (decodeI _ .mfsr h f (by decide) rfl).trans (by simp only [Op.instr, hdOf_mkI, iOf_mkI]; try rfl)
theorem RoundTrip.mtsr (h : Hd) (f : IFmt) : RoundTrip.Statement (.mtsr h f) := by
  rintro k w ⟨⟩ _
  exact (decodeI _ .mtsr h f (by decide) rfl).trans (by simp only [Op.instr, hdOf_mkI, iOf_mkI]; try rfl)
theorem RoundTrip.mfsrc (h : Hd) (f : IFmt) : RoundTrip.Statement (.mfsrc h f) := by
  rintro k w ⟨⟩ _
  exact (decodeI _ .mfsrc h f (by decide) rfl).trans (by simp only [Op.instr, hdOf_mkI, iOf_mkI]; try rfl)
theorem RoundTrip.mtsrc (h : Hd) (f : IFmt) : RoundTrip.Statement (.mtsrc h f) := by
  rintro k w ⟨⟩ _
  exact (decodeI _ .mtsrc h f (by decide) rfl).trans (by simp only [Op.instr, hdOf_mkI, iOf_mkI]; try rfl)
theorem RoundTrip.fcls (h : Hd) (f : RFmt) : RoundTrip.Statement (.fcls h f) := by
  rintro k w ⟨⟩ _
  exact (decodeR _ .fcls h f (by decide) rfl).trans (by simp only [Op.instr, hdOf_mkR, rOf_mkR]; try rfl)
theorem RoundTrip.vadd (u : VSlot) (h : Hd) (f : RFmt) : RoundTrip.Statement (.vadd u h f) := by
  rintro k w ⟨⟩ _
  cases u
  · exact (decodeR _ .vadd h f (by decide) rfl).trans (by simp only [Op.instr, hdOf_mkR, rOf_mkR]; try rfl)
  · exact (decodeR _ .vadd h f (by decide) rfl).trans (by simp only [Op.instr, hdOf_mkR, rOf_mkR]; try rfl)
theorem RoundTrip.vsub (u : VSlot) (h : Hd) (f : RFmt) : RoundTrip.Statement (.vsub u h f) := by
  rintro k w ⟨⟩ _
  cases u
  · exact (decodeR _ .vsub h f (by decide) rfl).trans (by simp only [Op.instr, hdOf_mkR, rOf_mkR]; try rfl)
  · exact (decodeR _ .vsub h f (by decide) rfl).trans (by simp only [Op.instr, hdOf_mkR, rOf_mkR]; try rfl)
theorem RoundTrip.vadds (u : VSlot) (h : Hd) (f : RFmt) : RoundTrip.Statement (.vadds u h f) := by
  rintro k w ⟨⟩ _
  cases u
  · exact (decodeR _ .vadds h f (by decide) rfl).trans (by simp only [Op.instr, hdOf_mkR, rOf_mkR]; try rfl)
  · exact (decodeR _ .vadds h f (by decide) rfl).trans (by simp only [Op.instr, hdOf_mkR, rOf_mkR]; try rfl)
theorem RoundTrip.vsubs (u : VSlot) (h : Hd) (f : RFmt) : RoundTrip.Statement (.vsubs u h f) := by
  rintro k w ⟨⟩ _
  cases u
  · exact (decodeR _ .vsubs h f (by decide) rfl).trans (by simp only [Op.instr, hdOf_mkR, rOf_mkR]; try rfl)
  · exact (decodeR _ .vsubs h f (by decide) rfl).trans (by simp only [Op.instr, hdOf_mkR, rOf_mkR]; try rfl)
theorem RoundTrip.vmul (u : VSlot) (h : Hd) (f : RFmt) : RoundTrip.Statement (.vmul u h f) := by
  rintro k w ⟨⟩ _
  cases u
  · exact (decodeR _ .vmul h f (by decide) rfl).trans (by simp only [Op.instr, hdOf_mkR, rOf_mkR]; try rfl)
  · exact (decodeR _ .vmul h f (by decide) rfl).trans (by simp only [Op.instr, hdOf_mkR, rOf_mkR]; try rfl)
theorem RoundTrip.vmulh (u : VSlot) (h : Hd) (f : RFmt) : RoundTrip.Statement (.vmulh u h f) := by
  rintro k w ⟨⟩ _
  cases u
  · exact (decodeR _ .vmulh h f (by decide) rfl).trans (by simp only [Op.instr, hdOf_mkR, rOf_mkR]; try rfl)
  · exact (decodeR _ .vmulh h f (by decide) rfl).trans (by simp only [Op.instr, hdOf_mkR, rOf_mkR]; try rfl)
theorem RoundTrip.vmin (u : VSlot) (h : Hd) (f : RFmt) : RoundTrip.Statement (.vmin u h f) := by
  rintro k w ⟨⟩ _
  cases u
  · exact (decodeR _ .vmin h f (by decide) rfl).trans (by simp only [Op.instr, hdOf_mkR, rOf_mkR]; try rfl)
  · exact (decodeR _ .vmin h f (by decide) rfl).trans (by simp only [Op.instr, hdOf_mkR, rOf_mkR]; try rfl)
theorem RoundTrip.vmax (u : VSlot) (h : Hd) (f : RFmt) : RoundTrip.Statement (.vmax u h f) := by
  rintro k w ⟨⟩ _
  cases u
  · exact (decodeR _ .vmax h f (by decide) rfl).trans (by simp only [Op.instr, hdOf_mkR, rOf_mkR]; try rfl)
  · exact (decodeR _ .vmax h f (by decide) rfl).trans (by simp only [Op.instr, hdOf_mkR, rOf_mkR]; try rfl)
theorem RoundTrip.vabs (u : VSlot) (h : Hd) (f : RFmt) : RoundTrip.Statement (.vabs u h f) := by
  rintro k w ⟨⟩ _
  cases u
  · exact (decodeR _ .vabs h f (by decide) rfl).trans (by simp only [Op.instr, hdOf_mkR, rOf_mkR]; try rfl)
  · exact (decodeR _ .vabs h f (by decide) rfl).trans (by simp only [Op.instr, hdOf_mkR, rOf_mkR]; try rfl)
theorem RoundTrip.vand (u : VSlot) (h : Hd) (f : RFmt) : RoundTrip.Statement (.vand u h f) := by
  rintro k w ⟨⟩ _
  cases u
  · exact (decodeR _ .vand h f (by decide) rfl).trans (by simp only [Op.instr, hdOf_mkR, rOf_mkR]; try rfl)
  · exact (decodeR _ .vand h f (by decide) rfl).trans (by simp only [Op.instr, hdOf_mkR, rOf_mkR]; try rfl)
theorem RoundTrip.vor (u : VSlot) (h : Hd) (f : RFmt) : RoundTrip.Statement (.vor u h f) := by
  rintro k w ⟨⟩ _
  cases u
  · exact (decodeR _ .vor h f (by decide) rfl).trans (by simp only [Op.instr, hdOf_mkR, rOf_mkR]; try rfl)
  · exact (decodeR _ .vor h f (by decide) rfl).trans (by simp only [Op.instr, hdOf_mkR, rOf_mkR]; try rfl)
theorem RoundTrip.vxor (u : VSlot) (h : Hd) (f : RFmt) : RoundTrip.Statement (.vxor u h f) := by
  rintro k w ⟨⟩ _
  cases u
  · exact (decodeR _ .vxor h f (by decide) rfl).trans (by simp only [Op.instr, hdOf_mkR, rOf_mkR]; try rfl)
  · exact (decodeR _ .vxor h f (by decide) rfl).trans (by simp only [Op.instr, hdOf_mkR, rOf_mkR]; try rfl)
theorem RoundTrip.vandn (u : VSlot) (h : Hd) (f : RFmt) : RoundTrip.Statement (.vandn u h f) := by
  rintro k w ⟨⟩ _
  cases u
  · exact (decodeR _ .vandn h f (by decide) rfl).trans (by simp only [Op.instr, hdOf_mkR, rOf_mkR]; try rfl)
  · exact (decodeR _ .vandn h f (by decide) rfl).trans (by simp only [Op.instr, hdOf_mkR, rOf_mkR]; try rfl)
theorem RoundTrip.vshl (u : VSlot) (h : Hd) (f : RFmt) : RoundTrip.Statement (.vshl u h f) := by
  rintro k w ⟨⟩ _
  cases u
  · exact (decodeR _ .vshl h f (by decide) rfl).trans (by simp only [Op.instr, hdOf_mkR, rOf_mkR]; try rfl)
  · exact (decodeR _ .vshl h f (by decide) rfl).trans (by simp only [Op.instr, hdOf_mkR, rOf_mkR]; try rfl)
theorem RoundTrip.vshr (u : VSlot) (h : Hd) (f : RFmt) : RoundTrip.Statement (.vshr u h f) := by
  rintro k w ⟨⟩ _
  cases u
  · exact (decodeR _ .vshr h f (by decide) rfl).trans (by simp only [Op.instr, hdOf_mkR, rOf_mkR]; try rfl)
  · exact (decodeR _ .vshr h f (by decide) rfl).trans (by simp only [Op.instr, hdOf_mkR, rOf_mkR]; try rfl)
theorem RoundTrip.vsra (u : VSlot) (h : Hd) (f : RFmt) : RoundTrip.Statement (.vsra u h f) := by
  rintro k w ⟨⟩ _
  cases u
  · exact (decodeR _ .vsra h f (by decide) rfl).trans (by simp only [Op.instr, hdOf_mkR, rOf_mkR]; try rfl)
  · exact (decodeR _ .vsra h f (by decide) rfl).trans (by simp only [Op.instr, hdOf_mkR, rOf_mkR]; try rfl)
theorem RoundTrip.vshli (u : VSlot) (h : Hd) (f : RFmt) : RoundTrip.Statement (.vshli u h f) := by
  rintro k w ⟨⟩ _
  cases u
  · exact (decodeR _ .vshli h f (by decide) rfl).trans (by simp only [Op.instr, hdOf_mkR, rOf_mkR]; try rfl)
  · exact (decodeR _ .vshli h f (by decide) rfl).trans (by simp only [Op.instr, hdOf_mkR, rOf_mkR]; try rfl)
theorem RoundTrip.vshri (u : VSlot) (h : Hd) (f : RFmt) : RoundTrip.Statement (.vshri u h f) := by
  rintro k w ⟨⟩ _
  cases u
  · exact (decodeR _ .vshri h f (by decide) rfl).trans (by simp only [Op.instr, hdOf_mkR, rOf_mkR]; try rfl)
  · exact (decodeR _ .vshri h f (by decide) rfl).trans (by simp only [Op.instr, hdOf_mkR, rOf_mkR]; try rfl)
theorem RoundTrip.vsrai (u : VSlot) (h : Hd) (f : RFmt) : RoundTrip.Statement (.vsrai u h f) := by
  rintro k w ⟨⟩ _
  cases u
  · exact (decodeR _ .vsrai h f (by decide) rfl).trans (by simp only [Op.instr, hdOf_mkR, rOf_mkR]; try rfl)
  · exact (decodeR _ .vsrai h f (by decide) rfl).trans (by simp only [Op.instr, hdOf_mkR, rOf_mkR]; try rfl)
theorem RoundTrip.vclz (u : VSlot) (h : Hd) (f : RFmt) : RoundTrip.Statement (.vclz u h f) := by
  rintro k w ⟨⟩ _
  cases u
  · exact (decodeR _ .vclz h f (by decide) rfl).trans (by simp only [Op.instr, hdOf_mkR, rOf_mkR]; try rfl)
  · exact (decodeR _ .vclz h f (by decide) rfl).trans (by simp only [Op.instr, hdOf_mkR, rOf_mkR]; try rfl)
theorem RoundTrip.vpopc (u : VSlot) (h : Hd) (f : RFmt) : RoundTrip.Statement (.vpopc u h f) := by
  rintro k w ⟨⟩ _
  cases u
  · exact (decodeR _ .vpopc h f (by decide) rfl).trans (by simp only [Op.instr, hdOf_mkR, rOf_mkR]; try rfl)
  · exact (decodeR _ .vpopc h f (by decide) rfl).trans (by simp only [Op.instr, hdOf_mkR, rOf_mkR]; try rfl)
theorem RoundTrip.vaddi (u : VSlot) (h : Hd) (f : IFmt) : RoundTrip.Statement (.vaddi u h f) := by
  rintro k w ⟨⟩ _
  cases u
  · exact (decodeI _ .vaddi h f (by decide) rfl).trans (by simp only [Op.instr, hdOf_mkI, iOf_mkI]; try rfl)
  · exact (decodeI _ .vaddi h f (by decide) rfl).trans (by simp only [Op.instr, hdOf_mkI, iOf_mkI]; try rfl)
theorem RoundTrip.vli (u : VSlot) (h : Hd) (f : IFmt) : RoundTrip.Statement (.vli u h f) := by
  rintro k w ⟨⟩ _
  cases u
  · exact (decodeI _ .vli h f (by decide) rfl).trans (by simp only [Op.instr, hdOf_mkI, iOf_mkI]; try rfl)
  · exact (decodeI _ .vli h f (by decide) rfl).trans (by simp only [Op.instr, hdOf_mkI, iOf_mkI]; try rfl)
theorem RoundTrip.vfadd (u : VSlot) (h : Hd) (f : RFmt) : RoundTrip.Statement (.vfadd u h f) := by
  rintro k w ⟨⟩ _
  cases u
  · exact (decodeR _ .vfadd h f (by decide) rfl).trans (by simp only [Op.instr, hdOf_mkR, rOf_mkR]; try rfl)
  · exact (decodeR _ .vfadd h f (by decide) rfl).trans (by simp only [Op.instr, hdOf_mkR, rOf_mkR]; try rfl)
theorem RoundTrip.vfsub (u : VSlot) (h : Hd) (f : RFmt) : RoundTrip.Statement (.vfsub u h f) := by
  rintro k w ⟨⟩ _
  cases u
  · exact (decodeR _ .vfsub h f (by decide) rfl).trans (by simp only [Op.instr, hdOf_mkR, rOf_mkR]; try rfl)
  · exact (decodeR _ .vfsub h f (by decide) rfl).trans (by simp only [Op.instr, hdOf_mkR, rOf_mkR]; try rfl)
theorem RoundTrip.vfmul (u : VSlot) (h : Hd) (f : RFmt) : RoundTrip.Statement (.vfmul u h f) := by
  rintro k w ⟨⟩ _
  cases u
  · exact (decodeR _ .vfmul h f (by decide) rfl).trans (by simp only [Op.instr, hdOf_mkR, rOf_mkR]; try rfl)
  · exact (decodeR _ .vfmul h f (by decide) rfl).trans (by simp only [Op.instr, hdOf_mkR, rOf_mkR]; try rfl)
theorem RoundTrip.vfma (u : VSlot) (h : Hd) (f : RFmt) : RoundTrip.Statement (.vfma u h f) := by
  rintro k w ⟨⟩ _
  cases u
  · exact (decodeR _ .vfma h f (by decide) rfl).trans (by simp only [Op.instr, hdOf_mkR, rOf_mkR]; try rfl)
  · exact (decodeR _ .vfma h f (by decide) rfl).trans (by simp only [Op.instr, hdOf_mkR, rOf_mkR]; try rfl)
theorem RoundTrip.vfms (u : VSlot) (h : Hd) (f : RFmt) : RoundTrip.Statement (.vfms u h f) := by
  rintro k w ⟨⟩ _
  cases u
  · exact (decodeR _ .vfms h f (by decide) rfl).trans (by simp only [Op.instr, hdOf_mkR, rOf_mkR]; try rfl)
  · exact (decodeR _ .vfms h f (by decide) rfl).trans (by simp only [Op.instr, hdOf_mkR, rOf_mkR]; try rfl)
theorem RoundTrip.vfnma (u : VSlot) (h : Hd) (f : RFmt) : RoundTrip.Statement (.vfnma u h f) := by
  rintro k w ⟨⟩ _
  cases u
  · exact (decodeR _ .vfnma h f (by decide) rfl).trans (by simp only [Op.instr, hdOf_mkR, rOf_mkR]; try rfl)
  · exact (decodeR _ .vfnma h f (by decide) rfl).trans (by simp only [Op.instr, hdOf_mkR, rOf_mkR]; try rfl)
theorem RoundTrip.vfmin (u : VSlot) (h : Hd) (f : RFmt) : RoundTrip.Statement (.vfmin u h f) := by
  rintro k w ⟨⟩ _
  cases u
  · exact (decodeR _ .vfmin h f (by decide) rfl).trans (by simp only [Op.instr, hdOf_mkR, rOf_mkR]; try rfl)
  · exact (decodeR _ .vfmin h f (by decide) rfl).trans (by simp only [Op.instr, hdOf_mkR, rOf_mkR]; try rfl)
theorem RoundTrip.vfmax (u : VSlot) (h : Hd) (f : RFmt) : RoundTrip.Statement (.vfmax u h f) := by
  rintro k w ⟨⟩ _
  cases u
  · exact (decodeR _ .vfmax h f (by decide) rfl).trans (by simp only [Op.instr, hdOf_mkR, rOf_mkR]; try rfl)
  · exact (decodeR _ .vfmax h f (by decide) rfl).trans (by simp only [Op.instr, hdOf_mkR, rOf_mkR]; try rfl)
theorem RoundTrip.vfabs (u : VSlot) (h : Hd) (f : RFmt) : RoundTrip.Statement (.vfabs u h f) := by
  rintro k w ⟨⟩ _
  cases u
  · exact (decodeR _ .vfabs h f (by decide) rfl).trans (by simp only [Op.instr, hdOf_mkR, rOf_mkR]; try rfl)
  · exact (decodeR _ .vfabs h f (by decide) rfl).trans (by simp only [Op.instr, hdOf_mkR, rOf_mkR]; try rfl)
theorem RoundTrip.vfneg (u : VSlot) (h : Hd) (f : RFmt) : RoundTrip.Statement (.vfneg u h f) := by
  rintro k w ⟨⟩ _
  cases u
  · exact (decodeR _ .vfneg h f (by decide) rfl).trans (by simp only [Op.instr, hdOf_mkR, rOf_mkR]; try rfl)
  · exact (decodeR _ .vfneg h f (by decide) rfl).trans (by simp only [Op.instr, hdOf_mkR, rOf_mkR]; try rfl)
theorem RoundTrip.vfdiv (u : VSlot) (h : Hd) (f : RFmt) : RoundTrip.Statement (.vfdiv u h f) := by
  rintro k w ⟨⟩ _
  cases u
  · exact (decodeR _ .vfdiv h f (by decide) rfl).trans (by simp only [Op.instr, hdOf_mkR, rOf_mkR]; try rfl)
  · exact (decodeR _ .vfdiv h f (by decide) rfl).trans (by simp only [Op.instr, hdOf_mkR, rOf_mkR]; try rfl)
theorem RoundTrip.vfsqrt (u : VSlot) (h : Hd) (f : RFmt) : RoundTrip.Statement (.vfsqrt u h f) := by
  rintro k w ⟨⟩ _
  cases u
  · exact (decodeR _ .vfsqrt h f (by decide) rfl).trans (by simp only [Op.instr, hdOf_mkR, rOf_mkR]; try rfl)
  · exact (decodeR _ .vfsqrt h f (by decide) rfl).trans (by simp only [Op.instr, hdOf_mkR, rOf_mkR]; try rfl)
theorem RoundTrip.vfrcp (u : VSlot) (h : Hd) (f : RFmt) : RoundTrip.Statement (.vfrcp u h f) := by
  rintro k w ⟨⟩ _
  cases u
  · exact (decodeR _ .vfrcp h f (by decide) rfl).trans (by simp only [Op.instr, hdOf_mkR, rOf_mkR]; try rfl)
  · exact (decodeR _ .vfrcp h f (by decide) rfl).trans (by simp only [Op.instr, hdOf_mkR, rOf_mkR]; try rfl)
theorem RoundTrip.vexp2 (u : VSlot) (h : Hd) (f : RFmt) : RoundTrip.Statement (.vexp2 u h f) := by
  rintro k w ⟨⟩ _
  cases u
  · exact (decodeR _ .vexp2 h f (by decide) rfl).trans (by simp only [Op.instr, hdOf_mkR, rOf_mkR]; try rfl)
  · exact (decodeR _ .vexp2 h f (by decide) rfl).trans (by simp only [Op.instr, hdOf_mkR, rOf_mkR]; try rfl)
theorem RoundTrip.vlog2 (u : VSlot) (h : Hd) (f : RFmt) : RoundTrip.Statement (.vlog2 u h f) := by
  rintro k w ⟨⟩ _
  cases u
  · exact (decodeR _ .vlog2 h f (by decide) rfl).trans (by simp only [Op.instr, hdOf_mkR, rOf_mkR]; try rfl)
  · exact (decodeR _ .vlog2 h f (by decide) rfl).trans (by simp only [Op.instr, hdOf_mkR, rOf_mkR]; try rfl)
theorem RoundTrip.vsin (u : VSlot) (h : Hd) (f : RFmt) : RoundTrip.Statement (.vsin u h f) := by
  rintro k w ⟨⟩ _
  cases u
  · exact (decodeR _ .vsin h f (by decide) rfl).trans (by simp only [Op.instr, hdOf_mkR, rOf_mkR]; try rfl)
  · exact (decodeR _ .vsin h f (by decide) rfl).trans (by simp only [Op.instr, hdOf_mkR, rOf_mkR]; try rfl)
theorem RoundTrip.vcos (u : VSlot) (h : Hd) (f : RFmt) : RoundTrip.Statement (.vcos u h f) := by
  rintro k w ⟨⟩ _
  cases u
  · exact (decodeR _ .vcos h f (by decide) rfl).trans (by simp only [Op.instr, hdOf_mkR, rOf_mkR]; try rfl)
  · exact (decodeR _ .vcos h f (by decide) rfl).trans (by simp only [Op.instr, hdOf_mkR, rOf_mkR]; try rfl)
theorem RoundTrip.vtanh (u : VSlot) (h : Hd) (f : RFmt) : RoundTrip.Statement (.vtanh u h f) := by
  rintro k w ⟨⟩ _
  cases u
  · exact (decodeR _ .vtanh h f (by decide) rfl).trans (by simp only [Op.instr, hdOf_mkR, rOf_mkR]; try rfl)
  · exact (decodeR _ .vtanh h f (by decide) rfl).trans (by simp only [Op.instr, hdOf_mkR, rOf_mkR]; try rfl)
theorem RoundTrip.vrsq (u : VSlot) (h : Hd) (f : RFmt) : RoundTrip.Statement (.vrsq u h f) := by
  rintro k w ⟨⟩ _
  cases u
  · exact (decodeR _ .vrsq h f (by decide) rfl).trans (by simp only [Op.instr, hdOf_mkR, rOf_mkR]; try rfl)
  · exact (decodeR _ .vrsq h f (by decide) rfl).trans (by simp only [Op.instr, hdOf_mkR, rOf_mkR]; try rfl)
theorem RoundTrip.vsig (u : VSlot) (h : Hd) (f : RFmt) : RoundTrip.Statement (.vsig u h f) := by
  rintro k w ⟨⟩ _
  cases u
  · exact (decodeR _ .vsig h f (by decide) rfl).trans (by simp only [Op.instr, hdOf_mkR, rOf_mkR]; try rfl)
  · exact (decodeR _ .vsig h f (by decide) rfl).trans (by simp only [Op.instr, hdOf_mkR, rOf_mkR]; try rfl)
theorem RoundTrip.verf (u : VSlot) (h : Hd) (f : RFmt) : RoundTrip.Statement (.verf u h f) := by
  rintro k w ⟨⟩ _
  cases u
  · exact (decodeR _ .verf h f (by decide) rfl).trans (by simp only [Op.instr, hdOf_mkR, rOf_mkR]; try rfl)
  · exact (decodeR _ .verf h f (by decide) rfl).trans (by simp only [Op.instr, hdOf_mkR, rOf_mkR]; try rfl)
theorem RoundTrip.vcmp (u : VSlot) (h : Hd) (f : RFmt) : RoundTrip.Statement (.vcmp u h f) := by
  rintro k w ⟨⟩ _
  cases u
  · exact (decodeR _ .vcmp h f (by decide) rfl).trans (by simp only [Op.instr, hdOf_mkR, rOf_mkR]; try rfl)
  · exact (decodeR _ .vcmp h f (by decide) rfl).trans (by simp only [Op.instr, hdOf_mkR, rOf_mkR]; try rfl)
theorem RoundTrip.vfcmp (u : VSlot) (h : Hd) (f : RFmt) : RoundTrip.Statement (.vfcmp u h f) := by
  rintro k w ⟨⟩ _
  cases u
  · exact (decodeR _ .vfcmp h f (by decide) rfl).trans (by simp only [Op.instr, hdOf_mkR, rOf_mkR]; try rfl)
  · exact (decodeR _ .vfcmp h f (by decide) rfl).trans (by simp only [Op.instr, hdOf_mkR, rOf_mkR]; try rfl)
theorem RoundTrip.vsel (u : VSlot) (h : Hd) (f : RFmt) : RoundTrip.Statement (.vsel u h f) := by
  rintro k w ⟨⟩ _
  cases u
  · exact (decodeR _ .vsel h f (by decide) rfl).trans (by simp only [Op.instr, hdOf_mkR, rOf_mkR]; try rfl)
  · exact (decodeR _ .vsel h f (by decide) rfl).trans (by simp only [Op.instr, hdOf_mkR, rOf_mkR]; try rfl)
theorem RoundTrip.vmlog (u : VSlot) (h : Hd) (f : RFmt) : RoundTrip.Statement (.vmlog u h f) := by
  rintro k w ⟨⟩ _
  cases u
  · exact (decodeR _ .vmlog h f (by decide) rfl).trans (by simp only [Op.instr, hdOf_mkR, rOf_mkR]; try rfl)
  · exact (decodeR _ .vmlog h f (by decide) rfl).trans (by simp only [Op.instr, hdOf_mkR, rOf_mkR]; try rfl)
theorem RoundTrip.vmtv (u : VSlot) (h : Hd) (f : RFmt) : RoundTrip.Statement (.vmtv u h f) := by
  rintro k w ⟨⟩ _
  cases u
  · exact (decodeR _ .vmtv h f (by decide) rfl).trans (by simp only [Op.instr, hdOf_mkR, rOf_mkR]; try rfl)
  · exact (decodeR _ .vmtv h f (by decide) rfl).trans (by simp only [Op.instr, hdOf_mkR, rOf_mkR]; try rfl)
theorem RoundTrip.vvtm (u : VSlot) (h : Hd) (f : RFmt) : RoundTrip.Statement (.vvtm u h f) := by
  rintro k w ⟨⟩ _
  cases u
  · exact (decodeR _ .vvtm h f (by decide) rfl).trans (by simp only [Op.instr, hdOf_mkR, rOf_mkR]; try rfl)
  · exact (decodeR _ .vvtm h f (by decide) rfl).trans (by simp only [Op.instr, hdOf_mkR, rOf_mkR]; try rfl)
theorem RoundTrip.viota (u : VSlot) (h : Hd) (f : RFmt) : RoundTrip.Statement (.viota u h f) := by
  rintro k w ⟨⟩ _
  cases u
  · exact (decodeR _ .viota h f (by decide) rfl).trans (by simp only [Op.instr, hdOf_mkR, rOf_mkR]; try rfl)
  · exact (decodeR _ .viota h f (by decide) rfl).trans (by simp only [Op.instr, hdOf_mkR, rOf_mkR]; try rfl)
theorem RoundTrip.vcvt (u : VSlot) (h : Hd) (f : RFmt) : RoundTrip.Statement (.vcvt u h f) := by
  rintro k w ⟨⟩ _
  cases u
  · exact (decodeR _ .vcvt h f (by decide) rfl).trans (by simp only [Op.instr, hdOf_mkR, rOf_mkR]; try rfl)
  · exact (decodeR _ .vcvt h f (by decide) rfl).trans (by simp only [Op.instr, hdOf_mkR, rOf_mkR]; try rfl)
theorem RoundTrip.vcvti (u : VSlot) (h : Hd) (f : RFmt) : RoundTrip.Statement (.vcvti u h f) := by
  rintro k w ⟨⟩ _
  cases u
  · exact (decodeR _ .vcvti h f (by decide) rfl).trans (by simp only [Op.instr, hdOf_mkR, rOf_mkR]; try rfl)
  · exact (decodeR _ .vcvti h f (by decide) rfl).trans (by simp only [Op.instr, hdOf_mkR, rOf_mkR]; try rfl)
theorem RoundTrip.vcvtf (u : VSlot) (h : Hd) (f : RFmt) : RoundTrip.Statement (.vcvtf u h f) := by
  rintro k w ⟨⟩ _
  cases u
  · exact (decodeR _ .vcvtf h f (by decide) rfl).trans (by simp only [Op.instr, hdOf_mkR, rOf_mkR]; try rfl)
  · exact (decodeR _ .vcvtf h f (by decide) rfl).trans (by simp only [Op.instr, hdOf_mkR, rOf_mkR]; try rfl)
theorem RoundTrip.vsatn (u : VSlot) (h : Hd) (f : RFmt) : RoundTrip.Statement (.vsatn u h f) := by
  rintro k w ⟨⟩ _
  cases u
  · exact (decodeR _ .vsatn h f (by decide) rfl).trans (by simp only [Op.instr, hdOf_mkR, rOf_mkR]; try rfl)
  · exact (decodeR _ .vsatn h f (by decide) rfl).trans (by simp only [Op.instr, hdOf_mkR, rOf_mkR]; try rfl)
theorem RoundTrip.vwiden (u : VSlot) (h : Hd) (f : RFmt) : RoundTrip.Statement (.vwiden u h f) := by
  rintro k w ⟨⟩ _
  cases u
  · exact (decodeR _ .vwiden h f (by decide) rfl).trans (by simp only [Op.instr, hdOf_mkR, rOf_mkR]; try rfl)
  · exact (decodeR _ .vwiden h f (by decide) rfl).trans (by simp only [Op.instr, hdOf_mkR, rOf_mkR]; try rfl)
theorem RoundTrip.vqbx (u : VSlot) (h : Hd) (f : RFmt) : RoundTrip.Statement (.vqbx u h f) := by
  rintro k w ⟨⟩ _
  cases u
  · exact (decodeR _ .vqbx h f (by decide) rfl).trans (by simp only [Op.instr, hdOf_mkR, rOf_mkR]; try rfl)
  · exact (decodeR _ .vqbx h f (by decide) rfl).trans (by simp only [Op.instr, hdOf_mkR, rOf_mkR]; try rfl)
theorem RoundTrip.vdqbx (u : VSlot) (h : Hd) (f : RFmt) : RoundTrip.Statement (.vdqbx u h f) := by
  rintro k w ⟨⟩ _
  cases u
  · exact (decodeR _ .vdqbx h f (by decide) rfl).trans (by simp only [Op.instr, hdOf_mkR, rOf_mkR]; try rfl)
  · exact (decodeR _ .vdqbx h f (by decide) rfl).trans (by simp only [Op.instr, hdOf_mkR, rOf_mkR]; try rfl)
theorem RoundTrip.vqs8 (u : VSlot) (h : Hd) (f : RFmt) : RoundTrip.Statement (.vqs8 u h f) := by
  rintro k w ⟨⟩ _
  cases u
  · exact (decodeR _ .vqs8 h f (by decide) rfl).trans (by simp only [Op.instr, hdOf_mkR, rOf_mkR]; try rfl)
  · exact (decodeR _ .vqs8 h f (by decide) rfl).trans (by simp only [Op.instr, hdOf_mkR, rOf_mkR]; try rfl)
theorem RoundTrip.vdqs8 (u : VSlot) (h : Hd) (f : RFmt) : RoundTrip.Statement (.vdqs8 u h f) := by
  rintro k w ⟨⟩ _
  cases u
  · exact (decodeR _ .vdqs8 h f (by decide) rfl).trans (by simp only [Op.instr, hdOf_mkR, rOf_mkR]; try rfl)
  · exact (decodeR _ .vdqs8 h f (by decide) rfl).trans (by simp only [Op.instr, hdOf_mkR, rOf_mkR]; try rfl)
theorem RoundTrip.vperm (u : VSlot) (h : Hd) (f : RFmt) : RoundTrip.Statement (.vperm u h f) := by
  rintro k w ⟨⟩ _
  cases u
  · exact (decodeR _ .vperm h f (by decide) rfl).trans (by simp only [Op.instr, hdOf_mkR, rOf_mkR]; try rfl)
  · exact (decodeR _ .vperm h f (by decide) rfl).trans (by simp only [Op.instr, hdOf_mkR, rOf_mkR]; try rfl)
theorem RoundTrip.vpermi (u : VSlot) (h : Hd) (f : RFmt) : RoundTrip.Statement (.vpermi u h f) := by
  rintro k w ⟨⟩ _
  cases u
  · exact (decodeR _ .vpermi h f (by decide) rfl).trans (by simp only [Op.instr, hdOf_mkR, rOf_mkR]; try rfl)
  · exact (decodeR _ .vpermi h f (by decide) rfl).trans (by simp only [Op.instr, hdOf_mkR, rOf_mkR]; try rfl)
theorem RoundTrip.vbcst (u : VSlot) (h : Hd) (f : RFmt) : RoundTrip.Statement (.vbcst u h f) := by
  rintro k w ⟨⟩ _
  cases u
  · exact (decodeR _ .vbcst h f (by decide) rfl).trans (by simp only [Op.instr, hdOf_mkR, rOf_mkR]; try rfl)
  · exact (decodeR _ .vbcst h f (by decide) rfl).trans (by simp only [Op.instr, hdOf_mkR, rOf_mkR]; try rfl)
theorem RoundTrip.vsplat (u : VSlot) (h : Hd) (f : RFmt) : RoundTrip.Statement (.vsplat u h f) := by
  rintro k w ⟨⟩ _
  cases u
  · exact (decodeR _ .vsplat h f (by decide) rfl).trans (by simp only [Op.instr, hdOf_mkR, rOf_mkR]; try rfl)
  · exact (decodeR _ .vsplat h f (by decide) rfl).trans (by simp only [Op.instr, hdOf_mkR, rOf_mkR]; try rfl)
theorem RoundTrip.vshuf (u : VSlot) (h : Hd) (f : RFmt) : RoundTrip.Statement (.vshuf u h f) := by
  rintro k w ⟨⟩ _
  cases u
  · exact (decodeR _ .vshuf h f (by decide) rfl).trans (by simp only [Op.instr, hdOf_mkR, rOf_mkR]; try rfl)
  · exact (decodeR _ .vshuf h f (by decide) rfl).trans (by simp only [Op.instr, hdOf_mkR, rOf_mkR]; try rfl)
theorem RoundTrip.vrotm (u : VSlot) (h : Hd) (f : RFmt) : RoundTrip.Statement (.vrotm u h f) := by
  rintro k w ⟨⟩ _
  cases u
  · exact (decodeR _ .vrotm h f (by decide) rfl).trans (by simp only [Op.instr, hdOf_mkR, rOf_mkR]; try rfl)
  · exact (decodeR _ .vrotm h f (by decide) rfl).trans (by simp only [Op.instr, hdOf_mkR, rOf_mkR]; try rfl)
theorem RoundTrip.vzip (u : VSlot) (h : Hd) (f : RFmt) : RoundTrip.Statement (.vzip u h f) := by
  rintro k w ⟨⟩ _
  cases u
  · exact (decodeR _ .vzip h f (by decide) rfl).trans (by simp only [Op.instr, hdOf_mkR, rOf_mkR]; try rfl)
  · exact (decodeR _ .vzip h f (by decide) rfl).trans (by simp only [Op.instr, hdOf_mkR, rOf_mkR]; try rfl)
theorem RoundTrip.vunzip (u : VSlot) (h : Hd) (f : RFmt) : RoundTrip.Statement (.vunzip u h f) := by
  rintro k w ⟨⟩ _
  cases u
  · exact (decodeR _ .vunzip h f (by decide) rfl).trans (by simp only [Op.instr, hdOf_mkR, rOf_mkR]; try rfl)
  · exact (decodeR _ .vunzip h f (by decide) rfl).trans (by simp only [Op.instr, hdOf_mkR, rOf_mkR]; try rfl)
theorem RoundTrip.vins (u : VSlot) (h : Hd) (f : RFmt) : RoundTrip.Statement (.vins u h f) := by
  rintro k w ⟨⟩ _
  cases u
  · exact (decodeR _ .vins h f (by decide) rfl).trans (by simp only [Op.instr, hdOf_mkR, rOf_mkR]; try rfl)
  · exact (decodeR _ .vins h f (by decide) rfl).trans (by simp only [Op.instr, hdOf_mkR, rOf_mkR]; try rfl)
theorem RoundTrip.vcompr (u : VSlot) (h : Hd) (f : RFmt) : RoundTrip.Statement (.vcompr u h f) := by
  rintro k w ⟨⟩ _
  cases u
  · exact (decodeR _ .vcompr h f (by decide) rfl).trans (by simp only [Op.instr, hdOf_mkR, rOf_mkR]; try rfl)
  · exact (decodeR _ .vcompr h f (by decide) rfl).trans (by simp only [Op.instr, hdOf_mkR, rOf_mkR]; try rfl)
theorem RoundTrip.vexpd (u : VSlot) (h : Hd) (f : RFmt) : RoundTrip.Statement (.vexpd u h f) := by
  rintro k w ⟨⟩ _
  cases u
  · exact (decodeR _ .vexpd h f (by decide) rfl).trans (by simp only [Op.instr, hdOf_mkR, rOf_mkR]; try rfl)
  · exact (decodeR _ .vexpd h f (by decide) rfl).trans (by simp only [Op.instr, hdOf_mkR, rOf_mkR]; try rfl)
theorem RoundTrip.vmov (u : VSlot) (h : Hd) (f : RFmt) : RoundTrip.Statement (.vmov u h f) := by
  rintro k w ⟨⟩ _
  cases u
  · exact (decodeR _ .vmov h f (by decide) rfl).trans (by simp only [Op.instr, hdOf_mkR, rOf_mkR]; try rfl)
  · exact (decodeR _ .vmov h f (by decide) rfl).trans (by simp only [Op.instr, hdOf_mkR, rOf_mkR]; try rfl)
theorem RoundTrip.vcxs (u : VSlot) (h : Hd) (f : RFmt) : RoundTrip.Statement (.vcxs u h f) := by
  rintro k w ⟨⟩ _
  cases u
  · exact (decodeR _ .vcxs h f (by decide) rfl).trans (by simp only [Op.instr, hdOf_mkR, rOf_mkR]; try rfl)
  · exact (decodeR _ .vcxs h f (by decide) rfl).trans (by simp only [Op.instr, hdOf_mkR, rOf_mkR]; try rfl)
theorem RoundTrip.vradd (u : VSlot) (h : Hd) (f : RFmt) : RoundTrip.Statement (.vradd u h f) := by
  rintro k w ⟨⟩ _
  cases u
  · exact (decodeR _ .vradd h f (by decide) rfl).trans (by simp only [Op.instr, hdOf_mkR, rOf_mkR]; try rfl)
  · exact (decodeR _ .vradd h f (by decide) rfl).trans (by simp only [Op.instr, hdOf_mkR, rOf_mkR]; try rfl)
theorem RoundTrip.vrfadd (u : VSlot) (h : Hd) (f : RFmt) : RoundTrip.Statement (.vrfadd u h f) := by
  rintro k w ⟨⟩ _
  cases u
  · exact (decodeR _ .vrfadd h f (by decide) rfl).trans (by simp only [Op.instr, hdOf_mkR, rOf_mkR]; try rfl)
  · exact (decodeR _ .vrfadd h f (by decide) rfl).trans (by simp only [Op.instr, hdOf_mkR, rOf_mkR]; try rfl)
theorem RoundTrip.vrmax (u : VSlot) (h : Hd) (f : RFmt) : RoundTrip.Statement (.vrmax u h f) := by
  rintro k w ⟨⟩ _
  cases u
  · exact (decodeR _ .vrmax h f (by decide) rfl).trans (by simp only [Op.instr, hdOf_mkR, rOf_mkR]; try rfl)
  · exact (decodeR _ .vrmax h f (by decide) rfl).trans (by simp only [Op.instr, hdOf_mkR, rOf_mkR]; try rfl)
theorem RoundTrip.vrmin (u : VSlot) (h : Hd) (f : RFmt) : RoundTrip.Statement (.vrmin u h f) := by
  rintro k w ⟨⟩ _
  cases u
  · exact (decodeR _ .vrmin h f (by decide) rfl).trans (by simp only [Op.instr, hdOf_mkR, rOf_mkR]; try rfl)
  · exact (decodeR _ .vrmin h f (by decide) rfl).trans (by simp only [Op.instr, hdOf_mkR, rOf_mkR]; try rfl)
theorem RoundTrip.vrfmax (u : VSlot) (h : Hd) (f : RFmt) : RoundTrip.Statement (.vrfmax u h f) := by
  rintro k w ⟨⟩ _
  cases u
  · exact (decodeR _ .vrfmax h f (by decide) rfl).trans (by simp only [Op.instr, hdOf_mkR, rOf_mkR]; try rfl)
  · exact (decodeR _ .vrfmax h f (by decide) rfl).trans (by simp only [Op.instr, hdOf_mkR, rOf_mkR]; try rfl)
theorem RoundTrip.vrfmin (u : VSlot) (h : Hd) (f : RFmt) : RoundTrip.Statement (.vrfmin u h f) := by
  rintro k w ⟨⟩ _
  cases u
  · exact (decodeR _ .vrfmin h f (by decide) rfl).trans (by simp only [Op.instr, hdOf_mkR, rOf_mkR]; try rfl)
  · exact (decodeR _ .vrfmin h f (by decide) rfl).trans (by simp only [Op.instr, hdOf_mkR, rOf_mkR]; try rfl)
theorem RoundTrip.vscan (u : VSlot) (h : Hd) (f : RFmt) : RoundTrip.Statement (.vscan u h f) := by
  rintro k w ⟨⟩ _
  cases u
  · exact (decodeR _ .vscan h f (by decide) rfl).trans (by simp only [Op.instr, hdOf_mkR, rOf_mkR]; try rfl)
  · exact (decodeR _ .vscan h f (by decide) rfl).trans (by simp only [Op.instr, hdOf_mkR, rOf_mkR]; try rfl)
theorem RoundTrip.vfscan (u : VSlot) (h : Hd) (f : RFmt) : RoundTrip.Statement (.vfscan u h f) := by
  rintro k w ⟨⟩ _
  cases u
  · exact (decodeR _ .vfscan h f (by decide) rfl).trans (by simp only [Op.instr, hdOf_mkR, rOf_mkR]; try rfl)
  · exact (decodeR _ .vfscan h f (by decide) rfl).trans (by simp only [Op.instr, hdOf_mkR, rOf_mkR]; try rfl)
theorem RoundTrip.vdot (u : VSlot) (h : Hd) (f : RFmt) : RoundTrip.Statement (.vdot u h f) := by
  rintro k w ⟨⟩ _
  cases u
  · exact (decodeR _ .vdot h f (by decide) rfl).trans (by simp only [Op.instr, hdOf_mkR, rOf_mkR]; try rfl)
  · exact (decodeR _ .vdot h f (by decide) rfl).trans (by simp only [Op.instr, hdOf_mkR, rOf_mkR]; try rfl)
theorem RoundTrip.vfdot (u : VSlot) (h : Hd) (f : RFmt) : RoundTrip.Statement (.vfdot u h f) := by
  rintro k w ⟨⟩ _
  cases u
  · exact (decodeR _ .vfdot h f (by decide) rfl).trans (by simp only [Op.instr, hdOf_mkR, rOf_mkR]; try rfl)
  · exact (decodeR _ .vfdot h f (by decide) rfl).trans (by simp only [Op.instr, hdOf_mkR, rOf_mkR]; try rfl)
theorem RoundTrip.vdfrd (u : VSlot) (h : Hd) (f : RFmt) : RoundTrip.Statement (.vdfrd u h f) := by
  rintro k w ⟨⟩ _
  cases u
  · exact (decodeR _ .vdfrd h f (by decide) rfl).trans (by simp only [Op.instr, hdOf_mkR, rOf_mkR]; try rfl)
  · exact (decodeR _ .vdfrd h f (by decide) rfl).trans (by simp only [Op.instr, hdOf_mkR, rOf_mkR]; try rfl)
theorem RoundTrip.vdfwr (u : VSlot) (h : Hd) (f : RFmt) : RoundTrip.Statement (.vdfwr u h f) := by
  rintro k w ⟨⟩ _
  cases u
  · exact (decodeR _ .vdfwr h f (by decide) rfl).trans (by simp only [Op.instr, hdOf_mkR, rOf_mkR]; try rfl)
  · exact (decodeR _ .vdfwr h f (by decide) rfl).trans (by simp only [Op.instr, hdOf_mkR, rOf_mkR]; try rfl)
theorem RoundTrip.vluta (u : VSlot) (h : Hd) (f : RFmt) : RoundTrip.Statement (.vluta u h f) := by
  rintro k w ⟨⟩ _
  cases u
  · exact (decodeR _ .vluta h f (by decide) rfl).trans (by simp only [Op.instr, hdOf_mkR, rOf_mkR]; try rfl)
  · exact (decodeR _ .vluta h f (by decide) rfl).trans (by simp only [Op.instr, hdOf_mkR, rOf_mkR]; try rfl)
theorem RoundTrip.vbina (u : VSlot) (h : Hd) (f : RFmt) : RoundTrip.Statement (.vbina u h f) := by
  rintro k w ⟨⟩ _
  cases u
  · exact (decodeR _ .vbina h f (by decide) rfl).trans (by simp only [Op.instr, hdOf_mkR, rOf_mkR]; try rfl)
  · exact (decodeR _ .vbina h f (by decide) rfl).trans (by simp only [Op.instr, hdOf_mkR, rOf_mkR]; try rfl)
theorem RoundTrip.tset (h : Hd) (f : RFmt) : RoundTrip.Statement (.tset h f) := by
  rintro k w ⟨⟩ _
  exact (decodeR _ .tset h f (by decide) rfl).trans (by simp only [Op.instr, hdOf_mkR, rOf_mkR]; try rfl)
theorem RoundTrip.tcpy (h : Hd) (f : RFmt) : RoundTrip.Statement (.tcpy h f) := by
  rintro k w ⟨⟩ _
  exact (decodeR _ .tcpy h f (by decide) rfl).trans (by simp only [Op.instr, hdOf_mkR, rOf_mkR]; try rfl)
theorem RoundTrip.tgetl (h : Hd) (f : RFmt) : RoundTrip.Statement (.tgetl h f) := by
  rintro k w ⟨⟩ _
  exact (decodeR _ .tgetl h f (by decide) rfl).trans (by simp only [Op.instr, hdOf_mkR, rOf_mkR]; try rfl)
theorem RoundTrip.tgeth (h : Hd) (f : RFmt) : RoundTrip.Statement (.tgeth h f) := by
  rintro k w ⟨⟩ _
  exact (decodeR _ .tgeth h f (by decide) rfl).trans (by simp only [Op.instr, hdOf_mkR, rOf_mkR]; try rfl)
theorem RoundTrip.tsto (h : Hd) (f : RFmt) : RoundTrip.Statement (.tsto h f) := by
  rintro k w ⟨⟩ _
  exact (decodeR _ .tsto h f (by decide) rfl).trans (by simp only [Op.instr, hdOf_mkR, rOf_mkR]; try rfl)
theorem RoundTrip.tstoi (h : Hd) (f : IFmt) : RoundTrip.Statement (.tstoi h f) := by
  rintro k w ⟨⟩ _
  exact (decodeI _ .tstoi h f (by decide) rfl).trans (by simp only [Op.instr, hdOf_mkI, iOf_mkI]; try rfl)
theorem RoundTrip.tgets (h : Hd) (f : RFmt) : RoundTrip.Statement (.tgets h f) := by
  rintro k w ⟨⟩ _
  exact (decodeR _ .tgets h f (by decide) rfl).trans (by simp only [Op.instr, hdOf_mkR, rOf_mkR]; try rfl)
theorem RoundTrip.tclr (h : Hd) (f : RFmt) : RoundTrip.Statement (.tclr h f) := by
  rintro k w ⟨⟩ _
  exact (decodeR _ .tclr h f (by decide) rfl).trans (by simp only [Op.instr, hdOf_mkR, rOf_mkR]; try rfl)
theorem RoundTrip.text (h : Hd) (f : RFmt) : RoundTrip.Statement (.text h f) := by
  rintro k w ⟨⟩ _
  exact (decodeR _ .text h f (by decide) rfl).trans (by simp only [Op.instr, hdOf_mkR, rOf_mkR]; try rfl)
theorem RoundTrip.tsext (h : Hd) (f : RFmt) : RoundTrip.Statement (.tsext h f) := by
  rintro k w ⟨⟩ _
  exact (decodeR _ .tsext h f (by decide) rfl).trans (by simp only [Op.instr, hdOf_mkR, rOf_mkR]; try rfl)
theorem RoundTrip.tsexti (h : Hd) (f : IFmt) : RoundTrip.Statement (.tsexti h f) := by
  rintro k w ⟨⟩ _
  exact (decodeI _ .tsexti h f (by decide) rfl).trans (by simp only [Op.instr, hdOf_mkI, iOf_mkI]; try rfl)
theorem RoundTrip.trshp (h : Hd) (f : RFmt) : RoundTrip.Statement (.trshp h f) := by
  rintro k w ⟨⟩ _
  exact (decodeR _ .trshp h f (by decide) rfl).trans (by simp only [Op.instr, hdOf_mkR, rOf_mkR]; try rfl)
theorem RoundTrip.ttrn (h : Hd) (f : RFmt) : RoundTrip.Statement (.ttrn h f) := by
  rintro k w ⟨⟩ _
  exact (decodeR _ .ttrn h f (by decide) rfl).trans (by simp only [Op.instr, hdOf_mkR, rOf_mkR]; try rfl)
theorem RoundTrip.tcast (h : Hd) (f : RFmt) : RoundTrip.Statement (.tcast h f) := by
  rintro k w ⟨⟩ _
  exact (decodeR _ .tcast h f (by decide) rfl).trans (by simp only [Op.instr, hdOf_mkR, rOf_mkR]; try rfl)
theorem RoundTrip.tslc (h : Hd) (f : RFmt) : RoundTrip.Statement (.tslc h f) := by
  rintro k w ⟨⟩ _
  exact (decodeR _ .tslc h f (by decide) rfl).trans (by simp only [Op.instr, hdOf_mkR, rOf_mkR]; try rfl)
theorem RoundTrip.tslci (h : Hd) (f : IFmt) : RoundTrip.Statement (.tslci h f) := by
  rintro k w ⟨⟩ _
  exact (decodeI _ .tslci h f (by decide) rfl).trans (by simp only [Op.instr, hdOf_mkI, iOf_mkI]; try rfl)
theorem RoundTrip.tchk (h : Hd) (f : RFmt) : RoundTrip.Statement (.tchk h f) := by
  rintro k w ⟨⟩ _
  exact (decodeR _ .tchk h f (by decide) rfl).trans (by simp only [Op.instr, hdOf_mkR, rOf_mkR]; try rfl)
theorem RoundTrip.tbind (h : Hd) (f : RFmt) : RoundTrip.Statement (.tbind h f) := by
  rintro k w ⟨⟩ _
  exact (decodeR _ .tbind h f (by decide) rfl).trans (by simp only [Op.instr, hdOf_mkR, rOf_mkR]; try rfl)
theorem RoundTrip.tinfo (h : Hd) (f : RFmt) : RoundTrip.Statement (.tinfo h f) := by
  rintro k w ⟨⟩ _
  exact (decodeR _ .tinfo h f (by decide) rfl).trans (by simp only [Op.instr, hdOf_mkR, rOf_mkR]; try rfl)
theorem RoundTrip.mtw (h : Hd) (f : RFmt) : RoundTrip.Statement (.mtw h f) := by
  rintro k w ⟨⟩ _
  exact (decodeR _ .mtw h f (by decide) rfl).trans (by simp only [Op.instr, hdOf_mkR, rOf_mkR]; try rfl)
theorem RoundTrip.mtwi (h : Hd) (f : LFmt) : RoundTrip.Statement (.mtwi h f) := by
  rintro k w ⟨⟩ _
  exact (decodeL _ .mtwi h f (by decide) rfl).trans (by simp only [Op.instr, hdOf_mkL, lOf_mkL]; try rfl)
theorem RoundTrip.mtr (h : Hd) (f : RFmt) : RoundTrip.Statement (.mtr h f) := by
  rintro k w ⟨⟩ _
  exact (decodeR _ .mtr h f (by decide) rfl).trans (by simp only [Op.instr, hdOf_mkR, rOf_mkR]; try rfl)
theorem RoundTrip.mgo (h : Hd) (f : RFmt) : RoundTrip.Statement (.mgo h f) := by
  rintro k w ⟨⟩ hl
  have hv : h.fmt ≠ 3 := by
    unfold Instr.wellFormed at hl
    simp only [encodeWord, Option.isSome_some, if_true, Bool.and_eq_true] at hl
    simpa [Instr.variantOk] using hl.1
  have hf : spaceOp .mt (Op.code .mgo).toNat h.fmt.toNat = some .mgo :=
    congrArg some (if_neg (fun e => hv (BitVec.eq_of_toNat_eq (e.trans rfl))))
  exact (decodeR _ .mgo h f (by decide) hf).trans (by simp only [Op.instr, hdOf_mkR, rOf_mkR])
theorem RoundTrip.mgoTm (h : Hd) (f : RFmt) : RoundTrip.Statement (.mgoTm h f) := by
  rintro k w ⟨⟩ hl
  have hv : h.fmt = 3 := by
    unfold Instr.wellFormed at hl
    simp only [encodeWord, Option.isSome_some, if_true, Bool.and_eq_true] at hl
    simpa [Instr.variantOk] using hl.1
  have hf : spaceOp .mt (Op.code .mgoTm).toNat h.fmt.toNat = some .mgoTm := by rw [hv]; rfl
  exact (decodeR _ .mgoTm h f (by decide) hf).trans (by simp only [Op.instr, hdOf_mkR, rOf_mkR])
theorem RoundTrip.mstep (h : Hd) (f : RFmt) : RoundTrip.Statement (.mstep h f) := by
  rintro k w ⟨⟩ _
  exact (decodeR _ .mstep h f (by decide) rfl).trans (by simp only [Op.instr, hdOf_mkR, rOf_mkR]; try rfl)
theorem RoundTrip.mscl (h : Hd) (f : RFmt) : RoundTrip.Statement (.mscl h f) := by
  rintro k w ⟨⟩ _
  exact (decodeR _ .mscl h f (by decide) rfl).trans (by simp only [Op.instr, hdOf_mkR, rOf_mkR]; try rfl)
theorem RoundTrip.maclr (h : Hd) (f : RFmt) : RoundTrip.Statement (.maclr h f) := by
  rintro k w ⟨⟩ _
  exact (decodeR _ .maclr h f (by decide) rfl).trans (by simp only [Op.instr, hdOf_mkR, rOf_mkR]; try rfl)
theorem RoundTrip.mard (h : Hd) (f : RFmt) : RoundTrip.Statement (.mard h f) := by
  rintro k w ⟨⟩ _
  exact (decodeR _ .mard h f (by decide) rfl).trans (by simp only [Op.instr, hdOf_mkR, rOf_mkR]; try rfl)
theorem RoundTrip.mawr (h : Hd) (f : RFmt) : RoundTrip.Statement (.mawr h f) := by
  rintro k w ⟨⟩ _
  exact (decodeR _ .mawr h f (by decide) rfl).trans (by simp only [Op.instr, hdOf_mkR, rOf_mkR]; try rfl)
theorem RoundTrip.mepi (h : Hd) (f : RFmt) : RoundTrip.Statement (.mepi h f) := by
  rintro k w ⟨⟩ _
  exact (decodeR _ .mepi h f (by decide) rfl).trans (by simp only [Op.instr, hdOf_mkR, rOf_mkR]; try rfl)
theorem RoundTrip.mepiq (h : Hd) (f : RFmt) : RoundTrip.Statement (.mepiq h f) := by
  rintro k w ⟨⟩ _
  exact (decodeR _ .mepiq h f (by decide) rfl).trans (by simp only [Op.instr, hdOf_mkR, rOf_mkR]; try rfl)
theorem RoundTrip.mstz (h : Hd) (f : RFmt) : RoundTrip.Statement (.mstz h f) := by
  rintro k w ⟨⟩ _
  exact (decodeR _ .mstz h f (by decide) rfl).trans (by simp only [Op.instr, hdOf_mkR, rOf_mkR]; try rfl)
theorem RoundTrip.mmul (h : Hd) (f : RFmt) : RoundTrip.Statement (.mmul h f) := by
  rintro k w ⟨⟩ _
  exact (decodeR _ .mmul h f (by decide) rfl).trans (by simp only [Op.instr, hdOf_mkR, rOf_mkR]; try rfl)
theorem RoundTrip.tfill (h : Hd) (f : RFmt) : RoundTrip.Statement (.tfill h f) := by
  rintro k w ⟨⟩ _
  exact (decodeR _ .tfill h f (by decide) rfl).trans (by simp only [Op.instr, hdOf_mkR, rOf_mkR]; try rfl)
theorem RoundTrip.tcopy (h : Hd) (f : RFmt) : RoundTrip.Statement (.tcopy h f) := by
  rintro k w ⟨⟩ _
  exact (decodeR _ .tcopy h f (by decide) rfl).trans (by simp only [Op.instr, hdOf_mkR, rOf_mkR]; try rfl)
theorem RoundTrip.tqbx (h : Hd) (f : RFmt) : RoundTrip.Statement (.tqbx h f) := by
  rintro k w ⟨⟩ _
  exact (decodeR _ .tqbx h f (by decide) rfl).trans (by simp only [Op.instr, hdOf_mkR, rOf_mkR]; try rfl)
theorem RoundTrip.tdqbx (h : Hd) (f : RFmt) : RoundTrip.Statement (.tdqbx h f) := by
  rintro k w ⟨⟩ _
  exact (decodeR _ .tdqbx h f (by decide) rfl).trans (by simp only [Op.instr, hdOf_mkR, rOf_mkR]; try rfl)
theorem RoundTrip.tzb (h : Hd) (f : RFmt) : RoundTrip.Statement (.tzb h f) := by
  rintro k w ⟨⟩ _
  exact (decodeR _ .tzb h f (by decide) rfl).trans (by simp only [Op.instr, hdOf_mkR, rOf_mkR]; try rfl)
theorem RoundTrip.tzx (h : Hd) (f : RFmt) : RoundTrip.Statement (.tzx h f) := by
  rintro k w ⟨⟩ _
  exact (decodeR _ .tzx h f (by decide) rfl).trans (by simp only [Op.instr, hdOf_mkR, rOf_mkR]; try rfl)
theorem RoundTrip.twex (h : Hd) (f : RFmt) : RoundTrip.Statement (.twex h f) := by
  rintro k w ⟨⟩ _
  exact (decodeR _ .twex h f (by decide) rfl).trans (by simp only [Op.instr, hdOf_mkR, rOf_mkR]; try rfl)
theorem RoundTrip.ldb (h : Hd) (f : MFmt) : RoundTrip.Statement (.ldb h f) := by
  rintro k w ⟨⟩ _
  exact (decodeM _ .ldb h f (by decide) rfl).trans (by simp only [Op.instr, hdOf_mkM, mOf_mkM]; try rfl)
theorem RoundTrip.ldbz (h : Hd) (f : MFmt) : RoundTrip.Statement (.ldbz h f) := by
  rintro k w ⟨⟩ _
  exact (decodeM _ .ldbz h f (by decide) rfl).trans (by simp only [Op.instr, hdOf_mkM, mOf_mkM]; try rfl)
theorem RoundTrip.ldh (h : Hd) (f : MFmt) : RoundTrip.Statement (.ldh h f) := by
  rintro k w ⟨⟩ _
  exact (decodeM _ .ldh h f (by decide) rfl).trans (by simp only [Op.instr, hdOf_mkM, mOf_mkM]; try rfl)
theorem RoundTrip.ldhz (h : Hd) (f : MFmt) : RoundTrip.Statement (.ldhz h f) := by
  rintro k w ⟨⟩ _
  exact (decodeM _ .ldhz h f (by decide) rfl).trans (by simp only [Op.instr, hdOf_mkM, mOf_mkM]; try rfl)
theorem RoundTrip.ldw (h : Hd) (f : MFmt) : RoundTrip.Statement (.ldw h f) := by
  rintro k w ⟨⟩ _
  exact (decodeM _ .ldw h f (by decide) rfl).trans (by simp only [Op.instr, hdOf_mkM, mOf_mkM]; try rfl)
theorem RoundTrip.ldwz (h : Hd) (f : MFmt) : RoundTrip.Statement (.ldwz h f) := by
  rintro k w ⟨⟩ _
  exact (decodeM _ .ldwz h f (by decide) rfl).trans (by simp only [Op.instr, hdOf_mkM, mOf_mkM]; try rfl)
theorem RoundTrip.ldd (h : Hd) (f : MFmt) : RoundTrip.Statement (.ldd h f) := by
  rintro k w ⟨⟩ _
  exact (decodeM _ .ldd h f (by decide) rfl).trans (by simp only [Op.instr, hdOf_mkM, mOf_mkM]; try rfl)
theorem RoundTrip.ldv (h : Hd) (f : MFmt) : RoundTrip.Statement (.ldv h f) := by
  rintro k w ⟨⟩ _
  exact (decodeM _ .ldv h f (by decide) rfl).trans (by simp only [Op.instr, hdOf_mkM, mOf_mkM]; try rfl)
theorem RoundTrip.ldvx (h : Hd) (f : RFmt) : RoundTrip.Statement (.ldvx h f) := by
  rintro k w ⟨⟩ _
  exact (decodeR _ .ldvx h f (by decide) rfl).trans (by simp only [Op.instr, hdOf_mkR, rOf_mkR]; try rfl)
theorem RoundTrip.ldg (h : Hd) (f : RFmt) : RoundTrip.Statement (.ldg h f) := by
  rintro k w ⟨⟩ _
  exact (decodeR _ .ldg h f (by decide) rfl).trans (by simp only [Op.instr, hdOf_mkR, rOf_mkR]; try rfl)
theorem RoundTrip.ldcap (h : Hd) (f : MFmt) : RoundTrip.Statement (.ldcap h f) := by
  rintro k w ⟨⟩ _
  exact (decodeM _ .ldcap h f (by decide) rfl).trans (by simp only [Op.instr, hdOf_mkM, mOf_mkM]; try rfl)
theorem RoundTrip.ldt (h : Hd) (f : MFmt) : RoundTrip.Statement (.ldt h f) := by
  rintro k w ⟨⟩ _
  exact (decodeM _ .ldt h f (by decide) rfl).trans (by simp only [Op.instr, hdOf_mkM, mOf_mkM]; try rfl)
theorem RoundTrip.ldtx (h : Hd) (f : RFmt) : RoundTrip.Statement (.ldtx h f) := by
  rintro k w ⟨⟩ _
  exact (decodeR _ .ldtx h f (by decide) rfl).trans (by simp only [Op.instr, hdOf_mkR, rOf_mkR]; try rfl)
theorem RoundTrip.lds (h : Hd) (f : MFmt) : RoundTrip.Statement (.lds h f) := by
  rintro k w ⟨⟩ _
  exact (decodeM _ .lds h f (by decide) rfl).trans (by simp only [Op.instr, hdOf_mkM, mOf_mkM]; try rfl)
theorem RoundTrip.ldsx (h : Hd) (f : RFmt) : RoundTrip.Statement (.ldsx h f) := by
  rintro k w ⟨⟩ _
  exact (decodeR _ .ldsx h f (by decide) rfl).trans (by simp only [Op.instr, hdOf_mkR, rOf_mkR]; try rfl)
theorem RoundTrip.pop (h : Hd) (f : RFmt) : RoundTrip.Statement (.pop h f) := by
  rintro k w ⟨⟩ _
  exact (decodeR _ .pop h f (by decide) rfl).trans (by simp only [Op.instr, hdOf_mkR, rOf_mkR]; try rfl)
theorem RoundTrip.lbd (h : Hd) (f : EFmt) : RoundTrip.Statement (.lbd h f) := by
  rintro k w ⟨⟩ _
  exact (decodeE _ .lbd h f (by decide) rfl).trans (by simp only [Op.instr, hdOf_mkE, eOf_mkE]; try rfl)
theorem RoundTrip.lddx (h : Hd) (f : RFmt) : RoundTrip.Statement (.lddx h f) := by
  rintro k w ⟨⟩ _
  exact (decodeR _ .lddx h f (by decide) rfl).trans (by simp only [Op.instr, hdOf_mkR, rOf_mkR]; try rfl)
theorem RoundTrip.ldwx (h : Hd) (f : RFmt) : RoundTrip.Statement (.ldwx h f) := by
  rintro k w ⟨⟩ _
  exact (decodeR _ .ldwx h f (by decide) rfl).trans (by simp only [Op.instr, hdOf_mkR, rOf_mkR]; try rfl)
theorem RoundTrip.ldbx (h : Hd) (f : RFmt) : RoundTrip.Statement (.ldbx h f) := by
  rintro k w ⟨⟩ _
  exact (decodeR _ .ldbx h f (by decide) rfl).trans (by simp only [Op.instr, hdOf_mkR, rOf_mkR]; try rfl)
theorem RoundTrip.ldhx (h : Hd) (f : RFmt) : RoundTrip.Statement (.ldhx h f) := by
  rintro k w ⟨⟩ _
  exact (decodeR _ .ldhx h f (by decide) rfl).trans (by simp only [Op.instr, hdOf_mkR, rOf_mkR]; try rfl)
theorem RoundTrip.ldvm (h : Hd) (f : RFmt) : RoundTrip.Statement (.ldvm h f) := by
  rintro k w ⟨⟩ _
  exact (decodeR _ .ldvm h f (by decide) rfl).trans (by simp only [Op.instr, hdOf_mkR, rOf_mkR]; try rfl)
theorem RoundTrip.ldcx (h : Hd) (f : RFmt) : RoundTrip.Statement (.ldcx h f) := by
  rintro k w ⟨⟩ _
  exact (decodeR _ .ldcx h f (by decide) rfl).trans (by simp only [Op.instr, hdOf_mkR, rOf_mkR]; try rfl)
theorem RoundTrip.stb (h : Hd) (f : MFmt) : RoundTrip.Statement (.stb h f) := by
  rintro k w ⟨⟩ _
  exact (decodeM _ .stb h f (by decide) rfl).trans (by simp only [Op.instr, hdOf_mkM, mOf_mkM]; try rfl)
theorem RoundTrip.sth (h : Hd) (f : MFmt) : RoundTrip.Statement (.sth h f) := by
  rintro k w ⟨⟩ _
  exact (decodeM _ .sth h f (by decide) rfl).trans (by simp only [Op.instr, hdOf_mkM, mOf_mkM]; try rfl)
theorem RoundTrip.stw (h : Hd) (f : MFmt) : RoundTrip.Statement (.stw h f) := by
  rintro k w ⟨⟩ _
  exact (decodeM _ .stw h f (by decide) rfl).trans (by simp only [Op.instr, hdOf_mkM, mOf_mkM]; try rfl)
theorem RoundTrip.std (h : Hd) (f : MFmt) : RoundTrip.Statement (.std h f) := by
  rintro k w ⟨⟩ _
  exact (decodeM _ .std h f (by decide) rfl).trans (by simp only [Op.instr, hdOf_mkM, mOf_mkM]; try rfl)
theorem RoundTrip.stv (h : Hd) (f : MFmt) : RoundTrip.Statement (.stv h f) := by
  rintro k w ⟨⟩ _
  exact (decodeM _ .stv h f (by decide) rfl).trans (by simp only [Op.instr, hdOf_mkM, mOf_mkM]; try rfl)
theorem RoundTrip.stvx (h : Hd) (f : RFmt) : RoundTrip.Statement (.stvx h f) := by
  rintro k w ⟨⟩ _
  exact (decodeR _ .stvx h f (by decide) rfl).trans (by simp only [Op.instr, hdOf_mkR, rOf_mkR]; try rfl)
theorem RoundTrip.stvm (h : Hd) (f : RFmt) : RoundTrip.Statement (.stvm h f) := by
  rintro k w ⟨⟩ _
  exact (decodeR _ .stvm h f (by decide) rfl).trans (by simp only [Op.instr, hdOf_mkR, rOf_mkR]; try rfl)
theorem RoundTrip.sct (h : Hd) (f : RFmt) : RoundTrip.Statement (.sct h f) := by
  rintro k w ⟨⟩ _
  exact (decodeR _ .sct h f (by decide) rfl).trans (by simp only [Op.instr, hdOf_mkR, rOf_mkR]; try rfl)
theorem RoundTrip.stcap (h : Hd) (f : MFmt) : RoundTrip.Statement (.stcap h f) := by
  rintro k w ⟨⟩ _
  exact (decodeM _ .stcap h f (by decide) rfl).trans (by simp only [Op.instr, hdOf_mkM, mOf_mkM]; try rfl)
theorem RoundTrip.stt (h : Hd) (f : MFmt) : RoundTrip.Statement (.stt h f) := by
  rintro k w ⟨⟩ _
  exact (decodeM _ .stt h f (by decide) rfl).trans (by simp only [Op.instr, hdOf_mkM, mOf_mkM]; try rfl)
theorem RoundTrip.sttx (h : Hd) (f : RFmt) : RoundTrip.Statement (.sttx h f) := by
  rintro k w ⟨⟩ _
  exact (decodeR _ .sttx h f (by decide) rfl).trans (by simp only [Op.instr, hdOf_mkR, rOf_mkR]; try rfl)
theorem RoundTrip.push (h : Hd) (f : RFmt) : RoundTrip.Statement (.push h f) := by
  rintro k w ⟨⟩ _
  exact (decodeR _ .push h f (by decide) rfl).trans (by simp only [Op.instr, hdOf_mkR, rOf_mkR]; try rfl)
theorem RoundTrip.stbx (h : Hd) (f : RFmt) : RoundTrip.Statement (.stbx h f) := by
  rintro k w ⟨⟩ _
  exact (decodeR _ .stbx h f (by decide) rfl).trans (by simp only [Op.instr, hdOf_mkR, rOf_mkR]; try rfl)
theorem RoundTrip.sthx (h : Hd) (f : RFmt) : RoundTrip.Statement (.sthx h f) := by
  rintro k w ⟨⟩ _
  exact (decodeR _ .sthx h f (by decide) rfl).trans (by simp only [Op.instr, hdOf_mkR, rOf_mkR]; try rfl)
theorem RoundTrip.stwx (h : Hd) (f : RFmt) : RoundTrip.Statement (.stwx h f) := by
  rintro k w ⟨⟩ _
  exact (decodeR _ .stwx h f (by decide) rfl).trans (by simp only [Op.instr, hdOf_mkR, rOf_mkR]; try rfl)
theorem RoundTrip.stdx (h : Hd) (f : RFmt) : RoundTrip.Statement (.stdx h f) := by
  rintro k w ⟨⟩ _
  exact (decodeR _ .stdx h f (by decide) rfl).trans (by simp only [Op.instr, hdOf_mkR, rOf_mkR]; try rfl)
theorem RoundTrip.aadd (h : Hd) (f : RFmt) : RoundTrip.Statement (.aadd h f) := by
  rintro k w ⟨⟩ _
  exact (decodeR _ .aadd h f (by decide) rfl).trans (by simp only [Op.instr, hdOf_mkR, rOf_mkR]; try rfl)
theorem RoundTrip.amin (h : Hd) (f : RFmt) : RoundTrip.Statement (.amin h f) := by
  rintro k w ⟨⟩ _
  exact (decodeR _ .amin h f (by decide) rfl).trans (by simp only [Op.instr, hdOf_mkR, rOf_mkR]; try rfl)
theorem RoundTrip.amax (h : Hd) (f : RFmt) : RoundTrip.Statement (.amax h f) := by
  rintro k w ⟨⟩ _
  exact (decodeR _ .amax h f (by decide) rfl).trans (by simp only [Op.instr, hdOf_mkR, rOf_mkR]; try rfl)
theorem RoundTrip.aminu (h : Hd) (f : RFmt) : RoundTrip.Statement (.aminu h f) := by
  rintro k w ⟨⟩ _
  exact (decodeR _ .aminu h f (by decide) rfl).trans (by simp only [Op.instr, hdOf_mkR, rOf_mkR]; try rfl)
theorem RoundTrip.amaxu (h : Hd) (f : RFmt) : RoundTrip.Statement (.amaxu h f) := by
  rintro k w ⟨⟩ _
  exact (decodeR _ .amaxu h f (by decide) rfl).trans (by simp only [Op.instr, hdOf_mkR, rOf_mkR]; try rfl)
theorem RoundTrip.aand (h : Hd) (f : RFmt) : RoundTrip.Statement (.aand h f) := by
  rintro k w ⟨⟩ _
  exact (decodeR _ .aand h f (by decide) rfl).trans (by simp only [Op.instr, hdOf_mkR, rOf_mkR]; try rfl)
theorem RoundTrip.aor (h : Hd) (f : RFmt) : RoundTrip.Statement (.aor h f) := by
  rintro k w ⟨⟩ _
  exact (decodeR _ .aor h f (by decide) rfl).trans (by simp only [Op.instr, hdOf_mkR, rOf_mkR]; try rfl)
theorem RoundTrip.axor (h : Hd) (f : RFmt) : RoundTrip.Statement (.axor h f) := by
  rintro k w ⟨⟩ _
  exact (decodeR _ .axor h f (by decide) rfl).trans (by simp only [Op.instr, hdOf_mkR, rOf_mkR]; try rfl)
theorem RoundTrip.axch (h : Hd) (f : RFmt) : RoundTrip.Statement (.axch h f) := by
  rintro k w ⟨⟩ _
  exact (decodeR _ .axch h f (by decide) rfl).trans (by simp only [Op.instr, hdOf_mkR, rOf_mkR]; try rfl)
theorem RoundTrip.acas (h : Hd) (f : RFmt) : RoundTrip.Statement (.acas h f) := by
  rintro k w ⟨⟩ _
  exact (decodeR _ .acas h f (by decide) rfl).trans (by simp only [Op.instr, hdOf_mkR, rOf_mkR]; try rfl)
theorem RoundTrip.afadd (h : Hd) (f : RFmt) : RoundTrip.Statement (.afadd h f) := by
  rintro k w ⟨⟩ _
  exact (decodeR _ .afadd h f (by decide) rfl).trans (by simp only [Op.instr, hdOf_mkR, rOf_mkR]; try rfl)
theorem RoundTrip.ctw (h : Hd) (f : RFmt) : RoundTrip.Statement (.ctw h f) := by
  rintro k w ⟨⟩ _
  exact (decodeR _ .ctw h f (by decide) rfl).trans (by simp only [Op.instr, hdOf_mkR, rOf_mkR]; try rfl)
theorem RoundTrip.ctwi (h : Hd) (f : LFmt) : RoundTrip.Statement (.ctwi h f) := by
  rintro k w ⟨⟩ _
  exact (decodeL _ .ctwi h f (by decide) rfl).trans (by simp only [Op.instr, hdOf_mkL, lOf_mkL]; try rfl)
theorem RoundTrip.ctr (h : Hd) (f : RFmt) : RoundTrip.Statement (.ctr h f) := by
  rintro k w ⟨⟩ _
  exact (decodeR _ .ctr h f (by decide) rfl).trans (by simp only [Op.instr, hdOf_mkR, rOf_mkR]; try rfl)
theorem RoundTrip.cgomm (h : Hd) (f : EFmt) : RoundTrip.Statement (.cgomm h f) := by
  rintro k w ⟨⟩ _
  exact (decodeE _ .cgomm h f (by decide) rfl).trans (by simp only [Op.instr, hdOf_mkE, eOf_mkE]; try rfl)
theorem RoundTrip.cgomd (h : Hd) (f : EFmt) : RoundTrip.Statement (.cgomd h f) := by
  rintro k w ⟨⟩ _
  exact (decodeE _ .cgomd h f (by decide) rfl).trans (by simp only [Op.instr, hdOf_mkE, eOf_mkE]; try rfl)
theorem RoundTrip.cgome (h : Hd) (f : EFmt) : RoundTrip.Statement (.cgome h f) := by
  rintro k w ⟨⟩ _
  exact (decodeE _ .cgome h f (by decide) rfl).trans (by simp only [Op.instr, hdOf_mkE, eOf_mkE]; try rfl)
theorem RoundTrip.cgoma (h : Hd) (f : EFmt) : RoundTrip.Statement (.cgoma h f) := by
  rintro k w ⟨⟩ _
  exact (decodeE _ .cgoma h f (by decide) rfl).trans (by simp only [Op.instr, hdOf_mkE, eOf_mkE]; try rfl)
theorem RoundTrip.cgomk (h : Hd) (f : EFmt) : RoundTrip.Statement (.cgomk h f) := by
  rintro k w ⟨⟩ _
  exact (decodeE _ .cgomk h f (by decide) rfl).trans (by simp only [Op.instr, hdOf_mkE, eOf_mkE]; try rfl)
theorem RoundTrip.cgodm (h : Hd) (f : EFmt) : RoundTrip.Statement (.cgodm h f) := by
  rintro k w ⟨⟩ _
  exact (decodeE _ .cgodm h f (by decide) rfl).trans (by simp only [Op.instr, hdOf_mkE, eOf_mkE]; try rfl)
theorem RoundTrip.cgodd (h : Hd) (f : EFmt) : RoundTrip.Statement (.cgodd h f) := by
  rintro k w ⟨⟩ _
  exact (decodeE _ .cgodd h f (by decide) rfl).trans (by simp only [Op.instr, hdOf_mkE, eOf_mkE]; try rfl)
theorem RoundTrip.cgode (h : Hd) (f : EFmt) : RoundTrip.Statement (.cgode h f) := by
  rintro k w ⟨⟩ _
  exact (decodeE _ .cgode h f (by decide) rfl).trans (by simp only [Op.instr, hdOf_mkE, eOf_mkE]; try rfl)
theorem RoundTrip.cgoda (h : Hd) (f : EFmt) : RoundTrip.Statement (.cgoda h f) := by
  rintro k w ⟨⟩ _
  exact (decodeE _ .cgoda h f (by decide) rfl).trans (by simp only [Op.instr, hdOf_mkE, eOf_mkE]; try rfl)
theorem RoundTrip.cgodk (h : Hd) (f : EFmt) : RoundTrip.Statement (.cgodk h f) := by
  rintro k w ⟨⟩ _
  exact (decodeE _ .cgodk h f (by decide) rfl).trans (by simp only [Op.instr, hdOf_mkE, eOf_mkE]; try rfl)
theorem RoundTrip.cgoam (h : Hd) (f : EFmt) : RoundTrip.Statement (.cgoam h f) := by
  rintro k w ⟨⟩ _
  exact (decodeE _ .cgoam h f (by decide) rfl).trans (by simp only [Op.instr, hdOf_mkE, eOf_mkE]; try rfl)
theorem RoundTrip.cgoad (h : Hd) (f : EFmt) : RoundTrip.Statement (.cgoad h f) := by
  rintro k w ⟨⟩ _
  exact (decodeE _ .cgoad h f (by decide) rfl).trans (by simp only [Op.instr, hdOf_mkE, eOf_mkE]; try rfl)
theorem RoundTrip.cgoae (h : Hd) (f : EFmt) : RoundTrip.Statement (.cgoae h f) := by
  rintro k w ⟨⟩ _
  exact (decodeE _ .cgoae h f (by decide) rfl).trans (by simp only [Op.instr, hdOf_mkE, eOf_mkE]; try rfl)
theorem RoundTrip.cgoaa (h : Hd) (f : EFmt) : RoundTrip.Statement (.cgoaa h f) := by
  rintro k w ⟨⟩ _
  exact (decodeE _ .cgoaa h f (by decide) rfl).trans (by simp only [Op.instr, hdOf_mkE, eOf_mkE]; try rfl)
theorem RoundTrip.cgoak (h : Hd) (f : EFmt) : RoundTrip.Statement (.cgoak h f) := by
  rintro k w ⟨⟩ _
  exact (decodeE _ .cgoak h f (by decide) rfl).trans (by simp only [Op.instr, hdOf_mkE, eOf_mkE]; try rfl)
theorem RoundTrip.rkdef (h : Hd) (f : EFmt) : RoundTrip.Statement (.rkdef h f) := by
  rintro k w ⟨⟩ _
  exact (decodeE _ .rkdef h f (by decide) rfl).trans (by simp only [Op.instr, hdOf_mkE, eOf_mkE]; try rfl)
theorem RoundTrip.mopen (h : Hd) (f : EFmt) : RoundTrip.Statement (.mopen h f) := by
  rintro k w ⟨⟩ _
  exact (decodeE _ .mopen h f (by decide) rfl).trans (by simp only [Op.instr, hdOf_mkE, eOf_mkE]; try rfl)
theorem RoundTrip.mpush (h : Hd) (f : EFmt) : RoundTrip.Statement (.mpush h f) := by
  rintro k w ⟨⟩ _
  exact (decodeE _ .mpush h f (by decide) rfl).trans (by simp only [Op.instr, hdOf_mkE, eOf_mkE]; try rfl)
theorem RoundTrip.mpushe (h : Hd) (f : EFmt) : RoundTrip.Statement (.mpushe h f) := by
  rintro k w ⟨⟩ _
  exact (decodeE _ .mpushe h f (by decide) rfl).trans (by simp only [Op.instr, hdOf_mkE, eOf_mkE]; try rfl)
theorem RoundTrip.mclose (h : Hd) (f : EFmt) : RoundTrip.Statement (.mclose h f) := by
  rintro k w ⟨⟩ _
  exact (decodeE _ .mclose h f (by decide) rfl).trans (by simp only [Op.instr, hdOf_mkE, eOf_mkE]; try rfl)
theorem RoundTrip.mstat (h : Hd) (f : EFmt) : RoundTrip.Statement (.mstat h f) := by
  rintro k w ⟨⟩ _
  exact (decodeE _ .mstat h f (by decide) rfl).trans (by simp only [Op.instr, hdOf_mkE, eOf_mkE]; try rfl)
theorem RoundTrip.pxlkp (h : Hd) (f : EFmt) : RoundTrip.Statement (.pxlkp h f) := by
  rintro k w ⟨⟩ _
  exact (decodeE _ .pxlkp h f (by decide) rfl).trans (by simp only [Op.instr, hdOf_mkE, eOf_mkE]; try rfl)
theorem RoundTrip.pxins (h : Hd) (f : EFmt) : RoundTrip.Statement (.pxins h f) := by
  rintro k w ⟨⟩ _
  exact (decodeE _ .pxins h f (by decide) rfl).trans (by simp only [Op.instr, hdOf_mkE, eOf_mkE]; try rfl)
theorem RoundTrip.pxfrk (h : Hd) (f : EFmt) : RoundTrip.Statement (.pxfrk h f) := by
  rintro k w ⟨⟩ _
  exact (decodeE _ .pxfrk h f (by decide) rfl).trans (by simp only [Op.instr, hdOf_mkE, eOf_mkE]; try rfl)
theorem RoundTrip.pxapp (h : Hd) (f : EFmt) : RoundTrip.Statement (.pxapp h f) := by
  rintro k w ⟨⟩ _
  exact (decodeE _ .pxapp h f (by decide) rfl).trans (by simp only [Op.instr, hdOf_mkE, eOf_mkE]; try rfl)
theorem RoundTrip.pxrel (h : Hd) (f : EFmt) : RoundTrip.Statement (.pxrel h f) := by
  rintro k w ⟨⟩ _
  exact (decodeE _ .pxrel h f (by decide) rfl).trans (by simp only [Op.instr, hdOf_mkE, eOf_mkE]; try rfl)
theorem RoundTrip.xroute (h : Hd) (f : EFmt) : RoundTrip.Statement (.xroute h f) := by
  rintro k w ⟨⟩ _
  exact (decodeE _ .xroute h f (by decide) rfl).trans (by simp only [Op.instr, hdOf_mkE, eOf_mkE]; try rfl)
theorem RoundTrip.take (h : Hd) (f : EFmt) : RoundTrip.Statement (.take h f) := by
  rintro k w ⟨⟩ _
  exact (decodeE _ .take h f (by decide) rfl).trans (by simp only [Op.instr, hdOf_mkE, eOf_mkE]; try rfl)
theorem RoundTrip.launch (h : Hd) (f : EFmt) : RoundTrip.Statement (.launch h f) := by
  rintro k w ⟨⟩ _
  exact (decodeE _ .launch h f (by decide) rfl).trans (by simp only [Op.instr, hdOf_mkE, eOf_mkE]; try rfl)
theorem RoundTrip.send (h : Hd) (f : EFmt) : RoundTrip.Statement (.send h f) := by
  rintro k w ⟨⟩ _
  exact (decodeE _ .send h f (by decide) rfl).trans (by simp only [Op.instr, hdOf_mkE, eOf_mkE]; try rfl)
theorem RoundTrip.recv (h : Hd) (f : EFmt) : RoundTrip.Statement (.recv h f) := by
  rintro k w ⟨⟩ _
  exact (decodeE _ .recv h f (by decide) rfl).trans (by simp only [Op.instr, hdOf_mkE, eOf_mkE]; try rfl)
theorem RoundTrip.recva (h : Hd) (f : EFmt) : RoundTrip.Statement (.recva h f) := by
  rintro k w ⟨⟩ _
  exact (decodeE _ .recva h f (by decide) rfl).trans (by simp only [Op.instr, hdOf_mkE, eOf_mkE]; try rfl)
theorem RoundTrip.coll (h : Hd) (f : EFmt) : RoundTrip.Statement (.coll h f) := by
  rintro k w ⟨⟩ _
  exact (decodeE _ .coll h f (by decide) rfl).trans (by simp only [Op.instr, hdOf_mkE, eOf_mkE]; try rfl)
theorem RoundTrip.sgrd (h : Hd) (f : EFmt) : RoundTrip.Statement (.sgrd h f) := by
  rintro k w ⟨⟩ _
  exact (decodeE _ .sgrd h f (by decide) rfl).trans (by simp only [Op.instr, hdOf_mkE, eOf_mkE]; try rfl)
theorem RoundTrip.rplack (h : Hd) (f : EFmt) : RoundTrip.Statement (.rplack h f) := by
  rintro k w ⟨⟩ _
  exact (decodeE _ .rplack h f (by decide) rfl).trans (by simp only [Op.instr, hdOf_mkE, eOf_mkE]; try rfl)
theorem RoundTrip.bxfer (h : Hd) (f : EFmt) : RoundTrip.Statement (.bxfer h f) := by
  rintro k w ⟨⟩ _
  exact (decodeE _ .bxfer h f (by decide) rfl).trans (by simp only [Op.instr, hdOf_mkE, eOf_mkE]; try rfl)
theorem RoundTrip.wait (h : Hd) (f : EFmt) : RoundTrip.Statement (.wait h f) := by
  rintro k w ⟨⟩ hl
  have hv : h.fmt ≠ 1 := by
    unfold Instr.wellFormed at hl
    simp only [encodeWord, Option.isSome_some, if_true, Bool.and_eq_true] at hl
    simpa [Instr.variantOk] using hl.1
  have hf : spaceOp .sy (Op.code .wait).toNat h.fmt.toNat = some .wait :=
    congrArg some (if_neg (fun e => hv (BitVec.eq_of_toNat_eq (e.trans rfl))))
  exact (decodeE _ .wait h f (by decide) hf).trans (by simp only [Op.instr, hdOf_mkE, eOf_mkE])
theorem RoundTrip.waitPh (h : Hd) (f : EFmt) : RoundTrip.Statement (.waitPh h f) := by
  rintro k w ⟨⟩ hl
  have hv : h.fmt = 1 := by
    unfold Instr.wellFormed at hl
    simp only [encodeWord, Option.isSome_some, if_true, Bool.and_eq_true] at hl
    simpa [Instr.variantOk] using hl.1
  have hf : spaceOp .sy (Op.code .waitPh).toNat h.fmt.toNat = some .waitPh := by rw [hv]; rfl
  exact (decodeE _ .waitPh h f (by decide) hf).trans (by simp only [Op.instr, hdOf_mkE, eOf_mkE])
theorem RoundTrip.waits (h : Hd) (f : EFmt) : RoundTrip.Statement (.waits h f) := by
  rintro k w ⟨⟩ _
  exact (decodeE _ .waits h f (by decide) rfl).trans (by simp only [Op.instr, hdOf_mkE, eOf_mkE]; try rfl)
theorem RoundTrip.post (h : Hd) (f : EFmt) : RoundTrip.Statement (.post h f) := by
  rintro k w ⟨⟩ _
  exact (decodeE _ .post h f (by decide) rfl).trans (by simp only [Op.instr, hdOf_mkE, eOf_mkE]; try rfl)
theorem RoundTrip.posts (h : Hd) (f : EFmt) : RoundTrip.Statement (.posts h f) := by
  rintro k w ⟨⟩ _
  exact (decodeE _ .posts h f (by decide) rfl).trans (by simp only [Op.instr, hdOf_mkE, eOf_mkE]; try rfl)
theorem RoundTrip.rpost (h : Hd) (f : EFmt) : RoundTrip.Statement (.rpost h f) := by
  rintro k w ⟨⟩ _
  exact (decodeE _ .rpost h f (by decide) rfl).trans (by simp only [Op.instr, hdOf_mkE, eOf_mkE]; try rfl)
theorem RoundTrip.expt (h : Hd) (f : EFmt) : RoundTrip.Statement (.expt h f) := by
  rintro k w ⟨⟩ _
  exact (decodeE _ .expt h f (by decide) rfl).trans (by simp only [Op.instr, hdOf_mkE, eOf_mkE]; try rfl)
theorem RoundTrip.arv (h : Hd) (f : EFmt) : RoundTrip.Statement (.arv h f) := by
  rintro k w ⟨⟩ _
  exact (decodeE _ .arv h f (by decide) rfl).trans (by simp only [Op.instr, hdOf_mkE, eOf_mkE]; try rfl)
theorem RoundTrip.arvw (h : Hd) (f : EFmt) : RoundTrip.Statement (.arvw h f) := by
  rintro k w ⟨⟩ _
  exact (decodeE _ .arvw h f (by decide) rfl).trans (by simp only [Op.instr, hdOf_mkE, eOf_mkE]; try rfl)
theorem RoundTrip.bwait (h : Hd) (f : EFmt) : RoundTrip.Statement (.bwait h f) := by
  rintro k w ⟨⟩ _
  exact (decodeE _ .bwait h f (by decide) rfl).trans (by simp only [Op.instr, hdOf_mkE, eOf_mkE]; try rfl)
theorem RoundTrip.strag (h : Hd) (f : EFmt) : RoundTrip.Statement (.strag h f) := by
  rintro k w ⟨⟩ _
  exact (decodeE _ .strag h f (by decide) rfl).trans (by simp only [Op.instr, hdOf_mkE, eOf_mkE]; try rfl)
theorem RoundTrip.gate (h : Hd) (f : EFmt) : RoundTrip.Statement (.gate h f) := by
  rintro k w ⟨⟩ hl
  have hv : h.fmt ≠ 1 := by
    unfold Instr.wellFormed at hl
    simp only [encodeWord, Option.isSome_some, if_true, Bool.and_eq_true] at hl
    simpa [Instr.variantOk] using hl.1
  have hf : spaceOp .sy (Op.code .gate).toNat h.fmt.toNat = some .gate :=
    congrArg some (if_neg (fun e => hv (BitVec.eq_of_toNat_eq (e.trans rfl))))
  exact (decodeE _ .gate h f (by decide) hf).trans (by simp only [Op.instr, hdOf_mkE, eOf_mkE])
theorem RoundTrip.gateS (h : Hd) (f : EFmt) : RoundTrip.Statement (.gateS h f) := by
  rintro k w ⟨⟩ hl
  have hv : h.fmt = 1 := by
    unfold Instr.wellFormed at hl
    simp only [encodeWord, Option.isSome_some, if_true, Bool.and_eq_true] at hl
    simpa [Instr.variantOk] using hl.1
  have hf : spaceOp .sy (Op.code .gateS).toNat h.fmt.toNat = some .gateS := by rw [hv]; rfl
  exact (decodeE _ .gateS h f (by decide) hf).trans (by simp only [Op.instr, hdOf_mkE, eOf_mkE])
theorem RoundTrip.efence (h : Hd) (f : EFmt) : RoundTrip.Statement (.efence h f) := by
  rintro k w ⟨⟩ _
  exact (decodeE _ .efence h f (by decide) rfl).trans (by simp only [Op.instr, hdOf_mkE, eOf_mkE]; try rfl)
theorem RoundTrip.ifence (h : Hd) (f : EFmt) : RoundTrip.Statement (.ifence h f) := by
  rintro k w ⟨⟩ _
  exact (decodeE _ .ifence h f (by decide) rfl).trans (by simp only [Op.instr, hdOf_mkE, eOf_mkE]; try rfl)
theorem RoundTrip.yield (h : Hd) (f : EFmt) : RoundTrip.Statement (.yield h f) := by
  rintro k w ⟨⟩ _
  exact (decodeE _ .yield h f (by decide) rfl).trans (by simp only [Op.instr, hdOf_mkE, eOf_mkE]; try rfl)
theorem RoundTrip.sleep (h : Hd) (f : EFmt) : RoundTrip.Statement (.sleep h f) := by
  rintro k w ⟨⟩ hl
  have hv : h.fmt ≠ 1 := by
    unfold Instr.wellFormed at hl
    simp only [encodeWord, Option.isSome_some, if_true, Bool.and_eq_true] at hl
    simpa [Instr.variantOk] using hl.1
  have hf : spaceOp .sy (Op.code .sleep).toNat h.fmt.toNat = some .sleep :=
    congrArg some (if_neg (fun e => hv (BitVec.eq_of_toNat_eq (e.trans rfl))))
  exact (decodeE _ .sleep h f (by decide) hf).trans (by simp only [Op.instr, hdOf_mkE, eOf_mkE])
theorem RoundTrip.sleepS (h : Hd) (f : EFmt) : RoundTrip.Statement (.sleepS h f) := by
  rintro k w ⟨⟩ hl
  have hv : h.fmt = 1 := by
    unfold Instr.wellFormed at hl
    simp only [encodeWord, Option.isSome_some, if_true, Bool.and_eq_true] at hl
    simpa [Instr.variantOk] using hl.1
  have hf : spaceOp .sy (Op.code .sleepS).toNat h.fmt.toNat = some .sleepS := by rw [hv]; rfl
  exact (decodeE _ .sleepS h f (by decide) hf).trans (by simp only [Op.instr, hdOf_mkE, eOf_mkE])
theorem RoundTrip.frd (h : Hd) (f : EFmt) : RoundTrip.Statement (.frd h f) := by
  rintro k w ⟨⟩ _
  exact (decodeE _ .frd h f (by decide) rfl).trans (by simp only [Op.instr, hdOf_mkE, eOf_mkE]; try rfl)
theorem RoundTrip.fclr (h : Hd) (f : EFmt) : RoundTrip.Statement (.fclr h f) := by
  rintro k w ⟨⟩ _
  exact (decodeE _ .fclr h f (by decide) rfl).trans (by simp only [Op.instr, hdOf_mkE, eOf_mkE]; try rfl)
theorem RoundTrip.bphase (h : Hd) (f : EFmt) : RoundTrip.Statement (.bphase h f) := by
  rintro k w ⟨⟩ _
  exact (decodeE _ .bphase h f (by decide) rfl).trans (by simp only [Op.instr, hdOf_mkE, eOf_mkE]; try rfl)
theorem RoundTrip.waitm (h : Hd) (f : EFmt) : RoundTrip.Statement (.waitm h f) := by
  rintro k w ⟨⟩ _
  exact (decodeE _ .waitm h f (by decide) rfl).trans (by simp only [Op.instr, hdOf_mkE, eOf_mkE]; try rfl)
theorem RoundTrip.moduleReset : RoundTrip.Statement (.moduleReset) := by rintro k w ⟨⟩
theorem RoundTrip.bootStage (m : Manifest) : RoundTrip.Statement (.bootStage m) := by rintro k w ⟨⟩
theorem RoundTrip.powerSample (mw : Vector (BitVec 32) 6) (temp : BitVec 32) : RoundTrip.Statement (.powerSample mw temp) := by rintro k w ⟨⟩
theorem RoundTrip.throttleRaise : RoundTrip.Statement (.throttleRaise) := by rintro k w ⟨⟩
theorem RoundTrip.throttleLower : RoundTrip.Statement (.throttleLower) := by rintro k w ⟨⟩
theorem RoundTrip.powerAlarm : RoundTrip.Statement (.powerAlarm) := by rintro k w ⟨⟩
theorem RoundTrip.coreFrequencyChange (core : Nat) : RoundTrip.Statement (.coreFrequencyChange core) := by rintro k w ⟨⟩
theorem RoundTrip.patrolScrub (pa : Nat) (e : EccFinding) : RoundTrip.Statement (.patrolScrub pa e) := by rintro k w ⟨⟩
theorem RoundTrip.freezePin : RoundTrip.Statement (.freezePin) := by rintro k w ⟨⟩
theorem RoundTrip.thermalTrip (die : Nat) : RoundTrip.Statement (.thermalTrip die) := by rintro k w ⟨⟩
theorem RoundTrip.oarovFirmwareFault : RoundTrip.Statement (.oarovFirmwareFault) := by rintro k w ⟨⟩
theorem RoundTrip.mgmtFreeze (q : MgmtReq) : RoundTrip.Statement (.mgmtFreeze q) := by rintro k w ⟨⟩
theorem RoundTrip.mgmtReadOut (q : MgmtReq) : RoundTrip.Statement (.mgmtReadOut q) := by rintro k w ⟨⟩
theorem RoundTrip.mgmtPowerLimit (q : MgmtReq) (watts : Nat) : RoundTrip.Statement (.mgmtPowerLimit q watts) := by rintro k w ⟨⟩
theorem RoundTrip.mgmtImageReplacement (q : MgmtReq) (stage : Nat) (m : Manifest) : RoundTrip.Statement (.mgmtImageReplacement q stage m) := by rintro k w ⟨⟩
theorem RoundTrip.mgmtLoaderKeyEnrol (q : MgmtReq) (key : List Byte) : RoundTrip.Statement (.mgmtLoaderKeyEnrol q key) := by rintro k w ⟨⟩
theorem RoundTrip.mgmtRegisterRead (off : Nat) (q : MgmtReq) : RoundTrip.Statement (.mgmtRegisterRead off q) := by rintro k w ⟨⟩
theorem RoundTrip.mgmtTelemetryRead (sel : BitVec 3) (q : MgmtReq) : RoundTrip.Statement (.mgmtTelemetryRead sel q) := by rintro k w ⟨⟩
theorem RoundTrip.mgmtCertificateRead (q : MgmtReq) : RoundTrip.Statement (.mgmtCertificateRead q) := by rintro k w ⟨⟩
theorem RoundTrip.mgmtAttestation (nonce : BitVec 256) (q : MgmtReq) : RoundTrip.Statement (.mgmtAttestation nonce q) := by rintro k w ⟨⟩
theorem RoundTrip.mbcmdAttestation (v : Word) : RoundTrip.Statement (.mbcmdAttestation v) := by rintro k w ⟨⟩
theorem RoundTrip.mailboxDone : RoundTrip.Statement (.mailboxDone) := by rintro k w ⟨⟩
theorem RoundTrip.registerWrite (addr : Nat) (width : Nat) (v : Word) : RoundTrip.Statement (.registerWrite addr width v) := by rintro k w ⟨⟩
theorem RoundTrip.flitReceive (link : Nat) (bytes : List Byte) : RoundTrip.Statement (.flitReceive link bytes) := by rintro k w ⟨⟩
theorem RoundTrip.retryRequestReceive (link : Nat) (seq : BitVec 12) : RoundTrip.Statement (.retryRequestReceive link seq) := by rintro k w ⟨⟩
theorem RoundTrip.linkFlitSlot (link : Nat) : RoundTrip.Statement (.linkFlitSlot link) := by rintro k w ⟨⟩
theorem RoundTrip.linkRetrain (link : Nat) : RoundTrip.Statement (.linkRetrain link) := by rintro k w ⟨⟩
theorem RoundTrip.linkDisable (link : Nat) : RoundTrip.Statement (.linkDisable link) := by rintro k w ⟨⟩
theorem RoundTrip.linkTrained (link : Nat) (peerMod : BitVec 12) (peerZb : Bool) : RoundTrip.Statement (.linkTrained link peerMod peerZb) := by rintro k w ⟨⟩
theorem RoundTrip.linkTrainingTimeout (link : Nat) : RoundTrip.Statement (.linkTrainingTimeout link) := by rintro k w ⟨⟩
theorem RoundTrip.laneLockLoss (link : Nat) : RoundTrip.Statement (.laneLockLoss link) := by rintro k w ⟨⟩
theorem RoundTrip.linkStall (link : Nat) : RoundTrip.Statement (.linkStall link) := by rintro k w ⟨⟩
theorem RoundTrip.messageForward (m : Msg) : RoundTrip.Statement (.messageForward m) := by rintro k w ⟨⟩
theorem RoundTrip.sendRequestArrive (m : Msg) : RoundTrip.Statement (.sendRequestArrive m) := by rintro k w ⟨⟩
theorem RoundTrip.sendGrantArrive (m : Msg) : RoundTrip.Statement (.sendGrantArrive m) := by rintro k w ⟨⟩
theorem RoundTrip.sendRefusalArrive (m : Msg) : RoundTrip.Statement (.sendRefusalArrive m) := by rintro k w ⟨⟩
theorem RoundTrip.sendRetryTimer (core : Nat) (job : Nat) : RoundTrip.Statement (.sendRetryTimer core job) := by rintro k w ⟨⟩
theorem RoundTrip.typedDataArrive (m : Msg) : RoundTrip.Statement (.typedDataArrive m) := by rintro k w ⟨⟩
theorem RoundTrip.blockTransferArrive (m : Msg) : RoundTrip.Statement (.blockTransferArrive m) := by rintro k w ⟨⟩
theorem RoundTrip.transferAckArrive (m : Msg) : RoundTrip.Statement (.transferAckArrive m) := by rintro k w ⟨⟩
theorem RoundTrip.remotePostArrive (m : Msg) : RoundTrip.Statement (.remotePostArrive m) := by rintro k w ⟨⟩
theorem RoundTrip.remoteBarrierArrival (m : Msg) : RoundTrip.Statement (.remoteBarrierArrival m) := by rintro k w ⟨⟩
theorem RoundTrip.pxRemoteCommand (m : Msg) : RoundTrip.Statement (.pxRemoteCommand m) := by rintro k w ⟨⟩
theorem RoundTrip.collJobStart (g : Nat) : RoundTrip.Statement (.collJobStart g) := by rintro k w ⟨⟩
theorem RoundTrip.collContributionArrive (m : Msg) : RoundTrip.Statement (.collContributionArrive m) := by rintro k w ⟨⟩
theorem RoundTrip.collJobComplete (g : Nat) : RoundTrip.Statement (.collJobComplete g) := by rintro k w ⟨⟩
theorem RoundTrip.collTimeout (g : Nat) : RoundTrip.Statement (.collTimeout g) := by rintro k w ⟨⟩
theorem RoundTrip.launchQueueTailWrite (n : Nat) (v : Word) : RoundTrip.Statement (.launchQueueTailWrite n v) := by rintro k w ⟨⟩
theorem RoundTrip.launchRecordRead : RoundTrip.Statement (.launchRecordRead) := by rintro k w ⟨⟩
theorem RoundTrip.consumerHeadWrite (r : DevRing) (v : Word) : RoundTrip.Statement (.consumerHeadWrite r v) := by rintro k w ⟨⟩
theorem RoundTrip.taskComplete (task : Nat) : RoundTrip.Statement (.taskComplete task) := by rintro k w ⟨⟩
theorem RoundTrip.completionDrain : RoundTrip.Statement (.completionDrain) := by rintro k w ⟨⟩
theorem RoundTrip.faultRecordDrain : RoundTrip.Statement (.faultRecordDrain) := by rintro k w ⟨⟩
theorem RoundTrip.translationChannelTailWrite (v : Word) : RoundTrip.Statement (.translationChannelTailWrite v) := by rintro k w ⟨⟩
theorem RoundTrip.ptwrite : RoundTrip.Statement (.ptwrite) := by rintro k w ⟨⟩
theorem RoundTrip.inval : RoundTrip.Statement (.inval) := by rintro k w ⟨⟩
theorem RoundTrip.replay : RoundTrip.Statement (.replay) := by rintro k w ⟨⟩
theorem RoundTrip.kill : RoundTrip.Statement (.kill) := by rintro k w ⟨⟩
theorem RoundTrip.retire : RoundTrip.Statement (.retire) := by rintro k w ⟨⟩
theorem RoundTrip.mark : RoundTrip.Statement (.mark) := by rintro k w ⟨⟩
theorem RoundTrip.tlbMissWalk (r : Requester) : RoundTrip.Statement (.tlbMissWalk r) := by rintro k w ⟨⟩
theorem RoundTrip.pageWalkComplete (r : Requester) : RoundTrip.Statement (.pageWalkComplete r) := by rintro k w ⟨⟩
theorem RoundTrip.keyLoad : RoundTrip.Statement (.keyLoad) := by rintro k w ⟨⟩
theorem RoundTrip.keyClear : RoundTrip.Statement (.keyClear) := by rintro k w ⟨⟩
theorem RoundTrip.keyCommandFinish : RoundTrip.Statement (.keyCommandFinish) := by rintro k w ⟨⟩
theorem RoundTrip.tierFramePop (t : Nat) : RoundTrip.Statement (.tierFramePop t) := by rintro k w ⟨⟩
theorem RoundTrip.tierFramePush (t : Nat) (v : Word) : RoundTrip.Statement (.tierFramePush t v) := by rintro k w ⟨⟩
theorem RoundTrip.tierClockStep (t : Nat) : RoundTrip.Statement (.tierClockStep t) := by rintro k w ⟨⟩
theorem RoundTrip.demotionStart (t : Nat) : RoundTrip.Statement (.demotionStart t) := by rintro k w ⟨⟩
theorem RoundTrip.demotionDrain (t : Nat) : RoundTrip.Statement (.demotionDrain t) := by rintro k w ⟨⟩
theorem RoundTrip.demotionFinish (t : Nat) : RoundTrip.Statement (.demotionFinish t) := by rintro k w ⟨⟩
theorem RoundTrip.storageOutRecord (t : Nat) : RoundTrip.Statement (.storageOutRecord t) := by rintro k w ⟨⟩
theorem RoundTrip.mediaRingConfigWrite (n : Nat) (size : Bool) (v : Word) : RoundTrip.Statement (.mediaRingConfigWrite n size v) := by rintro k w ⟨⟩
theorem RoundTrip.mediaCardPoll (n : Nat) : RoundTrip.Statement (.mediaCardPoll n) := by rintro k w ⟨⟩
theorem RoundTrip.decodeCard (n : Nat) : RoundTrip.Statement (.decodeCard n) := by rintro k w ⟨⟩
theorem RoundTrip.resizeCard (n : Nat) : RoundTrip.Statement (.resizeCard n) := by rintro k w ⟨⟩
theorem RoundTrip.mediaCardComplete (n : Nat) : RoundTrip.Statement (.mediaCardComplete n) := by rintro k w ⟨⟩
theorem RoundTrip.nvmeCompletion (e : Nat) (cid : Nat) (sf : BitVec 15) (data : List Byte) : RoundTrip.Statement (.nvmeCompletion e cid sf data) := by rintro k w ⟨⟩
theorem RoundTrip.nvmeCommandTimeout (e : Nat) (cid : Nat) : RoundTrip.Statement (.nvmeCommandTimeout e cid) := by rintro k w ⟨⟩
theorem RoundTrip.cxlLinkDown (p : Nat) : RoundTrip.Statement (.cxlLinkDown p) := by rintro k w ⟨⟩
theorem RoundTrip.pxDisable (p : Nat) (v : Word) : RoundTrip.Statement (.pxDisable p v) := by rintro k w ⟨⟩
theorem RoundTrip.pxInit (p : Nat) : RoundTrip.Statement (.pxInit p) := by rintro k w ⟨⟩
theorem RoundTrip.pxInitComplete (p : Nat) : RoundTrip.Statement (.pxInitComplete p) := by rintro k w ⟨⟩
theorem RoundTrip.pxRequantStart (p : Nat) : RoundTrip.Statement (.pxRequantStart p) := by rintro k w ⟨⟩
theorem RoundTrip.pxRequantStep (p : Nat) : RoundTrip.Statement (.pxRequantStep p) := by rintro k w ⟨⟩
theorem RoundTrip.pxReclaim (p : Nat) (t : Word) : RoundTrip.Statement (.pxReclaim p t) := by rintro k w ⟨⟩
theorem RoundTrip.lookup : RoundTrip.Statement (.lookup) := by rintro k w ⟨⟩
theorem RoundTrip.insert : RoundTrip.Statement (.insert) := by rintro k w ⟨⟩
theorem RoundTrip.fork : RoundTrip.Statement (.fork) := by rintro k w ⟨⟩
theorem RoundTrip.append : RoundTrip.Statement (.append) := by rintro k w ⟨⟩
theorem RoundTrip.release : RoundTrip.Statement (.release) := by rintro k w ⟨⟩
theorem RoundTrip.taskPlacementAssign (task : Nat) : RoundTrip.Statement (.taskPlacementAssign task) := by rintro k w ⟨⟩
theorem RoundTrip.placementSelect (task : Nat) : RoundTrip.Statement (.placementSelect task) := by rintro k w ⟨⟩
theorem RoundTrip.reserveRequest (core : Nat) (task : Nat) : RoundTrip.Statement (.reserveRequest core task) := by rintro k w ⟨⟩
theorem RoundTrip.phase1Result (task : Nat) : RoundTrip.Statement (.phase1Result task) := by rintro k w ⟨⟩
theorem RoundTrip.reservationTimeout (core : Nat) : RoundTrip.Statement (.reservationTimeout core) := by rintro k w ⟨⟩
theorem RoundTrip.placementBackoffExpiry (task : Nat) : RoundTrip.Statement (.placementBackoffExpiry task) := by rintro k w ⟨⟩
theorem RoundTrip.holdSlotGrant (die : Nat) : RoundTrip.Statement (.holdSlotGrant die) := by rintro k w ⟨⟩
theorem RoundTrip.quantumBoundary (die : Nat) : RoundTrip.Statement (.quantumBoundary die) := by rintro k w ⟨⟩
theorem RoundTrip.stopRequest (task : Nat) : RoundTrip.Statement (.stopRequest task) := by rintro k w ⟨⟩
theorem RoundTrip.stopCutBroadcast (task : Nat) : RoundTrip.Statement (.stopCutBroadcast task) := by rintro k w ⟨⟩
theorem RoundTrip.stopTimeout (task : Nat) : RoundTrip.Statement (.stopTimeout task) := by rintro k w ⟨⟩
theorem RoundTrip.swapOut (task : Nat) : RoundTrip.Statement (.swapOut task) := by rintro k w ⟨⟩
theorem RoundTrip.swapIn (task : Nat) : RoundTrip.Statement (.swapIn task) := by rintro k w ⟨⟩
theorem RoundTrip.takeClaim (core : Nat) (ctx : Nat) : RoundTrip.Statement (.takeClaim core ctx) := by rintro k w ⟨⟩
theorem RoundTrip.deviceLaunch (core : Nat) (ctx : Nat) : RoundTrip.Statement (.deviceLaunch core ctx) := by rintro k w ⟨⟩
theorem RoundTrip.xrouteApply (core : Nat) (ctx : Nat) : RoundTrip.Statement (.xrouteApply core ctx) := by rintro k w ⟨⟩
theorem RoundTrip.xrouteResume (task : Nat) : RoundTrip.Statement (.xrouteResume task) := by rintro k w ⟨⟩
theorem RoundTrip.resultLand (core : Nat) : RoundTrip.Statement (.resultLand core) := by rintro k w ⟨⟩
theorem RoundTrip.loadReturn (core : Nat) (ctx : Nat) : RoundTrip.Statement (.loadReturn core ctx) := by rintro k w ⟨⟩
theorem RoundTrip.varResultReturn (core : Nat) (ctx : Nat) : RoundTrip.Statement (.varResultReturn core ctx) := by rintro k w ⟨⟩
theorem RoundTrip.trapEntry (core : Nat) (ctx : Nat) : RoundTrip.Statement (.trapEntry core ctx) := by rintro k w ⟨⟩
theorem RoundTrip.watchdog (core : Nat) (ctx : Nat) : RoundTrip.Statement (.watchdog core ctx) := by rintro k w ⟨⟩
theorem RoundTrip.sleepExpiry (core : Nat) (ctx : Nat) : RoundTrip.Statement (.sleepExpiry core ctx) := by rintro k w ⟨⟩
theorem RoundTrip.copyJobStart (core : Nat) : RoundTrip.Statement (.copyJobStart core) := by rintro k w ⟨⟩
theorem RoundTrip.copyJobComplete (core : Nat) : RoundTrip.Statement (.copyJobComplete core) := by rintro k w ⟨⟩
theorem RoundTrip.matrixJobStart (core : Nat) : RoundTrip.Statement (.matrixJobStart core) := by rintro k w ⟨⟩
theorem RoundTrip.matrixJobComplete (core : Nat) : RoundTrip.Statement (.matrixJobComplete core) := by rintro k w ⟨⟩
theorem RoundTrip.mergeOpenApply (cluster : Nat) : RoundTrip.Statement (.mergeOpenApply cluster) := by rintro k w ⟨⟩
theorem RoundTrip.mergePushApply (cluster : Nat) : RoundTrip.Statement (.mergePushApply cluster) := by rintro k w ⟨⟩
theorem RoundTrip.mergeCloseApply (cluster : Nat) : RoundTrip.Statement (.mergeCloseApply cluster) := by rintro k w ⟨⟩
theorem RoundTrip.mergeStatusApply (cluster : Nat) : RoundTrip.Statement (.mergeStatusApply cluster) := by rintro k w ⟨⟩
theorem RoundTrip.loadBlockSettled (core : Nat) (id : Nat) : RoundTrip.Statement (.loadBlockSettled core id) := by rintro k w ⟨⟩
theorem RoundTrip.rplackComplete (core : Nat) (ctx : Nat) : RoundTrip.Statement (.rplackComplete core ctx) := by rintro k w ⟨⟩
theorem RoundTrip.cxlLinkUp (p : Nat) : RoundTrip.Statement (.cxlLinkUp p) := by rintro k w ⟨⟩
theorem RoundTrip.rinkRowFilled (core : Nat) (k : Nat) : RoundTrip.Statement (.rinkRowFilled core k) := by rintro k w ⟨⟩
theorem RoundTrip.pxRemoteReplyArrive (m : Msg) : RoundTrip.Statement (.pxRemoteReplyArrive m) := by rintro k w ⟨⟩

end Sys2Proof.Laws
end

