-- ==== Sys2Proof/Tests/Slice0.lean ====
section
/-!
SUPPORT. Tests: words written out in the manual's own examples decode to what they stand for; ill-formed instructions are
refused; one step on small states; and a witness for each statement that has hypotheses.
-/

set_option Elab.async false

namespace Sys2Proof.Tests

open Machine

/-- The head fields of an unconditional instruction that writes its destination. -/
def hw : Hd := ⟨0, true, 0, false⟩
/-- The head fields of an unconditional instruction without a destination. -/
def h0 : Hd := ⟨0, false, 0, false⟩

/-! Words of spec/14 (R312), spec/16 (R359), spec/20 (R445), spec/21, spec/22 and spec/23. -/

theorem test_decode_add : decodeSlot .sc 0x0108014060400000 = .ok (.add hw ⟨5, 3, 4, 0, 0⟩) := by decide +kernel
theorem test_decode_vfadd : decodeSlot .vb 0x1708053040B00000 = .ok (.vfadd .b hw ⟨20, 386, 11, 0, 0⟩) := by decide +kernel
theorem test_decode_ldv : decodeSlot .ld 0x080A844060000080 = .ok (.ldv ⟨0, true, 2, true⟩ ⟨17, 3, 0x80⟩) := by decide +kernel
theorem test_decode_ldt : decodeSlot .ld 0x0C08004000000000 = .ok (.ldt hw ⟨1, 0, 0⟩) := by decide +kernel
theorem test_decode_ldvx : decodeSlot .ld 0x0908004020600007 = .ok (.ldvx hw ⟨1, 1, 6, 0, 7⟩) := by decide +kernel
theorem test_decode_tsexti : decodeSlot .mt 0x0B0801406000000C = .ok (.tsexti hw ⟨5, 3, 12⟩) := by decide +kernel
theorem test_decode_mmul : decodeSlot .mt 0x2008010020201821 = .ok (.mmul hw ⟨4, 1, 2, 3, 0x21⟩) := by decide +kernel
theorem test_decode_wait : decodeSlot .sy 0x0100000000000840 = .ok (.wait h0 ⟨0, 0, 0, 1, 1, 0⟩) := by decide +kernel
theorem test_decode_wait_ph : decodeSlot .sy 0x01100002A0000080 = .ok (.waitPh ⟨1, false, 0, false⟩ ⟨0, 21, 0, 0, 2, 0⟩) := by
  decide +kernel
theorem test_decode_expt : decodeSlot .sy 0x0600000000001880 = .ok (.expt h0 ⟨0, 0, 0, 3, 2, 0⟩) := by decide +kernel
theorem test_decode_strag : decodeSlot .sy 0x0A08030000000000 = .ok (.strag hw ⟨12, 0, 0, 0, 0, 0⟩) := by decide +kernel
theorem test_decode_cgomm : decodeSlot .eg 0x04000140800000A0 = .ok (.cgomm h0 ⟨5, 4, 0, 0, 2, 0x20⟩) := by decide +kernel
theorem test_decode_mopen : decodeSlot .eg 0x1408054000000080 = .ok (.mopen hw ⟨21, 0, 0, 0, 2, 0⟩) := by decide +kernel
theorem test_decode_take : decodeSlot .eg 0x1F08008000000000 = .ok (.take hw ⟨2, 0, 0, 0, 0, 0⟩) := by decide +kernel
theorem test_decode_li : decodeSlot .sc 0x2508028000000004 = .ok (.li hw ⟨10, 4⟩) := by decide +kernel
theorem test_decode_loop : decodeSlot .sc 0x3600000140000004 = .ok (.loop h0 ⟨0, 10, 0, 0, 4⟩) := by decide +kernel
theorem test_decode_addi : decodeSlot .sc 0x1E0802C160000003 = .ok (.addi hw ⟨11, 11, 3⟩) := by decide +kernel
theorem test_decode_sel : decodeSlot .sc 0x1B08038040402800 = .ok (.sel hw ⟨14, 2, 4, 5, 0⟩) := by decide +kernel
theorem test_decode_plog : decodeSlot .sc 0x27080180A060000E = .ok (.plog hw ⟨6, 5, 6, 0, 14⟩) := by decide +kernel
theorem test_decode_exit : decodeSlot .sc 0x3B00000000000000 = .ok (.exit h0 ⟨0, 0, 0, 0, 0⟩) := by decide +kernel
theorem test_decode_vrfadd : decodeSlot .va 0x4508020060000000 = .ok (.vrfadd .a hw ⟨8, 3, 0, 0, 0⟩) := by decide +kernel
theorem test_decode_vins : decodeSlot .va 0x4108024120800002 = .ok (.vins .a hw ⟨9, 9, 8, 0, 2⟩) := by decide +kernel
/-- A word that holds only operand bits is no NOP (R311). -/
theorem test_decode_nop_bits : decodeSlot .sc 1 = .error (.nopBits .sc) := by decide +kernel
/-- An unassigned point is refused by name (R317). -/
theorem test_decode_unassigned : decodeSlot .sc 0xFF00000000000000 = .error (.unassigned .sc 0xFF) := by decide +kernel

/-! Ill-formed terms, one for each check. -/

theorem test_wf_good : (Instr.add hw ⟨5, 3, 4, 0, 0⟩).wellFormed = true := by decide +kernel
/-- A reserved bit of ADD is set (R311). -/
theorem test_wf_reserved : (Instr.add hw ⟨5, 3, 4, 0, 1⟩).wellFormed = false := by decide +kernel
/-- A register number names no scalar (R310). -/
theorem test_wf_register : (Instr.add hw ⟨5, 100, 4, 0, 0⟩).wellFormed = false := by decide +kernel
/-- A variant that ADD does not list (R314). -/
theorem test_wf_variant : (Instr.add ⟨9, true, 0, false⟩ ⟨5, 3, 4, 0, 0⟩).wellFormed = false := by decide +kernel
/-- WAIT with the variant of WAIT.ph. -/
theorem test_wf_row : (Instr.wait ⟨1, false, 0, false⟩ ⟨0, 0, 0, 1, 1, 0⟩).wellFormed = false := by decide +kernel
/-- An event that names no core. -/
theorem test_wf_core : (Instr.resultLand 1024).wellFormed = false := by decide +kernel
theorem test_wf_link : (Instr.linkDisable 24).wellFormed = false := by decide +kernel

/-! One step. -/

/-- The next state of an outcome. -/
def nextOf (o : Host.Outcome State Fault Refusal) : State :=
  match o with
  | .next t => t
  | _ => State.reset

/-- LI s10, 4 as the first bundle: its result is in flight, due in one cycle, and the next bundle follows. -/
theorem test_step_li :
    ((nextOf (step (State.reset.withFetchWord 64 0x2508028000000004))).ctx 0 0).flight.map (fun r => (r.pay, r.due)) =
      [(.reg .s 10 4 allBytes, 1)] := by decide +kernel
theorem test_step_li_pc : ((nextOf (step (State.reset.withFetchWord 64 0x2508028000000004))).ctx 0 0).pc = ⟨false, 1⟩ := by
  decide +kernel

/-! Witnesses: a concrete state and operands that meet the hypotheses of each statement. -/

/-- A module past its boot, with context 0 of core 0 running on an empty bundle. -/
def base : State := State.reset.withFetchWord 64 0
/-- The same with a change to that context, or to its core. -/
def baseX (f : Ctx → Ctx) : State := base.modCtx 0 0 f
@[inherit_doc baseX] def baseC (f : Core → Core) : State := base.modCore 0 f
/-- A head with another variant. -/
def variant (h : Hd) (n : BitVec 4) : Hd := { h with fmt := n }
/-- Whether a computation answers. -/
def isOk {ε α : Type} (x : Except ε α) : Bool :=
  match x with
  | .ok _ => true
  | .error _ => false
/-- Whether a slot executes normally. -/
def readyAt (op : Op) (k : Slot) (w : Word) (h : Hd) (s : State) : Bool :=
  let e := s.env k h
  decide (s.iss.ask = .issue) && e.illegalAlone op w == none && e.predStop.isNone && e.enabled &&
    isOk (e.waits (op.sources w) (op.dests w)) && isOk (e.tileWait op w) && (e.operandStop op w).isNone

/-- A check that answers answers the unit. -/
theorem unit_of {ε : Type} {x : Except ε Unit} (h : isOk x = true) : x = .ok () := by
  cases x with
  | ok u => rfl
  | error e => simp [isOk] at h

/-- What that comes to. -/
theorem ready_of {op : Op} {k : Slot} {w : Word} {h : Hd} {s : State} (r : readyAt op k w h s = true) : Ready op k w h s := by
  simp only [readyAt, Bool.and_eq_true] at r
  obtain ⟨⟨⟨⟨⟨⟨r0, r1⟩, rp⟩, r2⟩, r3⟩, r4⟩, r5⟩ := r
  exact ⟨by simpa using r0, by simpa using r1, by simpa using rp, r2, unit_of r3, unit_of r4, by simpa using r5⟩
/-- A word of an opcode with every operand 0, and the least immediate it takes. -/
def plainWord (op : Op) (fmt : Nat) : Word :=
  let wr := match op.desc.dst with
    | .write _ | .readWrite _ | .pair _ => 1
    | _ => 0
  let low := match op with
    | .mpush => 1
    | .mfsrc | .mtsrc => 0x30
    | _ => 0
  BitVec.ofNat 64 (op.code.toNat * 2 ^ 56 + fmt * 2 ^ 52 + wr * 2 ^ 51 + low)
/-- The rows of a slot, by opcode and variant, whose plain word does not execute normally on the base module. -/
def notReady (k : Slot) : List (Nat × Nat) :=
  (List.range 256).flatMap fun n => [0, 1, 3].flatMap fun f =>
    match findOp k (BitVec.ofNat 64 (n * 2 ^ 56 + f * 2 ^ 52)) with
    | .ok op =>
      let w := plainWord op f
      if op.desc.fmts.head? = some f && !op.wrongVector k && !readyAt op k w (hdOf w) base then [(n, f)] else []
    | .error _ => []
/-! The first variant of every slot instruction executes normally on one state, with every source register read as 0. -/

theorem witness_ready_sc : notReady .sc = [] := by decide +kernel
theorem witness_ready_va : notReady .va = [] := by decide +kernel
theorem witness_ready_vb : notReady .vb = [] := by decide +kernel
theorem witness_ready_mt : notReady .mt = [] := by decide +kernel
theorem witness_ready_ld : notReady .ld = [] := by decide +kernel
theorem witness_ready_st : notReady .st = [] := by decide +kernel
theorem witness_ready_eg : notReady .eg = [] := by decide +kernel
theorem witness_ready_sy : notReady .sy = [] := by decide +kernel

/-- A capability to 64 bytes of object 5, at offset 8, with every right. -/
def cap5 : Cap := mkCap 5 8 64 0xFF 0 true
/-- The module with scalars s3 to s5 and s10, capability a3, and predicate p5. -/
def withRegs : State := baseX (fun x => { x with
  s := [(3, 7), (4, 2), (5, 1), (10, 4)]
  a := [(3, cap5)]
  p := [(5, true)] })

theorem witness_RoundTrip : (Instr.add hw ⟨5, 3, 4, 0, 0⟩).wellFormed = true ∧
    encodeWord (.add hw ⟨5, 3, 4, 0, 0⟩) = some (.sc, 0x0108014060400000) := by decide +kernel
theorem witness_ScalarTwoSource : Ready .add .sc (mkR Op.add.code hw ⟨5, 3, 4, 0, 0⟩) hw withRegs ∧
    (withRegs.env .sc hw).srcS 3 = .ok 7 ∧ (withRegs.env .sc hw).srcS 4 = .ok 2 := ⟨ready_of (by decide +kernel), rfl, rfl⟩
/-- A zero divisor with ARITHX.TDIV 1. -/
theorem witness_ScalarTwoSource_zero : let s := baseX (fun x => { x with sr := { x.sr with arithx := 1 } })
    Ready .div .sc (mkR Op.div.code hw ⟨5, 3, 4, 0, 0⟩) hw s ∧ (s.env .sc hw).srcS 4 = .ok 0 ∧
      (s.env .sc hw).x.sr.arithx.getLsbD 0 = true := ⟨ready_of (by decide +kernel), rfl, rfl⟩
/-- The last comparison of 32 bits. -/
theorem witness_ScalarOneSource : Ready .cmp .sc (mkR Op.cmp.code (variant hw 13) ⟨1, 3, 4, 0, 0⟩) (variant hw 13) withRegs ∧
    Ready .lih .sc (mkL Op.lih.code hw ⟨5, 1⟩) hw withRegs ∧ (withRegs.env .sc hw).srcS 5 = .ok 1 :=
  ⟨ready_of (by decide +kernel), ready_of (by decide +kernel), rfl⟩
theorem witness_PredicateLogic : Ready .plog .sc (mkR Op.plog.code hw ⟨6, 5, 6, 0, 15⟩) hw withRegs ∧
    (16 : BitVec 11).extractLsb' 4 7 ≠ 0 := ⟨ready_of (by decide +kernel), by decide⟩
theorem witness_ScalarFpCompletes : Ready .fdiv .sc (mkR Op.fdiv.code hw ⟨5, 3, 4, 0, 0⟩) hw withRegs ∧
    (withRegs.env .sc hw).FpQuiet (fDiv fp32 0 (unpack fp32 7) (unpack fp32 2)).2 := ⟨ready_of (by decide +kernel), by
  unfold Env.FpQuiet; decide +kernel⟩
/-- Zero by zero with every exception enabled. -/
theorem witness_ScalarFpCompletes_traps : let s := baseX (fun x => { x with sr := { x.sr with fpcsr := 0x1F00 } })
    Ready .fdiv .sc (mkR Op.fdiv.code hw ⟨5, 3, 4, 0, 0⟩) hw s ∧
    ¬ (s.env .sc hw).FpQuiet (fDiv fp32 0 (unpack fp32 0) (unpack fp32 0)).2 := ⟨ready_of (by decide +kernel), by
  unfold Env.FpQuiet; decide +kernel⟩
theorem witness_RepresentableRoundsToItself : 0x3F800000 < 2 ^ fp32.w ∧ (unpack fp32 0x3F800000).isNan = false := by decide +kernel
/-- A bound that reaches the end of the object, and one a byte past it. -/
theorem witness_CapabilityDerives : Ready .cbnd .sc (mkR Op.cbnd.code hw ⟨4, 3, 4, 0, 0⟩) hw withRegs ∧
    (withRegs.env .sc hw).srcA 3 = .ok cap5 ∧ cap5.valid = true ∧ cap5.off + 56 = cap5.len ∧
    (cap5.bound 56).valid = true ∧ (cap5.bound 57).valid = false := ⟨ready_of (by decide +kernel), rfl, by decide +kernel⟩
theorem witness_CapabilityDerives_check : Ready .cchk .sc (mkR Op.cchk.code h0 ⟨0, 3, 4, 0, 1⟩) h0 withRegs ∧
    (withRegs.env .sc h0).srcS 4 = .ok 2 ∧ (1 : BitVec 8) &&& ~~~cap5.rights = 0 ∧ 0 ≤ cap5.off ∧ cap5.off + 2 ≤ cap5.len ∧
    Cap.zero.valid = false ∧ (1 : BitVec 8) &&& ~~~(mkCap 5 8 64 0xFE 0 true).rights ≠ 0 ∧ (cap5.len : Int) < cap5.off + 57 :=
  ⟨ready_of (by decide +kernel), rfl, by decide +kernel⟩
/-- A loop of no pass, and one of four. -/
theorem witness_ControlTransfers : (withRegs.env .sc h0).x.tmpl = none ∧ Ready .loop .sc (mkB Op.loop.code h0 ⟨0, 10, 0, 0, 4⟩) h0 withRegs ∧
    (withRegs.env .sc h0).srcS 10 = .ok 4 ∧ (withRegs.env .sc h0).srcS 9 = .ok 0 :=
  ⟨by decide +kernel, ready_of (by decide +kernel), rfl, rfl⟩
/-- A context whose level 1 has a vector, at level 0, and the same at level 1. -/
def vectored : State := baseX (fun x => { x with sr := { x.sr with x1 := { x.sr.x1 with vec := 0x810 } } })
@[inherit_doc vectored] def trapped : State := vectored.modCtx 0 0 (fun x => { x with sr := { x.sr with xlvl := 1 } })
theorem witness_TrapAndReturn : (trapped.env .sc h0).x.tmpl = none ∧ Ready .tret .sc (mkR Op.tret.code h0 ⟨0, 0, 0, 0, 0⟩) h0 trapped ∧
    (trapped.env .sc h0).x.quietBefore = true ∧ (trapped.env .sc h0).x.sr.xlvl ≠ 0 ∧ (trapped.ctx 0 0).sr.xlvl.toNat = 1 :=
  ⟨by decide +kernel, ready_of (by decide +kernel), by decide +kernel⟩
theorem witness_TrapAndReturn_level0 : Ready .tret .sc (mkR Op.tret.code h0 ⟨0, 0, 0, 0, 0⟩) h0 vectored ∧
    (vectored.env .sc h0).x.quietBefore = true ∧ (vectored.env .sc h0).x.sr.xlvl = 0 ∧ Ready .nop .sc 0 (hdOf 0) vectored :=
  ⟨ready_of (by decide +kernel), by decide +kernel, by decide +kernel, ready_of (by decide +kernel)⟩
theorem witness_TrapEntry : Cause.divZero ≠ .translation ∧ 1 = (vectored.ctx 0 0).sr.xlvl.toNat + 1 ∧
    ((vectored.ctx 0 0).sr.bank 1).vec.getLsbD 11 = true ∧ ((trapped.ctx 0 0).sr.bank 2).vec.getLsbD 11 = false := by decide +kernel
/-- The least and the greatest extent, and the values next to them. -/
theorem witness_DimensionVariables : Ready .dset .sc (mkR Op.dset.code hw ⟨5, 3, 0, 0, 0⟩) hw withRegs ∧
    (1 ≤ 1 ∧ 1 ≤ 0x7FFFFF) ∧ (1 ≤ 0x7FFFFF) ∧ ¬ (1 ≤ 0) ∧ ¬ (0x800000 ≤ 0x7FFFFF) :=
  ⟨ready_of (by decide +kernel), by decide⟩
theorem witness_DimensionVariables_system : Ready .mfsr .sc (mkI Op.mfsr.code hw ⟨5, 0, 0x02B⟩) hw withRegs ∧
    Ready .mtsr .sc (mkI Op.mtsr.code h0 ⟨0, 3, 0x00D⟩) h0 withRegs ∧ Ready .mtsrc .sc (mkI Op.mtsrc.code h0 ⟨0, 3, 0x030⟩) h0 withRegs ∧
    Ready .mfsr .sc (mkI Op.mfsr.code hw ⟨5, 0, 0x013⟩) hw withRegs ∧ Ready .mfsr .sc (mkI Op.mfsr.code hw ⟨5, 0, 0x01F⟩) hw withRegs ∧
    Ready .mtsr .sc (mkI Op.mtsr.code h0 ⟨0, 3, 0x01E⟩) h0 withRegs :=
  ⟨ready_of (by decide +kernel), ready_of (by decide +kernel), ready_of (by decide +kernel), ready_of (by decide +kernel), ready_of (by decide +kernel),
    ready_of (by decide +kernel)⟩
theorem witness_StepRunsTheTurn : base.nextTurn = .issue 0 ∧ base.tickOn.allows (.issue 0) = true ∧
    ({ base with sched := [.event .completionDrain] } : State).nextTurn = .event .completionDrain ∧
    ({ base with sched := [.event .completionDrain] } : State).tickOn.allows (.event .completionDrain) = true ∧
    encodeWord .completionDrain = none ∧ State.reset.tickOn.allows State.reset.nextTurn = false := by
  refine ⟨rfl, by decide +kernel, rfl, by decide +kernel, by decide +kernel, by decide +kernel⟩
/-- A system core's load, and two freeze causes that arrive together: the lower code is recorded. -/
theorem witness_StepRunsTheTurn_others : let s : State := { base with sched := [.load 0x8000 8] }
    let t : State := { base with sched := [.together [.thermalTrip 4, .freezePin]] }
    s.nextTurn = .load 0x8000 8 ∧ s.tickOn.allows (.load 0x8000 8) = true ∧ t.nextTurn = .together [.thermalTrip 4, .freezePin] ∧
    t.tickOn.allows (.together [.thermalTrip 4, .freezePin]) = true ∧ byCode [.thermalTrip 4, .freezePin] = [.freezePin, .thermalTrip 4] :=
  ⟨rfl, by decide +kernel, rfl, by decide +kernel, by decide +kernel⟩
theorem witness_StepRunsTheTurn_slot : findOp .sc 0x0108014060400000 = .ok .add ∧
    decodeSlot .sc 0x0108014060400000 = .ok (.add hw ⟨5, 3, 4, 0, 0⟩) := by decide +kernel
theorem witness_IssueCommitsBundle : let s := State.reset.withFetchWord 64 0x2508028000000004
    let s1 := s.land 0
    let x := s1.ctx 0 0
    let s2 := s1.modCore 0 (fun c => c.replay 0)
    let b := slotWords (s2.fetch 0 0)
    let s3 : State := { s2 with iss := { Issue.init with core := 0, ctx := 0, pc := x.pc } }
    (s1.core 0).cur.toNat = 0 ∧ x.status = .running ∧ x.eligible = true ∧ x.hasCause = false ∧ x.resnap = [] ∧ x.rerec = [] ∧ x.arvw = none ∧
    illegalWith (s3.boundBy runWord b) (fun i => ((s3.seen 0 0 .sc).ctx 0).xReg i) b = none ∧
    (match runSlots runWord (runList b) s3 [] with
      | .ok (_, fs) => fs.all (fun f => f.v = .committed || f.v = .disabled)
      | .error _ => false) = true := by decide +kernel
/-- The base module frozen, with one event to come. -/
def frozenWith (i : Instr) : State := { base with
  freeze := some ⟨1, 5⟩
  sched := [.event i] }
theorem witness_FrozenHolds : (frozenWith (.mgmtReadOut ⟨[], []⟩)).freeze.isSome = true ∧
    (frozenWith (.mgmtReadOut ⟨[], []⟩)).nextTurn ≠ .event .moduleReset ∧
    (∃ t, step (frozenWith .completionDrain) = .next t) ∧ (∃ t, step (frozenWith .moduleReset) = .next t) :=
  ⟨rfl, by simp [State.nextTurn, frozenWith], ⟨_, rfl⟩, ⟨_, rfl⟩⟩
theorem witness_RecoveryHolds : let s : State := { base with oarov := { base.oarov with recovery := true } }
    s.oarov.recovery = true ∧ s.nextTurn = .issue 0 ∧ ∃ t, step s = .next t := ⟨rfl, rfl, ⟨_, rfl⟩⟩
/-- Under p1, which is 0. -/
theorem witness_DisabledDoesNothing : let h : Hd := ⟨0, true, 1, false⟩
    let g : Hd := ⟨0, false, 1, false⟩
    base.iss.ask = .issue ∧ (∀ k : Slot, (base.env k h).predStop = none ∧ (base.env k h).enabled = false) ∧
    (∀ k : Slot, (base.env k g).predStop = none ∧ (base.env k g).enabled = false) ∧
    (base.env .sc h).illegalAlone .add (mkR Op.add.code h ⟨5, 3, 4, 0, 0⟩) = none ∧ (base.env .sc h).illegalAlone .addi (mkI Op.addi.code h ⟨5, 3, 1⟩) = none ∧
    (base.env .va h).illegalAlone .vadd (mkR Op.vadd.code h ⟨5, 3, 4, 0, 0⟩) = none ∧ (base.env .vb h).illegalAlone .vaddi (mkI Op.vaddi.code h ⟨5, 3, 1⟩) = none ∧
    (base.env .eg g).illegalAlone .cgomm (mkE Op.cgomm.code g ⟨5, 4, 0, 0, 2, 0x20⟩) = none ∧
    (base.env .sy g).illegalAlone .post (mkE Op.post.code g ⟨0, 0, 0, 1, 1, 0⟩) = none :=
  ⟨rfl, by intro k; cases k <;> decide +kernel, by intro k; cases k <;> decide +kernel, by decide +kernel⟩
theorem witness_VectorInteger : Ready .vadd .va (mkR Op.vadd.code hw ⟨5, 3, 4, 0, 0⟩) hw base ∧ (base.env .va hw).srcV 3 = .ok 0 ∧
    Ready .vadds .vb (mkR Op.vadds.code hw ⟨5, 3, 4, 0, 0⟩) hw base := ⟨ready_of (by decide +kernel), rfl, ready_of (by decide +kernel)⟩
theorem witness_VectorFloatingPoint : Ready .vfma .va (mkR Op.vfma.code hw ⟨5, 3, 4, 6, 0⟩) hw base ∧ (base.env .va hw).srcV 6 = .ok 0 ∧
    (base.env .va hw).FpQuiet 0 ∧ (base.env .va hw).FpQuiet 0x7F :=
  ⟨ready_of (by decide +kernel), rfl, by unfold Env.FpQuiet; decide +kernel, by unfold Env.FpQuiet; decide +kernel⟩
theorem witness_MaskInstructions : Ready .vcmp .va (mkR Op.vcmp.code hw ⟨1, 3, 4, 0, 5⟩) hw base ∧ Ready .viota .vb (mkR Op.viota.code hw ⟨5, 1, 0, 0, 0⟩) hw base ∧
    Ready .vfdot .va (mkR Op.vfdot.code hw ⟨5, 3, 4, 6, 0⟩) hw base ∧ (base.env .va hw).srcV 4 = .ok 0 :=
  ⟨ready_of (by decide +kernel), ready_of (by decide +kernel), ready_of (by decide +kernel), rfl⟩
theorem witness_VectorConversions : Ready .vcvt .va (mkR Op.vcvt.code hw ⟨5, 3, 4, 0, 0⟩) hw base ∧ Ready .vdqs8 .va (mkR Op.vdqs8.code hw ⟨5, 3, 4, 0, 3⟩) hw base ∧
    (base.env .va hw).srcV 3 = .ok 0 ∧ (base.env .va hw).srcV 4 = .ok 0 := ⟨ready_of (by decide +kernel), ready_of (by decide +kernel), rfl, rfl⟩
/-- The last lane of the widest and of the narrowest format. -/
theorem witness_VectorPermutes : Ready .vbcst .va (mkR Op.vbcst.code hw ⟨5, 3, 0, 0, 31⟩) hw base ∧
    Ready .vins .va (mkR Op.vins.code (variant hw 2) ⟨5, 3, 4, 0, 127⟩) (variant hw 2) base ∧
    Ready .vcxs .va (mkR Op.vcxs.code hw ⟨6, 4, 5, 0, 4⟩) hw base ∧ (base.env .va hw).srcV 3 = .ok 0 :=
  ⟨ready_of (by decide +kernel), ready_of (by decide +kernel), ready_of (by decide +kernel), rfl⟩
theorem witness_DeepFileInstructions : Ready .vdfwr .vb (mkR Op.vdfwr.code h0 ⟨0, 3, 4, 0, 2⟩) h0 withRegs ∧ (withRegs.env .va h0).srcS 3 = .ok 7 ∧
    isOk ((withRegs.env .va h0).rowCheck [] [(withRegs.env .va h0).x.dfbase + 9]) = true ∧
    isOk ((withRegs.env .va h0).rowCheck ((withRegs.env .va h0).tableRows ⟨5, 3, 4, 0, 0⟩) ((withRegs.env .va h0).tableRows ⟨5, 3, 4, 0, 0⟩)) = true :=
  ⟨ready_of (by decide +kernel), rfl, by decide +kernel⟩

/-- The job of a command that stands in an engine. -/
def jobOf (kind : JobKind) : Job := ⟨1, 1, 0, 0, 0, 0, kind, some 1, none, [], [], false, 0, false, 0, 0, [], 0, []⟩
/-- A descriptor of ACM entries. -/
def acmDesc (base n : Nat) : Word := BitVec.ofNat 64 (3 * 2 ^ 62 + n * 65536 + base)
/-- The module with tiles in t1 to t9, and the low half of t1's type word in s3 and s4. -/
def withTiles : State := baseX (fun x => { x with
  s := [(3, (mkTw 2 2 0 0 [8, 64]).extractLsb' 0 64), (4, (mkTw 2 2 0 0 [8, 64]).extractLsb' 64 64), (5, mkDeep 2047 1), (6, 0x2)]
  t := [(1, ⟨mkTw 2 2 0 0 [8, 64], mkDeep 0 8⟩), (2, ⟨mkTw 2 2 0 0 [8, 64], mkDeep 8 8⟩), (3, ⟨mkTw 2 1 0 0 [8, 16], acmDesc 0 128⟩),
    (4, ⟨mkTw 2 2 2 0 [8, 16], mkDeep 16 2⟩), (5, ⟨mkTw 2 2 3 0 [16, 16], mkDeep 20 4⟩), (6, ⟨mkTw 2 3 0 0 [8, 64], mkDeep 24 8⟩),
    (7, ⟨mkTw 2 9 2 0 [8, 16], mkDeep 32 1⟩), (8, ⟨mkTw 2 9 3 0 [16, 16], mkDeep 34 2⟩), (9, ⟨mkTw 2 10 0 0 [8, 64], mkDeep 40 8⟩),
    (10, ⟨mkTw 2 14 0 0 [8, 64], mkDeep 48 8⟩), (11, ⟨mkTw 1 2 0 0 [512], mkDeep 0 8⟩)] })
theorem witness_TileRegisterWrites : let e := withTiles.env .mt hw
    Ready .tset .mt (mkR Op.tset.code hw ⟨12, 3, 4, 0, 0⟩) hw withTiles ∧ twBad (mkTw 2 2 0 0 [8, 64]) = none ∧ twBad (mkTw 2 13 0 0 [8, 64]) ≠ none ∧
    Ready .tsto .mt (mkR Op.tsto.code hw ⟨1, 5, 0, 0, 0⟩) hw withTiles ∧ descBad (mkDeep 2047 1) = none ∧ descLeaves (mkDeep 2047 1) e.x.dflen = none ∧
    Ready .text .mt (mkR Op.text.code hw ⟨5, 1, 0, 0, 1⟩) hw withTiles ∧ e.dimPending (twVars (e.x.tReg 1).tw) = false :=
  ⟨ready_of (by decide +kernel), by decide +kernel, by decide +kernel, ready_of (by decide +kernel), by decide +kernel, by decide +kernel,
    ready_of (by decide +kernel), by decide +kernel⟩
/-- Two equal tiles, and two of different formats. -/
theorem witness_TypeCheck : let e := withTiles.env .mt h0
    Ready .tchk .mt (mkR Op.tchk.code h0 ⟨0, 1, 2, 0, 0⟩) h0 withTiles ∧ (e.x.tReg 2).tw = (e.x.tReg 1).tw ∧ twBad (e.x.tReg 1).tw = none ∧
    Ready .tchk .mt (mkR Op.tchk.code h0 ⟨0, 1, 6, 0, 0⟩) h0 withTiles ∧ twRank (e.x.tReg 6).tw = twRank (e.x.tReg 1).tw ∧
    twFmt (e.x.tReg 1).tw ≠ twFmt (e.x.tReg 6).tw ∧ ∀ n ∈ twExts (e.x.tReg 1).tw ++ twExts (e.x.tReg 6).tw, isVar n = false :=
  ⟨ready_of (by decide +kernel), by decide +kernel, by decide +kernel, ready_of (by decide +kernel), by decide +kernel, by decide +kernel, by decide +kernel⟩
theorem witness_TypeCheck_rearranged : let e := withTiles.env .mt hw
    let a := (e.x.tReg 1).tw
    Ready .ttrn .mt (mkR Op.ttrn.code hw ⟨12, 1, 0, 0, 0⟩) hw withTiles ∧ twRank (e.x.tReg 12).tw = 0 ∧
    isOk (e.uniForm [⟨0, a, .any, .any, .any, .any, []⟩, ⟨4, 0, .any, .any, .any, .any, []⟩]) = true ∧
    isOk (e.unify [⟨0, a, .oneOf [2], .any, .oneOf [0, 1, 2, 3], .any, []⟩]) = true ∧
    Ready .tcast .mt (mkR Op.tcast.code hw ⟨10, 9, 0, 0, 0⟩) hw withTiles ∧ isOk (e.formAD (e.x.tReg 9).tw (e.x.tReg 10).tw) = true ∧
    twRank (e.x.tReg 10).tw ≠ 0 ∧
    isOk (e.unify [⟨0, (e.x.tReg 9).tw, .sym 0, castCell 14, .any, .oneOf [0], sharedExts⟩, ⟨4, (e.x.tReg 10).tw, .sym 0, castCell 10, .any, .oneOf [0], sharedExts⟩]) = true ∧
    reshapeOnly a (mkTw 1 2 0 0 [512]) [8, 64] [512] = true ∧ (e.sliceDesc a (mkDeep 0 8) 7).isSome = true :=
  ⟨ready_of (by decide +kernel), by decide +kernel, by decide +kernel, by decide +kernel, ready_of (by decide +kernel), by decide +kernel,
    by decide +kernel, by decide +kernel, by decide +kernel, by decide +kernel⟩
/-- A transposition into the partner layout. -/
theorem witness_TypeCheck_partner : let s := withTiles.modCtx 0 0 (fun x => { x with t := x.t ++ [(15, ⟨mkTw 2 2 1 0 [64, 8], 0⟩)] })
    let e := s.env .mt hw
    let a := (e.x.tReg 1).tw
    let d := (e.x.tReg 15).tw
    Ready .ttrn .mt (mkR Op.ttrn.code hw ⟨15, 1, 0, 0, 0⟩) hw s ∧ isOk (e.formAD a d) = true ∧ twRank a = 2 ∧ twRank d = 2 ∧ twLay a ≤ 3 ∧
    twLay d = partner (twLay a) ∧
    isOk (e.unify [⟨0, a, .any, .sym 0, .oneOf [0, 1, 2, 3, 4, 5], .any, [.sym 0, .sym 1]⟩,
      ⟨4, d, .oneOf [2], .sym 0, .oneOf [0, 1, 2, 3, 4, 5], .oneOf [swapScale (twScale a)], [.sym 1, .sym 0]⟩]) = true :=
  ⟨ready_of (by decide +kernel), by decide +kernel⟩
theorem witness_TileCopyCommands : let e := withTiles.env .mt hw
    let a := e.x.tReg 1
    let d := e.x.tReg 2
    Ready .tcopy .mt (mkR Op.tcopy.code hw ⟨2, 1, 0, 0, 0⟩) hw withTiles ∧ isOk (e.formAD a.tw d.tw) = true ∧ twRank d.tw ≠ 0 ∧ e.copyFull = false ∧
    (match e.unify [⟨0, a.tw, .sym 0, .sym 0, .sym 0, .sym 0, sharedExts⟩, ⟨4, d.tw, .sym 0, .sym 0, .sym 0, .sym 0, sharedExts⟩] with
      | .ok u => isOk (e.constant [(0, a.tw), (4, d.tw)] u) && (match e.storage 0 .jobSrc (e.resolved u a.tw) a.desc, e.storage 4 .jobDst (e.resolved u d.tw) d.desc with
        | .ok x, .ok y => decide (e.sharedRows x y = 0)
        | _, _ => false)
      | .error _ => false) = true := ⟨ready_of (by decide +kernel), by decide +kernel, by decide +kernel, by decide +kernel, by decide +kernel⟩
/-- Whether a typed copy of `a` into `d` under an answer of the unifier passes its checks. -/
def copies (e : Env) (a d : Quad × Word) (x : Except Stop Uni) : Bool :=
  match x with
  | .ok u => !e.copyFull && isOk (e.constant [(0, a.1), (4, d.1)] u) &&
    (match e.storage 0 .jobSrc (e.resolved u a.1) a.2, e.storage 4 .jobDst (e.resolved u d.1) d.2 with
      | .ok x, .ok y => e.sharedRows x y = 0
      | _, _ => false)
  | .error _ => false
/-- The tiles above, with destinations of another shape, of the exchanged one, and of a slice. -/
def copyTiles : State := withTiles.modCtx 0 0 (fun x => { x with
  s := x.s ++ [(7, 8)]
  t := x.t ++ [(12, ⟨mkTw 2 2 0 0 [16, 32], mkDeep 64 16⟩), (13, ⟨mkTw 2 2 0 0 [64, 8], mkDeep 128 64⟩), (14, ⟨0, mkDeep 200 2⟩)] })
/-- A cast between two formats of 16 bits, and a reshape whose runs break the rows. -/
theorem witness_TileCopyCommands_cast : let e := copyTiles.env .mt hw
    let q (n : Nat) : Quad × Word := ((e.x.tReg n).tw, (e.x.tReg n).desc)
    Ready .tcast .mt (mkR Op.tcast.code hw ⟨6, 1, 0, 0, 0⟩) hw copyTiles ∧ isOk (e.formAD (q 1).1 (q 6).1) = true ∧ twRank (q 6).1 ≠ 0 ∧ twFmt (q 1).1 ∉ [10, 14] ∧
    copies e (q 1) (q 6) (e.unify [⟨0, (q 1).1, .sym 0, castCell 3, .any, .oneOf [0], sharedExts⟩, ⟨4, (q 6).1, .sym 0, castCell 2, .any, .oneOf [0], sharedExts⟩]) = true ∧
    Ready .trshp .mt (mkR Op.trshp.code hw ⟨12, 1, 0, 0, 0⟩) hw copyTiles ∧ isOk (e.formAD (q 1).1 (q 12).1) = true ∧ twRank (q 12).1 ≠ 0 ∧
    (match e.unify [⟨0, (q 1).1, .any, .sym 0, .any, .sym 0, []⟩, ⟨4, (q 12).1, .any, .sym 0, .any, .sym 0, []⟩] with
      | .ok u => isOk (e.constant [(0, (q 1).1)] u) && (match e.reshapeBind u (prod (e.extents (q 1).1)) (e.extents (q 12).1) with
        | .ok v => prod (e.extents (q 1).1) = prod ((twExts (q 12).1).map (e.resolve v.pend)) &&
          !reshapeOnly (q 1).1 (q 12).1 (e.extents (q 1).1) ((twExts (q 12).1).map (e.resolve v.pend)) && copies e (q 1) (q 12) (.ok v)
        | .error _ => false)
      | .error _ => false) = true ∧ twScale (q 1).1 = 0 ∧ twScale (q 12).1 = 0 :=
  ⟨ready_of (by decide +kernel), by decide +kernel, by decide +kernel, by decide +kernel, by decide +kernel, ready_of (by decide +kernel), by decide +kernel⟩
/-- A transposition within one layout, and slices of an interleaved tile up to its last row. -/
theorem witness_TileCopyCommands_transpose : let e := copyTiles.env .mt hw
    let q (n : Nat) : Quad × Word := ((e.x.tReg n).tw, (e.x.tReg n).desc)
    Ready .ttrn .mt (mkR Op.ttrn.code hw ⟨13, 1, 0, 0, 0⟩) hw copyTiles ∧ isOk (e.formAD (q 1).1 (q 13).1) = true ∧ twRank (q 13).1 ≠ 0 ∧
    twLay (q 13).1 ≠ partner (twLay (q 1).1) ∧ twScale (q 1).1 = 0 ∧ twScale (q 13).1 = 0 ∧
    copies e (q 1) (q 13) (e.unify [⟨0, (q 1).1, .any, .sym 0, .oneOf [0, 1, 2, 3, 4, 5], .any, [.sym 0, .sym 1]⟩,
      ⟨4, (q 13).1, .oneOf [2], .sym 0, .oneOf [0, 1, 2, 3, 4, 5], .oneOf [swapScale (twScale (q 1).1)], swapLast [.sym 0, .sym 1]⟩]) = true ∧
    Ready .tslc .mt (mkR Op.tslc.code hw ⟨14, 4, 2, 7, 0⟩) hw copyTiles ∧ e.srcS 2 = .ok 0 ∧ e.srcS 7 = .ok 8 ∧
    Ready .tslci .mt (mkI Op.tslci.code hw ⟨14, 4, 8 * 2 ^ 15⟩) hw copyTiles ∧ bits (8 * 2 ^ 15) 15 14 = 8 :=
  ⟨ready_of (by decide +kernel), by decide +kernel, by decide +kernel, by decide +kernel, by decide +kernel, by decide +kernel, by decide +kernel,
    ready_of (by decide +kernel), rfl, rfl, ready_of (by decide +kernel), by decide +kernel⟩
theorem witness_TileCopyCommands_slice : let e := copyTiles.env .mt hw
    let q := e.x.tReg 4
    isOk (e.uniForm [⟨0, q.tw, .any, .any, .any, .any, []⟩]) = true ∧ twRank q.tw ≠ 0 ∧ (e.extents q.tw).getD (slowAxis q.tw) 0 = 8 ∧ isVar 8 = false ∧
    e.sliceDesc q.tw q.desc 0 = none ∧ twScale q.tw = 0 ∧
    (match e.unify [⟨0, q.tw, .any, .any, .any, .any, []⟩] with
      | .ok u => let t := twSetExt (e.resolved u q.tw) (slowAxis q.tw) 8
        decide (twScale t = 0) && copies e (q.tw, q.desc) (t, (e.x.tReg 14).desc) (.ok u)
      | .error _ => false) = true := by decide +kernel
theorem witness_MatrixTables : let e := withTiles.env .mt hw
    Ready .maclr .mt (mkR Op.maclr.code h0 ⟨0, 3, 0, 0, 0⟩) h0 withTiles ∧ isOk (e.acmOf 3 []) = true ∧ e.acmHeld [0, 127] = false ∧ 127 < prod [8, 16] ∧
    Ready .mmul .mt (mkR Op.mmul.code hw ⟨3, 4, 5, 3, 0⟩) hw withTiles ∧ e.matrixFull = false ∧
    (match e.matType (e.x.tReg 4).tw (e.x.tReg 5).tw (e.x.tReg 3).tw false with
      | .ok u => isOk (e.matStore u (e.x.tReg 4) (e.x.tReg 5) (e.x.tReg 3))
      | .error _ => false) = true :=
  ⟨ready_of (by decide +kernel), by decide +kernel, by decide +kernel, by decide +kernel, ready_of (by decide +kernel), by decide +kernel, by decide +kernel⟩
/-- A job that holds the accumulators of t3. -/
def withC : State := withTiles.modCore 0 (fun c => { c with me := [jobOf (.matmul ⟨0, 0, Cap.zero⟩ ⟨0, 0, Cap.zero⟩ ⟨mkTw 2 1 0 0 [8, 16], acmDesc 0 128, Cap.zero⟩)] })
/-- Reads and writes of entries: free ones, held ones, one that is marked, and an index beyond the last. -/
theorem witness_MatrixTables_entries : let f : RFmt := ⟨5, 3, 6, 0, 0⟩
    let g : RFmt := ⟨0, 3, 1, 6, 0⟩
    let held (s : State) (es : List Nat) : Bool := (s.env .mt h0).acmHeld es
    let marked := withTiles.modCore 0 (fun c => { c with eccAcm := [33] })
    let lanes := (List.range 32).map (0 + 2 + ·)
    (∀ s ∈ [withTiles, withC, marked], readyAt .maclr .mt (mkR Op.maclr.code h0 ⟨0, 3, 0, 0, 0⟩) h0 s = true ∧ readyAt .mard .mt (mkR Op.mard.code hw f) hw s = true ∧
      readyAt .mawr .mt (mkR Op.mawr.code h0 g) h0 s = true ∧ (match (s.env .mt h0).acmOf 3 [] with
        | .ok (_, b, ex) => b = 0 && ex = [8, 16]
        | .error _ => false) = true) ∧
    (withTiles.env .mt h0).x.sReg 6 = 2 ∧ fld 2 0 32 < prod [8, 16] ∧ held withTiles lanes = false ∧ held withC lanes = true ∧ held marked lanes = false ∧
    held withC (List.range 128) = true ∧ held withTiles (List.range 128) = false ∧
    lanes.find? (fun n => (marked.core 0).eccAcm.contains n) = some 33 ∧ (withTiles.core 0).eccAcm = [] ∧ prod [8, 16] ≤ fld (mkDeep 2047 1) 0 32 ∧
    readyAt .mard .mt (mkR Op.mard.code hw ⟨5, 3, 5, 0, 0⟩) hw withTiles = true ∧ readyAt .mawr .mt (mkR Op.mawr.code h0 ⟨0, 3, 1, 5, 0⟩) h0 withTiles = true := by decide +kernel
/-- MSCL at its bundle: its entries free, held, and one marked; a matrix GO with a template running, and one with a nest. -/
theorem witness_MatrixTables_scale : let due (s : State) : State := s.modCtx 0 0 (fun x => { x with owed := [6], stepRec := some ⟨0, 0, 8, 16, 8, 16, false, []⟩ })
    let marked := withTiles.modCore 0 (fun c => { c with eccAcm := [127] })
    let entry := (List.range 8).flatMap (fun i => (List.range 16).map (fun j => 0 + (0 * 8 + i) * [8, 16].getD 1 0 + (0 * 16 + j)))
    (∀ s ∈ [withTiles, withC, marked], readyAt .mscl .mt (mkR Op.mscl.code h0 ⟨0, 3, 0, 0, 0⟩) h0 (due s) = true ∧ (match ((due s).env .mt h0).acmOf 3 [.lit 8, .lit 16] with
      | .ok (_, b, ex) => b = 0 && ex = [8, 16]
      | .error _ => false) = true) ∧
    ((due withTiles).env .mt h0).acmHeld entry = false ∧ ((due withC).env .mt h0).acmHeld entry = true ∧ ((due marked).env .mt h0).acmHeld entry = false ∧
    entry.find? (fun n => (marked.core 0).eccAcm.contains n) = some 127 := by decide +kernel
theorem witness_MatrixTables_nest : let s (tab : SMap Word) (t : Option Template) : State := withTiles.modCtx 0 0 (fun x => { x with mtab := tab, tmpl := t })
    let nest := s [(0, 0xE0200000), (1, 1), (2, 2 ^ 42)] none
    let e := nest.env .mt h0
    let run := s [] (some ⟨⟨false, 1⟩, false, [], 0, 0, 0⟩)
    Ready .mgo .mt (mkR Op.mgo.code h0 ⟨0, 4, 5, 3, 0⟩) h0 nest ∧ e.x.tmpl = none ∧ e.matrixFull = false ∧ nestBad .matrix e.x.mtab = false ∧
    (match e.matType (e.x.tReg 4).tw (e.x.tReg 5).tw (e.x.tReg 3).tw false with
      | .ok u => (match e.matStore u (e.x.tReg 4) (e.x.tReg 5) (e.x.tReg 3) with
        | .ok (x, y, _) => isOk (e.nestScale 0 0 x.tw y.tw)
        | .error _ => false)
      | .error _ => false) = true ∧
    Ready .mgo .mt (mkR Op.mgo.code h0 ⟨0, 4, 5, 3, 0⟩) h0 run ∧ (run.env .mt h0).matrixFull = false ∧ (run.env .mt h0).x.tmpl.isSome = true ∧
    Ready .mgoTm .mt (mkR Op.mgoTm.code (variant h0 3) ⟨0, 0, 0, 0, 0⟩) (variant h0 3) run ∧
    Ready .mgoTm .mt (mkR Op.mgoTm.code (variant h0 3) ⟨0, 0, 0, 0, 0⟩) (variant h0 3) nest ∧ nestBad .template e.x.mtab = false :=
  ⟨ready_of (by decide +kernel), by decide +kernel, by decide +kernel, by decide +kernel, by decide +kernel, ready_of (by decide +kernel), by decide +kernel,
    by decide +kernel, ready_of (by decide +kernel), ready_of (by decide +kernel), by decide +kernel⟩
/-- An epilogue of the ACM tile t3 into the deep-file tile t12, with no bias. -/
theorem witness_MatrixTables_epilogue : let s := withTiles.modCtx 0 0 (fun x => { x with t := x.t ++ [(12, ⟨mkTw 2 2 0 0 [8, 16], mkDeep 0 8⟩)] })
    let e := s.env .mt hw
    Ready .mepi .mt (mkR Op.mepi.code hw ⟨12, 3, 6, 0, 0⟩) hw s ∧ e.matrixFull = false ∧
    (match e.unify [⟨0, (e.x.tReg 3).tw, .oneOf [2], .oneOf [1], .oneOf [0], .oneOf [0], [.sym 0, .sym 1]⟩,
        ⟨4, (e.x.tReg 12).tw, .oneOf [2], .oneOf [1, 2, 3, 4, 5], .oneOf [0, 1, 2, 3, 4, 5], .oneOf [0], [.sym 0, .sym 1]⟩] with
      | .ok u => isOk (e.constant [(0, (e.x.tReg 3).tw), (4, (e.x.tReg 12).tw)] u) && isOk (e.acmTile 0 (e.resolved u (e.x.tReg 3).tw) (e.x.tReg 3).desc) &&
        isOk (e.storage 4 .jobDst (e.resolved u (e.x.tReg 12).tw) (e.x.tReg 12).desc)
      | .error _ => false) = true :=
  ⟨ready_of (by decide +kernel), by decide +kernel, by decide +kernel⟩
/-- A step of two INT8 tiles, and the bundle six on from it. -/
theorem witness_MatrixTables_step : let e := withTiles.env .mt h0
    Ready .mstep .mt (mkR Op.mstep.code h0 ⟨0, 7, 8, 0, 0⟩) h0 withTiles ∧
    (match e.unify [⟨0, (e.x.tReg 7).tw, .oneOf [2], .oneOf [6, 7, 8, 9], .oneOf [2], matScale 9 5 true, [.sym 0, .sym 1]⟩,
        ⟨1, (e.x.tReg 8).tw, .oneOf [2], .oneOf [9], .oneOf [3], matScale 9 6 true, [.sym 1, .sym 2]⟩] with
      | .ok u => isOk (e.constant [(0, (e.x.tReg 7).tw), (1, (e.x.tReg 8).tw)] u) &&
        (match e.stepTile 0 (e.resolved u (e.x.tReg 7).tw) (e.x.tReg 7).desc, e.stepTile 1 (e.resolved u (e.x.tReg 8).tw) (e.x.tReg 8).desc with
        | .ok a, .ok b => isOk (e.rowCheck (distinct ((List.range 16).flatMap (fun k => ((List.range 16).filter (fun i => 0 + i < 8)).map (fun i => e.deepRow a [0 + i, k]) ++
          ((List.range 16).filter (fun j => 0 + j < 16)).map (fun j => e.deepRow b [k, 0 + j])))) [])
        | _, _ => false)
      | .error _ => false) = true ∧ atomOf 9 9 = (16, 16) ∧
    (let s := withTiles.modCtx 0 0 (fun x => { x with owed := [6], stepRec := some ⟨0, 0, 8, 16, 8, 16, false, []⟩ })
     Ready .mscl .mt (mkR Op.mscl.code h0 ⟨0, 3, 0, 0, 0⟩) h0 s ∧ (s.env .mt h0).x.owed.contains 6 = true ∧
      isOk ((s.env .mt h0).acmOf 3 [.lit 8, .lit 16]) = true) ∧ e.x.owed.contains 6 = false :=
  ⟨ready_of (by decide +kernel), by decide +kernel, by decide +kernel, ⟨ready_of (by decide +kernel), by decide +kernel, by decide +kernel⟩, by decide +kernel⟩
/-- The module with scalars, capabilities to object 5 at offset 8 (a3), to nothing (a4), without W (a5), and to object 6 (a6); both
objects' entries are cached. -/
def withObj : State := { baseX (fun x => { x with
    s := [(3, 7), (4, 2), (6, 1), (7, 5 + 9 * 2 ^ 16)]
    a := [(3, cap5), (5, mkCap 5 8 64 0xFD 0 true), (6, mkCap 6 0 1024 0xFF 0 true)]
    t := [(1, ⟨mkTw 2 2 0 0 [8, 64], mkDeep 0 8⟩), (2, ⟨mkTw 2 2 0 0 [8, 64], mkWindow 6 0⟩), (3, ⟨mkTw 2 1 0 0 [8, 16], acmDesc 0 128⟩)] }) with
  objCache := [⟨0, 0, 0, 5, 0, ⟨0x100000, 64, false, false, 0, 0⟩⟩, ⟨0, 0, 0, 6, 64, ⟨0x200000, 1024, false, true, 1, mkTw 2 2 0 0 [8, 64]⟩⟩] }
/-- Whether a capability lets an access of `n` bytes at `o` through, and its object and live jobs too. -/
theorem reaches_of {e : Env} {c : Cap} {need : BitVec 8} {write : Bool} {o : Int} {n : Nat} {w : ObjEntry} (ho : e.objOf c = some w)
    (h : c.valid = true ∧ need &&& ~~~c.rights = 0 ∧ (0 ≤ o ∧ o + n ≤ c.len) ∧ o + n ≤ w.len ∧ (write = true → w.now = false) ∧
      e.overlaps write [(w.base + o.toNat, n)] = false) : e.Reaches c need write [(o, n)] := by
  obtain ⟨h1, h2, h3, h4, h5, h6⟩ := h
  refine ⟨?_, ?_, ?_, ?_⟩
  · simp only [List.mem_singleton, forall_eq]; exact ⟨h1, h2, .inr h3⟩
  · intro p hp; rw [ho] at hp; cases hp; simpa using h4
  · intro p hp; rw [ho] at hp; cases hp; exact h5
  · intro p hp; rw [ho] at hp; cases hp; simpa using h6
/-- The last 8 bytes of the object. -/
theorem witness_LoadsIssue : let e := withObj.env .ld hw
    Ready .ldd .ld (mkM Op.ldd.code hw ⟨5, 3, 48⟩) hw withObj ∧ e.srcA 3 = .ok cap5 ∧ e.Reaches cap5 rR false [((8 + 48) / 8 * 8, 8)] ∧
    Ready .ldg .ld (mkR Op.ldg.code hw ⟨5, 3, 4, 0, 0⟩) hw withObj ∧ Ready .lds .ld (mkM Op.lds.code hw ⟨5, 3, 0⟩) hw withObj ∧ e.srcV 4 = .ok 0 :=
  ⟨ready_of (by decide +kernel), rfl, reaches_of (w := ⟨0x100000, 64, false, false, 0, 0⟩) (by decide +kernel) (by decide +kernel),
    ready_of (by decide +kernel), ready_of (by decide +kernel), rfl⟩
theorem witness_StoresIssue : let e := withObj.env .st h0
    Ready .std .st (mkM Op.std.code h0 ⟨3, 3, 48⟩) h0 withObj ∧ e.srcS 3 = .ok 7 ∧ e.srcA 3 = .ok cap5 ∧ e.Reaches cap5 rW true [((8 + 48) / 8 * 8, 8)] ∧
    Ready .stcap .st (mkM Op.stcap.code h0 ⟨3, 3, 8⟩) h0 withObj ∧ cap5.rights &&& rG ≠ 0 ∧ e.Reaches cap5 (rW ||| rScap) true [((8 + 8) / 16 * 16, 16)] ∧
    Ready .acas .st (mkR Op.acas.code hw ⟨5, 3, 4, 6, 0⟩) hw withObj :=
  ⟨ready_of (by decide +kernel), rfl, rfl, reaches_of (w := ⟨0x100000, 64, false, false, 0, 0⟩) (by decide +kernel) (by decide +kernel),
    ready_of (by decide +kernel), by decide +kernel, reaches_of (w := ⟨0x100000, 64, false, false, 0, 0⟩) (by decide +kernel) (by decide +kernel),
    ready_of (by decide +kernel)⟩
/-- No tag; a right missing; the byte after the last. -/
theorem witness_AccessChecksTrap : Ready .std .st (mkM Op.std.code h0 ⟨3, 4, 0⟩) h0 withObj ∧ (withObj.env .st h0).srcA 4 = .ok Cap.zero ∧ Cap.zero.valid = false ∧
    (∀ w, (withObj.env .st h0).objOf cap5 = some w → (withObj.env .st h0).overlaps true [(((w.base : Int) + 64).toNat, 8)] = false) ∧
    (withObj.env .st h0).srcA 5 = .ok (mkCap 5 8 64 0xFD 0 true) ∧ (mkCap 5 8 64 0xFD 0 true).valid = true ∧ (mkCap 5 8 64 0xFD 0 true).rights &&& 2 = 0 ∧
    cap5.valid = true ∧ cap5.rights &&& 2 ≠ 0 ∧ (cap5.len : Int) < (cap5.off + 56) / 8 * 8 + 8 :=
  ⟨ready_of (by decide +kernel), rfl, by decide +kernel, fun w h => by
    rw [show (withObj.env .st h0).objOf cap5 = some ⟨0x100000, 64, false, false, 0, 0⟩ from by decide +kernel] at h
    cases h; decide +kernel, rfl, by decide +kernel⟩
theorem witness_TypedAccessesIssue : let e := withObj.env .ld hw
    let t := e.x.tReg 1
    Ready .ldt .ld (mkM Op.ldt.code hw ⟨1, 6, 0⟩) hw withObj ∧ (mkCap 6 0 1024 0xFF 0 true).Allows (rR ||| rT) 0 0 ∧ e.dimPending (twVars t.tw) = false ∧
    (match e.objOf (mkCap 6 0 1024 0xFF 0 true) with
      | some w => isOk (e.typedCheck 4 (aIndex 6) false (mkCap 6 0 1024 0xFF 0 true) 0 t.tw t.desc w)
      | none => false) = true ∧ isOk (e.rowCheck [] (e.descRows t.desc 8)) = true :=
  ⟨ready_of (by decide +kernel), ⟨by decide +kernel, by decide +kernel, .inl rfl⟩, by decide +kernel, by decide +kernel, by decide +kernel⟩
/-- An object whose entry is not valid: the access waits in the port. -/
theorem witness_TypedAccessesIssue_absent : let s := withObj.modCtx 0 0 (fun x => { x with a := x.a ++ [(7, mkCap 9 0 1024 0xFF 0 true)] })
    Ready .ldt .ld (mkM Op.ldt.code hw ⟨1, 7, 0⟩) hw s ∧ Ready .stt .st (mkM Op.stt.code h0 ⟨1, 7, 0⟩) h0 s ∧ (s.env .st h0).srcA 7 = .ok (mkCap 9 0 1024 0xFF 0 true) ∧
    (s.env .st h0).objOf (mkCap 9 0 1024 0xFF 0 true) = none ∧ (mkCap 9 0 1024 0xFF 0 true).Allows (rW ||| rT) 0 0 ∧
    isOk ((s.env .st h0).rowCheck ((s.env .st h0).descRows (mkDeep 0 8) 8) []) = true :=
  ⟨ready_of (by decide +kernel), ready_of (by decide +kernel), rfl, by decide +kernel, ⟨by decide +kernel, by decide +kernel, .inl rfl⟩, by decide +kernel⟩
/-- A rink of four rows that holds one, and one that holds none; a block of 16 lines. -/
theorem witness_TypedAccessesIssue_rinks : let s := baseC (fun c => { c with rinks := [(1, ⟨true, false, 2, 100, 4, 3, 1, 0, []⟩), (2, ⟨true, false, 0, 110, 4, 4, 0, 0, []⟩)] })
    let e := s.env .ld hw
    Ready .pop .ld (mkR Op.pop.code hw ⟨5, 1, 0, 0, 0⟩) hw s ∧ (e.core.rink 1).defd = true ∧ (e.core.rink 1).filled ≠ 0 ∧ isOk (e.rowCheck [102] []) = true ∧
    (e.core.rink 2).filled = 0 ∧ (e.core.rink 0).defd = false ∧ Ready .push .st (mkR Op.push.code h0 ⟨0, 2, 0, 4, 0⟩) h0 s ∧ (e.core.rink 2).free ≠ 0 :=
  ⟨ready_of (by decide +kernel), by decide +kernel, by decide +kernel, by decide +kernel, by decide +kernel, by decide +kernel, ready_of (by decide +kernel),
    by decide +kernel⟩
theorem witness_TypedAccessesIssue_blocks : let f : EFmt := ⟨0, 3, 4, 0, 1, 0⟩
    Ready .lbd .ld (mkE Op.lbd.code h0 f) h0 withObj ∧ (f.imm18.extractLsb' 11 7).toNat = 1 ∧ cap5.Allows rR (8 / 64 * 64) 64 :=
  ⟨ready_of (by decide +kernel), by decide, by decide +kernel, by decide +kernel, .inr (by decide +kernel)⟩
theorem witness_MemoryWrites : base.mem.wf = true ∧ base.keys.empty 0 = false ∧ base.cxlLost 0x8000 = false ∧ base.keys.empty 5 = true ∧
    ({ base with cxlDown := [(0, true)] } : State).cxlLost 0x100000000000 = true := by decide +kernel
/-- A load of 8 bytes in the port of context 0, its page cached. -/
def withAcc (got : List (List Byte)) (pos : Nat) : State := { baseX (fun x => { x with
    port := [⟨1, 1, 2, .acc ⟨.ldS 8 false, some 1, true, (.s, 5), .ld, 3, cap5, 8, [⟨8, 8, [], allBytes, false⟩], pos, got, false, none, true, 0⟩⟩]
    pend := [⟨1, 1, true, .ld, true, true, [(.s, 5)], [], [], none⟩] }) with
  objCache := [⟨0, 0, 0, 5, 0, ⟨0x100000, 64, false, false, 0, 0⟩⟩]
  tlb := [⟨.micro 0, 0, 0, 0x100000, 65536, 0x100000, 0, true, true, 0⟩] }
theorem witness_PortSteps : ((withAcc [] 0).front 0 0).isSome = true ∧ ((withAcc [] 0).ctx 0 0).status ≠ .idle ∧
    ((withAcc [] 0).object 0 ((withAcc [] 0).spaceOf 0) 5).isSome = true ∧
    ((withAcc [] 0).tlbFind (.ctx 0 0) ((withAcc [] 0).spaceOf 0) 0x100008 false false).isSome = true ∧
    (match (withAcc [[1, 2, 3, 4, 5, 6, 7, 8]] 1).front 0 0 with
      | some (_, a) => a.finished && a.checked
      | none => false) = true := by decide +kernel
theorem engAllows_of {e : Env} {c : Cap} {need : BitVec 8} {o : Int} {n : Nat} {w : ObjEntry} (ho : e.objOf c = some w)
    (h : (c.valid = true ∧ (need ||| rE) &&& ~~~c.rights = 0 ∧ (n = 0 ∨ 0 ≤ o ∧ o + n ≤ c.len)) ∧ o + n ≤ w.len ∧ w.now = false) :
    e.EngAllows c need o n := by
  obtain ⟨⟨h1, h2, h3⟩, h4, h5⟩ := h
  exact ⟨⟨h1, h2, h3⟩, fun _ p hp => by rw [ho] at hp; cases hp; exact h4, fun _ _ p hp => by rw [ho] at hp; cases hp; exact h5⟩
/-- A nest of one unit of 16 bytes from memory to the deep file. -/
theorem witness_CopyGos : let s := withObj.modCtx 0 0 (fun x => { x with ctab := [(0, 0x400E0200000), (1, 1)] })
    let e := s.env .eg h0
    Ready .ctw .eg (mkR Op.ctw.code h0 ⟨0, 3, 0, 0, 15⟩) h0 s ∧ Ready .cgomd .eg (mkE Op.cgomd.code h0 ⟨4, 3, 0, 0, 0, 0⟩) h0 s ∧ e.copyFull = false ∧
    nestBad .copy e.x.ctab = false ∧ nIdx e.x.ctab = 0 ∧ nestIters e.x.ctab 0 = 1 ∧
    isOk (e.cpOperand .m 3 0 (nestReach e.x.ctab 0 0).1 (nestReach e.x.ctab 0 0).2 16 false false) = true ∧
    isOk (e.cpOperand .d 4 1 (nestReach e.x.ctab 0 1).1 (nestReach e.x.ctab 0 1).2 16 false false) = true ∧ e.EngAllows cap5 rX 8 16 :=
  ⟨ready_of (by decide +kernel), ready_of (by decide +kernel), by decide +kernel, by decide +kernel, by decide +kernel, by decide +kernel,
    by decide +kernel, by decide +kernel, engAllows_of (w := ⟨0x100000, 64, false, false, 0, 0⟩) (by decide +kernel) (by decide +kernel)⟩
theorem witness_ServiceCommands : let s := withObj.modCtx 0 0 (fun x => { x with s := [(3, 5 + 9 * 2 ^ 16)] })
    let e := s.env .eg h0
    Ready .rkdef .eg (mkE Op.rkdef.code h0 ⟨0, 1, 3, 0, 0, 0⟩) h0 s ∧ (e.core.rink 1).infl = 0 ∧
    fld (5 + 9 * 2 ^ 16 : Word) 16 9 = 9 ∧ fld (5 + 9 * 2 ^ 16 : Word) 0 11 + 9 ≤ e.x.dflen ∧
    s.jobCount (s.coresWith (fun n => n / 16 = s.iss.core / 16)) JobKind.isMerge < 16 ∧ (s.merge s.iss.core).st = .idle ∧
    Ready .take .eg (mkE Op.take.code hw ⟨2, 0, 0, 0, 0, 0⟩) hw s ∧ ((s.ctxJobs s.iss.core s.iss.ctx).filter (fun j => JobKind.isWd j.kind)).length < 4 ∧
    s.jobCount [s.iss.core] JobKind.isSgrd < 32 := by
  refine ⟨ready_of (by decide +kernel), by decide +kernel, by decide +kernel, by decide +kernel, by decide +kernel, by decide +kernel,
    ready_of (by decide +kernel), by decide +kernel, by decide +kernel⟩
/-- A session that the context's task has opened. -/
theorem witness_ServiceCommands_session : let s : State := { withObj with merges := [(0, { Merge.init with st := .opened })] }
    Ready .mpush .eg (mkE Op.mpush.code h0 ⟨0, 3, 4, 0, 0, 8⟩) h0 s ∧ (s.merge s.iss.core).st ≠ .idle ∧ (s.merge s.iss.core).task = s.taskIdOf s.iss.core :=
  ⟨ready_of (by decide +kernel), by decide +kernel, by decide +kernel⟩
theorem witness_FabricCommands : let e := withObj.env .eg hw
    let t := e.x.tReg 1
    Ready .send .eg (mkE Op.send.code hw ⟨5, 1, 3, 4, 0, 0⟩) hw withObj ∧ withObj.jobCount [withObj.iss.core] JobKind.isSend < 16 ∧ twRank t.tw ≠ 0 ∧
    (match e.unify [⟨0, t.tw, .any, .any, .any, .any, []⟩] with
      | .ok u => isOk (e.constant [(0, t.tw)] u) && isOk (e.dataTile 0 .jobSrc (e.resolved u t.tw) t.desc)
      | .error _ => false) = true ∧
    Ready .recv .eg (mkE Op.recv.code hw ⟨1, 0, 3, 4, 0, 0⟩) hw withObj ∧ e.dimPending (twVars t.tw) = false ∧
    isOk (e.uniForm [⟨4, t.tw, .any, .any, .any, .any, []⟩]) = true ∧ dKind t.desc = 1 ∧ dKind (e.x.tReg 2).desc = 2 ∧
    e.rowsPending ((List.range (dCount t.desc)).map (e.x.dfbase + dRow t.desc + ·)) = false :=
  ⟨ready_of (by decide +kernel), by decide +kernel, by decide +kernel, by decide +kernel, ready_of (by decide +kernel), by decide +kernel, by decide +kernel,
    by decide +kernel, by decide +kernel, by decide +kernel⟩
/-- Flags 1 to 3: one that meets a target of 3, one whose refused post stands, one that completes its phase with one more post. -/
def withFlags : State := (baseC (fun c => { c with flags := [(1, ⟨3, 0, 21, false⟩), (2, ⟨65535, 0, 0, true⟩), (3, ⟨1, 2, 65535, false⟩), (4, ⟨65535, 0, 0, false⟩)] })).modCtx 0 0
  (fun x => { x with s := [(5, 21), (6, 20), (7, 2)] })
theorem witness_FlagWaits : let e := withFlags.env .sy h0
    Ready .wait .sy (mkE Op.wait.code h0 ⟨0, 0, 0, 3, 1, 0⟩) h0 withFlags ∧ e.x.port = [] ∧ (e.core.flag 1).ovf = false ∧ 3 ≤ (e.core.flag 1).cnt.toNat ∧
    (e.core.flag 1).cnt.toNat < 4 ∧ (e.core.flag 2).ovf = true ∧ e.srcS 5 = .ok 21 ∧ e.srcS 6 = .ok 20 ∧ e.srcS 7 = .ok 2 ∧
    Ready .waitm .sy (mkE Op.waitm.code h0 ⟨0, 7, 0, 0, 0, 1⟩) h0 withFlags :=
  ⟨ready_of (by decide +kernel), by decide +kernel, by decide +kernel, by decide +kernel, by decide +kernel, by decide +kernel, rfl, rfl, rfl, ready_of (by decide +kernel)⟩
/-- Each other wait on a flag whose refused post stands; the lowest of a mask's overflowed flags. -/
theorem witness_FlagWaits_overflow : let s := (baseC (fun c => { c with flags := [(1, ⟨3, 0, 21, false⟩), (2, ⟨9, 0, 0, true⟩), (3, ⟨1, 2, 0, true⟩)] })).modCtx 0 0 (fun x => { x with s := [(7, 14)] })
    let e := s.env .sy h0
    e.x.port = [] ∧ Ready .waits .sy (mkE Op.waits.code h0 ⟨0, 0, 0, 3, 2, 0⟩) h0 s ∧
    Ready .waitPh .sy (mkE Op.waitPh.code (variant h0 1) ⟨0, 7, 0, 0, 2, 0⟩) (variant h0 1) s ∧ (e.core.flag 2).ovf = true ∧
    Ready .waitm .sy (mkE Op.waitm.code h0 ⟨0, 7, 0, 0, 0, 1⟩) h0 s ∧ e.srcS 7 = .ok 14 ∧ (14 : Word).getLsbD 2 = true ∧
    ∀ j, j < 2 → (14 : Word).getLsbD j = true → (e.core.flag j).ovf = false :=
  ⟨by decide +kernel, ready_of (by decide +kernel), ready_of (by decide +kernel), by decide +kernel, ready_of (by decide +kernel), rfl, by decide, by decide +kernel⟩
/-- A wait behind an access of its context that has not left the port. -/
theorem witness_FlagWaits_behind : ((withAcc [] 0).env .sy h0).x.port ≠ [] ∧ ((withAcc [] 0).env .sy h0).srcS 0 = .ok 0 ∧
    Ready .wait .sy (mkE Op.wait.code h0 ⟨0, 0, 0, 3, 1, 0⟩) h0 (withAcc [] 0) ∧ Ready .waitm .sy (mkE Op.waitm.code h0 ⟨0, 0, 0, 0, 0, 0⟩) h0 (withAcc [] 0) ∧
    (∀ i, i < 32 → (0 : Word).getLsbD i = false) := ⟨by decide +kernel, rfl, ready_of (by decide +kernel), ready_of (by decide +kernel), by simp⟩
/-- A count that reaches 65,535, and one that would pass it. -/
theorem witness_FlagPosts : let e := withFlags.env .sy h0
    Ready .post .sy (mkE Op.post.code h0 ⟨0, 0, 0, 1, 3, 0⟩) h0 withFlags ∧ (e.flagView 3).cnt.toNat + 65534 = 65535 ∧ 65535 < (e.flagView 4).cnt.toNat + 1 ∧
    Ready .expt .sy (mkE Op.expt.code h0 ⟨0, 0, 0, 3, 2, 0⟩) h0 withFlags ∧ (e.flagView 2).exp.toNat + 3 ≤ 65535 :=
  ⟨ready_of (by decide +kernel), by decide +kernel, by decide +kernel, ready_of (by decide +kernel), by decide +kernel⟩
/-- A post that another context has committed and that has not left its port: a post that leaves room for it, and one that
does not; the same by a party that is no bundle. -/
theorem witness_FlagPosts_due : let s := withFlags.modCtx 0 1 (fun x => { x with port := [⟨1, 1, 5, .sy (.post 3 65530)⟩] })
    let e := s.env .sy h0
    let five : Flag := ⟨6, 2, 65535, false⟩
    let more : Flag := ⟨7, 9, 65535, false⟩
    (e.flagView 3).post 1 = some ⟨0, 0, 0, false⟩ ∧ e.core.keeps 3 [1, 2, 3] ⟨0, 0, 0, false⟩ = true ∧
    e.core.keeps 3 [1, 2, 3] { five with exp := 0 } = false ∧ (e.core.flag 3).post 1 = some ⟨0, 0, 0, false⟩ ∧ e.core.keeps 3 [0, 1, 2, 3] ⟨0, 0, 0, false⟩ = true ∧
    e.core.keeps 3 [0, 1, 2, 3] { more with exp := 0 } = false ∧ (∀ k ∈ [1, 2, 3], ((withFlags.env .sy h0).core.ctx k).dueOps = []) ∧
    (e.core.flag 2).post 1 = none := by decide +kernel
theorem witness_FlagReadAndClear : Ready .frd .sy (mkE Op.frd.code hw ⟨5, 0, 0, 0, 3, 0⟩) hw withFlags ∧
    Ready .fclr .sy (mkE Op.fclr.code h0 ⟨0, 0, 0, 0, 2, 0⟩) h0 withFlags ∧ (withFlags.env .sy hw).x.portOps = [] :=
  ⟨ready_of (by decide +kernel), ready_of (by decide +kernel), by decide +kernel⟩
/-- A barrier with a level, one with none, one at which an arrival is pending; a deadline that has come. -/
theorem witness_BarriersAndGates : let s := baseX (fun x => { x with arrived := [(1, 1)], deadline := [(x.pauseKey, some 0)], yielded := [(x.pauseKey, true)] })
    let e := s.env .sy h0
    Ready .arv .sy (mkE Op.arv.code h0 ⟨0, 0, 0, 0, 0, 0⟩) h0 s ∧ SMap.get 0 e.x.arrived 0 = 0 ∧ e.x.port = [] ∧ e.x.lvl 0 ≠ 0 ∧ e.x.lvl 2 = 0 ∧ SMap.get 0 e.x.arrived 1 ≠ 0 ∧
    Ready .efence .sy (mkE Op.efence.code h0 ⟨0, 0, 0, 0, 0, 0⟩) h0 s ∧ s.ctxJobs 0 0 ++ e.x.rplacks = [] ∧
    Ready .sleepS .sy (mkE Op.sleepS.code (variant h0 1) ⟨0, 0, 0, 0, 0, 0⟩) (variant h0 1) s ∧
    SMap.get none e.x.deadline e.x.pauseKey = some 0 ∧ 0 ≤ s.tick ∧ SMap.get false e.x.yielded e.x.pauseKey = true :=
  ⟨ready_of (by decide +kernel), by decide +kernel, by decide +kernel, by decide +kernel, by decide +kernel, by decide +kernel, ready_of (by decide +kernel), by decide +kernel,
    ready_of (by decide +kernel), by decide +kernel⟩
/-- A SLEEP one tick before its deadline (R450), and one that has none yet. -/
theorem witness_BarriersAndGates_sleep : let s : State := { baseX (fun x => { x with deadline := [(x.pauseKey, some 8)] }) with tick := 7 }
    Ready .sleep .sy (mkE Op.sleep.code h0 ⟨0, 0, 0, 8, 0, 0⟩) h0 s ∧ SMap.get none (s.ctx 0 0).deadline (s.ctx 0 0).pauseKey = some 8 ∧ s.tick < 8 ∧
    Ready .sleep .sy (mkE Op.sleep.code h0 ⟨0, 0, 0, 8, 0, 0⟩) h0 base ∧ SMap.get none (base.ctx 0 0).deadline (base.ctx 0 0).pauseKey = none ∧
    Ready .bwait .sy (mkE Op.bwait.code h0 ⟨0, 0, 0, 0, 0, 0⟩) h0 (withAcc [] 0) ∧ SMap.get 0 ((withAcc [] 0).ctx 0 0).arrived 0 = 0 :=
  ⟨ready_of (by decide +kernel), by decide +kernel, by decide +kernel, ready_of (by decide +kernel), by decide +kernel, ready_of (by decide +kernel),
    by decide +kernel⟩
/-- A boot that waits for its first stage, one that failed, and a running module. -/
theorem witness_ResetBootAndFreeze : State.reset.oarov.recovery = false ∧ State.reset.oarov.stage.toNat < 3 ∧ 3 ≤ base.oarov.stage.toNat ∧ base.freeze = none ∧
    (frozenWith .freezePin).freeze ≠ none ∧ State.reset.bootCheck 1 ⟨false, [], 0, [], [], [], [], []⟩ ≠ 0 ∧
    (let s : State := { State.reset with oarov := { State.reset.oarov with stage := 1 } }
     s.oarov.recovery = false ∧ s.oarov.stage.toNat < 3 ∧ s.oarov.stage ≠ 0) := by decide +kernel
/-- Images of the three stages, of whose signatures the last check is to say whether they verify (R28): a function of Config
without a body, as the module's fuses are. -/
theorem witness_ResetBootAndFreeze_signed : let key : List Byte := List.replicate 64 7
    let m : Manifest := ⟨true, key, 3, [], [], key, key, List.replicate 29792 0⟩
    let s (n : BitVec 4) : State := { State.reset with oarov := { State.reset.oarov with stage := n, nextKey := key, loaderKey := key }, thermo := 0 }
    Config.slhVerify key m.body m.sig = true → (s 1).bootCheck 2 m = 0 ∧ (s 2).bootCheck 3 m = 0 ∧
      ∀ i < 4, Config.rootDigest i = sha256 key → Config.revoked.getLsbD i = false → (s 0).bootCheck 1 m = 0 := by
  intro key m s h
  have hl : signedBy m.key m.body m.sig = true := by
    simp only [signedBy, Bool.and_eq_true, decide_eq_true_eq]
    exact ⟨⟨List.length_replicate, List.length_replicate⟩, h⟩
  refine ⟨?_, ?_, ?_⟩
  · simp [State.bootCheck, hl, show m.readable = true from rfl, show m.images.map sha256 = m.digests from rfl]
    rfl
  · simp [State.bootCheck, hl, show m.readable = true from rfl, show m.images.map sha256 = m.digests from rfl]
    rfl
  · intro i hi hd hr
    have hm : i ∈ (List.range 4).filter (fun i => Config.rootDigest i = sha256 m.key) := by
      simp only [List.mem_filter, List.mem_range, decide_eq_true_eq]
      exact ⟨hi, hd⟩
    have hne : ((List.range 4).filter (fun i => Config.rootDigest i = sha256 m.key)).isEmpty = false := by
      cases hl : (List.range 4).filter (fun i => Config.rootDigest i = sha256 m.key) with
      | nil => rw [hl] at hm; cases hm
      | cons => rfl
    have ha : ((List.range 4).filter (fun i => Config.rootDigest i = sha256 m.key)).all (fun i => Config.revoked.getLsbD i) = false := by
      rw [Bool.eq_false_iff]
      intro h
      have := List.all_eq_true.mp h i hm
      simp [hr] at this
    have ht : decide (m.sv.toNat < thermoCount (s 0).thermo) = false := by
      show decide ((3 : BitVec 32).toNat < thermoCount 0) = false
      decide +kernel
    simp only [State.bootCheck, hl, hne, ha, ht, show m.readable = true from rfl, show m.images.map sha256 = m.digests from rfl]
    simp
/-- Whether a signature verifies is a function of Config without a body. -/
theorem witness_ManagementCommands : base.oarov.lastSeq = none ∧ ({ base with oarov := { base.oarov with lastSeq := some 5 } } : State).oarov.lastSeq = some 5 ∧
    ¬ (5 : Word) < 5 ∧ base.oarov.recovery = false ∧ base.oarov.stage = 3 ∧ base.oarov.mbSts ≠ 1 := by decide +kernel
/-- FIPS 180-4's example "abc", and the AES-256 example of FIPS 197, appendix C.3. -/
theorem test_sha256 : (bytesOf 32 (sha256 [0x61, 0x62, 0x63]).toNat).take 8 = [0xba, 0x78, 0x16, 0xbf, 0x8f, 0x01, 0xcf, 0xea] := by decide +kernel
theorem test_aes256 : aesEncrypt (aesKeys ((List.range 32).map (BitVec.ofNat 8))) ((List.range 16).map (fun i => BitVec.ofNat 8 (17 * i))) =
    [0x8e, 0xa2, 0xb7, 0xca, 0x51, 0x67, 0x45, 0xbf, 0xea, 0xfc, 0x49, 0x90, 0x4b, 0x49, 0x60, 0x89] := by decide +kernel
/-- A request that carries a command, with sequence number 5: header and body over any arguments (R79). -/
theorem witness_ManagementCommands_request (c : Nat) (l : List (List Byte)) :
    let q : MgmtReq := ⟨[1, Config.mgmtCode c] ++ bytesOf 2 (Config.mgmtBody c l).length ++ bytesOf 8 5 ++ bytesOf 4 0 ++ Config.mgmtBody c l, []⟩
    q.carries c l = true ∧ q.seq = 5 ∧ (∀ n, base.oarov.lastSeq = some n → n < q.seq) := by
  intro q
  have h : q.seq = 5 := by simp [q, MgmtReq.seq, getLe, slice, bytesOf, ofBytes]; decide
  refine ⟨?_, h, by simp [show base.oarov.lastSeq = none from rfl]⟩
  simp only [MgmtReq.carries, h, decide_eq_true_eq]
  simp [q]
/-- The same request is good where its signature verifies. -/
theorem witness_ManagementCommands_signed (c : Nat) (l : List (List Byte)) :
    let key : List Byte := List.replicate 64 7
    let q : MgmtReq := ⟨[1, Config.mgmtCode c] ++ bytesOf 2 (Config.mgmtBody c l).length ++ bytesOf 8 5 ++ bytesOf 4 0 ++ Config.mgmtBody c l, List.replicate 29792 0⟩
    let s : State := { base with oarov := { base.oarov with cmdKey := key } }
    Config.slhVerify key q.bytes q.sig = true →
      q.carries c l = true ∧ (∀ n, s.oarov.lastSeq = some n → n < q.seq) ∧ signedBy s.oarov.cmdKey q.bytes q.sig = true := by
  intro key q s h
  have w := witness_ManagementCommands_request c l
  refine ⟨w.1, w.2.2, ?_⟩
  simp only [signedBy, Bool.and_eq_true, decide_eq_true_eq]
  exact ⟨⟨List.length_replicate, List.length_replicate⟩, h⟩
/-- Ten samples of 2,401 W and ten of 2,000 W. -/
def sampled (w : Nat) : State := { base with
  tick := 200000000
  oarov := { base.oarov with samples := List.replicate 10 [BitVec.ofNat 32 (w * 1000), 0, 0, 0, 0, 0, 40], level := 3, belowFor := 100 } }
theorem witness_PowerAndScrub : let t (s : State) : Nat := ((s.oarov.samples.take 10).flatMap (fun l => (l.take 6).map BitVec.toNat)).foldl (· + ·) 0
    (10 ≤ (sampled 2401).oarov.samples.length ∧ 10000 * (sampled 2401).oarov.limit < t (sampled 2401)) ∧ (sampled 2401).oarov.level ≠ 7 ∧
    (sampled 2401).oarov.lastRaise + 10000000 ≤ (sampled 2401).tick ∧ 100 * t (sampled 2000) < 95 * (10000 * (sampled 2000).oarov.limit) ∧
    100 ≤ (sampled 2000).oarov.belowFor ∧ ¬ 10000 * (sampled 2400).oarov.limit < t (sampled 2400) ∧ isMemory 0x8000 1 = true := by decide +kernel
/-- The last register's byte, the address after it, and memory. -/
theorem witness_SystemCoreWrites : isMemory 0x8000 8 = true ∧ isMemory (devBase + 0x4FFFF) 1 = false ∧ (devBase + 0x4FFFF) % 1 = 0 ∧
    isMemory (devBase + 0x50000) 1 = false ∧ isMemory (devBase - 1) 1 = false ∧ (base.mring 31).busy = false ∧
    (({ base with media := [(3, { MediaRing.init with busy := true })] } : State).mring 3).busy = true := by decide +kernel
/-- A link that is up with a message's flit to send, one that trains, and a module whose route to module 1 is link 2. -/
def linked : State := { base with
  links := [(0, { Link.init with enable := true, state := .up, queue := [⟨1, false, 1, 0, true, true, []⟩] }), (1, { Link.init with enable := true, state := .training }),
    (2, { Link.init with enable := true })]
  tick := 200000000
  modnum := 0
  inbox := [⟨0x000000, 0x001000, .post, 1, 0, 0, []⟩] }
theorem witness_LinksCarryFlits : (linked.link 0).state = .up ∧ (linked.link 0).replay.length < 256 ∧ (linked.link 0).queue ≠ [] ∧
    (linked.link 0).lastSent + 10000000 ≤ linked.tick ∧ (linked.link 1).state = .training ∧ (linked.link 1).since + 100000000 ≤ linked.tick ∧
    (linked.link 2).state = .down ∧ (linked.link 2).enable = true ∧ moduleOf (0x001000 : BitVec 24) ≠ linked.modnum ∧
    linked.inbox.contains ⟨0x000000, 0x001000, .post, 1, 0, 0, []⟩ = true := by decide +kernel
/-- A message of each kind at the front of its stream. -/
def msgTo (kind : MsgKind) (cls : BitVec 2) (ws : List Nat) : Msg := ⟨0x001000, 0x000000, kind, cls, 0x8001, mkTw 2 2 0 0 [8, 64], wordsBytes ws⟩
theorem witness_MessagesArrive : (∀ k ∈ [MsgKind.sendReq, .sendGrant, .sendRefuse, .sendBusy, .typedData, .block, .ack, .post, .barrier, .px, .pxReply],
    (({ base with inbox := [msgTo k 2 [0, 0, 0]] } : State).takeMsg (msgTo k 2 [0, 0, 0])).isSome = true) ∧ pointOf (msgTo .post 2 []).dst < 1024 ∧
    pointOf (0x000400 : BitVec 24) = 1024 := by decide +kernel
theorem witness_MessagesArrive_send : let j := jobOf (.send ⟨mkTw 2 2 0 0 [8, 64], mkDeep 0 8, Cap.zero⟩ 0x001000 7)
    let s := baseC (fun c => { c with sends := [j] })
    s.sendJob 0 1 = some j ∧ s.jobWaits j = false ∧ (s.core 0).unmatched.length < 64 ∧ base.pxHeld 0 < 64 ∧
    64 ≤ ({ base with pxq := [(0, List.replicate 64 j)] } : State).pxHeld 0 := by decide +kernel
/-- A running collective of group 3 to which a contribution is due, and an unusable group. -/
theorem witness_CollectivesRun : let r : CollRun := ⟨3, ⟨0, 0, 1, 1, false, 5, 0, 16⟩, [], [(0, [[]])], true, 0, 0⟩
    let s : State := { base with
      cruns := [r]
      tick := 2000000000 }
    s.collRun 3 = some r ∧ r.status = 0 ∧ r.tick + 1000000000 ≤ s.tick ∧ base.collRun 3 = none ∧ base.groupOk 3 = false := by decide +kernel
/-- A started job whose destination waits, within the second and after it. -/
theorem witness_CollectivesRun_waits : let j := jobOf (.take)
    let r : CollRun := ⟨3, ⟨0, 0, 1, 1, false, 5, 0, 16⟩, [j], [(0, [[]])], true, 1000000000, 0⟩
    let s : State := { base with cruns := [r], engWaits := [⟨collRq j, 0, 0, 1, .waiting⟩] }
    s.collRun 3 = some r ∧ r.status = 0 ∧ (s.members 3).length ≤ r.contribs.length ∧ (∃ j ∈ r.jobs, (s.engWait (collRq j)).isSome = true) ∧
    r.tick + 1000000000 ≤ ({ s with tick := 2000000000 } : State).tick ∧ ({ s with tick := 1999999999 } : State).tick < r.tick + 1000000000 := by decide +kernel
/-- The greatest number of tasks that lets a record in; a ring with an entry; the loaded task at its end. -/
def queued : State := { base with
  lq := [(7, { Ring.init with base := 0x10000, log2 := 6, tail := 1 })]
  cq := { Ring.init with base := 0x20000, log2 := 6 }
  fq := { Ring.init with base := 0x30000, log2 := 6 }
  compWait := [List.replicate 16 0]
  faultWait := [List.replicate 32 0] }
theorem witness_TasksLaunchAndComplete : queued.nextQueue = some 7 ∧ queued.tasks.length < 16384 ∧ queued.cq.full = false ∧ queued.fq.full = false ∧
    (queued.task 0).isSome = true ∧ queued.gangDone loadedTask = false ∧ (queued.modCtx 0 0 (fun x => { x with status := .idle })).gangDone loadedTask = true ∧
    loadedTask.rcd.succv = false ∧ base.compWait = [] := by decide +kernel
/-- A record for each status; a task that ends with a successor, with one that waits for it alone, and with none. -/
theorem witness_TasksLaunchAndComplete_successor : let a : Task := { loadedTask with rcd := { loadedTask.rcd with succv := true, succ := 1 } }
    let b : Task := { loadedTask with rcd := { loadedTask.rcd with task := 1 }, state := .waiting, dep := 1 }
    let s (l : List Task) : State := { base.modCtx 0 0 (fun x => { x with status := .idle }) with tasks := l }
    let r := loadedTask.rcd
    (∀ l ∈ [[a, b], [a], [a, { b with dep := 0 }]], (s l).task 0 = some a ∧ (s l).gangDone a = true) ∧ a.rcd.succv = true ∧
    (s [a, b]).task 1 = some b ∧ b.space = a.space ∧ b.dep = 1 ∧ b.state = .waiting ∧ (s [a]).task 1 = none ∧
    r.reservedOk = true ∧ r.gang.toNat < 7 ∧ r.dfu ≠ 0 ∧ r.gran ≠ 0 ∧ base.checkRecord { r with gang := 7 } false false = 1 ∧ base.checkRecord r true false = 2 ∧
    base.checkRecord { r with cpc := 3, dfu := 200 } false false = 3 ∧ base.checkRecord r false true = 4 := by decide +kernel
theorem witness_TasksLaunchAndComplete_service : let s := baseC (fun c => { c with svcs := [jobOf .take], resv := .owned 0 })
    (s.wdJob 0 0 (fun k => k = .take)).isSome = true ∧ (s.task 0).isSome = true ∧ (s.core 0).resv.owner = some 0 ∧
    (let u := baseC (fun c => { c with svcs := [jobOf (.launch cap5)] })
     (u.wdJob 0 0 (fun k => match k with
       | .launch _ => true
       | _ => false)) = some (jobOf (.launch cap5)) ∧ u.jobWaits (jobOf (.launch cap5)) = false) := by decide +kernel
/-- A task in each place. -/
def placed (p : PlaceState) (asked : List Nat) : State := { State.reset with
  tasks := [{ loadedTask with state := .ready, place := p, asked := asked }]
  tick := 20000000 }
theorem witness_GangsArePlaced : ((placed .none []).task 0).isSome = true ∧ ((placed .select []).task 0).isSome = true ∧ (placed .select []).placing 0 < 4 ∧
    ({ loadedTask with state := .ready, place := .select } : Task).picked = false ∧
    (loadedTask.sets.find? (fun set => set.all (fun c => (placed .select []).openTo 0 c && !(placed .select []).promised 0 c))).isSome = true ∧
    (loadedTask.sets.find? (fun set => set.all (fun c => (placed .wait []).openTo 0 c && !(placed .wait []).promised 0 c))).isSome = true ∧ (placed .phase1 [0]).openTo 0 0 = true ∧
    ((placed .phase1 [0]).setCore 0 { Core.init with resv := .owned 5 }).openTo 0 0 = false ∧ (placed .none []).holdTaken 0 = false ∧
    ({ placed .none [] with hold := [(0, 1)] } : State).holdTaken 0 = true ∧ (placed .none []).tick / (placed .none []).quantumTicks ≠ SMap.get 0 (placed .none []).quantum 0 := by
  decide +kernel
/-- A waiter whose set is owned by a gang of lower priority, one that no gang can make room for, and one that a set is kept for; a swapped
gang whose reservations stand. -/
theorem witness_GangsArePlaced_waits : let w : Task := { loadedTask with state := .swapped, place := .wait, rcd := { loadedTask.rcd with prio := 7 } }
    let v : Task := { loadedTask with state := .running, filled := true, rcd := { loadedTask.rcd with task := 1, prio := 0 } }
    let s : State := { (({ State.reset with tasks := [w, v] } : State).setCore 0 { Core.init with resv := .owned 1 }) with wd := { State.reset.wd with swcnt := 4 } }
    w.picked = true ∧ w.onto = none ∧ (w.onto.toList ++ w.sets).find? (fun set => set.all (fun c => s.openTo 0 c && !s.promised 0 c)) = none ∧
    (s.modTask 0 (fun t => { t with place := .wait })).victimSet w true [] = some [0] ∧
    (let t : Task := { loadedTask with state := .swapped, place := .phase1 }
     let u := ({ State.reset with tasks := [t] } : State).setCore 0 { Core.init with resv := .reserved 0 5 false }
     u.task 0 = some t ∧ t.asked = [] ∧ t.refused = false ∧ ∀ c ∈ t.cores, (u.core c).resv = .reserved 0 5 false) := by decide +kernel
/-- A waiter whose kept set is owned by a gang that has been asked to stop, and by one that has not. -/
theorem witness_GangsArePlaced_kept : let w : Task := { loadedTask with state := .swapped, place := .wait, onto := some [0], rcd := { loadedTask.rcd with prio := 7 } }
    let v (stop : Option Nat) : Task := { loadedTask with state := .running, filled := true, stopAt := stop, rcd := { loadedTask.rcd with task := 1, prio := 0 } }
    let s (stop : Option Nat) : State := { (({ State.reset with tasks := [w, v stop] } : State).setCore 0 { Core.init with resv := .owned 1 }) with wd := { State.reset.wd with swcnt := 4 } }
    (∀ stop ∈ [some 5, none], (s stop).task 0 = some w ∧ (w.onto.toList ++ w.sets).find? (fun set => set.all (fun c => (s stop).openTo 0 c && !(s stop).promised 0 c)) = none ∧
      ((s stop).ownersOf [0]).map (·.stopAt) = [stop] ∧ ((s stop).ownersOf [0]).map (·.cut) = [none]) ∧ w.picked = true ∧
    ((s none).modTask 0 (fun t => { t with place := .wait })).victimSet w true [] = some [0] := by decide +kernel
theorem witness_GangsSwapAndRoute : let t : Task := { loadedTask with stopAt := some 5 }
    let s : State := { base with tasks := [t] }
    s.task 0 = some t ∧ t.state = .running ∧ t.place = .none ∧ t.cut = none ∧ (∀ p ∈ s.liveCtxs 0, (s.ctx p.1 p.2).report = none) ∧
    (let u := s.modCtx 0 0 (fun x => { x with report := some 3, held := true, stopped := true })
     (∀ p ∈ u.liveCtxs 0, (u.ctx p.1 p.2).report ≠ none) ∧ (∀ p ∈ u.liveCtxs 0, (u.ctx p.1 p.2).stopped = true) ∧ u.freeSlots.length < t.cores.length) := by decide +kernel
/-- A held context below the cut and one at it; an XROUTE on its way to its group, one at the head of a group, and an expert whose task
has ended. -/
theorem witness_GangsSwapAndRoute_route : let j := jobOf (.xroute cap5 7 [(0, 0)])
    let s := baseC (fun c => { c with svcs := [j] })
    let g := XGroup.unused j cap5
    (s.wdJob 0 0 (fun k => (xrouteOf k).isSome) = some j) ∧ ({ g with wait := [j] } : XGroup).stuck = false ∧ g.starting = [] ∧ g.result = none ∧
    (let u : State := { base with groups := [({ g with nexp := 1, ready := true, wait := [j], tmpl := { g.tmpl with task := 9 } } : XGroup).setExpert 0 { Expert.init with st := 1 }] }
     (u.groups.findSome? (fun g => ((List.range g.nexp).find? (fun e => (g.expert e).st = 1 && (g.tmpl.task + BitVec.ofNat 20 e).toNat = 9 &&
       !u.tasks.any (fun t => t.group = some g.key && t.expert.toNat = e))).map (fun e => (g, e)))).isSome) ∧
    s.jobWaits j = false ∧
    (let x : Ctx := { Ctx.init with held := true, sr := { Ctx.init.sr with lastcut := 3 } }
     x.held = true ∧ x.lastCut = some 3 ∧ x.mayStop = true ∧ ({ Ctx.init with held := true } : Ctx).lastCut = none) ∧
    (let h : XGroup := ({ g with nexp := 1, ready := true } : XGroup).setExpert 0 { Expert.init with st := 2 }
     h.ready = true ∧ h.bad = false ∧ h.midway = false ∧ ∀ n < h.nexp, (h.expert n).st = 2) := by decide +kernel
/-- A channel with a command of each kind at its head. -/
def channelled (w0 w1 : Nat) : State := ({ base with ch := { base.ch with ring := { Ring.init with base := 0x10000, log2 := 6, tail := 1 } } } : State).memWrite 0 0x10000
  (bytesOf 8 w0 ++ bytesOf 8 w1)
theorem witness_ChannelAndWalks : (∀ o ∈ [1, 2, 3, 4, 5, 6], (match (channelled o 0x8000).command with
      | some c => decide (c.opc = o)
      | none => false) = true) ∧
    (match (channelled 6 0).command with
      | some c => !(channelled 6 0).skips c
      | none => false) = true ∧ (match (channelled 9 0).command with
      | some c => (channelled 9 0).skips c
      | none => false) = true := by decide +kernel
/-- A context whose access waits for its translation. -/
theorem witness_ChannelAndWalks_walk : let s : State := { withAcc [] 0 with tlb := [] }
    let u : State := { s with walks := [⟨.ctx 0 0, 0, 0, 0, 0x100008, false, false, true⟩] }
    s.command = none ∧ s.portMiss 0 0 = some (0x100008, 0) ∧ s.walks = [] ∧ 0x100008 < 2 ^ 63 ∧ u.command = none ∧ u.portMiss 0 0 = some (0x100008, 0) ∧
    (∃ w ∈ u.walks, w.req = .ctx 0 0 ∧ w.running = true) ∧ ({ s with objCache := [] } : State).portMiss 0 0 = some (2 ^ 63 + 5, 0) ∧ base.portMiss 0 0 = none :=
  ⟨by decide +kernel, by decide +kernel, by decide +kernel, by decide +kernel, by decide +kernel, by decide +kernel, ⟨_, .head _, rfl, rfl⟩, by decide +kernel,
    by decide +kernel⟩
/-- A walk in a space that has no valid entry (R105). -/
theorem witness_ChannelAndWalks_space : let s : State := { withAcc [] 0 with tlb := [], walks := [⟨.ctx 0 0, 0, 0, 0, 0x100008, false, false, true⟩] }
    s.portMiss 0 0 = some (0x100008, 0) ∧ 0x100008 < 2 ^ 63 ∧ (match (s.walk (.ctx 0 0) (s.spaceOf 0) 0x100008 false false 0).2 with
      | .noSpace _ => true
      | _ => false) = true ∧ ((s.walk (.ctx 0 0) (s.spaceOf 0) 0x100008 false false 0).1.front 0 0).isSome = true := by decide +kernel
/-- REPLAY of a parked context's fault 0, and KILL of an engine's. -/
theorem witness_ChannelAndWalks_faults : let s : State := { (channelled 3 0) with outFaults := [⟨0, .ctx 0 0, 0, 1, 0⟩] }
    let t : State := { (channelled 4 0) with outFaults := [⟨0, .pix 3, 0, 1, 0⟩], engWaits := [⟨.pix 3, 0, 0, 1, .waiting⟩] }
    ((s.modCtx 0 0 (fun x => { x with status := .parked })).ctx 0 0).status = .parked ∧ (s.ctx 0 0).status ≠ .idle ∧
    (match s.command, t.command with
      | some c, some d => !s.skips c && !t.skips d && decide (c.opc = 3) && decide (d.opc = 4) && (s.fault? c.arg).isSome && (t.fault? d.arg).isSome
      | _, _ => false) = true := by decide +kernel
theorem witness_TiersAndKeys : let m : Move := ⟨0x8000, some 0x100000000000, 0x9000, 1, true⟩
    let s : State := { base with
      tiers := [(0, { Tier.init with count := 1, fscap := 1, moves := [m] }), (1, { Tier.init with fscap := 1, victim := some { m with drained := false } })]
      keys := { base.keys with busy := true, sel := 511 }
      so := { Ring.init with log2 := 6 } }
    (s.tier 0).count ≠ 0 ∧ (s.tier 0).fscap ≤ (s.tier 0).count ∧ (s.tier 1).count < (s.tier 1).fscap ∧ (s.tier 2).count = 0 ∧
    ((s.tier 0).moves.find? (fun m => m.drained && m.dst.isSome)) = some m ∧ s.keys.busy = true ∧ (∀ t ∈ s.tiers, ∀ m ∈ t.2.moves, keyOf m.ent ≠ s.keys.sel) ∧
    s.so.full = false ∧ base.keys.busy = false ∧ base.keys.sel = 0 := by decide +kernel
/-- A victim for each destination of tier 0, the last with no frame there; a drained move that waits for the storage-out ring. -/
theorem witness_TiersAndKeys_moves : let m : Move := ⟨0x8000, none, 0x9000, 1, false⟩
    let s (n : BitVec 2) : State := { base with tiers := [(0, { Tier.init with next := n, victim := some m }), (1, { Tier.init with count := 1 })], so := { Ring.init with log2 := 6 } }
    let full : State := { base with tiers := [(0, { Tier.init with moves := [{ m with drained := true }] })], so := { Ring.init with log2 := 6, tail := 64 } }
    ((s 0).tier 0).dest 0 = 0 ∧ ((s 1).tier 0).dest 0 = 1 ∧ ((s 2).tier 0).dest 0 = 2 ∧ ((s 3).tier 0).dest 0 = 3 ∧ (∀ n, (s n).ringWait 0 = false) ∧
    ((s 1).popFrame 1).2.isSome = true ∧ ((s 2).tier 2).count = 0 ∧ full.ringWait 0 = true ∧ full.so.full = true ∧ base.ringWait 0 = false ∧
    (base.tier 0).victim = none := by decide +kernel
/-- A ring with a card, one whose card breaks its layout, one that has run; a drive with a command 30 s old. -/
theorem witness_MediaStorageAndCxl : let s : State := { base with
      media := [(0, { MediaRing.init with base := 0x10000, log2 := 6 }), (1, { MediaRing.init with log2 := 6, busy := true, card := some (List.replicate 128 0) }),
        (16, { MediaRing.init with log2 := 6, busy := true, card := some (List.replicate 128 0), finished := some (0, 0, 3) })]
      drives := [(63, { Drive.init with cmds := [⟨5, 0, 1, 0, 1, 0⟩] })]
      tick := 30000000000
      cxlDown := [(3, true)] }
    (s.mring 0).cfgErr = false ∧ (s.mring 0).busy = false ∧ (s.mring 1).card = some (List.replicate 128 0) ∧ (s.mring 1).finished = none ∧
    s.cardOk (List.replicate 128 0) 1 = false ∧ (s.mring 16).finished = some (0, 0, 3) ∧ (s.drive 63).cmds.find? (fun c => c.cid = 6) = none ∧
    (s.drive 63).cmds.find? (fun c => c.cid = 5) = some ⟨5, 0, 1, 0, 1, 0⟩ ∧ 0 + 30000000000 ≤ s.tick ∧ s.cxlLost (0x100000000000 + 4 * 2 ^ 41 - 8) = true := by
  decide +kernel
/-- A drive's command of one block of 512 bytes, for a storage read that stands. -/
theorem witness_MediaStorageAndCxl_drive : let j := jobOf (.sgrd cap5 0 63 1 512)
    let s : State := { baseC (fun c => { c with sgrds := [{ j with started := true }] }) with drives := [(63, { Drive.init with lbash := 9, cmds := [⟨5, 0, 1, 0, 1, 0⟩] })] }
    (s.drive 63).cmds.find? (fun c => c.cid = 5) = some ⟨5, 0, 1, 0, 1, 0⟩ ∧ (List.replicate 512 (0 : Byte)).length = 1 * (s.drive 63).block ∧
    s.sgJob 0 1 = some { j with started := true } ∧ base.sgJob 0 1 = none := by decide +kernel
/-- A pool in a pass whose first page is of the other generation, with a slot to give it. -/
theorem witness_PrefixIndexServes_pass : let s : State := (({ base with
      spaceCache := [⟨0, 0, 0, 0, 0, 0x30000, 1⟩]
      tlb := [⟨.last 0, 0, 0, 0x100000, 65536, 0x100000, 0, true, true, 0⟩]
      px := [(0, { PxPool.init with cfg := 1, ready := true, rqact := true, rqtgt := true, slots := 2 })] } : State).memWrite 0 0x30000
        (bytesOf 8 0x100000 ++ bytesOf 8 0x10000 ++ bytesOf 2 1)).memWrite 0 0x100000 (bytesOf 8 (2 ^ 48 + 2 ^ 32))
    let x := s.pool 0
    let r := (⟨s.engine (.pix 8) x.space 0, 0, x, [], [], none⟩ : Pix).read x.metaobj (x.pageAt x.rqpos) 8
    let pg := pageOf (ofBytes r.2)
    x.rqact = true ∧ (∀ q ∈ s.pxq, ∀ j ∈ q.2, j.started = false) ∧ r.1.e.stop = none ∧ pg.v = true ∧ pg.cbg ≠ x.rqtgt.toNat ∧ pg.slot < x.slots ∧ x.popSlot.isSome = true := by
  decide +kernel
/-- A command of each OPC, and one of another; a pool that is READY for space 0, and one that is not. -/
theorem witness_PrefixIndexServes_command : let x : PxPool := { PxPool.init with cfg := 1, ready := true, entries := [(4, [1, 2]), (3, [1, 2])] }
    let k : Pix := ⟨base.engine (.pix 16) 0 0, 0, x, [], [], none⟩
    let b (opc n : Nat) : List Byte := [BitVec.ofNat 8 opc, 0] ++ bytesOf 2 n ++ List.replicate 60 0
    (∀ o ∈ [1, 2, 3, 4, 5], getLe (b o 1) 0 1 = o) ∧ pxArgsOk (b 5 1) 64 false = true ∧ pxArgsOk (b 0 1) 64 false = false ∧ k.x.space = 0 ∧ k.on = true ∧
    x.matchOf [1, 3] = (1, some 3) ∧ x.matchOf [5] = (0, none) := by decide +kernel
theorem witness_PrefixIndexServes : let s : State := { base with
      px := [(0, { PxPool.init with cfg := 1, cfgerr := false, ready := true }), (7, { PxPool.init with cfg := 1 })]
      pxq := [(0, [jobOf (.px 1 cap5)])] }
    (s.pixNext).isSome = true ∧ (s.pool 0).enabled = true ∧ ({ s with pxq := [] } : State).poolBusy 7 = false ∧ (s.pool 0).ready = true ∧ (s.pool 0).rqact = false ∧
    (s.pool 7).enabled = true ∧ (s.pool 7).ready = false ∧ (s.pool 7).initbusy = false := by decide +kernel
/-- A command that has ended and whose status write waits (R134), and one that has not. -/
theorem witness_PrefixIndexServes_ended : (jobOf (.px 1 cap5)).done = false ∧ ({ jobOf (.px 1 cap5) with done := true } : Job).done = true := by decide +kernel
theorem witness_CoresAdvance : let s := (baseC (fun c => { c with rinks := [(2, { Rink.init with defd := true, infl := 1, landed := [128] })], resv := .owned 0, svcs := [{ jobOf .take with done := true, pend := some 1 }] })).modCtx 0 0 (fun x => { x with
      pend := [⟨1, 1, false, .eg, true, true, [(.s, 2), (.s, 3)], [], [], none⟩]
      causes := [⟨.watchdog, 2⟩]
      watch := [⟨2, 0, 2 ^ 30⟩]
      sr := { x.sr with arithx := 2 } })
    let x := s.ctx 0 0
    ((s.core 0).svcs.find? (fun j => j.ctx = 0 && j.done)).isSome = true ∧ (s.core 0).resv.owner = some 0 ∧ (x.pend.find? (fun p => some p.id = some 1)).isSome = true ∧
    x.hasCause = true ∧ x.nextCause = some ⟨.watchdog, 2⟩ ∧ (((s.land 0).modCore 0 (fun c => c.replay 0)).ctx 0 0).quiet = true ∧
    ((((withAcc [] 0).land 0).modCore 0 (fun c => c.replay 0)).ctx 0 0).quiet = false ∧ x.sr.arithx.getLsbD 1 = true ∧ ((s.core 0).rink 2).landed = [128] := by decide +kernel
/-- A tile type and a word that return; a deadline that has come; a block that fills; an acknowledgement with its record. -/
theorem witness_CoresAdvance_others : let p : Pending := ⟨1, 1, false, .eg, true, true, [(.s, 2), (.t, 3)], [], [], none⟩
    let s := (baseC (fun c => { c with lbs := [(4, { LoadBlock.init with st := .filling, count := 1 })] })).modCtx 0 0 (fun x => { x with
      status := .blocked
      deadline := [(x.pauseKey, some 0)]
      rplacks := [jobOf (.rplack true [])] })
    p.w = true ∧ p.regs.Nodup ∧ p.regs[0]? = some (.s, 2) ∧ p.regs[1]? = some (.t, 3) ∧ SMap.get none (s.ctx 0 0).deadline (s.ctx 0 0).pauseKey = some 0 ∧
    (SMap.get LoadBlock.init (s.core 0).lbs 4).st = .filling ∧ s.faultWait = [] ∧ queued.fq.full = false ∧ (s.ctx 0 0).rplacks = [jobOf (.rplack true [])] ∧
    (base.ctx 0 0).rplacks = [] := by decide +kernel
/-- The tick at which a wait of 2^30 ns ends. -/
theorem witness_CoresAdvance_watchdog : let s : State := { baseX (fun x => { x with status := .blocked, watch := [⟨6, 0, 2 ^ 30⟩, ⟨2, 0, 2 ^ 30⟩], sr := { x.sr with arithx := 2 } }) with tick := 2 ^ 30 }
    (s.ctx 0 0).status = .blocked ∧ (s.ctx 0 0).held = false ∧ (s.ctx 0 0).stopped = false ∧ (s.ctx 0 0).sr.arithx.getLsbD 1 = true ∧
    (s.ctx 0 0).watch.find? (fun w => w.row ≠ 6 && w.since + 2 ^ 30 ≤ w.last) = some ⟨2, 0, 2 ^ 30⟩ ∧
    (∀ w ∈ [(⟨6, 0, 2 ^ 30⟩ : BlockWatch), ⟨2, 0, 2 ^ 30 - 1⟩], w.row = 6 ∨ w.last < w.since + 2 ^ 30) := by decide +kernel
theorem witness_EnginesRunJobs : let s := baseC (fun c => { c with ce := [jobOf (.expand cap5 false 0)], me := [{ jobOf .query with started := true }] })
    (s.core 0).ce = [jobOf (.expand cap5 false 0)] ∧ (jobOf (.expand cap5 false 0)).started = false ∧ s.jobWaits (jobOf (.expand cap5 false 0)) = false ∧
    (s.core 0).me = [{ jobOf .query with started := true }] := by decide +kernel
theorem witness_EnginesRunJobs_merge : let s : State := { base with merges := [(0, { Merge.init with st := .opened, queue := [jobOf (.mpush 0 [] true), jobOf .mclose] })] }
    s.jobWaits (jobOf (.mpush 0 [] true)) = false ∧ (s.mergeOf 0).queue = [jobOf (.mpush 0 [] true), jobOf .mclose] ∧ (s.mergeOf 0).st ≠ .idle ∧ (s.mergeOf 0).task = (jobOf .mclose).task ∧
    (base.mergeOf 0).st = .idle := by decide +kernel

end Sys2Proof.Tests
end

section
/-!
PROOFS. The module after reset: what each part of `State.reset` reads (R26, R153).
-/

namespace Sys2Proof.Machine

@[simp] theorem State.reset_ctx (n k : Nat) : State.reset.ctx n k = Ctx.init := rfl
@[simp] theorem State.reset_link (l : Nat) : State.reset.link l = Link.init := rfl
@[simp] theorem State.reset_lqOf (n : Nat) : State.reset.lqOf n = Ring.init := rfl
@[simp] theorem State.reset_mring (n : Nat) : State.reset.mring n = MediaRing.init := rfl
@[simp] theorem State.reset_pool (p : Nat) : State.reset.pool p = PxPool.init := rfl

@[simp] theorem Ctx.init_sReg (n : Nat) : Ctx.init.sReg n = 0 := ite_self _
@[simp] theorem Ctx.init_pReg (n : Nat) : Ctx.init.pReg n = decide (n = 0) := by
  by_cases h : n = 0 <;> simp [Ctx.pReg, Ctx.init, h]

/-- No ring that a system core sets up is configured at reset: LOG2 0, and nothing in it (R68, R72). -/
theorem reset_ring_init {r : Ring} (h : r = State.reset.cq ∨ r = State.reset.fq ∨ r = State.reset.so ∨ r = State.reset.ch.ring ∨
    ∃ n, r = State.reset.lqOf n) : r = Ring.init := by
  rcases h with rfl | rfl | rfl | rfl | ⟨n, rfl⟩ <;> rfl

/-- Settles O3: each part of the reset state reads its reset value. -/
theorem resetLeaves : Obligations.ResetLeaves := by
  refine ⟨rfl, rfl, rfl, rfl, rfl, rfl, rfl, fun l => ?link, fun r hr => ?ring, fun n => ?mring, fun p => ?pool, fun ci k => ?ctx⟩
  case link =>
    rw [State.reset_link]
    exact ⟨rfl, rfl, rfl⟩
  case ring =>
    rw [reset_ring_init hr]
    exact ⟨rfl, rfl, rfl⟩
  case mring =>
    rw [State.reset_mring]
    exact ⟨rfl, rfl⟩
  case pool =>
    rw [State.reset_pool]
    rfl
  case ctx =>
    rw [State.reset_ctx]
    refine ⟨rfl, rfl, rfl, rfl, rfl, Ctx.init_pReg 0, fun n => ?_⟩
    exact ⟨Ctx.init_sReg n, rfl, rfl, rfl, rfl, rfl, fun hn => by simp [hn], rfl⟩

end Sys2Proof.Machine
end

section
/-!
PROOFS. The management port (R27, R77 to R80): which requests carry a command, what a signed and an unsigned one come to, and
the answers of each command.
-/

namespace Sys2Proof.Machine

/-- A request may be obeyed (R79, R80): it is newer than the last one accepted, and its signature verifies. -/
def State.Authorises (s : State) (q : MgmtReq) : Prop :=
  (∀ n, s.oarov.lastSeq = some n → n < q.seq) ∧ signedBy s.oarov.cmdKey q.bytes q.sig = true

/-- The state in which an authorised request runs: its sequence number is the last one accepted (R79). -/
def State.accepted (s : State) (q : MgmtReq) : State := { s with oarov := { s.oarov with lastSeq := some q.seq } }

@[simp] theorem State.accepted_freeze (s : State) (q : MgmtReq) : (s.accepted q).freeze = s.freeze := rfl
@[simp] theorem State.accepted_recovery (s : State) (q : MgmtReq) : (s.accepted q).oarov.recovery = s.oarov.recovery := rfl
@[simp] theorem State.accepted_failStage (s : State) (q : MgmtReq) : (s.accepted q).oarov.failStage = s.oarov.failStage := rfl

section
variable {s : State} {q : MgmtReq} {c : Nat} {args : List (List Byte)} {run : State → State}

theorem State.signed_of_not_carries (h : q.carries c args = false) : s.signed q c args run = s := by
  simp [State.signed, h]

/-- The check of `State.signed` is `State.Authorises`. -/
theorem State.signed_of_carries (h : q.carries c args = true) [Decidable (s.Authorises q)] :
    s.signed q c args run = if s.Authorises q then run (s.accepted q) else s.reply .auth := by
  unfold State.signed
  dsimp only
  rw [if_neg (by simp [h])]
  refine if_congr ?_ rfl rfl
  unfold State.Authorises
  split
  · next hl => simp [hl]
  · next hl => simp [hl]

theorem State.signed_of_authorises (h : q.carries c args = true) (ha : s.Authorises q) :
    s.signed q c args run = run (s.accepted q) := by
  classical rw [State.signed_of_carries h, if_pos ha]

theorem State.signed_of_not_authorises (h : q.carries c args = true) (ha : ¬ s.Authorises q) :
    s.signed q c args run = s.reply .auth := by
  classical rw [State.signed_of_carries h, if_neg ha]

/-- What a signed request comes to: nothing, an answer AUTH, or its command. -/
theorem State.signed_cases (s : State) (q : MgmtReq) (c : Nat) (args : List (List Byte)) (run : State → State) :
    s.signed q c args run = s ∨ s.signed q c args run = s.reply .auth ∨ s.signed q c args run = run (s.accepted q) := by
  cases hc : q.carries c args with
  | false => exact .inl (State.signed_of_not_carries hc)
  | true =>
    by_cases ha : s.Authorises q
    · exact .inr (.inr (State.signed_of_authorises hc ha))
    · exact .inr (.inl (State.signed_of_not_authorises hc ha))

theorem State.unsigned_of_not_carries {r : MgmtReply} (h : q.carries c args = false) : s.unsigned q c args r = s := by
  simp [State.unsigned, h]

theorem State.unsigned_of_carries {r : MgmtReply} (h : q.carries c args = true) : s.unsigned q c args r = s.reply r := by
  simp [State.unsigned, h]

end

/-- The first cause alone counts (R24). -/
theorem State.assertFreeze_of_frozen {s : State} (h : s.freeze.isSome = true) (c : BitVec 8) : s.assertFreeze c = s := by
  simp [State.assertFreeze, h]

/-- What an authorised read-out answers (R27): the frozen state, or a refusal where the module runs. -/
def State.readOutReply (s : State) : MgmtReply :=
  match s.freeze with
  | some f => .readOut f.tick f.cause ((List.range 4).flatMap (s.dieSections f) ++ s.ioSections f ++ s.memSections f)
  | none => .refused

theorem State.readOutReply_of_frozen {s : State} {f : Freeze} (h : s.freeze = some f) :
    ∃ l, s.readOutReply = .readOut f.tick f.cause l := by
  unfold State.readOutReply
  rw [h]
  exact ⟨_, rfl⟩

theorem State.readOutReply_of_running {s : State} (h : s.freeze = none) : s.readOutReply = .refused := by
  unfold State.readOutReply
  rw [h]

theorem exec_mgmtReadOut (q : MgmtReq) (s : State) :
    exec (.mgmtReadOut q) s = .next (s.signed q 1 [] (fun s => s.reply s.readOutReply)) := by
  refine congrArg (fun run => (.next (s.signed q 1 [] run) : Out)) (funext fun u => ?_)
  unfold State.readOutReply
  cases u.freeze <;> rfl

@[simp] theorem bytesOf_length (n v : Nat) : (bytesOf n v).length = n := by simp [bytesOf]

end Sys2Proof.Machine
end

section
/-!
PROOFS. What runs where the module is frozen or in recovery mode (R25, R26, R30): the turns that may run there, and what each
event that a frozen module still takes leaves unchanged.
-/

namespace Sys2Proof.Machine

/-! ### Which turns run -/

theorem State.run_of_not_allows {s : State} {t : Turn} (h : s.allows t = false) : s.run t = .next s := by
  simp [State.run, h]

/-- An allowed event that is no slot instruction runs its meaning. -/
theorem State.run_event {s : State} {i : Instr} (h : s.allows (.event i) = true) (hw : encodeWord i = none) :
    s.run (.event i) = exec i s := by
  simp [State.run, h, hw]

/-- What an event's turn comes to: nothing, or its meaning. -/
theorem State.run_event_cases (s : State) (i : Instr) : s.run (.event i) = .next s ∨ s.run (.event i) = exec i s := by
  cases h : s.allows (.event i) with
  | false => exact .inl (State.run_of_not_allows h)
  | true =>
    cases hw : encodeWord i with
    | none => exact .inr (State.run_event h hw)
    | some p => exact .inl (by simp [State.run, h, hw])

/-- A frozen module takes the events of `frozenEvent` and no other turn (R25, R26). -/
theorem State.allows_event_of_frozen {s : State} (hf : s.freeze.isSome = true) (i : Instr) :
    s.allows (.event i) = frozenEvent i := by
  simp [State.allows, hf]

theorem State.event_of_allows_of_frozen {s : State} {t : Turn} (hf : s.freeze.isSome = true) (h : s.allows t = true) :
    ∃ i, t = .event i ∧ frozenEvent i = true := by
  cases t with
  | event i => exact ⟨i, rfl, (State.allows_event_of_frozen hf i).symm.trans h⟩
  | issue n => simp [State.allows, Option.isSome_iff_ne_none.mp hf] at h
  | load a n => simp [State.allows, Option.isSome_iff_ne_none.mp hf] at h
  | together l => simp [State.allows, Option.isSome_iff_ne_none.mp hf] at h

/-- Every event that a frozen module takes is the controller's. -/
theorem controllerEvent_of_frozenEvent {i : Instr} (h : frozenEvent i = true) : controllerEvent i = true := by
  unfold frozenEvent at h
  split at h
  case h_11 => cases h
  all_goals rfl

/-- In recovery mode an event that may run is the controller's (R30). -/
theorem State.controllerEvent_of_allows {s : State} {i : Instr} (hr : s.oarov.recovery = true) (h : s.allows (.event i) = true) :
    controllerEvent i = true := by
  by_cases hf : s.freeze.isSome = true
  · exact controllerEvent_of_frozenEvent ((State.allows_event_of_frozen hf i).symm.trans h)
  · simpa [State.allows, hf, hr] using h

/-- In recovery mode the turns that run are events of the controller, alone or as freeze causes together (R30). -/
theorem State.allows_of_recovery {s : State} {t : Turn} (hr : s.oarov.recovery = true) (h : s.allows t = true) :
    (∃ i, t = .event i ∧ controllerEvent i = true) ∨ ∃ l, t = .together l ∧ ∀ i ∈ l, controllerEvent i = true := by
  cases t with
  | event i => exact .inl ⟨i, rfl, State.controllerEvent_of_allows hr h⟩
  | issue n => simp [State.allows, hr] at h
  | load a n => simp [State.allows, hr] at h
  | together l =>
    simp only [State.allows, hr, Bool.and_eq_true, List.all_eq_true] at h
    exact .inr ⟨l, rfl, fun i hi => by simpa using (h.2 i hi).2⟩

/-- Settles O7: the turns that `State.allows` lets run in recovery mode are the controller's, and any other turn leaves
the state as it found it. -/
theorem recoveryHolds : Obligations.RecoveryHolds := by
  intro s t hr hevent htogether hstep
  have hstop : s.tickOn.allows s.nextTurn = false := by
    rw [← Bool.not_eq_true]
    intro ha
    rcases State.allows_of_recovery (s := s.tickOn) hr ha with ⟨i, hi, hc⟩ | ⟨l, hl, hc⟩
    · simp [hevent i hi] at hc
    · obtain ⟨i, hil, hi⟩ := htogether l hl
      simp [hc i hil] at hi
  unfold step at hstep
  rw [State.run_of_not_allows hstop] at hstep
  cases hstep
  rfl

/-! ### What the management port changes -/

/-- Two states differ at most in what the management port writes: its answers, and the three registers of the controller
that signed requests write (R17, R28, R79). -/
def State.PortChanges (s t : State) : Prop :=
  ∃ out seq limit key, t = { s with
    mgmtOut := out
    oarov := { s.oarov with
      lastSeq := seq
      limit := limit
      loaderKey := key } }

theorem State.portChanges_refl (s : State) : s.PortChanges s := ⟨_, _, _, _, rfl⟩

theorem State.portChanges_reply (s : State) (r : MgmtReply) : s.PortChanges (s.reply r) := ⟨_, _, _, _, rfl⟩

theorem State.portChanges_accepted (s : State) (q : MgmtReq) : s.PortChanges (s.accepted q) := ⟨_, _, _, _, rfl⟩

theorem State.portChanges_limit (s : State) (w : Nat) : s.PortChanges { s with oarov := { s.oarov with limit := w } } :=
  ⟨_, _, _, _, rfl⟩

theorem State.portChanges_loaderKey (s : State) (k : List Byte) :
    s.PortChanges { s with oarov := { s.oarov with loaderKey := k } } := ⟨_, _, _, _, rfl⟩

theorem State.PortChanges.trans {s t u : State} (h : s.PortChanges t) (k : t.PortChanges u) : s.PortChanges u := by
  obtain ⟨_, _, _, _, rfl⟩ := h
  obtain ⟨out, seq, limit, key, rfl⟩ := k
  exact ⟨out, seq, limit, key, rfl⟩

theorem State.PortChanges.reply {s t : State} (h : s.PortChanges t) (r : MgmtReply) : s.PortChanges (t.reply r) :=
  h.trans (t.portChanges_reply r)

/-- A signed request changes what its command changes, and the port's own parts. -/
theorem State.portChanges_signed (s : State) (q : MgmtReq) (c : Nat) (args : List (List Byte)) {run : State → State}
    (h : (s.accepted q).PortChanges (run (s.accepted q))) : s.PortChanges (s.signed q c args run) := by
  rcases s.signed_cases q c args run with e | e | e <;> rw [e]
  · exact s.portChanges_refl
  · exact s.portChanges_reply _
  · exact (s.portChanges_accepted q).trans h

theorem State.portChanges_unsigned (s : State) (q : MgmtReq) (c : Nat) (args : List (List Byte)) (r : MgmtReply) :
    s.PortChanges (s.unsigned q c args r) := by
  cases h : q.carries c args with
  | false => rw [State.unsigned_of_not_carries h]; exact s.portChanges_refl
  | true => rw [State.unsigned_of_carries h]; exact s.portChanges_reply r

/-- Every event that a frozen module takes, a reset apart, changes the port's own parts alone (R26). -/
theorem exec_portChanges_of_frozen {s : State} {i : Instr} (hf : s.freeze.isSome = true) (hi : frozenEvent i = true)
    (hr : i ≠ .moduleReset) : ∃ t, exec i s = .next t ∧ s.PortChanges t := by
  unfold frozenEvent at hi
  split at hi
  case h_1 => exact absurd rfl hr
  case h_2 q =>
    refine ⟨_, rfl, s.portChanges_signed q _ _ ?_⟩
    rw [State.assertFreeze_of_frozen (s := s.accepted q) hf]
    exact State.portChanges_reply _ _
  case h_3 q =>
    rw [exec_mgmtReadOut]
    exact ⟨_, rfl, s.portChanges_signed q _ _ (State.portChanges_reply _ _)⟩
  case h_4 q w =>
    refine ⟨_, rfl, s.portChanges_signed q _ _ ?_⟩
    split
    · exact (State.portChanges_limit _ w).reply _
    · exact State.portChanges_reply _ _
  case h_5 q n m =>
    refine ⟨_, rfl, s.portChanges_signed q _ _ ?_⟩
    rw [if_pos (by simp [hf])]
    exact State.portChanges_reply _ _
  case h_6 q k => exact ⟨_, rfl, s.portChanges_signed q _ _ ((State.portChanges_loaderKey _ k).reply _)⟩
  case h_7 o q => exact ⟨_, rfl, s.portChanges_unsigned q _ _ _⟩
  case h_8 v q => exact ⟨_, rfl, s.portChanges_unsigned q _ _ _⟩
  case h_9 q => exact ⟨_, rfl, s.portChanges_unsigned q _ _ _⟩
  case h_10 n q => exact ⟨_, rfl, s.portChanges_unsigned q _ _ _⟩
  case h_11 => cases hi

/-- The read-out changes the sequence number last accepted and what the port has sent, and nothing else (R26). -/
theorem exec_mgmtReadOut_changes (s : State) (q : MgmtReq) : ∃ out seq, exec (.mgmtReadOut q) s = .next { s with
    mgmtOut := out
    oarov := { s.oarov with lastSeq := seq } } := by
  rw [exec_mgmtReadOut]
  rcases s.signed_cases q 1 [] (fun s => s.reply s.readOutReply) with e | e | e <;> rw [e] <;> exact ⟨_, _, rfl⟩

/-! ### A frozen module's step -/

/-- TICK stands still while the module is frozen (R25). -/
theorem State.tickOn_of_frozen {s : State} (hf : s.freeze.isSome = true) : s.tickOn = { s with sched := s.sched.tail } := by
  simp [State.tickOn, hf]

/-- A freeze holds all that it captured, over a turn that changes the port's own parts. -/
theorem State.PortChanges.sameCapture {s t : State} (hf : s.freeze.isSome = true) (h : s.tickOn.PortChanges t) : s.SameCapture t := by
  rw [State.tickOn_of_frozen hf] at h
  obtain ⟨out, seq, limit, key, rfl⟩ := h
  constructor <;> rfl

/-- A step of a frozen module that is no reset changes the port's own parts alone. -/
theorem step_portChanges_of_frozen {s t : State} (hf : s.freeze.isSome = true) (hr : s.nextTurn ≠ .event .moduleReset)
    (hstep : step s = .next t) : s.tickOn.PortChanges t := by
  unfold step at hstep
  cases ha : s.tickOn.allows s.nextTurn with
  | false =>
    rw [State.run_of_not_allows ha] at hstep
    cases hstep
    exact State.portChanges_refl _
  | true =>
    obtain ⟨i, hi, hfe⟩ := State.event_of_allows_of_frozen (s := s.tickOn) hf ha
    rw [hi] at hstep hr
    rcases s.tickOn.run_event_cases i with e | e
    · cases e.symm.trans hstep
      exact State.portChanges_refl _
    · obtain ⟨u, hu, hp⟩ := exec_portChanges_of_frozen (s := s.tickOn) hf hfe (fun h => hr (h ▸ rfl))
      cases (e.trans hu).symm.trans hstep
      exact hp

/-- A frozen module's step runs the event that comes next, where the module takes it. -/
theorem step_event_of_frozen {s : State} {i : Instr} (hf : s.freeze.isSome = true) (hn : s.nextTurn = .event i)
    (hi : frozenEvent i = true) (hw : encodeWord i = none) : step s = exec i s.tickOn := by
  unfold step
  rw [hn]
  exact State.run_event ((State.allows_event_of_frozen (s := s.tickOn) hf i).trans hi) hw

/-- Settles O6: a frozen module takes port requests and a reset alone; a request changes the port's own parts, and a reset
starts from the reset state. -/
theorem frozenHolds : Obligations.FrozenHolds := by
  intro s t hf hstep
  refine ⟨fun hr => (step_portChanges_of_frozen hf hr hstep).sameCapture hf, fun q hq => ?readOut, fun hq => ?reset⟩
  case readOut =>
    obtain ⟨out, seq, h⟩ := exec_mgmtReadOut_changes s.tickOn q
    rw [step_event_of_frozen hf hq rfl rfl, h, State.tickOn_of_frozen hf] at hstep
    cases hstep
    rfl
  case reset =>
    rw [step_event_of_frozen hf hq rfl rfl] at hstep
    cases hstep
    exact ⟨rfl, rfl, rfl⟩

end Sys2Proof.Machine
end

section
/-!
PROOFS. Module reset, the boot chain and the causes of a freeze (R18, R24, R26, R28 to R30, R77).
-/

namespace Sys2Proof.Machine

/-! ### The thermometer fuses -/

theorem length_filter_lt_range (k n : Nat) : ((List.range n).filter (· < k)).length = min k n := by
  induction n with
  | zero => simp
  | succ n ih =>
    rw [List.range_succ, List.filter_append, List.length_append, ih]
    by_cases h : n < k
    · simp [h]; omega
    · simp [h]; omega

/-- A field whose lowest `k` fuses are blown counts as `k` (R29). -/
theorem thermoCount_ones {k : Nat} (hk : k ≤ 64) : thermoCount (BitVec.ofNat 64 (2 ^ k - 1)) = k := by
  have hlt : 2 ^ k - 1 < 2 ^ 64 := by
    have := Nat.pow_le_pow_right (n := 2) (by decide) hk
    omega
  have hbits : (List.range 64).filter (fun i => (BitVec.ofNat 64 (2 ^ k - 1)).getLsbD i) = (List.range 64).filter (· < k) := by
    refine List.filter_congr fun i hi => ?_
    rw [BitVec.getLsbD_ofNat, Nat.testBit_two_pow_sub_one]
    simp [List.mem_range.mp hi]
  unfold thermoCount
  rw [hbits, length_filter_lt_range, min_eq_left hk]
  rw [if_pos (by rw [BitVec.toNat_ofNat, Nat.mod_eq_of_lt hlt])]

/-- A stage blows fuses upward alone, and never above min(SV, 64) (R29). -/
theorem thermoCount_raiseThermo (sv draw : Nat) (t : BitVec 64) :
    thermoCount t ≤ thermoCount (raiseThermo sv draw t) ∧
      (raiseThermo sv draw t = t ∨ thermoCount (raiseThermo sv draw t) ≤ min sv 64) := by
  unfold raiseThermo
  dsimp only
  split
  · exact ⟨le_rfl, .inl rfl⟩
  · next h =>
    have hd : draw % (min sv 64 - thermoCount t + 1) ≤ min sv 64 - thermoCount t := Nat.le_of_lt_succ (Nat.mod_lt _ (by omega))
    rw [thermoCount_ones (by omega)]
    exact ⟨by omega, .inr (by omega)⟩

/-! ### A stage of the boot chain -/

/-- Steps that write memory alone, one after another, write memory alone. -/
theorem foldl_mem {f : State → Nat → State} (hf : ∀ s l, ∃ m, f s l = { s with mem := m }) (ls : List Nat) (s : State) :
    ∃ m, ls.foldl f s = { s with mem := m } := by
  induction ls generalizing s with
  | nil => exact ⟨s.mem, rfl⟩
  | cons l t ih =>
    obtain ⟨m, hm⟩ := hf s l
    obtain ⟨m', hm'⟩ := ih { s with mem := m }
    exact ⟨m', by rw [List.foldl_cons, hm, hm']⟩

/-- Installing a key pair writes memory and the key slots alone (R123). -/
theorem State.installKey_eq (s : State) (k : BitVec 9) (p : KeyPair) :
    ∃ m keys, s.installKey k p = { s with
      mem := m
      keys := keys } := by
  unfold State.installKey
  dsimp only
  split
  · exact ⟨_, _, rfl⟩
  · obtain ⟨m, hm⟩ := foldl_mem (f := fun t l => { t with
      mem := { t.mem with
        bytes := SMap.setAll freshByte t.mem.bytes ((List.range 64).map (fun i =>
          (l * 64 + i, (underPair (s.keys.pair k) (p.dkey ++ p.tkey) l (t.mem.line l)).getD i 0))) } })
      (fun _ _ => ⟨_, rfl⟩) ((s.mem.lineKey.filter (fun e => e.2 = some k)).map (·.1)) s
    exact ⟨m, _, by rw [hm]⟩

/-- What a verified stage leaves of the controller (R28, R30). -/
theorem State.runStage_oarov (s : State) (n : Nat) (m : Manifest) : (s.runStage n m).oarov = { s.oarov with
    stage := BitVec.ofNat 4 n
    recovery := false
    failStage := 0
    failCheck := 0
    nextKey := m.nextKey
    manifests := s.oarov.manifests ++ [sha256 m.body]
    runSv := m.sv
    cmdKey := if n = 1 then m.cmdKey else s.oarov.cmdKey
    released := decide (n = 3) } := by
  unfold State.runStage
  dsimp only
  split
  · obtain ⟨mem, keys, e⟩ := State.installKey_eq _ _ _
    rw [e]
  · rfl

theorem State.runStage_thermo (s : State) (n : Nat) (m : Manifest) :
    (s.runStage n m).thermo = raiseThermo m.sv.toNat (Config.freeNat s.fresh) s.thermo := by
  unfold State.runStage
  dsimp only
  split
  · obtain ⟨mem, keys, e⟩ := State.installKey_eq _ _ _
    rw [e]
  · rfl

theorem State.tryStage_of_passes {s : State} {n : Nat} {m : Manifest} (h : s.bootCheck n m = 0) :
    s.tryStage n m = s.runStage n m := if_pos h

theorem State.tryStage_of_fails {s : State} {n : Nat} {m : Manifest} (h : s.bootCheck n m ≠ 0) :
    s.tryStage n m = { s with oarov := s.oarov.fail (BitVec.ofNat 4 n) (s.bootCheck n m) } := if_neg h

theorem signedBy_iff {key body sig : List Byte} :
    signedBy key body sig = true ↔ key.length = 64 ∧ sig.length = 29792 ∧ Config.slhVerify key body sig = true := by
  simp [signedBy, and_assoc]

/-- What a manifest that passes every check is (R28, R29). -/
theorem State.bootCheck_passes {s : State} {n : Nat} {m : Manifest} (h : s.bootCheck n m = 0) :
    m.readable = true ∧ signedBy m.key m.body m.sig = true ∧ m.images.map sha256 = m.digests ∧
      (n = 1 → thermoCount s.thermo ≤ m.sv.toNat ∧ ∃ i, i < 4 ∧ Config.rootDigest i = sha256 m.key ∧ Config.revoked.getLsbD i = false) ∧
      (n = 2 → m.key = s.oarov.nextKey) ∧ (n = 3 → m.key = s.oarov.loaderKey) := by
  unfold State.bootCheck at h
  dsimp only at h
  split_ifs at h with hread hsigner hrevoked hsigned hsv himages
  case neg =>
    refine ⟨by simpa using hread, by simpa using hsigned, by simpa using himages, ?_, ?_, ?_⟩
    · rintro rfl
      exact ⟨by simpa using hsv, by simpa using hrevoked⟩
    · rintro rfl
      simpa using hsigner
    · rintro rfl
      simpa using hsigner
  all_goals exact absurd h (by decide)

/-! ### The events -/

/-- A running module freezes at its TICK; of its state, the freeze and the links' notices alone are new (R24, R25). -/
theorem State.assertFreeze_of_running {s : State} (h : s.freeze = none) (c : BitVec 8) :
    ∃ links, s.assertFreeze c = { s with
      freeze := some ⟨c, s.tick⟩
      links := links } := by
  unfold State.assertFreeze
  rw [if_neg (by simp [h])]
  exact ⟨_, rfl⟩

theorem exec_bootStage_ended {s : State} (h : s.oarov.recovery = true ∨ 3 ≤ s.oarov.stage.toNat) (m : Manifest) :
    exec (.bootStage m) s = .next s := if_pos (by simpa using h)

/-- Before the first stage, a bad speed table ends the boot (R18, R77). -/
theorem exec_bootStage_badSpeed {s : State} (hr : s.oarov.recovery = false) (h0 : s.oarov.stage = 0) (hs : speedCheck ≠ 0)
    (m : Manifest) : exec (.bootStage m) s = .next { s with oarov := s.oarov.fail 4 speedCheck } :=
  (if_neg (by simp [hr, h0])).trans (if_pos (by simpa [h0] using hs))

/-- The next stage's checks are made (R28). -/
theorem exec_bootStage_next {s : State} (hr : s.oarov.recovery = false) (h3 : s.oarov.stage.toNat < 3)
    (hs : s.oarov.stage ≠ 0 ∨ speedCheck = 0) (m : Manifest) :
    exec (.bootStage m) s = .next (s.tryStage (s.oarov.stage.toNat + 1) m) :=
  (if_neg (by simp [hr]; omega)).trans (if_neg (by simpa [or_iff_not_imp_left] using hs))

/-- The events other than commands and scrubs that assert the freeze, with their causes (R24). -/
theorem exec_freezeCause {p : Instr × BitVec 8} (hp : p ∈ [(.freezePin, 1), (.thermalTrip 0, 3), (.thermalTrip 1, 3),
    (.thermalTrip 2, 3), (.thermalTrip 3, 3), (.thermalTrip 4, 3), (.oarovFirmwareFault, 5)]) (s : State) :
    exec p.1 s = .next (s.assertFreeze p.2) := by
  fin_cases hp <;> rfl

/-- A stage that passes its checks runs (R28, R29). -/
theorem State.tryStage_runs {s : State} {n : Nat} {m : Manifest} (hn : n ≤ 3) (h : s.bootCheck n m = 0) :
    let t := s.tryStage n m
    t.oarov.stage.toNat = n ∧ t.oarov.released = decide (n = 3) ∧ t.oarov.recovery = false ∧
      t.oarov.manifests = s.oarov.manifests ++ [sha256 m.body] ∧ t.oarov.nextKey = m.nextKey ∧
      thermoCount s.thermo ≤ thermoCount t.thermo ∧ (t.thermo = s.thermo ∨ thermoCount t.thermo ≤ min m.sv.toNat 64) := by
  dsimp only
  rw [State.tryStage_of_passes h, State.runStage_oarov, State.runStage_thermo]
  refine ⟨?_, rfl, rfl, rfl, rfl, thermoCount_raiseThermo _ _ _⟩
  rw [BitVec.toNat_ofNat]
  omega

/-- Settles O44: the reset's fields, the checks of a stage and their order, and the freeze's first cause. -/
theorem resetBootAndFreeze : Obligations.ResetBootAndFreeze := by
  intro s
  refine ⟨⟨_, rfl, rfl, rfl, rfl, rfl, rfl, rfl, rfl, rfl, rfl, rfl⟩, fun m hr h0 hs => exec_bootStage_badSpeed hr h0 hs m,
    fun m hr h3 hs => ?stage, fun m h => exec_bootStage_ended h m, fun n m h => ?checks, fun p hp => ?freeze⟩
  case stage =>
    intro n
    rw [exec_bootStage_next hr h3 hs]
    exact ⟨fun h => ⟨_, rfl, State.tryStage_runs (by omega) h⟩, fun h => congrArg _ (State.tryStage_of_fails h)⟩
  case checks =>
    obtain ⟨hread, hsigned, hrest⟩ := State.bootCheck_passes h
    obtain ⟨hkey, hsig, hverify⟩ := signedBy_iff.mp hsigned
    exact ⟨hread, hkey, hsig, hverify, hrest⟩
  case freeze =>
    rw [exec_freezeCause hp]
    refine ⟨fun h => ?_, fun h => ?_⟩
    · obtain ⟨links, e⟩ := State.assertFreeze_of_running h p.2
      rw [e]
      exact ⟨_, rfl, rfl, rfl, rfl, rfl⟩
    · rw [State.assertFreeze_of_frozen (Option.isSome_iff_ne_none.mpr h)]

end Sys2Proof.Machine
end

section
/-!
PROOFS. The commands of the management port and of the mailbox (R17, R27, R28, R30 to R32, R77 to R80).
-/

namespace Sys2Proof.Machine

/-! ### What a request is -/

/-- The events of the signed commands, with their numbers and arguments, are `State.signed` (R79, R80). -/
theorem exec_signed {q : MgmtReq} {w n : Nat} {m : Manifest} {k : List Byte} {r : Instr × Nat × List (List Byte)}
    (hr : r ∈ [(.mgmtFreeze q, 0, []), (.mgmtReadOut q, 1, []), (.mgmtPowerLimit q w, 2, [bytesOf 4 w]),
      (.mgmtImageReplacement q n m, 3, m.args n), (.mgmtLoaderKeyEnrol q k, 4, [k])]) (s : State) :
    ∃ run, exec r.1 s = .next (s.signed q r.2.1 r.2.2 run) := by
  fin_cases hr <;> exact ⟨_, rfl⟩

/-- The events of the commands that need no signature are `State.unsigned` (R80). -/
theorem exec_unsigned {q : MgmtReq} {o : Nat} {v : BitVec 3} {n : BitVec 256} {r : Instr × Nat × List (List Byte)}
    (hr : r ∈ [(.mgmtRegisterRead o q, 5, [bytesOf 8 o]), (.mgmtTelemetryRead v q, 6, [bytesOf 1 v.toNat]),
      (.mgmtCertificateRead q, 7, []), (.mgmtAttestation n q, 8, [bytesOf 32 n.toNat])]) (s : State) :
    ∃ answer, exec r.1 s = .next (s.unsigned q r.2.1 r.2.2 answer) := by
  fin_cases hr <;> exact ⟨_, rfl⟩

/-- The header and the body of a request that carries a command (R79). -/
theorem carries_layout {q : MgmtReq} {c : Nat} {l : List (List Byte)} (h : q.carries c l = true) :
    q.bytes.take 4 = [1, Config.mgmtCode c] ++ bytesOf 2 (Config.mgmtBody c l).length ∧
      (q.bytes.drop 4).take 12 = bytesOf 8 q.seq.toNat ++ bytesOf 4 0 ∧ q.bytes.drop 16 = Config.mgmtBody c l := by
  have hb : q.bytes = ([1, Config.mgmtCode c] ++ bytesOf 2 (Config.mgmtBody c l).length) ++
      ((bytesOf 8 q.seq.toNat ++ bytesOf 4 0) ++ Config.mgmtBody c l) := by
    simpa [MgmtReq.carries] using h
  generalize q.seq.toNat = seq at hb ⊢
  rw [hb]
  refine ⟨List.take_left' (by simp), ?_, ?_⟩
  · rw [List.drop_left' (by simp), List.take_left' (by simp)]
  · rw [← List.append_assoc]
    exact List.drop_left' (by simp)

/-! ### Signed commands that run -/

/-- An authorised request's turn ends where its command's run does. -/
theorem next_signed_of_authorises {s t : State} {q : MgmtReq} {c : Nat} {args : List (List Byte)} {run : State → State}
    (ha : s.Authorises q) (hc : q.carries c args = true) (h : run (s.accepted q) = t) :
    (.next (s.signed q c args run) : Out) = .next t := by
  rw [State.signed_of_authorises hc ha, h]

section
variable {s : State} {q : MgmtReq} (ha : s.Authorises q)
include ha

theorem exec_mgmtFreeze_authorised (hc : q.carries 0 [] = true) :
    exec (.mgmtFreeze q) s = .next (((s.accepted q).assertFreeze 2).reply .ok) :=
  next_signed_of_authorises ha hc rfl

theorem exec_mgmtReadOut_authorised (hc : q.carries 1 [] = true) :
    exec (.mgmtReadOut q) s = .next ((s.accepted q).reply (s.accepted q).readOutReply) :=
  (exec_mgmtReadOut q s).trans (next_signed_of_authorises ha hc rfl)

theorem exec_mgmtPowerLimit_authorised {w : Nat} (hc : q.carries 2 [bytesOf 4 w] = true) :
    exec (.mgmtPowerLimit q w) s = .next (if 1200 ≤ w ∧ w ≤ 2400 then
      { s.accepted q with oarov := { (s.accepted q).oarov with limit := w } }.reply .ok else (s.accepted q).reply .refused) := by
  refine next_signed_of_authorises ha hc (if_congr ?_ rfl rfl)
  simp

/-- Outside recovery mode, and while frozen, no image is replaced (R30). -/
theorem exec_mgmtImageReplacement_refused {n : Nat} {m : Manifest} (hc : q.carries 3 (m.args n) = true)
    (h : s.oarov.recovery = false ∨ s.freeze ≠ none) :
    exec (.mgmtImageReplacement q n m) s = .next ((s.accepted q).reply .refused) := by
  refine next_signed_of_authorises ha hc (if_pos ?_)
  simpa [Option.isSome_iff_ne_none] using h

/-- The failing stage is checked again with its replacement (R30). -/
theorem exec_mgmtImageReplacement_tries {n : Nat} {m : Manifest} (hc : q.carries 3 (m.args n) = true)
    (hr : s.oarov.recovery = true) (hf : s.freeze = none) (hn : n = s.oarov.failStage.toNat) (h1 : 1 ≤ n) (h3 : n ≤ 3) :
    exec (.mgmtImageReplacement q n m) s = .next (((s.accepted q).tryStage n m).reply .ok) := by
  refine next_signed_of_authorises ha hc ((if_neg ?_).trans (if_pos ?_))
  · simp [hr, hf]
  · simp [← hn, h1, h3]

theorem exec_mgmtLoaderKeyEnrol_authorised {k : List Byte} (hc : q.carries 4 [k] = true) :
    exec (.mgmtLoaderKeyEnrol q k) s =
      .next ({ s.accepted q with oarov := { (s.accepted q).oarov with loaderKey := k } }.reply .ok) :=
  next_signed_of_authorises ha hc rfl

end

/-! ### Attestation and the mailbox -/

/-- No report before every stage has passed (R32). -/
theorem State.report_of_not_booted {s : State} (h : s.oarov.recovery = true ∨ s.oarov.stage ≠ 3) (nonce : List Byte) :
    s.report nonce = none := if_pos (by simpa using h)

theorem State.report_of_booted {s : State} (hr : s.oarov.recovery = false) (h3 : s.oarov.stage = 3) (nonce : List Byte) :
    ∃ r, s.report nonce = some r := ⟨_, if_neg (by simp [hr, h3])⟩

theorem exec_mgmtAttestation_of_report {s : State} {q : MgmtReq} {n : BitVec 256} (hc : q.carries 8 [bytesOf 32 n.toNat] = true) :
    (s.report (bytesOf 32 n.toNat) = none → exec (.mgmtAttestation n q) s = .next (s.reply .notBooted)) ∧
      ∀ r, s.report (bytesOf 32 n.toNat) = some r → exec (.mgmtAttestation n q) s = .next (s.reply (.report r)) := by
  constructor
  · intro h
    refine congrArg _ ((State.unsigned_of_carries hc).trans ?_)
    rw [h]
  · intro r h
    refine congrArg _ ((State.unsigned_of_carries hc).trans ?_)
    rw [h]

/-- MBCMD (R78). -/
theorem exec_mbcmdAttestation (v : Word) (s : State) :
    (s.oarov.mbSts = 1 → exec (.mbcmdAttestation v) s = .next s) ∧
      (s.oarov.mbSts ≠ 1 → exec (.mbcmdAttestation 1) s = .next { s with oarov := { s.oarov with mbSts := 1 } }) ∧
      (s.oarov.mbSts ≠ 1 → v ≠ 1 →
        exec (.mbcmdAttestation v) s = .next ({ s with oarov := { s.oarov with mbSts := 4 } }.raise 4)) :=
  ⟨fun h => congrArg _ (if_pos h), fun h => congrArg _ ((if_neg h).trans (if_pos rfl)),
    fun h hv => congrArg _ ((if_neg h).trans (if_neg hv))⟩

/-- The mailbox ends with a report where every stage has passed, and with status 3 elsewhere; either way it raises its
interrupt (R32, R78). -/
theorem exec_mailboxDone_busy {s : State} (h : s.oarov.mbSts = 1) :
    ∃ o, exec .mailboxDone s = .next ({ s with oarov := o }.raise 4) ∧
      o.mbSts = if s.oarov.recovery = false ∧ s.oarov.stage = 3 then 2 else 3 := by
  refine ⟨_, if_neg (by simpa using h), ?_⟩
  by_cases hb : s.oarov.recovery = false ∧ s.oarov.stage = 3
  · obtain ⟨r, hr⟩ := State.report_of_booted hb.1 hb.2 ((List.range 32).map (fun i => SMap.get 0 s.oarov.mbReq i))
    rw [hr, if_pos hb]
  · rw [State.report_of_not_booted (by simpa [or_iff_not_imp_left] using hb), if_neg hb]

/-- Settles O45: a request that carries its command runs it, is answered AUTH, or is answered at once where it needs no
signature. -/
theorem managementCommands : Obligations.ManagementCommands := by
  intro s q
  refine ⟨fun w n m k r hr => ?signed, fun o v n r hr => ?unsigned, fun c l => carries_layout, fun ha => ?runs, fun o hc => ?register,
    fun v hc => ?telemetry, fun hc => ?certificate, fun n hc => ?attestation, fun v => exec_mbcmdAttestation v s, fun h => ?mailbox⟩
  case signed =>
    obtain ⟨run, e⟩ := exec_signed hr s
    rw [e]
    exact ⟨fun h => congrArg _ (State.signed_of_not_carries h), fun h ha => congrArg _ (State.signed_of_not_authorises h ha)⟩
  case unsigned =>
    obtain ⟨answer, e⟩ := exec_unsigned hr s
    rw [e]
    exact fun h => congrArg _ (State.unsigned_of_not_carries h)
  case runs =>
    refine ⟨exec_mgmtFreeze_authorised ha, fun hc hf => ?_, fun f hc hf => ?_, fun w hc h1 h2 => ?_, fun w hc h => ?_,
      fun n m hc h => exec_mgmtImageReplacement_refused ha hc h,
      fun n m hc hr hf hn h1 h3 => exec_mgmtImageReplacement_tries ha hc hr hf hn h1 h3,
      fun k hc => exec_mgmtLoaderKeyEnrol_authorised ha hc⟩
    · rw [exec_mgmtReadOut_authorised ha hc, State.readOutReply_of_running (s := s.accepted q) hf]
      rfl
    · obtain ⟨l, e⟩ := State.readOutReply_of_frozen (s := s.accepted q) hf
      rw [exec_mgmtReadOut_authorised ha hc, e]
      exact ⟨l, rfl⟩
    · rw [exec_mgmtPowerLimit_authorised ha hc, if_pos ⟨h1, h2⟩]
      rfl
    · rw [exec_mgmtPowerLimit_authorised ha hc, if_neg (by omega)]
      rfl
  case register => exact congrArg _ (State.unsigned_of_carries hc)
  case telemetry => exact congrArg _ (State.unsigned_of_carries hc)
  case certificate => exact congrArg _ (State.unsigned_of_carries hc)
  case attestation =>
    obtain ⟨hnone, hsome⟩ := exec_mgmtAttestation_of_report (s := s) hc
    refine ⟨fun h => hnone (State.report_of_not_booted h _), fun hr h3 => ?_⟩
    obtain ⟨r, h⟩ := State.report_of_booted hr h3 (bytesOf 32 n.toNat)
    exact ⟨r, h, hsome r h⟩
  case mailbox =>
    obtain ⟨o, e, ho⟩ := exec_mailboxDone_busy h
    exact ⟨_, e, by simp, rfl, ho⟩

end Sys2Proof.Machine
end

section
/-!
PROOFS. Power samples, throttling, core frequency and the patrol scrub (R16, R17, R19, R21 to R24).
-/

namespace Sys2Proof.Machine

/-! ### The 10 ms average -/

/-- The power of the last ten samples over the six domains, in milliwatts (R15, R16). -/
def Oarov.total10 (o : Oarov) : Nat := ((o.samples.take 10).flatMap (fun l => (l.take 6).map BitVec.toNat)).foldl (· + ·) 0

theorem Oarov.sum10_eq (o : Oarov) : o.sum10 = if o.samples.length < 10 then none else some o.total10 := rfl

/-- The average exceeds the limit once ten samples are there whose sum does (R17). -/
theorem Oarov.over_iff (o : Oarov) : o.over = true ↔ 10 ≤ o.samples.length ∧ 10000 * o.limit < o.total10 := by
  unfold Oarov.over
  rw [Oarov.sum10_eq]
  by_cases h : o.samples.length < 10
  · simp [h]
  · simp [h, not_lt.mp h]

/-- The average is below 95 % of the limit once ten samples are there whose sum is (R17). -/
theorem Oarov.below_iff (o : Oarov) : o.below = true ↔ 10 ≤ o.samples.length ∧ 100 * o.total10 < 95 * (10000 * o.limit) := by
  unfold Oarov.below
  rw [Oarov.sum10_eq]
  by_cases h : o.samples.length < 10
  · simp [h]
  · simp [h, not_lt.mp h]

/-! ### Throttling -/

/-- THROTTLE_RAISE (R17). -/
theorem exec_throttleRaise (s : State) :
    exec .throttleRaise s = if s.oarov.over = true ∧ s.oarov.level ≠ 7 ∧ s.oarov.lastRaise + 10000 * 1000 ≤ s.tick then
      .next { s with oarov := { s.oarov with
        level := s.oarov.level + 1
        lastRaise := s.tick } }
    else .next s := by
  refine if_congr ?_ rfl rfl
  simp only [Bool.and_eq_true, decide_eq_true_eq, and_assoc]
  exact Iff.rfl

/-- THROTTLE_LOWER (R17). -/
theorem exec_throttleLower (s : State) :
    exec .throttleLower s = if s.oarov.below = true ∧ 100 ≤ s.oarov.belowFor ∧ s.oarov.level ≠ 0 then
      .next { s with oarov := { s.oarov with
        level := s.oarov.level - 1
        belowFor := 0 } }
    else .next s := by
  refine if_congr ?_ rfl rfl
  simp only [Bool.and_eq_true, decide_eq_true_eq, and_assoc]
  exact Iff.rfl

/-- POWER_ALARM (R17). -/
theorem exec_powerAlarm (s : State) :
    exec .powerAlarm s = if s.oarov.over = true ∧ 100 ≤ s.oarov.overFor ∧ s.oarov.level = 7 then
      .next { s with oarov := { s.oarov with alarm := true } }
    else .next s := by
  refine if_congr ?_ rfl rfl
  simp only [Bool.and_eq_true, decide_eq_true_eq, and_assoc]
  exact Iff.rfl

/-- CORE_FREQUENCY_CHANGE gives one core the throttle level and leaves the others, memory and every context (R19). -/
theorem exec_coreFrequencyChange (c : Nat) (s : State) :
    ∃ t, exec (.coreFrequencyChange c) s = .next t ∧ (t.core c).lvl = s.oarov.level ∧ (∀ d, d ≠ c → t.core d = s.core d) ∧
      t.mem = s.mem ∧ ∀ k, t.ctx c k = s.ctx c k := by
  refine ⟨_, rfl, ?_, fun d hd => State.core_modCore_other s _ hd, rfl, fun k => ?_⟩
  · rw [State.core_modCore_same]
  · unfold State.ctx
    rw [State.core_modCore_same]
    rfl

/-! ### The patrol scrub -/

/-- A correctable error of a memory word is counted at the die of its home slice (R21). -/
theorem exec_patrolScrub_correctable {pa : Nat} (h : isMemory pa 1 = true) (s : State) :
    exec (.patrolScrub pa .correctable) s = .next (s.corrected (homeSlice (pa / 64) / 256)) := if_pos h

/-- An uncorrectable error poisons its word of memory alone (R22). -/
theorem exec_patrolScrub_uncorrectable {pa : Nat} (h : isMemory pa 1 = true) (s : State) :
    exec (.patrolScrub pa .uncorrectable) s =
      .next { s with mem := { s.mem with poison := SMap.set false s.mem.poison (pa / 8) true } } := if_pos h

theorem exec_patrolScrub_corrected {d : Nat} (h : d < 5) (pa : Nat) (s : State) :
    exec (.patrolScrub pa (.corrected d)) s = .next (s.corrected d) := if_pos h

/-- A word is poisoned where it was marked, or was before. -/
theorem get_set_true (l : SMap Bool) (k j : Nat) :
    SMap.get false (SMap.set false l k true) j = (decide (j = k) || SMap.get false l j) := by
  rw [SMap.get_set]
  by_cases h : j = k <;> simp [h]

/-- Settles O46: the thresholds of the throttle level, and what each finding of the scrub changes. -/
theorem powerAndScrub : Obligations.PowerAndScrub := by
  intro s o total exceeds under
  have hover : o.over = true ↔ exceeds := o.over_iff
  have hbelow : o.below = true ↔ under := o.below_iff
  refine ⟨fun mw temp => ⟨_, rfl, rfl, rfl, rfl, rfl, rfl⟩, fun h h7 ht => ?_, fun h => ?_, fun h hb h0 => ?_, fun h => ?_,
    fun h h7 hf => ?_, fun c => exec_coreFrequencyChange c s, fun pa => ?scrub⟩
  · exact (exec_throttleRaise s).trans (if_pos ⟨hover.mpr h, h7, ht⟩)
  · refine (exec_throttleRaise s).trans (if_neg ?_)
    rintro ⟨hexceeds, h7, htick⟩
    rcases h with h | h | h
    · exact h (hover.mp hexceeds)
    · exact h7 h
    · exact absurd htick (not_le.mpr h)
  · exact (exec_throttleLower s).trans (if_pos ⟨hbelow.mpr h, hb, h0⟩)
  · refine (exec_throttleLower s).trans (if_neg ?_)
    rintro ⟨hunder, hfor, h0⟩
    rcases h with h | h | h
    · exact h (hbelow.mp hunder)
    · exact absurd hfor (not_le.mpr h)
    · exact h0 h
  · exact (exec_powerAlarm s).trans (if_pos ⟨hover.mpr h, hf, h7⟩)
  case scrub =>
    refine ⟨rfl, rfl, fun h => exec_patrolScrub_correctable h s, fun h => ?_, fun d hd => exec_patrolScrub_corrected hd pa s,
      fun c k l n => rfl, fun c n => ⟨rfl, rfl⟩, fun n => ⟨rfl, rfl, rfl, rfl⟩⟩
    exact ⟨_, exec_patrolScrub_uncorrectable h s, rfl, fun w => get_set_true _ _ _⟩

end Sys2Proof.Machine
end

section
/-!
PROOFS. The links (R33 to R46): what flits, retries and the events of a link come to, and where a message for another module goes.
-/

namespace Sys2Proof.Machine

/-! ### What the operations on links leave -/

@[simp] theorem State.link_setLink_same (s : State) (l : Nat) (k : Link) : (s.setLink l k).link l = k := SMap.get_set_same ..

/-- A message that is lost changes no link. -/
@[simp] theorem State.lose_links (s : State) (m : Msg) (x : Loss) : (s.lose m x).links = s.links := by
  unfold State.lose State.dropPost
  split_ifs <;> rfl

theorem State.foldl_lose_links (x : Loss) (l : List (Nat × Msg)) (s : State) :
    (l.foldl (fun s p => s.lose p.2 x) s).links = s.links :=
  List.foldlRecOn l _ (motive := fun t : State => t.links = s.links) rfl fun t ht p _ => (t.lose_links p.2 x).trans ht

/-- What is left of a link that goes DOWN (R43, R44). -/
theorem State.linkDown_link (s : State) (l : Nat) (c : BitVec 4) : (s.linkDown l c).link l = { s.link l with
    state := .down
    downCause := c
    peerMod := 0
    peerZb := false
    replay := []
    queue := []
    parts := []
    senders := []
    retries := 0
    rxRetries := 0 } := by
  unfold State.linkDown
  dsimp only
  rw [State.link, State.foldl_lose_links]
  exact State.link_setLink_same _ _ _

/-- The sixteenth flit dropped in a row ends the link (R35). -/
theorem State.dropFlit_ends_link {s : State} {l : Nat} (h : 16 ≤ (s.link l).rxRetries + 1) : ((s.dropFlit l).link l).state = .down := by
  have e : s.dropFlit l = State.linkDown _ l 1 := if_pos h
  rw [e, State.linkDown_link]

/-! ### The events of a link -/

/-- The count of slots goes on, and every eighth brings a token (R46). -/
def Link.slotOn (k : Link) : Link := { k with
  slotCount := (k.slotCount + 1) % 8
  tokens := if k.slotCount = 7 then min 8 (k.tokens + 1) else k.tokens }

/-- The bytes in which a link sends a queued flit (R34). -/
def Link.dataFlit (k : Link) (f : QFlit) : List Byte :=
  flitBytes ⟨0, f.dmod, f.payload.length, f.first, f.last, f.cls, f.vc, 0, k.txSeq, k.ackOut⟩ f.payload

/-- A link sends a flit and keeps it for replay (R35, R46). -/
def Link.sendFlit (k : Link) (c : BitVec 2) (f : QFlit) (tick : Nat) : Link := { k with
  queue := k.queue.erase f
  tokens := if c = 0 then k.tokens - 1 else k.tokens
  wrr := if c = 0 then k.wrr else k.wrr.erase c ++ [c]
  txSeq := k.txSeq + 1
  replay := k.replay ++ [(k.txSeq, f.msgNo, k.dataFlit f)]
  wire := k.wire ++ [k.dataFlit f]
  lastSent := tick }

section
variable {s : State} {l : Nat} (hl : l < 24)
include hl

/-- The events of a link act where it exists, unless its state forbids. -/
theorem link_guard {p : Prop} [Decidable p] (hp : ¬ p) : ¬ (decide (nLinks ≤ l) || decide p) = true := by
  simp [nLinks, not_le.mpr hl, hp]

/-- FLIT_RECEIVE on a link that is UP (R34, R35, R43). -/
theorem exec_flitReceive_of_up (hup : (s.link l).state = .up) (b : List Byte) :
    let f := rsCorrect b
    let h := flitHead (BitVec.ofNat 64 (getLe f 0 8))
    exec (.flitReceive l b) s = if flitOk f = false then .next (s.dropFlit l)
      else if h.kind = 2 then .next (s.linkDown l 2)
      else if h.kind = 1 then .next (s.setLink l ((s.link l).acked h.ack))
      else if h.seq ≠ (s.link l).rxSeq then .next (s.dropFlit l)
      else .next ((s.setLink l ((s.link l).acked h.ack)).deliver l h f) :=
  (if_neg (link_guard hl (not_not.mpr hup))).trans (if_congr (by simp) rfl rfl)

/-- RETRY_REQUEST_RECEIVE below the sixteenth request for one SEQ (R35). -/
theorem exec_retryRequestReceive_of_up (hup : (s.link l).state = .up) (q : BitVec 12)
    (h : (if (s.link l).retrySeq = q then (s.link l).retries + 1 else 1) < 16) :
    exec (.retryRequestReceive l q) s = .next (s.setLink l { s.link l with
      retrySeq := q
      retries := if (s.link l).retrySeq = q then (s.link l).retries + 1 else 1
      wire := (s.link l).wire ++ ((s.link l).replay.filter (fun e => (e.1 - q).toNat < 2048)).map (·.2.2) }) :=
  (if_neg (link_guard hl (not_not.mpr hup))).trans (congrArg _ (if_neg (not_le.mpr h)))

/-- LINK_FLIT_SLOT with room in the replay buffer: the first queued flit of the class that is due goes out (R46). -/
theorem exec_linkFlitSlot_sends (hup : (s.link l).state = .up) (hr : (s.link l).replay.length < 256) {c : BitVec 2} {f : QFlit}
    (hc : (s.link l).slotOn.choose = some c) (hf : (s.link l).queue.find? (fun f => f.cls = c) = some f) :
    exec (.linkFlitSlot l) s = .next (s.setLink l ((s.link l).slotOn.sendFlit c f s.tick)) := by
  refine (if_neg (link_guard hl (not_not.mpr hup))).trans ((if_neg (not_le.mpr hr)).trans ?_)
  unfold Link.slotOn at hc
  dsimp only
  rw [hc]
  dsimp only
  rw [hf]
  rfl

/-- LINK_FLIT_SLOT with no class due (R46). -/
theorem exec_linkFlitSlot_idle (hup : (s.link l).state = .up) (hr : (s.link l).replay.length < 256)
    (hc : (s.link l).slotOn.choose = none) : exec (.linkFlitSlot l) s = .next (s.setLink l (s.link l).slotOn) := by
  refine (if_neg (link_guard hl (not_not.mpr hup))).trans ((if_neg (not_le.mpr hr)).trans ?_)
  unfold Link.slotOn at hc
  dsimp only
  rw [hc]
  rfl

/-- LINK_RETRAIN (R43). -/
theorem exec_linkRetrain : exec (.linkRetrain l) s = if (s.link l).state = .down ∧ (s.link l).enable = true then
      .next (s.setLink l { s.link l with
        state := .training
        crcErr := 0
        since := s.tick })
    else .next s := by
  by_cases h : (s.link l).state = .down ∧ (s.link l).enable = true
  · rw [if_pos h]
    exact if_neg (by simp [nLinks, not_le.mpr hl, h])
  · rw [if_neg h]
    exact if_pos (by simpa [nLinks, not_le.mpr hl, or_iff_not_imp_left] using h)

/-- LINK_DISABLE (R43). -/
theorem exec_linkDisable : exec (.linkDisable l) s = .next ((s.setLink l { s.link l with enable := false }).linkDown l 4) :=
  if_neg (not_le.mpr hl)

/-- LINK_TRAINED where the peer has this module's number (R43). -/
theorem exec_linkTrained_self (ht : (s.link l).state = .training) (z : Bool) :
    exec (.linkTrained l s.modnum z) s = .next (s.linkDown l 5) :=
  (if_neg (link_guard hl (not_not.mpr ht))).trans (if_pos rfl)

/-- LINK_TRAINED brings the link UP (R43). -/
theorem exec_linkTrained_up (ht : (s.link l).state = .training) {p : BitVec 12} (hp : p ≠ s.modnum) (z : Bool) :
    exec (.linkTrained l p z) s = .next (s.setLink l { s.link l with
      state := .up
      downCause := 0
      peerMod := p
      peerZb := z
      txSeq := 0
      rxSeq := 0
      rxAny := false
      rxRetries := 0
      retries := 0
      lastSent := s.tick }) :=
  (if_neg (link_guard hl (not_not.mpr ht))).trans (if_neg hp)

/-- LINK_TRAINING_TIMEOUT (R43). -/
theorem exec_linkTrainingTimeout_late (ht : (s.link l).state = .training) (h : (s.link l).since + 100000000 ≤ s.tick) :
    exec (.linkTrainingTimeout l) s = .next (s.linkDown l 3) :=
  if_neg (by simp [nLinks, not_le.mpr hl, ht, secondTicks, not_lt.mpr h])

/-- LANE_LOCK_LOSS (R43). -/
theorem exec_laneLockLoss_of_up (hup : (s.link l).state = .up) : exec (.laneLockLoss l) s = .next (s.linkDown l 3) :=
  if_neg (link_guard hl (not_not.mpr hup))

/-- LINK_STALL (R39). -/
theorem exec_linkStall_late (hq : (s.link l).queue ≠ []) (h : (s.link l).lastSent + 10000000 ≤ s.tick) :
    exec (.linkStall l) s = .next (s.setLink l { s.link l with stall := true }) :=
  if_neg (by simp [nLinks, not_le.mpr hl, hq, secondTicks, not_lt.mpr h])

end

/-! ### Messages for other modules -/

/-- A message of another kind than a block transfer holds its data from the start (R437). -/
theorem State.loadBlock_of_ne_block {m : Msg} (h : m.kind ≠ .block) (s : State) : s.loadBlock m = (s, some (.ok m)) :=
  if_pos (by simp [h])

/-- A message on its way is first of its stream, or of C1, whose messages pass each other (R48). -/
def State.mayGo (s : State) (m : Msg) : Prop :=
  s.inbox.contains m = true ∧
    (m.cls = 1 ∨ s.inbox.find? (fun n => n.cls = m.cls && n.src = m.src && n.dst = m.dst) = some m)

/-- A message placed on a link, whole, as the link's peer takes it (R38, R50, R51). -/
def State.placeOn (s : State) (m : Msg) (n : Nat) : State :=
  { s with ids := s.ids + 1 }.setLink n { s.link n with
    queue := (s.link n).queue ++
      flitsOf (crossing m (s.link n).peerZb) ((SMap.get 0 s.routes (moduleOf m.dst).toNat).getLsbD 24) s.ids
    senders := (s.link n).senders ++ [(s.ids, m)]
    lastSent := if (s.link n).queue = [] then s.tick else (s.link n).lastSent }

section
variable {s : State} {m : Msg} (hd : moduleOf m.dst ≠ s.modnum) (hk : m.kind ≠ .block) (hm : s.mayGo m)
include hd hk hm

/-- MESSAGE_FORWARD (R38): the message goes along its route, and is lost without one. -/
theorem exec_messageForward_of_mayGo : exec (.messageForward m) s = .next ((s.routeOf m).elim
    ({ s with inbox := s.inbox.erase m }.lose m .noRoute) ({ s with inbox := s.inbox.erase m }.placeOn m)) := by
  refine (if_neg (by simpa [hd, State.mayGo, or_iff_not_imp_left] using hm)).trans ?_
  have hroute : ({ s with inbox := s.inbox.erase m } : State).routeOf m = s.routeOf m := rfl
  rw [State.loadBlock_of_ne_block hk]
  dsimp only
  rw [hroute]
  cases s.routeOf m <;> rfl

end

/-- Settles O48: each event of a link by the state it finds, and a forwarded message by its route. -/
theorem linksCarryFlits : Obligations.LinksCarryFlits := by
  intro s l hl k
  refine ⟨fun b hup => ?receive, State.dropFlit_ends_link, fun q hup h => exec_retryRequestReceive_of_up hl hup q h,
    fun hup hr => ?slot, fun hs he => (exec_linkRetrain hl).trans (if_pos ⟨hs, he⟩), fun h => ?retrain, exec_linkDisable hl,
    fun p z ht => ?trained, exec_linkTrainingTimeout_late hl, exec_laneLockLoss_of_up hl, exec_linkStall_late hl, fun c => ?down,
    fun m hd hk hin hfirst => ?forward⟩
  case receive =>
    have e := exec_flitReceive_of_up hl hup b
    have passes (hok : flitOk (rsCorrect b) = true) := e.trans (if_neg (by simp [hok]))
    have isData {n : Nat} (hk : n = 0) : n ≠ 2 ∧ n ≠ 1 := by omega
    refine ⟨fun hok => e.trans (if_pos hok), fun hok hk => (passes hok).trans (if_pos hk),
      fun hok hk => ((passes hok).trans (if_neg (by simp [hk]))).trans (if_pos hk), fun hok hk hq => ?_, fun hok hk hq => ?_⟩
    · exact (((passes hok).trans (if_neg (isData hk).1)).trans (if_neg (isData hk).2)).trans (if_pos hq)
    · exact (((passes hok).trans (if_neg (isData hk).1)).trans (if_neg (isData hk).2)).trans (if_neg (not_not.mpr hq))
  case slot =>
    refine ⟨fun c f hc hf => ⟨_, (s.link l).slotOn.dataFlit f, exec_linkFlitSlot_sends hl hup hr hc hf, ?_⟩, exec_linkFlitSlot_idle hl hup hr⟩
    rw [State.link_setLink_same]
    exact ⟨rfl, rfl, rfl, rfl, fun h0 => if_pos h0⟩
  case retrain =>
    refine (exec_linkRetrain hl).trans (if_neg ?_)
    rintro ⟨hs, he⟩
    rcases h with h | h
    · exact h hs
    · exact Bool.false_ne_true (h.symm.trans he)
  case trained =>
    refine ⟨fun hp => ?_, fun hp => ⟨_, exec_linkTrained_up hl ht hp z, ?_⟩⟩
    · rw [hp]
      exact exec_linkTrained_self hl ht z
    · rw [State.link_setLink_same]
      exact ⟨rfl, rfl, rfl, rfl, rfl⟩
  case down =>
    rw [State.linkDown_link]
    exact ⟨rfl, rfl, rfl⟩
  case forward =>
    have e := exec_messageForward_of_mayGo hd hk ⟨hin, hfirst⟩
    refine ⟨fun hr => ?_, fun n hr _ => ⟨({ s with inbox := s.inbox.erase m } : State).placeOn m n, ?_, rfl, ?_⟩⟩
    · rwa [hr] at e
    · rwa [hr] at e
    · rw [State.placeOn, State.link_setLink_same]
      rfl

end Sys2Proof.Machine
end

section
/-!
PROOFS. Messages at their destination (R37, R48, R52 to R55, R142, R168, R170, R436, R437, R444).
-/

namespace Sys2Proof.Machine

/-! ### Taking a message -/

/-- The state without a message that has acted. -/
def State.without (s : State) (m : Msg) : State := { s with inbox := s.inbox.erase m }

/-- Taking a message removes it from the inbox, and changes nothing else (R48). -/
theorem State.takeMsg_eq {s t : State} {m : Msg} (h : s.takeMsg m = some t) : t = s.without m := by
  unfold State.takeMsg at h
  dsimp only at h
  split at h
  · exact (Option.some.inj h).symm
  · cases h

theorem isCore_iff {n : Nat} : isCore n = true ↔ n < 1024 := decide_eq_true_iff

/-- What a grant's job comes to (R52, R435): its data goes, or the send ends with a status. -/
def State.endGrant (s : State) (j : Job) : Except Nat Msg → State
  | .ok o => s.send o
  | .error status => s.sendDone j status

/-- The delay before a send that met BUSY is tried again, by a free value (R55). -/
def State.retryAt (s : State) : Nat := s.tick + 1000 + Config.freeNat s.fresh % 15001

/-- The reply of a message's destination to its sender. -/
def State.replyTo (s : State) (m : Msg) (kind : MsgKind) (words : List Nat) : State :=
  s.send ⟨m.dst, m.src, kind, 0, m.tag, 0, wordsBytes words⟩

/-- The engine of a receive that lands a message's image, once it has landed or has stopped (R436). -/
def State.landing (s : State) (m : Msg) (j : Job) (x : TileOp) : Eng :=
  let im := landImage x.tw m
  (s.engine (.fabric (pointOf m.dst) j.id) j.space j.pts).landTile j { x with tw := im.1 } im.2.1 im.2.2

/-- The remote flag of a block transfer is posted where the transfer asks for it (R437). -/
def State.postBlock (s : State) (m : Msg) (ts : Nat) : State :=
  if msgWord m 5 = 1 then s.postTo (pointOf m.dst) (m.tag.toNat % 32) 1 (BitVec.ofNat 16 (msgWord m 3)) ts else s

/-- How a block transfer ends (R437): its flag is posted and its sender told, or its sender is told that it failed. -/
def State.endBlock (s : State) (m : Msg) : Option Nat → State
  | some ts => ((s.postBlock m ts).without m).replyTo m .ack [msgWord m 0]
  | none => (s.without m).replyTo m .nak [msgWord m 0, 3]

/-- The job of a remote command, whose issuer's space is the tag (R142). -/
def remoteJob (id : Nat) (m : Msg) : Job where
  id := id
  bseq := 0
  core := 0
  ctx := 0
  task := 0
  space := m.tag
  kind := .pxRemote (m.data.take 4096) m.src m.tag
  flag := none
  pend := none
  reads := []
  writes := []
  started := false
  pos := 0
  done := false
  status := 0
  detail := 0
  result := []
  pts := 0
  held := []

section
variable {s t : State} {m : Msg} (ht : s.takeMsg m = some t)
include ht

theorem State.arrival_of_takes {kinds : List MsgKind} (hk : m.kind ∈ kinds) (at_ : Nat → Bool) (f : State → State) :
    s.arrival m kinds at_ f = .next (if at_ (pointOf m.dst) then f t else t.lose m .noEndpoint) := by
  unfold State.arrival
  rw [if_neg (by simpa using hk), ht]

/-- A message of a core's endpoint acts there (R37). -/
theorem State.arrival_at_core {kinds : List MsgKind} (hk : m.kind ∈ kinds) (hc : pointOf m.dst < 1024) (f : State → State) :
    s.arrival m kinds isCore f = .next (f t) :=
  (State.arrival_of_takes ht hk _ _).trans (congrArg _ (if_pos (isCore_iff.mpr hc)))

/-- A message for a core's endpoint that comes to another one is lost (R37). -/
theorem State.arrival_not_at_core {kinds : List MsgKind} (hk : m.kind ∈ kinds) (hc : 1024 ≤ pointOf m.dst) (f : State → State) :
    s.arrival m kinds isCore f = .next (t.lose m .noEndpoint) :=
  (State.arrival_of_takes ht hk _ _).trans (congrArg _ (if_neg (by simpa [isCore] using hc)))

/-! ### Sends and receives -/

/-- SEND_REQUEST_ARRIVE (R52, R53, R55). -/
theorem exec_sendRequestArrive (hk : m.kind = .sendReq) (hc : pointOf m.dst < 1024) :
    exec (.sendRequestArrive m) s = .next (t.offer (pointOf m.dst) m) :=
  State.arrival_at_core ht (by simp [hk]) hc _

theorem exec_sendRequestArrive_lost (hk : m.kind = .sendReq) (hc : 1024 ≤ pointOf m.dst) :
    exec (.sendRequestArrive m) s = .next (t.lose m .noEndpoint) :=
  State.arrival_not_at_core ht (by simp [hk]) hc _

/-- SEND_GRANT_ARRIVE of a send whose data is at hand, or cannot be read (R52, R435). -/
theorem exec_sendGrantArrive_ends {j : Job} {x : TileOp} {d : BitVec 24} {g : BitVec 16} {u w : State} {a : Except Nat Msg}
    (hk : m.kind = .sendGrant) (hj : t.sendJob (pointOf m.dst) (msgWord m 0) = some j) (hs : j.kind = .send x d g)
    (hw : s.jobWaits j = false) (hd : s.sendData j x m = (u, some a)) (hu : u.takeMsg m = some w) :
    exec (.sendGrantArrive m) s = .next (w.endGrant j a) := by
  change execSendGrantArrive m s = _
  unfold execSendGrantArrive
  rw [if_neg (by simp [hk]), ht]
  simp only [hj, hs]
  rw [if_neg (by simp [hw]), hd]
  cases a <;> simp [hu, State.endGrant]

/-- SEND_REFUSAL_ARRIVE of a refusal (R54). -/
theorem exec_sendRefusalArrive_refused {j : Job} (hk : m.kind = .sendRefuse) (hc : pointOf m.dst < 1024)
    (hj : t.sendJob (pointOf m.dst) (msgWord m 0) = some j) :
    exec (.sendRefusalArrive m) s = .next (t.sendDone j 1) := by
  refine (State.arrival_at_core ht (by simp [hk]) hc _).trans (congrArg _ ?_)
  rw [hj]
  exact if_pos hk

/-- SEND_REFUSAL_ARRIVE of BUSY (R55). -/
theorem exec_sendRefusalArrive_busy {j : Job} (hk : m.kind = .sendBusy) (hc : pointOf m.dst < 1024)
    (hj : t.sendJob (pointOf m.dst) (msgWord m 0) = some j) :
    exec (.sendRefusalArrive m) s =
      .next (t.draw.1.modSend j (fun i => { i with result := [BitVec.ofNat 64 t.retryAt] })) := by
  refine (State.arrival_at_core ht (by simp [hk]) hc _).trans (congrArg _ ?_)
  rw [hj]
  exact if_neg (by simp [hk])

/-- TYPED_DATA_ARRIVE of an image that lands (R436). -/
theorem exec_typedDataArrive_lands {j : Job} {x : TileOp} {src : Option (BitVec 24)} {g : BitVec 16} {n : Nat}
    (hk : m.kind = .typedData) (hj : t.matchedRecv (pointOf m.dst) (msgWord m 1) (msgWord m 2) = some j)
    (hr : j.kind = .recv x src g n) (hw : s.jobWaits j = false) (he : (s.landing m j x).stop = none) :
    let e := s.landing m j x
    exec (.typedDataArrive m) s = .next (((e.s.without m).recvDone { j with pts := e.pts }
      (landImage x.tw m).1).replyTo m .ack [msgWord m 0]) := by
  change execTypedDataArrive m s = _
  unfold execTypedDataArrive
  rw [if_neg (by simp [hk]), ht]
  simp only [hj, hr]
  rw [if_neg (by simp [hw])]
  unfold State.landing at he
  dsimp only at he
  rw [he]
  rfl

/-- Data for no matched receive is lost (R37). -/
theorem exec_typedDataArrive_lost (hk : m.kind = .typedData)
    (hj : t.matchedRecv (pointOf m.dst) (msgWord m 1) (msgWord m 2) = none) :
    exec (.typedDataArrive m) s = .next (t.lose m .noEndpoint) := by
  change execTypedDataArrive m s = _
  unfold execTypedDataArrive
  rw [if_neg (by simp [hk]), ht]
  dsimp only
  rw [hj]

/-! ### Block transfers, acknowledgements and posts -/

/-- BLOCK_TRANSFER_ARRIVE once the bytes are at hand and have landed, or could not (R437). -/
theorem exec_blockTransferArrive_ends {u w : State} {d : Msg} {r : Option Nat} (hk : m.kind = .block) (hc : pointOf m.dst < 1024)
    (hl : s.loadBlock m = (u, some (.ok d))) (hw : u.landBlock d = (w, some r)) :
    exec (.blockTransferArrive m) s = .next (w.endBlock m r) := by
  change execBlockTransferArrive m s = _
  unfold execBlockTransferArrive
  rw [if_neg (by simp [hk]), ht]
  dsimp only
  rw [if_neg (by simp [isCore, hc]), hl]
  dsimp only
  rw [hw]
  cases r <;> rfl

/-- TRANSFER_ACK_ARRIVE of an acknowledgement (R435, R437). -/
theorem exec_transferAckArrive_ack {j : Job} (hk : m.kind = .ack) (hc : pointOf m.dst < 1024)
    (hj : t.sendJob (pointOf m.dst) (msgWord m 0) = some j) :
    exec (.transferAckArrive m) s = .next (t.sendDone j 0) := by
  change execTransferAckArrive m s = _
  unfold execTransferAckArrive
  rw [State.arrival_of_takes ht (by simp [hk])]
  simp [isCore, hc, hj, hk]

/-- REMOTE_POST_ARRIVE (R444). -/
theorem exec_remotePostArrive (hk : m.kind = .post) (hc : pointOf m.dst < 1024) : exec (.remotePostArrive m) s =
    .next (t.postTo (pointOf m.dst) (m.tag.toNat % 32) (msgWord m 0) (BitVec.ofNat 16 (msgWord m 1)) (msgWord m 2)) :=
  State.arrival_at_core ht (by simp [hk]) hc _

theorem exec_remotePostArrive_lost (hk : m.kind = .post) (hc : 1024 ≤ pointOf m.dst) :
    exec (.remotePostArrive m) s = .next (t.lose m .noEndpoint) :=
  State.arrival_not_at_core ht (by simp [hk]) hc _

/-! ### Barriers and remote commands -/

/-- A barrier message for another endpoint than the collective engine's is lost (R37). -/
theorem exec_remoteBarrierArrival_lost (hk : m.kind = .barrier) (hc : pointOf m.dst ≠ 0x400) :
    exec (.remoteBarrierArrival m) s = .next (t.lose m .noEndpoint) := by
  change execRemoteBarrierArrival m s = _
  unfold execRemoteBarrierArrival
  rw [if_neg (by simp [hk]), ht]
  exact if_pos hc

/-- REMOTE_BARRIER_ARRIVAL in the current phase, from a member of the group (R168, R170). -/
theorem exec_remoteBarrierArrival_open (hk : m.kind = .barrier) (hc : pointOf m.dst = 0x400) :
    let b := t.barrier (msgWord m 0) (msgWord m 1) 5 m.tag.toNat
    let p := (moduleOf m.src).toNat
    msgWord m 2 = b.phase.toNat → p ∈ t.members b.dom → exec (.remoteBarrierArrival m) s =
      if t.timer b.dom = t.modnum.toNat then
        if b.remote.any (fun r => r.1 = p) then .next t
        else .next ((t.setBarrier { b with remote := b.remote ++ [(p, t.tick)] }).settleGroup
          { b with remote := b.remote ++ [(p, t.tick)] })
      else if p = t.timer b.dom && m.data.length = 40 then .next (t.endPhase b (BitVec.ofNat 128 (getLe m.data 24 16)))
      else .next t := by
  intro b p hphase hp
  change execRemoteBarrierArrival m s = _
  unfold execRemoteBarrierArrival
  rw [if_neg (by simp [hk]), ht]
  exact (if_neg (not_not.mpr hc)).trans ((if_neg (not_not.mpr hphase)).trans (if_neg (by simpa using hp)))

/-- PX_REMOTE_COMMAND waits while port 0 is full (R124, R142). -/
theorem exec_pxRemoteCommand_full (hk : m.kind = .px) (hc : pointOf m.dst = 0x401) (hh : 64 ≤ t.pxHeld 0) :
    exec (.pxRemoteCommand m) s = .next s := by
  change execPxRemoteCommand m s = _
  unfold execPxRemoteCommand
  rw [if_neg (by simp [hk]), ht]
  exact (if_neg (not_not.mpr hc)).trans (if_pos hh)

/-- PX_REMOTE_COMMAND joins port 0 (R142). -/
theorem exec_pxRemoteCommand_joins (hk : m.kind = .px) (hc : pointOf m.dst = 0x401) (hh : t.pxHeld 0 < 64) :
    exec (.pxRemoteCommand m) s = .next ({ t with ids := t.ids + 1 }.setPort 0 (t.port 0 ++ [remoteJob t.ids m])) := by
  change execPxRemoteCommand m s = _
  unfold execPxRemoteCommand
  rw [if_neg (by simp [hk]), ht]
  exact (if_neg (not_not.mpr hc)).trans (if_neg (not_le.mpr hh))

/-- PX_REMOTE_REPLY_ARRIVE of a block that names a flag (R142). -/
theorem exec_pxRemoteReplyArrive_posts (hk : m.kind = .pxReply) (hc : pointOf m.dst < 1024) (hf : m.tag.getLsbD 15 = true) :
    exec (.pxRemoteReplyArrive m) s =
      .next (t.postTo (pointOf m.dst) (m.tag.toNat % 32) 1 (BitVec.ofNat 16 (msgWord m 0)) (msgWord m 1)) :=
  (State.arrival_at_core ht (by simp [hk]) hc _).trans (congrArg _ (if_pos hf))

end

/-- A request meets the oldest receive that it matches (R53). -/
theorem State.offer_of_receiver {s : State} {ci : Nat} {m : Msg} {j : Job} (h : s.receiver ci m = some j) :
    s.offer ci m = s.meet ci m j := by
  unfold State.offer
  rw [h]

/-- A request that no receive matches is queued, or refused BUSY past 64 (R55). -/
theorem State.offer_of_no_receiver {s : State} {ci : Nat} {m : Msg} (h : s.receiver ci m = none) :
    s.offer ci m = if 64 ≤ (s.core ci).unmatched.length then
        s.send ⟨m.dst, m.src, .sendBusy, 0, m.tag, m.tw, wordsBytes [msgWord m 0]⟩
      else s.modCore ci (fun c => { c with unmatched := c.unmatched ++ [m] }) := by
  unfold State.offer
  rw [h]
  rfl

/-- The delay of a retry is 1 to 16 microseconds (R55). -/
theorem State.retryAt_bounds (s : State) : s.tick + 1000 ≤ s.retryAt ∧ s.retryAt ≤ s.tick + 16000 := by
  unfold State.retryAt
  omega

/-- SEND_RETRY_TIMER of an attempt that is due (R55). -/
theorem exec_sendRetryTimer_due {s : State} {c n : Nat} {j : Job} {x : TileOp} {d : BitVec 24} {g : BitVec 16} {due : Word}
    (hj : s.sendJob c n = some j) (hs : j.kind = .send x d g) (hr : j.result = [due]) (hdue : due.toNat ≤ s.tick) :
    exec (.sendRetryTimer c n) s = if j.pos + 1000000000 ≤ s.tick then .next (s.sendDone j 2)
      else .next ((s.modSend j (fun i => { i with result := [] })).send (s.sendRequest c j x d g)) := by
  change execSendRetryTimer c n s = _
  unfold execSendRetryTimer
  simp only [hj, hs, hr]
  exact if_neg (not_lt.mpr hdue)

/-- Settles O49: each kind of message at its endpoint, and at one that takes no such message. -/
theorem messagesArrive : Obligations.MessagesArrive := by
  intro s m t ht ci reply
  refine ⟨exec_sendRequestArrive ht, exec_sendRequestArrive_lost ht, fun j => State.offer_of_receiver,
    fun h hroom => (State.offer_of_no_receiver h).trans (if_neg (not_le.mpr hroom)),
    fun h hfull => (State.offer_of_no_receiver h).trans (if_pos hfull), fun j x d g hk hj hs hw => ?grant,
    fun j hk hc hj => exec_sendRefusalArrive_refused ht hk hc hj, fun j hk hc hj => ?busy, fun c n j x d g due hj hs hr hdue => ?retry,
    fun j x src g n hk hj hr hw => exec_typedDataArrive_lands ht hk hj hr hw, exec_typedDataArrive_lost ht,
    fun hk hc u d w hl => ?block, fun j hk hc hj => exec_transferAckArrive_ack ht hk hc hj, exec_remotePostArrive ht,
    exec_remotePostArrive_lost ht, fun hk => ?barrier, exec_pxRemoteCommand_full ht, fun hk hc hh => ?px,
    exec_pxRemoteReplyArrive_posts ht⟩
  case grant =>
    exact ⟨fun u o hd w hu => exec_sendGrantArrive_ends ht hk hj hs hw hd hu,
      fun u st hd w hu => exec_sendGrantArrive_ends ht hk hj hs hw hd hu⟩
  case busy =>
    obtain ⟨hlo, hhi⟩ := t.retryAt_bounds
    exact ⟨t.retryAt, hlo, hhi, exec_sendRefusalArrive_busy ht hk hc hj⟩
  case retry =>
    have e := exec_sendRetryTimer_due hj hs hr hdue
    exact ⟨fun h => e.trans (if_neg (not_le.mpr h)), fun h => e.trans (if_pos h)⟩
  case block =>
    exact ⟨fun ts hw => exec_blockTransferArrive_ends ht hk hc hl hw, fun hw => exec_blockTransferArrive_ends ht hk hc hl hw⟩
  case barrier =>
    intro b p
    refine ⟨exec_remoteBarrierArrival_lost ht hk, fun hc hphase hp htimer hnew => ?_, fun hc hphase hp htimer hfrom hlen => ?_⟩
    · refine (exec_remoteBarrierArrival_open ht hk hc hphase hp).trans ((if_pos htimer).trans (if_neg fun hany => ?_))
      obtain ⟨r, hr, hrp⟩ := List.any_eq_true.mp hany
      exact hnew r hr (of_decide_eq_true hrp)
    · refine (exec_remoteBarrierArrival_open ht hk hc hphase hp).trans ((if_neg htimer).trans (if_pos ?_))
      exact Bool.and_eq_true_iff.mpr ⟨decide_eq_true hfrom, decide_eq_true hlen⟩
  case px =>
    refine ⟨_, remoteJob t.ids m, exec_pxRemoteCommand_joins ht hk hc hh, rfl, ?_, rfl⟩
    rw [State.takeMsg_eq ht]
    exact SMap.get_set_same ..

end Sys2Proof.Machine
end

section
/-!
PROOFS. Collectives (R56 to R62): what a contribution changes, and a state of which the statement about it is false.
-/

namespace Sys2Proof.Machine

/-! ### What a contribution changes -/

/-- What a member's sources make of a live collective (R59, R60): they join it, and a descriptor that is not its own ends it
as MISMATCH. -/
def CollRun.joinedBy (r : CollRun) (m : Msg) (no tick : Nat) : CollRun := { r with
  status := if r.status ≠ 0 then r.status else if r.desc ≠ msgDesc m then 1 else 0
  contribs := sortBy (fun c => c.1) (r.contribs ++ [(no, msgSources m)])
  tick := tick }

/-- COLL_CONTRIBUTION_ARRIVE of sources that the live collective has not had (R59, R60): every live collective of the
group takes them, each against its own descriptor. -/
theorem exec_collContributionArrive_joins {s t : State} {m : Msg} {r : CollRun} (hk : m.kind = .collective)
    (ht : s.takeMsg m = some t) (hc : pointOf m.dst = 0x400) (hr : t.collRun m.tag.toNat = some r)
    (hseq : r.desc.seq = (msgDesc m).seq) (hdata : msgWord m 0 = 0) :
    let no := (t.members m.tag.toNat).idxOf (moduleOf m.src).toNat
    no < (t.members m.tag.toNat).length → (∀ c ∈ r.contribs, c.1 ≠ no) →
      exec (.collContributionArrive m) s = .next (t.modRun m.tag.toNat (fun r => r.joinedBy m no t.tick)) := by
  intro no hno hnew
  have hjoins : ¬ (decide (no = (t.members m.tag.toNat).length) ||
      r.contribs.any (fun c => decide (c.1 = no)) && decide (msgWord m 0 = 0)) = true := by
    simpa [hdata, hno.ne] using fun b hb => hnew (no, b) hb rfl
  change execCollContributionArrive m s = _
  unfold execCollContributionArrive
  rw [if_neg (not_not.mpr hk), ht]
  dsimp only
  rw [if_neg (not_not.mpr hc), hr]
  dsimp only
  rw [if_neg (not_not.mpr hseq)]
  refine (if_neg hjoins).trans ?_
  simp only [hdata, CollRun.joinedBy, ne_eq, not_true_eq_false, if_false]
  rfl

theorem State.modRun_congr {s : State} {g : Nat} {f f' : CollRun → CollRun} (h : ∀ q ∈ s.cruns, q.grp = g → f q = f' q) :
    s.modRun g f = s.modRun g f' := by
  have hmap : s.cruns.map (fun q => if q.grp = g then f q else q) = s.cruns.map (fun q => if q.grp = g then f' q else q) := by
    refine List.map_congr_left fun q hq => ?_
    split
    · next hg => exact h q hq hg
    · rfl
  unfold State.modRun
  rw [hmap]

/-- A member's sources join the live collective whose descriptor they match, where it is the group's only one (R59, R60). -/
theorem exec_collContributionArrive_of_only_run {s t : State} {m : Msg} {r : CollRun} (hk : m.kind = .collective)
    (ht : s.takeMsg m = some t) (hc : pointOf m.dst = 0x400) (hr : t.collRun m.tag.toNat = some r)
    (honly : ∀ q ∈ t.cruns, q.grp = m.tag.toNat → q = r) (hlive : r.status = 0) (hdesc : msgDesc m = r.desc)
    (hdata : msgWord m 0 = 0) :
    let no := (t.members m.tag.toNat).idxOf (moduleOf m.src).toNat
    no < (t.members m.tag.toNat).length → (∀ c ∈ r.contribs, c.1 ≠ no) →
      exec (.collContributionArrive m) s = .next (t.modRun m.tag.toNat (fun r => { r with
        contribs := sortBy (fun c => c.1) (r.contribs ++ [(no, msgSources m)])
        tick := t.tick })) := by
  intro no hno hnew
  rw [exec_collContributionArrive_joins hk ht hc hr (by rw [hdesc]) hdata hno hnew]
  refine congrArg _ (State.modRun_congr fun q hq hg => ?_)
  rw [honly q hq hg]
  simp [CollRun.joinedBy, hlive, hdesc, no]

/-! ### Two live collectives of one group -/

/-- The descriptor of a reduction over FP32 with a sequence number. -/
def reduction (seq : BitVec 32) : CollDesc := ⟨0, 0, 1, 1, false, seq, 0, 16⟩

/-- The contribution of module 1, which has no contributors of its own, to the collective of group 3 with sequence number 5. -/
def contribution : Msg :=
  { State.reset with modnum := 1 }.collMsg ⟨3, reduction 5, [], [], true, 0, 0⟩ 0 []

/-- Group 3 of modules 0 and 1 on module 0, with two live collectives: sequence number 5, to which module 1's contribution has
come, and sequence number 6. -/
def twoRuns : State := { State.reset with
  mem := { State.reset.mem with bytes := [(2, 1)] }
  cgroups := [(3, ⟨0, true, 1, 2, some 5⟩)]
  cruns := [⟨3, reduction 5, [], [(0, [])], true, 0, 0⟩, ⟨3, reduction 6, [], [(0, [])], true, 0, 0⟩]
  inbox := [contribution] }

/-- The contribution joins the first collective, and ends the second as MISMATCH. -/
theorem exec_contribution_twoRuns : ∃ t, exec (.collContributionArrive contribution) twoRuns = .next t ∧
    t.cruns.map CollRun.status = [0, 1] :=
  ⟨_, exec_collContributionArrive_joins (t := twoRuns.without contribution) rfl rfl rfl rfl rfl rfl (by decide) (by decide), rfl⟩

/-- Refutes O50: the clause about another member's contribution says that it leaves the status of every live collective of
its group. A group with two live collectives is not excluded, and the second, whose descriptor the contribution does not
match, ends with status 1 in `twoRuns`. COLL_JOB_START starts none while one is live (R59), and where one alone is live the clause
holds: `exec_collContributionArrive_of_only_run`. -/
theorem not_collectivesRun : ¬ Obligations.CollectivesRun := by
  intro h
  obtain ⟨-, -, -, hcontribution, -⟩ := h twoRuns 3
  obtain ⟨t, hrun, hstatus⟩ := exec_contribution_twoRuns
  have hclaim := hcontribution contribution (twoRuns.without contribution) _ rfl rfl rfl rfl rfl rfl rfl rfl (by decide) (by decide)
  have ht := Host.Outcome.next.inj (hrun.symm.trans hclaim)
  rw [ht] at hstatus
  exact absurd hstatus (by decide)

end Sys2Proof.Machine
end

section
/-!
PROOFS. What a turn answers (R63, R181): a next state, but for a system core's access outside the ranges of R63.
-/

namespace Sys2Proof.Machine

/-- An outcome is a next state. -/
def Answers (o : Out) : Prop := ∃ t, o = .next t

theorem answers_next (t : State) : Answers (.next t) := ⟨t, rfl⟩

/-! ### The shapes that several events share -/

theorem State.channel_answers (s : State) (opc : Nat) (body : Command → State → Option State) : Answers (s.channel opc body) := by
  unfold State.channel
  repeat' split
  all_goals exact answers_next _

theorem State.arrival_answers (s : State) (m : Msg) (kinds : List MsgKind) (at_ : Nat → Bool) (f : State → State) :
    Answers (s.arrival m kinds at_ f) := by
  unfold State.arrival
  repeat' split
  all_goals exact answers_next _

theorem State.pixServe_answers (s : State) (opc : Nat) : Answers (s.pixServe opc) := by
  unfold State.pixServe
  repeat' split
  all_goals exact answers_next _

theorem Eng.cardEnd_answers (e : Eng) (n : Nat) (st det : BitVec 16) (count : Nat) : Answers (e.cardEnd n st det count) := by
  unfold Eng.cardEnd
  split <;> exact answers_next _

/-- A decode card ends in the checks of its body, or with its engine (R86, R87). -/
theorem execDecodeCard_answers (n : Nat) (s : State) : Answers (execDecodeCard n s) := by
  unfold execDecodeCard
  split
  case h_2 => exact answers_next _
  split_ifs
  iterate 2 exact answers_next _
  split
  case h_2 => exact answers_next _
  dsimp only
  split_ifs
  iterate 2 exact answers_next _
  all_goals exact Eng.cardEnd_answers ..

/-- A resize card ends in the checks of its body, or with its engine (R86, R89, R90). -/
theorem execResizeCard_answers (n : Nat) (s : State) : Answers (execResizeCard n s) := by
  unfold execResizeCard
  split
  case h_2 => exact answers_next _
  split_ifs
  iterate 2 exact answers_next _
  split
  case h_2 => exact answers_next _
  dsimp only
  split_ifs
  · exact answers_next _
  split
  · exact answers_next _
  split_ifs
  · exact answers_next _
  split
  · exact Eng.cardEnd_answers ..
  split_ifs
  · exact Eng.cardEnd_answers ..
  · exact answers_next _
  all_goals exact Eng.cardEnd_answers ..

/-! ### The events, unit by unit -/

/-- The events of links, messages and collectives whose answer branches on the state. -/
def fabricTurn : Instr → Bool
  | .flitReceive .. | .retryRequestReceive .. | .linkFlitSlot .. | .linkRetrain .. | .linkDisable .. | .linkTrained ..
  | .linkTrainingTimeout .. | .laneLockLoss .. | .linkStall .. | .messageForward .. | .sendGrantArrive .. | .sendRetryTimer ..
  | .typedDataArrive .. | .blockTransferArrive .. | .remoteBarrierArrival .. | .pxRemoteCommand .. | .collJobStart ..
  | .collContributionArrive .. | .collJobComplete .. | .collTimeout .. => true
  | _ => false

theorem exec_answers_of_fabricTurn {i : Instr} (h : fabricTurn i = true) (s : State) : Answers (exec i s) := by
  unfold fabricTurn at h
  split at h
  case h_21 => cases h
  all_goals
    dsimp only [exec, execFlitReceive, execRetryRequestReceive, execLinkFlitSlot, execLinkRetrain, execLinkDisable, execLinkTrained,
      execLinkTrainingTimeout, execLaneLockLoss, execLinkStall, execMessageForward, execSendGrantArrive, execSendRetryTimer,
      execTypedDataArrive, execBlockTransferArrive, execRemoteBarrierArrival, execPxRemoteCommand, execCollJobStart,
      execCollContributionArrive, execCollJobComplete, execCollTimeout]
    repeat' split
    all_goals exact answers_next _

/-- The events of the rings, the walkers, the keys, the controller and the tier engines whose answer branches on the state. -/
def deviceTurn : Instr → Bool
  | .bootStage .. | .throttleRaise | .throttleLower | .powerAlarm | .patrolScrub .. | .mailboxDone | .launchQueueTailWrite ..
  | .launchRecordRead | .consumerHeadWrite .. | .taskComplete .. | .completionDrain | .faultRecordDrain | .tlbMissWalk ..
  | .pageWalkComplete .. | .keyCommandFinish | .tierFramePop .. | .tierFramePush .. | .tierClockStep .. | .demotionStart ..
  | .demotionDrain .. | .demotionFinish .. | .storageOutRecord .. => true
  | _ => false

theorem exec_answers_of_deviceTurn {i : Instr} (h : deviceTurn i = true) (s : State) : Answers (exec i s) := by
  unfold deviceTurn at h
  split at h
  case h_23 => cases h
  all_goals
    dsimp only [exec, execBootStage, execThrottleRaise, execThrottleLower, execPowerAlarm, execPatrolScrub, execMailboxDone,
      execLaunchQueueTailWrite, execLaunchRecordRead, execConsumerHeadWrite, execTaskComplete, execCompletionDrain,
      execFaultRecordDrain, execTlbMissWalk, execPageWalkComplete, execKeyCommandFinish, execTierFramePop, execTierFramePush,
      execTierClockStep, execDemotionStart, execDemotionDrain, execDemotionFinish, execStorageOutRecord]
    repeat' split
    all_goals exact answers_next _

/-- The events of media rings, drives, CXL links and pools whose answer branches on the state, but for the cards themselves. -/
def storageTurn : Instr → Bool
  | .mediaRingConfigWrite .. | .mediaCardPoll .. | .mediaCardComplete .. | .nvmeCompletion .. | .nvmeCommandTimeout ..
  | .cxlLinkDown .. | .cxlLinkUp .. | .pxDisable .. | .pxInit .. | .pxInitComplete .. | .pxRequantStart .. | .pxRequantStep ..
  | .pxReclaim .. => true
  | _ => false

theorem exec_answers_of_storageTurn {i : Instr} (h : storageTurn i = true) (s : State) : Answers (exec i s) := by
  unfold storageTurn at h
  split at h
  case h_14 => cases h
  all_goals
    dsimp only [exec, execMediaRingConfigWrite, execMediaCardPoll, execMediaCardComplete, execNvmeCompletion,
      execNvmeCommandTimeout, execCxlLinkDown, execCxlLinkUp, execPxDisable, execPxInit, execPxInitComplete, execPxRequantStart,
      execPxRequantStep, execPxReclaim]
    repeat' split
    all_goals exact answers_next _

/-- The events of the work distributor whose answer branches on the state. -/
def workTurn : Instr → Bool
  | .taskPlacementAssign .. | .placementSelect .. | .reserveRequest .. | .phase1Result .. | .reservationTimeout ..
  | .placementBackoffExpiry .. | .holdSlotGrant .. | .quantumBoundary .. | .stopRequest .. | .stopCutBroadcast .. | .stopTimeout ..
  | .swapOut .. | .swapIn .. | .takeClaim .. | .deviceLaunch .. | .xrouteApply .. | .xrouteResume .. => true
  | _ => false

theorem exec_answers_of_workTurn {i : Instr} (h : workTurn i = true) (s : State) : Answers (exec i s) := by
  unfold workTurn at h
  split at h
  case h_18 => cases h
  all_goals
    dsimp only [exec, execTaskPlacementAssign, execPlacementSelect, execReserveRequest, execPhase1Result, execReservationTimeout,
      execPlacementBackoffExpiry, execHoldSlotGrant, execQuantumBoundary, execStopRequest, execStopCutBroadcast, execStopTimeout,
      execSwapOut, execSwapIn, execTakeClaim, execDeviceLaunch, execXrouteApply, execXrouteResume]
    repeat' split
    all_goals exact answers_next _

/-- The events of the cores, of their engines and of the merge network whose answer branches on the state. -/
def coreTurn : Instr → Bool
  | .varResultReturn .. | .trapEntry .. | .watchdog .. | .sleepExpiry .. | .copyJobStart .. | .copyJobComplete ..
  | .matrixJobStart .. | .matrixJobComplete .. | .mergeOpenApply .. | .mergePushApply .. | .mergeCloseApply .. | .mergeStatusApply ..
  | .loadBlockSettled .. | .rplackComplete .. | .rinkRowFilled .. => true
  | _ => false

theorem exec_answers_of_coreTurn {i : Instr} (h : coreTurn i = true) (s : State) : Answers (exec i s) := by
  unfold coreTurn at h
  split at h
  case h_16 => cases h
  all_goals
    dsimp only [exec, execVarResultReturn, execTrapEntry, execWatchdog, execSleepExpiry, execCopyJobStart, execCopyJobComplete,
      execMatrixJobStart, execMatrixJobComplete, execMergeOpenApply, execMergePushApply, execMergeCloseApply, execMergeStatusApply,
      execLoadBlockSettled, execRplackComplete, execRinkRowFilled]
    repeat' split
    all_goals exact answers_next _

/-! ### Every instruction -/

/-- Each slot instruction issues as `runSlot` says, and each event but REGISTER_WRITE ends every branch in a next state. -/
theorem exec_answers {i : Instr} (h : ∀ a n v, i ≠ .registerWrite a n v) (s : State) : Answers (exec i s) := by
  cases i
  case registerWrite a n v => exact absurd rfl (h a n v)
  case sendRequestArrive | sendRefusalArrive | transferAckArrive | remotePostArrive | pxRemoteReplyArrive =>
    dsimp only [exec, execSendRequestArrive, execSendRefusalArrive, execTransferAckArrive, execRemotePostArrive, execPxRemoteReplyArrive]
    exact State.arrival_answers ..
  case ptwrite | inval | replay | kill | retire | mark =>
    dsimp only [exec, execPtwrite, execInval, execReplay, execKill, execRetire, execMark]
    exact State.channel_answers ..
  case lookup | insert | fork | append | release => exact State.pixServe_answers ..
  case decodeCard n => exact execDecodeCard_answers n s
  case resizeCard n => exact execResizeCard_answers n s
  case flitReceive | retryRequestReceive | linkFlitSlot | linkRetrain | linkDisable | linkTrained | linkTrainingTimeout | laneLockLoss |
      linkStall | messageForward | sendGrantArrive | sendRetryTimer | typedDataArrive | blockTransferArrive | remoteBarrierArrival |
      pxRemoteCommand | collJobStart | collContributionArrive | collJobComplete | collTimeout =>
    exact exec_answers_of_fabricTurn rfl s
  case bootStage | throttleRaise | throttleLower | powerAlarm | patrolScrub | mailboxDone | launchQueueTailWrite | launchRecordRead |
      consumerHeadWrite | taskComplete | completionDrain | faultRecordDrain | tlbMissWalk | pageWalkComplete | keyCommandFinish |
      tierFramePop | tierFramePush | tierClockStep | demotionStart | demotionDrain | demotionFinish | storageOutRecord =>
    exact exec_answers_of_deviceTurn rfl s
  case mediaRingConfigWrite | mediaCardPoll | mediaCardComplete | nvmeCompletion | nvmeCommandTimeout | cxlLinkDown | cxlLinkUp |
      pxDisable | pxInit | pxInitComplete | pxRequantStart | pxRequantStep | pxReclaim =>
    exact exec_answers_of_storageTurn rfl s
  case taskPlacementAssign | placementSelect | reserveRequest | phase1Result | reservationTimeout | placementBackoffExpiry |
      holdSlotGrant | quantumBoundary | stopRequest | stopCutBroadcast | stopTimeout | swapOut | swapIn | takeClaim | deviceLaunch |
      xrouteApply | xrouteResume =>
    exact exec_answers_of_workTurn rfl s
  case varResultReturn | trapEntry | watchdog | sleepExpiry | copyJobStart | copyJobComplete | matrixJobStart | matrixJobComplete |
      mergeOpenApply | mergePushApply | mergeCloseApply | mergeStatusApply | loadBlockSettled | rplackComplete | rinkRowFilled =>
    exact exec_answers_of_coreTurn rfl s
  case moduleReset | powerSample | coreFrequencyChange | freezePin | thermalTrip | oarovFirmwareFault | mgmtFreeze | mgmtReadOut |
      mgmtPowerLimit | mgmtImageReplacement | mgmtLoaderKeyEnrol | mgmtRegisterRead | mgmtTelemetryRead | mgmtCertificateRead |
      mgmtAttestation | mbcmdAttestation | translationChannelTailWrite | keyLoad | keyClear | resultLand | loadReturn =>
    exact answers_next _
  all_goals exact runSlot_next ..

/-! ### A system core's store and load (R63) -/

/-- Bytes that neither memory nor the device window holds. -/
def OutsideRanges (a n : Nat) : Prop := isMemory a n = false ∧ (a < devBase ∨ devBase + 0x50000 ≤ a)

/-- Bytes at a device address that memory does not hold. -/
def InWindow (a n : Nat) : Prop := isMemory a n = false ∧ devBase ≤ a ∧ a < devBase + 0x50000

theorem ranges_cases (a n : Nat) : isMemory a n = true ∨ OutsideRanges a n ∨ InWindow a n := by
  unfold OutsideRanges InWindow
  cases isMemory a n
  · simp only [true_and]
    omega
  · exact .inl rfl

section
variable {a n : Nat} (s : State)

theorem exec_registerWrite_memory (h : isMemory a n = true) (v : Word) :
    exec (.registerWrite a n v) s = .next (s.memPut 0 a (bytesOf n v.toNat)) := if_pos h

theorem exec_registerWrite_outside (h : OutsideRanges a n) (v : Word) :
    exec (.registerWrite a n v) s = .fault (.systemAccess a) :=
  (if_neg (by simp [h.1])).trans (if_pos (by simpa using h.2))

/-- A store to the device window writes a register where it is naturally aligned, and nothing elsewhere (R63). -/
theorem exec_registerWrite_window (h : InWindow a n) (v : Word) : exec (.registerWrite a n v) s =
    if n ∈ [1, 2, 4, 8] ∧ a % n = 0 then
      .next (s.devWrite ((a - devBase) / 8 * 8) ⟨BitVec.ofNat 64 ((2 ^ (8 * n) - 1) * 2 ^ (8 * (a % 8))), v <<< (8 * (a % 8))⟩)
    else .next s := by
  obtain ⟨hmem, hlo, hhi⟩ := h
  refine (if_neg (by simp [hmem])).trans ((if_neg (by simp; omega)).trans ?_)
  rw [← ite_not]
  refine if_congr ?_ rfl rfl
  simp [or_iff_not_imp_left]

theorem systemLoad_outside (h : OutsideRanges a n) : s.systemLoad a n = .fault (.systemAccess a) :=
  (if_neg (by simp [h.1])).trans (if_pos (by simpa using h.2))

/-- A load of bytes that are not poisoned reads them under key index 0 (R63, R121). -/
theorem systemLoad_memory (h : isMemory a n = true) (hp : (s.poisonAt 0 a n).isSome = false) : s.systemLoad a n = .next { s with
    mem := (s.mem.stampAll Memory.loadAt 0 (linesOf a n)).1
    sysRead := BitVec.ofNat 64 (ofBytes (s.memRead 0 a n)) } :=
  (if_pos h).trans (if_neg (Bool.eq_false_iff.mp hp))

theorem systemLoad_answers (h : ¬ OutsideRanges a n) : Answers (s.systemLoad a n) := by
  rcases ranges_cases a n with hm | ho | ⟨hm, hlo, hhi⟩
  · unfold State.systemLoad
    rw [if_pos hm]
    split <;> exact answers_next _
  · exact absurd ho h
  · unfold State.systemLoad
    rw [if_neg (by simp [hm]), if_neg (by simp; omega)]
    split <;> exact answers_next _

end

/-- Settles O8: every instruction answers a next state but for a store outside the ranges of R63, and so does a load. -/
theorem execAnswers : Obligations.ExecAnswers := by
  refine ⟨fun s a n => ?load, fun i s => ?exec⟩
  case load =>
    by_cases h : OutsideRanges a n
    · exact .inr ⟨h.1, h.2, systemLoad_outside s h⟩
    · exact .inl (systemLoad_answers s h)
  case exec =>
    by_cases hi : ∀ a n v, i ≠ .registerWrite a n v
    · exact .inl (exec_answers hi s)
    · push Not at hi
      obtain ⟨a, n, v, rfl⟩ := hi
      rcases ranges_cases a n with hm | ho | hw
      · exact .inl ⟨_, exec_registerWrite_memory s hm v⟩
      · exact .inr ⟨a, n, v, rfl, ho.1, ho.2, exec_registerWrite_outside s ho v⟩
      · refine .inl ?_
        rw [exec_registerWrite_window s hw]
        split <;> exact answers_next _

end Sys2Proof.Machine
end

section
/-!
PROOFS. What a system core writes (R63, R68, R70, R72, R83, R119): memory and the pointers of the rings.
-/

namespace Sys2Proof.Machine

/-! ### Memory as a system core or a ring writes it -/

theorem State.rekey_eq (s : State) (key : BitVec 9) (line : Nat) : ∃ m, s.rekey key line = { s with mem := m } := by
  unfold State.rekey
  split <;> exact ⟨_, rfl⟩

theorem State.memWriteEn_eq (s : State) (key : BitVec 9) (pa : Nat) (bs : List Byte) (en : Nat → Bool) (tag : Bool) :
    ∃ m, s.memWriteEn key pa bs en tag = { s with mem := m } := by
  obtain ⟨m, e⟩ := foldl_mem (fun s l => State.rekey_eq s key l) (runsOf ((written pa bs en).map (· / 64))) s
  unfold State.memWriteEn
  split
  · exact ⟨_, rfl⟩
  · dsimp only
    rw [e]
    exact ⟨_, rfl⟩

/-- A write to memory changes memory alone. -/
theorem State.memWrite_eq (s : State) (key : BitVec 9) (pa : Nat) (bs : List Byte) :
    s.memWrite key pa bs = { s with mem := (s.memWrite key pa bs).mem } := by
  obtain ⟨m, e⟩ := s.memWriteEn_eq key pa bs (fun _ => true) false
  unfold State.memWrite
  rw [e]

theorem State.memPut_eq (s : State) (key : BitVec 9) (pa : Nat) (bs : List Byte) :
    s.memPut key pa bs = { s with mem := (s.memPut key pa bs).mem } := by
  unfold State.memPut
  rw [s.memWrite_eq]

theorem State.memPut_bytes (s : State) (key : BitVec 9) (pa : Nat) (bs : List Byte) :
    (s.memPut key pa bs).mem.bytes = (s.memWrite key pa bs).mem.bytes :=
  Memory.stampAll_bytes _ (fun _ _ _ => rfl) _ _ _

@[simp] theorem State.memPut_cores (s : State) (key : BitVec 9) (pa : Nat) (bs : List Byte) : (s.memPut key pa bs).cores = s.cores := by
  rw [s.memPut_eq]

/-! ### Rings -/

/-- A write of TAIL is refused where it would pass the ring's size or move back (R68). -/
theorem Ring.produce_eq (r : Ring) (v : BitVec 32) :
    r.produce v = if r.size < (v - r.head).toNat ∨ (v - r.head).toNat < (r.tail - r.head).toNat then { r with overrun := true }
      else { r with tail := v } := by
  refine if_congr ?_ rfl rfl
  simp only [Bool.or_eq_true, decide_eq_true_eq]
  exact Iff.rfl

/-- LAUNCH_QUEUE_TAIL_WRITE (R68). -/
theorem exec_launchQueueTailWrite {n : Nat} (h : n < 8) (v : Word) (s : State) :
    exec (.launchQueueTailWrite n v) s = .next { s with lq := SMap.set Ring.init s.lq n ((s.lqOf n).produce (v.setWidth 32)) } :=
  if_neg (not_le.mpr h)

/-- MEDIA_RING_CONFIG_WRITE (R83). -/
theorem exec_mediaRingConfigWrite (n : Nat) (size : Bool) (v : Word) (s : State) : exec (.mediaRingConfigWrite n size v) s =
    if n < 32 ∧ (s.mring n).busy = false then .next (s.setMring n (if size then { s.mring n with log2 := v.extractLsb' 0 5, head := 0 }
      else { s.mring n with base := v &&& ~~~127#64, head := 0 }))
    else .next s := by
  rw [← ite_not]
  refine if_congr ?_ rfl rfl
  simp [imp_iff_not_or]

/-- Settles O47: memory, the device window and neither; and each ring's pointers by `Ring.produce` and `Ring.consume`. -/
theorem systemCoreWrites : Obligations.SystemCoreWrites := by
  intro s v fills drains
  refine ⟨fun a n h => ?store, fun a n hm hlo hhi hn ha => ?window, fun a n hm h => ?outside, fun a n h hp => ?load, fun n hn => ?launch,
    ?channel, rfl, rfl, rfl, fun n hn hb => ?media, fun n z hb => ?busy⟩
  case store => exact ⟨_, exec_registerWrite_memory s h v, s.memPut_bytes .., s.memPut_cores ..⟩
  case window => exact (exec_registerWrite_window s ⟨hm, hlo, hhi⟩ v).trans (if_pos ⟨hn, ha⟩)
  case outside => exact ⟨exec_registerWrite_outside s ⟨hm, h⟩ v, systemLoad_outside s ⟨hm, h⟩⟩
  case load => exact ⟨_, systemLoad_memory s h hp, rfl, Memory.stampAll_bytes _ (fun _ _ _ => rfl) _ _ _, rfl⟩
  case launch => rw [exec_launchQueueTailWrite hn, Ring.produce_eq]
  case channel =>
    change Host.Outcome.next { s with ch := { s.ch with ring := s.ch.ring.produce (v.setWidth 32) } } = _
    rw [Ring.produce_eq]
  case media =>
    exact ⟨(exec_mediaRingConfigWrite n true v s).trans (if_pos ⟨hn, hb⟩), (exec_mediaRingConfigWrite n false v s).trans (if_pos ⟨hn, hb⟩)⟩
  case busy => exact (exec_mediaRingConfigWrite n z v s).trans (if_neg (by simp [hb]))

end Sys2Proof.Machine
end

section
/-!
PROOFS. The translation channel (R72 to R76, R86, R111, R305) and the page walks of ports (R102, R105, R108, R109, R112).
-/

namespace Sys2Proof.Machine

/-! ### The table of tasks -/

section
variable {s : State} {f : Task → Task} (hf : ∀ t, (f t).rcd.task = t.rcd.task)
include hf

theorem State.task_modTask_same (id : Nat) : (s.modTask id f).task id = (s.task id).map f := by
  have hpred : ((fun t : Task => decide (t.rcd.task.toNat = id)) ∘ fun t => if t.rcd.task.toNat = id then f t else t) =
      fun t => decide (t.rcd.task.toNat = id) := by
    funext t
    by_cases h : t.rcd.task.toNat = id <;> simp [h, hf]
  unfold State.task State.modTask
  rw [List.find?_map, hpred]
  cases hfind : s.tasks.find? (fun t => decide (t.rcd.task.toNat = id)) with
  | none => rfl
  | some t => simp [of_decide_eq_true (p := _) (List.find?_some hfind :)]

theorem State.task_modTask_other {id m : Nat} (h : m ≠ id) : (s.modTask id f).task m = s.task m := by
  have hpred : ((fun t : Task => decide (t.rcd.task.toNat = m)) ∘ fun t => if t.rcd.task.toNat = id then f t else t) =
      fun t => decide (t.rcd.task.toNat = m) := by
    funext t
    by_cases ht : t.rcd.task.toNat = id <;> simp [ht, hf]
  unfold State.task State.modTask
  rw [List.find?_map, hpred]
  cases hfind : s.tasks.find? (fun t => decide (t.rcd.task.toNat = m)) with
  | none => rfl
  | some t => simp [of_decide_eq_true (p := _) (List.find?_some hfind :), h]

end

@[simp] theorem State.modCtx_task (s : State) (n k : Nat) (f : Ctx → Ctx) : (s.modCtx n k f).task = s.task := rfl
@[simp] theorem State.nextCommand_task (s : State) : s.nextCommand.task = s.task := rfl
@[simp] theorem State.dropFault_task (s : State) (id : BitVec 32) : (s.dropFault id).task = s.task := rfl

/-! ### Commands -/

@[simp] theorem State.nextCommand_ctx (s : State) (n k : Nat) : s.nextCommand.ctx n k = s.ctx n k := rfl

/-- Each event of the channel runs the command at the head (R73). -/
theorem exec_channelEvent {i : Instr} (hi : i ∈ [.ptwrite, .inval, .replay, .kill, .retire, .mark]) (s : State) :
    ∃ opc body, exec i s = s.channel opc body := by
  fin_cases hi
  all_goals
    dsimp only [exec, execPtwrite, execInval, execReplay, execKill, execRetire, execMark]
    exact ⟨_, _, rfl⟩

section
variable {s : State} {c : Command} {opc : Nat} {body : Command → State → Option State}

theorem State.channel_of_no_command (h : s.command = none) : s.channel opc body = .next s := by
  unfold State.channel
  rw [h]

/-- A skipped command is reported at the HEAD it stood at (R74). -/
theorem State.channel_of_skips (hc : s.command = some c) (h : s.skips c = true) : s.channel opc body =
    .next { s.nextCommand with ch := { s.nextCommand.ch with errIdx := s.ch.ring.head, cmdErr := true } } := by
  unfold State.channel
  rw [hc]
  exact if_pos h

theorem State.channel_of_runs {t : State} (hc : s.command = some c) (h : s.skips c = false) (ho : c.opc = opc)
    (hb : body c s = some t) : s.channel opc body = .next t.nextCommand := by
  unfold State.channel
  rw [hc]
  dsimp only
  rw [if_neg (Bool.eq_false_iff.mp h), if_neg (not_not.mpr ho), hb]

theorem State.channel_of_waits (hc : s.command = some c) (h : s.skips c = false) (ho : c.opc = opc)
    (hb : body c s = none) : s.channel opc body = .next s := by
  unfold State.channel
  rw [hc]
  dsimp only
  rw [if_neg (Bool.eq_false_iff.mp h), if_neg (not_not.mpr ho), hb]

end

section
variable {s : State} {c : Command} (hc : s.command = some c) (hs : s.skips c = false)
include hc hs

/-- PTWRITE (R72, R111). -/
theorem exec_ptwrite_writes (ho : c.opc = 1) (hm : ∀ m ∈ s.moves, m.pte ≠ c.addr) : exec .ptwrite s =
    .next { s.memPut 0 c.addr (bytesOf 8 c.data.toNat) with
      objCache := (s.memPut 0 c.addr (bytesOf 8 c.data.toNat)).objCache.filter (fun e => e.pa / 64 ≠ c.addr / 64)
      spaceCache := (s.memPut 0 c.addr (bytesOf 8 c.data.toNat)).spaceCache.filter (fun e => e.pa / 32 ≠ c.addr / 32) }.nextCommand := by
  dsimp only [exec, execPtwrite]
  exact State.channel_of_runs hc hs ho (if_neg (by simpa using hm))

/-- A PTWRITE to the entry of a page in motion waits (R118). -/
theorem exec_ptwrite_waits (ho : c.opc = 1) (hm : ∃ m ∈ s.moves, m.pte = c.addr) : exec .ptwrite s = .next s := by
  dsimp only [exec, execPtwrite]
  exact State.channel_of_waits hc hs ho (if_pos (by simpa using hm))

theorem exec_inval (ho : c.opc = 2) : exec .inval s = .next (s.inval (c.arg.setWidth 16) c.addr c.data.toNat).nextCommand := by
  dsimp only [exec, execInval]
  exact State.channel_of_runs hc hs ho rfl

/-- REPLAY of a context's fault (R75, R300, R353). -/
theorem exec_replay_ctx {f : OutFault} {ci k : Nat} (hf : s.fault? c.arg = some f) (hr : f.req = .ctx ci k) (ho : c.opc = 3) :
    let t := (s.dropFault c.arg).modCtx ci k (fun x => { x with lastReplay := some c.arg })
    exec .replay s = .next (if (s.ctx ci k).status = .parked then t.trapReturn ci k else t).nextCommand := by
  dsimp only [exec, execReplay]
  refine State.channel_of_runs hc hs ho ?_
  rw [hf, Option.map_some, hr]
  rfl

/-- KILL of the fault of a context that runs (R305). -/
theorem exec_kill_live {f : OutFault} {ci k : Nat} (hf : s.fault? c.arg = some f) (hr : f.req = .ctx ci k) (ho : c.opc = 4)
    (hl : (s.ctx ci k).status ≠ .idle) : exec .kill s = .next ((s.dropFault c.arg).kill ci k 0 0).nextCommand := by
  dsimp only [exec, execKill]
  refine State.channel_of_runs hc hs ho ?_
  rw [hf, Option.map_some, hr]
  exact congrArg some (if_neg hl)

/-- KILL of the fault of an exited context discards its accesses and kills its task (R353). -/
theorem exec_kill_idle {f : OutFault} {ci k : Nat} (hf : s.fault? c.arg = some f) (hr : f.req = .ctx ci k) (ho : c.opc = 4)
    (hl : (s.ctx ci k).status = .idle) : exec .kill s =
      .next (((s.dropFault c.arg).modTask (s.taskIdOf ci) (fun t => { t with killed := true })).modCtx ci k
        (fun x => { x with port := [] })).nextCommand := by
  dsimp only [exec, execKill]
  refine State.channel_of_runs hc hs ho ?_
  rw [hf, Option.map_some, hr]
  exact congrArg some (if_pos hl)

/-- REPLAY and KILL of an engine's fault set its phase (R75, R86). -/
theorem exec_replay_engine {f : OutFault} (hf : s.fault? c.arg = some f) (hr : ∀ ci k, f.req ≠ .ctx ci k) (ho : c.opc = 3) :
    exec .replay s = .next ((s.dropFault c.arg).setPhase c.arg .replayed).nextCommand := by
  dsimp only [exec, execReplay]
  refine State.channel_of_runs hc hs ho ?_
  rw [hf, Option.map_some]
  cases h : f.req with
  | ctx ci k => exact absurd h (hr ci k)
  | _ => rfl

theorem exec_kill_engine {f : OutFault} (hf : s.fault? c.arg = some f) (hr : ∀ ci k, f.req ≠ .ctx ci k) (ho : c.opc = 4) :
    exec .kill s = .next ((s.dropFault c.arg).setPhase c.arg .killed).nextCommand := by
  dsimp only [exec, execKill]
  refine State.channel_of_runs hc hs ho ?_
  rw [hf, Option.map_some]
  cases h : f.req with
  | ctx ci k => exact absurd h (hr ci k)
  | _ => rfl

section
variable (ho : c.opc = 5) (hm : s.movesOf (c.arg.setWidth 12) = false)
include ho hm

/-- RETIRE is refused while a task of the space is live or a fault of it outstanding (R76). -/
theorem exec_retire_refused :
    let sp := mkSpace (SMap.get 0 s.spgen (c.arg.setWidth 12 : BitVec 12).toNat) (c.arg.setWidth 12)
    (∃ t ∈ s.tasks, t.space = sp) ∨ (∃ f ∈ s.outFaults, f.space = sp) →
      exec .retire s = .next { s with ch := { s.ch with spaceLive := true } }.nextCommand := by
  intro sp h
  dsimp only [exec, execRetire]
  refine State.channel_of_runs hc hs ho ((if_neg (Bool.eq_false_iff.mp hm)).trans (if_pos ?_))
  simpa [sp] using h

/-- RETIRE drops what is cached under the next generation and advances to it (R76). -/
theorem exec_retire_advances :
    let sid : BitVec 12 := c.arg.setWidth 12
    let gen := SMap.get 0 s.spgen sid.toNat
    (∀ t ∈ s.tasks, t.space ≠ mkSpace gen sid) → (∀ f ∈ s.outFaults, f.space ≠ mkSpace gen sid) →
      exec .retire s = .next { s with
        tlb := s.tlb.filter (fun e => !(e.sid = sid && e.gen = gen + 1))
        walkCache := s.walkCache.filter (fun e => !(e.sid = sid && e.gen = gen + 1))
        spgen := SMap.set 0 s.spgen sid.toNat (gen + 1) }.nextCommand := by
  intro sid gen ht hf
  dsimp only [exec, execRetire]
  refine State.channel_of_runs hc hs ho ((if_neg (Bool.eq_false_iff.mp hm)).trans (if_neg ?_))
  simpa using ⟨ht, hf⟩

end

theorem exec_mark (ho : c.opc = 6) : exec .mark s = .next { s with ch := { s.ch with mark := c.data } }.nextCommand := by
  dsimp only [exec, execMark]
  exact State.channel_of_runs hc hs ho rfl

end

/-! ### Walks -/

/-- A walk as it was asked for, whether or not it runs. -/
def Walk.asked (w : Walk) : Walk := { w with running := false }

theorem foldl_append_asked {g : List Walk → Walk → Walk} (hg : ∀ a w, (g a w).asked = w.asked) (ws acc : List Walk) :
    (ws.foldl (fun a w => a ++ [g a w]) acc).map Walk.asked = acc.map Walk.asked ++ ws.map Walk.asked := by
  induction ws generalizing acc with
  | nil => simp
  | cons w ws ih =>
    rw [List.foldl_cons, ih]
    simp [hg]

/-- Starting walks changes which of them run, and nothing else (R112). -/
theorem startWalks_asked (l : List Walk) : (startWalks l).map Walk.asked = l.map Walk.asked := by
  refine (foldl_append_asked (fun a w => ?_) l []).trans (List.nil_append _)
  split <;> rfl

theorem startWalks_length (l : List Walk) : (startWalks l).length = l.length := by
  simpa using congrArg List.length (startWalks_asked l)

theorem exists_mem_startWalks {l : List Walk} {w : Walk} (h : w ∈ l) : ∃ v ∈ startWalks l, v.asked = w.asked := by
  have : w.asked ∈ (startWalks l).map Walk.asked := startWalks_asked l ▸ List.mem_map_of_mem h
  exact List.mem_map.mp this

section
variable {s : State} {ci k : Nat}

theorem exec_tlbMissWalk_waits (h : s.portMiss ci k = none ∨ ∃ w ∈ s.walks, w.req = .ctx ci k) :
    exec (.tlbMissWalk (.ctx ci k)) s = .next s := by
  dsimp only [exec, execTlbMissWalk]
  split
  · rfl
  · next hm =>
    rw [hm] at h
    exact if_pos (by simpa using h)

/-- A miss that no walk serves asks for one (R112). -/
theorem exec_tlbMissWalk_asks {dva acc : Nat} (hm : s.portMiss ci k = some (dva, acc)) (hw : ∀ w ∈ s.walks, w.req ≠ .ctx ci k) :
    exec (.tlbMissWalk (.ctx ci k)) s = .next { s with walks := startWalks (s.walks ++
      [⟨.ctx ci k, rqDie (.ctx ci k), sidOf (s.spaceOf ci), genOf (s.spaceOf ci), dva, acc = 1, false, false⟩]) } := by
  have hnone : ¬ s.walks.any (fun w => w.req = .ctx ci k) = true := by simpa using hw
  dsimp only [exec, execTlbMissWalk]
  rw [hm]
  dsimp only
  rw [if_neg hnone]
  unfold State.askWalk
  dsimp only
  rw [if_neg hnone]

theorem exec_pageWalkComplete_waits (h : ∀ w ∈ s.walks, ¬ (w.req = .ctx ci k ∧ w.running = true)) :
    exec (.pageWalkComplete (.ctx ci k)) s = .next s := by
  dsimp only [exec, execPageWalkComplete]
  exact if_pos (by simpa using h)

section
variable (hw : ∃ w ∈ s.walks, w.req = .ctx ci k ∧ w.running = true)
include hw

theorem exec_pageWalkComplete_served (hm : s.portMiss ci k = none) :
    exec (.pageWalkComplete (.ctx ci k)) s = .next (s.endWalk (.ctx ci k)) := by
  dsimp only [exec, execPageWalkComplete]
  rw [if_neg (by simpa using hw), hm]

theorem exec_pageWalkComplete_walks {dva acc : Nat} (hm : s.portMiss ci k = some (dva, acc)) :
    exec (.pageWalkComplete (.ctx ci k)) s = .next (s.walkAccess ci k dva acc).1 := by
  dsimp only [exec, execPageWalkComplete]
  rw [if_neg (by simpa using hw), hm]

end

/-- An access whose object has no valid entry faults without a walk (R105). -/
theorem State.walkAccess_object {dva acc : Nat} (h : 2 ^ 63 ≤ dva) :
    (s.walkAccess ci k dva acc).1 = (s.endWalk (.ctx ci k)).portFault ci k dva acc := by
  unfold State.walkAccess
  rw [if_pos h]

/-- How a walk that ran leaves the port of its access (R108, R109, R118). -/
def State.afterWalk (u : State) (ci k : Nat) : Walked → State
  | .installed => u.endWalk (.ctx ci k)
  | .faulted a x => (u.endWalk (.ctx ci k)).portFault ci k a x
  | .noSpace x => (u.endWalk (.ctx ci k)).portFault ci k (u.frontFault ci k) x
  | .waiting => u

theorem State.walkAccess_walk {u : State} {w : Walked} {dva acc : Nat} (h : dva < 2 ^ 63)
    (hw : s.walk (.ctx ci k) (s.spaceOf ci) dva (acc = 1) false acc = (u, w)) :
    (s.walkAccess ci k dva acc).1 = u.afterWalk ci k w := by
  unfold State.walkAccess
  rw [if_neg (not_le.mpr h), hw]
  cases w <;> rfl

theorem State.frontFault_of_front {p : PortEntry} {a : Acc} (h : s.front ci k = some (p, a)) :
    s.frontFault ci k = 0x8000000000000000 + a.cap.obj := by
  unfold State.frontFault
  rw [h]
  rfl

end

/-- Settles O9: each command by what it finds, and each walk by how it ends. -/
theorem channelAndWalks : Obligations.ChannelAndWalks := by
  intro s over_
  refine ⟨fun hc i hi => ?idle, fun c hc => ?command, fun id p w hw => ?phase, fun r hr => ?engine, fun ci k => ?walks⟩
  case idle =>
    obtain ⟨opc, body, e⟩ := exec_channelEvent hi s
    exact e.trans (State.channel_of_no_command hc)
  case command =>
    refine ⟨fun hs i hi => ?skip, fun hs ho hm => ?ptwrite, fun hs ho hm => exec_ptwrite_waits hc hs ho hm,
      fun hs ho => exec_inval hc hs ho, fun f hs hf => ?fault, fun hs ho => ?retire, fun hs ho => exec_mark hc hs ho⟩
    case skip =>
      obtain ⟨opc, body, e⟩ := exec_channelEvent hi s
      exact ⟨_, e.trans (State.channel_of_skips hc hs), rfl, rfl, rfl, rfl, rfl⟩
    case ptwrite =>
      refine ⟨_, exec_ptwrite_writes hc hs ho hm, rfl, ?_, fun e he => ?_, fun e he => ?_⟩
      · rw [s.memPut_eq]
        rfl
      · exact of_decide_eq_true (List.mem_filter.mp he).2
      · exact of_decide_eq_true (List.mem_filter.mp he).2
    case fault =>
      refine ⟨fun ci k hr ho => exec_replay_ctx hc hs hf hr ho, fun ci k hr ho => ⟨fun hl => exec_kill_live hc hs hf hr ho hl, fun hl => ?_⟩,
        fun hr => ⟨fun ho => exec_replay_engine hc hs hf hr ho, fun ho => exec_kill_engine hc hs hf hr ho⟩⟩
      refine ⟨_, exec_kill_idle hc hs hf hr ho hl, ?_, fun g hg => ?_, fun u hu => ?_⟩
      · rw [State.nextCommand_ctx, State.ctx_modCtx_same]
      · exact of_decide_eq_true (List.mem_filter.mp hg).2
      · rw [State.nextCommand_task, State.modCtx_task, State.task_modTask_same (by intro; rfl), State.dropFault_task, hu]
        rfl
    case retire =>
      intro sid gen hm
      refine ⟨exec_retire_refused hc hs ho hm, fun ht hf => ⟨_, exec_retire_advances hc hs ho hm ht hf, SMap.get_set_same .., fun e he => ?_, rfl⟩⟩
      simpa [sid, gen, imp_iff_not_or] using (List.mem_filter.mp he).2
  case phase =>
    refine List.mem_map.mpr ⟨w, hw, ?_⟩
    simp
  case engine =>
    cases r with
    | ctx ci k => exact absurd rfl (hr ci k)
    | _ => exact ⟨rfl, rfl⟩
  case walks =>
    refine ⟨exec_tlbMissWalk_waits, fun dva acc hm hw => ?_, exec_pageWalkComplete_waits, fun hw =>
      ⟨exec_pageWalkComplete_served hw, fun dva acc hm hd => ?_, fun dva acc u hm hd => ?_⟩⟩
    · refine ⟨_, exec_tlbMissWalk_asks hm hw, by simp [startWalks_length], ?_, rfl, rfl⟩
      obtain ⟨v, hv, e⟩ := exists_mem_startWalks (List.mem_append_right s.walks (List.mem_singleton_self _))
      exact ⟨v, hv, congrArg Walk.req e, congrArg Walk.dva e, congrArg Walk.sid e, congrArg Walk.gen e⟩
    · rw [exec_pageWalkComplete_walks hw hm, State.walkAccess_object hd]
    · rw [exec_pageWalkComplete_walks hw hm]
      refine ⟨fun e => ?_, fun e => ?_, fun a x e => ?_, fun x p a e hf => ?_⟩
      all_goals rw [State.walkAccess_walk hd e]
      · rfl
      · rfl
      · rfl
      · rw [← State.frontFault_of_front hf]
        rfl

end Sys2Proof.Machine
end

section
/-!
PROOFS. Launch records and their checks (R65, R67, R69): where the fields of a record lie, and which check decides.
-/

namespace Sys2Proof.Machine

/-! ### Little-endian fields -/

theorem bits_eq_div (n lo w : Nat) : bits n lo w = n / 2 ^ lo % 2 ^ w := by
  unfold bits
  rw [Nat.shiftRight_eq_div_pow]

theorem slice_eq_map (l : List Byte) (i n : Nat) : slice l i n = (List.range n).map (fun k => l.getD (i + k) 0) := by
  refine List.ext_getElem (by simp [slice]; omega) fun k hk _ => ?_
  simp only [slice, List.getElem_append, List.length_take, List.length_drop, List.getElem_map, List.getElem_range]
  split
  · next h => simp [List.getElem?_eq_getElem (show i + k < l.length by omega)]
  · next h =>
    have hlen : k < n := by simpa using ‹k < ((List.range n).map _).length›
    simp [List.getElem?_eq_none (show l.length ≤ i + k by omega)]

theorem digits_append (w : Nat) (a b : List Nat) : digits w (a ++ b) = digits w a + 2 ^ (w * a.length) * digits w b := by
  induction a with
  | nil => simp [digits]
  | cons x t ih =>
    rw [List.cons_append, digits, digits, ih, List.length_cons, Nat.mul_succ, pow_add]
    ring

theorem digits_lt (w : Nat) (l : List Nat) : digits w l < 2 ^ (w * l.length) := by
  induction l with
  | nil => simp [digits]
  | cons x t ih =>
    have hx : x % 2 ^ w < 2 ^ w := Nat.mod_lt _ (Nat.two_pow_pos w)
    have ht : 2 ^ w * (digits w t + 1) ≤ 2 ^ w * 2 ^ (w * t.length) := Nat.mul_le_mul_left _ ih
    rw [digits, List.length_cons, Nat.mul_succ, pow_add]
    linarith

/-- A field of adjacent fields: the first below the second (R4). -/
theorem getLe_add (b : List Byte) (i m n : Nat) : getLe b i (m + n) = getLe b i m + 2 ^ (8 * m) * getLe b (i + m) n := by
  have hslice : slice b i (m + n) = slice b i m ++ slice b (i + m) n := by
    simp [slice_eq_map, List.range_add, Nat.add_assoc, Function.comp_def]
  unfold getLe ofBytes
  rw [hslice, List.map_append, digits_append]
  simp [slice_eq_map]

theorem getLe_lt (b : List Byte) (i n : Nat) : getLe b i n < 2 ^ (8 * n) := by
  have h := digits_lt 8 ((slice b i n).map BitVec.toNat)
  simpa [slice_eq_map, getLe, ofBytes] using h

/-! ### Launch records -/

/-- The fields of a record lie where R65 puts them. -/
theorem recordOf_fields (b : List Byte) :
    let r := recordOf b
    let field (lo n at_ w : Nat) : Nat := bits (getLe b lo n) at_ w
    r.task.toNat = field 0 4 0 20 ∧ r.gen.toNat = field 4 2 12 4 ∧ r.sid.toNat = field 4 2 0 12 ∧ r.prio.toNat = field 6 1 0 3 ∧
    r.cpc.toNat = field 7 1 4 2 ∧ r.gang.toNat = field 7 1 0 4 ∧ r.dfu.toNat = field 8 2 0 8 ∧ r.depcnt.toNat = field 10 2 0 16 ∧
    r.entry.toNat = field 12 4 0 32 ∧ r.codeobj.toNat = field 16 4 0 24 ∧ r.argrights.toNat = field 20 4 24 8 ∧
    r.argobj.toNat = field 20 4 0 24 ∧ r.argoff.toNat = field 24 8 0 48 ∧ r.arglen.toNat = field 32 8 0 40 ∧
    r.tilefirst.toNat = field 40 4 0 32 ∧ r.tilecount.toNat = field 44 4 0 32 ∧ r.gran.toNat = field 48 4 0 16 ∧
    (r.succv = true ↔ field 52 4 31 1 = 1) ∧ r.succ.toNat = field 52 4 0 20 := by
  have h8 : getLe b 8 2 = getLe b 8 1 + 2 ^ 8 * getLe b 9 1 := getLe_add b 8 1 1
  have h20 : getLe b 20 4 = getLe b 20 3 + 2 ^ 24 * getLe b 23 1 := getLe_add b 20 3 1
  have h48 : getLe b 48 4 = getLe b 48 2 + 2 ^ 16 * getLe b 50 2 := getLe_add b 48 2 2
  have b20 : getLe b 20 3 < 2 ^ 24 := getLe_lt b 20 3
  have b52 : getLe b 52 4 < 2 ^ 32 := getLe_lt b 52 4
  simp only [recordOf, BitVec.toNat_ofNat, bits_eq_div, Nat.testBit_eq_decide_div_mod_eq, decide_eq_true_eq]
  refine ⟨?_, ?_, ?_, ?_, ?_, ?_, ?_, ?_, ?_, ?_, ?_, ?_, ?_, ?_, ?_, ?_, ?_, ?_, ?_⟩
  all_goals omega

/-- The reserved fields of a record (R65). -/
theorem recordOf_reservedOk_iff (b : List Byte) :
    let field (lo n at_ w : Nat) : Nat := bits (getLe b lo n) at_ w
    (recordOf b).reservedOk = true ↔ field 0 4 20 12 = 0 ∧ field 6 1 3 5 = 0 ∧ field 7 1 6 2 = 0 ∧ field 8 2 8 8 = 0 ∧
      field 16 4 24 8 = 0 ∧ field 24 8 48 16 = 0 ∧ field 32 8 40 24 = 0 ∧ field 48 4 16 16 = 0 ∧ field 52 4 20 11 = 0 ∧
      getLe b 56 8 = 0 := by
  have h8 : getLe b 8 2 = getLe b 8 1 + 2 ^ 8 * getLe b 9 1 := getLe_add b 8 1 1
  have h16 : getLe b 16 4 = getLe b 16 3 + 2 ^ 24 * getLe b 19 1 := getLe_add b 16 3 1
  have h48 : getLe b 48 4 = getLe b 48 2 + 2 ^ 16 * getLe b 50 2 := getLe_add b 48 2 2
  have b0 : getLe b 0 4 < 2 ^ 32 := getLe_lt b 0 4
  have b6 : getLe b 6 1 < 2 ^ 8 := getLe_lt b 6 1
  have b7 : getLe b 7 1 < 2 ^ 8 := getLe_lt b 7 1
  have b8 : getLe b 8 1 < 2 ^ 8 := getLe_lt b 8 1
  have b9 : getLe b 9 1 < 2 ^ 8 := getLe_lt b 9 1
  have b16 : getLe b 16 3 < 2 ^ 24 := getLe_lt b 16 3
  have b19 : getLe b 19 1 < 2 ^ 8 := getLe_lt b 19 1
  have b24 : getLe b 24 8 < 2 ^ 64 := getLe_lt b 24 8
  have b32 : getLe b 32 8 < 2 ^ 64 := getLe_lt b 32 8
  have b48 : getLe b 48 2 < 2 ^ 16 := getLe_lt b 48 2
  have b50 : getLe b 50 2 < 2 ^ 16 := getLe_lt b 50 2
  simp only [recordOf, bits_eq_div, Bool.and_eq_true, decide_eq_true_eq]
  omega

/-- A gang code names a size unless it is reserved (R65, R156). -/
theorem LaunchRec.size_eq_zero_iff (r : LaunchRec) : r.size = 0 ↔ 7 ≤ r.gang.toNat := by
  unfold LaunchRec.size
  generalize r.gang.toNat = g
  match g with
  | 0 | 1 | 2 | 3 | 4 | 5 | 6 => decide
  | n + 7 => simp

section
variable (s : State) (r : LaunchRec) (prioBad spaceBad : Bool)

/-- The checks of R67 in their order. -/
theorem State.checkRecord_eq : s.checkRecord r prioBad spaceBad =
    if r.reservedOk = false ∨ 7 ≤ r.gang.toNat ∨ r.dfu = 0 ∨ r.gran = 0 then 1
    else if prioBad = true then 2
    else if 2048 < (r.cpc.toNat + 1) * r.dfu.toNat * 16 then 3
    else if spaceBad = true ∨ r.gen ≠ SMap.get 0 s.spgen r.sid.toNat ∨ s.objRaw 0 (mkSpace r.gen r.sid) r.codeobj.toNat = none ∨
      s.objRaw 0 (mkSpace r.gen r.sid) r.argobj.toNat = none then 4
    else if s.task r.task.toNat ≠ none then 5 else 0 := by
  unfold State.checkRecord
  refine if_congr ?_ rfl (if_congr Iff.rfl rfl (if_congr Iff.rfl rfl (if_congr ?_ rfl (if_congr ?_ rfl rfl))))
  · simp [LaunchRec.size_eq_zero_iff, or_assoc]
  · simp [LaunchRec.space, or_assoc]
  · exact Option.isSome_iff_ne_none

theorem State.checkRecord_eq_one_iff : s.checkRecord r prioBad spaceBad = 1 ↔
    r.reservedOk = false ∨ 7 ≤ r.gang.toNat ∨ r.dfu = 0 ∨ r.gran = 0 := by
  rw [State.checkRecord_eq]
  by_cases h : r.reservedOk = false ∨ 7 ≤ r.gang.toNat ∨ r.dfu = 0 ∨ r.gran = 0
  · rw [if_pos h]
    exact iff_of_true rfl h
  · rw [if_neg h]
    refine iff_of_false ?_ h
    split_ifs <;> decide

end

/-- The queue of the highest number that holds a record is next (R69). -/
theorem State.nextQueue_highest {s : State} {n : Nat} (h : s.nextQueue = some n) : n < 8 ∧ (s.lqOf n).head ≠ (s.lqOf n).tail ∧
    ∀ m, n < m → m < 8 → (s.lqOf m).cfgErr = true ∨ (s.lqOf m).head = (s.lqOf m).tail := by
  obtain ⟨hn, before, after, hsplit, hnone⟩ := List.find?_eq_some_iff_append.mp h
  have hfalling : (before ++ n :: after).Pairwise (· > ·) := hsplit ▸ by decide
  have hmem : ∀ m, m < 8 → m ∈ before ++ n :: after := hsplit ▸ by decide
  simp only [Bool.and_eq_true, decide_eq_true_eq] at hn
  obtain ⟨-, hheld⟩ := hn
  have hlt : ∀ m ∈ before ++ n :: after, m < 8 := hsplit ▸ by decide
  refine ⟨hlt n (by simp), hheld, fun m hm h8 => ?_⟩
  have hbefore : m ∈ before := by
    rcases List.mem_append.mp (hmem m h8) with hb | hb
    · exact hb
    · rcases List.mem_cons.mp hb with rfl | ha
      · exact absurd hm (lt_irrefl _)
      · have := List.rel_of_pairwise_cons (List.pairwise_append.mp hfalling).2.1 ha
        omega
  simpa [or_iff_not_imp_left] using hnone m hbefore

/-- LAUNCH_RECORD_READ where the table has room and a queue a record (R67, R69, R149). -/
theorem exec_launchRecordRead {s : State} {n : Nat} (hroom : s.tasks.length < 16384) (hn : s.nextQueue = some n) :
    let q := s.lqOf n
    let r := recordOf (s.memRead 0 (q.entry 64 q.head) 64)
    let st := if (s.poisonAt 0 (q.entry 64 q.head) 64).isSome then 1 else s.checkRecord r (decide (r.prio.toNat ≠ n)) false
    let u := { s with lq := SMap.set Ring.init s.lq n { q with head := q.head + 1 } }
    exec .launchRecordRead s = .next (if st = 0 then u.adopt r n else u.pushComp (compBytes r.task.toNat st n s.tick)) := by
  dsimp only [exec, execLaunchRecordRead]
  rw [if_neg (show ¬ maxTasks ≤ s.tasks.length from not_le.mpr hroom), hn]

end Sys2Proof.Machine
end

section
/-!
PROOFS. Entries for the host (R70, R71), the cores a gang leaves (R157) and the table of tasks (R150).
-/

namespace Sys2Proof.Machine

/-! ### Completion entries and fault records -/

theorem State.pushComp_of_room {s : State} (hw : s.compWait = []) (hf : s.cq.full = false) (e : List Byte) : s.pushComp e =
    { (s.memPut 0 (s.cq.entry 16 s.cq.tail) e).raise 1 with cq := { s.cq with tail := s.cq.tail + 1 } } :=
  if_neg (by simp [hw, hf])

theorem State.pushFault_of_room {s : State} (hw : s.faultWait = []) (hf : s.fq.full = false) (e : List Byte) : s.pushFault e =
    { (s.memPut 0 (s.fq.entry 32 s.fq.tail) e).raise 2 with fq := { s.fq with tail := s.fq.tail + 1 } } :=
  if_neg (by simp [hw, hf])

/-- A state with other entries that wait for room (R70, R71). -/
def State.withWaits (s : State) (comp fault : List (List Byte)) : State := { s with compWait := comp, faultWait := fault }

theorem State.rekey_withWaits (s : State) (comp fault : List (List Byte)) (key : BitVec 9) (line : Nat) :
    (s.withWaits comp fault).rekey key line = (s.rekey key line).withWaits comp fault := by
  unfold State.rekey
  rw [apply_ite (State.withWaits · comp fault)]
  rfl

/-- The entries that wait for room are no part of what a write to memory reads. -/
theorem State.memWrite_withWaits (s : State) (comp fault : List (List Byte)) (key : BitVec 9) (pa : Nat) (bs : List Byte) :
    (s.withWaits comp fault).memWrite key pa bs = (s.memWrite key pa bs).withWaits comp fault := by
  have hfold : ∀ ls : List Nat, ls.foldl (fun u l => State.rekey u key l) (s.withWaits comp fault) =
      (ls.foldl (fun u l => State.rekey u key l) s).withWaits comp fault := fun ls =>
    List.foldl_hom (State.withWaits · comp fault) (fun u l => u.rekey_withWaits comp fault key l)
  unfold State.memWrite State.memWriteEn
  dsimp only
  rw [apply_ite (State.withWaits · comp fault), hfold]
  rfl

theorem State.memWrite_withWaits_bytes (s : State) (comp fault : List (List Byte)) (key : BitVec 9) (pa : Nat) (bs : List Byte) :
    ((s.withWaits comp fault).memWrite key pa bs).mem.bytes = (s.memWrite key pa bs).mem.bytes := by
  rw [s.memWrite_withWaits]
  rfl

/-- An interrupt that is raised is pending (R70, R71). -/
theorem State.raise_pending (s : State) (n : Nat) : SMap.get false (s.raise n).irq n = true := by simp

/-- A completion entry that finds room (R70). -/
theorem State.pushComp_fills {s : State} (hw : s.compWait = []) (hf : s.cq.full = false) (e : List Byte) :
    (s.pushComp e).cq.tail = s.cq.tail + 1 ∧ (s.pushComp e).mem.bytes = (s.memWrite 0 (s.cq.entry 16 s.cq.tail) e).mem.bytes ∧
      SMap.get false (s.pushComp e).irq 1 = true := by
  rw [State.pushComp_of_room hw hf]
  exact ⟨rfl, s.memPut_bytes .., State.raise_pending _ 1⟩

/-- A fault record that finds room (R71). -/
theorem State.pushFault_fills {s : State} (hw : s.faultWait = []) (hf : s.fq.full = false) (e : List Byte) :
    (s.pushFault e).fq.tail = s.fq.tail + 1 ∧ (s.pushFault e).mem.bytes = (s.memWrite 0 (s.fq.entry 32 s.fq.tail) e).mem.bytes ∧
      SMap.get false (s.pushFault e).irq 2 = true := by
  rw [State.pushFault_of_room hw hf]
  exact ⟨rfl, s.memPut_bytes .., State.raise_pending _ 2⟩

/-- A completion entry changes memory, the queue, what waits for it and the interrupts alone (R70). -/
theorem State.pushComp_eq (s : State) (e : List Byte) : ∃ mem irq cq wait, s.pushComp e = { s with
    mem := mem
    irq := irq
    cq := cq
    compWait := wait } := by
  unfold State.pushComp
  split
  · exact ⟨_, _, _, _, rfl⟩
  · rw [s.memPut_eq]
    exact ⟨_, _, _, _, rfl⟩

/-- COMPLETION_DRAIN where the queue has room (R70). -/
theorem exec_completionDrain_drains {s : State} {e : List Byte} {t : List (List Byte)} (hw : s.compWait = e :: t)
    (hf : s.cq.full = false) : exec .completionDrain s = .next { ({ s with compWait := [] } : State).pushComp e with compWait := t } := by
  dsimp only [exec, execCompletionDrain]
  rw [hw]
  exact if_neg (by simp [hf])

/-- FAULT_RECORD_DRAIN where the queue has room (R71). -/
theorem exec_faultRecordDrain_drains {s : State} {e : List Byte} {t : List (List Byte)} (hw : s.faultWait = e :: t)
    (hf : s.fq.full = false) : exec .faultRecordDrain s = .next { ({ s with faultWait := [] } : State).pushFault e with faultWait := t } := by
  dsimp only [exec, execFaultRecordDrain]
  rw [hw]
  exact if_neg (by simp [hf])

/-! ### A gang leaves its cores -/

/-- A core that is released is free or held (R157, R158). -/
theorem State.freed_owner (s : State) (c : Nat) : (s.freed c).owner = none := by
  unfold State.freed
  split <;> rfl

theorem State.clearWaits_eq (rq : Nat → Requester) (ls : List Nat) (s : State) :
    ∃ waits walks, ls.foldl (fun s b => s.clearWait (rq b)) s = { s with
      engWaits := waits
      walks := walks } := by
  induction ls generalizing s with
  | nil => exact ⟨_, _, rfl⟩
  | cons b ls ih =>
    obtain ⟨waits, walks, e⟩ := ih (s.clearWait (rq b))
    exact ⟨waits, walks, e⟩

/-- One core is left: its gang is gone, and the walks and the faults of its load blocks' fills with it (R165, R197). -/
theorem State.leave_cons (s : State) (c : Nat) (cs : List Nat) (f : Core → Resv → Core) : ∃ waits walks,
    s.leave (c :: cs) f = ({ s.modCore c (fun k => f k (s.freed c)) with
      engWaits := waits
      walks := walks } : State).leave cs f := by
  obtain ⟨waits, walks, e⟩ := State.clearWaits_eq (fun b => .loadBlock c b) (List.range 16) (s.modCore c (fun k => f k (s.freed c)))
  refine ⟨waits, walks, ?_⟩
  unfold State.leave
  rw [List.foldl_cons]
  exact congrArg (cs.foldl _) e

/-- A gang that leaves changes cores, waits and walks alone. -/
theorem State.leave_eq (cs : List Nat) (f : Core → Resv → Core) (s : State) : ∃ cores waits walks, s.leave cs f = { s with
    cores := cores
    engWaits := waits
    walks := walks } := by
  induction cs generalizing s with
  | nil => exact ⟨_, _, _, rfl⟩
  | cons c cs ih =>
    obtain ⟨waits, walks, e⟩ := s.leave_cons c cs f
    obtain ⟨cores, waits', walks', e'⟩ := ih { s.modCore c (fun k => f k (s.freed c)) with
      engWaits := waits
      walks := walks }
    exact ⟨cores, waits', walks', e.trans e'⟩

/-- Which cores of a gang that completes are left, and that no other changes (R157). -/
theorem State.leave_left_core (cs : List Nat) (s : State) (c : Nat) :
    (s.leave cs Core.left).core c = if c ∈ cs then (s.core c).left (s.freed c) else s.core c := by
  induction cs generalizing s with
  | nil => rfl
  | cons d cs ih =>
    obtain ⟨waits, walks, e⟩ := s.leave_cons d cs Core.left
    rw [e, ih]
    change (if c ∈ cs then ((s.modCore d (fun k => k.left (s.freed d))).core c).left (s.freed c)
      else (s.modCore d (fun k => k.left (s.freed d))).core c) = _
    by_cases hd : c = d
    · subst hd
      rw [State.core_modCore_same]
      simp [Core.left]
    · rw [State.core_modCore_other s _ hd]
      simp [hd]

/-! ### The table of tasks -/

/-- A task whose entry leaves the table takes no other with it. -/
theorem State.task_filter_other (s : State) {n k : Nat} (h : k ≠ n) :
    ({ s with tasks := s.tasks.filter (fun t => t.rcd.task.toNat ≠ n) } : State).task k = s.task k := by
  unfold State.task
  rw [List.find?_filter]
  refine congrArg (fun p => s.tasks.find? p) (funext fun t => ?_)
  by_cases ht : t.rcd.task.toNat = k <;> simp [ht, h]

/-- A task after a decrement of its dependence counter (R150). -/
def Task.decremented (t : Task) (tick : Nat) : Task :=
  if t.dep - 1 = 0 && t.state = .waiting then { t with dep := t.dep - 1, state := .ready, readyAt := tick } else { t with dep := t.dep - 1 }

theorem Task.decremented_task (t : Task) (tick : Nat) : (t.decremented tick).rcd.task = t.rcd.task := by
  unfold Task.decremented
  split <;> rfl

/-- A counter of one that is decremented makes a waiting task ready (R150). -/
theorem Task.decremented_eq (t : Task) (tick : Nat) : t.decremented tick =
    if t.dep = 1 ∧ t.state = .waiting then { t with dep := 0, state := .ready, readyAt := tick } else { t with dep := t.dep - 1 } := by
  have hdep : t.dep - 1 = 0 ↔ t.dep = 1 := by bv_omega
  unfold Task.decremented
  by_cases h : t.dep = 1
  · simp [h]
  · have hmodel : ¬ (t.dep - 1 = 0 && t.state = .waiting) = true := by
      rw [Bool.and_eq_true, decide_eq_true_eq, hdep]
      exact fun hc => h hc.1
    rw [if_neg hmodel, if_neg (fun hc => h hc.1)]

/-- DEPLOST after a decrement that is lost: it stays at its greatest value (R150, R160). -/
def State.deplostNext (s : State) : BitVec 16 := if s.wd.deplost = BitVec.allOnes 16 then s.wd.deplost else s.wd.deplost + 1

section
variable {s : State} {m : Nat} {sp : BitVec 16}

theorem State.decTask_counts {w : Task} (hw : s.task m = some w) (hsp : w.space = sp) (hd : w.dep ≠ 0) :
    s.decTask m sp = s.modTask m (fun t => t.decremented s.tick) := by
  unfold State.decTask
  rw [hw]
  exact if_pos (by simpa [hsp] using hd)

theorem State.decTask_lost (h : ∀ w, s.task m = some w → w.space ≠ sp ∨ w.dep = 0) :
    s.decTask m sp = { s with wd := { s.wd with deplost := s.deplostNext } } := by
  unfold State.decTask
  split
  · next w hw => exact if_neg (by simpa [or_iff_not_imp_left] using h w hw)
  · rfl

theorem State.decTask_other {k : Nat} (h : k ≠ m) : (s.decTask m sp).task k = s.task k := by
  by_cases hw : ∃ w, s.task m = some w ∧ w.space = sp ∧ w.dep ≠ 0
  · obtain ⟨w, hw, hsp, hd⟩ := hw
    rw [State.decTask_counts hw hsp hd]
    exact State.task_modTask_other (fun t => t.decremented_task _) h
  · rw [State.decTask_lost (by simpa [imp_iff_not_or] using hw)]
    rfl

end

end Sys2Proof.Machine
end

section
/-!
PROOFS. The end of a task, TAKE and LAUNCH as the units see them (R70, R71, R149, R150, R152, R155).
-/

namespace Sys2Proof.Machine

/-! ### TASK_COMPLETE -/

/-- The state in which the completion entry of a task is written: its successor has been decremented (R70, R150). -/
def State.counted (s : State) (t : Task) : State := if t.rcd.succv then s.decTask t.rcd.succ.toNat t.space else s

/-- How `u` follows `v` where task `n` leaves the table and its cores with a completion entry (R70, R149, R157). -/
structure State.Completes (v u : State) (n : Nat) (cores : List Nat) (entry : List Byte) : Prop where
  gone : ∀ x ∈ u.tasks, x.rcd.task.toNat ≠ n
  others : ∀ k, k ≠ n → u.task k = v.task k
  wd : u.wd = v.wd
  cq : u.cq = (v.pushComp entry).cq
  mem : u.mem = (v.pushComp entry).mem
  core : ∀ c, ∃ r : Resv, r.owner = none ∧ u.core c = if c ∈ cores then (v.core c).left r else v.core c

/-- Task `n` leaves the table, and its open merge session is dropped (R149). -/
def State.dropTask (s : State) (n : Nat) : State :=
  let drop (m : Merge) : Merge := if m.st ≠ .idle && m.task = n then { Merge.init with queue := m.queue } else m
  { s with
    tasks := s.tasks.filter (fun t => t.rcd.task.toNat ≠ n)
    merges := s.merges.foldl (fun l e => SMap.set Merge.init l e.1 (drop e.2)) s.merges }

theorem State.completes_leave (v : State) (n : Nat) (cores : List Nat) (entry : List Byte) :
    v.Completes (((v.pushComp entry).dropTask n).leave cores Core.left) n cores entry := by
  obtain ⟨cs, waits, walks, eleave⟩ := State.leave_eq cores Core.left ((v.pushComp entry).dropTask n)
  obtain ⟨mem, irq, cq, wait, epush⟩ := v.pushComp_eq entry
  constructor
  case gone =>
    rw [eleave]
    exact fun x hx => of_decide_eq_true (List.mem_filter.mp hx).2
  case others =>
    intro k hk
    rw [eleave, epush]
    exact v.task_filter_other hk
  case wd => rw [eleave, epush]; rfl
  case cq => rw [eleave]; rfl
  case mem => rw [eleave]; rfl
  case core =>
    refine fun c => ⟨_, State.freed_owner ((v.pushComp entry).dropTask n) c, (State.leave_left_core cores _ c).trans ?_⟩
    rw [epush]
    rfl

/-- TASK_COMPLETE of a gang that has nothing more to do (R70, R149, R157). -/
theorem exec_taskComplete_completes {s : State} {n : Nat} {t : Task} (ht : s.task n = some t) (hd : s.gangDone t = true) :
    ∃ u, exec (.taskComplete n) s = .next u ∧
      (s.counted t).Completes u n t.cores (compBytes n (if t.killed then 6 else 0) t.queue (s.counted t).tick) := by
  refine ⟨_, ?_, State.completes_leave ..⟩
  dsimp only [exec, execTaskComplete]
  rw [ht]
  exact if_neg (by simp [hd])

theorem exec_taskComplete_waits {s : State} {n : Nat} {t : Task} (ht : s.task n = some t) (hd : s.gangDone t = false) :
    exec (.taskComplete n) s = .next s := by
  dsimp only [exec, execTaskComplete]
  rw [ht]
  exact if_pos (by simp [hd])

/-! ### TAKE and LAUNCH -/

/-- TAKE_CLAIM by a core of the task (R155). -/
theorem exec_takeClaim_claims {s : State} {ci k : Nat} {j : Job} {t : Task} (hj : s.wdJob ci k (fun k => k = .take) = some j)
    (ht : s.task j.task = some t) (ho : (s.core ci).resv.owner = some j.task) :
    let left := t.rcd.tilefirst.toNat + t.rcd.tilecount.toNat - t.cursor
    let n := min (max 1 (t.rcd.gran.toNat * s.weight ci / 1024)) left
    exec (.takeClaim ci k) s = .next ((s.modTask j.task (fun t => { t with cursor := t.cursor + n })).answer j
      [BitVec.ofNat 64 t.cursor, BitVec.ofNat 64 n]) := by
  dsimp only [exec, execTakeClaim]
  rw [hj]
  dsimp only
  rw [ht]
  exact if_neg (not_not.mpr ho)

/-- Whether a job is a LAUNCH (R434). -/
def isLaunch (k : JobKind) : Bool := match k with
  | .launch _ => true
  | _ => false

/-- DEVICE_LAUNCH of a record that is read whole (R152, R434). -/
theorem exec_deviceLaunch_launches {s : State} {ci k : Nat} {j : Job} {c : Cap} {u v : Eng} {d : Nat} {b : List Byte}
    (hj : s.wdJob ci k isLaunch = some j) (hk : j.kind = .launch c) (hroom : s.tasks.length < 16384) (hw : s.jobWaits j = false)
    (hcap : (s.engine (.fabric ci j.id) j.space j.pts).atCap c c.off 64 false 3 = (u, d)) (hread : u.readOk d 64 3 = (v, b))
    (hstop : v.stop = none) :
    let x := v.s.launchFrom (recordOf b) j.task j.space
    exec (.deviceLaunch ci k) s = .next ((x.1.clearWait (.fabric ci j.id)).answer { j with pts := v.pts } [BitVec.ofNat 64 x.2]) := by
  have hpick : ∀ p : JobKind → Bool, (∀ k, p k = isLaunch k) → s.wdJob ci k p = some j := fun p hp => funext hp ▸ hj
  have hguard : (maxTasks ≤ s.tasks.length || s.jobWaits j) = false := Bool.or_eq_false_iff.mpr ⟨decide_eq_false (not_le.mpr hroom), hw⟩
  dsimp only [exec, execDeviceLaunch]
  rw [hpick _ (fun k => by cases k <;> rfl)]
  dsimp only
  rw [if_neg (ne_true_of_eq_false hguard), hk]
  dsimp only [Option.getD_some]
  rw [hcap]
  dsimp only
  rw [hread]
  dsimp only
  rw [hstop]

/-- Settles O51: the checks of a record, the end of a task, the queues the device fills, and the jobs of the work distributor. -/
theorem tasksLaunchAndComplete : Obligations.TasksLaunchAndComplete := by
  intro s
  refine ⟨fun n hroom hn => exec_launchRecordRead hroom hn, fun n => State.nextQueue_highest, fun r prioBad spaceBad => ?check,
    fun b => ?record, fun n t => exec_taskComplete_waits, fun n t ht hd hsucc hcq hcw => ?alone, fun n t ht hd hsucc => ?successor,
    fun e t hw hf => ?completion, fun e t hw hf => ?fault, fun ci k j t hj ht ho => exec_takeClaim_claims hj ht ho,
    fun ci k j c u d b v hj hk hroom hw hcap hread hstop => ?launch⟩
  case check =>
    refine ⟨s.checkRecord_eq_one_iff r prioBad spaceBad, fun hok hgang hdfu hgran => ?_⟩
    rw [State.checkRecord_eq, if_neg]
    simpa [hok] using ⟨hgang, hdfu, hgran⟩
  case record =>
    obtain ⟨h1, h2, h3, h4, h5, h6, h7, h8, h9, h10, h11, h12, h13, h14, h15, h16, h17, h18, h19⟩ := recordOf_fields b
    exact ⟨h1, h2, h3, h4, h5, h6, h7, h8, h9, h10, h11, h12, h13, h14, h15, h16, h17, h18, h19, recordOf_reservedOk_iff b⟩
  case alone =>
    obtain ⟨u, e, hu⟩ := exec_taskComplete_completes ht hd
    have hs : s.counted t = s := if_neg (by simp [hsucc])
    rw [hs] at hu
    obtain ⟨htail, hmem, -⟩ := State.pushComp_fills hcw hcq (compBytes n (if t.killed then 6 else 0) t.queue s.tick)
    refine ⟨u, e, hu.gone, (congrArg Ring.tail hu.cq).trans htail, (congrArg Memory.bytes hu.mem).trans hmem, fun c hc => ?_, fun c => ?_⟩
    · obtain ⟨r, hr, hcore⟩ := hu.core c
      rw [hcore, if_pos hc]
      exact ⟨by simp [Core.left, hr], rfl, rfl⟩
    · obtain ⟨r, -, hcore⟩ := hu.core c
      rw [hcore]
      split <;> rfl
  case successor =>
    intro m
    obtain ⟨u, e, hu⟩ := exec_taskComplete_completes ht hd
    have hs : s.counted t = s.decTask m t.space := if_pos hsucc
    rw [hs] at hu
    refine ⟨u, e, hu.gone, fun w hm hw hsp hdep => ?_, fun hlost => ?_, fun k hkm hkn => ?_⟩
    · rw [hu.others m hm, State.decTask_counts hw hsp hdep, State.task_modTask_same (fun t => t.decremented_task _), hw]
      exact congrArg some (w.decremented_eq s.tick)
    · rw [hu.wd, State.decTask_lost hlost]
      rfl
    · rw [hu.others k hkn, State.decTask_other hkm]
  case completion =>
    obtain ⟨htail, hmem, hirq⟩ := State.pushComp_fills (s := { s with compWait := [] }) rfl hf e
    refine ⟨_, exec_completionDrain_drains hw hf, rfl, htail, hmem.trans ?_, hirq⟩
    exact s.memWrite_withWaits_bytes [] s.faultWait 0 (s.cq.entry 16 s.cq.tail) e
  case fault =>
    obtain ⟨htail, hmem, hirq⟩ := State.pushFault_fills (s := { s with faultWait := [] }) rfl hf e
    refine ⟨_, exec_faultRecordDrain_drains hw hf, rfl, htail, hmem.trans ?_, hirq⟩
    exact s.memWrite_withWaits_bytes s.compWait [] 0 (s.fq.entry 32 s.fq.tail) e
  case launch =>
    have hpick : (fun k => match k with
      | .launch _ => true
      | _ => false) = isLaunch := funext fun k => by cases k <;> rfl
    exact exec_deviceLaunch_launches (hpick ▸ hj) hk hroom hw hcap hread hstop

end Sys2Proof.Machine
end

section
/-!
PROOFS. Media cards (R84 to R90): when a ring takes one, which check ends it, what its run writes, and its completion.
-/

namespace Sys2Proof.Machine

/-! ### The ring of a card -/

@[simp] theorem State.mring_setMring_same (s : State) (n : Nat) (r : MediaRing) : (s.setMring n r).mring n = r := SMap.get_set_same ..

@[simp] theorem State.cardRan_mem (s : State) (n : Nat) (st det : BitVec 16) (count ts : Nat) :
    (s.cardRan n st det count ts).mem = s.mem := rfl

/-- A card that has run keeps its STATUS, detail and COUNT for its completion (R86). -/
theorem State.cardRan_finished (s : State) (n : Nat) (st det : BitVec 16) (count ts : Nat) :
    ((s.cardRan n st det count ts).mring n).finished = some (st, det, BitVec.ofNat 32 count) :=
  congrArg MediaRing.finished (s.mring_setMring_same n _)

/-- A run that nothing stopped leaves memory as its engine did, and its card has run (R86). -/
theorem Eng.cardEnd_of_no_stop {e : Eng} (h : e.stop = none) (n : Nat) (st det : BitVec 16) (count : Nat) :
    ∃ u : State, e.cardEnd n st det count = .next u ∧ u.mem = e.s.mem ∧
      (u.mring n).finished = some (st, det, BitVec.ofNat 32 count) := by
  refine ⟨e.s.cardRan n st det count e.pts, ?_, e.s.cardRan_mem .., e.s.cardRan_finished ..⟩
  unfold Eng.cardEnd
  rw [h]

/-- A run whose frame did not fit its slot ends FRAME_TOO_BIG without a detail, whatever its stream's status (R86). -/
theorem Eng.cardEnd_big (e : Eng) (n : Nat) (big : Bool) (st det : BitVec 16) (count : Nat) :
    (if big then e.cardEnd n 7 0 count else e.cardEnd n st det count) =
      e.cardEnd n (if big then 7 else st) (if big then 0 else det) count := by
  cases big <;> rfl

section
variable {s : State} {n : Nat}

/-- MEDIA_CARD_POLL of a ring that is read and runs no card (R83, R84). -/
theorem exec_mediaCardPoll (hn : n < 32) (hcfg : (s.mring n).cfgErr = false) (hbusy : (s.mring n).busy = false) :
    let r := s.mring n
    let b := s.memRead 0 r.place 128
    exec (.mediaCardPoll n) s = if (b.getD 0 0).getLsbD 0 then .next (s.setMring n { r with
        busy := true
        card := some b
        finished := if (s.poisonAt 0 r.place 128).isSome then some (10, 0, 0) else none })
      else .next s :=
  if_neg (by simp [hn, hcfg, hbusy])

/-- MEDIA_CARD_COMPLETE of a card that has run (R84, R85). -/
theorem exec_mediaCardComplete {b : List Byte} {st det : BitVec 16} {count : BitVec 32} (hc : (s.mring n).card = some b)
    (hf : (s.mring n).finished = some (st, det, count)) :
    let r := s.mring n
    let u := ((s.memPut 0 (r.place + 16) (bytesOf 2 st.toNat ++ bytesOf 2 det.toNat ++ bytesOf 4 count.toNat ++
      bytesOf 8 s.tick)).memPut 0 r.place [0]).setMring n { r with
        head := r.head + 1
        busy := false
        card := none
        finished := none }
    let f := getLe b 4 4
    let t := getLe b 8 4
    let v := if f.testBit 31 then u.postTo (bits f 0 10) (bits f 10 5) 1 (cardSpace b) r.pts else u
    exec (.mediaCardComplete n) s = .next (if t.testBit 31 then v.decTask (bits t 0 20) (cardSpace b) else v) := by
  dsimp only [exec, execMediaCardComplete]
  rw [hc, hf]

/-! ### Decode cards -/

/-- A card whose header or body breaks its layout (R85 to R87). -/
theorem exec_decodeCard_badCard {b : List Byte} (hc : (s.mring n).card = some b) (hf : (s.mring n).finished = none) (hn : n < 16)
    (h : s.cardOk b 1 = false ∨ decodeBodyOk b = false) : exec (.decodeCard n) s = .next (s.cardRan n 1 0 0) := by
  dsimp only [exec, execDecodeCard]
  rw [hc, hf]
  dsimp only
  rw [if_neg (not_le.mpr hn), if_pos (by simpa using h)]

/-- A decode card that a ring runs, past the checks of its layout and of its references (R85 to R87). -/
structure DecodeChecked (s : State) (n : Nat) (b : List Byte) (bin ref pool : Bref) : Prop where
  card : (s.mring n).card = some b
  runs : (s.mring n).finished = none
  ring : n < 16
  header : s.cardOk b 1 = true
  body : decodeBodyOk b = true
  binRef : brefOf b 32 = some bin
  refRef : brefOf b 48 = some ref
  poolRef : brefOf b 64 = some pool
  binOk : s.brefOk (.media n) (cardSpace b) bin false = true
  refOk : s.brefOk (.media n) (cardSpace b) ref true = true
  poolOk : s.brefOk (.media n) (cardSpace b) pool true = true

/-- The session of a REF is left as a card's decoding leaves it (R87). -/
def Eng.keepSession (e : Eng) (sp : BitVec 16) (ref : Bref) (v : VdeSession) : Eng :=
  { e with s := { e.s with vde := e.s.vde.filter (fun u => !(u.space = sp && u.obj = ref.obj && u.off = ref.off)) ++ [v] } }

@[simp] theorem Eng.keepSession_stop (e : Eng) (sp : BitVec 16) (ref : Bref) (v : VdeSession) :
    (e.keepSession sp ref v).stop = e.stop := rfl

/-- The run of a decode card past its checks (R87): BIN is read, REF and POOL are translated, and then the pictures are
written. -/
def State.decodeRun (s : State) (n : Nat) (b : List Byte) (bin ref pool : Bref) : Out :=
  let sp := cardSpace b
  let w := getLe b 80 4
  let o := s.session n sp ref (w.testBit 4)
  let x := (o.1.engine (.media n) sp 0).brefRead bin 0 bin.len 3
  let rd := x.1.atBref ref 0 3
  let pd := rd.1.atBref pool 0 3
  let e := (pd.1.touch rd.2 ref.len true false 3).touch pd.2 pool.len true false 3
  if e.stop.isSome then e.cardEnd n 0 0 0
  else
    let d := o.2.decode (bits w 0 4) (bits w 16 16) x.2
    let f := e.writeFrames (bits w 0 4) pool (bits w 8 8) (pool.len / bits w 8 8) (getLe b 84 4) o.2.frames d.out
    let g := (f.1.scramble rd.2 ref.len).keepSession sp ref { d.session with frames := o.2.frames + f.2.1 }
    if f.2.2 then g.cardEnd n 7 0 f.2.1 else g.cardEnd n d.status d.detail f.2.1

/-- Past its checks a decode card runs, unless its session area is too small (R87). -/
theorem exec_decodeCard_checked {b : List Byte} {bin ref pool : Bref} (h : DecodeChecked s n b bin ref pool) : exec (.decodeCard n) s =
    if ref.len < 2 ^ 20 + 18 * (pool.len / bits (getLe b 80 4) 8 8) then .next (s.cardRan n 6 0 0)
    else s.decodeRun n b bin ref pool := by
  dsimp only [exec, execDecodeCard]
  rw [h.card, h.runs]
  dsimp only
  rw [if_neg (not_le.mpr h.ring), if_neg (by simp [h.header, h.body]), h.binRef, h.refRef, h.poolRef]
  exact if_neg (by simp [h.binOk, h.refOk, h.poolOk])

/-! ### Resize cards -/

/-- A card whose header or body breaks its layout (R85, R86, R88). -/
theorem exec_resizeCard_badCard {b : List Byte} (hc : (s.mring n).card = some b) (hf : (s.mring n).finished = none) (hlo : 16 ≤ n)
    (hhi : n < 32) (h : s.cardOk b 2 = false ∨ resizeBodyOk b = false) : exec (.resizeCard n) s = .next (s.cardRan n 1 0 0) := by
  dsimp only [exec, execResizeCard]
  rw [hc, hf]
  dsimp only
  rw [if_neg (by simp [hlo, hhi]), if_pos (by simpa using h)]

/-- A resize card that a ring runs, past the checks of its layout and of its references, and the object of its window
(R85, R86, R88). -/
structure ResizeChecked (s : State) (n : Nat) (b : List Byte) (src dst : Bref) (o : ObjEntry) : Prop where
  card : (s.mring n).card = some b
  runs : (s.mring n).finished = none
  lo : 16 ≤ n
  hi : n < 32
  header : s.cardOk b 2 = true
  body : resizeBodyOk b = true
  srcRef : brefOf b 32 = some src
  dstRef : brefOf b 48 = some dst
  srcOk : s.brefOk (.media n) (cardSpace b) src false = true
  dstOk : s.brefOk (.media n) (cardSpace b) dst true = true
  object : s.rqObject (.media n) (cardSpace b) dst.obj = some o

/-- Whether a window may take a resized image: it is typed as R89 says, and the dense image fits it. -/
def ObjEntry.takesImage (o : ObjEntry) (dst : Bref) : Bool :=
  o.tw && resizeTypeOk o.type && (windowBytes o.type (twExts o.type) o.pitch).any (· ≤ dst.len)

/-- The run of a resize card past its checks (R89, R90): the frame is read, the crop checked, and then the image is written. -/
def State.resizeRun (s : State) (n : Nat) (b : List Byte) (src dst : Bref) (o : ObjEntry) : Out :=
  match (s.engine (.media n) (cardSpace b) 0).readFrame src with
  | (e, none) => e.cardEnd n 2 0 0
  | (e, some f) =>
    if e.stop.isSome then e.cardEnd n 0 0 0
    else if !cropOk f ⟨getLe b 64 2, getLe b 66 2, getLe b 68 2, getLe b 70 2⟩ (twExt o.type 1) (twExt o.type 2) then
      .next (e.s.cardRan n 9 0 0)
    else
      let m := resizeImage f b o.type
      let units := typedUnits o.type o.pitch dst.off m.2
      let e := units.foldl (fun e p => e.touch (o.base + p.1) p.2 true false 3) e
      if e.stop.isSome then e.cardEnd n 0 0 0
      else
        ((units.zipIdx).foldl (fun e p => e.write (o.base + p.1.1)
          ((rowBytes (BitVec.ofNat 1024 (bits m.1 (1024 * p.2) 1024))).take p.1.2) 3) e).cardEnd n 0 0
          ((units.map (·.2)).foldl (· + ·) 0)

/-- Past its checks a resize card runs, unless its window may not take the image (R89). -/
theorem exec_resizeCard_checked {b : List Byte} {src dst : Bref} {o : ObjEntry} (h : ResizeChecked s n b src dst o) :
    exec (.resizeCard n) s = if o.takesImage dst then s.resizeRun n b src dst o else .next (s.cardRan n 8 0 0) := by
  dsimp only [exec, execResizeCard]
  rw [h.card, h.runs]
  dsimp only
  rw [if_neg (by simp [h.lo, h.hi]), if_neg (by simp [h.header, h.body]), h.srcRef, h.dstRef]
  dsimp only
  rw [if_neg (by simp [h.srcOk, h.dstOk]), h.object, ← ite_not]
  refine if_congr ?_ rfl rfl
  unfold ObjEntry.takesImage
  cases windowBytes o.type (twExts o.type) o.pitch <;> simp [imp_iff_not_or, or_assoc]

end

end Sys2Proof.Machine
end

section
/-!
PROOFS. Storage reads (R92, R93, R439) and CXL links (R94): a drive's completion and its time-out, the bytes that land, the
doorbells, and what a link that is down loses.
-/

namespace Sys2Proof.Machine

/-! ### What a write to memory reads -/

@[simp] theorem State.rekey_keys (s : State) (key : BitVec 9) (line : Nat) : (s.rekey key line).keys = s.keys := by
  obtain ⟨_, h⟩ := s.rekey_eq key line
  rw [h]

section
variable {s t : State} (hm : s.mem = t.mem) (hk : s.keys = t.keys)
include hm hk

theorem State.rekey_mem_congr (key : BitVec 9) (line : Nat) : (s.rekey key line).mem = (t.rekey key line).mem := by
  unfold State.rekey State.lineUnder
  rw [hm, hk]
  split
  · exact hm
  · rfl

theorem State.rekeys_mem_congr (key : BitVec 9) (ls : List Nat) :
    (ls.foldl (fun u l => State.rekey u key l) s).mem = (ls.foldl (fun u l => State.rekey u key l) t).mem := by
  induction ls generalizing s t with
  | nil => exact hm
  | cons l ls ih => exact ih (State.rekey_mem_congr hm hk key l) (by simp [hk])

/-- What a write makes of memory depends on memory, the keys and the CXL links alone (R94, R121, R123). -/
theorem State.memPut_mem_congr (hx : s.cxlDown = t.cxlDown) (key : BitVec 9) (pa : Nat) (bs : List Byte) :
    (s.memPut key pa bs).mem = (t.memPut key pa bs).mem := by
  have hw : (s.memWrite key pa bs).mem = (t.memWrite key pa bs).mem := by
    unfold State.memWrite State.memWriteEn State.cxlLost
    rw [hk, hx]
    split
    · exact hm
    · dsimp only
      rw [State.rekeys_mem_congr hm hk]
  exact congrArg (fun m => (m.stampAll Memory.storeAt 0 (linesOf pa bs.length)).1) hw

end

@[simp] theorem State.memPut_doorbells (s : State) (key : BitVec 9) (pa : Nat) (bs : List Byte) :
    (s.memPut key pa bs).doorbells = s.doorbells := by
  rw [s.memPut_eq]

@[simp] theorem State.drive_setDrive_same (s : State) (e : Nat) (d : Drive) : (s.setDrive e d).drive e = d := SMap.get_set_same ..

/-! ### A completion of a drive -/

/-- Where a drive's next completion-queue entry lies (R92). -/
def Drive.cqPlace (d : Drive) : Nat := d.cq.toNat + 16 * d.cqHead.toNat

/-- A drive entry once a command of its own has completed (R92). -/
def Drive.completed (d : Drive) (cid : Nat) (sf : BitVec 15) : Drive :=
  { d with
    cmds := d.cmds.filter (fun c => c.cid ≠ cid)
    cqHead := BitVec.ofNat 16 ((d.cqHead.toNat + 1) % d.depth)
    errors := if sf = 0 then d.errors else d.errors + 1 }

theorem State.freeBytes_length (s : State) (n : Nat) : (s.freeBytes n).2.length = n := by
  unfold State.freeBytes
  simp

/-- A completion-queue entry is written (R92): free bytes, then its identifier, a free phase and its status. -/
def State.sgEntry (s : State) (e cid : Nat) (sf : BitVec 15) : State :=
  let q := s.freeBytes 12
  let p := q.1.draw
  p.1.memPut 0 (s.drive e).cqPlace (q.2 ++ bytesOf 4 (cid % 65536 + Config.freeNat p.2 % 2 * 2 ^ 16 + sf.toNat * 2 ^ 17))

theorem State.sgEntry_mem (s : State) (e cid : Nat) (sf : BitVec 15) : ∃ (q : List Byte) (ph : Nat), q.length = 12 ∧
    (s.sgEntry e cid sf).mem =
      (s.memPut 0 (s.drive e).cqPlace (q ++ bytesOf 4 (cid % 65536 + ph % 2 * 2 ^ 16 + sf.toNat * 2 ^ 17))).mem :=
  ⟨(s.freeBytes 12).2, Config.freeNat (s.freeBytes 12).1.draw.2, s.freeBytes_length 12,
    State.memPut_mem_congr (s := (s.freeBytes 12).1.draw.1) (t := s) rfl rfl rfl 0 _ _⟩

/-- A completion is taken (R92): its queue entry is written, the command leaves the drive's entry, and the head doorbell is
rung. -/
def State.sgTaken (s : State) (e cid : Nat) (sf : BitVec 15) : State :=
  ((s.sgEntry e cid sf).setDrive e ((s.drive e).completed cid sf)).ringBell (s.drive e) (s.drive e).headBell
    (((s.drive e).cqHead.toNat + 1) % (s.drive e).depth)

theorem State.sgTaken_drive (s : State) (e cid : Nat) (sf : BitVec 15) :
    (s.sgTaken e cid sf).drive e = (s.drive e).completed cid sf := State.drive_setDrive_same ..

theorem State.sgTaken_cores (s : State) (e cid : Nat) (sf : BitVec 15) : (s.sgTaken e cid sf).cores = s.cores :=
  State.memPut_cores ..

theorem State.sgTaken_doorbells (s : State) (e cid : Nat) (sf : BitVec 15) : (s.sgTaken e cid sf).doorbells =
    s.doorbells ++ [⟨(s.drive e).port, (s.drive e).headBell, BitVec.ofNat 32 (((s.drive e).cqHead.toNat + 1) % (s.drive e).depth)⟩] :=
  congrArg (· ++ _) (State.memPut_doorbells ..)

/-- NVME_COMPLETION that names no command (R92). -/
theorem exec_nvmeCompletion_unknown {s : State} {e cid : Nat} (he : e < 64)
    (hc : (s.drive e).cmds.find? (fun c => c.cid = cid) = none) (sf : BitVec 15) (data : List Byte) :
    exec (.nvmeCompletion e cid sf data) s = .next (s.setDrive e { s.drive e with ctrlerr := true }) := by
  dsimp only [exec, execNvmeCompletion]
  rw [if_neg (not_le.mpr he), hc]

/-- A command of a storage read is over (R93, R439): its completion is taken, the read takes the error that the completion
brings, and goes on. -/
def State.sgOver (s : State) (e : Nat) (c : SgCmd) (sf : BitVec 15) (st : BitVec 8) : State :=
  let u := s.sgTaken e c.cid sf
  (u.modSg c.core c.job (fun j =>
    if (u.poisonAt 0 (s.drive e).cqPlace 16).isSome then j.failSg 5 0 else if sf ≠ 0 then j.failSg 3 sf
    else if st = 0 then j else j.failSg st 0)).sgAfter e c.core c.job

/-- What the completion of a drive's command brings about (R92, R93, R439): an error, or the command's data, which land where
its read still stands. -/
def State.sgCompletes (s : State) (e : Nat) (c : SgCmd) (sf : BitVec 15) (data : List Byte) : Out :=
  if sf ≠ 0 then .next (s.sgOver e c sf 0)
  else if data.length ≠ c.blocks * (s.drive e).block then .next s
  else match s.sgJob c.core c.job with
    | none => .next (s.sgTaken e c.cid sf)
    | some j =>
      match s.sgLand j c.off data with
      | (v, none) => .next v
      | (v, some st) => .next (v.sgOver e c sf st)

/-- NVME_COMPLETION of an outstanding command (R92). -/
theorem exec_nvmeCompletion_command {s : State} {e : Nat} {c : SgCmd} (he : e < 64)
    (hc : (s.drive e).cmds.find? (fun x => x.cid = c.cid) = some c) (sf : BitVec 15) (data : List Byte) :
    exec (.nvmeCompletion e c.cid sf data) s = s.sgCompletes e c sf data := by
  dsimp only [exec, execNvmeCompletion]
  rw [if_neg (not_le.mpr he), hc]
  rfl

section
variable {s : State} {e : Nat} {c : SgCmd} {sf : BitVec 15} {data : List Byte}

/-- A completion with an error (R93, R439). -/
theorem State.sgCompletes_error (hs : sf ≠ 0) : let u := s.sgTaken e c.cid sf
    s.sgCompletes e c sf data = .next ((u.modSg c.core c.job (fun j =>
      if (u.poisonAt 0 (s.drive e).cqPlace 16).isSome then j.failSg 5 0 else j.failSg 3 sf)).sgAfter e c.core c.job) := by
  simp only [State.sgCompletes, State.sgOver, if_pos hs]

variable (hs : sf = 0)
include hs

/-- Data that are not as long as its command's blocks complete no command (R93). -/
theorem State.sgCompletes_length (hd : data.length ≠ c.blocks * (s.drive e).block) : s.sgCompletes e c sf data = .next s :=
  (if_neg (not_not.mpr hs)).trans (if_pos hd)

variable (hd : data.length = c.blocks * (s.drive e).block)
include hd

/-- A completion for a read that stands no more. -/
theorem State.sgCompletes_gone (hj : s.sgJob c.core c.job = none) : s.sgCompletes e c sf data = .next (s.sgTaken e c.cid sf) := by
  unfold State.sgCompletes
  rw [if_neg (not_not.mpr hs), if_neg (not_not.mpr hd), hj]

variable {j : Job} {v : State} (hj : s.sgJob c.core c.job = some j)
include hj

/-- A completion whose bytes wait for a translation (R86). -/
theorem State.sgCompletes_waits (hl : s.sgLand j c.off data = (v, none)) : s.sgCompletes e c sf data = .next v := by
  unfold State.sgCompletes
  rw [if_neg (not_not.mpr hs), if_neg (not_not.mpr hd), hj]
  dsimp only
  rw [hl]

/-- A completion whose bytes have landed, or could not (R93, R439). -/
theorem State.sgCompletes_lands {st : BitVec 8} (hl : s.sgLand j c.off data = (v, some st)) : let u := v.sgTaken e c.cid sf
    s.sgCompletes e c sf data = .next ((u.modSg c.core c.job (fun i =>
      if (u.poisonAt 0 (v.drive e).cqPlace 16).isSome then i.failSg 5 0 else if st = 0 then i else i.failSg st 0)).sgAfter
        e c.core c.job) := by
  unfold State.sgCompletes
  rw [if_neg (not_not.mpr hs), if_neg (not_not.mpr hd), hj]
  dsimp only
  rw [hl]
  simp only [State.sgOver, if_neg (not_not.mpr hs)]

end

/-! ### The bytes of a completion -/

@[simp] theorem State.modSg_mem (s : State) (core id : Nat) (f : Job → Job) : (s.modSg core id f).mem = s.mem := rfl

theorem State.core_modSg_same (s : State) (core id : Nat) (f : Job → Job) : (s.modSg core id f).core core =
    { s.core core with sgrds := (s.core core).sgrds.map (fun (j : Job) => if j.id = id then f j else j) } :=
  State.core_modCore_same ..

/-- A storage read's engine at the place of bytes in its window, every page translated (R93). -/
def State.sgMapped (s : State) (j : Job) (c : Cap) (off n : Nat) : Eng × Nat :=
  let a := (s.engine (.fabric j.core j.id) j.space j.pts).atCap c (c.off + off) n true 3
  (a.1.touch a.2 n true false 3, a.2)

/-- How bytes that an engine landed leave a storage read (R93, R439): they wait, they fault, or they are in its window. -/
def Eng.sgLanded (e : Eng) (j : Job) : State × Option (BitVec 8) :=
  match e.stop with
  | some .wait => (e.s, none)
  | some _ => (e.s.clearWait (.fabric j.core j.id), some 6)
  | none => (e.s.modSg j.core j.id (fun i => { i with pts := e.pts }), some 0)

/-- The bytes of a completion land up to the window's end (R93). -/
theorem State.sgLand_eq {j : Job} {c : Cap} {lba : Word} {d n len : Nat} (hk : j.kind = .sgrd c lba d n len) (s : State) (off : Nat)
    (data : List Byte) : let b := data.take (len - off)
    let m := s.sgMapped j c off b.length
    s.sgLand j off data = (if m.1.stop.isSome then m.1 else m.1.write m.2 b 3).sgLanded j := by
  unfold State.sgLand
  rw [hk]
  rfl

theorem Eng.sgLanded_none {e : Eng} (h : e.stop = none) (j : Job) :
    e.sgLanded j = (e.s.modSg j.core j.id (fun i => { i with pts := e.pts }), some 0) := by
  unfold Eng.sgLanded
  rw [h]

theorem Eng.sgLanded_wait {e : Eng} (h : e.stop = some .wait) (j : Job) : e.sgLanded j = (e.s, none) := by
  unfold Eng.sgLanded
  rw [h]

theorem Eng.sgLanded_stop {e : Eng} (h : e.stop ≠ none) (hw : e.stop ≠ some .wait) (j : Job) :
    e.sgLanded j = (e.s.clearWait (.fabric j.core j.id), some 6) := by
  unfold Eng.sgLanded
  split
  · exact absurd ‹_› hw
  · rfl
  · exact absurd ‹_› h

/-! ### Commands that time out, and doorbells -/

/-- NVME_COMMAND_TIMEOUT of a command 30 s old (R92, R93). -/
theorem exec_nvmeCommandTimeout {s : State} {e : Nat} {c : SgCmd} (hc : (s.drive e).cmds.find? (fun x => x.cid = c.cid) = some c)
    (ht : c.tick + 30000000000 ≤ s.tick) : exec (.nvmeCommandTimeout e c.cid) s =
      .next (((s.setDrive e { s.drive e with
        timeout := true
        cmds := (s.drive e).cmds.filter (fun x => x.cid ≠ c.cid) }).modSg c.core c.job (fun j => j.failSg 4 0)).sgAfter
          e c.core c.job) := by
  dsimp only [exec, execNvmeCommandTimeout]
  rw [hc]
  exact if_neg (by simpa [secondTicks] using ht)

/-- A command rings its queue's tail doorbell (R92). -/
theorem State.sgCommand_doorbells (s : State) (e n : Nat) (j : Job) : (s.sgCommand e j n).doorbells =
    s.doorbells ++ [⟨(s.drive e).port, (s.drive e).db, BitVec.ofNat 32 (((s.drive e).sqTail.toNat + 1) % (s.drive e).depth)⟩] :=
  congrArg (· ++ _) (State.memPut_doorbells ..)

/-! ### CXL links -/

/-- CXL_LINK_DOWN and CXL_LINK_UP (R94). -/
theorem exec_cxlLinks {p : Nat} (h : p < 4) (s : State) :
    exec (.cxlLinkDown p) s = .next { s with cxlDown := SMap.set false s.cxlDown p true } ∧
      exec (.cxlLinkUp p) s = .next { s with cxlDown := SMap.set false s.cxlDown p false } :=
  ⟨if_neg (not_le.mpr h), if_neg (not_le.mpr h)⟩

section
variable {s : State} {pa : Nat} (h : s.cxlLost pa = true)
include h

/-- Behind a CXL link that is down every read is poisoned (R94). -/
theorem State.poisonAt_of_cxlLost (key : BitVec 9) {n : Nat} (hn : n ≠ 0) : (s.poisonAt key pa n).isSome := by
  unfold State.poisonAt
  rw [if_neg hn, if_pos (by simp [h])]
  rfl

/-- Behind a CXL link that is down a write is dropped (R94). -/
theorem State.memWriteEn_of_cxlLost (key : BitVec 9) (bs : List Byte) (en : Nat → Bool) (tag : Bool) :
    s.memWriteEn key pa bs en tag = s :=
  if_pos (by simp [h])

end

/-- Settles O11: a card by the checks it passes, a completion by what it brings, and a link by whether it is up. -/
theorem mediaStorageAndCxl : Obligations.MediaStorageAndCxl := by
  intro s n r
  refine ⟨fun hn hcfg hbusy => ?poll, fun b => exec_decodeCard_badCard, ?small, ?decode, fun b => exec_resizeCard_badCard, ?untyped,
    ?resize, fun b st det count => exec_mediaCardComplete, fun e cid sf data he hc => exec_nvmeCompletion_unknown he hc sf data,
    ?completion, ?land, fun e c => exec_nvmeCommandTimeout, s.sgCommand_doorbells, fun p hp => exec_cxlLinks hp s,
    fun pa m key hx hm => ?lost⟩
  case poll => exact ⟨fun h => (exec_mediaCardPoll hn hcfg hbusy).trans (if_pos h),
    fun h => (exec_mediaCardPoll hn hcfg hbusy).trans (if_neg (Bool.eq_false_iff.mp h))⟩
  case small =>
    intro b bin ref pool hc hf hn hh hb hbin href hpool sp hbinOk hrefOk hpoolOk hlen
    exact (exec_decodeCard_checked ⟨hc, hf, hn, hh, hb, hbin, href, hpool, hbinOk, hrefOk, hpoolOk⟩).trans (if_pos hlen)
  case decode =>
    intro b bin ref pool hc hf hn hh hb hbin href hpool sp w slot hbinOk hrefOk hpoolOk hlen o r1 rd pd e d f g he hg
    rw [exec_decodeCard_checked ⟨hc, hf, hn, hh, hb, hbin, href, hpool, hbinOk, hrefOk, hpoolOk⟩, if_neg (not_lt.mpr hlen)]
    unfold State.decodeRun
    dsimp only
    rw [if_neg (by simpa using he), Eng.cardEnd_big]
    exact Eng.cardEnd_of_no_stop ((Eng.keepSession_stop ..).trans hg) ..
  case untyped =>
    intro b src dst o hc hf hlo hhi hh hb hsrc hdst hsrcOk hdstOk ho htw
    exact (exec_resizeCard_checked ⟨hc, hf, hlo, hhi, hh, hb, hsrc, hdst, hsrcOk, hdstOk, ho⟩).trans
      (if_neg (by simp [ObjEntry.takesImage, htw]))
  case resize =>
    intro b src dst o k f hc hf hlo hhi hh hb hsrc hdst sp hsrcOk hdstOk ho htw htype hk hfit g hg hgs hcrop m units e w he hw
    rw [exec_resizeCard_checked ⟨hc, hf, hlo, hhi, hh, hb, hsrc, hdst, hsrcOk, hdstOk, ho⟩,
      if_pos (by simp [ObjEntry.takesImage, htw, htype, hk, hfit])]
    have hread : (s.engine (.media n) (cardSpace b) 0).readFrame src = (g.1, some f) := Prod.ext rfl hg
    unfold State.resizeRun
    rw [hread]
    dsimp only
    rw [if_neg (by simp [hgs]), if_neg (by simp [hcrop]), if_neg (by simpa using he)]
    exact Eng.cardEnd_of_no_stop hw ..
  case completion =>
    intro e c sf data he hc place taken
    have htaken : ∀ v : State, taken v (v.sgTaken e c.cid sf) := fun v =>
      ⟨v.sgEntry_mem e c.cid sf, congrArg Drive.errors (v.sgTaken_drive e c.cid sf), congrArg Drive.cmds (v.sgTaken_drive e c.cid sf),
        v.sgTaken_cores e c.cid sf, v.sgTaken_doorbells e c.cid sf⟩
    rw [exec_nvmeCompletion_command he hc]
    exact ⟨fun hs => ⟨_, htaken s, State.sgCompletes_error hs⟩, fun hs hd => State.sgCompletes_length hs hd,
      fun hs hd hj => ⟨_, htaken s, State.sgCompletes_gone hs hd hj⟩, fun j v hs hd hj =>
        ⟨State.sgCompletes_waits hs hd hj, fun st hl => ⟨_, htaken v, State.sgCompletes_lands hs hd hj hl⟩⟩⟩
  case land =>
    intro j off data c lba d n len hk b a e w
    have hland : s.sgLand j off data = (if e.stop.isSome then e else w).sgLanded j := State.sgLand_eq hk s off data
    refine ⟨fun he hw => ?lands, fun he => ?waits, fun he hwait => ?stops⟩
    case lands =>
      rw [hland, if_neg (by simp [he]), Eng.sgLanded_none hw]
      exact ⟨rfl, w.s.modSg_mem .., w.s.core_modSg_same ..⟩
    case waits => rw [hland, if_pos (by simp [he]), Eng.sgLanded_wait he]
    case stops => rw [hland, if_pos (Option.isSome_iff_ne_none.mpr he), Eng.sgLanded_stop he hwait]
  case lost => exact ⟨s.poisonAt_of_cxlLost hx key hm, s.memWriteEn_of_cxlLost hx key⟩

end Sys2Proof.Machine
end

section
/-!
PROOFS. What a write under a key index leaves in memory (R94, R99, R121, R123), and how a unit of an access performs (R273,
R406, R412, R418).
-/

namespace Sys2Proof

/-- A list of writes that gives each key one value alone: the keys it names read that value, and no other key changes. -/
theorem SMap.get_setAll_map {V : Type} [DecidableEq V] (d : V) (f : Nat → V) (j : Nat) (ks : List Nat) (l : SMap V) :
    SMap.get d (SMap.setAll d l (ks.map (fun k => (k, f k)))) j = if j ∈ ks then f j else SMap.get d l j := by
  induction ks generalizing l with
  | nil => rfl
  | cons k ks ih =>
    rw [List.map_cons, SMap.setAll, ih, SMap.get_set]
    by_cases hj : j = k
    · subst hj
      simp
    · simp [hj]

end Sys2Proof

namespace Sys2Proof.Machine

theorem mem_runsOf {l : List Nat} {x : Nat} : x ∈ runsOf l ↔ x ∈ l := by
  suffices h : ∀ acc : List Nat, x ∈ l.foldl (fun acc y => if acc.contains y then acc else acc ++ [y]) acc ↔ x ∈ acc ∨ x ∈ l by
    unfold runsOf
    rw [h]
    simp
  induction l with
  | nil => simp
  | cons y l ih =>
    intro acc
    rw [List.foldl_cons, ih, List.mem_cons]
    split
    next h =>
      have hy : x = y → x ∈ acc := fun e => e ▸ List.contains_iff_mem.mp h
      tauto
    next => rw [List.mem_append, List.mem_singleton, or_assoc]

theorem mem_written {pa : Nat} {bs : List Byte} {en : Nat → Bool} {i : Nat} (hi : i < bs.length) (he : en i = true) :
    pa + i ∈ written pa bs en :=
  List.mem_map_of_mem (List.mem_filter.mpr ⟨List.mem_range.mpr hi, he⟩)

/-! ### A byte as a key index sees it -/

theorem Memory.plain_of_key {m : Memory} {key : BitVec 9} {line : Nat} (h : m.key line = some key) : m.plain key line = true := by
  simp [Memory.plain, h]

/-- A line that is held under a key index reads under it as it stands (R121). -/
theorem State.byteUnder_of_key {s : State} {key : BitVec 9} {a : Nat} (h : s.mem.key (a / 64) = some key) :
    s.byteUnder key a = s.mem.byte a := if_pos (Memory.plain_of_key h)

/-- A line's bytes under a key index are its 64 bytes, each as seen under it (R121). -/
theorem State.lineUnder_getD (s : State) (key : BitVec 9) (a : Nat) :
    (s.lineUnder key (a / 64)).getD (a % 64) 0 = s.byteUnder key a := by
  unfold State.byteUnder
  split
  next h =>
    have ha : a / 64 * 64 + a % 64 = a := by omega
    have hlt : a % 64 < 64 := Nat.mod_lt _ (by omega)
    simp [State.lineUnder, h, Memory.line, hlt, ha]
  next => rfl

/-- What a byte reads as depends on the keys and on the key index and the bytes of its line alone (R121). -/
theorem State.byteUnder_congr {s t : State} {a : Nat} (hkeys : t.keys = s.keys) (hkey : t.mem.key (a / 64) = s.mem.key (a / 64))
    (hbyte : ∀ b, b / 64 = a / 64 → t.mem.byte b = s.mem.byte b) (k : BitVec 9) : t.byteUnder k a = s.byteUnder k a := by
  have hline : t.mem.line (a / 64) = s.mem.line (a / 64) :=
    List.map_congr_left fun i hi => hbyte _ (by have := List.mem_range.mp hi; omega)
  unfold State.byteUnder State.lineUnder Memory.plain
  rw [hkeys, hkey, hline, hbyte a rfl]

/-! ### Lines brought under a key index -/

section
variable (s : State) (key : BitVec 9)

/-- A line that comes under a key index keeps its bytes as they read under it (R121). -/
theorem State.rekey_byte (line a : Nat) :
    (s.rekey key line).mem.byte a = if a / 64 = line then s.byteUnder key a else s.mem.byte a := by
  unfold State.rekey
  split
  next h =>
    split
    next ha => exact (State.byteUnder_of_key (ha ▸ h)).symm
    next => rfl
  next =>
    have hws : (List.range 64).map (fun i => (line * 64 + i, (s.lineUnder key line).getD i 0)) =
        ((List.range 64).map (line * 64 + ·)).map (fun b => (b, (s.lineUnder key line).getD (b - line * 64) 0)) := by
      simp
    have hmem : a ∈ (List.range 64).map (line * 64 + ·) ↔ a / 64 = line := by
      rw [List.mem_map]
      exact ⟨fun ⟨i, hi, e⟩ => by have := List.mem_range.mp hi; omega,
        fun e => ⟨a % 64, List.mem_range.mpr (Nat.mod_lt _ (by omega)), by omega⟩⟩
    change SMap.get freshByte (SMap.setAll freshByte s.mem.bytes _) a = _
    rw [hws, SMap.get_setAll_map]
    simp only [hmem]
    split
    next ha =>
      subst ha
      rw [show a - a / 64 * 64 = a % 64 by omega, s.lineUnder_getD]
    next => rfl

theorem State.rekey_key (line l : Nat) : (s.rekey key line).mem.key l = if l = line then some key else s.mem.key l := by
  unfold State.rekey
  split
  next h =>
    split
    next hl => exact hl ▸ h
    next => rfl
  next => exact SMap.get_set none s.mem.lineKey line (some key) l

/-- No byte reads otherwise under the key index that its line comes under (R121). -/
theorem State.rekey_byteUnder (line a : Nat) : (s.rekey key line).byteUnder key a = s.byteUnder key a := by
  by_cases ha : a / 64 = line
  · rw [State.byteUnder_of_key (by rw [s.rekey_key, if_pos ha]), s.rekey_byte, if_pos ha]
  · refine State.byteUnder_congr (s.rekey_keys key line) (by rw [s.rekey_key, if_neg ha]) (fun b hb => ?_) key
    rw [s.rekey_byte, if_neg (hb ▸ ha)]

/-- Nothing of another line changes. -/
theorem State.rekey_byteUnder_other {line a : Nat} (ha : a / 64 ≠ line) (k : BitVec 9) :
    (s.rekey key line).byteUnder k a = s.byteUnder k a :=
  State.byteUnder_congr (s.rekey_keys key line) (by rw [s.rekey_key, if_neg ha])
    (fun b hb => by rw [s.rekey_byte, if_neg (hb ▸ ha)]) k

/-- Lines brought under a key index, one after the other (R121). -/
def State.rekeys (ls : List Nat) : State := ls.foldl (fun u l => State.rekey u key l) s

theorem State.rekeys_eq (ls : List Nat) :
    ∃ b k, s.rekeys key ls = { s with mem := { s.mem with bytes := b, lineKey := k } } := by
  induction ls generalizing s with
  | nil => exact ⟨_, _, rfl⟩
  | cons l ls ih =>
    have hl : ∃ b k, s.rekey key l = { s with mem := { s.mem with bytes := b, lineKey := k } } := by
      unfold State.rekey
      split <;> exact ⟨_, _, rfl⟩
    obtain ⟨b, k, h⟩ := hl
    obtain ⟨b', k', h'⟩ := ih (s.rekey key l)
    exact ⟨b', k', h'.trans (by rw [h])⟩

theorem State.rekeys_keys (ls : List Nat) : (s.rekeys key ls).keys = s.keys := by
  obtain ⟨_, _, h⟩ := s.rekeys_eq key ls
  rw [h]

theorem State.rekeys_tagAt (ls : List Nat) (a : Nat) : (s.rekeys key ls).tagAt a = s.tagAt a := by
  obtain ⟨_, _, h⟩ := s.rekeys_eq key ls
  rw [h]
  rfl

theorem State.rekeys_byteUnder (ls : List Nat) (a : Nat) : (s.rekeys key ls).byteUnder key a = s.byteUnder key a := by
  induction ls generalizing s with
  | nil => rfl
  | cons l ls ih => exact (ih _).trans (s.rekey_byteUnder key l a)

theorem State.rekeys_byteUnder_other {ls : List Nat} {a : Nat} (ha : a / 64 ∉ ls) (k : BitVec 9) :
    (s.rekeys key ls).byteUnder k a = s.byteUnder k a := by
  induction ls generalizing s with
  | nil => rfl
  | cons l ls ih =>
    rw [List.mem_cons, not_or] at ha
    exact (ih _ ha.2).trans (s.rekey_byteUnder_other key ha.1 k)

theorem State.rekeys_key {ls : List Nat} {l : Nat} (h : l ∈ ls ∨ s.mem.key l = some key) : (s.rekeys key ls).mem.key l = some key := by
  induction ls generalizing s with
  | nil => exact h.resolve_left List.not_mem_nil
  | cons i ls ih =>
    refine ih _ ?_
    rw [s.rekey_key]
    rcases h with h | h
    · rw [List.mem_cons] at h
      exact h.symm.imp id (if_pos ·)
    · exact .inr (by simp [h])

end

/-! ### A write under a key index -/

section
variable {s : State} {key : BitVec 9} {pa : Nat} (bs : List Byte) (en : Nat → Bool) (tag : Bool)

/-- The state that a write finds once the lines that it touches stand under its key index (R121). -/
def State.broughtFor (s : State) (key : BitVec 9) (pa : Nat) (bs : List Byte) (en : Nat → Bool) : State :=
  s.rekeys key (runsOf ((written pa bs en).map (· / 64)))

theorem State.memWriteEn_dropped (h : s.keys.empty key = true ∨ s.cxlLost pa = true) : s.memWriteEn key pa bs en tag = s :=
  if_pos (by simpa using h)

/-- A write changes bytes, tags, poison and line keys of memory, and nothing else. -/
theorem State.memWriteEn_data (s : State) (key : BitVec 9) (pa : Nat) : ∃ b g p k, s.memWriteEn key pa bs en tag =
    { s with mem := { s.mem with bytes := b, tags := g, poison := p, lineKey := k } } := by
  obtain ⟨b, k, h⟩ := s.rekeys_eq key (runsOf ((written pa bs en).map (· / 64)))
  unfold State.rekeys at h
  unfold State.memWriteEn
  split
  · exact ⟨_, _, _, _, rfl⟩
  · dsimp only
    rw [h]
    exact ⟨_, _, _, _, rfl⟩

@[simp] theorem State.memWriteEn_keys (s : State) (key : BitVec 9) (pa : Nat) : (s.memWriteEn key pa bs en tag).keys = s.keys := by
  obtain ⟨_, _, _, _, h⟩ := s.memWriteEn_data bs en tag key pa
  rw [h]

@[simp] theorem State.memWriteEn_ctx (s : State) (key : BitVec 9) (pa ci k : Nat) :
    (s.memWriteEn key pa bs en tag).ctx ci k = s.ctx ci k := by
  obtain ⟨_, _, _, _, h⟩ := s.memWriteEn_data bs en tag key pa
  rw [h]
  rfl

@[simp] theorem State.memWriteEn_stamp (s : State) (key : BitVec 9) (pa l : Nat) :
    (s.memWriteEn key pa bs en tag).mem.stamp l = s.mem.stamp l := by
  obtain ⟨_, _, _, _, h⟩ := s.memWriteEn_data bs en tag key pa
  rw [h]
  rfl

variable (hk : s.keys.empty key = false) (hx : s.cxlLost pa = false)
include hk hx

/-- A write that is not dropped stores over the lines that it has brought under its key index (R22, R99, R121). -/
theorem State.memWriteEn_stores : s.memWriteEn key pa bs en tag = { s.broughtFor key pa bs en with
    mem := { (s.broughtFor key pa bs en).mem with
      bytes := SMap.setAll freshByte (s.broughtFor key pa bs en).mem.bytes ((written pa bs en).map (fun a => (a, bs.getD (a - pa) 0)))
      tags := SMap.setAll false (s.broughtFor key pa bs en).mem.tags ((runsOf ((written pa bs en).map (· / 16))).map (fun g => (g, tag)))
      poison := SMap.setAll false (s.broughtFor key pa bs en).mem.poison (((runsOf ((written pa bs en).map (· / 8))).filter
        (fun w => (List.range 8).all (fun i => (written pa bs en).contains (w * 8 + i)))).map (fun w => (w, false))) } } :=
  if_neg (by simp [hk, hx])

theorem State.memWriteEn_stored_byte (a : Nat) : (s.memWriteEn key pa bs en tag).mem.byte a =
    if a ∈ written pa bs en then bs.getD (a - pa) 0 else (s.broughtFor key pa bs en).mem.byte a := by
  rw [State.memWriteEn_stores bs en tag hk hx]
  exact SMap.get_setAll_map ..

theorem State.memWriteEn_key (l : Nat) :
    (s.memWriteEn key pa bs en tag).mem.key l = (s.broughtFor key pa bs en).mem.key l := by
  rw [State.memWriteEn_stores bs en tag hk hx]
  rfl

/-- The granules that a write touches take its tag (R99). -/
theorem State.memWriteEn_tagAt (a : Nat) : (s.memWriteEn key pa bs en tag).tagAt a =
    if (written pa bs en).any (fun x => x / 16 = a / 16) then tag else s.tagAt a := by
  rw [State.memWriteEn_stores bs en tag hk hx]
  refine (SMap.get_setAll_map ..).trans (if_congr ?_ rfl (s.rekeys_tagAt ..))
  simp [mem_runsOf]

/-- The touched lines stand under the key index of the write. -/
theorem State.memWriteEn_key_touched {a : Nat} (ha : a / 64 ∈ (written pa bs en).map (· / 64)) :
    (s.memWriteEn key pa bs en tag).mem.key (a / 64) = some key :=
  (State.memWriteEn_key bs en tag hk hx _).trans (s.rekeys_key key (.inl (mem_runsOf.mpr ha)))

theorem State.memWriteEn_byteUnder_written {i : Nat} (hi : i < bs.length) (he : en i = true) :
    (s.memWriteEn key pa bs en tag).byteUnder key (pa + i) = bs.getD i 0 := by
  have hmem := mem_written (pa := pa) hi he
  rw [State.byteUnder_of_key (State.memWriteEn_key_touched bs en tag hk hx (List.mem_map_of_mem hmem)),
    State.memWriteEn_stored_byte bs en tag hk hx, if_pos hmem, Nat.add_sub_cancel_left]

/-- A line that a write does not touch reads as before under every index. -/
theorem State.memWriteEn_byteUnder_untouched {a : Nat} (ha : ∀ x ∈ written pa bs en, x / 64 ≠ a / 64) (k : BitVec 9) :
    (s.memWriteEn key pa bs en tag).byteUnder k a = s.byteUnder k a := by
  calc (s.memWriteEn key pa bs en tag).byteUnder k a
      = (s.broughtFor key pa bs en).byteUnder k a :=
        State.byteUnder_congr ((s.memWriteEn_keys ..).trans (s.rekeys_keys ..).symm) (State.memWriteEn_key bs en tag hk hx _)
          (fun b hb => (State.memWriteEn_stored_byte bs en tag hk hx b).trans (if_neg fun hm => ha b hm hb)) k
    _ = s.byteUnder k a := s.rekeys_byteUnder_other key (by
          rw [mem_runsOf, List.mem_map]
          exact fun ⟨x, hx', e⟩ => ha x hx' e) k

/-- A byte that a write does not store reads under its key index as before, on touched lines too. -/
theorem State.memWriteEn_byteUnder_unwritten {a : Nat} (ha : a ∉ written pa bs en) :
    (s.memWriteEn key pa bs en tag).byteUnder key a = s.byteUnder key a := by
  by_cases hl : a / 64 ∈ (written pa bs en).map (· / 64)
  · calc (s.memWriteEn key pa bs en tag).byteUnder key a
        = (s.broughtFor key pa bs en).mem.byte a := by
          rw [State.byteUnder_of_key (State.memWriteEn_key_touched bs en tag hk hx hl),
            State.memWriteEn_stored_byte bs en tag hk hx, if_neg ha]
      _ = (s.broughtFor key pa bs en).byteUnder key a :=
          (State.byteUnder_of_key (s.rekeys_key key (.inl (mem_runsOf.mpr hl)))).symm
      _ = s.byteUnder key a := s.rekeys_byteUnder key _ a
  · exact State.memWriteEn_byteUnder_untouched bs en tag hk hx (fun x hx' e => hl (List.mem_map.mpr ⟨x, hx', e⟩)) key

end

/-! ### Time stamps -/

/-- A way to take time stamps (R273): it changes the stamps of memory alone, and no clock goes back. -/
def TakesStamps (step : Memory → Nat → Nat → Memory × Nat) : Prop :=
  ∀ m p l, (∃ ts, (step m p l).1 = { m with ts := ts }) ∧ p ≤ (step m p l).2

theorem Memory.loadAt_takesStamps : TakesStamps Memory.loadAt := fun _ _ _ => ⟨⟨_, rfl⟩, le_max_left ..⟩
theorem Memory.storeAt_takesStamps : TakesStamps Memory.storeAt := fun _ _ _ => ⟨⟨_, rfl⟩, le_max_left ..⟩
theorem Memory.atomicAt_takesStamps : TakesStamps Memory.atomicAt := fun _ _ _ => ⟨⟨_, rfl⟩, le_max_left ..⟩

section
variable {step : Memory → Nat → Nat → Memory × Nat} (hs : TakesStamps step)
include hs

theorem Memory.stampAll_takesStamps (ls : List Nat) (m : Memory) (p : Nat) :
    (∃ ts, (m.stampAll step p ls).1 = { m with ts := ts }) ∧ p ≤ (m.stampAll step p ls).2 := by
  induction ls generalizing m p with
  | nil => exact ⟨⟨_, rfl⟩, le_rfl⟩
  | cons l ls ih =>
    obtain ⟨⟨ts, hm⟩, hp⟩ := hs m p l
    obtain ⟨⟨ts', hm'⟩, hp'⟩ := ih (step m p l).1 (step m p l).2
    exact ⟨⟨ts', hm'.trans (by rw [hm])⟩, hp.trans hp'⟩

variable (s : State) (ci k pa n : Nat)

theorem State.stamp_mem_eq : ∃ ts, (s.stamp ci k step pa n).mem = { s.mem with ts := ts } :=
  (Memory.stampAll_takesStamps hs (linesOf pa n) s.mem (s.ctx ci k).pts).1

theorem State.stamp_data : (s.stamp ci k step pa n).mem.bytes = s.mem.bytes ∧ (s.stamp ci k step pa n).mem.tags = s.mem.tags ∧
    (s.stamp ci k step pa n).mem.poison = s.mem.poison ∧ (s.stamp ci k step pa n).mem.lineKey = s.mem.lineKey := by
  obtain ⟨ts, h⟩ := State.stamp_mem_eq hs s ci k pa n
  rw [h]
  exact ⟨rfl, rfl, rfl, rfl⟩

/-- No access takes its context's clock back (R273). -/
theorem State.stamp_pts : (s.ctx ci k).pts ≤ ((s.stamp ci k step pa n).ctx ci k).pts := by
  refine le_of_le_of_eq (Memory.stampAll_takesStamps hs (linesOf pa n) s.mem (s.ctx ci k).pts).2 ?_
  unfold State.stamp
  rw [State.ctx_modCtx_same]

end

theorem Memory.storeAt_stamp (m : Memory) (p l j : Nat) : (m.storeAt p l).1.stamp j =
    if j = l then (max p ((m.stamp l).2 + 1), (m.stamp l).2) else m.stamp j := SMap.get_set ..

/-- A store passes the end of the latest read lease of each line, and stores leave that end as it is (R273). -/
theorem Memory.storeAll_stamp {ls : List Nat} {m : Memory} {p j : Nat} (h : j ∈ ls ∨ (m.stamp j).2 < (m.stamp j).1) :
    (m.stamp j).2 < ((m.stampAll Memory.storeAt p ls).1.stamp j).1 := by
  induction ls generalizing m p with
  | nil => exact h.resolve_left List.not_mem_nil
  | cons l ls ih =>
    have hstep := m.storeAt_stamp p l j
    have hrts : ((m.storeAt p l).1.stamp j).2 = (m.stamp j).2 := by
      rw [hstep]
      split
      next hj => rw [hj]
      next => rfl
    have hnext : j ∈ ls ∨ ((m.storeAt p l).1.stamp j).2 < ((m.storeAt p l).1.stamp j).1 := by
      rw [hstep]
      by_cases hj : j = l
      · rw [if_pos hj]
        exact .inr (lt_of_lt_of_le (Nat.lt_succ_self _) (le_max_right ..))
      · rw [if_neg hj]
        exact h.imp_left fun hm => (List.mem_cons.mp hm).resolve_left hj
    exact hrts ▸ ih hnext

/-! ### A unit of an access -/

section
variable {s : State} {ci k : Nat} {a : Acc} {u : MUnit} {pa : Nat} {key : BitVec 9}

/-- The loads of bytes: each takes what memory holds under the key index, and the tag of its granule (R406). -/
theorem State.performUnit_load (h : (∃ n sg, a.kind = .ldS n sg) ∨ (∃ m, a.kind = .ldRow m) ∨ (∃ w ls, a.kind = .gather w ls) ∨
    a.kind = .ldCap) :
    (s.performUnit ci k a u pa key).1 = s.stamp ci k Memory.loadAt pa u.len ∧
    (s.performUnit ci k a u pa key).2.got = a.got ++ [s.memRead key pa u.len] ∧
    (s.performUnit ci k a u pa key).2.ctag = s.tagAt pa := by
  obtain ⟨kind⟩ := a
  rcases h with ⟨n, sg, h⟩ | ⟨m, h⟩ | ⟨w, ls, h⟩ | h <;> cases h <;> exact ⟨rfl, rfl, rfl⟩

theorem State.performUnit_store (h : a.kind = .store) : s.performUnit ci k a u pa key =
    ((s.memWriteEn key pa u.data (fun i => u.en.getLsbD i) false).stamp ci k Memory.storeAt pa u.len, a) := by
  obtain ⟨kind⟩ := a
  cases h
  rfl

theorem State.performUnit_stCap (h : a.kind = .stCap) : s.performUnit ci k a u pa key =
    ((s.memWriteEn key pa u.data (fun _ => true) u.tag).stamp ci k Memory.storeAt pa u.len, a) := by
  obtain ⟨kind⟩ := a
  cases h
  rfl

/-- An atomic whose old value reads without poison (R418): it returns it, and stores the new value where there is one. -/
theorem State.performUnit_atomic {op : AtomOp} {n : Nat} {b c : BitVec 64} (h : a.kind = .atomic op n b c) (hp : a.poison = none)
    (hu : s.poisonAt key pa u.len = none) :
    let r := s.performUnit ci k a u pa key
    let new := atomNew op n (ofBytes (s.memRead key pa u.len)) (b.toNat % 2 ^ n) (c.toNat % 2 ^ n)
    r.2.got = [s.memRead key pa u.len] ∧ (new = none → r.1 = s.stamp ci k Memory.loadAt pa u.len) ∧
    ∀ v, new = some v → r.1 = (s.memWrite key pa (bytesOf u.len v)).stamp ci k Memory.atomicAt pa u.len := by
  obtain ⟨kind⟩ := a
  cases h
  cases hp
  unfold State.performUnit
  simp only [AccKind.writes, hu]
  cases atomNew op n (ofBytes (s.memRead key pa u.len)) (b.toNat % 2 ^ n) (c.toNat % 2 ^ n) with
  | none => exact ⟨rfl, fun _ => rfl, nofun⟩
  | some w =>
    refine ⟨rfl, nofun, fun v hv => ?_⟩
    cases hv
    rfl

/-- However a unit performs, it ends in time stamps for its context, taken on a state that has that context as it was (R273). -/
theorem State.performUnit_stamps (s : State) (ci k : Nat) (a : Acc) (u : MUnit) (pa : Nat) (key : BitVec 9) :
    ∃ t step, TakesStamps step ∧ t.ctx ci k = s.ctx ci k ∧
      (s.performUnit ci k a u pa key).1 = State.stamp t ci k step pa u.len := by
  unfold State.performUnit
  dsimp only
  split
  case h_1 | h_2 | h_3 => exact ⟨_, _, Memory.storeAt_takesStamps, s.memWriteEn_ctx .., rfl⟩
  case h_4 =>
    split
    · exact ⟨_, _, Memory.atomicAt_takesStamps, s.memWriteEn_ctx .., rfl⟩
    · exact ⟨_, _, Memory.loadAt_takesStamps, rfl, rfl⟩
  all_goals exact ⟨_, _, Memory.loadAt_takesStamps, rfl, rfl⟩

end

/-- Settles O55: a write by the bytes, keys and tags that it leaves; a unit by what its kind does before the time stamps. -/
theorem memoryWrites : Obligations.MemoryWrites := by
  refine ⟨fun s key pa bs en tag hwf => ⟨State.memWriteEn_dropped bs en tag, fun hk hx => ?write,
    s.memWriteEn_wf key pa bs en tag hwf⟩, ?unit⟩
  case write =>
    exact ⟨fun i => State.memWriteEn_byteUnder_written bs en tag hk hx, fun a => State.memWriteEn_byteUnder_unwritten bs en tag hk hx,
      fun a k ha => State.memWriteEn_byteUnder_untouched bs en tag hk hx ha k, State.memWriteEn_tagAt bs en tag hk hx⟩
  case unit =>
    intro s ci k a u pa key r bytes
    have hload := State.performUnit_load (s := s) (ci := ci) (k := k) (a := a) (u := u) (pa := pa) (key := key)
    have hbytes : ∀ t, t = s.stamp ci k Memory.loadAt pa u.len → bytes t := by
      rintro t rfl
      exact State.stamp_data Memory.loadAt_takesStamps s ci k pa u.len
    refine ⟨fun n sg h => ?_, fun m h => ?_, fun w ls h => ?_, fun h => ?_, fun h => ?store, fun h => ?stCap,
      fun op n b c h hp hu => ?atomic, ?pts, fun l hl h => ?wts⟩
    · obtain ⟨hs, hgot, -⟩ := hload (.inl ⟨n, sg, h⟩)
      exact ⟨hbytes _ hs, hgot⟩
    · obtain ⟨hs, hgot, -⟩ := hload (.inr (.inl ⟨m, h⟩))
      exact ⟨hbytes _ hs, hgot⟩
    · obtain ⟨hs, hgot, -⟩ := hload (.inr (.inr (.inl ⟨w, ls, h⟩)))
      exact ⟨hbytes _ hs, hgot⟩
    · obtain ⟨hs, hgot, htag⟩ := hload (.inr (.inr (.inr h)))
      exact ⟨hbytes _ hs, hgot, htag⟩
    case store =>
      intro w
      obtain ⟨hb, hg, hp, hk⟩ := State.stamp_data Memory.storeAt_takesStamps w ci k pa u.len
      have hr : r = (w.stamp ci k Memory.storeAt pa u.len, a) := State.performUnit_store h
      rw [hr]
      exact ⟨hb, hg, hp, hk, rfl⟩
    case stCap =>
      intro w
      obtain ⟨hb, hg, hp, hk⟩ := State.stamp_data Memory.storeAt_takesStamps w ci k pa u.len
      have hr : r = (w.stamp ci k Memory.storeAt pa u.len, a) := State.performUnit_stCap h
      rw [hr]
      exact ⟨hb, hg, hp, hk, rfl⟩
    case atomic =>
      obtain ⟨hgot, hkeeps, hstores⟩ := State.performUnit_atomic (ci := ci) (k := k) h hp hu
      refine ⟨hgot, ?_⟩
      split
      next hn => exact hbytes _ (hkeeps hn)
      next v hn =>
        rw [show r.1 = _ from hstores v hn]
        exact (State.stamp_data Memory.atomicAt_takesStamps _ ci k pa u.len).1
    case pts =>
      obtain ⟨t, step, hstep, ht, hr⟩ := State.performUnit_stamps s ci k a u pa key
      rw [show r.1 = _ from hr, ← ht]
      exact State.stamp_pts hstep t ci k pa u.len
    case wts =>
      rw [show r = _ from State.performUnit_store h, ← s.memWriteEn_stamp u.data (fun i => u.en.getLsbD i) false key pa l]
      exact Memory.storeAll_stamp (.inl hl)

end Sys2Proof.Machine
end

section
/-!
PROOFS. The tiers of memory and the demotions from them (R114 to R117, R119), and the commands on the memory keys (R122, R123).
-/

namespace Sys2Proof.Machine

theorem next_ite (c : Prop) [Decidable c] (s t : State) :
    (.next (if c then s else t) : Out) = if c then .next s else .next t := apply_ite _ c s t

/-! ### A tier's engine -/

@[simp] theorem State.tier_setTier_same (s : State) (t : Nat) (x : Tier) : (s.setTier t x).tier t = x := SMap.get_set_same ..

@[simp] theorem State.tier_sysRead (s : State) (v : Word) (t : Nat) : ({ s with sysRead := v } : State).tier t = s.tier t := rfl
@[simp] theorem State.setTier_cores (s : State) (t : Nat) (x : Tier) : (s.setTier t x).cores = s.cores := rfl
@[simp] theorem State.setTier_tasks (s : State) (t : Nat) (x : Tier) : (s.setTier t x).tasks = s.tasks := rfl
@[simp] theorem State.setTier_mem (s : State) (t : Nat) (x : Tier) : (s.setTier t x).mem = s.mem := rfl
@[simp] theorem State.setTier_so (s : State) (t : Nat) (x : Tier) : (s.setTier t x).so = s.so := rfl
@[simp] theorem State.setTier_irq (s : State) (t : Nat) (x : Tier) : (s.setTier t x).irq = s.irq := rfl

theorem Tier.mark_moves (x : Tier) : x.mark.moves = x.moves := by
  unfold Tier.mark
  split <;> rfl

/-- Waking changes no move in flight (R115). -/
theorem Tier.wake_moves (x : Tier) (t : Nat) : (x.wake t).moves = x.moves := by
  rw [← x.mark_moves]
  unfold Tier.wake
  dsimp only
  split_ifs <;> rfl

/-! ### Free frames -/

section
variable {s : State} {t : Nat}

theorem State.popFrame_empty (h : (s.tier t).count = 0) : s.popFrame t = (s, none) := if_pos h

theorem State.popFrame_top (h : (s.tier t).count ≠ 0) : s.popFrame t =
    (s.setTier t { s.tier t with count := (s.tier t).count - 1 },
      some (s.word0 ((s.tier t).stackAt ((s.tier t).count.toNat - 1)) 8 / 65536 * 65536)) := if_neg h

/-- TIER_FRAME_POP of an empty stack reads 0 (R114). -/
theorem exec_tierFramePop_empty (ht : t < 3) (h : (s.tier t).count = 0) :
    exec (.tierFramePop t) s = .next { s with sysRead := 0 } := by
  refine (if_neg (not_le.mpr ht)).trans ?_
  rw [State.popFrame_empty h]

/-- TIER_FRAME_POP of a stack that holds a frame (R114). -/
theorem exec_tierFramePop_top (ht : t < 3) (h : (s.tier t).count ≠ 0) : exec (.tierFramePop t) s =
    .next { s.setTier t { s.tier t with count := (s.tier t).count - 1 } with
      sysRead := BitVec.ofNat 64 (s.word0 ((s.tier t).stackAt ((s.tier t).count.toNat - 1)) 8 / 65536 * 65536 + 1) } := by
  refine (if_neg (not_le.mpr ht)).trans ?_
  rw [State.popFrame_top h]
  dsimp only
  rw [Nat.mul_div_cancel _ (by omega)]

/-- What TFPOP reads marks its frame as valid (R114). -/
theorem frameRead_valid (w : Nat) : (BitVec.ofNat 64 (w / 65536 * 65536 + 1)).getLsbD 0 = true := by
  rw [BitVec.getLsbD_ofNat, Nat.testBit_zero, Bool.and_eq_true, decide_eq_true_eq, decide_eq_true_eq]
  omega

/-- What TFPOP reads holds the frame of the stack's word (R114). -/
theorem frameRead_frame {w : Nat} (h : w < 2 ^ 64) : (BitVec.ofNat 64 (w / 65536 * 65536 + 1)).toNat / 65536 = w / 65536 := by
  rw [BitVec.toNat_ofNat, Nat.mod_eq_of_lt (by omega)]
  omega

theorem exec_tierFramePush (ht : t < 3) (v : Word) (s : State) :
    exec (.tierFramePush t v) s = .next (s.pushFrame t (fld v 16 48 * 65536)) := if_neg (not_le.mpr ht)

variable {pa : Nat}

theorem State.pushFrame_foreign (h : pa < tierBase t ∨ tierBase t + tierFrames t * 65536 ≤ pa) :
    s.pushFrame t pa = s.setTier t { s.tier t with badpush := true } := if_pos (by simpa using h)

theorem State.pushFrame_full (hlo : tierBase t ≤ pa) (hhi : pa < tierBase t + tierFrames t * 65536)
    (h : (s.tier t).fscap ≤ (s.tier t).count) : s.pushFrame t pa = s.setTier t { s.tier t with ovf := true } :=
  (if_neg (by simp [hlo, hhi])).trans (if_pos h)

theorem State.pushFrame_room (hlo : tierBase t ≤ pa) (hhi : pa < tierBase t + tierFrames t * 65536)
    (h : (s.tier t).count < (s.tier t).fscap) : s.pushFrame t pa =
      (s.memPut 0 ((s.tier t).stackAt (s.tier t).count.toNat) (bytesOf 8 pa)).setTier t
        ({ s.tier t with count := (s.tier t).count + 1 } : Tier).mark :=
  (if_neg (by simp [hlo, hhi])).trans (if_neg (BitVec.not_le.mpr h))

/-- A push changes memory and the tiers alone. -/
theorem State.pushFrame_eq (s : State) (t pa : Nat) : ∃ m ts, s.pushFrame t pa = { s with mem := m, tiers := ts } := by
  unfold State.pushFrame
  dsimp only
  rw [s.memPut_eq]
  split_ifs <;> exact ⟨_, _, rfl⟩

end

/-! ### The clock -/

/-- TIER_CLOCK_STEP (R115, R116, R119): the engine wakes, then waits for the ring, steps over a frame, or rests. -/
theorem exec_tierClockStep {t : Nat} (ht : t < 3) (s : State) : let x := (s.tier t).wake t
    let u := s.setTier t x
    exec (.tierClockStep t) s = .next (if u.ringWait t = true then u.setTier t { x with stall := true }
      else if x.active = true ∧ x.ending = false ∧ x.dest t ≠ 0 ∧ x.victim = none ∧ x.moves.length < maxMoves then u.clockStep t else u) := by
  intro x u
  refine (if_neg (not_le.mpr ht)).trans ?_
  rw [next_ite, next_ite]
  refine if_congr Iff.rfl rfl (if_congr ?_ rfl rfl)
  simp [and_assoc, x]

section
variable (s : State) (t : Nat)

/-- The state in which the hand has gone on to the next frame (R116). -/
def State.handOn : State := s.setTier t { s.tier t with hand := ((s.tier t).hand + 1) % tierFrames t }
/-- The frame under the hand. -/
def State.handFrame : Nat := tierBase t + 65536 * (s.tier t).hand
/-- The two words of its frame-table entry (R114). -/
def State.handWord (i : Nat) : Nat := s.word0 ((s.tier t).tableAt (s.tier t).hand + 8 * i) 8
/-- The place of the leaf entry that its frame-table entry names. -/
def State.handPte : Nat := bits (s.handWord t 0) 3 45 * 8
/-- That leaf entry. -/
def State.handEntry : Nat := (s.handOn t).word0 (s.handPte t) 8

/-- The hand passes over its frame (R116): the frame is free or of a retired space, is mapped by no leaf, or its page is held
or in motion. -/
def State.HandPasses : Prop :=
  s.handWord t 0 % 2 = 0 ∨ bits (s.handWord t 1) 60 4 ≠ (SMap.get 0 (s.handOn t).spgen (bits (s.handWord t 1) 48 12)).toNat ∨
    (s.handOn t).isLeaf (BitVec.ofNat 12 (bits (s.handWord t 1) 48 12)) (bits (s.handWord t 1) 16 32 * 65536) (s.handPte t)
      (s.handFrame t) = false ∨ (s.handEntry t).testBit 59 = true ∨ (s.handEntry t).testBit 7 = true

/-- The frame under the hand is passed over, aged, kept for its tags, or chosen (R116). -/
theorem State.clockStep_eq [Decidable (s.HandPasses t)] : s.clockStep t =
    if s.HandPasses t then s.handOn t
    else if (s.handEntry t).testBit 5 = true then
      ((s.handOn t).memPut 0 (s.handPte t) (bytesOf 8 (s.handEntry t - 32))).dropLeaf (s.handPte t)
    else if ((s.handOn t).tier t).dest t = 3 ∧ (s.handOn t).frameTagged (s.handFrame t) = true then s.handOn t
    else (s.handOn t).setTier t { (s.handOn t).tier t with
      victim := some ⟨s.handFrame t, none, s.handPte t, BitVec.ofNat 64 (s.handEntry t), false⟩ } := by
  unfold State.clockStep
  dsimp only
  rw [← ite_or]
  refine if_congr ?_ rfl (if_congr Iff.rfl rfl (if_congr ?_ rfl rfl))
  · simp [State.HandPasses, State.handEntry, State.handPte, State.handWord, State.handFrame, State.handOn, or_assoc]
  · simp [State.handFrame, State.handOn]

end

/-! ### Demotions -/

section
variable {s : State} {t : Nat} {m v : Move}

/-- The engine has given its victim up. -/
def State.unchosen (p : State) (t : Nat) : State := p.setTier t { p.tier t with victim := none, stall := false }

/-- The leaf entry is marked M and the victim moves to a destination, or to storage (R117, R119). -/
def State.begins (p : State) (t : Nat) (v : Move) (d : Option Nat) : State :=
  (p.memPut 0 v.pte (bytesOf 8 (v.ent.toNat + 128))).setTier t
    { p.tier t with victim := none, stall := false, moves := (p.tier t).moves ++ [{ v with dst := d }] }

theorem exec_demotionStart_ringWait (h : s.ringWait t = true) :
    exec (.demotionStart t) s = .next (s.setTier t { s.tier t with stall := true }) := if_pos h

theorem exec_demotionStart_idle (h : s.ringWait t = false) (hv : (s.tier t).victim = none) :
    exec (.demotionStart t) s = .next s := by
  refine (if_neg (by simp [h])).trans ?_
  rw [hv]

section
variable (h : s.ringWait t = false) (hv : (s.tier t).victim = some v)
include h hv

theorem exec_demotionStart_stops (hn : (s.tier t).dest t = 0) :
    exec (.demotionStart t) s = .next (s.setTier t { s.tier t with victim := none }) := by
  refine (if_neg (by simp [h])).trans ?_
  rw [hv]
  dsimp only
  rw [hn]
  rfl

/-- A demotion to storage pops no frame (R119). -/
theorem exec_demotionStart_storage (hn : (s.tier t).dest t = 3) : exec (.demotionStart t) s =
    .next (if s.word0 v.pte 8 = v.ent.toNat then s.begins t v none else s.unchosen t) := by
  refine (if_neg (by simp [h])).trans ?_
  rw [hv]
  dsimp only
  rw [hn, next_ite]
  exact ite_not ..

variable {n : Nat} (hn : (s.tier t).dest t = n) (h0 : n ≠ 0) (h3 : n ≠ 3)
include hn h0 h3

/-- No frame is free in the tier below (R117). -/
theorem exec_demotionStart_full (hc : (s.tier n).count = 0) :
    exec (.demotionStart t) s = .next (s.setTier t { s.tier t with stall := true }) := by
  refine (if_neg (by simp [h])).trans ?_
  rw [hv]
  dsimp only
  rw [hn]
  split
  · contradiction
  · contradiction
  · simp only [State.popFrame_empty hc, hv]

/-- The popped frame takes the page, or goes back where the leaf has changed (R117). -/
theorem exec_demotionStart_lower {p : State} {d : Nat} (hp : s.popFrame n = (p, some d)) : exec (.demotionStart t) s =
    .next (if p.word0 v.pte 8 = v.ent.toNat then p.begins t v (some d) else (p.unchosen t).pushFrame ((p.tier t).dest t) d) := by
  refine (if_neg (by simp [h])).trans ?_
  rw [hv]
  dsimp only
  rw [hn]
  split
  · contradiction
  · contradiction
  · rw [hp, next_ite]
    exact ite_not ..

end

theorem State.dropLeaf_leaf (s : State) (pte : Nat) : ∀ e ∈ (s.dropLeaf pte).tlb, e.leaf ≠ pte := by
  intro e he
  simpa using (List.mem_filter.mp he).2

/-- DEMOTION_DRAIN of the first move whose page is not drained (R117). -/
theorem exec_demotionDrain (h : (s.tier t).moves.find? (fun m => !m.drained) = some m) : exec (.demotionDrain t) s =
    .next (((s.dropLeaf m.pte).dropLines (fun l => l / 1024 = m.src / 65536)).setTier t { s.tier t with
      moves := (s.tier t).moves.map (fun n => if n.pte = m.pte then { n with drained := true } else n) }) := by
  change execDemotionDrain t s = _
  unfold execDemotionDrain
  dsimp only
  rw [h]

/-- A copy of a frame changes memory alone. -/
theorem State.copyFrame_eq (s : State) (key : BitVec 9) (src dst : Nat) : ∃ m, s.copyFrame key src dst = { s with mem := m } := by
  unfold State.copyFrame
  split <;> exact ⟨_, rfl⟩

@[simp] theorem State.copyFrame_cores (s : State) (key : BitVec 9) (src dst : Nat) : (s.copyFrame key src dst).cores = s.cores := by
  obtain ⟨_, h⟩ := s.copyFrame_eq key src dst
  rw [h]
@[simp] theorem State.copyFrame_tasks (s : State) (key : BitVec 9) (src dst : Nat) : (s.copyFrame key src dst).tasks = s.tasks := by
  obtain ⟨_, h⟩ := s.copyFrame_eq key src dst
  rw [h]
@[simp] theorem State.pushFrame_cores (s : State) (t pa : Nat) : (s.pushFrame t pa).cores = s.cores := by
  obtain ⟨_, _, h⟩ := s.pushFrame_eq t pa
  rw [h]
@[simp] theorem State.pushFrame_tasks (s : State) (t pa : Nat) : (s.pushFrame t pa).tasks = s.tasks := by
  obtain ⟨_, _, h⟩ := s.pushFrame_eq t pa
  rw [h]
@[simp] theorem State.memPut_tasks (s : State) (key : BitVec 9) (pa : Nat) (bs : List Byte) : (s.memPut key pa bs).tasks = s.tasks := by
  rw [s.memPut_eq]

/-- The frame has been copied to `d` and the leaf entry rewritten: it names `d`, with M and A clear (R117). -/
def State.remapped (s : State) (m : Move) (d : Nat) : State :=
  let c := s.copyFrame (keyOf m.ent) m.src d
  let e := c.word0 m.pte 8
  c.memPut 0 m.pte (bytesOf 8 (e - bits e 8 40 * 256 + d - (if e.testBit 7 then 128 else 0) - (if e.testBit 5 then 32 else 0)))

/-- The frame-table entry at `a` has moved to the entry of the frame `d`, and reads 0 (R117). -/
def State.retabled (s : State) (a d : Nat) : State :=
  (s.memPut 0 ((s.tier (tierOf d)).tableAt ((d - tierBase (tierOf d)) / 65536)) (s.memRead 0 a 16)).memPut 0 a (bytesOf 16 0)

/-- The state in which a move to a frame `d` is over and its source frame free again (R117). -/
def State.moved (s : State) (t : Nat) (m : Move) (d : Nat) : State :=
  (((s.remapped m d).retabled ((s.tier t).tableAt ((m.src - tierBase t) / 65536)) d).setTier t
    { s.tier t with moves := (s.tier t).moves.filter (fun k => k.pte ≠ m.pte) }).pushFrame t m.src

theorem State.moved_cores (s : State) (t : Nat) (m : Move) (d : Nat) : (s.moved t m d).cores = s.cores := by
  simp [State.moved, State.retabled, State.remapped]
theorem State.moved_tasks (s : State) (t : Nat) (m : Move) (d : Nat) : (s.moved t m d).tasks = s.tasks := by
  simp [State.moved, State.retabled, State.remapped]

/-- DEMOTION_FINISH of the first drained move to a frame (R117). -/
theorem exec_demotionFinish {d : Nat} (h : (s.tier t).moves.find? (fun m => m.drained && m.dst.isSome) = some m) (hd : m.dst = some d) :
    exec (.demotionFinish t) s = .next ((s.moved t m d).setTier t (((s.moved t m d).tier t).wake t)) := by
  change execDemotionFinish t s = _
  unfold execDemotionFinish
  dsimp only
  rw [h]
  dsimp only
  rw [hd]
  rfl

/-- The storage-out record of a move whose frame-table entry has the second word `w` (R119). -/
def State.storageRecord (s : State) (m : Move) (w : Nat) : List Byte :=
  bytesOf 8 m.src ++ bytesOf 8 m.pte ++ bytesOf 2 (bits w 48 16) ++ bytesOf 2 (keyOf m.ent).toNat ++ bytesOf 4 (bits w 16 32) ++
    bytesOf 8 s.tick

/-- The state in which a storage-out record has entered the ring and its interrupt is raised (R119). -/
def State.recorded (s : State) (b : List Byte) : State :=
  let u := (s.memPut 0 (s.so.entry 32 s.so.tail) b).raise 3
  { u with so := { u.so with tail := u.so.tail + 1 } }

theorem State.recorded_so (s : State) (b : List Byte) : (s.recorded b).so.tail = s.so.tail + 1 := by
  unfold State.recorded
  rw [s.memPut_eq]
  rfl

theorem State.recorded_mem (s : State) (b : List Byte) : (s.recorded b).mem = (s.memPut 0 (s.so.entry 32 s.so.tail) b).mem := rfl

theorem State.recorded_irq (s : State) (b : List Byte) : SMap.get false (s.recorded b).irq 3 = true :=
  State.raise_pending ..

section
variable (h : (s.tier t).moves.find? (fun m => m.drained && m.dst.isNone) = some m)
include h

theorem exec_storageOutRecord_full (hf : s.so.full = true) :
    exec (.storageOutRecord t) s = .next (s.setTier t { s.tier t with stall := true }) := by
  change execStorageOutRecord t s = _
  unfold execStorageOutRecord
  dsimp only
  rw [h]
  exact if_pos hf

theorem exec_storageOutRecord_room (hf : s.so.full = false) : exec (.storageOutRecord t) s =
    .next ((s.recorded (s.storageRecord m (s.word0 ((s.tier t).tableAt ((m.src - tierBase t) / 65536) + 8) 8))).setTier t
      (({ s.tier t with moves := (s.tier t).moves.filter (fun k => k.pte ≠ m.pte), stall := false } : Tier).wake t)) := by
  change execStorageOutRecord t s = _
  unfold execStorageOutRecord
  dsimp only
  rw [h]
  exact if_neg (by simp [hf])

end

end

/-! ### Commands on the memory keys -/

section
variable {s : State}

theorem State.keyCommand_busy (h : s.keys.busy = true) (b : Bool) : s.keyCommand b = s := if_pos h

theorem State.keyCommand_slot0 (h : s.keys.busy = false) (h0 : s.keys.sel = 0) (b : Bool) :
    s.keyCommand b = { s with keys := { s.keys with err := true } } := (if_neg (by simp [h])).trans (if_pos h0)

theorem State.keyCommand_begins (h : s.keys.busy = false) (h0 : s.keys.sel ≠ 0) (b : Bool) :
    s.keyCommand b = { s with keys := { s.keys with busy := true, loading := b } } := (if_neg (by simp [h])).trans (if_neg h0)

/-- What a key command that has ended leaves in the slots: the pair of KDATA, or nothing (R122, R123). -/
def Keys.commanded (k : Keys) : Option KeyPair := if k.loading then some k.loaded else none

@[simp] theorem State.dropLines_keys (s : State) (p : Nat → Bool) : (s.dropLines p).keys = s.keys := rfl

theorem State.installKey_slots (s : State) (k : BitVec 9) (p : KeyPair) :
    (s.installKey k p).keys.slots = SMap.set none s.keys.slots k.toNat (some p) := by
  unfold State.installKey
  dsimp only
  split
  · rfl
  · obtain ⟨m, e⟩ := foldl_mem (f := fun u l => { u with mem := { u.mem with
        bytes := SMap.setAll freshByte u.mem.bytes ((List.range 64).map (fun i => (l * 64 + i,
          (underPair (s.keys.pair k) (p.dkey ++ p.tkey) l (u.mem.line l)).getD i 0))) } }) (fun _ _ => ⟨_, rfl⟩)
      ((s.mem.lineKey.filter (fun e => e.2 = some k)).map (·.1)) s
    rw [e]

/-- KEY_COMMAND_FINISH where no command runs, or a page under its key is in motion (R118). -/
theorem exec_keyCommandFinish_waits
    (h : s.keys.busy = false ∨ ∃ t ∈ s.tiers, ∃ m ∈ t.2.moves, keyOf m.ent = s.keys.sel) : exec .keyCommandFinish s = .next s :=
  if_pos (by simpa using h)

/-- KEY_COMMAND_FINISH of a command that may end (R122, R123). -/
theorem exec_keyCommandFinish_ends (hb : s.keys.busy = true)
    (h : ∀ t ∈ s.tiers, ∀ m ∈ t.2.moves, keyOf m.ent ≠ s.keys.sel) : ∃ u : State, exec .keyCommandFinish s = .next u ∧
      u.keys.busy = false ∧ u.keys.data = [] ∧ SMap.get none u.keys.slots s.keys.sel.toNat = s.keys.commanded := by
  refine ⟨_, if_neg (by simpa [hb] using h), rfl, rfl, ?_⟩
  unfold Keys.commanded
  dsimp only
  rw [State.dropLines_keys]
  split
  · rw [State.installKey_slots]
    exact SMap.get_set_same ..
  · exact SMap.get_set_same none s.keys.slots _ none

end

/-- Settles O10: the frames of a tier, its clock, the steps of a demotion and the key commands, each by its own law. -/
theorem tiersAndKeys : Obligations.TiersAndKeys := by
  intro s
  refine ⟨fun t ht => ?frames, fun t ht => exec_tierClockStep ht s, fun t => ?clock, fun t => ⟨exec_demotionStart_ringWait,
    exec_demotionStart_idle, fun v h hv => ?start⟩, fun t m h => ?drain, fun t m d h hd => ?finish, fun t m h => ?storage,
    fun p hp => ?command, exec_keyCommandFinish_waits, exec_keyCommandFinish_ends⟩
  case frames =>
    intro x
    refine ⟨exec_tierFramePop_empty ht, fun h => ⟨_, exec_tierFramePop_top ht h, ?_, rfl, frameRead_valid _, frameRead_frame⟩,
      fun v => ?_⟩
    · rw [State.tier_sysRead, State.tier_setTier_same]
    · intro pa
      rw [exec_tierFramePush ht]
      exact ⟨fun h => congrArg _ (State.pushFrame_foreign h), fun hlo hhi h => congrArg _ (State.pushFrame_full hlo hhi h),
        fun hlo hhi h => congrArg _ (State.pushFrame_room hlo hhi h)⟩
  case clock =>
    intro x frame w0 w1 pte u e free
    classical
    have hstep := s.clockStep_eq t
    refine ⟨fun h => hstep.trans (if_pos h), fun h h5 => hstep.trans ((if_neg h).trans (if_pos h5)), fun h h5 hd hg => ?_,
      fun h h5 hd => ?_⟩
    all_goals refine hstep.trans ((if_neg h).trans ((if_neg (Bool.eq_false_iff.mp h5)).trans ?_))
    · exact if_pos ⟨hd, hg⟩
    · exact if_neg fun ⟨h3, hg⟩ => hd.elim (· h3) (fun hf => Bool.noConfusion (hf.symm.trans hg))
  case start =>
    intro begun none_ n
    exact ⟨exec_demotionStart_stops h hv, exec_demotionStart_storage h hv, fun h0 h3 => exec_demotionStart_full h hv rfl h0 h3,
      fun p d h0 h3 => exec_demotionStart_lower h hv rfl h0 h3⟩
  case drain =>
    exact ⟨_, exec_demotionDrain h, s.dropLeaf_leaf m.pte, rfl, congrArg Tier.moves (State.tier_setTier_same ..)⟩
  case finish => exact ⟨exec_demotionFinish h hd, s.moved_cores t m d, s.moved_tasks t m d⟩
  case storage =>
    refine ⟨exec_storageOutRecord_full h, fun hf => ⟨_, exec_storageOutRecord_room h hf, ?_, ?_, ?_, ?_⟩⟩
    · rw [State.setTier_so, State.recorded_so]
    · rw [State.setTier_irq, State.recorded_irq]
    · rw [State.setTier_mem, State.recorded_mem, State.storageRecord]
    · rw [State.tier_setTier_same, Tier.wake_moves]
      intro n hn
      obtain ⟨hmem, hne⟩ := List.mem_filter.mp hn
      exact ⟨hmem, by simpa using hne⟩
  case command =>
    obtain ⟨b, hb⟩ : ∃ b, p.2 = b ∧ exec p.1 s = .next (s.keyCommand b) := by
      fin_cases hp <;> exact ⟨_, rfl, rfl⟩
    obtain ⟨rfl, he⟩ := hb
    rw [he]
    exact ⟨fun h => congrArg _ (State.keyCommand_busy h _), fun h h0 => congrArg _ (State.keyCommand_slot0 h h0 _),
      fun h h0 => congrArg _ (State.keyCommand_begins h h0 _)⟩

end Sys2Proof.Machine
end

section
/-!
PROOFS. A FORK of a live sequence reads its source's entry twice, to learn its length and to take its extents (R136), and each
read takes read leases (R273). O12 gives the command one read alone.
-/

namespace Sys2Proof.Machine

/-- The items of a FORK of the first `m` tokens of `src`, the sequence `i`, and what the command reports (R136). -/
def Pix.forks (k : Pix) (b : List Byte) (d : PxDone) (i m : Nat) (src : Sequence) : Pix × PxDone :=
  let r := Pix.items (fun k n => (k.forkItem (getLe b (64 + 4 * n) 4) m src, 0)) (getLe b 2 2 - d.done) d.done k d
  (r.1, { r.2 with result := m, aux := i })

section
variable {k : Pix} {b : List Byte} {i : Nat} {r : Pix × Sequence} (d : PxDone) (hopc : getLe b 0 1 = 3)
  (hmode : (getLe b 36 4).testBit 31 = true) (hid : bits (getLe b 36 4) 0 20 = i) (hread : k.seq i = r) (hlive : r.2.v = true)
include hopc hmode hid hread hlive

/-- The items of a FORK of a live sequence begin where the second read of its entry has ended. -/
theorem Pix.body_fork_of_live {t : Pix × Sequence} (hagain : r.1.seq i = t) (hon : t.1.on = true) :
    k.body b d = t.1.forks b d i r.2.len t.2 := by
  unfold Pix.body
  simp [hopc, hmode, hid, hread, hlive, hagain, hon, Pix.forks]

/-- O12 has them begin where the first read has ended. -/
theorem Pix.body_fork_of_prefixIndexServes (h : Obligations.PrefixIndexServes) (hon : r.1.on = true) :
    k.body b d = r.1.forks b d i r.2.len r.2 := by
  obtain ⟨-, -, hcommands⟩ := h
  obtain ⟨-, -, -, -, -, hfork, -⟩ := hcommands k b d 3 0 false 0
  subst hid
  exact hfork hopc hmode r.2 r.1 hread hon hlive

end

/-! ### A FORK whose two reads differ -/

/-- A pool that is READY, of 1,024 pages, 16 sequences and 1,024 nodes, with its tables in object 0. -/
def forkPool : PxPool := { PxPool.init with cfg := 1 + 10 * 2 ^ 5 + 4 * 2 ^ 10 + 10 * 2 ^ 15, cfgerr := false, ready := true }

/-- Sequence 0 of the pool is live and empty. Of the three lines of its entry (0x4080 to 0x4082) the second alone has been
written since time 0, at time 5: the first read's lease on 0x4080 ends at 0, and the second's, which begins at 5, ends there. -/
def forkState : State :=
  let s : State := { State.reset with
    spaceCache := [⟨0, 0, 0, 0, 0, 0x30000, 1⟩]
    tlb := [⟨.last 0, 0, 0, 0x100000, 65536, 0x100000, 0, true, true, 0⟩] }
  let t := (s.memWrite 0 0x30000 (bytesOf 8 0x100000 ++ bytesOf 8 0x100000 ++ bytesOf 2 1)).memWrite 0 0x102000
    (bytesOf 4 0 ++ bytesOf 4 128)
  { t with mem := { t.mem with ts := [(0x4081, (5, 0))] } }

/-- The engine before it, and after one and two reads of sequence 0. -/
def forkBegun : Pix := ⟨forkState.engine (.pix 16) 0 0, 0, forkPool, [], [], none⟩
@[inherit_doc forkBegun] def forkOnce : Pix × Sequence := forkBegun.seq 0
@[inherit_doc forkBegun] def forkTwice : Pix × Sequence := forkOnce.1.seq 0

/-- FORK with MODE 1 of sequence 0 into sequence 1 (R136), and nothing done yet. -/
def forkBlock : List Byte :=
  [3, 0] ++ bytesOf 2 1 ++ List.replicate 32 0 ++ bytesOf 4 (2 ^ 31) ++ List.replicate 24 0 ++ bytesOf 4 1
@[inherit_doc forkBlock] def forkDone : PxDone := ⟨0, 0, 0⟩

theorem forkBlock_fields : getLe forkBlock 0 1 = 3 ∧ (getLe forkBlock 36 4).testBit 31 = true ∧
    bits (getLe forkBlock 36 4) 0 20 = 0 := by decide +kernel

/-- The command's arguments and ids are in order, so `Pix.command` runs its body (R133). -/
theorem forkBlock_command : forkBegun.command forkBlock 3 68 false 0 forkDone = forkBegun.body forkBlock forkDone := by
  have hargs : pxArgsOk forkBlock 68 false = true := by decide +kernel
  have hids : pxIds forkBlock = [0, 1] := by decide +kernel
  have hpool : forkBegun.x.ready = true ∧ forkBegun.x.space = 0 ∧ forkBegun.x.nseq = 16 := by decide +kernel
  obtain ⟨hready, hspace, hnseq⟩ := hpool
  obtain ⟨hopc, -, -⟩ := forkBlock_fields
  simp [Pix.command, hopc, hargs, hids, hready, hspace, hnseq]

theorem forkOnce_live : forkOnce.1.on = true ∧ forkOnce.2.v = true ∧ forkOnce.2.len = 0 ∧ forkTwice.1.on = true := by decide +kernel

theorem forkOnce_lease : (forkOnce.1.forks forkBlock forkDone 0 0 forkOnce.2).1.e.s.mem.stamp 0x4080 = (0, 0) := by decide +kernel

theorem forkTwice_lease : (forkTwice.1.forks forkBlock forkDone 0 0 forkTwice.2).1.e.s.mem.stamp 0x4080 = (0, 5) := by decide +kernel

/-- Refutes O12: its clause on FORK with MODE 1 has the items run on the state that the first read of the source's entry leaves,
and the command reads the entry twice. Where a later line of the entry was written after the first, the second read's lease on the
first line ends later (R273), as in `forkState`; the command there passes every check (`forkBlock_command`). -/
theorem not_prefixIndexServes : ¬ Obligations.PrefixIndexServes := by
  intro h
  obtain ⟨honce, hlive, hlen, htwice⟩ := forkOnce_live
  obtain ⟨hopc, hmode, hid⟩ := forkBlock_fields
  have hclaimed : forkBegun.body forkBlock forkDone = forkOnce.1.forks forkBlock forkDone 0 forkOnce.2.len forkOnce.2 :=
    Pix.body_fork_of_prefixIndexServes (r := forkOnce) forkDone hopc hmode hid rfl hlive h honce
  have hruns : forkBegun.body forkBlock forkDone = forkTwice.1.forks forkBlock forkDone 0 forkOnce.2.len forkTwice.2 :=
    Pix.body_fork_of_live (r := forkOnce) (t := forkTwice) forkDone hopc hmode hid rfl hlive rfl htwice
  rw [hlen] at hclaimed hruns
  have hlease : ((0, 0) : Nat × Nat) = (0, 5) :=
    calc ((0, 0) : Nat × Nat)
        = (forkBegun.body forkBlock forkDone).1.e.s.mem.stamp 0x4080 := by rw [hclaimed, forkOnce_lease]
      _ = (0, 5) := by rw [hruns, forkTwice_lease]
  exact absurd hlease (by decide)

end Sys2Proof.Machine
end

section
/-!
PROOFS. The placement of gangs (R156 to R159, R161): what each event of a placement makes of the state that it finds.
-/

namespace Sys2Proof.Machine

/-! ### The die with the most FREE cores -/

/-- A walk through a list that keeps the greatest value seen ends at a member with the greatest of all. -/
theorem foldl_greatest (f : Nat → Nat) (l : List Nat) (b : Nat) :
    let m := l.foldl (fun b d => if f b < f d then d else b) b
    m ∈ b :: l ∧ ∀ e ∈ b :: l, f e ≤ f m := by
  induction l generalizing b with
  | nil => simp
  | cons d l ih =>
    obtain ⟨hmem, hmax⟩ := ih (if f b < f d then d else b)
    refine ⟨?_, fun e he => ?_⟩
    · rw [List.foldl_cons]
      rcases List.mem_cons.mp hmem with hkept | hlater
      · rw [hkept]
        split <;> simp
      · exact List.mem_cons_of_mem _ (List.mem_cons_of_mem _ hlater)
    · rw [List.foldl_cons]
      have hkept := hmax _ List.mem_cons_self
      simp only [List.mem_cons] at he
      rcases he with rfl | rfl | he
      · refine le_trans ?_ hkept
        split <;> omega
      · refine le_trans ?_ hkept
        split <;> omega
      · exact hmax e (List.mem_cons_of_mem _ he)

/-- The die to which a READY task goes (R158). -/
def State.roomiest (s : State) : Nat := [1, 2, 3].foldl (fun b d => if s.freeCores b < s.freeCores d then d else b) 0

theorem State.roomiest_lt (s : State) : s.roomiest < 4 := by
  have hmem : s.roomiest ∈ [0, 1, 2, 3] := (foldl_greatest s.freeCores [1, 2, 3] 0).1
  simp only [List.mem_cons, List.not_mem_nil, or_false] at hmem
  omega

theorem State.freeCores_le_roomiest (s : State) {e : Nat} (he : e < 4) : s.freeCores e ≤ s.freeCores s.roomiest :=
  (foldl_greatest s.freeCores [1, 2, 3] 0).2 e (by simp only [List.mem_cons, List.not_mem_nil, or_false]; omega)

/-! ### The sets of a placement -/

/-- A change of one task, as every TASKID sees it. -/
theorem State.task_modTask {s : State} {f : Task → Task} (hf : ∀ t, (f t).rcd.task = t.rcd.task) (id m : Nat) :
    (s.modTask id f).task m = (s.task m).map (fun t => if m = id then f t else t) := by
  by_cases h : m = id
  · subst h
    simp [State.task_modTask_same hf]
  · simp [State.task_modTask_other hf h, h]

/-- The kept set of a waiter serves it while each owner of it has been asked to stop (R161). -/
theorem State.keeps_iff (s : State) (w : Task) : s.keeps w = true ↔
    ∃ kept, w.onto = some kept ∧ ∀ v ∈ s.ownersOf kept, v.stopAt ≠ none ∨ v.cut ≠ none := by
  unfold State.keeps
  cases w.onto with
  | none => simp
  | some kept => simp [Option.isSome_iff_ne_none]

/-- Whether a kept set serves depends on the stop requests of its owners alone. -/
theorem State.keeps_modTask {s : State} {f : Task → Task} (hf : ∀ t, (f t).rcd.task = t.rcd.task)
    (hstop : ∀ t, (f t).stopAt = t.stopAt) (hcut : ∀ t, (f t).cut = t.cut) (n : Nat) (w : Task) :
    (s.modTask n f).keeps w = s.keeps w := by
  have howners : ∀ set, ((s.modTask n f).ownersOf set).all (fun v => v.stopAt.isSome || v.cut.isSome) =
      (s.ownersOf set).all (fun v => v.stopAt.isSome || v.cut.isSome) := by
    intro set
    change (List.filterMap _ (runsOf (set.filterMap fun c => (s.core c).resv.owner))).all _ = _
    unfold State.ownersOf
    rw [List.all_filterMap, List.all_filterMap]
    refine congrArg (List.all _) (funext fun m => ?_)
    rw [State.task_modTask hf]
    cases s.task m with
    | none => rfl
    | some v =>
      by_cases hm : m = n
      · simp [hm, hstop, hcut]
      · simp [hm]
  unfold State.keeps
  split
  · exact howners _
  · rfl

/-- An agent has a placement in hand, or takes it up now: it has room, and no other that it has yet to pick goes before (R158). -/
def State.takesUp (s : State) (t : Task) : Prop := t.picked = true ∨ (s.placing t.die < 4 ∧
  ∀ u ∈ s.tasks, u.die = t.die → u.place = .select → u.picked = false → s.before u t = false)

/-- The set that a placement chooses (R158): the one kept for it, else the first open one. -/
def State.openSet (s : State) (n : Nat) (t : Task) : Option (List Nat) :=
  (t.onto.toList ++ t.sets).find? (fun set => set.all (fun c => s.openTo n c && !s.promised n c))

/-- The state in which a placement waits for a set (R161). -/
def State.waitsFor (s : State) (n : Nat) : State := s.modTask n (fun t => { t with place := .wait })

theorem State.waitsFor_keeps (s : State) (n : Nat) (w : Task) : (s.waitsFor n).keeps w = s.keeps w :=
  State.keeps_modTask (s := s) (f := fun t => { t with place := .wait }) (fun _ => rfl) (fun _ => rfl) (fun _ => rfl) n w

/-- A placement that finds no open set waits, and asks the gangs of a victim set to stop unless its kept set serves it (R161). -/
def State.looksForRoom (s : State) (n : Nat) (t : Task) : State :=
  if s.keeps t then s.waitsFor n
  else ((s.waitsFor n).victimSet t true []).elim (s.waitsFor n) ((s.waitsFor n).askStop n)

/-- The state in which a placement asks the cores of a set (R157). -/
def State.asks (s : State) (n : Nat) (set : List Nat) : State := s.modTask n (fun t =>
  { t with place := .phase1, cores := set, asked := set, granted := [], refused := false })

section
variable {s : State} {n : Nat} {t : Task} (ht : s.task n = some t)
include ht

/-! ### Assignment and selection -/

theorem exec_taskPlacementAssign_ready (hs : t.state = .ready) (hp : t.place = .none) :
    exec (.taskPlacementAssign n) s = .next (s.modTask n (fun t => { t with place := .select, die := s.roomiest })) := by
  dsimp only [exec, execTaskPlacementAssign]
  rw [ht]
  exact if_neg (by simp [hs, hp])

theorem exec_taskPlacementAssign_other (h : t.state ≠ .ready ∨ t.place ≠ .none) : exec (.taskPlacementAssign n) s = .next s := by
  dsimp only [exec, execTaskPlacementAssign]
  rw [ht]
  exact if_pos (by simpa using h)

/-- PLACEMENT_SELECT of a placement that its agent has in hand (R158, R161). -/
theorem exec_placementSelect_open (hp : t.place = .select ∨ t.place = .wait) (hup : s.takesUp t) :
    exec (.placementSelect n) s = .next ((s.openSet n t).elim (s.looksForRoom n t) (s.asks n)) := by
  have hguard : (!t.picked && (4 ≤ s.placing t.die ||
      s.tasks.any (fun u => u.die = t.die && u.place = .select && !u.picked && s.before u t))) = false := by
    rcases hup with hpicked | ⟨hroom, hfirst⟩
    · simp [hpicked]
    · have hany : s.tasks.any (fun u => u.die = t.die && u.place = .select && !u.picked && s.before u t) = false := by
        simpa [and_imp] using hfirst
      simp [hroom, hany]
  unfold State.looksForRoom
  rw [← s.waitsFor_keeps n t]
  dsimp only [exec, execPlacementSelect]
  rw [ht]
  rcases hp with hp | hp
  all_goals
    simp only [hp]
    rw [if_neg (ne_true_of_eq_false hguard)]
    unfold State.openSet
    split
    case h_1 h => rw [h]; rfl
    case h_2 h =>
      rw [h]
      cases hk : (s.waitsFor n).keeps t <;> cases hv : (s.waitsFor n).victimSet t true [] <;> dsimp only [State.waitsFor] at hk hv ⊢
      all_goals
        rw [hk, hv]
        rfl

/-- PLACEMENT_SELECT of a placement that has its hold slot and every core of its set (R159). -/
theorem exec_placementSelect_hold (hp : t.place = .hold) (hc : ∀ c ∈ t.cores, (s.core c).resv = .held n) :
    exec (.placementSelect n) s = .next (s.asks n t.cores) := by
  dsimp only [exec, execPlacementSelect]
  rw [ht]
  simp only [hp]
  exact if_pos (by simpa using hc)

/-! ### Reservation and commit -/

section
variable {c : Nat} {rest : List Nat} (hp : t.place = .phase1) (ha : t.asked = c :: rest)
include hp ha

/-- RESERVE_REQUEST of a core that is FREE or HELD for the task (R157). -/
theorem exec_reserveRequest_granted (ho : s.openTo n c = true) :
    exec (.reserveRequest c n) s = .next ((s.modTask n (fun u => { u with
      asked := rest
      granted := u.granted ++ [c]
      refused := u.refused })).modCore c (fun k => { k with resv := .reserved n s.tick (k.resv = .held n) })) := by
  dsimp only [exec, execReserveRequest]
  rw [ht]
  simp [hp, ha, ho]

/-- RESERVE_REQUEST of any other core (R157). -/
theorem exec_reserveRequest_refused (ho : s.openTo n c = false) :
    exec (.reserveRequest c n) s = .next (s.modTask n (fun u => { u with
      asked := rest
      granted := u.granted
      refused := true })) := by
  dsimp only [exec, execReserveRequest]
  rw [ht]
  simp [hp, ha, ho]

end

end

/-- The state in which a gang owns its cores and has given up its hold slot (R158, R159). -/
def State.owns (s : State) (n : Nat) (cs : List Nat) : State :=
  cs.foldl (fun s c => s.modCore c (fun k => { k with resv := .owned n })) (s.dropHold n)

theorem State.owns_eq (s : State) (n : Nat) (cs : List Nat) : ∃ cores, s.owns n cs = { s.dropHold n with cores := cores } := by
  unfold State.owns
  generalize s.dropHold n = u
  induction cs generalizing u with
  | nil => exact ⟨_, rfl⟩
  | cons c cs ih => exact ih _

theorem State.owns_resv (s : State) (n : Nat) {cs : List Nat} {c : Nat} (hc : c ∈ cs) : ((s.owns n cs).core c).resv = .owned n := by
  suffices h : ∀ u : State, c ∈ cs ∨ (u.core c).resv = .owned n →
      ((cs.foldl (fun s c => s.modCore c (fun k => { k with resv := .owned n })) u).core c).resv = .owned n from h _ (.inl hc)
  clear hc
  induction cs with
  | nil => exact fun u h => h.resolve_left List.not_mem_nil
  | cons d cs ih =>
    intro u h
    refine ih _ ?_
    by_cases hd : c = d
    · subst hd
      exact .inr (by simp)
    · rw [State.core_modCore_other _ _ hd]
      exact h.imp_left fun hm => (List.mem_cons.mp hm).resolve_left hd

/-- A task that commits with images to load (R158, R164), and one that starts (R153, R158). -/
def Task.reloads (t : Task) : Task := { t with place := .commit, fails := 0, onto := none }
@[inherit_doc Task.reloads] def Task.starts (t : Task) (tick : Nat) : Task := { t with
  place := .commit
  state := .running
  fails := 0
  stopAt := none
  onto := none
  granted := []
  ranAt := tick }

/-- Whether a core stands reserved for a task (R157). -/
def State.reservedFor (s : State) (n c : Nat) : Bool := match (s.core c).resv with
  | .reserved u _ _ => decide (u = n)
  | _ => false

theorem State.reservedFor_of_resv {s : State} {n c since : Nat} {held : Bool} (h : (s.core c).resv = .reserved n since held) :
    s.reservedFor n c = true := by
  unfold State.reservedFor
  rw [h]
  exact decide_eq_true rfl

section
variable {s : State} {n : Nat} {t : Task} (ht : s.task n = some t) (hp : t.place = .phase1) (ha : t.asked = [])
include ht hp ha

/-- PHASE1_RESULT once every core has answered (R158). -/
theorem exec_phase1Result_answered : exec (.phase1Result n) s =
    if t.refused || !t.cores.all (s.reservedFor n) then .next (s.abortPlacement t)
    else if t.state = .swapped then .next ((s.owns n t.cores).modTask n Task.reloads)
    else .next (((s.owns n t.cores).modTask n (fun u => u.starts (s.owns n t.cores).tick)).startGang
      { t with place := .commit, state := .running }) := by
  dsimp only [exec, execPhase1Result]
  rw [ht]
  dsimp only
  split
  case h_1 =>
    rfl
  case h_2 h => exact absurd (hp.symm.trans h) (by decide)
  case h_3 h => exact absurd ha (h hp)

theorem exec_phase1Result_refused (hr : t.refused = true) : exec (.phase1Result n) s = .next (s.abortPlacement t) := by
  rw [exec_phase1Result_answered ht hp ha]
  exact if_pos (by simp [hr])

variable (hr : t.refused = false) (hours : ∀ c ∈ t.cores, ∃ since held, (s.core c).resv = .reserved n since held)
include hr hours

/-- PHASE1_RESULT where every core granted and still stands reserved (R158). -/
theorem exec_phase1Result_granted : exec (.phase1Result n) s =
    if t.state = .swapped then .next ((s.owns n t.cores).modTask n Task.reloads)
    else .next (((s.owns n t.cores).modTask n (fun u => u.starts (s.owns n t.cores).tick)).startGang
      { t with place := .commit, state := .running }) := by
  have hall : t.cores.all (s.reservedFor n) = true := List.all_eq_true.mpr fun c hc => by
    obtain ⟨since, held, hresv⟩ := hours c hc
    exact State.reservedFor_of_resv hresv
  rw [exec_phase1Result_answered ht hp ha]
  exact if_neg (by simp [hr, hall])

end

/-! ### Times that end, and hold slots -/

/-- RESERVATION_TIMEOUT: a reservation lasts 10 microseconds (R157). -/
theorem exec_reservationTimeout_reserved {s : State} {n c since : Nat} {held : Bool} (h : (s.core c).resv = .reserved n since held) :
    exec (.reservationTimeout c) s = .next (if since + 10000 ≤ s.tick then s.release n c else s) := by
  dsimp only [exec, execReservationTimeout]
  rw [h]
  exact (apply_ite Host.Outcome.next ..).symm

theorem exec_placementBackoffExpiry_due {s : State} {n d : Nat} {t : Task} (ht : s.task n = some t) (hp : t.place = .backoff)
    (hd : t.stopAt = some d) (hdue : d ≤ s.tick) :
    exec (.placementBackoffExpiry n) s = .next (s.modTask n (fun t => { t with place := .select, stopAt := none })) := by
  dsimp only [exec, execPlacementBackoffExpiry]
  rw [ht]
  simp only [hp, hd]
  exact if_neg (not_lt.mpr hdue)

theorem exec_holdSlotGrant_free {s : State} {die : Nat} {t : Task} (hfree : s.holdTaken die = false)
    (ht : (s.holdWaiters die).find? (fun t => (s.holdWaiters die).all (fun u => !s.before u t)) = some t) :
    exec (.holdSlotGrant die) s = .next (s.claimHold t) := by
  dsimp only [exec, execHoldSlotGrant]
  rw [if_neg (ne_true_of_eq_false hfree), ht]

theorem exec_holdSlotGrant_taken {s : State} {die : Nat} (h : s.holdTaken die = true) : exec (.holdSlotGrant die) s = .next s :=
  if_pos h

/-- QUANTUM_BOUNDARY of a die whose quantum is over (R161). -/
theorem exec_quantumBoundary_over {s : State} {die : Nat} (hd : die < 4) (hq : s.tick / s.quantumTicks ≠ SMap.get 0 s.quantum die) :
    let u : State := { s with quantum := SMap.set 0 s.quantum die (s.tick / s.quantumTicks) }
    exec (.quantumBoundary die) s = .next ((u.inOrder (u.waiters die)).foldl State.serve (u, [])).1 :=
  if_neg (by simp [hd, hq])

/-- Settles O52: each event of a placement by the place, the cores and the clock that it finds. -/
theorem gangsArePlaced : Obligations.GangsArePlaced := by
  intro s n t ht
  refine ⟨fun hs hp => ⟨s.roomiest, s.roomiest_lt, fun e => s.freeCores_le_roomiest, exec_taskPlacementAssign_ready ht hs hp⟩,
    exec_taskPlacementAssign_other ht, fun set hp hup hset => ?chosen, fun set hp hup hset => ?waits, exec_placementSelect_hold ht,
    fun c rest hp ha => ⟨exec_reserveRequest_granted ht hp ha, exec_reserveRequest_refused ht hp ha⟩, exec_phase1Result_refused ht,
    fun hp ha hr hs hours => ?swapped, fun hp ha hr hs hours => ?starts, fun c since held h => ?reserved,
    fun d => exec_placementBackoffExpiry_due ht, fun die u => exec_holdSlotGrant_free, fun die => exec_holdSlotGrant_taken,
    fun die => exec_quantumBoundary_over⟩
  case chosen =>
    rw [exec_placementSelect_open ht hp hup, show s.openSet n t = some set from hset]
    rfl
  case waits =>
    rw [exec_placementSelect_open ht hp hup, show s.openSet n t = none from hset, Option.elim_none]
    unfold State.looksForRoom
    refine ⟨fun hserves => ?_, fun hserves hvictim => ?_, fun hvictim => ?_⟩
    · rw [if_pos ((s.keeps_iff t).mpr hserves)]
      rfl
    · rw [if_neg (mt (s.keeps_iff t).mp hserves), show (s.waitsFor n).victimSet t true [] = some set from hvictim]
      rfl
    · rw [show (s.waitsFor n).victimSet t true [] = none from hvictim]
      exact congrArg _ (ite_self _)
  case swapped =>
    obtain ⟨cores, e⟩ := s.owns_eq n t.cores
    refine ⟨_, (exec_phase1Result_granted ht hp ha hr hours).trans (if_pos hs), fun c => s.owns_resv n, ?_, t.reloads, ?_, rfl, hs⟩
    · rw [e]
      rfl
    · rw [State.task_modTask_same (f := Task.reloads) (fun _ => rfl), e]
      exact congrArg (Option.map _) ht
  case starts =>
    obtain ⟨cores, e⟩ := s.owns_eq n t.cores
    refine ⟨_, (exec_phase1Result_granted ht hp ha hr hours).trans (if_neg hs), fun c => s.owns_resv n, ?_, ?_⟩
    · rw [e]
      rfl
    · rw [e]
      exact fun h hh => of_decide_eq_true (List.mem_filter.mp hh).2
  case reserved =>
    rw [exec_reservationTimeout_reserved h]
    exact ⟨fun hdue => congrArg _ (if_pos hdue), fun hnot => congrArg _ (if_neg (not_le.mpr hnot))⟩

end Sys2Proof.Machine
end

section
/-!
PROOFS. Stopping a gang: the reports, the cut, and a swap that is abandoned (R163, R303, R304).
-/

namespace Sys2Proof.Machine

/-! ### A gang that is asked to stop -/

/-- Contexts that change one after another change cores alone. -/
theorem State.modCtxs_eq (l : List (Nat × Nat)) (f : Ctx → Ctx) (s : State) :
    ∃ cores, l.foldl (fun s p => s.modCtx p.1 p.2 f) s = { s with cores := cores } := by
  induction l generalizing s with
  | nil => exact ⟨_, rfl⟩
  | cons p l ih => exact ih _

/-- A change of every task that leaves the TASKIDs alone. -/
theorem State.task_mapTasks (s : State) {f : Task → Task} (hf : ∀ t, (f t).rcd.task = t.rcd.task) (m : Nat) :
    ({ s with tasks := s.tasks.map f } : State).task m = (s.task m).map f := by
  unfold State.task
  rw [List.find?_map]
  refine congrArg (Option.map f) (congrArg (s.tasks.find? ·) (funext fun t => ?_))
  simp [hf]

/-- A waiter whose kept set holds a core of a gang that runs on gives the set up (R161, R163). -/
def Task.losesKept (ours : List Nat) (t : Task) : Task :=
  if (t.onto.getD []).any (fun c => ours.contains c) then { t with onto := none } else t

theorem Task.losesKept_rcd (ours : List Nat) (t : Task) : (t.losesKept ours).rcd = t.rcd := by
  unfold Task.losesKept
  split <;> rfl

/-- A gang whose swap is abandoned (R163). -/
def Task.runsOn (t : Task) (exempt : Nat) : Task := { t with cut := none, stopAt := none, exempt := exempt }

/-- What a swap that is abandoned changes: cores, the table of tasks and UNCUT (R163). -/
theorem State.abandonSwap_eq (s : State) (n : Nat) : ∃ cores ours, s.abandonSwap n =
    { ({ s with
        cores := cores
        tasks := s.tasks.map (Task.losesKept ours) } : State).modTask n (fun t => t.runsOn (s.tick + 8 * s.quantumTicks)) with
      wd := { s.wd with uncut := s.wd.uncut + 1 } } := by
  obtain ⟨cores, e⟩ := State.modCtxs_eq (s.gang n) Ctx.resume s
  refine ⟨cores, (({ s with cores := cores } : State).gang n).map (·.1), ?_⟩
  unfold State.abandonSwap
  rw [e]
  rfl

/-- A gang whose swap is abandoned is no victim for 8 quanta (R163). -/
theorem State.abandonSwap_exempts {s : State} {n : Nat} {t : Task} (ht : s.task n = some t) :
    ∃ v, (s.abandonSwap n).task n = some v ∧ v.exempt = s.tick + 8 * s.quantumTicks ∧ v.cut = none ∧ v.stopAt = none := by
  obtain ⟨cores, ours, e⟩ := s.abandonSwap_eq n
  have htask : (s.abandonSwap n).task n = some ((t.losesKept ours).runsOn (s.tick + 8 * s.quantumTicks)) := by
    rw [e]
    refine (State.task_modTask_same (f := fun t => t.runsOn (s.tick + 8 * s.quantumTicks)) (fun _ => rfl) n).trans ?_
    rw [State.task_mapTasks { s with cores := cores } (fun t => congrArg _ (t.losesKept_rcd ours)) n]
    exact congrArg (fun o => Option.map _ (Option.map _ o)) ht
  exact ⟨_, htask, rfl, rfl, rfl⟩

theorem State.abandonSwap_uncut (s : State) (n : Nat) : (s.abandonSwap n).wd.uncut = s.wd.uncut + 1 := by
  obtain ⟨cores, ours, e⟩ := s.abandonSwap_eq n
  rw [e]

/-- The cut of a gang: the greatest report of its contexts (R303). -/
def State.greatestReport (s : State) (n : Nat) : Nat := ((s.gang n).map (fun p => (s.ctx p.1 p.2).report.getD 0)).foldl max 0

/-- Whether a live context of a gang has committed a cut number above the cut (R304). -/
def State.pastCut (s : State) (n : Nat) : Bool :=
  (s.liveCtxs n).any (fun p => (s.ctx p.1 p.2).lastCut.any (fun m => s.greatestReport n < m))

theorem State.pastCut_iff (s : State) (n : Nat) : s.pastCut n = true ↔
    ∃ p ∈ s.liveCtxs n, ∃ m, (s.ctx p.1 p.2).lastCut = some m ∧ s.greatestReport n < m := by
  simp [State.pastCut, Option.any_eq_true]

section
variable {s : State} {n : Nat} {t : Task} (ht : s.task n = some t)
include ht

/-- STOP_REQUEST of a gang that runs (R303). -/
theorem exec_stopRequest_reports (hs : t.state = .running) (hp : t.place = .none) (hstop : t.stopAt ≠ none) (hcut : t.cut = none)
    (hnew : ∀ p ∈ s.liveCtxs n, (s.ctx p.1 p.2).report = none) : exec (.stopRequest n) s = .next ((s.liveCtxs n).foldl
      (fun s p => s.modCtx p.1 p.2 (fun x => { x with report := some ((fld x.sr.lastcut 0 32 + 1) % 2 ^ 32) })) s) := by
  have hany : (s.liveCtxs n).any (fun p => (s.ctx p.1 p.2).report.isSome) = false :=
    List.any_eq_false.mpr fun p hp => by simp [hnew p hp]
  dsimp only [exec, execStopRequest]
  rw [ht]
  exact if_neg (by simp [hs, hp, hstop, hcut, hany])

/-- STOP_CUT_BROADCAST once every live context has reported (R303, R304). -/
theorem exec_stopCutBroadcast_reported (hstop : t.stopAt ≠ none) (hcut : t.cut = none)
    (hall : ∀ p ∈ s.liveCtxs n, (s.ctx p.1 p.2).report ≠ none) : exec (.stopCutBroadcast n) s =
      if s.pastCut n then .next (s.abandonSwap n)
      else .next ((s.liveCtxs n).foldl (fun u p => u.modCtx p.1 p.2 (fun x => x.meetCut (s.greatestReport n)))
        (s.modTask n (fun t => { t with cut := some (s.greatestReport n) }))) := by
  have hany : (s.liveCtxs n).any (fun p => (s.ctx p.1 p.2).report.isNone) = false :=
    List.any_eq_false.mpr fun p hp => by simp [hall p hp]
  dsimp only [exec, execStopCutBroadcast]
  rw [ht]
  exact if_neg (by simp [hstop, hcut, hany])

/-- STOP_TIMEOUT of a gang that has not stopped within its time (R163). -/
theorem exec_stopTimeout_late {d : Nat} (hs : t.state = .running) (hd : t.stopAt = some d) (hdue : d ≤ s.tick)
    (hlate : t.cut = none ∨ ∃ p ∈ s.liveCtxs n, (s.ctx p.1 p.2).atBoundary = false) :
    exec (.stopTimeout n) s = .next (s.abandonSwap n) := by
  have hnot : (t.cut.isSome && (s.liveCtxs n).all (fun p => (s.ctx p.1 p.2).atBoundary)) = false := by
    rcases hlate with hcut | hctx
    · simp [hcut]
    · rw [show (s.liveCtxs n).all (fun p => (s.ctx p.1 p.2).atBoundary) = false from by simpa using hctx, Bool.and_false]
  dsimp only [exec, execStopTimeout]
  rw [ht]
  simp only [hs, hd]
  exact if_neg (by simp [hnot, hdue])

end

theorem Ctx.meetCut_free {x : Ctx} (h : x.held = false) (c : Nat) : x.meetCut c = x := if_pos (by simp [h])

theorem Ctx.meetCut_stops {x : Ctx} {c : Nat} (h : x.held = true) (hc : x.lastCut = some c) (hm : x.mayStop = true) :
    x.meetCut c = { x with stopped := true } := by simp [Ctx.meetCut, h, hc, hm]

theorem Ctx.meetCut_releases {x : Ctx} {c : Nat} (h : x.held = true) (hc : x.lastCut ≠ some c ∨ x.mayStop = false) :
    x.meetCut c = x.release := by
  have hnot : (x.lastCut = some c && x.mayStop) = false := by rcases hc with hc | hc <;> simp [hc]
  unfold Ctx.meetCut
  rw [if_neg (by simp [h]), if_neg (ne_true_of_eq_false hnot)]

end Sys2Proof.Machine
end

section
/-!
PROOFS. Saving a gang in swap slots and loading it again (R163, R164, R197).
-/

namespace Sys2Proof.Machine

/-! ### Swap slots -/

/-- A write by a party without a clock leaves the bytes it does not store, as its key index sees them (R121). -/
theorem State.memPut_byteUnder_unwritten (s : State) {key : BitVec 9} {pa : Nat} {bs : List Byte} {a : Nat}
    (hk : s.keys.empty key = false) (ha : a ∉ written pa bs (fun _ => true)) :
    (s.memPut key pa bs).byteUnder key a = s.byteUnder key a := by
  obtain ⟨⟨ts, hts⟩, -⟩ := Memory.stampAll_takesStamps Memory.storeAt_takesStamps (linesOf pa bs.length) (s.memWrite key pa bs).mem 0
  have hmem : (s.memPut key pa bs).mem = { (s.memWrite key pa bs).mem with ts := ts } := hts
  have hkeys : (s.memPut key pa bs).keys = (s.memWrite key pa bs).keys := rfl
  calc (s.memPut key pa bs).byteUnder key a
      = (s.memWrite key pa bs).byteUnder key a := State.byteUnder_congr hkeys (by rw [hmem]; rfl) (fun b _ => by rw [hmem]; rfl) key
    _ = s.byteUnder key a := by
        unfold State.memWrite
        cases hx : s.cxlLost pa with
        | true => rw [State.memWriteEn_dropped bs _ _ (.inr hx)]
        | false => exact State.memWriteEn_byteUnder_unwritten bs _ _ hk hx ha

theorem State.memPut_byteUnder_outside (s : State) {key : BitVec 9} {pa n : Nat} {bs : List Byte} {a : Nat} (hk : s.keys.empty key = false)
    (hn : bs.length = n) (ha : a < pa ∨ pa + n ≤ a) : (s.memPut key pa bs).byteUnder key a = s.byteUnder key a := by
  refine s.memPut_byteUnder_unwritten hk fun hmem => ?_
  obtain ⟨i, hi, rfl⟩ := List.mem_map.mp hmem
  have hlt := List.mem_range.mp (List.mem_filter.mp hi).1
  omega

/-- The bytes of the image that is drawn next (R163). -/
def State.imageBytes (s : State) : List Byte := (List.range imageSize).map (fun i => Config.freeByte (Nat.pair s.fresh i))

theorem State.imageBytes_length (s : State) : s.imageBytes.length = imageSize := by
  rw [State.imageBytes, List.length_map, List.length_range]

theorem State.writeImage_eq (s : State) (slot : Nat) : ∃ mem,
    mem = (s.memPut 0 (s.wd.swbase.toNat + slot * imageSize) s.imageBytes).mem ∧
      s.writeImage slot = { s with mem := mem, fresh := s.fresh + 1 } := by
  refine ⟨_, rfl, ?_⟩
  change ({ s.memPut 0 (s.wd.swbase.toNat + slot * imageSize) s.imageBytes with fresh := s.fresh + 1 } : State) = _
  rw [s.memPut_eq]

/-- An image leaves every byte outside its slot as it reads (R163). -/
theorem State.writeImage_byteUnder (s : State) {slot a : Nat}
    (ha : a < s.wd.swbase.toNat + slot * 2 ^ 20 ∨ s.wd.swbase.toNat + slot * 2 ^ 20 + 2 ^ 20 ≤ a) :
    (s.writeImage slot).byteUnder 0 a = s.byteUnder 0 a := by
  have hempty : s.keys.empty 0 = false := by simp [Keys.empty]
  rw [← imageSize] at ha
  obtain ⟨mem, hmem, e⟩ := s.writeImage_eq slot
  have hmem' : (s.writeImage slot).mem = (s.memPut 0 (s.wd.swbase.toNat + slot * imageSize) s.imageBytes).mem :=
    (congrArg State.mem e).trans hmem
  have hkeys : (s.writeImage slot).keys = (s.memPut 0 (s.wd.swbase.toNat + slot * imageSize) s.imageBytes).keys := by
    rw [e, s.memPut_eq]
  calc (s.writeImage slot).byteUnder 0 a
      = (s.memPut 0 (s.wd.swbase.toNat + slot * imageSize) s.imageBytes).byteUnder 0 a :=
        State.byteUnder_congr hkeys (by rw [hmem']) (fun b _ => by rw [hmem']) 0
    _ = s.byteUnder 0 a := s.memPut_byteUnder_outside hempty s.imageBytes_length ha

theorem State.writeImages_eq (slots : List Nat) (s : State) :
    ∃ mem fresh, slots.foldl State.writeImage s = { s with mem := mem, fresh := fresh } := by
  induction slots generalizing s with
  | nil => exact ⟨_, _, rfl⟩
  | cons i slots ih =>
    obtain ⟨mem, -, e⟩ := s.writeImage_eq i
    obtain ⟨mem', fresh', e'⟩ := ih (s.writeImage i)
    exact ⟨mem', fresh', e'.trans (by rw [e])⟩

theorem State.writeImages_byteUnder {slots : List Nat} {s : State} {a : Nat}
    (ha : ∀ i ∈ slots, a < s.wd.swbase.toNat + i * 2 ^ 20 ∨ s.wd.swbase.toNat + i * 2 ^ 20 + 2 ^ 20 ≤ a) :
    (slots.foldl State.writeImage s).byteUnder 0 a = s.byteUnder 0 a := by
  induction slots generalizing s with
  | nil => rfl
  | cons i slots ih =>
    obtain ⟨mem, -, e⟩ := s.writeImage_eq i
    have hwd : (s.writeImage i).wd = s.wd := by rw [e]
    exact (ih (hwd ▸ fun j hj => ha j (List.mem_cons_of_mem _ hj))).trans (s.writeImage_byteUnder (ha i List.mem_cons_self))

/-! ### The clocks of a core -/

/-- A context's clock after `old` (R273). -/
def Ctx.keepClock (x old : Ctx) : Ctx := { x with pts := max x.pts old.pts }

/-- Contexts of a core that change one after another, each in a way that changes nothing when it is repeated. -/
theorem Core.setCtxs_ctx (g : Nat → Ctx → Ctx) (hg : ∀ k x, g k (g k x) = g k x) (ks : List Nat) (c : Core) (j : Nat) :
    (ks.foldl (fun c k => c.setCtx k (g k (c.ctx k))) c).ctx j = if j ∈ ks then g j (c.ctx j) else c.ctx j := by
  induction ks generalizing c with
  | nil => rfl
  | cons k ks ih =>
    rw [List.foldl_cons, ih]
    by_cases hj : j = k
    · subst hj
      simp [hg]
    · simp [Core.ctx_setCtx_other _ _ hj, hj]

theorem Core.keepClocks_ctx (c old : Core) {k : Nat} (hk : k < 4) : (c.keepClocks old).ctx k = (c.ctx k).keepClock (old.ctx k) := by
  have hmem : k ∈ [0, 1, 2, 3] := by
    simp only [List.mem_cons, List.not_mem_nil, or_false]
    omega
  refine (Core.setCtxs_ctx (fun k x => x.keepClock (old.ctx k)) (fun k x => ?_) [0, 1, 2, 3] c k).trans (if_pos hmem)
  simp [Ctx.keepClock]

theorem Core.vacated_ctx (c : Core) (r : Resv) {k : Nat} (hk : k < 4) : (c.vacated r).ctx k = { Ctx.init with pts := (c.ctx k).pts } := by
  unfold Core.vacated
  rw [Core.keepClocks_ctx _ _ hk]
  change Ctx.init.keepClock (c.ctx k) = _
  unfold Ctx.keepClock
  rw [show Ctx.init.pts = 0 from rfl, Nat.zero_max]

/-- A core that a saved gang leaves keeps its clocks and no more of its contexts (R163, R273). -/
theorem State.leave_vacated_ctx (cs : List Nat) (s : State) (c : Nat) {k : Nat} (hk : k < 4) :
    (s.leave cs Core.vacated).ctx c k = if c ∈ cs then { Ctx.init with pts := (s.ctx c k).pts } else s.ctx c k := by
  induction cs generalizing s with
  | nil => rfl
  | cons d cs ih =>
    obtain ⟨waits, walks, e⟩ := s.leave_cons d cs Core.vacated
    rw [e, ih, show ∀ u : State, ({ u with engWaits := waits, walks := walks } : State).ctx c k = u.ctx c k from fun _ => rfl]
    by_cases hd : c = d
    · subst hd
      have hctx : (s.modCore c (fun k => k.vacated (s.freed c))).ctx c k = { Ctx.init with pts := (s.ctx c k).pts } := by
        unfold State.ctx
        rw [State.core_modCore_same, Core.vacated_ctx _ _ hk]
      rw [hctx]
      simp
    · unfold State.ctx
      rw [State.core_modCore_other s _ hd]
      simp [hd]

/-! ### Saving a gang -/

/-- The image of a gang: its cores, and the slots that it takes (R163). -/
def State.imageOf (s : State) (n : Nat) (t : Task) : SwapImage :=
  ⟨n, t.cores.map (fun c => (c, (s.core c).saved)), s.freeSlots.take t.cores.length⟩

/-- A task whose gang is saved (R163). -/
def Task.swapsOut (t : Task) (tick : Nat) : Task := { t with
  state := .swapped
  place := .none
  cut := none
  stopAt := none
  readyAt := tick }

/-- The state in which a gang's image is in its slots, and its cores are still to come free (R163). -/
def State.imaged (s : State) (n : Nat) (t : Task) : State :=
  let u := (s.imageOf n t).slots.foldl State.writeImage s
  ({ u with
    swaps := u.swaps ++ [s.imageOf n t]
    wd := { u.wd with swapped := u.wd.swapped + 1 } } : State).modTask n (fun t => t.swapsOut u.tick)

/-- What saving a gang changes before its cores come free. -/
theorem State.imaged_eq (s : State) (n : Nat) (t : Task) : ∃ fresh wd tasks, s.imaged n t =
    { s with
      mem := ((s.imageOf n t).slots.foldl State.writeImage s).mem
      fresh := fresh
      swaps := s.swaps ++ [s.imageOf n t]
      wd := wd
      tasks := tasks } := by
  obtain ⟨mem, fresh, e⟩ := State.writeImages_eq (s.imageOf n t).slots s
  unfold State.imaged
  rw [e]
  exact ⟨_, _, _, rfl⟩

/-- A gang that is saved changes no byte outside its slots (R163). -/
theorem State.imaged_leave_byteUnder {s : State} {n : Nat} {t : Task} {a : Nat} (cs : List Nat) (f : Core → Resv → Core)
    (ha : ∀ i ∈ (s.imageOf n t).slots, a < s.wd.swbase.toNat + i * 2 ^ 20 ∨ s.wd.swbase.toNat + i * 2 ^ 20 + 2 ^ 20 ≤ a) :
    ((s.imaged n t).leave cs f).byteUnder 0 a = s.byteUnder 0 a := by
  obtain ⟨mem, fresh, ewrite⟩ := State.writeImages_eq (s.imageOf n t).slots s
  obtain ⟨fresh', wd, tasks, eimaged⟩ := s.imaged_eq n t
  obtain ⟨cores, waits, walks, eleave⟩ := State.leave_eq cs f (s.imaged n t)
  have hkeys : ((s.imaged n t).leave cs f).keys = ((s.imageOf n t).slots.foldl State.writeImage s).keys := by
    rw [eleave, eimaged, ewrite]
  have hmem : ((s.imaged n t).leave cs f).mem = ((s.imageOf n t).slots.foldl State.writeImage s).mem := by
    rw [eleave, eimaged]
  calc ((s.imaged n t).leave cs f).byteUnder 0 a
      = ((s.imageOf n t).slots.foldl State.writeImage s).byteUnder 0 a :=
        State.byteUnder_congr hkeys (by rw [hmem]) (fun b _ => by rw [hmem]) 0
    _ = s.byteUnder 0 a := State.writeImages_byteUnder ha

section
variable {s : State} {n : Nat} {t : Task} (ht : s.task n = some t) (hs : t.state = .running) (hcut : t.cut ≠ none)
  (hstop : ∀ p ∈ s.liveCtxs n, (s.ctx p.1 p.2).stopped = true)
include ht hs hcut hstop

theorem exec_swapOut_short (hlen : s.freeSlots.length < t.cores.length) : exec (.swapOut n) s = .next (s.abandonSwap n) := by
  have hall : (s.liveCtxs n).all (fun p => (s.ctx p.1 p.2).stopped) = true := List.all_eq_true.mpr hstop
  dsimp only [exec, execSwapOut]
  rw [ht]
  dsimp only
  rw [if_neg (by simp [hs, hcut, hall]), if_pos (by simp [hlen])]

/-- SWAP_OUT of a gang at rest, with a slot for each of its cores (R163). -/
theorem exec_swapOut_saves (hlen : t.cores.length ≤ s.freeSlots.length) (hlvl : ∀ p ∈ s.liveCtxs n, (s.ctx p.1 p.2).sr.xlvl = 0)
    (hrest : ∀ p ∈ s.gang n, (s.ctx p.1 p.2).atRest = true ∧ (s.ctx p.1 p.2).status ≠ .parked)
    (hjobs : ∀ j ∈ s.taskJobs t, j.kind.drains = false) :
    exec (.swapOut n) s = .next ((s.imaged n t).leave t.cores Core.vacated) := by
  have hall : (s.liveCtxs n).all (fun p => (s.ctx p.1 p.2).stopped) = true := List.all_eq_true.mpr hstop
  have hlevels : (s.liveCtxs n).any (fun p => (s.ctx p.1 p.2).sr.xlvl ≠ 0 && (s.ctx p.1 p.2).status ≠ .parked) = false :=
    List.any_eq_false.mpr fun p hp => by simp [hlvl p hp]
  have hgang : (s.gang n).all (fun p => (s.ctx p.1 p.2).atRest && (s.ctx p.1 p.2).status ≠ .parked) = true :=
    List.all_eq_true.mpr fun p hp => by simpa using hrest p hp
  have hdrained : (s.taskJobs t).any (fun j => j.kind.drains) = false :=
    List.any_eq_false.mpr fun j hj => by simp [hjobs j hj]
  dsimp only [exec, execSwapOut]
  rw [ht]
  dsimp only
  rw [if_neg (by simp [hs, hcut, hall]), if_neg (by rw [hlevels]; simpa using hlen), if_neg (by rw [hgang, hdrained]; decide)]
  rfl

end

/-! ### Loading a gang -/

/-- How a state goes on from another where neither memory nor an image changes, and no context's clock goes back (R273). -/
structure State.GoesOn (s u : State) : Prop where
  swaps : u.swaps = s.swaps
  mem : u.mem = s.mem
  clocks : ∀ c k, k < 4 → (s.ctx c k).pts ≤ (u.ctx c k).pts

theorem State.GoesOn.refl (s : State) : s.GoesOn s := ⟨rfl, rfl, fun _ _ _ => le_rfl⟩

theorem State.GoesOn.trans {s u v : State} (h : s.GoesOn u) (h' : u.GoesOn v) : s.GoesOn v :=
  ⟨h'.swaps.trans h.swaps, h'.mem.trans h.mem, fun c k hk => (h.clocks c k hk).trans (h'.clocks c k hk)⟩

theorem State.GoesOn.foldl {α : Type} {f : State → α → State} (hf : ∀ (u : State) (a : α), u.GoesOn (f u a)) (l : List α) (s : State) :
    s.GoesOn (l.foldl f s) := by
  induction l generalizing s with
  | nil => exact .refl s
  | cons a l ih => exact (hf s a).trans (ih _)

theorem State.GoesOn.modCore (s : State) (n : Nat) {f : Core → Core}
    (hf : ∀ k, k < 4 → ((s.core n).ctx k).pts ≤ ((f (s.core n)).ctx k).pts) : s.GoesOn (s.modCore n f) := by
  refine ⟨rfl, rfl, fun c k hk => ?_⟩
  unfold State.ctx
  by_cases hc : c = n
  · subst hc
    rw [State.core_modCore_same]
    exact hf k hk
  · rw [State.core_modCore_other s _ hc]

theorem State.GoesOn.modCtx (s : State) (n k : Nat) {f : Ctx → Ctx} (hf : ∀ x, x.pts ≤ (f x).pts) : s.GoesOn (s.modCtx n k f) := by
  change s.GoesOn (s.modCore n (fun c => c.setCtx k (f (c.ctx k))))
  refine .modCore s n fun j _ => ?_
  by_cases hj : j = k
  · subst hj
    rw [Core.ctx_setCtx_same]
    exact hf _
  · rw [Core.ctx_setCtx_other _ _ hj]

theorem State.GoesOn.send (s : State) (m : Msg) : s.GoesOn (s.send m) := ⟨rfl, rfl, fun _ _ _ => le_rfl⟩

theorem Ctx.pendCause_pts (x : Ctx) (c : Cause) (v : Word) : (x.pendCause c v).pts = x.pts := by
  unfold Ctx.pendCause
  split <;> rfl

theorem State.GoesOn.meet (s : State) (ci : Nat) (m : Msg) (j : Job) : s.GoesOn (s.meet ci m j) := by
  unfold State.meet
  dsimp only
  split
  case h_2 => exact .refl s
  split
  · refine State.GoesOn.trans (.modCtx s ci j.ctx fun x => ?_) (.send _ _)
    exact (x.pendCause_pts _ _).ge
  · refine State.GoesOn.trans (.modCtx s ci j.ctx fun x => ?_) (.send _ _)
    exact le_rfl

theorem State.GoesOn.offer (s : State) (ci : Nat) (m : Msg) : s.GoesOn (s.offer ci m) := by
  unfold State.offer
  split
  · exact .meet ..
  split
  · exact .send ..
  · exact .modCore s ci fun _ _ => le_rfl

theorem State.GoesOn.rematch (s : State) (ci : Nat) : s.GoesOn (s.rematch ci) :=
  (State.GoesOn.modCore s ci fun _ _ => le_rfl).trans (.foldl (fun _ _ => .offer ..) _ _)

/-- A core that takes its image back keeps its clocks (R164, R273). -/
theorem Core.restored_pts (c g : Core) (n : Nat) (wait : Bool) {k : Nat} (hk : k < 4) : (c.ctx k).pts ≤ ((c.restored g n wait).ctx k).pts := by
  unfold Core.restored
  rw [Core.keepClocks_ctx _ _ hk]
  exact le_max_right ..

/-- The state in which the images of a gang stand on its cores again (R164). -/
def State.loaded (s : State) (n : Nat) (g : SwapImage) : State :=
  let wait : Bool := g.cores.any (fun p => p.2.lbs.any (fun b => b.2.st = .filling))
  let u := g.cores.foldl (fun s p => s.modCore p.1 (fun c => c.restored p.2 n wait)) s
  ({ u with swaps := u.swaps.filter (fun h => h.task ≠ n) } : State).modTask n (fun t => { t with
    state := .running
    place := if wait then .commit else .none
    granted := []
    ranAt := u.tick })

theorem State.GoesOn.restored (s : State) (n : Nat) (wait : Bool) (l : List (Nat × Core)) :
    s.GoesOn (l.foldl (fun s p => s.modCore p.1 (fun c => c.restored p.2 n wait)) s) :=
  .foldl (fun _ _ => .modCore _ _ fun _ hk => Core.restored_pts _ _ n wait hk) l s

section
variable {s : State} {n : Nat} {t : Task} (ht : s.task n = some t)
include ht

/-- SWAP_IN on the cores that the commit has given the gang (R164). -/
theorem exec_swapIn_loads {g : SwapImage} (hs : t.state = .swapped) (hp : t.place = .commit)
    (hg : s.swaps.find? (fun g => g.task = n) = some g) (howned : ∀ p ∈ g.cores, (s.core p.1).resv.owner = some n) :
    exec (.swapIn n) s = .next (g.cores.foldl (fun s p => s.rematch p.1) (s.loaded n g)) := by
  have hall : g.cores.all (fun p => (s.core p.1).resv.owner = some n) = true :=
    List.all_eq_true.mpr fun p hp => decide_eq_true (howned p hp)
  dsimp only [exec, execSwapIn]
  rw [ht]
  simp only [hs, hp, hg]
  rw [if_neg (by rw [hall]; decide)]
  rfl

/-- SWAP_IN of a gang whose load blocks have settled (R197). -/
theorem exec_swapIn_resumes (hs : t.state = .running) (hp : t.place = .commit) (hf : t.filled = true)
    (hlbs : ∀ c ∈ t.cores, (s.core c).lbs.any (fun b => b.2.st = .filling) = false) : exec (.swapIn n) s =
      .next (((s.gang n).foldl (fun s p => s.modCtx p.1 p.2 (fun x => { x with held := false })) s).modTask n
        (fun t => { t with place := .none })) := by
  have hany : t.cores.any (fun c => (s.core c).lbs.any (fun b => b.2.st = .filling)) = false :=
    List.any_eq_false.mpr fun c hc => ne_true_of_eq_false (hlbs c hc)
  dsimp only [exec, execSwapIn]
  rw [ht]
  simp only [hs, hp]
  exact if_neg (by rw [hf, hany]; decide)

end

end Sys2Proof.Machine
end

section
/-!
PROOFS. The groups in which XROUTE routes tokens to experts (R172, R173, R176, R432).
-/

namespace Sys2Proof.Machine

/-! ### The XROUTE at the head of a group -/

/-- What an XROUTE joins stands behind those that wait there (R172). -/
theorem State.joinGroup_last (s : State) (j : Job) (c : Cap) : ∃ rest, (s.joinGroup j c).2.wait = rest ++ [j] := ⟨_, rfl⟩

theorem exec_xrouteApply_joins {s : State} {ci k : Nat} {j : Job} {c : Cap} {token : BitVec 32} {ch : List (BitVec 32 × BitVec 32)}
    (hj : s.wdJob ci k (fun k => (xrouteOf k).isSome) = some j) (hk : j.kind = .xroute c token ch) : exec (.xrouteApply ci k) s =
      .next ((s.joinGroup j c).1.pumpGroup (s.joinGroup j c).2.key (s.joinGroup j c).2.fuel) := by
  dsimp only [exec, execXrouteApply]
  rw [hj]
  dsimp only
  rw [hk]
  rfl

/-- The step of the XROUTE at the head of a group (R172, R173). -/
def State.headTurn (s : State) (g : XGroup) (j : Job) (c : Cap) (token : BitVec 32) (ch : List (BitVec 32 × BitVec 32)) : Route :=
  (⟨s.engine (.fabric j.core j.id) j.space j.pts, g, c, j.task⟩ : Route).turn j token ch

/-- How a group goes on after a step of its head: that waits, is refused with 6, or is done (R173, R176). -/
def Route.after (r : Route) (g : XGroup) (j : Job) (next : State → State) : State :=
  match r.e.stop with
  | some .wait => r.e.s
  | some _ => next (((r.e.s.clearWait (.fabric j.core j.id)).setGroup g.popHead).answer j [6])
  | none => next ((r.e.s.clearWait (.fabric j.core j.id)).setGroup (r.g.clock r.e.pts))

section
variable {r : Route} {g : XGroup} {j : Job} {next : State → State}

theorem Route.after_done (h : r.e.stop = none) :
    r.after g j next = next ((r.e.s.clearWait (.fabric j.core j.id)).setGroup (r.g.clock r.e.pts)) := by
  unfold Route.after
  rw [h]

theorem Route.after_waits (h : r.e.stop = some .wait) : r.after g j next = r.e.s := by
  unfold Route.after
  rw [h]

theorem Route.after_refused (h : r.e.stop ≠ none) (hw : r.e.stop ≠ some .wait) :
    r.after g j next = next (((r.e.s.clearWait (.fabric j.core j.id)).setGroup g.popHead).answer j [6]) := by
  unfold Route.after
  split
  case h_1 e => exact absurd e hw
  case h_2 => rfl
  case h_3 e => exact absurd e h

end

section
variable {s : State} {key : Nat} {g : XGroup} {j : Job} {rest : List Job} {c : Cap} {token : BitVec 32} {ch : List (BitVec 32 × BitVec 32)}
  (hg : s.groups.find? (fun g => g.key = key) = some g) (hw : g.wait = j :: rest) (hk : j.kind = .xroute c token ch)
include hg hw hk

/-- A group whose head waits for a completion goes no further (R173, R176). -/
theorem State.pumpGroup_stuck (hs : g.stuck = true) (fuel : Nat) : s.pumpGroup key (fuel + 1) = s := by
  rw [State.pumpGroup, hg]
  dsimp only
  rw [hw]
  dsimp only
  rw [hk]
  dsimp only [xrouteOf]
  rw [hs]

/-- The head of a group answers with its result, once the experts it has to start have started (R173, R432). -/
theorem State.pumpGroup_answers {w : Nat} (hs : g.stuck = false) (he : g.starting = []) (hr : g.result = some w) (fuel : Nat) :
    s.pumpGroup key (fuel + 1) = State.pumpGroup key fuel ((s.setGroup g.popHead).answer j [BitVec.ofNat 64 w]) := by
  rw [State.pumpGroup, hg]
  dsimp only
  rw [hw]
  dsimp only
  rw [hk]
  dsimp only [xrouteOf]
  rw [hs, he, hr]

section
variable (hs : g.stuck = false) (hopen : g.starting ≠ [] ∨ g.result = none)
include hs hopen

/-- The head of a group takes a step, or waits for an earlier job of its context (R172, R280). -/
theorem State.pumpGroup_steps (fuel : Nat) : s.pumpGroup key (fuel + 1) =
    if s.jobWaits j then s else (s.headTurn g j c token ch).after g j (State.pumpGroup key fuel) := by
  rw [State.pumpGroup, hg]
  dsimp only
  rw [hw]
  dsimp only
  rw [hk]
  dsimp only [xrouteOf]
  rw [hs]
  cases hstart : g.starting with
  | cons n l => rfl
  | nil =>
    rw [hopen.resolve_left (not_not.mpr hstart)]
    rfl

end
end

/-! ### Groups in the table -/

section
variable {s : State} {g : XGroup} (hready : g.ready = true) (hok : g.bad = false) (hmid : g.midway = false)
  (hdone : ∀ n < g.nexp, (g.expert n).st = 2)
include hready hok hmid hdone

/-- A group whose experts are all DONE is uninitialised again (R172). -/
theorem State.setGroup_done : s.setGroup g =
    if g.wait = [] then { s with groups := s.groups.filter (fun h => h.key ≠ g.key) } else s.putGroup { g with ready := false } := by
  have hall : (List.range g.nexp).all (fun e => (g.expert e).st = 2) = true :=
    List.all_eq_true.mpr fun n hn => decide_eq_true (hdone n (List.mem_range.mp hn))
  exact if_pos (by rw [hready, hok, hmid, hall]; rfl)

theorem State.setGroup_done_leaves (hw : g.wait = []) : (s.setGroup g).groups.find? (fun h => h.key = g.key) = none := by
  rw [State.setGroup_done hready hok hmid hdone, if_pos hw]
  exact List.find?_eq_none.mpr fun h hh => by simpa using (List.mem_filter.mp hh).2

theorem State.setGroup_done_waits (hw : g.wait ≠ []) :
    (s.setGroup g).groups.find? (fun h => h.key = g.key) = some { g with ready := false } := by
  rw [State.setGroup_done hready hok hmid hdone, if_neg hw]
  have hkey : ({ g with ready := false } : XGroup).key = g.key := rfl
  unfold State.putGroup
  rw [List.find?_append, List.find?_eq_none.mpr fun h hh => by simpa [hkey] using (List.mem_filter.mp hh).2]
  simp [hkey]

end

/-! ### An expert that has ended -/

/-- Bytes written into a descriptor leave the group as it is. -/
theorem Route.put_g (r : Route) (off : Nat) (bs : List Byte) : (r.put off bs).g = r.g := rfl

theorem XGroup.expert_setExpert (g : XGroup) (n : Nat) (x : Expert) : (g.setExpert n x).expert n = x := SMap.get_set_same ..

/-- An expert that is finished is DONE (R175, R176). -/
theorem Route.finish_done (r : Route) (n : Nat) : ((r.finish n).g.expert n).st = 2 := by
  unfold Route.finish Route.setExpert
  rw [Route.put_g]
  exact congrArg Expert.st (XGroup.expert_setExpert ..)

/-- The first group with an expert that has ended under a TASKID, and the expert (R176). -/
def State.endedExpert (s : State) (m : Nat) : Option (XGroup × Nat) :=
  s.groups.findSome? (fun g => ((List.range g.nexp).find? (s.expertEnded m g)).map (fun e => (g, e)))

/-- A group takes up the end of one of its experts: its descriptor is translated ahead (R171, R176). -/
def State.takesEnd (s : State) (g : XGroup) (e : Nat) : Route :=
  (⟨s.engine (.fabric g.core (2 ^ 64 + e)) g.space 0, g, mkCap g.obj 0 (2 ^ 40 - 1) 0 0 true, 0⟩ : Route).hold

/-- The waiting XROUTEs of a group proceed (R176). -/
def XGroup.unstick (key : Nat) (h : XGroup) : XGroup := if h.key = key then { h with stuck := false } else h

/-- XROUTE_RESUME of an expert that has ended (R176). -/
theorem exec_xrouteResume_ended {s : State} {m e : Nat} {g : XGroup} (h : s.endedExpert m = some (g, e)) :
    let q := s.takesEnd g e
    let r := q.finish e
    let u := (r.e.s.clearWait (.fabric g.core (2 ^ 64 + e))).setGroup r.g
    exec (.xrouteResume m) s = .next (if q.e.stop = some .wait then q.e.s
      else ({ u with groups := u.groups.map (XGroup.unstick g.key) } : State).pumpGroup g.key g.fuel) := by
  dsimp only [exec, execXrouteResume]
  unfold State.endedExpert at h
  rw [h]
  dsimp only
  split
  case h_1 hwait => exact congrArg _ (if_pos hwait).symm
  case h_2 hwait => exact congrArg _ (if_neg hwait).symm

/-- Settles O53: each event of a stop and of a swap by the gang that it finds, and each step of a group by the XROUTE at its head. -/
theorem gangsSwapAndRoute : Obligations.GangsSwapAndRoute := by
  refine ⟨fun s n t ht => ⟨exec_stopRequest_reports ht, fun hstop hcut hall => ?cut, fun d => exec_stopTimeout_late ht,
      ⟨State.abandonSwap_exempts ht, s.abandonSwap_uncut n⟩, fun hs hcut hstop => ⟨exec_swapOut_short ht hs hcut hstop,
        fun hlen hlvl hrest hjobs => ?saved⟩, fun g hs hp hg howned => ?loaded, exec_swapIn_resumes ht⟩,
    fun x c => ⟨fun h => Ctx.meetCut_free h c, Ctx.meetCut_stops, fun h hc => ?released⟩,
    fun s => ⟨fun ci k j c token ch hj hk => ⟨exec_xrouteApply_joins hj hk, s.joinGroup_last j c⟩,
      fun key fuel g j rest c token ch hg hw hk => ?pump, fun g hready hok hmid hdone =>
        ⟨State.setGroup_done_leaves hready hok hmid hdone, State.setGroup_done_waits hready hok hmid hdone⟩,
      fun m g e h => ⟨exec_xrouteResume_ended h, Route.finish_done _ e⟩⟩⟩
  case cut =>
    have hexec := exec_stopCutBroadcast_reported ht hstop hcut hall
    refine ⟨fun hbelow => hexec.trans (if_neg fun hpast => ?_), fun habove => hexec.trans (if_pos ((s.pastCut_iff n).mpr habove))⟩
    obtain ⟨p, hp, hpast⟩ := (s.pastCut_iff n).mp hpast
    exact hbelow p hp hpast
  case saved =>
    obtain ⟨fresh, wd, tasks, eimaged⟩ := s.imaged_eq n t
    obtain ⟨cores, waits, walks, eleave⟩ := State.leave_eq t.cores Core.vacated (s.imaged n t)
    refine ⟨_, exec_swapOut_saves ht hs hcut hstop hlen hlvl hrest hjobs, ?_, fun a ha => ?_, fun c hc k hk => ?_⟩
    · rw [eleave, eimaged]
      rfl
    · exact congrArg (fun b => [b]) (State.imaged_leave_byteUnder t.cores Core.vacated ha)
    · rw [State.leave_vacated_ctx _ _ _ hk, if_pos hc, eimaged]
      exact ⟨rfl, le_rfl⟩
  case loaded =>
    have hloads := State.GoesOn.restored s n (g.cores.any (fun p => p.2.lbs.any (fun b => b.2.st = .filling))) g.cores
    have hrematch : (s.loaded n g).GoesOn _ := State.GoesOn.foldl (fun u (p : Nat × Core) => State.GoesOn.rematch u p.1) g.cores _
    refine ⟨_, exec_swapIn_loads ht hs hp hg howned, hrematch.swaps.trans ?_, hrematch.mem.trans hloads.mem, fun c _ k hk =>
      (hloads.clocks c k hk).trans (hrematch.clocks c k hk)⟩
    exact congrArg _ hloads.swaps
  case released =>
    rw [Ctx.meetCut_releases h hc]
    exact ⟨rfl, rfl⟩
  case pump =>
    refine ⟨fun h => ?_, fun w hs he hr => ?_, fun hs hopen hj hr => ?_, fun hs hopen hj hr => ?_, fun hs hopen hj hr hwait => ?_⟩
    · cases hs : g.stuck with
      | true => exact State.pumpGroup_stuck hg hw hk hs fuel
      | false =>
        obtain ⟨hopen, hj⟩ := h.resolve_left (by simp [hs])
        exact (State.pumpGroup_steps hg hw hk hs hopen fuel).trans (if_pos hj)
    · rw [State.pumpGroup_answers hg hw hk hs he hr, XGroup.popHead, hw]
      rfl
    all_goals refine (State.pumpGroup_steps hg hw hk hs hopen fuel).trans ((if_neg (by simp [hj])).trans ?_)
    · exact Route.after_done hr
    · exact Route.after_waits hr
    · exact Route.after_refused hr hwait

end Sys2Proof.Machine
end

section
/-!
PROOFS. The turn that a step runs, the slots of a bundle in turn, and the issue cycle in which a bundle commits (R177, R179,
R181, R272, R293).
-/

namespace Sys2Proof.Machine

/-! ### The turn that comes next -/

section
variable {s : State}

theorem State.run_issue {n : Nat} (h : s.allows (.issue n) = true) : s.run (.issue n) = s.issueCycle runWord n := if_pos h

theorem State.run_load {n w : Nat} (h : s.allows (.load n w) = true) : s.run (.load n w) = s.systemLoad n w := if_pos h

/-- Freeze causes that arrive together run one after the other, the lowest code first (R24). -/
theorem State.run_together {l : List Instr} (h : s.allows (.together l) = true) :
    s.run (.together l) = (byCode l).foldl (fun o i => match o with
      | .next t => exec i t
      | stop => stop) (.next s) := if_pos h

end

/-! ### Slots in turn -/

/-- A slot word runs the instruction that the decoder reads from it. -/
theorem runWord_decoded {k : Slot} {w : Word} {op : Op} {i : Instr} (hop : findOp k w = .ok op) (hi : decodeSlot k w = .ok i)
    (s : State) : runWord op k w s = exec i s := by
  have hinstr : op.instr k w = i := by simpa [decodeSlot, hop, Except.map] using hi
  rw [runWord, hinstr]

/-- A slot that commits or is not enabled hands its state on; after any other the next slot finds the state as this one did
(R181, R272). -/
theorem runSlots_cons {run : Runner} {k : Slot} {op : Op} {w : Word} {s u : State} (h : run op k w (s.setVerdict .none) = .next u)
    (t : List (Slot × Op × Word)) (fs : List Fared) : runSlots run ((k, op, w) :: t) s fs =
      if u.iss.verdict = .committed ∨ u.iss.verdict = .disabled ∨ u.iss.verdict = .none then
        runSlots run t u (fs ++ [⟨k, u.iss.verdict⟩])
      else runSlots run t s (fs ++ [⟨k, u.iss.verdict⟩]) := by
  rw [runSlots, h]
  dsimp only
  split
  case h_1 hv => exact (if_pos (.inl hv)).symm
  case h_2 hv => exact (if_pos (.inr (.inl hv))).symm
  case h_3 hv => exact (if_pos (.inr (.inr hv))).symm
  case h_4 hc hd hn => exact (if_neg (not_or.mpr ⟨hc, not_or.mpr ⟨hd, hn⟩⟩)).symm

/-- Settles O4: each turn by what `State.run` does with it, and the slots of a bundle one by one. -/
theorem stepRunsTheTurn : Obligations.StepRunsTheTurn := by
  refine ⟨fun s i n => ⟨fun hn ha hw => ?event, fun hn ha => ?issue, fun w hn ha => ?load, fun l hn ha => ?together,
      fun ha => State.run_of_not_allows ha, rfl, rfl⟩,
    fun k w op i s hop hi => runWord_decoded hop hi s, fun k w op i s u t fs hop hi hu => ?slot⟩
  case event => exact (congrArg s.tickOn.run hn).trans (State.run_event ha hw)
  case issue => exact (congrArg s.tickOn.run hn).trans (State.run_issue ha)
  case load => exact (congrArg s.tickOn.run hn).trans (State.run_load ha)
  case together => exact (congrArg s.tickOn.run hn).trans (State.run_together ha)
  case slot => exact runSlots_cons ((runWord_decoded hop hi _).trans hu) t fs

/-! ### A bundle that commits -/

/-- What a return left to replay is back in flight and in the port; the bundle that comes next stays (R299). -/
theorem Core.replay_pc (c : Core) (k : Nat) : ((c.replay k).ctx k).pc = (c.ctx k).pc := by simp [Core.replay]

theorem Core.replay_arvwWaits (c : Core) (k : Nat) : ((c.replay k).ctx k).arvwWaits = (c.ctx k).arvwWaits := by
  simp [Core.replay, Ctx.arvwWaits]

/-- The running context keeps the core while its bundles do not block (R179). -/
theorem Core.order_of_running {c : Core} {k : Nat} (hk : c.cur.toNat = k) (h : (c.ctx k).status = .running) :
    ∃ l, c.order = k :: l := by
  subst hk
  exact ⟨_, if_pos h⟩

theorem blockSlots_of_fares {fs : List Fared} (hfs : ∀ f ∈ fs, f.v = .committed ∨ f.v = .disabled) : blockSlots fs = [] := by
  refine List.map_eq_nil_iff.mpr (List.filter_eq_nil_iff.mpr fun f hf => ?_)
  rcases hfs f hf with h | h <;> rw [h] <;> exact Bool.false_ne_true

theorem mem_insertBy {α : Type} {key : α → Nat} {x y : α} {l : List α} (h : y ∈ insertBy key x l) : y = x ∨ y ∈ l := by
  induction l with
  | nil => simpa [insertBy] using h
  | cons z t ih =>
    unfold insertBy at h
    split at h
    · simpa using h
    · rcases List.mem_cons.mp h with rfl | h
      · exact .inr List.mem_cons_self
      · exact (ih h).imp_right (List.mem_cons_of_mem z)

theorem mem_sortBy {α : Type} {key : α → Nat} {y : α} {l : List α} (h : y ∈ sortBy key l) : y ∈ l := by
  have hfold : ∀ (l acc : List α), y ∈ l.foldl (fun acc x => insertBy key x acc) acc → y ∈ acc ∨ y ∈ l := by
    intro l
    induction l with
    | nil => exact fun acc h => .inl h
    | cons z t ih =>
      intro acc h
      rcases ih _ h with h | h
      · exact (mem_insertBy h).elim (fun e => .inr (e ▸ List.mem_cons_self)) .inl
      · exact .inr (List.mem_cons_of_mem z h)
  exact (hfold l [] h).resolve_left List.not_mem_nil

/-- A bundle whose slots commit or are not enabled takes no trap. -/
theorem faultOf_of_fares {fs : List Fared} (hfs : ∀ f ∈ fs, f.v = .committed ∨ f.v = .disabled) : faultOf fs = none := by
  unfold faultOf
  dsimp only
  split
  case h_1 => rfl
  case h_2 k c v t htraps =>
    obtain ⟨f, hf, htrap⟩ := List.mem_filterMap.mp (htraps ▸ List.mem_cons_self : (k, c, v) ∈ _)
    rcases hfs f (mem_sortBy hf) with h | h <;> simp [h] at htrap

/-- A legal bundle that no barrier holds and whose slots commit or are not enabled commits, and takes the cycle (R181). -/
theorem State.tryFrom_commits {run : Runner} {s t u : State} {ci k n : Nat} {b : List SlotWord} {fs : List Fared}
    (hb : b = slotWords (s.fetch ci k)) (ht : t = { s with iss := { Issue.init with core := ci, ctx := k, pc := (s.ctx ci k).pc } })
    (harv : (s.ctx ci k).arvwWaits = false)
    (hlegal : illegalWith (t.boundBy run b) (fun i => ((t.seen ci k .sc).ctx k).xReg i) b = none)
    (hrun : runSlots run (runList b) t [] = .ok (u, fs)) (hfs : ∀ f ∈ fs, f.v = .committed ∨ f.v = .disabled) :
    State.tryFrom run ci k (n + 1) s = .ok (t.commit u ci k b fs, true) := by
  subst hb ht
  rw [State.tryFrom]
  dsimp only
  rw [hlegal]
  dsimp only
  rw [hrun]
  dsimp only
  split
  case h_1 f hover =>
    obtain ⟨g, hg, hover⟩ := List.exists_of_findSome?_eq_some hover
    rcases hfs g hg with h | h <;> simp [h] at hover
  case h_2 =>
    rw [harv, if_neg Bool.false_ne_true, if_neg (not_not.mpr (blockSlots_of_fares hfs)),
      faultOf_of_fares hfs]

/-- A context that has no cause to take tries its next bundle. -/
theorem State.turn_tries {run : Runner} {s : State} {ci k : Nat} (helig : ((s.settleFor ci k).ctx ci k).eligible = true)
    (hcause : ((s.settleFor ci k).ctx ci k).hasCause = false) : s.turn run ci k = (s.settleFor ci k).tryBundle run ci k := by
  simp [State.turn, helig, hcause]

/-- Where the context that comes first takes the cycle, each blocked context is checked again and the cycle ends (R179). -/
theorem State.issueCycle_takes {run : Runner} {s t : State} {ci k : Nat} {l : List Nat} (ho : ((s.land ci).core ci).order = k :: l)
    (ht : (s.land ci).turn run ci k = .ok (t, true)) : s.issueCycle run ci =
      .next (([0, 1, 2, 3].foldl (State.recheck run ci) t).modCore ci (fun c => { c with cycle := c.cycle + 1 })) := by
  unfold State.issueCycle
  dsimp only
  rw [ho, State.turns, ht]
  rfl

/-- Settles O5: the running context comes first, takes no cause, and its bundle commits. -/
theorem issueCommitsBundle : Obligations.IssueCommitsBundle := by
  intro s u ci k fs s0 s1 x s2 b s3 hcur hrunning helig hcause harv hlegal hrun hfs
  have hx : s2.ctx ci k = ((s1.core ci).replay k).ctx k := congrArg (Core.ctx · k) (State.core_modCore_same ..)
  have hpc : (s2.ctx ci k).pc = x.pc := hx ▸ Core.replay_pc ..
  have harv2 : (s2.ctx ci k).arvwWaits = false := hx ▸ (Core.replay_arvwWaits ..).trans harv
  obtain ⟨l, hl⟩ := Core.order_of_running hcur hrunning
  exact State.issueCycle_takes hl ((State.turn_tries helig hcause).trans
    (State.tryFrom_commits rfl (by rw [hpc]) harv2 hlegal hrun hfs))

end Sys2Proof.Machine
end

section
/-!
PROOFS. What a result in flight and a landing result leave as they are, and the bytes of a row under a mask (R182, R183, R187).
-/

namespace Sys2Proof.Machine

/-! ### A result in flight -/

/-- Every context after a change of one. -/
theorem State.ctx_modCtx (s : State) (n k : Nat) (f : Ctx → Ctx) (m j : Nat) :
    (s.modCtx n k f).ctx m j = if m = n ∧ j = k then f (s.ctx m j) else s.ctx m j := by
  split
  case isTrue h => rw [h.1, h.2, State.ctx_modCtx_same]
  case isFalse h =>
    by_cases hm : m = n
    · subst hm
      exact State.ctx_modCtx_other s f fun hj => h ⟨rfl, hj⟩
    · exact congrArg (Core.ctx · j) (State.core_modCtx_other s f hm)

/-- A change of a context leaves what its core holds beside its contexts. -/
theorem State.core_modCtx_eq (s : State) (n k : Nat) (f : Ctx → Ctx) (m : Nat) :
    ∃ ctxs, (s.modCtx n k f).core m = { s.core m with ctxs := ctxs } := by
  by_cases hm : m = n
  · subst hm
    exact ⟨_, State.core_setCore_same ..⟩
  · exact ⟨_, State.core_modCtx_other s f hm⟩

/-- Settles O59: `State.fly` changes one context of one core, in its results in flight alone. -/
theorem flightFrame : Obligations.FlightFrame := by
  intro s ci k r cj j
  obtain ⟨ctxs, hcore⟩ := s.core_modCtx_eq ci k (fun x => { x with flight := x.flight ++ [r] }) cj
  refine ⟨rfl, rfl, rfl, ?_, ?_, ?_, ?_, ?_, State.ctx_modCtx ..⟩ <;>
    rw [show (s.fly ci k r).core cj = _ from hcore]

/-! ### A register that a landing result is bound for -/

/-- A context of which one register alone is compared otherwise: every other is the same by definition. -/
theorem Ctx.SameRegsBut.intro {x y : Ctx} {cls : Cls} {n : Nat}
    (hs : ∀ j, (cls, n) ≠ (.s, j) → x.sReg j = y.sReg j := by exact fun _ _ => rfl)
    (ha : ∀ j, (cls, n) ≠ (.a, j) → x.aReg j = y.aReg j := by exact fun _ _ => rfl)
    (hv : ∀ j, (cls, n) ≠ (.v, j) → x.vReg j = y.vReg j := by exact fun _ _ => rfl)
    (hx : ∀ j, (cls, n) ≠ (.x, j) → x.xReg j = y.xReg j := by exact fun _ _ => rfl)
    (ht : ∀ j, (cls, n) ≠ (.t, j) → x.tReg j = y.tReg j := by exact fun _ _ => rfl)
    (hd : ∀ j, (cls, n) ≠ (.d, j) → x.dReg j = y.dReg j := by exact fun _ _ => rfl)
    (hp : ∀ j, (cls, n) ≠ (.p, j) → x.pReg j = y.pReg j := by exact fun _ _ => rfl)
    (hm : ∀ j, (cls, n) ≠ (.m, j) → x.mReg j = y.mReg j := by exact fun _ _ => rfl)
    (hsr : x.sr = y.sr := by exact rfl) (hpc : x.pc = y.pc := by exact rfl) (hst : x.status = y.status := by exact rfl) :
    x.SameRegsBut y cls n := ⟨hs, ha, hv, hx, ht, hd, hp, hm, hsr, hpc, hst⟩

/-- A register's error mark is no part of its value (R22). -/
theorem Ctx.SameRegsBut.of_ecc {x y : Ctx} {cls : Cls} {n : Nat} {e : List (Cls × Nat)}
    (h : x.SameRegsBut { y with ecc := e } cls n) : x.SameRegsBut y cls n := h

theorem ne_of_place {cls : Cls} {n j : Nat} (h : (cls, n) ≠ (cls, j)) : ¬ j = n := fun hj => h (hj ▸ rfl)

section
variable (x : Ctx) (n : Nat)

theorem Ctx.setS_frame (v : Word) : (x.setS n v).SameRegsBut x .s n := by
  have hreg : ∀ j, (Cls.s, n) ≠ (.s, j) → (x.setS n v).sReg j = x.sReg j := fun j hj => by
    rw [Ctx.sReg_setS, if_neg (ne_of_place hj)]
    exact ite_eq_right_iff.mpr fun h0 => by rw [h0, Ctx.sReg_zero]
  unfold Ctx.setS at hreg ⊢
  split
  case isTrue => exact .intro
  case isFalse hn => exact .intro (hs := by simpa only [if_neg hn] using hreg)

theorem Ctx.setP_frame (v : Bool) : (x.setP n v).SameRegsBut x .p n := by
  have hreg : ∀ j, (Cls.p, n) ≠ (.p, j) → (x.setP n v).pReg j = x.pReg j := fun j hj => by
    rw [Ctx.pReg_setP, if_neg (ne_of_place hj)]
    exact ite_eq_right_iff.mpr fun h0 => by rw [h0, Ctx.pReg_zero]
  unfold Ctx.setP at hreg ⊢
  split
  case isTrue => exact .intro
  case isFalse hn => exact .intro (hp := by simpa only [if_neg hn] using hreg)

theorem Ctx.setA_frame (v : Cap) : (x.setA n v).SameRegsBut x .a n :=
  .intro (ha := fun j hj => (x.aReg_setA n j v).trans (if_neg (ne_of_place hj)))

theorem Ctx.setV_frame (v : Row) : (x.setV n v).SameRegsBut x .v n :=
  .intro (hv := fun j hj => (x.vReg_setV n j v).trans (if_neg (ne_of_place hj)))

theorem Ctx.setX_frame (v : BitVec 32) : (x.setX n v).SameRegsBut x .x n :=
  .intro (hx := fun j hj => (x.xReg_setX n j v).trans (if_neg (ne_of_place hj)))

theorem Ctx.setT_frame (v : TileReg) : (x.setT n v).SameRegsBut x .t n :=
  .intro (ht := fun j hj => (x.tReg_setT n j v).trans (if_neg (ne_of_place hj)))

theorem Ctx.setD_frame (v : BitVec 24) : (x.setD n v).SameRegsBut x .d n :=
  .intro (hd := fun j hj => (x.dReg_setD n j v).trans (if_neg (ne_of_place hj)))

theorem Ctx.setM_frame (v : Quad) : (x.setM n v).SameRegsBut x .m n :=
  .intro (hm := fun j hj => (x.mReg_setM n j v).trans (if_neg (ne_of_place hj)))

/-- What a register's write starts from: its context with the register's error cleared, or as it was (R22). -/
theorem Ctx.written_eq (cls : Cls) (m : Quad) : ∃ e, (if m = allBytes then x.clearEcc cls n else x) = { x with ecc := e } := by
  split
  case isTrue => exact ⟨_, rfl⟩
  case isFalse => exact ⟨x.ecc, rfl⟩

/-- A landing write leaves every other register of its context (R183, R187). -/
theorem Ctx.writeReg_frame (cls : Cls) (v : Row) (m : Quad) : (x.writeReg cls n v m).SameRegsBut x cls n := by
  obtain ⟨e, he⟩ := x.written_eq n cls m
  unfold Ctx.writeReg
  rw [he]
  cases cls with
  | s => exact .of_ecc (Ctx.setS_frame ..)
  | a => exact .of_ecc (Ctx.setA_frame ..)
  | v => exact .of_ecc (Ctx.setV_frame ..)
  | x => exact .of_ecc (Ctx.setX_frame ..)
  | t => exact .intro
  | d => exact .of_ecc (Ctx.setD_frame ..)
  | p => exact .of_ecc (Ctx.setP_frame ..)
  | m => exact .of_ecc (Ctx.setM_frame ..)
  | k => exact .intro

variable (v : Row) (m : Quad)

theorem Ctx.sReg_writeReg : (x.writeReg .s n v m).sReg n = if n = 0 then 0 else v.setWidth 64 :=
  (Ctx.sReg_setS ..).trans (by rw [if_pos rfl])

theorem Ctx.pReg_writeReg : (x.writeReg .p n v m).pReg n = if n = 0 then true else v.getLsbD 0 :=
  (Ctx.pReg_setP ..).trans (by rw [if_pos rfl])

theorem Ctx.vReg_writeReg : (x.writeReg .v n v m).vReg n = mergeRow m (x.vReg n) v := by
  obtain ⟨e, he⟩ := x.written_eq n .v m
  unfold Ctx.writeReg
  rw [he]
  exact (Ctx.vReg_setV ..).trans (if_pos rfl)

theorem Ctx.xReg_writeReg : (x.writeReg .x n v m).xReg n = v.setWidth 32 := (Ctx.xReg_setX ..).trans (if_pos rfl)

theorem Ctx.dReg_writeReg : (x.writeReg .d n v m).dReg n = v.setWidth 24 := (Ctx.dReg_setD ..).trans (if_pos rfl)

theorem Ctx.mReg_writeReg : (x.writeReg .m n v m).mReg n = v.setWidth 128 := (Ctx.mReg_setM ..).trans (if_pos rfl)

end

/-! ### What lands -/

section
variable (c : Core) (k n : Nat)

theorem Core.landPay_reg (cls : Cls) (v : Row) (m : Quad) :
    (c.landPay k (.reg cls n v m)).1.ctx k = (c.ctx k).writeReg cls n v m := Core.ctx_setCtx_same ..

theorem Core.landPay_cap (p : Cap) : (c.landPay k (.cap n p)).1.ctx k = ((c.ctx k).clearEcc .a n).setA n p := Core.ctx_setCtx_same ..

theorem Core.landPay_tile (t : TileReg) : (c.landPay k (.tile n t)).1.ctx k = ((c.ctx k).clearEcc .t n).setT n t :=
  Core.ctx_setCtx_same ..

end

/-! ### A row under a byte mask -/

/-- Digit by digit: a bit of the number that a list of digits makes. -/
theorem digits_testBit {w : Nat} {l : List Nat} {i j : Nat} (hi : i < l.length) (hj : j < w) :
    (digits w l).testBit (w * i + j) = l[i].testBit j := by
  induction l generalizing i with
  | nil => exact absurd hi (Nat.not_lt_zero i)
  | cons x t ih =>
    have hx : x % 2 ^ w < 2 ^ w := Nat.mod_lt _ (Nat.two_pow_pos w)
    rw [digits, Nat.add_comm (x % 2 ^ w), Nat.testBit_two_pow_mul_add _ hx]
    cases i with
    | zero => simp [hj, Nat.testBit_mod_two_pow]
    | succ i =>
      rw [if_neg (by rw [Nat.mul_succ]; omega), show w * (i + 1) + j - w = w * i + j by rw [Nat.mul_succ]; omega]
      exact ih (Nat.lt_of_succ_lt_succ hi)

/-- The row mask has the eight bits of each byte that the byte mask names (R9). -/
theorem byteMask_getLsbD (m : Quad) {i j : Nat} (hi : i < 128) (hj : j < 8) : (byteMask m).getLsbD (8 * i + j) = m.getLsbD i := by
  unfold byteMask rowOf
  rw [BitVec.getLsbD_ofNat, digits_testBit (by simpa using hi) hj, decide_eq_true (by omega), Bool.true_and]
  simp only [List.getElem_map, List.getElem_range]
  cases m.getLsbD i with
  | true => simpa using (Nat.testBit_two_pow_sub_one 8 j).trans (decide_eq_true hj)
  | false => simp

theorem mergeRow_byte (m : Quad) (old v : Row) {i : Nat} (hi : i < 128) : (mergeRow m old v).extractLsb' (8 * i) 8 =
    if m.getLsbD i then v.extractLsb' (8 * i) 8 else old.extractLsb' (8 * i) 8 := by
  ext j hj
  have hlt : 8 * i + j < 1024 := by omega
  rw [BitVec.getElem_extractLsb', mergeRow, BitVec.getLsbD_or, BitVec.getLsbD_and, BitVec.getLsbD_and, BitVec.getLsbD_not,
    byteMask_getLsbD m hi hj]
  cases m.getLsbD i <;> simp [hlt]

/-- Settles O60: each payload writes its own register, and a mask names whole bytes. -/
theorem landingFrame : Obligations.LandingFrame := by
  refine ⟨fun c k n v m => ⟨fun cls _ => ?frame, ?s, ?p, ?v, ?x, ?d, ?m, fun p => ?cap, fun t => ?tile, fun cls j hj =>
    ⟨Core.ctx_setCtx_other _ _ hj, rfl, rfl, rfl, rfl⟩⟩, fun m old v i hi => mergeRow_byte m old v hi⟩
  case cap =>
    rw [Core.landPay_cap]
    exact ⟨(Ctx.aReg_setA ..).trans (if_pos rfl), .of_ecc (Ctx.setA_frame ..)⟩
  case tile =>
    rw [Core.landPay_tile]
    exact ⟨(Ctx.tReg_setT ..).trans (if_pos rfl), .of_ecc (Ctx.setT_frame ..)⟩
  all_goals rw [Core.landPay_reg]
  case frame => exact Ctx.writeReg_frame ..
  case s => exact Ctx.sReg_writeReg ..
  case p => exact Ctx.pReg_writeReg ..
  case v => exact Ctx.vReg_writeReg ..
  case x => exact Ctx.xReg_writeReg ..
  case d => exact Ctx.dReg_writeReg ..
  case m => exact Ctx.mReg_writeReg ..

end Sys2Proof.Machine
end

section
/-!
PROOFS. Barriers, gates, fences, yield and sleep (R199, R446 to R450).
-/

namespace Sys2Proof.Machine

/-! ### Arrivals -/

section
variable {e : Env} {j : Nat}

theorem Env.instance_level0 (hl : e.x.lvl j = 0) : e.instance_ j = none := if_pos hl

theorem Env.instance_named (hl : e.x.lvl j ≠ 0) :
    e.instance_ j = some (e.s.barrier (e.s.taskIdOf e.ci) j (e.x.lvl j) (domainOf (e.x.lvl j) e.ci e.x)) := if_neg hl

/-- An arrival blocks while an earlier one of the context at the barrier is pending (R446). -/
theorem Env.arrival_pending (ha : e.s.iss.ask = .issue) (hp : SMap.get 0 e.x.arrived j ≠ 0) : e.arrival j = .error (.block 0) := by
  rw [Env.arrival, Env.blockIf_true ha (decide_eq_true hp)]
  rfl

theorem Env.arrival_level0 (hp : SMap.get 0 e.x.arrived j = 0) (hl : e.x.lvl j = 0) : e.arrival j = .ok e.s := by
  rw [Env.arrival, Env.blockIf_false (decide_eq_false (not_not.mpr hp)), Env.instance_level0 hl]
  rfl

theorem Env.arrival_named {b : Barrier} (hp : SMap.get 0 e.x.arrived j = 0) (hb : e.instance_ j = some b) : e.arrival j =
    .ok (({ e with s := e.s.modCtx e.ci e.k (fun x => { x with arrived := SMap.set 0 x.arrived j 1 }) } : Env).syOp
      (.arrive j b.lvl b.dom)) := by
  rw [Env.arrival, Env.blockIf_false (decide_eq_false (not_not.mpr hp)), hb]
  rfl

/-- The work of ARVW: an arrival, and the next bundle waits for the phase where there is a barrier (R446). -/
def Env.arrivalWait (e : Env) (j : Nat) : Except Stop State := do
  let t ← e.arrival j
  pure (if (e.instance_ j).isNone then t
    else { t.modCtx e.ci e.k (fun x => { x with arvw := some j }) with iss := { t.iss with arvw := true } })

theorem Env.arrivalWait_stops {p : Stop} (h : e.arrival j = .error p) : e.arrivalWait j = .error p := by
  rw [Env.arrivalWait, h]
  rfl

theorem Env.arrivalWait_level0 {t : State} (h : e.arrival j = .ok t) (hl : e.x.lvl j = 0) : e.arrivalWait j = .ok t := by
  rw [Env.arrivalWait, h, Env.instance_level0 hl]
  rfl

theorem Env.arrivalWait_named {t : State} {b : Barrier} (h : e.arrival j = .ok t) (hb : e.instance_ j = some b) : e.arrivalWait j =
    .ok { t.modCtx e.ci e.k (fun x => { x with arvw := some j }) with iss := { t.iss with arvw := true } } := by
  rw [Env.arrivalWait, h, hb]
  rfl

end

/-! ### Reads of a barrier -/

/-- The word that BPHASE reads of a barrier (R447). -/
def Barrier.phaseWord (b : Barrier) (arrived : Bool) : Word := (BitVec.ofBool arrived ++ b.phase).setWidth 64

theorem Barrier.phaseWord_toNat (b : Barrier) (arrived : Bool) :
    (b.phaseWord arrived).toNat = b.phase.toNat + if arrived then 2 ^ 16 else 0 := by
  have hphase := b.phase.isLt
  rw [Barrier.phaseWord, BitVec.toNat_setWidth, Laws.append_toNat, BitVec.toNat_ofBool]
  cases arrived <;> simp <;> omega

/-- The record that STRAG reads, 0 where DMR names no barrier (R447). -/
def Env.recordOf (e : Env) (j : Nat) : Quad := match e.instance_ j with
  | some b => b.rcd
  | none => 0

theorem Env.recordOf_eq (e : Env) (j : Nat) : e.recordOf j =
    if e.x.lvl j = 0 then 0 else (e.s.barrier (e.s.taskIdOf e.ci) j (e.x.lvl j) (domainOf (e.x.lvl j) e.ci e.x)).rcd := by
  unfold Env.recordOf
  split_ifs with hl
  · rw [Env.instance_level0 hl]
  · rw [Env.instance_named hl]

/-- The word that BPHASE reads, 0 where DMR names no barrier (R447). -/
def Env.phaseOf (e : Env) (j : Nat) : Word := match e.instance_ j with
  | some b => b.phaseWord (decide (SMap.get 0 e.x.arrived j ≠ 0))
  | none => 0

theorem Env.phaseOf_level0 {e : Env} {j : Nat} (hl : e.x.lvl j = 0) : e.phaseOf j = 0 := by
  rw [Env.phaseOf, Env.instance_level0 hl]

theorem Env.phaseOf_named {e : Env} {j : Nat} {b : Barrier} (hb : e.instance_ j = some b) :
    (e.phaseOf j).toNat = b.phase.toNat + if SMap.get 0 e.x.arrived j ≠ 0 then 2 ^ 16 else 0 := by
  rw [Env.phaseOf, hb]
  dsimp only
  rw [Barrier.phaseWord_toNat]
  simp only [decide_eq_true_eq]

/-! ### Gates and fences -/

/-- A gate leaves its cut number in LASTCUT (R448). -/
theorem Env.gate_eq (e : Env) {n : BitVec 32} {v : Word} (hv : n.toNat = v.toNat) :
    e.gate n = e.s.modCtx e.ci e.k (fun x => { x with sr := { x.sr with lastcut := v } }) := by
  have hcut : n.setWidth 64 = v := BitVec.eq_of_toNat_eq (by rw [BitVec.toNat_setWidth]; omega)
  rw [Env.gate, hcut]

/-- The jobs for which an EFENCE waits: those of earlier bundles that it covers (R449). -/
def fenceWaits (fmt seq : Nat) (l : List Job) : Bool := l.any (fun j => j.bseq ≠ seq && fenceCovers fmt j)

theorem fenceWaits_iff {fmt seq : Nat} {l : List Job} :
    fenceWaits fmt seq l = true ↔ ∃ j ∈ l, j.bseq ≠ seq ∧ fenceCovers fmt j = true := by
  simp [fenceWaits]

/-! ### Slots that block on one condition -/

section
variable {op : Op} {k : Slot} {w : Word} {h : Hd} {s t : State} {body : Body} {c : Bool} {row : BitVec 4}
  (r : Ready op k w h s) (hb : body (s.env k h) = (do
    (s.env k h).blockIf c row
    pure t))
include r hb

theorem runSlot_passes (hc : c = false) : runSlot op k w h s body = .next (t.setVerdict .committed) :=
  runSlot_ready r (by rw [hb, Env.blockIf_false hc]; rfl)

theorem runSlot_held (hc : c = true) :
    runSlot op k w h s body = .next ((s.block s.iss.core s.iss.ctx row).setVerdict (.blocked row)) :=
  runSlot_blocks r (by rw [hb, Env.blockIf_true r.plain hc]; rfl)

end

/-! ### Pauses -/

section
variable {e : Env} {n : Nat}

/-- A YIELD pauses at its first check (R450). -/
theorem Env.yield_first (h : SMap.get false e.x.yielded e.x.pauseKey = false) : e.yield = .error (.pause none) := by
  rw [Env.yield, h]
  rfl

theorem Env.yield_again (h : SMap.get false e.x.yielded e.x.pauseKey = true) :
    e.yield = .ok (e.s.modCtx e.ci e.k (fun x => { x with yielded := SMap.set false x.yielded x.pauseKey false })) := by
  rw [Env.yield, h]
  rfl

/-- A SLEEP blocks until its deadline (R450). -/
theorem Env.sleep_early {t : Nat} (ha : e.s.iss.ask = .issue) (hd : SMap.get none e.x.deadline e.x.pauseKey = some t)
    (ht : e.s.tick < t) : e.sleep n = .error (.block 6) := by
  rw [Env.sleep, hd]
  dsimp only
  rw [Env.blockIf_true ha (decide_eq_true ht)]
  rfl

theorem Env.sleep_due {t : Nat} (hd : SMap.get none e.x.deadline e.x.pauseKey = some t) (ht : t ≤ e.s.tick) :
    e.sleep n = .ok (e.s.modCtx e.ci e.k (fun x => { x with deadline := SMap.set none x.deadline x.pauseKey none })) := by
  rw [Env.sleep, hd]
  dsimp only
  rw [Env.blockIf_false (decide_eq_false (Nat.not_lt.mpr ht))]
  rfl

/-- A SLEEP fixes its deadline at its first check (R450). -/
theorem Env.sleep_first (hd : SMap.get none e.x.deadline e.x.pauseKey = none) (hn : n ≠ 0) :
    e.sleep n = .error (.pause (some (e.s.tick + n))) := by
  rw [Env.sleep, hd]
  exact if_neg hn

theorem Env.sleep_zero (hd : SMap.get none e.x.deadline e.x.pauseKey = none) : e.sleep 0 = e.yield := by
  rw [Env.sleep, hd]
  rfl

end

/-- What an instruction that yields comes to (R450). -/
def State.Yields (s : State) (h : Hd) (i : Instr) : Prop :=
  let x := (s.env .sy h).x
  (SMap.get false x.yielded x.pauseKey = false →
    exec i s = .next ((s.pause s.iss.core s.iss.ctx none).setVerdict (.paused none))) ∧
  (SMap.get false x.yielded x.pauseKey = true → exec i s = .next ((s.modCtx s.iss.core s.iss.ctx (fun x => { x with
    yielded := SMap.set false x.yielded x.pauseKey false })).setVerdict .committed))

/-- What an instruction that sleeps for `n` ticks comes to (R450). -/
def State.Sleeps (s : State) (h : Hd) (i : Instr) (n : Nat) : Prop :=
  let x := (s.env .sy h).x
  let due := SMap.get none x.deadline x.pauseKey
  (∀ t, due = some t → s.tick < t → exec i s = .next ((s.block s.iss.core s.iss.ctx 6).setVerdict (.blocked 6))) ∧
  (∀ t, due = some t → t ≤ s.tick → exec i s = .next ((s.modCtx s.iss.core s.iss.ctx (fun x => { x with
    deadline := SMap.set none x.deadline x.pauseKey none })).setVerdict .committed)) ∧
  (due = none → n ≠ 0 → exec i s =
    .next ((s.pause s.iss.core s.iss.ctx (some (s.tick + n))).setVerdict (.paused (some (s.tick + n)))))

section
variable {op : Op} {w : Word} {h : Hd} {s : State} {body : Body} {i : Instr} {n : Nat}
  (r : Ready op .sy w h s) (hi : exec i s = runSlot op .sy w h s body)
include r hi

theorem State.yields_of_body (hb : body (s.env .sy h) = (s.env .sy h).yield) : s.Yields h i := by
  unfold State.Yields
  rw [hi]
  exact ⟨fun hy => runSlot_pauses r (hb.trans (Env.yield_first hy)), fun hy => runSlot_ready r (hb.trans (Env.yield_again hy))⟩

variable (hb : body (s.env .sy h) = (s.env .sy h).sleep n)
include hb

theorem State.sleeps_of_body : s.Sleeps h i n := by
  unfold State.Sleeps
  rw [hi]
  exact ⟨fun t hd ht => runSlot_blocks r (hb.trans (Env.sleep_early r.plain hd ht)),
    fun t hd ht => runSlot_ready r (hb.trans (Env.sleep_due hd ht)),
    fun hd hn => runSlot_pauses r (hb.trans (Env.sleep_first hd hn))⟩

/-- A SLEEP of no ticks is a YIELD (R450). -/
theorem State.yields_of_sleep0 (hn : n = 0)
    (hd : SMap.get none (s.env .sy h).x.deadline (s.env .sy h).x.pauseKey = none) : s.Yields h i :=
  State.yields_of_body r hi (hb.trans (hn ▸ Env.sleep_zero hd))

end

/-- The work of an instruction that takes a scalar operand goes on with its value. -/
theorem Env.srcS_bind {e : Env} {f : BitVec 9} {a : Word} (ha : e.srcS f = .ok a) (g : Word → Except Stop State) :
    (do
      let a ← e.srcS f
      g a) = g a := by
  rw [ha]
  rfl

/-- Settles O43: each instruction's own work, by the condition that it finds. -/
theorem barriersAndGates : Obligations.BarriersAndGates := by
  intro h f s e j ci k ok blocks arrives
  refine ⟨fun r => ?arv, fun r => ?arvw, fun r => ?bwait, fun r => ?strag, fun r => ?bphase, fun r => ?gate, fun a r ha => ?gateS,
    fun r => ?efence, fun r => ?ifence, fun r => ?yield, fun r => ?sleep, fun a r ha => ?sleepS⟩
  case arv =>
    exact ⟨fun hp => runSlot_blocks r (Env.arrival_pending r.plain hp), fun hp hl => runSlot_ready r (Env.arrival_level0 hp hl),
      fun hp hl => runSlot_ready r (Env.arrival_named hp (Env.instance_named hl))⟩
  case arvw =>
    refine ⟨fun hp => ?_, fun hp hl => ?_, fun hp hl => ?_⟩
    · exact runSlot_blocks r (Env.arrivalWait_stops (Env.arrival_pending r.plain hp))
    · exact runSlot_ready r (Env.arrivalWait_level0 (Env.arrival_level0 hp hl) hl)
    · have hb := Env.instance_named hl
      exact runSlot_ready r (Env.arrivalWait_named (Env.arrival_named hp hb) hb)
  case bwait =>
    exact ⟨fun hp => runSlot_passes r rfl (decide_eq_false (not_not.mpr hp)), fun hp => runSlot_held r rfl (decide_eq_true hp)⟩
  case strag =>
    have hread : exec (.strag h f) s = .next ((e.barrierRead (pairDest f)
        [(e.recordOf j).extractLsb' 0 64, (e.recordOf j).extractLsb' 64 64]).setVerdict .committed) := runSlot_ready r rfl
    rwa [Env.recordOf_eq] at hread
  case bphase =>
    exact ⟨e.phaseOf j, runSlot_ready r rfl, Env.phaseOf_level0, fun hl => Env.phaseOf_named (Env.instance_named hl)⟩
  case gate => exact runSlot_ready r (congrArg Except.ok (e.gate_eq (by simp; omega)))
  case gateS =>
    refine runSlot_ready r ((Env.srcS_bind ha _).trans (congrArg Except.ok (e.gate_eq ?_)))
    simp
    omega
  case efence =>
    refine ⟨fun hall => runSlot_passes r rfl (Bool.eq_false_iff.mpr fun hwaits => ?_), fun hw => runSlot_held r rfl (fenceWaits_iff.mpr hw)⟩
    obtain ⟨w, hw, hseq, hcovers⟩ := fenceWaits_iff.mp hwaits
    exact (hall w hw).elim hseq fun h => Bool.false_ne_true (h.symm.trans hcovers)
  case ifence => exact runSlot_ready r rfl
  case yield => exact State.yields_of_body r rfl rfl
  case sleep =>
    exact ⟨State.sleeps_of_body r rfl rfl, fun hd hn => State.yields_of_sleep0 r rfl rfl (congrArg BitVec.toNat hn) hd⟩
  case sleepS =>
    exact ⟨State.sleeps_of_body r rfl (Env.srcS_bind ha _),
      fun hd hn => State.yields_of_sleep0 r rfl (Env.srcS_bind ha _) (congrArg BitVec.toNat hn) hd⟩

end Sys2Proof.Machine
end

section
/-!
PROOFS. The events of a core and of its contexts (R183, R195, R197, R290 to R299, R421, R440, R450).
-/

namespace Sys2Proof.Machine

/-! ### The words of a variable-latency result -/

/-- One register of a variable-latency result takes its word, a tile register its type word (R421, R436). -/
def Ctx.putWord (ws : List Word) (x : Ctx) (e : (Cls × Nat) × Nat) : Ctx :=
  match e.1.1 with
  | .t => (x.clearEcc .t e.1.2).setT e.1.2 { x.tReg e.1.2 with tw := (wordsRow ws).setWidth 128 }
  | cls => x.writeReg cls e.1.2 ((ws.getD e.2 0).setWidth 1024) allBytes

theorem Ctx.putWord_of_ne {ws : List Word} {x : Ctx} {cls : Cls} (h : cls ≠ .t) (n i : Nat) :
    x.putWord ws ((cls, n), i) = x.writeReg cls n ((ws.getD i 0).setWidth 1024) allBytes := by
  unfold Ctx.putWord
  split
  case h_1 ht => exact absurd ht h
  case h_2 => rfl

theorem Ctx.putWord_frame (ws : List Word) (x : Ctx) (cls : Cls) (n i : Nat) : (x.putWord ws ((cls, n), i)).SameRegsBut x cls n := by
  by_cases h : cls = .t
  · subst h
    exact .of_ecc (Ctx.setT_frame ..)
  · rw [Ctx.putWord_of_ne h]
    exact Ctx.writeReg_frame ..

theorem Ctx.setS_pend (x : Ctx) (n : Nat) (v : Word) : (x.setS n v).pend = x.pend := by
  unfold Ctx.setS
  split <;> rfl

theorem Ctx.setP_pend (x : Ctx) (n : Nat) (v : Bool) : (x.setP n v).pend = x.pend := by
  unfold Ctx.setP
  split <;> rfl

theorem Ctx.writeReg_pend (x : Ctx) (cls : Cls) (n : Nat) (v : Row) (m : Quad) : (x.writeReg cls n v m).pend = x.pend := by
  obtain ⟨e, he⟩ := x.written_eq n cls m
  unfold Ctx.writeReg
  rw [he]
  cases cls with
  | s => exact Ctx.setS_pend ..
  | p => exact Ctx.setP_pend ..
  | _ => rfl

theorem Ctx.putWord_pend (ws : List Word) (x : Ctx) (e : (Cls × Nat) × Nat) : (x.putWord ws e).pend = x.pend := by
  unfold Ctx.putWord
  split
  case h_1 => rfl
  case h_2 => exact Ctx.writeReg_pend ..

/-- All the registers of a variable-latency result take their words. -/
def Ctx.putWords (x : Ctx) (ws : List Word) (regs : List (Cls × Nat)) : Ctx := regs.zipIdx.foldl (Ctx.putWord ws) x

theorem Ctx.putWords_pend (x : Ctx) (ws : List Word) (regs : List (Cls × Nat)) : (x.putWords ws regs).pend = x.pend := by
  unfold Ctx.putWords
  exact List.foldlRecOn (motive := fun y : Ctx => y.pend = x.pend) _ _ rfl
    fun y hy e _ => (Ctx.putWord_pend ws y e).trans hy

section
variable {α : Type} {get : Ctx → α} {ws : List Word} {cls : Cls} {n : Nat}
  (hget : ∀ (x : Ctx) (e : (Cls × Nat) × Nat), e.1 ≠ (cls, n) → get (x.putWord ws e) = get x)
include hget

/-- Words for other registers leave a register as it is. -/
theorem Ctx.foldl_putWord_other {l : List ((Cls × Nat) × Nat)} (hl : ∀ e ∈ l, e.1 ≠ (cls, n)) (x : Ctx) :
    get (l.foldl (Ctx.putWord ws) x) = get x :=
  List.foldlRecOn (motive := fun y => get y = get x) _ _ rfl fun y hy e he => (hget y e (hl e he)).trans hy

/-- A register that a result names once takes the word of its place, whatever the other registers take. -/
theorem Ctx.putWords_at {regs : List (Cls × Nat)} {i : Nat} (hn : regs.Nodup) (hi : regs[i]? = some (cls, n)) (x : Ctx) :
    ∃ y, get y = get x ∧ get (x.putWords ws regs) = get (y.putWord ws ((cls, n), i)) := by
  obtain ⟨l, r, hsplit⟩ := List.append_of_mem (List.mk_mem_zipIdx_iff_getElem?.mpr hi)
  rw [← List.zipIdx_map_fst 0 regs, hsplit, List.map_append, List.map_cons] at hn
  obtain ⟨hnot, -⟩ := List.nodup_cons.mp (List.nodup_middle.mp hn)
  rw [List.mem_append, not_or] at hnot
  refine ⟨l.foldl (Ctx.putWord ws) x, Ctx.foldl_putWord_other hget (fun e he h => hnot.1 (List.mem_map.mpr ⟨e, he, h⟩)) x, ?_⟩
  rw [Ctx.putWords, hsplit, List.foldl_append, List.foldl_cons]
  exact Ctx.foldl_putWord_other hget (fun e he h => hnot.2 (List.mem_map.mpr ⟨e, he, h⟩)) _

end

section
variable {regs : List (Cls × Nat)} {i n : Nat} (hn : regs.Nodup) (x : Ctx) (ws : List Word)
include hn

theorem Ctx.putWords_sReg (hi : regs[i]? = some (.s, n)) (h0 : n ≠ 0) : (x.putWords ws regs).sReg n = ws.getD i 0 := by
  have hget : ∀ (x : Ctx) (e : (Cls × Nat) × Nat), e.1 ≠ (.s, n) → (x.putWord ws e).sReg n = x.sReg n := fun x e he =>
    (Ctx.putWord_frame ws x e.1.1 e.1.2 e.2).1 n he
  obtain ⟨y, -, hy⟩ := Ctx.putWords_at (get := (Ctx.sReg · n)) hget hn hi x
  rw [hy, Ctx.putWord_of_ne (by decide), Ctx.sReg_writeReg, if_neg h0, BitVec.setWidth_setWidth_of_le _ (by decide), BitVec.setWidth_eq]

/-- A tile register takes the type word and keeps its descriptor (R436). -/
theorem Ctx.putWords_tReg (hi : regs[i]? = some (.t, n)) :
    (x.putWords ws regs).tReg n = { x.tReg n with tw := (wordsRow ws).setWidth 128 } := by
  have hget : ∀ (x : Ctx) (e : (Cls × Nat) × Nat), e.1 ≠ (.t, n) → (x.putWord ws e).tReg n = x.tReg n := fun x e he => by
    obtain ⟨-, -, -, -, ht, -⟩ := Ctx.putWord_frame ws x e.1.1 e.1.2 e.2
    exact ht n he
  obtain ⟨y, hold, hy⟩ := Ctx.putWords_at (get := (Ctx.tReg · n)) hget hn hi x
  rw [hy, ← hold]
  exact (Ctx.tReg_setT ..).trans (if_pos rfl)

end

/-- A variable-latency result with W = 1 lands in its registers, and is pending no more (R421). -/
theorem Core.landWords_ctx (c : Core) (k : Nat) {p : Pending} (hw : p.w = true) (ws : List Word) (live : Bool) :
    (c.landWords k p ws live).ctx k = { (c.ctx k).putWords ws p.regs with pend := (c.ctx k).pend.filter (fun q => q.id ≠ p.id) } := by
  rw [← Ctx.putWords_pend (c.ctx k) ws p.regs]
  unfold Core.landWords
  dsimp only
  rw [if_pos hw]
  split
  all_goals exact Core.ctx_setCtx_same ..

/-! ### VAR_RESULT_RETURN -/

section
variable {s : State} {ci k : Nat}

theorem exec_varResultReturn_idle (h : (s.core ci).svcs.find? (fun j => j.ctx = k && j.done) = none) :
    exec (.varResultReturn ci k) s = .next s := by
  dsimp only [exec, execVarResultReturn]
  rw [h]

/-- A state in which a job of a core has returned its words. -/
def State.dropSvc (s : State) (ci : Nat) (j : Job) : State :=
  s.modCore ci (fun c => { c with svcs := c.svcs.filter (fun i => i.id ≠ j.id) })

variable {j : Job} (h : (s.core ci).svcs.find? (fun j => j.ctx = k && j.done) = some j)
include h

theorem exec_varResultReturn_posts
    (hp : (((s.dropSvc ci j).gangCore j.task ci).ctx k).pend.find? (fun p => some p.id = j.pend) = none) :
    exec (.varResultReturn ci k) s = .next ((s.dropSvc ci j).postJob j) := by
  dsimp only [exec, execVarResultReturn]
  rw [h]
  dsimp only
  unfold State.dropSvc at hp ⊢
  rw [hp]

theorem exec_varResultReturn_lands {p : Pending}
    (hp : (((s.dropSvc ci j).gangCore j.task ci).ctx k).pend.find? (fun p => some p.id = j.pend) = some p) :
    exec (.varResultReturn ci k) s = .next (((s.dropSvc ci j).modGangCore j.task ci
      (fun d => d.landWords k p j.result ((s.core ci).resv.owner = some j.task))).postJob j) := by
  have howner : ((s.dropSvc ci j).core ci).resv = (s.core ci).resv := by
    rw [State.dropSvc, State.core_modCore_same]
  rw [← howner]
  dsimp only [exec, execVarResultReturn]
  rw [h]
  dsimp only
  unfold State.dropSvc at hp ⊢
  rw [hp]

end

/-! ### Causes at a boundary -/

section
variable {s : State} {ci k : Nat}

theorem exec_trapEntry_takes (he : (s.ctx ci k).eligible = true) (hc : (s.ctx ci k).hasCause = true) :
    exec (.trapEntry ci k) s = .next (s.boundary ci k).1 := if_pos (by rw [he, hc]; rfl)

theorem exec_trapEntry_none (hc : (s.ctx ci k).hasCause = false) : exec (.trapEntry ci k) s = .next s :=
  if_neg (by rw [hc, Bool.and_false]; exact Bool.false_ne_true)

/-- The state at a context's boundary: what is due has landed, and what a return left to replay is replayed (R298, R299). -/
def State.atBoundary (s : State) (ci k : Nat) : State := (s.land ci).modCore ci (fun c => c.replay k)

theorem State.boundary_held (hq : ((s.atBoundary ci k).ctx ci k).quiet = false) :
    s.boundary ci k = ((s.atBoundary ci k).modCore ci (fun c => c.hold k), false) := by
  unfold State.atBoundary at hq ⊢
  unfold State.boundary
  dsimp only
  rw [hq, if_pos (by decide)]

theorem State.boundary_takes {p : PendCause} (hq : ((s.atBoundary ci k).ctx ci k).quiet = true)
    (hp : ((s.atBoundary ci k).ctx ci k).nextCause = some p) : (s.boundary ci k).1 =
      ((s.atBoundary ci k).modCtx ci k (fun x => { x with causes := x.causes.filter (fun q => q.cause ≠ p.cause) })).takeTrap
        ci k p.cause p.val 0 [] := by
  unfold State.atBoundary at hq hp ⊢
  unfold State.boundary
  dsimp only
  rw [hq, if_neg (by decide), hp]

/-! ### WATCHDOG and SLEEP_EXPIRY -/

/-- A context's blocked bundle is overdue where WATCHDOG is on and a condition other than a pause has held for 2^30 ns
(R295). -/
theorem Ctx.overdue_of_blocked {x : Ctx} (hon : x.sr.arithx.getLsbD 1 = true) (hst : x.status = .blocked) (hh : x.held = false)
    (hs : x.stopped = false) : x.overdue = x.watch.find? (fun w => w.row ≠ 6 && w.since + 2 ^ 30 ≤ w.last) :=
  if_pos (by rw [hon, hst, hh, hs]; rfl)

theorem Ctx.overdue_none {x : Ctx} (h : x.sr.arithx.getLsbD 1 = false ∨ x.status ≠ .blocked ∨
    ∀ w ∈ x.watch, w.row = 6 ∨ w.last < w.since + 2 ^ 30) : x.overdue = none := by
  unfold Ctx.overdue
  split
  case isTrue hon =>
    simp only [Bool.and_eq_true, decide_eq_true_eq] at hon
    obtain ⟨⟨⟨hon, hst⟩, -⟩, -⟩ := hon
    refine List.find?_eq_none.mpr fun w hw hlate => ?_
    have hrow := (h.resolve_left (by simp [hon])).resolve_left (not_not.mpr hst) w hw
    obtain ⟨hne, hlate⟩ : w.row ≠ 6 ∧ w.since + watchTicks ≤ w.last := by simpa using hlate
    exact hrow.elim hne (Nat.not_lt_of_le hlate)
  case isFalse => rfl

theorem exec_watchdog_overdue {w : BlockWatch} (h : (s.ctx ci k).overdue = some w) :
    exec (.watchdog ci k) s = .next (s.modCtx ci k (fun x => x.pendCause .watchdog (w.row.setWidth 64))) := by
  dsimp only [exec, execWatchdog]
  rw [h]

theorem exec_watchdog_none (h : (s.ctx ci k).overdue = none) : exec (.watchdog ci k) s = .next s := by
  dsimp only [exec, execWatchdog]
  rw [h]

theorem exec_sleepExpiry_set {d : Nat} (h : SMap.get none (s.ctx ci k).deadline (s.ctx ci k).pauseKey = some d) :
    exec (.sleepExpiry ci k) s = .next (if (s.ctx ci k).status = .blocked ∧ d ≤ s.tick then
      s.modCtx ci k (fun x => { x with status := .ready }) else s) := by
  dsimp only [exec, execSleepExpiry]
  rw [h, apply_ite Host.Outcome.next]
  simp only [Bool.and_eq_true, decide_eq_true_eq]

theorem exec_sleepExpiry_none (h : SMap.get none (s.ctx ci k).deadline (s.ctx ci k).pauseKey = none) :
    exec (.sleepExpiry ci k) s = .next s := by
  dsimp only [exec, execSleepExpiry]
  rw [h]

/-! ### RINK_ROW_FILLED -/

theorem exec_rinkRowFilled_landed {n : Nat} {rest : List Nat} (h : ((s.core ci).rink k).landed = n :: rest) :
    exec (.rinkRowFilled ci k) s = if n = 128 then .next (s.modCore ci (fun d => d.setRink k { (s.core ci).rink k with
      infl := ((s.core ci).rink k).infl - 1
      filled := ((s.core ci).rink k).filled + 1
      landed := rest })) else .next s := by
  dsimp only [exec, execRinkRowFilled]
  rw [h]

/-! ### LOAD_BLOCK_SETTLED -/

/-- One line of a load block's fill: its number, where it is found (R197). -/
def Eng.blockLine (d : Nat) (a : Eng × List Nat) (i : Nat) : Eng × List Nat :=
  match a.1.xlate (d + 64 * i) false false 3 with
  | (e, some (pa, _)) => (e, a.2 ++ [pa / 64])
  | (e, none) => (e, a.2)

/-- How a fill ends: its lines are pinned where there is room; it waits; or it is refused (R197). -/
def Eng.settles (v : Eng) (ci k : Nat) (ls : List Nat) : State :=
  match v.stop with
  | none => if v.s.pinRoom ls then v.s.settleBlock ci k .pinned ls v.pts else v.s.settleBlock ci k .nopin [] v.pts
  | some .wait => v.s
  | some _ => v.s.settleBlock ci k .nopin [] v.pts

theorem Eng.settles_refused {v : Eng} (h : v.stop ≠ none) (hw : v.stop ≠ some .wait) (ci k : Nat) (ls : List Nat) :
    v.settles ci k ls = v.s.settleBlock ci k .nopin [] v.pts := by
  unfold Eng.settles
  split
  case h_1 e => exact absurd e h
  case h_2 e => exact absurd e hw
  case h_3 => rfl

section
variable {b : LoadBlock} (hb : b = SMap.get LoadBlock.init (s.core ci).lbs k)
include hb

theorem exec_loadBlockSettled_idle (hst : b.st ≠ .filling) : exec (.loadBlockSettled ci k) s = .next s := if_pos (hb ▸ hst)

theorem exec_loadBlockSettled_fills {u v : Eng} {d : Nat} {ls : List Nat} (hst : b.st = .filling)
    (hcap : (s.engine (.loadBlock ci k) b.space (s.ctx ci b.ctx).pts).atCap b.cap b.start (64 * b.count) false 3 = (u, d))
    (hlines : (List.range b.count).foldl (Eng.blockLine d) (u, []) = (v, ls)) :
    exec (.loadBlockSettled ci k) s = .next (v.settles ci k ls) := by
  subst hb
  dsimp only [exec, execLoadBlockSettled]
  rw [if_neg (not_not.mpr hst), hcap]
  dsimp only
  generalize hfold : List.foldl _ (u, []) _ = q
  rw [show q = (v, ls) from hfold.symm.trans hlines]
  dsimp only
  split
  case h_1 hstop => rw [Eng.settles, hstop, apply_ite Host.Outcome.next]
  case h_2 hstop => rw [Eng.settles, hstop]
  case h_3 p hp hstop => rw [Eng.settles_refused (by simp [hstop]) (by simpa [hstop] using hp)]

end

/-! ### RPLACK_COMPLETE -/

theorem exec_rplackComplete_none (h : (s.ctx ci k).rplacks = []) : exec (.rplackComplete ci k) s = .next s := by
  dsimp only [exec, execRplackComplete]
  rw [h]

/-- The record that an acknowledgement writes (R71, R440). -/
def State.ackRecord (s : State) (ci k : Nat) : List Byte :=
  faultBytes s ((s.ctx ci k).lastReplay.getD (BitVec.allOnes 32)) (s.spaceOf ci) 0 0 0 ci (s.ctx ci k).sr.xlvl.toNat k (s.taskIdOf ci)

section
variable {j : Job} {rest : List Job} {wants : Bool} {ids : List Nat} (h : (s.ctx ci k).rplacks = j :: rest)
  (hk : j.kind = .rplack wants ids)
include h hk

/-- An acknowledgement by what it waits for: entries of its record, and room for the record that it writes (R440). -/
theorem exec_rplackComplete_ack : exec (.rplackComplete ci k) s =
    if (∃ i ∈ ids, (s.ctx ci k).entryIds.contains i = true) ∨ (wants = true ∧ (s.faultWait ≠ [] ∨ s.fq.full = true)) then .next s
    else .next (((if wants then s.pushFault (s.ackRecord ci k) else s).modCtx ci k (fun x => { x with rplacks := rest })).postJob j) := by
  dsimp only [exec, execRplackComplete]
  rw [h]
  dsimp only
  rw [hk]
  dsimp only
  refine if_congr ?_ rfl rfl
  simp only [Bool.or_eq_true, Bool.and_eq_true, List.any_eq_true, decide_eq_true_eq]

end
end

/-- A fault record changes no core. -/
theorem State.pushFault_cores {s : State} (hw : s.faultWait = []) (hf : s.fq.full = false) (e : List Byte) :
    (s.pushFault e).cores = s.cores := by
  rw [State.pushFault_of_room hw hf]
  exact s.memPut_cores ..

/-- Settles O13: each event by what it finds on its core. -/
theorem coresAdvance : Obligations.CoresAdvance := by
  intro s ci k c x
  refine ⟨fun due hdue => ?resultLand, fun j hj => ⟨exec_varResultReturn_posts hj, fun p => exec_varResultReturn_lands hj⟩,
    fun p ws live i n hw hn => ?landWords, exec_varResultReturn_idle, exec_trapEntry_takes, exec_trapEntry_none,
    fun p => ⟨State.boundary_held, State.boundary_takes⟩,
    fun w hw hon hst hh hs => exec_watchdog_overdue ((Ctx.overdue_of_blocked hon hst hh hs).trans hw),
    fun h => exec_watchdog_none (Ctx.overdue_none h), fun d => exec_sleepExpiry_set, exec_sleepExpiry_none,
    fun n rest h => ?rink, fun b hb => ⟨exec_loadBlockSettled_idle hb, fun u d v ls hst hcap hlines => ?block⟩,
    exec_rplackComplete_none, fun j rest r l h hk hwait => ?ackWaits, fun j rest r l h hk hdone => ?ackDone⟩
  case resultLand =>
    subst hdue
    rfl
  case landWords =>
    rw [Core.landWords_ctx c k hw]
    refine ⟨fun hi h0 => Ctx.putWords_sReg hn (c.ctx k) ws hi h0, fun hi => ?_, rfl⟩
    have htile := Ctx.putWords_tReg hn (c.ctx k) ws hi
    exact ⟨congrArg TileReg.tw htile, (congrArg TileReg.desc htile).trans rfl⟩
  case rink => exact ⟨fun hn => (exec_rinkRowFilled_landed h).trans (if_pos hn), fun hn => (exec_rinkRowFilled_landed h).trans (if_neg hn)⟩
  case block =>
    rw [exec_loadBlockSettled_fills hb hst hcap hlines]
    refine ⟨fun hstop => ?_, fun hstop => ?_, fun hstop hwait => ?_⟩
    · rw [Eng.settles, hstop]
    · rw [Eng.settles, hstop]
    · rw [Eng.settles_refused hstop hwait]
  case ackWaits => exact (exec_rplackComplete_ack h hk).trans (if_pos hwait)
  case ackDone =>
    have hperformed : ¬ ∃ i ∈ l, x.entryIds.contains i = true := fun ⟨i, hi, hentry⟩ =>
      Bool.false_ne_true ((hdone i hi).symm.trans hentry)
    refine ⟨fun hr => ?_, fun hr hwait hroom => ⟨?_, (State.pushFault_fills hwait hroom _).1, State.pushFault_cores hwait hroom _⟩⟩
    · rw [exec_rplackComplete_ack h hk, if_neg (not_or.mpr ⟨hperformed, fun h => Bool.false_ne_true (hr.symm.trans h.1)⟩)]
      subst hr
      rfl
    · rw [exec_rplackComplete_ack h hk, if_neg (not_or.mpr ⟨hperformed, fun h =>
        h.2.elim (· hwait) fun hfull => Bool.false_ne_true (hroom.symm.trans hfull)⟩)]
      subst hr
      rfl

end Sys2Proof.Machine
end

section
/-!
PROOFS. Rounding a representable value (R219, R221, R222): a bit pattern that is no NaN is its sign, exponent and
fraction, its value lies on the grid that `roundMag` rounds to, and encoding that value puts the three fields together again.
-/

namespace Sys2Proof.Machine

/-- What the five formats have in common (R219): a sign above the exponent above the fraction, an exponent of two bits at
least and a fraction of one. -/
structure FFmt.Layout (f : FFmt) : Prop where
  width : f.w = f.fb + f.eb + 1
  expBits : 2 ≤ f.eb
  fracBits : 1 ≤ f.fb

theorem FFmt.layout_of_mem {f : FFmt} (h : f ∈ [fp32, fp16, bf16, e4m3, e5m2]) : f.Layout := by
  simp only [List.mem_cons, List.not_mem_nil, or_false] at h
  rcases h with rfl | rfl | rfl | rfl | rfl <;> constructor <;> decide

/-! ### The fields of a pattern -/

/-- The pattern of a sign, an exponent and a fraction. -/
def FFmt.pack (f : FFmt) (neg : Bool) (ex fr : Nat) : Nat := f.signBit neg + (ex * 2 ^ f.fb + fr)

theorem FFmt.pack_fields {f : FFmt} (hf : f.Layout) {n : Nat} (hn : n < 2 ^ f.w) :
    f.pack (n.testBit (f.w - 1)) (bits n f.fb f.eb) (bits n 0 f.fb) = n := by
  have hsplit : bits n f.fb f.eb * 2 ^ f.fb + bits n 0 f.fb = n % 2 ^ (f.fb + f.eb) := by
    rw [bits_eq_div, bits_eq_div, pow_zero, Nat.div_one, Nat.pow_add, Nat.mod_mul]
    ring
  have htop : n / 2 ^ (f.fb + f.eb) < 2 := by
    rw [hf.width, pow_succ] at hn
    exact Nat.div_lt_of_lt_mul hn
  have hsign : f.signBit (n.testBit (f.w - 1)) = 2 ^ (f.fb + f.eb) * (n / 2 ^ (f.fb + f.eb)) := by
    rw [FFmt.signBit, hf.width, Nat.add_sub_cancel, Nat.testBit_eq_decide_div_mod_eq, Nat.mod_eq_of_lt htop]
    obtain h | h := Nat.le_one_iff_eq_zero_or_eq_one.mp (Nat.lt_succ_iff.mp htop) <;> simp [h]
  rw [FFmt.pack, hsplit, hsign, Nat.div_add_mod]

theorem bits_lt (n lo w : Nat) : bits n lo w < 2 ^ w := Nat.mod_lt _ (by positivity)

/-- The significand and the exponent of fields that stand for no infinity and no NaN (R219). -/
def FFmt.mag (f : FFmt) (ex fr : Nat) : Nat × Int :=
  if ex = 0 then (fr, 1 - f.bias - f.fb) else (2 ^ f.fb + fr, ex - f.bias - f.fb)

/-- Fields that stand for a finite value (R219): the highest exponent is kept for infinities and NaNs, in E4M3 its highest
fraction alone for the NaN. -/
def FFmt.FiniteFields (f : FFmt) (ex fr : Nat) : Prop :=
  fr < 2 ^ f.fb ∧ if f.e4 then ex < 2 ^ f.eb ∧ ¬ (ex = 2 ^ f.eb - 1 ∧ fr = 2 ^ f.fb - 1) else ex < 2 ^ f.eb - 1

/-- A pattern that is no NaN is an infinity or a finite value, by its fields (R219). -/
theorem unpack_cases {f : FFmt} {n ex fr : Nat} (hex : bits n f.fb f.eb = ex) (hfr : bits n 0 f.fb = fr)
    (h : (unpack f n).isNan = false) :
    (f.e4 = false ∧ ex = 2 ^ f.eb - 1 ∧ fr = 0 ∧ unpack f n = .inf (n.testBit (f.w - 1))) ∨
    (f.FiniteFields ex fr ∧ unpack f n = .fin (n.testBit (f.w - 1)) (f.mag ex fr).1 (f.mag ex fr).2) := by
  have hexLt : ex < 2 ^ f.eb := hex ▸ bits_lt ..
  have hfrLt : fr < 2 ^ f.fb := hfr ▸ bits_lt ..
  unfold FFmt.FiniteFields FFmt.mag
  unfold unpack at h ⊢
  rw [hex, hfr] at h ⊢
  dsimp only at h ⊢
  cases he : f.e4 <;> simp only [he, Bool.not_true, Bool.not_false, Bool.true_and, Bool.false_and, Bool.and_eq_true,
    decide_eq_true_eq, Bool.false_eq_true, if_true, if_false] at h ⊢
  case false =>
    by_cases htop : ex = 2 ^ f.eb - 1
    · by_cases hzero : fr = 0
      · exact .inl ⟨trivial, htop, hzero, by rw [if_pos htop, if_pos hzero]⟩
      · rw [if_pos htop, if_neg hzero] at h
        cases h
    · refine .inr ⟨⟨hfrLt, by omega⟩, ?_⟩
      rw [if_neg htop]
      split <;> rfl
  case true =>
    by_cases hnan : ex = 2 ^ f.eb - 1 ∧ fr = 2 ^ f.fb - 1
    · rw [if_pos hnan] at h
      cases h
    · refine .inr ⟨⟨hfrLt, hexLt, hnan⟩, ?_⟩
      rw [if_neg hnan]
      split <;> rfl

/-! ### Rounding a magnitude that lies on the grid -/

theorem roundsUp_exact (mode : Nat) (neg odd : Bool) : roundsUp mode neg odd .lt false = false := by
  unfold roundsUp
  split <;> simp

/-- A multiple of the step is kept as it is (R221). -/
theorem roundAt_exact (mode : Nat) (neg : Bool) (m : Nat) (e : Int) : roundAt mode neg m e false e = (m, false) := by
  simp [roundAt, roundsUp_exact, pow2]

theorem cmpMag_ne_gt {m n : Nat} {e g : Int} (he : e ≤ g) (hm : m ≤ n * 2 ^ (g - e).toNat) : cmpMag m e n g ≠ .gt := by
  have hstep : (e - g).toNat = 0 := by omega
  rw [cmpMag, pow2, pow2, hstep, pow_zero, mul_one]
  exact fun hgt => Nat.not_lt.mpr hm (Nat.compare_eq_gt.mp hgt)

theorem cmpMag_ne_gt_of_le {m n : Nat} {e g : Int} (he : e ≤ g) (hm : m ≤ n) : cmpMag m e n g ≠ .gt :=
  cmpMag_ne_gt he (hm.trans (Nat.le_mul_of_pos_right n (by positivity)))

/-- At a lower exponent a magnitude may have up to twice the significand. -/
theorem cmpMag_ne_gt_of_lt {m n : Nat} {e g : Int} (he : e < g) (hm : m ≤ n * 2) : cmpMag m e n g ≠ .gt :=
  cmpMag_ne_gt he.le (hm.trans (Nat.mul_le_mul_left n (Nat.le_self_pow (by omega) 2)))

/-- A magnitude that a format represents as it is written: its significand fits, it is normal or at the lowest exponent, and
it is no larger than the largest finite magnitude. -/
structure FFmt.Represents (f : FFmt) (m : Nat) (e : Int) : Prop where
  fits : m < 2 ^ (f.fb + 1)
  lowest : 1 - f.bias - f.fb ≤ e
  normal : m < 2 ^ f.fb → e = 1 - f.bias - f.fb
  inRange : cmpMag m e f.maxFin.1 f.maxFin.2 ≠ .gt

/-- The step of a represented magnitude is its own exponent (R221). -/
theorem FFmt.Represents.step {f : FFmt} {m : Nat} {e : Int} (h : f.Represents m e) (hm : m ≠ 0) :
    max ((Nat.log2 m : Int) + e - f.fb) (1 - f.bias - f.fb) = e := by
  have htop : Nat.log2 m < f.fb + 1 := (Nat.log2_lt hm).mpr h.fits
  have hlow := h.lowest
  rcases Nat.lt_or_ge m (2 ^ f.fb) with hsub | hnorm
  · have := h.normal hsub
    omega
  · have : f.fb ≤ Nat.log2 m := (Nat.le_log2 hm).mpr hnorm
    omega

/-- A represented magnitude is encoded as it is, with no flag (R221, R223). -/
theorem FFmt.Represents.roundMag_eq {f : FFmt} {m : Nat} {e : Int} (h : f.Represents m e) (mode : Nat) (sat neg : Bool) :
    roundMag f mode sat neg m e false =
      (f.signBit neg + if m < 2 ^ f.fb then m else (e + f.fb + f.bias).toNat * 2 ^ f.fb + (m - 2 ^ f.fb), 0) := by
  by_cases hm : m = 0
  · simp [roundMag, hm]
  · have hrange : ¬ (cmpMag m e f.maxFin.1 f.maxFin.2 == .gt) = true := by simpa using h.inRange
    simp only [roundMag, hm, h.step hm, roundAt_exact, if_neg hrange, if_neg h.fits.ne]
    simp [Fl.when]

/-! ### Finite fields -/

theorem FFmt.mag_fst_lt (f : FFmt) {ex fr : Nat} (h : fr < 2 ^ f.fb) : (f.mag ex fr).1 < 2 ^ (f.fb + 1) := by
  rw [pow_succ]
  unfold FFmt.mag
  split <;> dsimp only <;> omega

/-- Zero and the subnormal values have the exponent of the lowest normal values (R219). -/
theorem FFmt.mag_snd (f : FFmt) (ex fr : Nat) : (f.mag ex fr).2 = (max ex 1 : Nat) - f.bias - f.fb := by
  unfold FFmt.mag
  split <;> dsimp only <;> omega

theorem FFmt.FiniteFields.inRange {f : FFmt} (hf : f.Layout) {ex fr : Nat} (h : f.FiniteFields ex fr) :
    cmpMag (f.mag ex fr).1 (f.mag ex fr).2 f.maxFin.1 f.maxFin.2 ≠ .gt := by
  obtain ⟨hfr, hex⟩ := h
  have hfit := f.mag_fst_lt (ex := ex) hfr
  have hexp := f.mag_snd ex fr
  have hexps : 2 ^ 2 ≤ 2 ^ f.eb := Nat.pow_le_pow_right (by omega) hf.expBits
  have hfracs : 2 ^ 1 ≤ 2 ^ f.fb := Nat.pow_le_pow_right (by omega) hf.fracBits
  unfold FFmt.maxFin
  cases he : f.e4 <;> simp only [he, Bool.false_eq_true, if_true, if_false] at hex ⊢
  case false => exact cmpMag_ne_gt_of_le (by omega) (by omega)
  case true =>
    by_cases htop : ex = 2 ^ f.eb - 1
    · have hmag : (f.mag ex fr).1 = 2 ^ f.fb + fr := by rw [FFmt.mag, if_neg (by omega)]
      exact cmpMag_ne_gt_of_le (by omega) (by rw [hmag, pow_succ]; omega)
    · exact cmpMag_ne_gt_of_lt (by omega) (by rw [pow_succ] at hfit ⊢; omega)

theorem FFmt.FiniteFields.represents {f : FFmt} (hf : f.Layout) {ex fr : Nat} (h : f.FiniteFields ex fr) :
    f.Represents (f.mag ex fr).1 (f.mag ex fr).2 where
  fits := f.mag_fst_lt h.1
  lowest := by rw [f.mag_snd]; omega
  normal := by
    unfold FFmt.mag
    split
    · exact fun _ => rfl
    · exact fun hlt => absurd hlt (by dsimp only; omega)
  inRange := h.inRange hf

/-- A finite value is rounded to the pattern of its own fields. -/
theorem FFmt.FiniteFields.roundMag_eq_pack {f : FFmt} (hf : f.Layout) {ex fr : Nat} (h : f.FiniteFields ex fr) (mode : Nat)
    (sat neg : Bool) : roundMag f mode sat neg (f.mag ex fr).1 (f.mag ex fr).2 false = (f.pack neg ex fr, 0) := by
  rw [(h.represents hf).roundMag_eq, FFmt.pack]
  have hfr := h.1
  unfold FFmt.mag
  by_cases hzero : ex = 0
  · simp [hzero, hfr]
  · simp [hzero]

theorem roundTo_inf {f : FFmt} (he : f.e4 = false) (mode : Nat) (sat neg : Bool) :
    roundTo f mode sat (.inf neg) = (f.pack neg (2 ^ f.eb - 1) 0, 0) := by
  simp [roundTo, he, FFmt.infBits, FFmt.pack]

/-- Settles O58: an infinity by its encoding, a finite value because it lies on the grid; both are the pattern's own fields. -/
theorem representableRoundsToItself : Obligations.RepresentableRoundsToItself := by
  intro f hmem m n sat _ hn hnan
  have hf := FFmt.layout_of_mem hmem
  have hpack := FFmt.pack_fields hf hn
  obtain ⟨he, hex, hfr, hv⟩ | ⟨hfin, hv⟩ := unpack_cases rfl rfl hnan
  · rw [hex, hfr] at hpack
    rw [hv, roundTo_inf he, hpack]
  · rw [hv, roundTo, hfin.roundMag_eq_pack hf, hpack]

end Sys2Proof.Machine
end

section
/-!
PROOFS. The copy table and the copy gos (R242, R248 to R250, R423 to R425).
-/

namespace Sys2Proof.Machine

/-! ### The operands of a plain copy go -/

/-- A memory operand passes where the capability holds its right and E over the whole reach of its stream (R249, R421). -/
theorem Env.cpOperand_mem {e : Env} {field : BitVec 9} {role u : Nat} {lo hi : Int} {c : Cap} (hc : e.srcA field = .ok c)
    (ha : e.EngAllows c (if role = 1 then rW else rR) (unitOf (c.off + lo) u)
      (unitOf (c.off + hi) u + u - unitOf (c.off + lo) u).toNat) :
    e.cpOperand .m field role lo hi u false false = .ok (.mem c, e.memRegion c (unitOf (c.off + lo) u)
      (unitOf (c.off + hi) u + u - unitOf (c.off + lo) u).toNat) := by
  have hcheck := engCap_ok (areg := aIndex field) ha
  simp only [Env.cpOperand, hc, Bind.bind, Except.bind, Bool.or_false, hcheck]
  rfl

/-- The operand that a plain copy go names for one stream of its nest (R249). -/
def Env.streamOperand (e : Env) (st : CpStore) (field : BitVec 9) (role u : Nat) (indexed : Bool) :
    Except Stop (CpOperand × List Region) :=
  let reach := nestReach e.x.ctab e.x.sr.slr role
  e.cpOperand st field role reach.1 reach.2 u indexed (decide (nestIters e.x.ctab e.x.sr.slr = 0))

/-- What is asked of the index stream of a plain copy go (R249): none, or a memory operand that passes. -/
def Env.IndexPasses (e : Env) (f : EFmt) : Option (Cap × List Region) → Prop
  | none => f.mod.getLsbD 4 = false
  | some (c, ri) => f.mod.getLsbD 4 = true ∧ e.streamOperand .m f.sb 2 4 false = .ok (.mem c, ri)

/-- A plain copy go with a well-formed nest whose operands pass their checks hands over one job (R248, R424). -/
theorem Env.plainGo_hands {e : Env} {src dst : CpStore} {f : EFmt} {a d : CpOperand} {ra rd : List Region}
    {idx : Option (Cap × List Region)} (hnest : nestBad .copy e.x.ctab = false)
    (hindexed : f.mod.getLsbD 4 = decide (nIdx e.x.ctab ≠ 0)) (hop : dst = .a → f.mod.toNat % 4 < 2)
    (ha : e.streamOperand src f.sa 0 (2 ^ nUsz e.x.ctab) (decide (nIdx e.x.ctab = 1)) = .ok (a, ra))
    (hd : e.streamOperand dst f.dst 1 (2 ^ nUsz e.x.ctab) (decide (nIdx e.x.ctab = 2)) = .ok (d, rd)) (hidx : e.IndexPasses f idx) :
    e.plainGo src dst f = .ok (e.command e.s (.plain e.x.ctab e.x.sr.slr a d (idx.map (·.1))
      (if dst = .a then f.mod.extractLsb' 0 2 else 0) (decide (dst = .a) && f.mod.getLsbD 2)) (fvFlag f)
      (ra ++ (idx.map (·.2)).getD []) rd) := by
  have hsmall : ¬ 2 ≤ (if dst = .a then f.mod.extractLsb' 0 2 else 0) := by
    split
    case isTrue h =>
      have hbits : (f.mod.extractLsb' 0 2).toNat = f.mod.toNat % 4 := BitVec.extractLsb'_toNat ..
      have := hop h
      bv_omega
    case isFalse => decide
  have hagree : decide ((f.mod.getLsbD 4 = true) ≠ (nIdx e.x.ctab ≠ 0)) = false := by rw [hindexed]; simp
  unfold Env.streamOperand at ha hd
  simp only [Env.plainGo, Bind.bind, Except.bind, stopIf_false hnest, stopIf_false hagree, stopIf_false (decide_eq_false hsmall),
    ha, hd]
  cases idx with
  | none =>
    rw [if_neg (Bool.eq_false_iff.mp hidx)]
    rfl
  | some i =>
    obtain ⟨hix, hi⟩ := hidx
    unfold Env.streamOperand at hi
    rw [if_pos hix, hi]
    rfl

/-! ### The copy gos -/

section
variable {e : Env} {src dst : CpStore} {f : EFmt}

theorem Env.copyGo_full (ha : e.s.iss.ask = .issue) (hfull : e.copyFull = true) : e.copyGo src dst f = .error (.block 3) := by
  rw [Env.copyGo, Env.blockIf_true ha hfull]
  rfl

variable (hroom : e.copyFull = false)
include hroom

theorem Env.copyGo_plain (h0 : e.h.fmt = 0) : e.copyGo src dst f = e.plainGo src dst f := by
  rw [Env.copyGo, Env.blockIf_false hroom]
  exact if_pos (congrArg BitVec.toNat h0)

theorem Env.copyGo_expand (h5 : e.h.fmt = 5) : e.copyGo .m .e f = e.expandGo f := by
  rw [Env.copyGo, Env.blockIf_false hroom, h5]
  rfl

theorem Env.copyGo_undefined (h0 : e.h.fmt ≠ 0) (h5 : e.h.fmt ≠ 5) : e.copyGo src dst f = .error (engineErr 6 0) := by
  have hplain : ¬ e.h.fmt.toNat = 0 := fun h => h0 (BitVec.eq_of_toNat_eq h)
  have hexpand : ¬ e.h.fmt.toNat = 5 := fun h => h5 (BitVec.eq_of_toNat_eq h)
  rw [Env.copyGo, Env.blockIf_false hroom]
  exact (if_neg hplain).trans (if_neg (by simp [hexpand]))

end

/-- A bundle expand hands over one job, which reads its object from its offset on and writes the edge (R254, R425). -/
theorem Env.expandGo_hands {e : Env} {f : EFmt} {c : Cap} {v : Word} (hindexed : f.mod.getLsbD 4 = false)
    (hc : e.srcA f.sa = .ok c) (hv : e.srcS f.dst = .ok v) (hcap : c.Allows (rX ||| rE) c.off 16) :
    e.expandGo f = .ok (e.command e.s (.expand c (v.getLsbD 10) (fld v 0 10)) (fvFlag f)
      (e.memRegion c c.off (c.len - c.off.toNat)) [.edge (v.getLsbD 10) (fld v 0 10) 1024]) := by
  simp only [Env.expandGo, stopIf_false hindexed, hc, hv, Bind.bind, Except.bind, capCheck_ok hcap]
  rfl

/-- Settles O37: the table by its words, each go by the room in the queue, its TSEL and the checks of its operands. -/
theorem copyGos : Obligations.CopyGos := by
  intro h s e t slr
  refine ⟨fun f a r ha => runSlot_ready r (Env.srcS_bind ha _), fun f r => runSlot_ready r rfl,
    fun f r => runSlot_ready r (Env.retS_eq ..), fun form hform f r => ?go, fun field role lo hi u c => Env.cpOperand_mem,
    fun f c v r hroom h5 hindexed hc hv hcap => ?expand⟩
  case go =>
    have hexec : exec (form.1 h f) s = runE form.2.1 .eg h f s (fun e => e.copyGo form.2.2.1 form.2.2.2 f) := by
      clear r
      fin_cases hform <;> rfl
    rw [hexec]
    refine ⟨fun hfull => runSlot_blocks r (Env.copyGo_full r.plain hfull),
      fun hroom h0 h5 => runSlot_traps r (Env.copyGo_undefined hroom h0 h5),
      fun a d ra rd idx hroom h0 hnest hindexed hop ha hd hidx => runSlot_ready r ((Env.copyGo_plain hroom h0).trans ?_)⟩
    exact Env.plainGo_hands hnest hindexed hop ha hd (by cases idx <;> exact hidx)
  case expand =>
    have hedge : v.toNat % 1024 = fld v 0 10 := rfl
    rw [hedge]
    exact runSlot_ready r ((Env.copyGo_expand hroom h5).trans (Env.expandGo_hands hindexed hc hv hcap))

end Sys2Proof.Machine
end

section
/-!
PROOFS. The jobs of the copy and matrix engines and the commands of the merge network (R240 to R242, R246, R264 to R271,
R280, R427 to R430).
-/

namespace Sys2Proof.Machine

/-! ### The copy engine -/

section
variable {s : State} {n : Nat} {j : Job} {t : List Job} (hq : (s.core n).ce = j :: t)
include hq

/-- The job at the head of the copy queue starts once, when no earlier job meets it (R240). -/
theorem exec_copyJobStart_head : exec (.copyJobStart n) s = if j.started = true ∨ s.jobWaits j = true then .next s
    else .next (s.modCore n (fun c => { c with ce := { j with started := true } :: t })) := by
  dsimp only [exec, execCopyJobStart]
  rw [hq]
  simp only [Bool.or_eq_true]

theorem exec_copyJobComplete_waits (hw : s.jobWaits j = true) : exec (.copyJobComplete n) s = .next s := by
  dsimp only [exec, execCopyJobComplete]
  rw [hq]
  exact if_pos (by rw [hw, Bool.or_true])

/-- A started copy job that its engine carries to the end completes with its status (R241). -/
theorem exec_copyJobComplete_done {c : Copy} {st : Nat} (hs : j.started = true) (hw : s.jobWaits j = false)
    (hrun : (Copy.start s j).run = (c, st)) (hstop : c.e.stop = none) : exec (.copyJobComplete n) s =
      .next (c.e.s.finishJob { j with pts := c.e.pts } (.ce n) st c.j.pos) := by
  dsimp only [exec, execCopyJobComplete]
  rw [hq]
  dsimp only
  rw [if_neg (by rw [hs, hw]; decide), hrun]
  dsimp only
  rw [hstop]

end

/-! ### The matrix engine -/

section
variable {s : State} {n : Nat} {j : Job} {t : List Job} (hq : (s.core n).me = j :: t)
include hq

/-- A matrix job starts with the rows that it reads as they stand (R240, R256). -/
theorem exec_matrixJobStart_starts (hs : j.started = false) (hw : s.jobWaits j = false) : exec (.matrixJobStart n) s =
    .next (s.modCore n (fun c => { c with
      me := { j with started := true, held := (rowsIn j.reads).map (fun r => (r, (s.core n).row r)) } :: t })) := by
  dsimp only [exec, execMatrixJobStart]
  rw [hq]
  exact if_neg (by rw [hs, hw]; decide)

theorem exec_matrixJobComplete_done {c : Copy} (hs : j.started = true) (hrun : (Copy.startMatrix s j).runMatrix = c)
    (hstop : c.e.stop = none) : exec (.matrixJobComplete n) s =
      .next (c.e.s.finishJob { j with pts := c.e.pts } (.me n) 0 0) := by
  subst hrun
  dsimp only [exec, execMatrixJobComplete]
  rw [hq]
  dsimp only
  rw [if_neg (by rw [hs]; decide), hstop]

end

/-! ### The merge network -/

/-- The events of a cluster's merge network (R428 to R430). -/
def mergeEvents (n : Nat) : List Instr := [.mergeOpenApply n, .mergePushApply n, .mergeCloseApply n, .mergeStatusApply n]

/-- The session as a push leaves it: its records taken one by one, and its stream ended (R267). -/
def Mgn.pushed (g : Mgn) (st : Nat) (recs : List (Word × BitVec 32)) (ending : Bool) : Mgn :=
  let g := recs.foldl (fun g r => g.record st r.1 r.2) g.settle
  if ending then g.endStream st else g

/-- The word that answers a status query (R430). -/
def Merge.statusWord (m : Merge) : Nat :=
  match m.st with
  | .idle => 0
  | .opened => 1 + m.store.length * 2 ^ 16 + m.runs.length * 2 ^ 32
  | .failed => 2 + m.store.length * 2 ^ 16 + m.runs.length * 2 ^ 32 + m.fail.toNat * 2 ^ 40

theorem Merge.statusWord_idle {m : Merge} (h : m.st = .idle) : m.statusWord = 0 := by rw [Merge.statusWord, h]

theorem Merge.statusWord_opened {m : Merge} (h : m.st = .opened) :
    m.statusWord = 1 + m.store.length * 2 ^ 16 + m.runs.length * 2 ^ 32 := by rw [Merge.statusWord, h]

section
variable {s : State} {n : Nat} {j : Job} {t : List Job} (hq : (s.mergeOf n).queue = j :: t)
include hq

/-- A merge command waits at the head of its queue for an earlier job that meets it (R280). -/
theorem exec_merge_waits (hw : s.jobWaits j = true) {i : Instr} (hi : i ∈ mergeEvents n) : exec i s = .next s := by
  simp only [mergeEvents, List.mem_cons, List.not_mem_nil, or_false] at hi
  rcases hi with rfl | rfl | rfl | rfl
  all_goals
    dsimp only [exec, execMergeOpenApply, execMergePushApply, execMergeCloseApply, execMergeStatusApply]
    rw [hq]
    exact if_pos hw

variable (hw : s.jobWaits j = false)
include hw

theorem exec_mergeOpenApply_opens {c : Cap} {cap d : Nat} {e e' : Eng} {b : List Byte} {x : Merge} (hk : j.kind = .mopen c cap)
    (hst : (s.mergeOf n).st = .idle) (hcap : (s.mergeEngine n j.space j).atCap c c.off 80 false 3 = (e, d))
    (hread : e.readOk d 80 3 = (e', b)) (hstop : e'.stop = none) (hx : openBlock e'.s e'.rq j.space b cap = some x) :
    exec (.mergeOpenApply n) s = .next (((e'.s.setMerge n { x with
      task := j.task
      core := j.core
      flag := j.flag.getD 0
      queue := (s.mergeOf n).queue }).mergePop n).answer { j with flag := none } [0]) := by
  dsimp only [exec, execMergeOpenApply]
  simp only [hq, hw, hk, Bool.false_eq_true, if_false]
  rw [hcap]
  dsimp only
  rw [hread]
  dsimp only
  rw [hstop]
  dsimp only
  rw [hst, hx]

section
variable {st : Nat} {recs : List (Word × BitVec 32)} {ending : Bool} (hk : j.kind = .mpush st recs ending)
include hk

/-- A push to a session that is not its task's, or to none, is discarded (R422, R429). -/
theorem exec_mergePushApply_discards (hother : (s.mergeOf n).st = .idle ∨ (s.mergeOf n).task ≠ j.task) :
    exec (.mergePushApply n) s = .next (s.mergePop n) := by
  dsimp only [exec, execMergePushApply]
  simp only [hq, hw, hk, Bool.false_eq_true, if_false]
  exact if_pos (by simpa using hother)

theorem exec_mergePushApply_adds (hopen : (s.mergeOf n).st ≠ .idle) (hown : (s.mergeOf n).task = j.task) {g : Mgn}
    (hg : Mgn.pushed ⟨s.mergeEngine n (s.mergeOf n).space j, s.mergeOf n⟩ st recs ending = g) (hstop : g.e.stop = none)
    (hroom : ¬ ((s.mergeOf n).st = .opened ∧ g.m.st = .failed ∧ g.m.fail = 6)) :
    exec (.mergePushApply n) s = .next ((g.e.s.setMerge n g.m).mergePop n) := by
  dsimp only [exec, execMergePushApply]
  simp only [hq, hw, hk, Bool.false_eq_true, if_false]
  rw [if_neg (by simp [hopen, hown])]
  unfold Mgn.pushed at hg
  dsimp only at hg
  rw [hg, hstop, if_neg (by decide), if_neg (by simpa [and_assoc] using hroom)]

end

section
variable (hk : j.kind = .mclose)
include hk

theorem exec_mergeCloseApply_discards (hother : (s.mergeOf n).st = .idle ∨ (s.mergeOf n).task ≠ j.task) :
    exec (.mergeCloseApply n) s = .next (s.mergePop n) := by
  dsimp only [exec, execMergeCloseApply]
  simp only [hq, hw, hk, Bool.false_eq_true, if_false]
  exact if_pos (by simpa using hother)

/-- A close of a session that has not failed writes its output and its status record, and the session ends (R270). -/
theorem exec_mergeCloseApply_ends (hopen : (s.mergeOf n).st ≠ .idle) (hown : (s.mergeOf n).task = j.task) {g : Mgn} {e : Eng}
    (hg : (⟨s.mergeEngine n (s.mergeOf n).space j, s.mergeOf n⟩ : Mgn).settle.close = g) (hgstop : g.e.stop = none)
    (hst : g.m.st ≠ .failed) (he : g.e.brefWrite g.m.stat 0
      (statBytes 0 g.m.runs.length g.m.received g.m.output.length g.m.peak s.tick) 3 = e) (hstop : e.stop = none) :
    exec (.mergeCloseApply n) s = .next (((e.s.setMerge n { Merge.init with queue := (s.mergeOf n).queue }).mergePop n).postTo
      (s.mergeOf n).core (s.mergeOf n).flag.toNat 1 (s.mergeOf n).space e.pts) := by
  dsimp only [exec, execMergeCloseApply]
  simp only [hq, hw, hk, Bool.false_eq_true, if_false]
  rw [if_neg (by simp [hopen, hown]), hg]
  simp only [hgstop, hst, if_false, he, hstop]
  rfl

end

section
variable (hk : j.kind = .mstat)
include hk

theorem exec_mergeStatusApply_answers :
    exec (.mergeStatusApply n) s = .next ((s.mergePop n).answer j [BitVec.ofNat 64 (s.mergeOf n).statusWord]) := by
  dsimp only [exec, execMergeStatusApply]
  simp only [hq, hw, hk, Bool.false_eq_true, if_false, Merge.statusWord]
  cases (s.mergeOf n).st <;> simp

end
end

/-- Settles O14: each event by the job at the head of its queue. -/
theorem enginesRunJobs : Obligations.EnginesRunJobs := by
  intro s n
  refine ⟨fun j t hq hs hw => (exec_copyJobStart_head hq).trans (if_neg (by simp [hs, hw])),
    fun j t hq h => (exec_copyJobStart_head hq).trans (if_pos h), fun j t c st hq => exec_copyJobComplete_done hq,
    fun j t => exec_copyJobComplete_waits, fun j t => exec_matrixJobStart_starts, fun j t c hq => exec_matrixJobComplete_done hq,
    fun m hm => ?merge⟩
  subst hm
  exact ⟨fun j t hq hw i => exec_merge_waits hq hw, fun j t c cap e d e' b x hq hw => exec_mergeOpenApply_opens hq hw,
    fun j t st recs ending hq hw => exec_mergePushApply_discards hq hw,
    fun j t st recs ending hq hw hk hopen hown => exec_mergePushApply_adds hq hw hk hopen hown rfl,
    fun j t => exec_mergeCloseApply_discards,
    fun j t hq hw hk hopen hown hgstop hst e => exec_mergeCloseApply_ends hq hw hk hopen hown rfl hgstop hst,
    fun j t hq hw hk hst => by rw [exec_mergeStatusApply_answers hq hw hk, Merge.statusWord_idle hst]; rfl,
    fun j t hq hw hk hst => by rw [exec_mergeStatusApply_answers hq hw hk, Merge.statusWord_opened hst]⟩

end Sys2Proof.Machine
end

section
/-!
PROOFS. A step of a port whose access is not translated (R297, R406), and the object entry that the step holds (R110).
-/

namespace Sys2Proof.Machine

/-! ### The object cache of a core -/

/-- A core holds an object's entry of a space in its object cache (R110). -/
def State.holdsObject (s : State) (core : Nat) (sp : BitVec 16) (obj : Nat) : Bool :=
  s.objCache.any (fun e => e.core = core && e.sid = sidOf sp && e.gen = genOf sp && e.obj = obj)

section
variable {s : State} {core : Nat} {sp : BitVec 16} {obj : Nat}

theorem State.cacheObject_of_holds (h : s.holdsObject core sp obj = true) : s.cacheObject core sp obj = s := if_pos h

/-- An entry that memory has and the core does not hold enters its cache, which takes the next draw of a victim. -/
theorem State.cacheObject_fresh_of_miss (h : s.holdsObject core sp obj = false)
    (hraw : (s.objRaw (core / 256) sp obj).isSome = true) : (s.cacheObject core sp obj).fresh = s.fresh + 1 := by
  obtain ⟨r, hr⟩ := Option.isSome_iff_exists.mp hraw
  unfold State.holdsObject at h
  simp [State.cacheObject, h, hr]

end

/-! ### The step -/

section
variable {s : State} {ci k : Nat} {p : PortEntry} {a : Acc} {o : ObjEntry} {u : MUnit}
  (hf : s.front ci k = some (p, a))
  (hlive : (s.ctx ci k).status = .idle → s.outFaults.any (fun f => f.req = .ctx ci k) = false)
  (hc : a.checked = true) (hn : a.finished = false) (ho : s.object ci (s.spaceOf ci) a.cap.obj = some o)
  (hu : a.units[a.pos]? = some u)
  (ht : (s.cacheObject ci (s.spaceOf ci) a.cap.obj).tlbFind (.ctx ci k) (s.spaceOf ci) (o.base + u.off) a.kind.writes false = none)
include hf hlive hc hn ho hu ht

/-- A step at a unit that is not translated performs nothing, and holds the entry of its object from then on. -/
theorem exec_loadReturn_untranslated :
    exec (.loadReturn ci k) s = .next (s.cacheObject ci (s.spaceOf ci) a.cap.obj) := by
  have hgo : ((s.ctx ci k).status = .idle && s.outFaults.any (fun f => f.req = .ctx ci k)) = false := by
    simpa using hlive
  refine congrArg Host.Outcome.next ?_
  unfold State.portStep
  simp only [hf, hgo, hc, hn, ho, hu, ht, Bool.and_false, Bool.not_true, Bool.false_eq_true, if_false]

/-- Where the core holds that entry already, the port waits with the state as it was. -/
theorem exec_loadReturn_waits_of_holds (h : s.holdsObject ci (s.spaceOf ci) a.cap.obj = true) :
    exec (.loadReturn ci k) s = .next s := by
  rw [exec_loadReturn_untranslated hf hlive hc hn ho hu ht, State.cacheObject_of_holds h]

/-- O36 has it wait with the state as it was in every case. -/
theorem exec_loadReturn_waits_of_portSteps (h : Obligations.PortSteps) : exec (.loadReturn ci k) s = .next s := by
  obtain ⟨hstep, -⟩ := h
  obtain ⟨-, -, hunit⟩ := hstep s ci k p a o hf hlive hc
  simpa only [ht] using hunit hn ho u hu

end

/-! ### An entry that the core does not hold -/

/-- A checked load of 8 bytes at offset 8 of object 0, with its one unit still to perform. -/
def waitingLoad : Acc :=
  ⟨.ldS 8 false, some 1, true, (.s, 5), .ld, 3, mkCap 0 8 0x10000 0xFF 0 true, 8, [⟨8, 8, [], allBytes, false⟩], 0, [], false, none, true, 0⟩

/-- Its entry in a port. -/
def waitingEntry : PortEntry := ⟨1, 1, 2, .acc waitingLoad⟩

/-- The load heads the port of context 0 of core 0. Memory has a valid entry of object 0, of 64 KiB at 0x100000, in the table at
0x30000; the core does not hold it (an INVAL since the issue has dropped it, R111), and no translation is cached. -/
def unheldState : State :=
  let s : State := { State.reset with spaceCache := [⟨0, 0, 0, 0, 0, 0x30000, 1⟩] }
  let t := s.memWrite 0 0x30000 (bytesOf 8 0x100000 ++ bytesOf 8 0x10000 ++ bytesOf 2 1)
  t.modCtx 0 0 (fun x => { x with
    status := .running
    port := [waitingEntry]
    pend := [⟨1, 1, true, .ld, true, true, [(.s, 5)], [], [], none⟩] })

/-- The entry of object 0 in `unheldState`. -/
def unheldEntry : ObjEntry := ⟨0x100000, 0x10000, false, false, 0, 0⟩

theorem unheldState_object : unheldState.object 0 (unheldState.spaceOf 0) waitingLoad.cap.obj = some unheldEntry ∧
    unheldState.holdsObject 0 (unheldState.spaceOf 0) waitingLoad.cap.obj = false ∧
    (unheldState.objRaw 0 (unheldState.spaceOf 0) waitingLoad.cap.obj).isSome = true := by decide +kernel

theorem unheldState_port : unheldState.front 0 0 = some (waitingEntry, waitingLoad) ∧
    unheldState.outFaults.any (fun f => f.req = .ctx 0 0) = false ∧ waitingLoad.finished = false := by decide +kernel

theorem unheldState_untranslated : (unheldState.cacheObject 0 (unheldState.spaceOf 0) waitingLoad.cap.obj).tlbFind (.ctx 0 0)
    (unheldState.spaceOf 0) (unheldEntry.base + 8) waitingLoad.kind.writes false = none := by decide +kernel

/-- Refutes O36: its clause on a front access that is not translated has the state stay as it was, and the step first holds the
entry of the access's object in the core's object cache (R110). Where memory alone has that entry, as in `unheldState`, the cache
takes it and a draw of a victim with it. Where the core holds it, the clause holds: `exec_loadReturn_waits_of_holds`. -/
theorem not_portSteps : ¬ Obligations.PortSteps := by
  intro h
  obtain ⟨ho, hmiss, hraw⟩ := unheldState_object
  obtain ⟨hf, hfaults, hn⟩ := unheldState_port
  have ht := unheldState_untranslated
  have hclaimed : exec (.loadReturn 0 0) unheldState = .next unheldState :=
    exec_loadReturn_waits_of_portSteps (u := ⟨8, 8, [], allBytes, false⟩) hf (fun _ => hfaults) rfl hn ho rfl ht h
  have hruns : exec (.loadReturn 0 0) unheldState = .next (unheldState.cacheObject 0 (unheldState.spaceOf 0) waitingLoad.cap.obj) :=
    exec_loadReturn_untranslated (u := ⟨8, 8, [], allBytes, false⟩) hf (fun _ => hfaults) rfl hn ho rfl ht
  have hsame : unheldState = unheldState.cacheObject 0 (unheldState.spaceOf 0) waitingLoad.cap.obj :=
    Host.Outcome.next.inj (hclaimed.symm.trans hruns)
  have hfresh : unheldState.fresh = unheldState.fresh + 1 :=
    (congrArg State.fresh hsame).trans (State.cacheObject_fresh_of_miss hmiss hraw)
  exact Nat.succ_ne_self _ hfresh.symm

end Sys2Proof.Machine
end

section
/-!
PROOFS. A well-formed slot instruction is read back from its word (R308 to R310), the manual's own words among them.
-/

namespace Sys2Proof.Laws

/-- Every instruction is read back: a slot instruction by its own lemma; an event has no word. -/
theorem RoundTrip.statement (i : Instr) : RoundTrip.Statement i := by
  cases i with
  | nop k => exact RoundTrip.nop k
  | add h f => exact RoundTrip.add h f
  | sub h f => exact RoundTrip.sub h f
  | mul h f => exact RoundTrip.mul h f
  | mulh h f => exact RoundTrip.mulh h f
  | mulhu h f => exact RoundTrip.mulhu h f
  | div h f => exact RoundTrip.div h f
  | divu h f => exact RoundTrip.divu h f
  | rem h f => exact RoundTrip.rem h f
  | remu h f => exact RoundTrip.remu h f
  | and h f => exact RoundTrip.and h f
  | or h f => exact RoundTrip.or h f
  | xor h f => exact RoundTrip.xor h f
  | andn h f => exact RoundTrip.andn h f
  | shl h f => exact RoundTrip.shl h f
  | shr h f => exact RoundTrip.shr h f
  | sra h f => exact RoundTrip.sra h f
  | rol h f => exact RoundTrip.rol h f
  | min h f => exact RoundTrip.min h f
  | max h f => exact RoundTrip.max h f
  | minu h f => exact RoundTrip.minu h f
  | maxu h f => exact RoundTrip.maxu h f
  | clz h f => exact RoundTrip.clz h f
  | ctz h f => exact RoundTrip.ctz h f
  | popc h f => exact RoundTrip.popc h f
  | sext h f => exact RoundTrip.sext h f
  | zext h f => exact RoundTrip.zext h f
  | sel h f => exact RoundTrip.sel h f
  | cmp h f => exact RoundTrip.cmp h f
  | cmpi h f => exact RoundTrip.cmpi h f
  | addi h f => exact RoundTrip.addi h f
  | andi h f => exact RoundTrip.andi h f
  | ori h f => exact RoundTrip.ori h f
  | xori h f => exact RoundTrip.xori h f
  | shli h f => exact RoundTrip.shli h f
  | shri h f => exact RoundTrip.shri h f
  | srai h f => exact RoundTrip.srai h f
  | li h f => exact RoundTrip.li h f
  | lih h f => exact RoundTrip.lih h f
  | plog h f => exact RoundTrip.plog h f
  | fadd h f => exact RoundTrip.fadd h f
  | fsub h f => exact RoundTrip.fsub h f
  | fmul h f => exact RoundTrip.fmul h f
  | fma h f => exact RoundTrip.fma h f
  | fdiv h f => exact RoundTrip.fdiv h f
  | fsqrt h f => exact RoundTrip.fsqrt h f
  | fmin h f => exact RoundTrip.fmin h f
  | fmax h f => exact RoundTrip.fmax h f
  | fcmp h f => exact RoundTrip.fcmp h f
  | fcvt h f => exact RoundTrip.fcvt h f
  | fsgn h f => exact RoundTrip.fsgn h f
  | br h f => exact RoundTrip.br h f
  | call h f => exact RoundTrip.call h f
  | jr h f => exact RoundTrip.jr h f
  | loop h f => exact RoundTrip.loop h f
  | edge h f => exact RoundTrip.edge h f
  | bkj h f => exact RoundTrip.bkj h f
  | trap h f => exact RoundTrip.trap h f
  | tret h f => exact RoundTrip.tret h f
  | exit h f => exact RoundTrip.exit h f
  | cmov h f => exact RoundTrip.cmov h f
  | cbnd h f => exact RoundTrip.cbnd h f
  | cbndi h f => exact RoundTrip.cbndi h f
  | crst h f => exact RoundTrip.crst h f
  | coff h f => exact RoundTrip.coff h f
  | coffi h f => exact RoundTrip.coffi h f
  | cseto h f => exact RoundTrip.cseto h f
  | cchk h f => exact RoundTrip.cchk h f
  | cget h f => exact RoundTrip.cget h f
  | cclr h f => exact RoundTrip.cclr h f
  | cclrMk h f => exact RoundTrip.cclrMk h f
  | csub h f => exact RoundTrip.csub h f
  | dset h f => exact RoundTrip.dset h f
  | dseti h f => exact RoundTrip.dseti h f
  | dget h f => exact RoundTrip.dget h f
  | dunb h f => exact RoundTrip.dunb h f
  | mfsr h f => exact RoundTrip.mfsr h f
  | mtsr h f => exact RoundTrip.mtsr h f
  | mfsrc h f => exact RoundTrip.mfsrc h f
  | mtsrc h f => exact RoundTrip.mtsrc h f
  | fcls h f => exact RoundTrip.fcls h f
  | vadd u h f => exact RoundTrip.vadd u h f
  | vsub u h f => exact RoundTrip.vsub u h f
  | vadds u h f => exact RoundTrip.vadds u h f
  | vsubs u h f => exact RoundTrip.vsubs u h f
  | vmul u h f => exact RoundTrip.vmul u h f
  | vmulh u h f => exact RoundTrip.vmulh u h f
  | vmin u h f => exact RoundTrip.vmin u h f
  | vmax u h f => exact RoundTrip.vmax u h f
  | vabs u h f => exact RoundTrip.vabs u h f
  | vand u h f => exact RoundTrip.vand u h f
  | vor u h f => exact RoundTrip.vor u h f
  | vxor u h f => exact RoundTrip.vxor u h f
  | vandn u h f => exact RoundTrip.vandn u h f
  | vshl u h f => exact RoundTrip.vshl u h f
  | vshr u h f => exact RoundTrip.vshr u h f
  | vsra u h f => exact RoundTrip.vsra u h f
  | vshli u h f => exact RoundTrip.vshli u h f
  | vshri u h f => exact RoundTrip.vshri u h f
  | vsrai u h f => exact RoundTrip.vsrai u h f
  | vclz u h f => exact RoundTrip.vclz u h f
  | vpopc u h f => exact RoundTrip.vpopc u h f
  | vaddi u h f => exact RoundTrip.vaddi u h f
  | vli u h f => exact RoundTrip.vli u h f
  | vfadd u h f => exact RoundTrip.vfadd u h f
  | vfsub u h f => exact RoundTrip.vfsub u h f
  | vfmul u h f => exact RoundTrip.vfmul u h f
  | vfma u h f => exact RoundTrip.vfma u h f
  | vfms u h f => exact RoundTrip.vfms u h f
  | vfnma u h f => exact RoundTrip.vfnma u h f
  | vfmin u h f => exact RoundTrip.vfmin u h f
  | vfmax u h f => exact RoundTrip.vfmax u h f
  | vfabs u h f => exact RoundTrip.vfabs u h f
  | vfneg u h f => exact RoundTrip.vfneg u h f
  | vfdiv u h f => exact RoundTrip.vfdiv u h f
  | vfsqrt u h f => exact RoundTrip.vfsqrt u h f
  | vfrcp u h f => exact RoundTrip.vfrcp u h f
  | vexp2 u h f => exact RoundTrip.vexp2 u h f
  | vlog2 u h f => exact RoundTrip.vlog2 u h f
  | vsin u h f => exact RoundTrip.vsin u h f
  | vcos u h f => exact RoundTrip.vcos u h f
  | vtanh u h f => exact RoundTrip.vtanh u h f
  | vrsq u h f => exact RoundTrip.vrsq u h f
  | vsig u h f => exact RoundTrip.vsig u h f
  | verf u h f => exact RoundTrip.verf u h f
  | vcmp u h f => exact RoundTrip.vcmp u h f
  | vfcmp u h f => exact RoundTrip.vfcmp u h f
  | vsel u h f => exact RoundTrip.vsel u h f
  | vmlog u h f => exact RoundTrip.vmlog u h f
  | vmtv u h f => exact RoundTrip.vmtv u h f
  | vvtm u h f => exact RoundTrip.vvtm u h f
  | viota u h f => exact RoundTrip.viota u h f
  | vcvt u h f => exact RoundTrip.vcvt u h f
  | vcvti u h f => exact RoundTrip.vcvti u h f
  | vcvtf u h f => exact RoundTrip.vcvtf u h f
  | vsatn u h f => exact RoundTrip.vsatn u h f
  | vwiden u h f => exact RoundTrip.vwiden u h f
  | vqbx u h f => exact RoundTrip.vqbx u h f
  | vdqbx u h f => exact RoundTrip.vdqbx u h f
  | vqs8 u h f => exact RoundTrip.vqs8 u h f
  | vdqs8 u h f => exact RoundTrip.vdqs8 u h f
  | vperm u h f => exact RoundTrip.vperm u h f
  | vpermi u h f => exact RoundTrip.vpermi u h f
  | vbcst u h f => exact RoundTrip.vbcst u h f
  | vsplat u h f => exact RoundTrip.vsplat u h f
  | vshuf u h f => exact RoundTrip.vshuf u h f
  | vrotm u h f => exact RoundTrip.vrotm u h f
  | vzip u h f => exact RoundTrip.vzip u h f
  | vunzip u h f => exact RoundTrip.vunzip u h f
  | vins u h f => exact RoundTrip.vins u h f
  | vcompr u h f => exact RoundTrip.vcompr u h f
  | vexpd u h f => exact RoundTrip.vexpd u h f
  | vmov u h f => exact RoundTrip.vmov u h f
  | vcxs u h f => exact RoundTrip.vcxs u h f
  | vradd u h f => exact RoundTrip.vradd u h f
  | vrfadd u h f => exact RoundTrip.vrfadd u h f
  | vrmax u h f => exact RoundTrip.vrmax u h f
  | vrmin u h f => exact RoundTrip.vrmin u h f
  | vrfmax u h f => exact RoundTrip.vrfmax u h f
  | vrfmin u h f => exact RoundTrip.vrfmin u h f
  | vscan u h f => exact RoundTrip.vscan u h f
  | vfscan u h f => exact RoundTrip.vfscan u h f
  | vdot u h f => exact RoundTrip.vdot u h f
  | vfdot u h f => exact RoundTrip.vfdot u h f
  | vdfrd u h f => exact RoundTrip.vdfrd u h f
  | vdfwr u h f => exact RoundTrip.vdfwr u h f
  | vluta u h f => exact RoundTrip.vluta u h f
  | vbina u h f => exact RoundTrip.vbina u h f
  | tset h f => exact RoundTrip.tset h f
  | tcpy h f => exact RoundTrip.tcpy h f
  | tgetl h f => exact RoundTrip.tgetl h f
  | tgeth h f => exact RoundTrip.tgeth h f
  | tsto h f => exact RoundTrip.tsto h f
  | tstoi h f => exact RoundTrip.tstoi h f
  | tgets h f => exact RoundTrip.tgets h f
  | tclr h f => exact RoundTrip.tclr h f
  | text h f => exact RoundTrip.text h f
  | tsext h f => exact RoundTrip.tsext h f
  | tsexti h f => exact RoundTrip.tsexti h f
  | trshp h f => exact RoundTrip.trshp h f
  | ttrn h f => exact RoundTrip.ttrn h f
  | tcast h f => exact RoundTrip.tcast h f
  | tslc h f => exact RoundTrip.tslc h f
  | tslci h f => exact RoundTrip.tslci h f
  | tchk h f => exact RoundTrip.tchk h f
  | tbind h f => exact RoundTrip.tbind h f
  | tinfo h f => exact RoundTrip.tinfo h f
  | mtw h f => exact RoundTrip.mtw h f
  | mtwi h f => exact RoundTrip.mtwi h f
  | mtr h f => exact RoundTrip.mtr h f
  | mgo h f => exact RoundTrip.mgo h f
  | mgoTm h f => exact RoundTrip.mgoTm h f
  | mstep h f => exact RoundTrip.mstep h f
  | mscl h f => exact RoundTrip.mscl h f
  | maclr h f => exact RoundTrip.maclr h f
  | mard h f => exact RoundTrip.mard h f
  | mawr h f => exact RoundTrip.mawr h f
  | mepi h f => exact RoundTrip.mepi h f
  | mepiq h f => exact RoundTrip.mepiq h f
  | mstz h f => exact RoundTrip.mstz h f
  | mmul h f => exact RoundTrip.mmul h f
  | tfill h f => exact RoundTrip.tfill h f
  | tcopy h f => exact RoundTrip.tcopy h f
  | tqbx h f => exact RoundTrip.tqbx h f
  | tdqbx h f => exact RoundTrip.tdqbx h f
  | tzb h f => exact RoundTrip.tzb h f
  | tzx h f => exact RoundTrip.tzx h f
  | twex h f => exact RoundTrip.twex h f
  | ldb h f => exact RoundTrip.ldb h f
  | ldbz h f => exact RoundTrip.ldbz h f
  | ldh h f => exact RoundTrip.ldh h f
  | ldhz h f => exact RoundTrip.ldhz h f
  | ldw h f => exact RoundTrip.ldw h f
  | ldwz h f => exact RoundTrip.ldwz h f
  | ldd h f => exact RoundTrip.ldd h f
  | ldv h f => exact RoundTrip.ldv h f
  | ldvx h f => exact RoundTrip.ldvx h f
  | ldg h f => exact RoundTrip.ldg h f
  | ldcap h f => exact RoundTrip.ldcap h f
  | ldt h f => exact RoundTrip.ldt h f
  | ldtx h f => exact RoundTrip.ldtx h f
  | lds h f => exact RoundTrip.lds h f
  | ldsx h f => exact RoundTrip.ldsx h f
  | pop h f => exact RoundTrip.pop h f
  | lbd h f => exact RoundTrip.lbd h f
  | lddx h f => exact RoundTrip.lddx h f
  | ldwx h f => exact RoundTrip.ldwx h f
  | ldbx h f => exact RoundTrip.ldbx h f
  | ldhx h f => exact RoundTrip.ldhx h f
  | ldvm h f => exact RoundTrip.ldvm h f
  | ldcx h f => exact RoundTrip.ldcx h f
  | stb h f => exact RoundTrip.stb h f
  | sth h f => exact RoundTrip.sth h f
  | stw h f => exact RoundTrip.stw h f
  | std h f => exact RoundTrip.std h f
  | stv h f => exact RoundTrip.stv h f
  | stvx h f => exact RoundTrip.stvx h f
  | stvm h f => exact RoundTrip.stvm h f
  | sct h f => exact RoundTrip.sct h f
  | stcap h f => exact RoundTrip.stcap h f
  | stt h f => exact RoundTrip.stt h f
  | sttx h f => exact RoundTrip.sttx h f
  | push h f => exact RoundTrip.push h f
  | stbx h f => exact RoundTrip.stbx h f
  | sthx h f => exact RoundTrip.sthx h f
  | stwx h f => exact RoundTrip.stwx h f
  | stdx h f => exact RoundTrip.stdx h f
  | aadd h f => exact RoundTrip.aadd h f
  | amin h f => exact RoundTrip.amin h f
  | amax h f => exact RoundTrip.amax h f
  | aminu h f => exact RoundTrip.aminu h f
  | amaxu h f => exact RoundTrip.amaxu h f
  | aand h f => exact RoundTrip.aand h f
  | aor h f => exact RoundTrip.aor h f
  | axor h f => exact RoundTrip.axor h f
  | axch h f => exact RoundTrip.axch h f
  | acas h f => exact RoundTrip.acas h f
  | afadd h f => exact RoundTrip.afadd h f
  | ctw h f => exact RoundTrip.ctw h f
  | ctwi h f => exact RoundTrip.ctwi h f
  | ctr h f => exact RoundTrip.ctr h f
  | cgomm h f => exact RoundTrip.cgomm h f
  | cgomd h f => exact RoundTrip.cgomd h f
  | cgome h f => exact RoundTrip.cgome h f
  | cgoma h f => exact RoundTrip.cgoma h f
  | cgomk h f => exact RoundTrip.cgomk h f
  | cgodm h f => exact RoundTrip.cgodm h f
  | cgodd h f => exact RoundTrip.cgodd h f
  | cgode h f => exact RoundTrip.cgode h f
  | cgoda h f => exact RoundTrip.cgoda h f
  | cgodk h f => exact RoundTrip.cgodk h f
  | cgoam h f => exact RoundTrip.cgoam h f
  | cgoad h f => exact RoundTrip.cgoad h f
  | cgoae h f => exact RoundTrip.cgoae h f
  | cgoaa h f => exact RoundTrip.cgoaa h f
  | cgoak h f => exact RoundTrip.cgoak h f
  | rkdef h f => exact RoundTrip.rkdef h f
  | mopen h f => exact RoundTrip.mopen h f
  | mpush h f => exact RoundTrip.mpush h f
  | mpushe h f => exact RoundTrip.mpushe h f
  | mclose h f => exact RoundTrip.mclose h f
  | mstat h f => exact RoundTrip.mstat h f
  | pxlkp h f => exact RoundTrip.pxlkp h f
  | pxins h f => exact RoundTrip.pxins h f
  | pxfrk h f => exact RoundTrip.pxfrk h f
  | pxapp h f => exact RoundTrip.pxapp h f
  | pxrel h f => exact RoundTrip.pxrel h f
  | xroute h f => exact RoundTrip.xroute h f
  | take h f => exact RoundTrip.take h f
  | launch h f => exact RoundTrip.launch h f
  | send h f => exact RoundTrip.send h f
  | recv h f => exact RoundTrip.recv h f
  | recva h f => exact RoundTrip.recva h f
  | coll h f => exact RoundTrip.coll h f
  | sgrd h f => exact RoundTrip.sgrd h f
  | rplack h f => exact RoundTrip.rplack h f
  | bxfer h f => exact RoundTrip.bxfer h f
  | wait h f => exact RoundTrip.wait h f
  | waitPh h f => exact RoundTrip.waitPh h f
  | waits h f => exact RoundTrip.waits h f
  | post h f => exact RoundTrip.post h f
  | posts h f => exact RoundTrip.posts h f
  | rpost h f => exact RoundTrip.rpost h f
  | expt h f => exact RoundTrip.expt h f
  | arv h f => exact RoundTrip.arv h f
  | arvw h f => exact RoundTrip.arvw h f
  | bwait h f => exact RoundTrip.bwait h f
  | strag h f => exact RoundTrip.strag h f
  | gate h f => exact RoundTrip.gate h f
  | gateS h f => exact RoundTrip.gateS h f
  | efence h f => exact RoundTrip.efence h f
  | ifence h f => exact RoundTrip.ifence h f
  | yield h f => exact RoundTrip.yield h f
  | sleep h f => exact RoundTrip.sleep h f
  | sleepS h f => exact RoundTrip.sleepS h f
  | frd h f => exact RoundTrip.frd h f
  | fclr h f => exact RoundTrip.fclr h f
  | bphase h f => exact RoundTrip.bphase h f
  | waitm h f => exact RoundTrip.waitm h f
  | _ => exact fun _ _ he => nomatch he

/-- Settles O1, by the lemma of each constructor. -/
theorem roundTrip : Obligations.RoundTrip := fun i k w hl he => RoundTrip.statement i k w he hl

/-- Settles O2: each word is the encoding of the well-formed instruction that the manual writes beside it. -/
theorem decodesSpecWords : Obligations.DecodesSpecWords :=
  ⟨roundTrip _ _ _ (by decide +kernel) (by decide +kernel), roundTrip _ _ _ (by decide +kernel) (by decide +kernel),
    roundTrip _ _ _ (by decide +kernel) (by decide +kernel), roundTrip _ _ _ (by decide +kernel) (by decide +kernel)⟩

end Sys2Proof.Laws
end

section
/-!
PROOFS. The arithmetic of the scalar slot on numbers is that of bit vectors (R340 to R342).
-/

namespace Sys2Proof.Machine

theorem toS_toNat {n : Nat} (hn : 0 < n) (x : BitVec n) : toS n x.toNat = x.toInt := by
  obtain ⟨m, rfl⟩ := Nat.exists_eq_succ_of_ne_zero hn.ne'
  have hx := x.isLt
  rw [toS, BitVec.toInt_eq_toNat_cond, Nat.mod_eq_of_lt hx]
  simp only [Nat.succ_eq_add_one, Nat.add_sub_cancel, Nat.pow_succ] at *
  split_ifs <;> omega

theorem ofI_eq (n : Nat) (i : Int) : ofI n i = (BitVec.ofInt n i).toNat := (BitVec.toNat_ofInt ..).symm

theorem extend_eq {n : Nat} (hn : 0 < n) (i : Int) : extend n i = (BitVec.ofInt n i).signExtend 64 := by
  rw [extend, ofI_eq, toS_toNat hn]
  rfl

theorem sat_fst (lo hi i : Int) (h : lo ≤ hi) : (sat lo hi i).1 = max lo (min hi i) := by
  unfold sat
  split_ifs <;> omega

section
variable {n : Nat} (x y : BitVec n)

theorem opAdd_wraps : BitVec.ofInt n (opAdd false n x.toNat y.toNat) = x + y := by
  simp [opAdd, BitVec.ofInt_add]
theorem opSub_wraps : BitVec.ofInt n (opSub false n x.toNat y.toNat) = x - y := by
  apply BitVec.eq_of_toInt_eq
  rw [BitVec.toInt_ofInt, BitVec.toInt_sub, BitVec.toInt_eq_toNat_bmod, BitVec.toInt_eq_toNat_bmod, Int.sub_bmod_bmod,
    Int.bmod_sub_bmod]
  rfl
theorem opMul_wraps : BitVec.ofInt n (opMul n x.toNat y.toNat) = x * y := by
  simp [opMul, BitVec.ofInt_mul]
theorem opAnd_eq : BitVec.ofInt n (opAnd n x.toNat y.toNat) = x &&& y := by
  simp [opAnd, ← BitVec.toNat_and]
theorem opOr_eq : BitVec.ofInt n (opOr n x.toNat y.toNat) = x ||| y := by
  simp [opOr, ← BitVec.toNat_or]
theorem opXor_eq : BitVec.ofInt n (opXor n x.toNat y.toNat) = x ^^^ y := by
  simp [opXor, ← BitVec.toNat_xor]
theorem opAndn_eq : BitVec.ofInt n (opAndn n x.toNat y.toNat) = x &&& ~~~y := by
  simp [opAndn, ← BitVec.toNat_not, ← BitVec.toNat_and]
theorem opShl_eq (k : Nat) : BitVec.ofInt n (opShl n x.toNat k) = x <<< (k % n) := by
  apply BitVec.eq_of_toNat_eq
  rw [opShl, BitVec.ofInt_natCast, BitVec.toNat_ofNat, BitVec.toNat_shiftLeft, Nat.shiftLeft_eq]
theorem opShr_eq (k : Nat) : BitVec.ofInt n (opShr n x.toNat k) = x >>> (k % n) := by
  rw [opShr, ← Nat.shiftRight_eq_div_pow, ← BitVec.toNat_ushiftRight, BitVec.ofInt_natCast, BitVec.ofNat_toNat,
    BitVec.setWidth_eq]
theorem opRol_eq (k : Nat) : BitVec.ofInt n (opRol n x.toNat k) = x.rotateLeft (k % n) := by
  rcases Nat.eq_zero_or_pos n with rfl | hn
  · exact BitVec.eq_of_zero_length rfl
  apply BitVec.eq_of_toNat_eq
  rw [opRol, BitVec.ofInt_natCast, BitVec.toNat_ofNat, BitVec.toNat_rotateLeft, Nat.mod_mod, Nat.shiftLeft_eq,
    Nat.shiftRight_eq_div_pow]
  generalize hr : k % n = r
  have hr' : r < n := hr ▸ Nat.mod_lt _ hn
  obtain ⟨m, rfl⟩ := Nat.exists_eq_add_of_lt hr'
  have hsplit : 2 ^ (r + m + 1) = 2 ^ (m + 1) * 2 ^ r := by rw [← Nat.pow_add]; congr 1; omega
  have hlow : x.toNat / 2 ^ (m + 1) < 2 ^ r := Nat.div_lt_of_lt_mul (hsplit ▸ x.isLt)
  have hm : r + m + 1 - r = m + 1 := by omega
  have hlt : x.toNat % 2 ^ (m + 1) * 2 ^ r + 2 ^ r ≤ 2 ^ (m + 1) * 2 ^ r := by
    rw [← Nat.succ_mul]
    exact Nat.mul_le_mul_right _ (Nat.mod_lt _ (Nat.two_pow_pos _))
  rw [hm, Nat.add_mod, hsplit, Nat.mul_mod_mul_right, ← Nat.shiftLeft_eq, ← Nat.shiftLeft_add_eq_or_of_lt hlow, Nat.shiftLeft_eq,
    Nat.mod_eq_of_lt (hlow.trans_le (Nat.le_mul_of_pos_left _ (Nat.two_pow_pos _))), Nat.mod_eq_of_lt (by omega)]
theorem opMinu_eq : BitVec.ofInt n (opMinu n x.toNat y.toNat) = if x.ule y then x else y := by
  rw [opMinu, BitVec.ofInt_natCast, BitVec.ule, min_def]
  simp only [decide_eq_true_eq, apply_ite (BitVec.ofNat n), BitVec.ofNat_toNat, BitVec.setWidth_eq]
theorem opMaxu_eq : BitVec.ofInt n (opMaxu n x.toNat y.toNat) = if x.ule y then y else x := by
  rw [opMaxu, BitVec.ofInt_natCast, BitVec.ule, max_def]
  simp only [decide_eq_true_eq, apply_ite (BitVec.ofNat n), BitVec.ofNat_toNat, BitVec.setWidth_eq]
theorem toNat_eq_zero {n : Nat} {x : BitVec n} : x.toNat = 0 ↔ x = 0 := by
  rw [BitVec.toNat_eq]
  simp
theorem ofInt_ones (n : Nat) : BitVec.ofInt n ((2 ^ n : Nat) - 1) = BitVec.allOnes n := by
  rw [← Nat.cast_pred (Nat.two_pow_pos n), BitVec.ofInt_natCast, ← BitVec.toNat_allOnes, BitVec.ofNat_toNat, BitVec.setWidth_eq]
theorem opDivu_eq : BitVec.ofInt n (opDivu n x.toNat y.toNat) = if y = 0 then BitVec.allOnes n else x / y := by
  simp only [opDivu, toNat_eq_zero, apply_ite (BitVec.ofInt n), ofInt_ones, BitVec.ofInt_natCast, ← BitVec.toNat_udiv,
    BitVec.ofNat_toNat, BitVec.setWidth_eq]
theorem opRemu_eq : BitVec.ofInt n (opRemu n x.toNat y.toNat) = if y = 0 then x else x % y := by
  simp only [opRemu, toNat_eq_zero, apply_ite (BitVec.ofInt n), BitVec.ofInt_natCast, ← BitVec.toNat_umod, BitVec.ofNat_toNat,
    BitVec.setWidth_eq]

variable (hn : 0 < n)
include hn

theorem opAdd_clamps : BitVec.ofInt n (opAdd true n x.toNat y.toNat) =
    BitVec.ofInt n (max (-(2 ^ (n - 1) : Int)) (min (2 ^ (n - 1) - 1) (x.toInt + y.toInt))) := by
  have hp := Nat.two_pow_pos (n - 1)
  rw [opAdd, if_pos rfl, sat_fst _ _ _ (by simp [rangeOf]), toS_toNat hn, toS_toNat hn]
  simp [rangeOf]
theorem opSub_clamps : BitVec.ofInt n (opSub true n x.toNat y.toNat) =
    BitVec.ofInt n (max (-(2 ^ (n - 1) : Int)) (min (2 ^ (n - 1) - 1) (x.toInt - y.toInt))) := by
  have hp := Nat.two_pow_pos (n - 1)
  rw [opSub, if_pos rfl, sat_fst _ _ _ (by simp [rangeOf]), toS_toNat hn, toS_toNat hn]
  simp [rangeOf]
theorem opSra_eq (k : Nat) : BitVec.ofInt n (opSra n x.toNat k) = x.sshiftRight (k % n) := by
  rw [opSra, toS_toNat hn, ← Int.shiftRight_eq_div_pow, ← BitVec.toInt_sshiftRight, BitVec.ofInt_toInt]
theorem opMin_eq : BitVec.ofInt n (opMin n x.toNat y.toNat) = if x.sle y then x else y := by
  rw [opMin, toS_toNat hn, toS_toNat hn, min_def, apply_ite (BitVec.ofInt n), BitVec.ofInt_toInt, BitVec.ofInt_toInt]
  simp only [BitVec.sle_iff_toInt_le]
theorem opMax_eq : BitVec.ofInt n (opMax n x.toNat y.toNat) = if x.sle y then y else x := by
  rw [opMax, toS_toNat hn, toS_toNat hn, max_def, apply_ite (BitVec.ofInt n), BitVec.ofInt_toInt, BitVec.ofInt_toInt]
  simp only [BitVec.sle_iff_toInt_le]
theorem opDiv_eq : BitVec.ofInt n (opDiv n x.toNat y.toNat) = if y = 0 then BitVec.allOnes n else x.sdiv y := by
  have hdiv : BitVec.ofInt n (x.toInt.tdiv y.toInt) = x.sdiv y := BitVec.eq_of_toInt_eq (by
    rw [BitVec.toInt_ofInt, BitVec.toInt_sdiv])
  simp only [opDiv, toNat_eq_zero, apply_ite (BitVec.ofInt n), ofInt_ones, toS_toNat hn, hdiv]
theorem opRem_eq : BitVec.ofInt n (opRem n x.toNat y.toNat) = if y = 0 then x else x.srem y := by
  have hrem : BitVec.ofInt n (x.toInt.tmod y.toInt) = x.srem y := by rw [← BitVec.toInt_srem, BitVec.ofInt_toInt]
  simp only [opRem, toNat_eq_zero, apply_ite (BitVec.ofInt n), BitVec.ofInt_natCast, BitVec.ofNat_toNat, BitVec.setWidth_eq,
    toS_toNat hn, hrem]
end

theorem emod_mul_self_ediv (p : Int) {m : Int} (hm : 0 < m) : p % (m * m) / m = p / m % m := by
  have hlow : (p / m % m * m + p % m) / m = p / m % m := by
    rw [Int.mul_comm, Int.mul_add_ediv_left _ _ hm.ne', Int.ediv_eq_zero_of_lt (Int.emod_nonneg _ hm.ne') (Int.emod_lt_of_pos _ hm),
      Int.add_zero]
  rw [← hlow, Int.emod_def p (m * m), ← Int.ediv_ediv_of_nonneg hm.le, Int.emod_def (p / m) m, Int.emod_def p m]
  congr 1
  ring

/-- The high half of a double-width product. -/
theorem ofInt_ediv_eq_extract (n : Nat) (p : Int) :
    BitVec.ofInt n (p / (2 ^ n : Nat)) = (BitVec.ofInt (2 * n) p).extractLsb' n n := by
  apply BitVec.eq_of_toNat_eq
  rw [BitVec.extractLsb'_toNat, BitVec.toNat_ofInt, BitVec.toNat_ofInt, Nat.shiftRight_eq_div_pow, Nat.two_mul, Nat.pow_add]
  have hhalf := emod_mul_self_ediv p (m := ((2 ^ n : Nat) : Int)) (by positivity)
  obtain ⟨q, hq⟩ := Int.eq_ofNat_of_zero_le (Int.emod_nonneg p (b := ((2 ^ n * 2 ^ n : Nat) : Int)) (by positivity))
  have hlt : q < 2 ^ n * 2 ^ n := by exact_mod_cast hq ▸ Int.emod_lt_of_pos p (b := ((2 ^ n * 2 ^ n : Nat) : Int)) (by positivity)
  rw [← hhalf, ← Nat.cast_mul, hq, ← Int.natCast_ediv, Int.toNat_natCast, Int.toNat_natCast, Nat.mod_eq_of_lt (Nat.div_lt_of_lt_mul hlt)]

theorem mulHigh_signed {n : Nat} (x y : BitVec n) : BitVec.ofInt n (x.toInt * y.toInt / (2 ^ n : Nat)) =
    (x.signExtend (2 * n) * y.signExtend (2 * n)).extractLsb' n n := by
  rw [ofInt_ediv_eq_extract, BitVec.ofInt_mul]
  rfl
theorem mulHigh_unsigned {n : Nat} (x y : BitVec n) : BitVec.ofInt n ((x.toNat : Int) * y.toNat / (2 ^ n : Nat)) =
    (x.setWidth (2 * n) * y.setWidth (2 * n)).extractLsb' n n := by
  rw [ofInt_ediv_eq_extract, BitVec.ofInt_mul, BitVec.ofInt_natCast, BitVec.ofInt_natCast, BitVec.ofNat_toNat, BitVec.ofNat_toNat]

theorem opMulh_eq (a b : Word) : BitVec.ofInt 64 (opMulh 64 a.toNat b.toNat) =
    (a.signExtend 128 * b.signExtend 128).extractLsb' 64 64 := by
  rw [opMulh, toS_toNat (by decide), toS_toNat (by decide)]
  exact mulHigh_signed a b
theorem opMulhu_eq (a b : Word) : BitVec.ofInt 64 (opMulhu 64 a.toNat b.toNat) =
    (a.setWidth 128 * b.setWidth 128).extractLsb' 64 64 := mulHigh_unsigned a b

section
variable {n : Nat} (x : BitVec n)
theorem leadZeros_eq : leadZeros n x.toNat = n - if x.toNat = 0 then 0 else Nat.log2 x.toNat + 1 := by
  rw [leadZeros, Nat.mod_eq_of_lt x.isLt]
  split_ifs <;> omega
end

theorem trailZeros_eq (n : Nat) : ∀ a, trailZeros n a = ((List.range n).takeWhile (fun i => !a.testBit i)).length := by
  induction n with
  | zero => intro a; rfl
  | succ n ih =>
    intro a
    rw [trailZeros, ih, List.range_succ_eq_map, List.takeWhile_cons, List.takeWhile_map, Nat.testBit_zero]
    by_cases h : a % 2 = 1
    · simp [h]
    · simp [h, Function.comp_def, Nat.testBit_succ, Nat.add_comm]

theorem popCount_eq (n : Nat) : ∀ a, popCount n a = ((List.range n).filter (fun i => a.testBit i)).length := by
  induction n with
  | zero => intro a; rfl
  | succ n ih =>
    intro a
    rw [popCount, ih, List.range_succ_eq_map, List.filter_cons, List.filter_map, Nat.testBit_zero]
    rcases Nat.mod_two_eq_zero_or_one a with h | h
    · simp [h, Function.comp_def, Nat.testBit_succ]
    · simp [h, Function.comp_def, Nat.testBit_succ, Nat.add_comm]

end Sys2Proof.Machine
end

section
/-!
PROOFS. Slots that are not enabled (R308), and the integer instructions of the scalar slot (R340 to R345).
-/

namespace Sys2Proof.Machine

/-- Settles O57: a slot of any format that is not enabled is disabled. -/
theorem disabledDoesNothing : Obligations.DisabledDoesNothing := by
  intro h s u ha hoff
  have hdisabled : ∀ {op k w body}, (s.env k h).illegalAlone op w = none →
      runSlot op k w h s body = .next (s.setVerdict .disabled) :=
    fun hl => runSlot_disabled ha hl (hoff _).1 (hoff _).2
  exact ⟨fun _ => hdisabled, fun _ => hdisabled, fun _ => hdisabled, fun _ => hdisabled, fun _ => hdisabled, fun _ => hdisabled,
    fun _ => hdisabled, fun _ => hdisabled, fun _ => hdisabled, fun _ => hdisabled, fun _ => hdisabled, fun _ => hdisabled⟩

/-- A slot's work goes on with what an operand reads. -/
theorem bind_ok {α β : Type} {x : Except Stop α} {a : α} (h : x = .ok a) (g : α → Except Stop β) : (x >>= g) = g a := by
  rw [h]
  rfl

theorem widthOf_cases (h : Hd) : widthOf h = 32 ∨ widthOf h = 64 := by
  unfold widthOf
  split <;> simp

theorem widthOf_pos (h : Hd) : 0 < widthOf h := by
  rcases widthOf_cases h with hw | hw <;> rw [hw] <;> decide

theorem Env.retS_ok (e : Env) (lat : Nat) (d : BitVec 9) (v : Word) : e.retS lat d v = .ok (e.flyS lat d v 0) := e.retS_eq lat d v

section
variable {e : Env} {f : RFmt} {a b : Word}

/-- A two-source instruction puts in flight what its operation forms of the low bits of its sources (R340). -/
theorem Env.alu2_ok {lat : Nat} {op : Nat → Nat → Nat → Int} {r : BitVec (widthOf e.h)} (ha : e.srcS f.sa = .ok a) (hb : e.srcS f.sb = .ok b)
    (hop : BitVec.ofInt _ (op (widthOf e.h) (a.setWidth (widthOf e.h)).toNat (b.setWidth (widthOf e.h)).toNat) = r) :
    e.alu2 f lat op = .ok (e.flyS lat f.dst (r.signExtend 64) 0) := by
  rw [Env.alu2, bind_ok ha, bind_ok hb, e.retS_ok, ← hop, ← extend_eq (widthOf_pos _), BitVec.toNat_setWidth, BitVec.toNat_setWidth]

theorem Env.divide_ok {op : Nat → Nat → Nat → Int} {r : BitVec (widthOf e.h)} (ha : e.srcS f.sa = .ok a) (hb : e.srcS f.sb = .ok b)
    (hz : ¬ (b.setWidth (widthOf e.h) = 0 ∧ e.x.sr.arithx.getLsbD 0 = true))
    (hop : BitVec.ofInt _ (op (widthOf e.h) (a.setWidth (widthOf e.h)).toNat (b.setWidth (widthOf e.h)).toNat) = r) :
    e.divide f op = .ok (e.flyS 18 f.dst (r.signExtend 64) 0) := by
  rw [Env.divide, bind_ok hb, trapIf, stopIf_false, ← Env.alu2_ok ha hb hop]
  · rfl
  · rw [← toNat_eq_zero, BitVec.toNat_setWidth] at hz
    simpa using hz

theorem Env.divide_traps {op : Nat → Nat → Nat → Int} (hb : e.srcS f.sb = .ok b)
    (hz : b.setWidth (widthOf e.h) = 0 ∧ e.x.sr.arithx.getLsbD 0 = true) :
    e.divide f op = .error (.trap .divZero (BitVec.ofNat 64 (f.dst.toNat * 2 ^ 8))) := by
  rw [Env.divide, bind_ok hb, trapIf, stopIf_true]
  · rfl
  · rw [← toNat_eq_zero, BitVec.toNat_setWidth] at hz
    simpa using hz

end

section
variable {h : Hd} {f : RFmt} {s : State} {a b : Word} (ha : (s.env .sc h).srcS f.sa = .ok a) (hb : (s.env .sc h).srcS f.sb = .ok b)
include ha hb

theorem runR_alu2 {o : Op} {lat : Nat} {op : Nat → Nat → Nat → Int} {r : BitVec (widthOf h)} (hr : Ready o .sc (mkR o.code h f) h s)
    (hop : BitVec.ofInt _ (op (widthOf h) (a.setWidth (widthOf h)).toNat (b.setWidth (widthOf h)).toNat) = r) :
    runR o .sc h f s (fun e => e.alu2 f lat op) = .next (((s.env .sc h).flyS lat f.dst (r.signExtend 64) 0).setVerdict .committed) :=
  runSlot_ready hr (Env.alu2_ok ha hb hop)

theorem runR_divide {o : Op} {op : Nat → Nat → Nat → Int} {r : BitVec (widthOf h)} (hr : Ready o .sc (mkR o.code h f) h s)
    (hop : BitVec.ofInt _ (op (widthOf h) (a.setWidth (widthOf h)).toNat (b.setWidth (widthOf h)).toNat) = r) :
    if b.setWidth (widthOf h) = 0 ∧ (s.env .sc h).x.sr.arithx.getLsbD 0 then
      runR o .sc h f s (fun e => e.divide f op) = .next ((s.trapNow s.iss.core s.iss.ctx .divZero (BitVec.ofNat 64 (f.dst.toNat * 2 ^ 8))
        (slotMask [.sc])).setVerdict (.trapped .divZero (BitVec.ofNat 64 (f.dst.toNat * 2 ^ 8))))
    else runR o .sc h f s (fun e => e.divide f op) =
      .next (((s.env .sc h).flyS 18 f.dst (r.signExtend 64) 0).setVerdict .committed) := by
  split_ifs with hz
  · exact runSlot_traps hr (Env.divide_traps hb hz)
  · exact runSlot_ready hr (Env.divide_ok ha hb hz hop)

end

theorem opAdd_eq (h : Hd) {n : Nat} (hn : 0 < n) (x y : BitVec n) : BitVec.ofInt n (opAdd (satOf h) n x.toNat y.toNat) =
    if satOf h then BitVec.ofInt n (max (-(2 ^ (n - 1) : Int)) (min (2 ^ (n - 1) - 1) (x.toInt + y.toInt))) else x + y := by
  cases satOf h
  · exact opAdd_wraps x y
  · exact opAdd_clamps x y hn
theorem opSub_eq (h : Hd) {n : Nat} (hn : 0 < n) (x y : BitVec n) : BitVec.ofInt n (opSub (satOf h) n x.toNat y.toNat) =
    if satOf h then BitVec.ofInt n (max (-(2 ^ (n - 1) : Int)) (min (2 ^ (n - 1) - 1) (x.toInt - y.toInt))) else x - y := by
  cases satOf h
  · exact opSub_wraps x y
  · exact opSub_clamps x y hn

/-- A high product of 64 bits: MULH and MULHU have no other width (R341). -/
theorem runR_mulHigh {o : Op} {op : Nat → Nat → Nat → Int} {h : Hd} {f : RFmt} {s : State} {a b r : Word} (hf : h.fmt = 0)
    (hr : Ready o .sc (mkR o.code h f) h s) (ha : (s.env .sc h).srcS f.sa = .ok a) (hb : (s.env .sc h).srcS f.sb = .ok b)
    (hop : BitVec.ofInt 64 (op 64 a.toNat b.toNat) = r) :
    runR o .sc h f s (fun e => e.alu2 f 3 op) = .next (((s.env .sc h).flyS 3 f.dst r 0).setVerdict .committed) := by
  have hw : widthOf h = 64 := by rw [widthOf, hf]; rfl
  refine runSlot_ready hr ?_
  rw [Env.alu2, bind_ok ha, bind_ok hb, Env.retS_ok]
  show Except.ok ((s.env .sc h).flyS 3 f.dst (extend (widthOf h) (op (widthOf h) (a.toNat % 2 ^ widthOf h) (b.toNat % 2 ^ widthOf h))) 0) = _
  rw [hw, Nat.mod_eq_of_lt a.isLt, Nat.mod_eq_of_lt b.isLt, extend_eq (by decide), hop, BitVec.signExtend_eq]

/-- Settles O15: each operation of the table forms its result as the manual's, bit by bit. -/
theorem scalarTwoSource : Obligations.ScalarTwoSource := by
  refine ⟨⟨?_, ?_⟩, ?_⟩
  · simp only [List.forall_mem_cons, List.not_mem_nil, false_imp_iff, implies_true, and_true]
    refine ⟨?add, ?sub, ?mul, ?and, ?or, ?xor, ?andn, ?shl, ?shr, ?sra, ?rol, ?min, ?max, ?minu, ?maxu⟩ <;>
      intro h f s a b hr ha hb <;> have hn := widthOf_pos h
    case add => exact runR_alu2 ha hb hr (opAdd_eq h hn _ _)
    case sub => exact runR_alu2 ha hb hr (opSub_eq h hn _ _)
    case mul => exact runR_alu2 ha hb hr (opMul_wraps _ _)
    case and => exact runR_alu2 ha hb hr (opAnd_eq _ _)
    case or => exact runR_alu2 ha hb hr (opOr_eq _ _)
    case xor => exact runR_alu2 ha hb hr (opXor_eq _ _)
    case andn => exact runR_alu2 ha hb hr (opAndn_eq _ _)
    case shl => exact runR_alu2 ha hb hr (opShl_eq _ _)
    case shr => exact runR_alu2 ha hb hr (opShr_eq _ _)
    case sra => exact runR_alu2 ha hb hr (opSra_eq _ hn _)
    case rol => exact runR_alu2 ha hb hr (opRol_eq _ _)
    case min => exact runR_alu2 ha hb hr (opMin_eq _ _ hn)
    case max => exact runR_alu2 ha hb hr (opMax_eq _ _ hn)
    case minu => exact runR_alu2 ha hb hr (opMinu_eq _ _)
    case maxu => exact runR_alu2 ha hb hr (opMaxu_eq _ _)
  · simp only [List.forall_mem_cons, List.not_mem_nil, false_imp_iff, implies_true, and_true]
    refine ⟨?div, ?divu, ?rem, ?remu⟩ <;> intro h f s a b hr ha hb <;> have hn := widthOf_pos h
    case div => exact runR_divide ha hb hr (opDiv_eq _ _ hn)
    case divu => exact runR_divide ha hb hr (opDivu_eq _ _)
    case rem => exact runR_divide ha hb hr (opRem_eq _ _ hn)
    case remu => exact runR_divide ha hb hr (opRemu_eq _ _)
  · simp only [List.forall_mem_cons, List.not_mem_nil, false_imp_iff, implies_true, and_true]
    exact ⟨fun h f s a b hf hr ha hb => runR_mulHigh hf hr ha hb (opMulh_eq a b),
      fun h f s a b hf hr ha hb => runR_mulHigh hf hr ha hb (opMulhu_eq a b)⟩

end Sys2Proof.Machine
end

section
/-!
PROOFS. The one-source, immediate and compare instructions of the scalar slot (R341, R343 to R345), and PLOG (R346).
-/

namespace Sys2Proof.Machine

/-! ### Numbers and words -/

/-- A count of bits is no number that a sign extension changes. -/
theorem extend_count {h : Hd} {m : Nat} (hm : m ≤ widthOf h) : extend (widthOf h) m = BitVec.ofNat 64 m := by
  have hlt : 2 * m < 2 ^ widthOf h := by
    rcases widthOf_cases h with hw | hw <;> rw [hw] at hm ⊢ <;> omega
  rw [extend_eq (widthOf_pos h), BitVec.ofInt_natCast, BitVec.signExtend, BitVec.toInt_ofNat', Int.bmod_eq_of_le (by omega) (by omega),
    BitVec.ofInt_natCast]

theorem toS_setWidth (k : Nat) (hk : 0 < k) (a : Word) : toS k a.toNat = (a.setWidth k).toInt := by
  rw [← toS_toNat hk, BitVec.toNat_setWidth, toS, toS, Nat.mod_mod]

/-- A sign-extended immediate cut to a width is the immediate on that width. -/
theorem ofI_signExtend {h : Hd} (i : BitVec 29) : ofI (widthOf h) i.toInt = ((i.signExtend 64).setWidth (widthOf h)).toNat := by
  have hdvd : ((2 ^ widthOf h : Nat) : Int) ∣ (2 ^ 64 : Nat) := by
    rcases widthOf_cases h with hw | hw <;> (simp only [hw]; decide)
  have hpos : (0 : Int) < (2 ^ widthOf h : Nat) := by positivity
  rw [ofI, BitVec.toNat_setWidth, BitVec.signExtend, BitVec.toNat_ofInt, ← Int.emod_emod_of_dvd i.toInt hdvd]
  have hnn := Int.emod_nonneg i.toInt (b := ((2 ^ 64 : Nat) : Int)) (by decide)
  exact (Int.toNat_emod hnn hpos.le).trans (by rw [Int.toNat_natCast])

/-- The low six bits of a sign-extended immediate are its own. -/
theorem toNat_signExtend_mod (i : BitVec 29) : (i.signExtend 64).toNat % 64 = i.toNat % 64 := by
  have hi := i.isLt
  rw [BitVec.signExtend, BitVec.toNat_ofInt, BitVec.toInt_eq_toNat_cond]
  split_ifs <;> omega

/-! ### The work of each kind of instruction -/

section
variable {e : Env} {a b : Word}

theorem Env.alu1_count {f : RFmt} {op : Nat → Nat → Int} {m : Nat} (ha : e.srcS f.sa = .ok a)
    (hop : op (widthOf e.h) (a.toNat % 2 ^ widthOf e.h) = m) (hm : m ≤ widthOf e.h) :
    e.alu1 f op = .ok (e.flyS 1 f.dst (BitVec.ofNat 64 m) 0) := by
  rw [Env.alu1, bind_ok ha, e.retS_ok, hop, extend_count hm]

theorem Env.aluImm_ok {f : IFmt} {op : Nat → Nat → Nat → Int} {r : BitVec (widthOf e.h)} (ha : e.srcS f.sa = .ok a)
    (hop : BitVec.ofInt _ (op (widthOf e.h) (a.setWidth (widthOf e.h)).toNat ((f.imm.signExtend 64).setWidth (widthOf e.h)).toNat) = r) :
    e.aluImm f op = .ok (e.flyS 1 f.dst (r.signExtend 64) 0) := by
  rw [Env.aluImm, bind_ok ha, e.retS_ok, ← hop, ← extend_eq (widthOf_pos _), BitVec.toNat_setWidth, ofI_signExtend]

theorem Env.shiftImm_ok {f : IFmt} {op : Nat → Nat → Nat → Int} {r : BitVec (widthOf e.h)} (ha : e.srcS f.sa = .ok a)
    (hop : BitVec.ofInt _ (op (widthOf e.h) (a.setWidth (widthOf e.h)).toNat ((f.imm.signExtend 64).toNat % 64)) = r) :
    e.shiftImm f op = .ok (e.flyS 1 f.dst (r.signExtend 64) 0) := by
  rw [Env.shiftImm, bind_ok ha, e.retS_ok, ← hop, ← extend_eq (widthOf_pos _), BitVec.toNat_setWidth, toNat_signExtend_mod]

/-- A compare writes what its condition makes of the low bits of its operands (R345). -/
theorem Env.compare_ok {d : BitVec 9} {c : Nat} {g : (n : Nat) → BitVec n → BitVec n → Bool} (hc : e.h.fmt.toNat % 8 = c)
    (hg : ∀ n, 0 < n → ∀ x y : BitVec n, condOf c n x.toNat y.toNat = g n x y) : e.compare d a b =
    .ok (e.flyP 1 d (g (if e.h.fmt.getLsbD 3 then 32 else 64) (a.setWidth _) (b.setWidth _)) 0) := by
  rw [Env.compare, Env.retP_eq, hc, ← hg _ (by split <;> decide), BitVec.toNat_setWidth, BitVec.toNat_setWidth]
  rfl

end

section
variable {n : Nat} (hn : 0 < n) (x y : BitVec n)

theorem condOf_eq : condOf 0 n x.toNat y.toNat = (x == y) := by simp [condOf, ← BitVec.toNat_eq, beq_eq_decide]
theorem condOf_ne : condOf 1 n x.toNat y.toNat = (x != y) := by simp [condOf, ← BitVec.toNat_eq, bne, beq_eq_decide]
theorem condOf_ult : condOf 4 n x.toNat y.toNat = x.ult y := rfl
theorem condOf_uge : condOf 5 n x.toNat y.toNat = y.ule x := rfl
include hn
theorem condOf_slt : condOf 2 n x.toNat y.toNat = x.slt y := by simp only [condOf, toS_toNat hn, BitVec.slt]
theorem condOf_sge : condOf 3 n x.toNat y.toNat = y.sle x := by simp only [condOf, toS_toNat hn, BitVec.sle]

end

/-- The two compares under one condition (R345). -/
theorem compare_runs {c : Nat} (g : (n : Nat) → BitVec n → BitVec n → Bool)
    (hg : ∀ n, 0 < n → ∀ x y : BitVec n, condOf c n x.toNat y.toNat = g n x y) (h : Hd) (s : State) (hc : h.fmt.toNat % 8 = c) :
    (∀ (f : RFmt) (a b : Word), Ready .cmp .sc (mkR Op.cmp.code h f) h s →
      (s.env .sc h).srcS f.sa = .ok a → (s.env .sc h).srcS f.sb = .ok b →
      exec (.cmp h f) s = .next (((s.env .sc h).flyP 1 f.dst
        (g (if h.fmt.getLsbD 3 then 32 else 64) (a.setWidth _) (b.setWidth _)) 0).setVerdict .committed)) ∧
    ∀ (f : IFmt) (a : Word), Ready .cmpi .sc (mkI Op.cmpi.code h f) h s → (s.env .sc h).srcS f.sa = .ok a →
      exec (.cmpi h f) s = .next (((s.env .sc h).flyP 1 f.dst
        (g (if h.fmt.getLsbD 3 then 32 else 64) (a.setWidth _) ((f.imm.signExtend 64).setWidth _)) 0).setVerdict .committed) := by
  refine ⟨fun f a b r ha hb => runSlot_ready r ?_, fun f a r ha => runSlot_ready r ?_⟩
  · exact (bind_ok ha _).trans ((bind_ok hb _).trans (Env.compare_ok hc hg))
  · exact (bind_ok ha _).trans (Env.compare_ok hc hg)

/-- Settles O16: counts of bits, extensions and SEL; the compares, by their condition; the immediate forms. -/
theorem scalarOneSource : Obligations.ScalarOneSource := by
  refine ⟨⟨⟨?counts, fun h f s a r ha => ?sext, fun h f s a r ha => ?zext, fun h f s a b r ha hb => ?sel⟩, ?compares⟩,
    ?immediates, fun h f s r => ?li, fun h f s d r hd => ?lih⟩
  case counts =>
    simp only [List.forall_mem_cons, List.not_mem_nil, false_imp_iff, implies_true, and_true]
    refine ⟨fun h f s a r ha => ?clz, fun h f s a r ha => ?ctz, fun h f s a r ha => ?popc⟩
    case clz =>
      refine runSlot_ready r (Env.alu1_count ha (congrArg Nat.cast ?_) (Nat.sub_le ..))
      have hlead := leadZeros_eq (a.setWidth (widthOf h))
      rwa [BitVec.toNat_setWidth] at hlead
    case ctz =>
      refine runSlot_ready r (Env.alu1_count ha (congrArg Nat.cast (trailZeros_eq _ _)) ?_)
      exact (List.takeWhile_prefix _).length_le.trans_eq List.length_range
    case popc =>
      refine runSlot_ready r (Env.alu1_count ha (congrArg Nat.cast (popCount_eq _ _)) ?_)
      exact (List.length_filter_le ..).trans_eq List.length_range
  case sext =>
    refine runSlot_ready r ((bind_ok ha _).trans ?_)
    rw [Env.retS_ok, toS_setWidth (extBits f) (Nat.succ_pos _)]
    rfl
  case zext =>
    refine runSlot_ready r ((bind_ok ha _).trans ?_)
    rw [Env.retS_ok, ← BitVec.toNat_setWidth, BitVec.ofNat_toNat]
    rfl
  case sel => exact runSlot_ready r ((bind_ok ha _).trans ((bind_ok hb _).trans (Env.retS_ok ..)))
  case compares =>
    simp only [List.forall_mem_cons, List.not_mem_nil, false_imp_iff, implies_true, and_true]
    exact ⟨compare_runs (fun _ x y => x == y) fun _ _ => condOf_eq, compare_runs (fun _ x y => x != y) fun _ _ => condOf_ne,
      compare_runs (fun _ x y => x.slt y) fun _ => condOf_slt, compare_runs (fun _ x y => y.sle x) fun _ => condOf_sge,
      compare_runs (fun _ x y => x.ult y) fun _ _ => condOf_ult, compare_runs (fun _ x y => y.ule x) fun _ _ => condOf_uge⟩
  case immediates =>
    simp only [List.forall_mem_cons, List.not_mem_nil, false_imp_iff, implies_true, and_true]
    refine ⟨?addi, ?andi, ?ori, ?xori, ?shli, ?shri, ?srai⟩ <;> intro h f s a r ha
    case addi => exact runSlot_ready r (Env.aluImm_ok ha (opAdd_wraps _ _))
    case andi => exact runSlot_ready r (Env.aluImm_ok ha (opAnd_eq _ _))
    case ori => exact runSlot_ready r (Env.aluImm_ok ha (opOr_eq _ _))
    case xori => exact runSlot_ready r (Env.aluImm_ok ha (opXor_eq _ _))
    case shli => exact runSlot_ready r (Env.shiftImm_ok ha (opShl_eq _ _))
    case shri => exact runSlot_ready r (Env.shiftImm_ok ha (opShr_eq _ _))
    case srai => exact runSlot_ready r (Env.shiftImm_ok ha (opSra_eq _ (widthOf_pos _) _))
  case li => exact runSlot_ready r (Env.retS_ok ..)
  case lih => exact runSlot_ready r ((bind_ok hd _).trans (Env.retS_ok ..))

end Sys2Proof.Machine
end

section
/-!
PROOFS. What a slot that is legal alone in its bundle has passed (R311, R313), PLOG (R346), and scalar floating point (R225,
R347, R348).
-/

namespace Sys2Proof.Machine

/-! ### The illegal-bundle rule on one slot -/

/-- What a slot that is legal alone in its bundle has passed (R311, R313). -/
theorem Env.illegalAlone_none {e : Env} {op : Op} {w : Word} (h : e.illegalAlone op w = none) :
    (op.named w).resv = false ∧ op.desc.fmts.contains (fmtOf w) = true := by
  unfold Env.illegalAlone illegal illegalWith at h
  dsimp only at h
  split at h
  · cases h
  · rename_i hreasons
    split at h
    · rename_i hbad
      have hresv := List.find?_eq_none.mp hreasons (4, _) (List.mem_map_of_mem (by decide))
      simp [reasonSlots, SlotWord.named] at hresv
      simp [Op.illegalOp] at hbad
      exact ⟨hresv, by simpa using hbad.1⟩
    · cases h

theorem plog_illegal {e : Env} {w : Word} (h : (Op.plog.named w).resv = true) :
    ∃ m, e.illegalAlone .plog w = some (.illegalBundle, 4, m) := by
  unfold Env.illegalAlone illegal illegalWith
  have h1 : reasonSlots [] (fun n => e.x.xReg n) [⟨e.slot, w, .ok .plog⟩] 1 = [] := by
    simp [reasonSlots]
  have h2 : reasonSlots [] (fun n => e.x.xReg n) [⟨e.slot, w, .ok .plog⟩] 2 = [] := by
    simp [reasonSlots, portLimits, SlotWord.named, Op.named, Op.sources, Op.desc, Op.dests, Op.sbUsed, Op.scUsed, Op.convWidths]
  have h3 : reasonSlots [] (fun n => e.x.xReg n) [⟨e.slot, w, .ok .plog⟩] 3 = [] := by
    simp [reasonSlots, SlotWord.unassigned]
  have h4 : reasonSlots [] (fun n => e.x.xReg n) [⟨e.slot, w, .ok .plog⟩] 4 = [e.slot] := by
    simp [reasonSlots, SlotWord.named, h]
  simp only [List.map_cons, h1, h2, h3, h4]
  exact ⟨_, rfl⟩

/-! ### PLOG -/

/-- The bits of a PLOG word that R346 reserves are those of IMM11[10:4]. -/
theorem plog_reserved {h : Hd} {f : RFmt} (hf : f.imm.extractLsb' 4 7 ≠ 0) :
    (Op.plog.named (mkR Op.plog.code h f)).resv = true := by
  suffices hand : (mkR Op.plog.code h f).toNat &&& 0xFFFF0 ≠ 0 by
    simp only [Op.named, Op.reserved, Op.desc, Bool.or_eq_true]
    exact .inl (.inl (.inl (.inl (.inl (decide_eq_true hand)))))
  contrapose! hf
  rw [← congrArg RFmt.imm (Laws.rOf_mkR Op.plog.code h f)]
  refine BitVec.eq_of_getLsbD_eq fun i hi => ?_
  have hbit := congrArg (Nat.testBit · (4 + i)) hf
  have hmask : Nat.testBit 0xFFFF0 (4 + i) = true := by interval_cases i <;> rfl
  simp only [Nat.testBit_and, hmask, Bool.and_true, Nat.zero_testBit] at hbit
  have himm : 4 + i < 11 := by omega
  have hlow : (rOf (mkR Op.plog.code h f)).imm.getLsbD (4 + i) = (mkR Op.plog.code h f).toNat.testBit (4 + i) := by
    simp only [rOf, BitVec.getLsbD_extractLsb', himm, decide_true, Bool.true_and, Nat.zero_add]
    rfl
  rw [BitVec.getLsbD_extractLsb', decide_eq_true hi, Bool.true_and, hlow, hbit]
  exact BitVec.getLsbD_zero.symm

theorem Env.plog_legal {e : Env} {h : Hd} {f : RFmt} (hl : e.illegalAlone .plog (mkR Op.plog.code h f) = none) :
    h.fmt = 0 ∧ f.imm.extractLsb' 4 7 = 0 := by
  obtain ⟨hresv, hfmt⟩ := Env.illegalAlone_none hl
  refine ⟨?_, of_not_not fun hf => Bool.false_ne_true (hresv.symm.trans (plog_reserved hf))⟩
  have hhd : fmtOf (mkR Op.plog.code h f) = h.fmt.toNat := congrArg (fun g : Hd => g.fmt.toNat) (Laws.hdOf_mkR Op.plog.code h f)
  rw [hhd] at hfmt
  exact toNat_eq_zero.mp (by simpa [Op.desc] using hfmt)

/-- Settles O17: the truth table by its index; an illegal word by the reserved bits. -/
theorem predicateLogic : Obligations.PredicateLogic := by
  refine ⟨fun h f s => ⟨Laws.opOf_mkR _ _ _, rfl, fun r => ?runs, fun hf => ?illegal⟩, by decide⟩
  case runs =>
    obtain ⟨hfmt, himm⟩ := Env.plog_legal r.legal
    refine ⟨hfmt, himm, runSlot_ready r ((Env.retP_eq ..).trans (congrArg Except.ok (congrArg (Env.flyP _ 1 f.dst · 0) ?_)))⟩
    show f.imm.getLsbD ((if (s.env .sc h).x.pReg f.sa.toNat then 2 else 0) + if (s.env .sc h).x.pReg f.sb.toNat then 1 else 0) = _
    cases (s.env .sc h).x.pReg f.sa.toNat <;> cases (s.env .sc h).x.pReg f.sb.toNat <;> simp
  case illegal =>
    obtain ⟨m, hm⟩ := plog_illegal (e := s.env .sc h) (plog_reserved hf)
    refine ⟨m, ?_⟩
    show runSlot .plog .sc (mkR Op.plog.code h f) h s _ = _
    have hstops : ∀ body, (s.env .sc h).attempt .plog (mkR Op.plog.code h f) body = .error (.trap .illegalBundle 4) := fun body => by
      unfold Env.attempt
      rw [hm]
    unfold runSlot
    simp only [hstops, hm]
    rfl

/-! ### Floating point -/

/-- A ready slot whose result carries flags ends as R225 says. -/
theorem runSlot_fp {op : Op} {k : Slot} {w : Word} {h : Hd} {s t : State} {body : Body} {fl : Fl} (r : Ready op k w h s)
    (hb : body (s.env k h) = (do (s.env k h).fpCheck fl; pure t)) :
    runSlot op k w h s body = .next ((s.env k h).fpEnds fl t) := by
  unfold Env.fpCheck trapIf at hb
  unfold Env.fpEnds
  dsimp only at hb ⊢
  split_ifs with hon
  · exact runSlot_ready r (hb.trans (by rw [stopIf_false (decide_eq_false (not_not.mpr hon))]; rfl))
  · exact runSlot_traps r (hb.trans (by rw [stopIf_true (decide_eq_true hon)]; rfl))

theorem Env.srcF_ok {e : Env} {f : BitVec 9} {a : Word} (ha : e.srcS f = .ok a) : e.srcF f = .ok (a.toNat % 2 ^ 32) := by
  rw [Env.srcF, ha]
  rfl

section
variable {h : Hd} {f : RFmt} {s : State} {o : Op} {a b : Word} (r : Ready o .sc (mkR o.code h f) h s)
  (ha : (s.env .sc h).srcS f.sa = .ok a)
include r ha

theorem runR_fp2 {op : Nat → FV → FV → Nat × Fl} (hb : (s.env .sc h).srcS f.sb = .ok b) (v : Nat × Fl)
    (hv : op ((s.env .sc h).mode h.fmt.toNat) (unpack fp32 (a.toNat % 2 ^ 32)) (unpack fp32 (b.toNat % 2 ^ 32)) = v) :
    runR o .sc h f s (fun e => e.fp2 f op) = .next ((s.env .sc h).fpEnds v.2 ((s.env .sc h).flyS 4 f.dst (BitVec.ofNat 64 v.1) v.2)) := by
  subst hv
  exact runSlot_fp r ((bind_ok (Env.srcF_ok ha) _).trans (bind_ok (Env.srcF_ok hb) _))

theorem runR_fpMinMax {isMax : Bool} (hb : (s.env .sc h).srcS f.sb = .ok b) (v : Nat × Fl)
    (hv : fMinMax fp32 isMax (a.toNat % 2 ^ 32) (b.toNat % 2 ^ 32) = v) : runR o .sc h f s (fun e => e.fpMinMax f isMax) =
    .next ((s.env .sc h).fpEnds v.2 ((s.env .sc h).flyS 4 f.dst (BitVec.ofNat 64 v.1) v.2)) := by
  subst hv
  exact runSlot_fp r ((bind_ok (Env.srcF_ok ha) _).trans (bind_ok (Env.srcF_ok hb) _))

end

/-- The word that FSGN forms of a sign and the bits below it (R348). -/
theorem fsgn_word (g : Bool) (a : Word) : BitVec.ofNat 64 (a.toNat % 2 ^ 32 % 2 ^ 31 + if g then 2 ^ 31 else 0) =
    BitVec.setWidth 64 (BitVec.ofBool g ++ a.extractLsb' 0 31) := by
  apply BitVec.eq_of_toNat_eq
  rw [BitVec.toNat_ofNat, BitVec.toNat_setWidth, Laws.append_toNat, BitVec.extractLsb'_toNat, BitVec.toNat_ofBool]
  cases g
  · simp
  · simp
    omega

/-- The sign that FSGN gives its result, by its variant (R348). -/
def fsgnSign (n : Nat) (a b : Bool) : Bool := match n with
  | 0 => b
  | 1 => !b
  | _ => a != b

theorem fsgnSign_eq (n : BitVec 4) (a b : Bool) : fsgnSign n.toNat a b = if n = 0 then b else if n = 1 then !b else a != b := by
  unfold fsgnSign
  split
  · rename_i h0
    rw [if_pos (toNat_eq_zero.mp h0)]
  · rename_i h1
    have hn : n = 1 := BitVec.eq_of_toNat_eq h1
    rw [hn]
    rfl
  · rename_i h0 h1
    rw [if_neg fun h => h0 (by rw [h]; rfl), if_neg fun h => h1 (by rw [h]; rfl)]

theorem testBit31_low (a : Word) : (a.toNat % 2 ^ 32).testBit 31 = a.getLsbD 31 := by
  rw [Nat.testBit_mod_two_pow, BitVec.getLsbD, decide_eq_true (by decide), Bool.true_and]

/-- Settles O18: each instruction's result and flags, which end as R225 says. -/
theorem scalarFpCompletes : Obligations.ScalarFpCompletes := by
  refine ⟨?arith, fun h f s a b c r ha hb hc v hv => ?fma, ?minmax, fun h f s a b r ha hb v hv => ?fcmp,
    fun h f s a ha => ⟨fun v r hv => ?fsqrt, fun v r hv => ?fcvt, fun r => ?fcls, fun b r hb => ?fsgn⟩⟩
  case arith =>
    simp only [List.forall_mem_cons, List.not_mem_nil, false_imp_iff, implies_true, and_true]
    exact ⟨fun h f s a b r ha hb => runR_fp2 r ha hb,
      fun h f s a b r ha hb => runR_fp2 (op := fun m x y => fAdd fp32 m x y.neg) r ha hb,
      fun h f s a b r ha hb => runR_fp2 r ha hb, fun h f s a b r ha hb => runR_fp2 r ha hb⟩
  case minmax =>
    simp only [List.forall_mem_cons, List.not_mem_nil, false_imp_iff, implies_true, and_true]
    exact ⟨fun h f s a b r ha hb => runR_fpMinMax r ha hb, fun h f s a b r ha hb => runR_fpMinMax r ha hb⟩
  case fma =>
    subst hv
    exact runSlot_fp r ((bind_ok (Env.srcF_ok ha) _).trans ((bind_ok (Env.srcF_ok hb) _).trans (bind_ok (Env.srcF_ok hc) _)))
  case fcmp =>
    subst hv
    exact runSlot_fp r ((bind_ok (Env.srcF_ok ha) _).trans (bind_ok (Env.srcF_ok hb) _))
  case fsqrt =>
    subst hv
    exact runSlot_fp r (bind_ok (Env.srcF_ok ha) _)
  case fcvt =>
    subst hv
    exact runSlot_fp r (bind_ok ha _)
  case fcls => exact runSlot_ready r ((bind_ok (Env.srcF_ok ha) _).trans (Env.retS_ok ..))
  case fsgn =>
    refine runSlot_ready r ((bind_ok (Env.srcF_ok ha) _).trans ((bind_ok (Env.srcF_ok hb) _).trans ((Env.retS_ok ..).trans ?_)))
    refine congrArg (fun v => Except.ok ((s.env .sc h).flyS 4 f.dst v 0)) ?_
    rw [fsgn_word, testBit31_low, testBit31_low]
    refine congrArg (fun g : Bool => BitVec.setWidth 64 (BitVec.ofBool g ++ a.extractLsb' 0 31)) ?_
    exact fsgnSign_eq h.fmt (a.getLsbD 31) (b.getLsbD 31)

end Sys2Proof.Machine
end

section
/-!
PROOFS. Capability derivation and inspection (R98, R100, R354, R355).
-/

namespace Sys2Proof.Machine

/-! ### The fields of a capability -/

theorem bits_extract {n : Nat} (x : BitVec n) (lo w : Nat) : bits x.toNat lo w = (x.extractLsb' lo w).toNat := by
  rw [BitVec.extractLsb'_toNat]
  rfl

section
variable (obj : Nat) (off : Int) (len : Nat) (rights rsv : BitVec 8) (tag : Bool)

theorem mkCap_field (lo w : Nat) {x : BitVec w} (hx : ∀ i < w, (mkCap obj off len rights rsv tag).bits.getLsbD (lo + i) = x.getLsbD i) :
    (mkCap obj off len rights rsv tag).bits.extractLsb' lo w = x :=
  BitVec.eq_of_getLsbD_eq fun i hi => by rw [BitVec.getLsbD_extractLsb', decide_eq_true hi, Bool.true_and, hx i hi]

theorem mkCap_rsv : (mkCap obj off len rights rsv tag).bits.extractLsb' 120 8 = rsv := by
  refine mkCap_field _ _ _ _ _ _ _ _ fun i hi => ?_
  simp only [mkCap, BitVec.getLsbD_append]
  grind

theorem mkCap_rights : (mkCap obj off len rights rsv tag).rights = rights := by
  refine mkCap_field _ _ _ _ _ _ _ _ fun i hi => ?_
  simp only [mkCap, BitVec.getLsbD_append]
  grind

theorem mkCap_len : (mkCap obj off len rights rsv tag).len = len % 2 ^ 40 := by
  refine (bits_extract ..).trans (congrArg BitVec.toNat (mkCap_field _ _ _ _ _ _ _ _ (x := BitVec.ofNat 40 len) fun i hi => ?_))
  simp only [mkCap, BitVec.getLsbD_append]
  grind

theorem mkCap_off : (mkCap obj off len rights rsv tag).off = (BitVec.ofInt 48 off).toInt := by
  have hfield := mkCap_field obj off len rights rsv tag 24 48 (x := BitVec.ofInt 48 off) fun i hi => by
    simp only [mkCap, BitVec.getLsbD_append]
    grind
  rw [Cap.off, bits_extract, hfield, toS_toNat (by decide)]

theorem mkCap_obj : (mkCap obj off len rights rsv tag).obj = obj % 2 ^ 24 := by
  refine (bits_extract ..).trans (congrArg BitVec.toNat (mkCap_field _ _ _ _ _ _ _ _ (x := BitVec.ofNat 24 obj) fun i hi => ?_))
  simp only [mkCap, BitVec.getLsbD_append]
  grind

end

theorem Cap.obj_lt (c : Cap) : c.obj < 2 ^ 24 := bits_lt ..
theorem Cap.len_lt (c : Cap) : c.len < 2 ^ 40 := bits_lt ..

theorem Cap.off_eq (c : Cap) : c.off = (c.bits.extractLsb' 24 48).toInt := by
  rw [Cap.off, bits_extract, toS_toNat (by decide)]

theorem Cap.ofInt_off (c : Cap) : (BitVec.ofInt 48 c.off).toInt = c.off := by
  rw [c.off_eq, BitVec.ofInt_toInt]

/-! ### Derivation (R100, R354) -/

section
variable (c : Cap) (off : Int) (len : Nat) (rights : BitVec 8) (ok : Bool)

theorem Cap.derive_derives : c.DerivesTo (c.derive off len rights ok) (BitVec.ofInt 48 off).toInt (len % 2 ^ 40) rights ok :=
  ⟨(mkCap_obj ..).trans (Nat.mod_eq_of_lt c.obj_lt), mkCap_rsv .., mkCap_off .., mkCap_len .., mkCap_rights .., rfl⟩

/-- Length kept. -/
theorem Cap.derive_moves : c.DerivesTo (c.derive off c.len rights ok) (BitVec.ofInt 48 off).toInt c.len rights ok := by
  have hd := c.derive_derives off c.len rights ok
  rwa [Nat.mod_eq_of_lt c.len_lt] at hd

/-- Offset and length kept. -/
theorem Cap.derive_restricts : c.DerivesTo (c.derive c.off c.len rights ok) c.off c.len rights ok := by
  simpa only [c.ofInt_off] using c.derive_moves c.off rights ok

theorem Cap.bound_derives (n : Nat) : c.DerivesTo (c.bound n) c.off ((c.off + n) % 2 ^ 40).toNat c.rights
    (decide (0 ≤ c.off ∧ c.off + n ≤ c.len)) := by
  have hlen : ofI 40 (c.off + n) % 2 ^ 40 = ((c.off + n) % 2 ^ 40).toNat := by
    rw [ofI_eq, Nat.mod_eq_of_lt (BitVec.isLt _), BitVec.toNat_ofInt]
    rfl
  have hd := c.derive_derives c.off (ofI 40 (c.off + n)) c.rights (decide (0 ≤ c.off) && decide (c.off + n ≤ c.len))
  rw [c.ofInt_off, hlen] at hd
  rw [Bool.decide_and]
  exact hd

variable {c off len rights ok} {d : Cap}

/-- A valid capability derives from a valid one, by a step that its condition allows, over the same object. -/
theorem Cap.DerivesTo.of_valid (h : c.DerivesTo d off len rights ok) (hv : d.valid = true) :
    c.valid = true ∧ ok = true ∧ d.obj = c.obj ∧ d.len = len ∧ d.rights = rights := by
  obtain ⟨hobj, -, -, hlen, hrights, htag⟩ := h
  rw [Cap.valid, Bool.and_eq_true, htag, Bool.and_eq_true] at hv
  exact ⟨hv.1.1, hv.1.2, hobj, hlen, hrights⟩

end

/-- No derivation widens (R100). -/
theorem Cap.derived_narrow {c c' : Cap} {n : Nat} {off : Int} {r : BitVec 8}
    (h : c' = c.bound n ∨ c' = c.derive c.off c.len (c.rights &&& r) true ∨ c' = c.derive off c.len c.rights true)
    (hv : c'.valid = true) : c.valid = true ∧ c'.obj = c.obj ∧ c'.rights &&& ~~~c.rights = 0 ∧ c'.len ≤ c.len := by
  rcases h with rfl | rfl | rfl
  · obtain ⟨hc, hok, hobj, hlen, hrights⟩ := (c.bound_derives n).of_valid hv
    obtain ⟨h0, hin⟩ := of_decide_eq_true hok
    have := c.len_lt
    refine ⟨hc, hobj, by rw [hrights, BitVec.and_not_self], ?_⟩
    omega
  · obtain ⟨hc, -, hobj, hlen, hrights⟩ := (c.derive_restricts (c.rights &&& r) true).of_valid hv
    refine ⟨hc, hobj, ?_, hlen.le⟩
    rw [hrights, BitVec.and_comm c.rights r, BitVec.and_assoc, BitVec.and_not_self]
    exact BitVec.and_zero
  · obtain ⟨hc, -, hobj, hlen, hrights⟩ := (c.derive_moves off c.rights true).of_valid hv
    exact ⟨hc, hobj, by rw [hrights, BitVec.and_not_self], hlen.le⟩

theorem Env.derive_ok {e : Env} {sa dst : BitVec 9} {c : Cap} (ha : e.srcA sa = .ok c) (g : Cap → Cap) :
    e.derive sa dst g = .ok (e.flyA 1 dst (g c)) := by
  rw [Env.derive, ha]
  rfl

/-! ### The checks of R98 -/

section
variable {areg acc : Nat} {c : Cap} {need : BitVec 8} {eo : Int} {n : Nat}

theorem capCheck_tag (hv : c.valid = false) : capCheck areg acc c need eo n = .error (.trap .capTag (capValue areg acc 0 eo)) :=
  if_pos (by rw [hv]; rfl)

theorem capCheck_rights (hv : c.valid = true) (hr : need &&& ~~~c.rights ≠ 0) :
    capCheck areg acc c need eo n = .error (.trap .capRights (capValue areg acc (need &&& ~~~c.rights).toNat eo)) :=
  (if_neg (by simp [hv])).trans (if_pos hr)

theorem capCheck_bounds (hv : c.valid = true) (hr : need &&& ~~~c.rights = 0) (hn : n ≠ 0) (ho : eo < 0 ∨ (c.len : Int) < eo + n) :
    capCheck areg acc c need eo n = .error (.trap .capBounds (capValue areg acc 0 eo)) := by
  unfold capCheck
  rw [if_neg (by simp [hv]), if_neg (not_not.mpr hr), if_pos (by simpa [hn] using ho)]

end

theorem bind_error {α β : Type} {x : Except Stop α} {p : Stop} (h : x = .error p) (g : α → Except Stop β) :
    (x >>= g) = .error p := by
  rw [h]
  rfl

/-- Settles O19: each derivation by the fields of the capability made; CCHK by the first check that fails. -/
theorem capabilityDerives : Obligations.CapabilityDerives := by
  refine ⟨⟨⟨?register, ?immediate, fun h f s c ha => ⟨fun r => ?move, fun r => ?clear⟩, fun h f s lo hi r hlo hhi => ?make⟩,
    fun c c' n off r h hv => Cap.derived_narrow h hv⟩, ?field, fun h f s a b r ha hb => ?sub, fun h f s c n r ha hn => ?check⟩
  case register =>
    simp only [List.forall_mem_cons, List.not_mem_nil, false_imp_iff, implies_true, and_true]
    exact ⟨fun h f s c b r ha hb => ⟨_, runSlot_ready r ((bind_ok hb _).trans (Env.derive_ok ha _)), c.bound_derives _⟩,
      fun h f s c b r ha hb => ⟨_, runSlot_ready r ((bind_ok hb _).trans (Env.derive_ok ha _)), c.derive_moves ..⟩,
      fun h f s c b r ha hb => ⟨_, runSlot_ready r ((bind_ok hb _).trans (Env.derive_ok ha _)), c.derive_moves ..⟩⟩
  case immediate =>
    simp only [List.forall_mem_cons, List.not_mem_nil, false_imp_iff, implies_true, and_true]
    exact ⟨fun h f s c r ha => ⟨_, runSlot_ready r (Env.derive_ok ha _), c.bound_derives _⟩,
      fun h f s c r ha => ⟨_, runSlot_ready r (Env.derive_ok ha _), c.derive_restricts ..⟩,
      fun h f s c r ha => ⟨_, runSlot_ready r (Env.derive_ok ha _), c.derive_moves ..⟩⟩
  case move => exact runSlot_ready r (Env.derive_ok ha id)
  case clear => exact runSlot_ready r (Env.derive_ok ha _)
  case make => exact runSlot_ready r ((bind_ok hlo _).trans (bind_ok hhi _))
  case field =>
    have hget : ∀ (n : Nat) (h : Hd) (f : RFmt) (s : State) (c : Cap), h.fmt.toNat = n → Ready .cget .sc (mkR Op.cget.code h f) h s →
        (s.env .sc h).srcA f.sa = .ok c →
        exec (.cget h f) s = .next (((s.env .sc h).flyS 1 f.dst (c.field n) 0).setVerdict .committed) :=
      fun n h f s c hn r ha => hn ▸ runSlot_ready r ((bind_ok ha _).trans (Env.retS_ok ..))
    simp only [List.forall_mem_cons, List.not_mem_nil, false_imp_iff, implies_true, and_true]
    exact ⟨hget 0, hget 1, hget 2, hget 3, hget 4, hget 5, hget 6, hget 7⟩
  case sub => exact runSlot_ready r ((bind_ok ha _).trans ((bind_ok hb _).trans (Env.retS_ok ..)))
  case check =>
    refine ⟨fun hv hr hin => ?_, fun hv => ?_, fun hv hr => ?_, fun hv hr h0 ho => ?_⟩
    · refine runSlot_ready r ((bind_ok ha _).trans ((bind_ok hn _).trans (bind_ok (capCheck_ok ⟨hv, hr, ?_⟩) _)))
      exact (em (n = 0)).imp (fun h => by rw [h]; rfl) hin
    · exact ⟨_, runSlot_traps r ((bind_ok ha _).trans ((bind_ok hn _).trans (bind_error (capCheck_tag hv) _)))⟩
    · exact ⟨_, runSlot_traps r ((bind_ok ha _).trans ((bind_ok hn _).trans (bind_error (capCheck_rights hv hr) _)))⟩
    · exact ⟨_, runSlot_traps r ((bind_ok ha _).trans ((bind_ok hn _).trans (bind_error
        (capCheck_bounds hv hr (fun h => h0 (toNat_eq_zero.mp h)) ho) _)))⟩

end Sys2Proof.Machine
end

section
/-!
PROOFS. Control transfer and the hardware loop (R349 to R352).
-/

namespace Sys2Proof.Machine

theorem Env.noTemplate_ok {e : Env} (h : e.x.tmpl = none) : e.noTemplate = .ok () := by
  unfold Env.noTemplate trapIf
  rw [h]
  rfl

/-! ### The fields of LOOPST (R359) -/

section
variable (n : BitVec 32) (act : Bool) (lvl : BitVec 2) (e : Bool) (last st : BitVec 10)

theorem loopCnt_mkLoop : loopCnt (mkLoop n act lvl e last st) = n.toNat := by
  refine (bits_extract ..).trans (congrArg BitVec.toNat (BitVec.eq_of_getLsbD_eq fun i hi => ?_))
  simp only [mkLoop, BitVec.getLsbD_extractLsb', BitVec.getLsbD_append]
  grind

theorem loopAct_mkLoop : loopAct (mkLoop n act lvl e last st) = act := by
  simp only [loopAct, mkLoop, BitVec.getLsbD_append]
  simp

theorem loopLvl_mkLoop : loopLvl (mkLoop n act lvl e last st) = lvl.toNat := by
  refine (bits_extract ..).trans (congrArg BitVec.toNat (BitVec.eq_of_getLsbD_eq fun i hi => ?_))
  simp only [mkLoop, BitVec.getLsbD_extractLsb', BitVec.getLsbD_append]
  grind

theorem loopEdge_mkLoop : loopEdge (mkLoop n act lvl e last st) = e := by
  simp only [loopEdge, mkLoop, BitVec.getLsbD_append]
  simp

theorem loopEnd_mkLoop : loopEnd (mkLoop n act lvl e last st) = last := by
  refine BitVec.eq_of_getLsbD_eq fun i hi => ?_
  simp only [loopEnd, mkLoop, BitVec.getLsbD_extractLsb', BitVec.getLsbD_append]
  grind

theorem loopStart_mkLoop : loopStart (mkLoop n act lvl e last st) = st := by
  refine BitVec.eq_of_getLsbD_eq fun i hi => ?_
  simp only [loopStart, mkLoop, BitVec.getLsbD_extractLsb', BitVec.getLsbD_append]
  grind

/-- Another count over the same low half. -/
theorem mkLoop_recount (m : BitVec 32) : (m ++ (mkLoop n act lvl e last st).extractLsb' 0 32 : Word) = mkLoop m act lvl e last st := by
  refine BitVec.eq_of_getLsbD_eq fun i hi => ?_
  simp only [mkLoop, BitVec.getLsbD_extractLsb', BitVec.getLsbD_append]
  grind

/-- ACT is bit 23 of the low half. -/
theorem mkLoop_deactivate (m : BitVec 32) :
    (m ++ ((mkLoop n act lvl e last st).extractLsb' 0 32 &&& 0xFF7FFFFF) : Word) = mkLoop m false lvl e last st := by
  have hmask : ∀ i < 32, (0xFF7FFFFF : BitVec 32).getLsbD i = decide (i ≠ 23) := by decide
  rw [← mkLoop_recount 0 false lvl e last st m]
  refine congrArg (m ++ ·) (BitVec.eq_of_getLsbD_eq fun i hi => ?_)
  rw [BitVec.getLsbD_and, hmask i hi]
  simp only [mkLoop, BitVec.getLsbD_extractLsb', BitVec.getLsbD_append]
  grind

variable {n lvl e last st}

theorem loopStep_turns {l : Nat} {p : Pc} (hl : lvl.toNat = l) (he : e = p.edge) (hlast : last = p.idx) :
    loopStep (mkLoop n true lvl e last st) l p = if n - 1 = 0 then some (mkLoop 0 false lvl e last st, { p with idx := p.idx + 1 })
      else some (mkLoop (n - 1) true lvl e last st, { p with idx := st }) := by
  unfold loopStep
  dsimp only
  rw [loopAct_mkLoop, loopLvl_mkLoop, loopEdge_mkLoop, loopEnd_mkLoop, loopCnt_mkLoop, loopStart_mkLoop, mkLoop_deactivate,
    mkLoop_recount, BitVec.ofNat_toNat, BitVec.setWidth_eq, if_pos (by simp [hl, he, hlast]), hlast]
  split_ifs with h0
  · rw [h0]
  · rfl

end

/-- Settles O20: the transfer each asks for, and LOOPST by its fields. -/
theorem controlTransfers : Obligations.ControlTransfers := by
  refine ⟨fun h s ht => ?transfers, fun n lvl p st hn => ?again, fun lvl p st => ?last, fun n act lvl e last st l p hno => ?elsewhere⟩
  case transfers =>
    have hno := Env.noTemplate_ok ht
    refine ⟨fun f r => ?br, fun f r => ?call, fun f r => ?edge, fun f a r ha => ?jr, fun f b r hb => ?bkj,
      fun f a r ha => ⟨fun h0 => ?none, fun h0 => ?loop⟩⟩
    case br => exact runSlot_ready r (bind_ok hno _)
    case call =>
      refine runSlot_ready r ((bind_ok hno _).trans (bind_ok (Env.retS_ok ..) _))
    case edge => exact runSlot_ready r (bind_ok hno _)
    case jr => exact runSlot_ready r ((bind_ok hno _).trans (bind_ok ha _))
    case bkj => exact runSlot_ready r ((bind_ok hno _).trans (bind_ok hb _))
    case none => exact runSlot_ready r ((bind_ok hno _).trans ((bind_ok ha _).trans (if_pos h0)))
    case loop => exact runSlot_ready r ((bind_ok hno _).trans ((bind_ok ha _).trans (if_neg h0)))
  case again =>
    rw [loopStep_turns rfl rfl rfl, if_neg]
    intro h0
    have := congrArg BitVec.toNat h0
    simp only [BitVec.toNat_sub, BitVec.ofNat_eq_ofNat, BitVec.toNat_ofNat] at this
    omega
  case last => exact (loopStep_turns rfl rfl rfl).trans (if_pos rfl)
  case elsewhere =>
    unfold loopStep
    rw [loopAct_mkLoop, loopLvl_mkLoop, loopEdge_mkLoop, loopEnd_mkLoop, if_neg]
    rcases hno with h | h | h | h <;> simp [h, eq_comm]

end Sys2Proof.Machine
end

section
/-!
PROOFS. Exceptions taken and returned from (R290 to R292, R299, R305, R306), TRAP, TRET, EXIT and NOP (R353).
-/

namespace Sys2Proof.Machine

/-! ### The banked trap registers (R291) -/

theorem SysRegs.bank_setBank_same (r : SysRegs) (n : Nat) (b : XBank) : (r.setBank n b).bank n = b := by
  unfold SysRegs.setBank SysRegs.bank
  split_ifs <;> rfl

/-- Entering level `n` writes its own bank alone (R290). -/
theorem SysRegs.bank_enter_other (r : SysRegs) {n : Nat} (b : XBank) (l : BitVec 2) (h : n = 1 ∨ n = 2) :
    ({ r.setBank n b with xlvl := l } : SysRegs).bank (3 - n) = r.bank (3 - n) := by
  rcases h with rfl | rfl <;> rfl

theorem SysRegs.fpcsr_setBank (r : SysRegs) (n : Nat) (b : XBank) : (r.setBank n b).fpcsr = r.fpcsr := by
  unfold SysRegs.setBank
  split_ifs <;> rfl

theorem SysRegs.xsave_setBank (r : SysRegs) (n : Nat) (b : XBank) : (r.setBank n b).xsave = r.xsave := by
  unfold SysRegs.setBank
  split_ifs <;> rfl

theorem pcOf_word (p : Pc) : pcOf p.word = p := by
  have hedge : p.word.getLsbD 10 = p.edge := by
    simp only [Pc.word, BitVec.getLsbD_setWidth, BitVec.getLsbD_append]
    simp
  have hidx : p.word.extractLsb' 0 10 = p.idx := by
    refine BitVec.eq_of_getLsbD_eq fun i hi => ?_
    simp only [Pc.word, BitVec.getLsbD_extractLsb', BitVec.getLsbD_setWidth, BitVec.getLsbD_append]
    grind
  exact congrArg₂ Pc.mk hedge hidx

/-! ### Returning (R292) -/

section
variable {s : State} {ci k : Nat}

/-- The context that has returned from its level, as R292 gives it. -/
theorem State.trapReturn_ctx {n : Nat} (hn : n = (s.ctx ci k).sr.xlvl.toNat) (h1 : 1 ≤ n) (h2 : n ≤ 2) :
    let x := s.ctx ci k
    let y := (s.trapReturn ci k).ctx ci k
    y.pc = pcOf (x.sr.bank n).pc ∧ y.aReg 31 = (x.sr.bank n).as ∧ y.sr.xlvl.toNat = n - 1 ∧
    y.resnap = x.resnap ++ (if n = 1 then x.snap1 else x.snap2) ∧ y.rerec = x.rerec ++ (if n = 1 then x.rec1 else x.rec2) ∧
    (∀ r, r ≠ 31 → y.aReg r = x.aReg r) ∧ y.s = x.s ∧ y.v = x.v ∧ y.x = x.x ∧ y.t = x.t ∧ y.d = x.d ∧ y.p = x.p ∧ y.m = x.m ∧
    y.sr = { x.sr with xlvl := y.sr.xlvl } := by
  dsimp only
  rw [State.trapReturn, State.ctx_modCtx_same, ← hn]
  refine ⟨rfl, (Ctx.aReg_setA ..).trans (if_pos rfl), ?_, rfl, rfl, fun r hr => (Ctx.aReg_setA ..).trans (if_neg hr),
    rfl, rfl, rfl, rfl, rfl, rfl, rfl, rfl⟩
  exact (BitVec.toNat_ofNat ..).trans (Nat.mod_eq_of_lt (by omega))

end

/-! ### Entering a level (R290) -/

/-- What a context `y` that has entered level `n` on a cause keeps and takes of the context `x` before it (R290). -/
structure Ctx.Enters (x y : Ctx) (n : Nat) (c : Cause) (v : Word) (m : BitVec 8) : Prop where
  lvl : y.sr.xlvl.toNat = n
  bank : y.sr.bank n = { x.sr.bank n with
    cause := BitVec.ofNat 64 c.code, val := v, mask := m.setWidth 64, pc := x.pc.word, as := x.aReg 31 }
  other : y.sr.bank (3 - n) = x.sr.bank (3 - n)
  status : y.status = if c = .translation then .parked else if x.status = .running then .running else .ready
  pc : y.pc = if c = .translation then x.pc else pcOf (x.sr.bank n).vec
  save : y.aReg 31 = x.sr.xsave.withOff (x.sr.xsave.off + 512 * ((n : Int) - 1))
  caps : ∀ r, r ≠ 31 → y.aReg r = x.aReg r
  regs : y.s = x.s ∧ y.v = x.v ∧ y.x = x.x ∧ y.t = x.t ∧ y.d = x.d ∧ y.p = x.p ∧ y.m = x.m
  fpcsr : y.sr.fpcsr = x.sr.fpcsr
  xsave : y.sr.xsave = x.sr.xsave

section
variable {t : State} {ci k : Nat} {c : Cause} {v : Word} {m : BitVec 8} {rc : List PortEntry} {n : Nat}

/-- Below level 2, TRANSLATION and a cause with a valid vector enter the next level (R290). -/
theorem State.takeTrap_enters (hn : n = ((t.land ci).ctx ci k).sr.xlvl.toNat + 1) (h2 : n ≤ 2)
    (hv : c = .translation ∨ (((t.land ci).ctx ci k).sr.bank n).vec.getLsbD 11 = true) :
    ∃ y, t.takeTrap ci k c v m rc = (t.land ci).setCore ci ((((t.land ci).core ci).detach k).setCtx k y) ∧
      Ctx.Enters ((t.land ci).ctx ci k) y n c v m := by
  have hlvl : n = 1 ∨ n = 2 := by omega
  have hto : (BitVec.ofNat 2 n).toNat = n := (BitVec.toNat_ofNat ..).trans (Nat.mod_eq_of_lt (by omega))
  unfold State.takeTrap
  dsimp only
  rw [← hn, if_neg (by omega), if_neg (by rcases hv with hv | hv <;> simp [hv])]
  generalize t.land ci = s at *
  refine ⟨_, rfl, ?_⟩
  simp only [State.ctx, Core.detach_ctx]
  split
  case isTrue => exact ⟨hto, SysRegs.bank_setBank_same .., SysRegs.bank_enter_other _ _ _ hlvl, rfl, rfl,
    (Ctx.aReg_setA ..).trans (if_pos rfl), fun r hr => (Ctx.aReg_setA ..).trans (if_neg hr), ⟨rfl, rfl, rfl, rfl, rfl, rfl, rfl⟩,
    SysRegs.fpcsr_setBank .., SysRegs.xsave_setBank ..⟩
  case isFalse => exact ⟨hto, SysRegs.bank_setBank_same .., SysRegs.bank_enter_other _ _ _ hlvl, rfl, rfl,
    (Ctx.aReg_setA ..).trans (if_pos rfl), fun r hr => (Ctx.aReg_setA ..).trans (if_neg hr), ⟨rfl, rfl, rfl, rfl, rfl, rfl, rfl⟩,
    SysRegs.fpcsr_setBank .., SysRegs.xsave_setBank ..⟩

/-- The context afterwards. -/
theorem State.takeTrap_ctx (hn : n = ((t.land ci).ctx ci k).sr.xlvl.toNat + 1) (h2 : n ≤ 2)
    (hv : c = .translation ∨ (((t.land ci).ctx ci k).sr.bank n).vec.getLsbD 11 = true) :
    Ctx.Enters ((t.land ci).ctx ci k) ((t.takeTrap ci k c v m rc).ctx ci k) n c v m := by
  obtain ⟨y, heq, hy⟩ := State.takeTrap_enters (v := v) (m := m) (rc := rc) hn h2 hv
  have hctx : (t.takeTrap ci k c v m rc).ctx ci k = y := by
    rw [heq, State.ctx, State.core_setCore_same, Core.ctx_setCtx_same]
  rwa [hctx]

/-- Entering a level changes one context of one core (R290). -/
theorem State.takeTrap_frame (hn : n = ((t.land ci).ctx ci k).sr.xlvl.toNat + 1) (h2 : n ≤ 2)
    (hv : c = .translation ∨ (((t.land ci).ctx ci k).sr.bank n).vec.getLsbD 11 = true) :
    (t.takeTrap ci k c v m rc).mem = (t.land ci).mem ∧ (∀ j, j ≠ ci → (t.takeTrap ci k c v m rc).core j = (t.land ci).core j) ∧
      ∀ j, j ≠ k → (t.takeTrap ci k c v m rc).ctx ci j = (t.land ci).ctx ci j := by
  obtain ⟨y, heq, -⟩ := State.takeTrap_enters (v := v) (m := m) (rc := rc) hn h2 hv
  rw [heq]
  refine ⟨rfl, fun j hj => State.core_setCore_other _ _ hj, fun j hj => ?_⟩
  rw [State.ctx, State.core_setCore_same, Core.ctx_setCtx_other _ _ hj, Core.detach_other _ hj]
  rfl

end

/-! ### What leaves every context's status as it is -/

/-- Every context has the status it had. -/
structure State.SameStatus (s t : State) : Prop where
  status : ∀ ci k, (t.ctx ci k).status = (s.ctx ci k).status

theorem State.SameStatus.trans {s t u : State} (h : s.SameStatus t) (g : t.SameStatus u) : s.SameStatus u :=
  ⟨fun ci k => (g.status ci k).trans (h.status ci k)⟩

/-- Steps that leave it leave it one after another. -/
theorem State.SameStatus.foldl {α : Type} {f : State → α → State} (hf : ∀ s a, State.SameStatus s (f s a)) (l : List α) (s : State) :
    s.SameStatus (l.foldl f s) :=
  List.foldlRecOn l f (motive := s.SameStatus) ⟨fun _ _ => rfl⟩ fun t ht a _ => ht.trans (hf t a)

theorem State.SameStatus.of_cores {s t : State} (h : t.cores = s.cores) : s.SameStatus t :=
  ⟨fun ci k => by simp only [State.ctx, State.core, h]⟩

theorem State.sameStatus_modCtx {f : Ctx → Ctx} (hf : ∀ x, (f x).status = x.status) (s : State) (ci k : Nat) :
    s.SameStatus (s.modCtx ci k f) := by
  refine ⟨fun cj j => ?_⟩
  by_cases hc : cj = ci
  · subst hc
    by_cases hk : j = k
    · subst hk
      rw [State.ctx_modCtx_same, hf]
    · rw [State.ctx_modCtx_other _ _ hk]
  · rw [State.ctx, State.core_modCtx_other _ _ hc]
    rfl

theorem State.sameStatus_clearArrival (s : State) (task core ctx j : Nat) : s.SameStatus (s.clearArrival task core ctx j) := by
  unfold State.clearArrival
  dsimp only
  split_ifs
  · exact (State.sameStatus_modCtx (f := fun x => { x with arrived := SMap.set 0 x.arrived j 0 }) (fun _ => rfl) s core ctx).trans
      (.of_cores rfl)
  · exact .of_cores rfl

theorem State.sameStatus_endPhase (s : State) (b : Barrier) (rcd : Quad) : s.SameStatus (s.endPhase b rcd) :=
  .trans (.foldl (fun s _ => s.sameStatus_clearArrival ..) _ s) (.of_cores rfl)

theorem State.sameStatus_settleGroup (s : State) (b : Barrier) : s.SameStatus (s.settleGroup b) := by
  unfold State.settleGroup
  dsimp only
  split_ifs
  · refine .trans (.foldl (fun t r => ?_) _ s) (State.sameStatus_endPhase ..)
    exact .of_cores rfl
  · exact .of_cores rfl

theorem State.sameStatus_settleBarrier (s : State) (b : Barrier) : s.SameStatus (s.settleBarrier b) := by
  unfold State.settleBarrier
  dsimp only
  split
  · split_ifs
    · exact State.sameStatus_endPhase ..
    · exact .of_cores rfl
  · refine State.SameStatus.trans ?_ (State.sameStatus_settleGroup ..)
    split_ifs <;> exact .of_cores rfl

theorem State.sameStatus_settleBarriers (s : State) (task : Nat) : s.SameStatus (s.settleBarriers task) :=
  State.SameStatus.foldl State.sameStatus_settleBarrier _ s

/-- A context that exits, or is killed, is IDLE (R305, R306, R353). -/
theorem State.exitCtx_idle (s : State) (ci k : Nat) : ((s.exitCtx ci k).ctx ci k).status = .idle := by
  unfold State.exitCtx
  dsimp only
  rw [(State.sameStatus_settleBarriers ..).status, State.ctx, State.core_modCore_same, Core.ctx_setCtx_same]

theorem State.kill_idle (s : State) (ci k kind code : Nat) : ((s.kill ci k kind code).ctx ci k).status = .idle :=
  State.exitCtx_idle ..

/-- Any cause at level 2, and any but TRANSLATION without a valid vector, kills (R290, R305, R306). -/
theorem State.takeTrap_kills {t : State} {ci k : Nat} {c : Cause} (v : Word) (m : BitVec 8) (rc : List PortEntry)
    (h : ((t.land ci).ctx ci k).sr.xlvl.toNat = 2 ∨ (c ≠ .translation ∧
      (((t.land ci).ctx ci k).sr.bank (((t.land ci).ctx ci k).sr.xlvl.toNat + 1)).vec.getLsbD 11 = false)) :
    ((t.takeTrap ci k c v m rc).ctx ci k).status = .idle := by
  unfold State.takeTrap
  dsimp only
  split
  · exact State.kill_idle ..
  · rename_i h3
    rw [if_pos]
    · exact State.kill_idle ..
    · rcases h with h | ⟨hc, hv⟩
      · exact absurd (congrArg (· + 1) h) h3
      · simp only [hc, hv, ne_eq, not_false_eq_true, decide_true, Bool.not_false, Bool.and_self]

/-- Settles O54: the level entered, what else stays, and the two ways in which no handler runs. -/
theorem trapEntry : Obligations.TrapEntry := by
  refine ⟨fun t ci k c v m rc n hc hn h2 hv => ?handler, fun t ci k c v m rc => ⟨fun h2 hc => ?parks, State.takeTrap_kills v m rc⟩⟩
  case handler =>
    have hy := State.takeTrap_ctx (c := c) (v := v) (m := m) (rc := rc) hn h2 (.inr hv)
    obtain ⟨hs, hvr, hx, ht, hd, hp, hm⟩ := hy.regs
    exact ⟨hy.lvl, hy.bank, hy.other, hy.status.trans (if_neg hc), hy.pc.trans (if_neg hc), hy.save, hy.caps, hs, hvr, hx, ht, hd,
      hp, hm, hy.fpcsr, hy.xsave, State.takeTrap_frame hn h2 (.inr hv)⟩
  case parks =>
    have hy := State.takeTrap_ctx (c := c) (v := v) (m := m) (rc := rc) rfl h2 (.inl hc)
    exact ⟨hy.status.trans (if_pos hc), hy.pc.trans (if_pos hc), hy.lvl⟩

/-- Settles O21: what each does, and the return from an entry. -/
theorem trapAndReturn : Obligations.TrapAndReturn := by
  refine ⟨fun h f s ht => ?instructions, fun s ci k n hn h1 h2 => ?returns, fun t ci k c v m hc h2 hv => ?back⟩
  case instructions =>
    have hno := Env.noTemplate_ok ht
    refine ⟨fun r => runSlot_ready r (bind_ok hno _), fun r hq hl => ?tret, fun r hq hl hf => ?level0,
      fun r => runSlot_ready r (bind_ok hno _), fun k r => runSlot_ready r rfl⟩
    case tret =>
      exact runSlot_ready r ((bind_ok (Env.blockIf_false (by rw [hq]; rfl)) _).trans ((bind_ok hno _).trans
        (bind_ok (stopIf_false (decide_eq_false hl)) _)))
    case level0 =>
      refine runSlot_traps r ((bind_ok (Env.blockIf_false (by rw [hq]; rfl)) _).trans ((bind_ok hno _).trans
        ((bind_error (stopIf_true (decide_eq_true hl)) _).trans ?_)))
      show Except.error (Stop.trap .illegalOpcode (BitVec.ofNat 64 (0x3A + h.fmt.toNat * 2 ^ 8 + Slot.sc.num * 2 ^ 12))) = _
      rw [hf]
      rfl
  case returns =>
    obtain ⟨hpc, h31, hlvl, hsnap, hrec, hcaps, hs, hvr, hx, ht, hd, hp, hm, hsr⟩ := State.trapReturn_ctx hn h1 h2
    exact ⟨hpc, h31, hlvl, hsnap, hrec, hcaps, hs, hvr, hx, ht, hd, hp, hm, hsr, rfl, fun j hj => State.core_modCtx_other _ _ hj⟩
  case back =>
    have hy := State.takeTrap_ctx (c := c) (v := v) (m := m) (rc := []) rfl h2 (.inr hv)
    obtain ⟨hpc, h31, hlvl, -⟩ := State.trapReturn_ctx hy.lvl.symm (Nat.succ_le_succ (Nat.zero_le _)) h2
    rw [hy.bank] at hpc h31
    exact ⟨hpc.trans (pcOf_word _), h31, BitVec.eq_of_toNat_eq hlvl⟩

end Sys2Proof.Machine
end

section
/-!
PROOFS. Dimension variables and system registers (R356 to R359).
-/

namespace Sys2Proof.Machine

theorem Env.ret_ok (e : Env) (lat : Nat) (cls : Cls) (d : BitVec 9) (v : Row) : e.ret lat cls d v = .ok (e.flyTo lat cls d v 0) := by
  unfold Env.ret
  rw [Env.fpCheck_zero]
  rfl

theorem Env.setDim_ok {e : Env} {v : Nat} (h : 1 ≤ v ∧ v ≤ 0x7FFFFF) (d : BitVec 9) :
    e.setDim d v = .ok (e.flyTo 1 .d d (BitVec.ofNat 1024 (0x800000 + v)) 0) := by
  unfold Env.setDim
  rw [stopIf_false (by simp; omega)]
  exact Env.ret_ok ..

theorem Env.setDim_traps {e : Env} {v : Nat} (h : ¬ (1 ≤ v ∧ v ≤ 0x7FFFFF)) (d : BitVec 9) :
    ∃ w, e.setDim d v = .error (.trap .shapeFault w) := by
  unfold Env.setDim
  rw [stopIf_true (by simp; omega)]
  exact ⟨_, rfl⟩

/-! ### System registers -/

section
variable {h : Hd} {f : IFmt} {s : State} {n : Nat} (hn : f.imm.toNat % 2 ^ 12 = n)
include hn

theorem mfsr_reads {v : Word} (r : Ready .mfsr .sc (mkI Op.mfsr.code h f) h s) (hv : (s.env .sc h).sysRead n = v) :
    exec (.mfsr h f) s = .next (((s.env .sc h).flyS 1 f.dst v 0).setVerdict .committed) :=
  hv ▸ hn ▸ runSlot_ready r (Env.retS_ok ..)

theorem mfsrc_reads {c : Cap} (r : Ready .mfsrc .sc (mkI Op.mfsrc.code h f) h s) (hc : (s.env .sc h).x.sr.readCap n = c) :
    exec (.mfsrc h f) s = .next (((s.env .sc h).flyA 1 f.dst c).setVerdict .committed) :=
  hc ▸ hn ▸ runSlot_ready r rfl

theorem mtsrc_moves {c : Cap} (r : Ready .mtsrc .sc (mkI Op.mtsrc.code h f) h s) (ha : (s.env .sc h).srcA f.sa = .ok c) :
    exec (.mtsrc h f) s = .next (((s.env .sc h).effect 1 (.csys n c)).setVerdict .committed) :=
  hn ▸ runSlot_ready r (bind_ok ha _)

theorem mtsr_moves {a : Word} (r : Ready .mtsr .sc (mkI Op.mtsr.code h f) h s) (ha : (s.env .sc h).srcS f.sa = .ok a) :
    exec (.mtsr h f) s = .next ((if sysWritable n = 0 || sysRefused n a then s
      else (s.env .sc h).effect 1 (.sys n (a &&& sysWritable n))).setVerdict .committed) :=
  hn ▸ runSlot_ready r (bind_ok ha _)

theorem mtsr_writes {a : Word} (hw : sysWritable n ≠ 0) (hd : n ≠ 0x00D) (r : Ready .mtsr .sc (mkI Op.mtsr.code h f) h s)
    (ha : (s.env .sc h).srcS f.sa = .ok a) :
    exec (.mtsr h f) s = .next (((s.env .sc h).effect 1 (.sys n (a &&& sysWritable n))).setVerdict .committed) := by
  rw [mtsr_moves hn r ha, if_neg (by simpa [sysRefused, hd] using hw)]

theorem mtsr_ignores {a : Word} (hw : sysWritable n = 0) (r : Ready .mtsr .sc (mkI Op.mtsr.code h f) h s)
    (ha : (s.env .sc h).srcS f.sa = .ok a) : exec (.mtsr h f) s = .next (s.setVerdict .committed) := by
  rw [mtsr_moves hn r ha, if_pos (by simp [hw])]

end

/-- Settles O22: a variable by the value's range, a register by its number. -/
theorem dimensionVariables : Obligations.DimensionVariables := by
  refine ⟨fun h s => ⟨fun f a r ha => ⟨fun hv => ?_, fun hv => ?_⟩, fun f r => ⟨fun hv => ?_, fun hv => ?_⟩,
    fun f r => runSlot_ready r (Env.retS_ok ..), fun f r => runSlot_ready r (Env.ret_ok ..)⟩, ?read, ?write, ?readOnly,
    fun h f s a r ha hn => ?depth, ?caps⟩
  · exact runSlot_ready r ((bind_ok ha _).trans (Env.setDim_ok hv _))
  · obtain ⟨v, htrap⟩ := Env.setDim_traps (e := s.env .sc h) hv f.dst
    exact ⟨v, runSlot_traps r ((bind_ok ha _).trans htrap)⟩
  · exact runSlot_ready r (Env.setDim_ok hv _)
  · obtain ⟨v, htrap⟩ := Env.setDim_traps (e := s.env .sc h) hv f.dst
    exact ⟨v, runSlot_traps r htrap⟩
  case read =>
    rw [show List.range 8 = [0, 1, 2, 3, 4, 5, 6, 7] from rfl]
    simp only [List.map_cons, List.map_nil, List.cons_append, List.nil_append, List.forall_mem_cons, List.not_mem_nil,
      false_imp_iff, implies_true, and_true]
    and_intros <;> exact fun h f s r hn => mfsr_reads hn r rfl
  case write =>
    simp only [List.forall_mem_cons, List.not_mem_nil, false_imp_iff, implies_true, and_true]
    and_intros <;> exact fun h f s a r ha hn => mtsr_writes hn (by decide) (by decide) r ha
  case readOnly =>
    simp only [List.forall_mem_cons, List.not_mem_nil, false_imp_iff, implies_true, and_true]
    and_intros <;> exact fun h f s a r ha hn => mtsr_ignores hn (by decide) r ha
  case depth =>
    have hlow : fld a 0 4 = a.toNat % 16 := by simp [fld, bits]
    rw [mtsr_moves hn r ha, ← hlow]
    congr 2
    refine (if_congr ?_ rfl rfl).trans (ite_not ..)
    simp [sysWritable, sysRefused, imp_iff_not_or]
  case caps =>
    simp only [List.forall_mem_cons, List.not_mem_nil, false_imp_iff, implies_true, and_true]
    and_intros <;> exact fun h f s hn => ⟨fun r => mfsrc_reads hn r rfl, fun c r ha => mtsrc_moves hn r ha⟩

end Sys2Proof.Machine
end

section
/-!
PROOFS. Lanes of a row and of a mask, and the integer vector instructions (R361, R362, R364, R365).
-/

namespace Sys2Proof.Machine

/-! ### Lanes -/

theorem laneW_cases (fmt : Nat) : laneW fmt = 32 ∨ laneW fmt = 16 ∨ laneW fmt = 8 := by
  unfold laneW
  split_ifs <;> simp

theorem laneW_pos (fmt : Nat) : 0 < laneW fmt := by
  rcases laneW_cases fmt with h | h | h <;> rw [h] <;> decide

theorem laneW_le (fmt : Nat) : laneW fmt ≤ 64 := by
  rcases laneW_cases fmt with h | h | h <;> rw [h] <;> decide

theorem lane_lt (v : Row) (w i : Nat) : lane v w i < 2 ^ w := bits_lt ..

theorem toNat_lane (v : Row) (w i : Nat) : (BitVec.ofNat w (lane v w i)).toNat = lane v w i :=
  (BitVec.toNat_ofNat ..).trans (Nat.mod_eq_of_lt (lane_lt ..))

/-! ### Flags that never trap (R224, R225) -/

/-- No precise floating-point flag. -/
def Fl.Silent (fl : Fl) : Prop := bits fl.toNat 0 5 = 0

theorem Fl.silent_zero : Fl.Silent 0 := rfl
theorem Fl.silent_satf : Fl.Silent Fl.satf := rfl

theorem Fl.silent_iff (fl : Fl) : fl.Silent ↔ fl.extractLsb' 0 5 = 0 := by
  rw [Fl.Silent, bits_extract]
  exact toNat_eq_zero

theorem Fl.Silent.or {a b : Fl} (ha : a.Silent) (hb : b.Silent) : (a ||| b).Silent := by
  rw [Fl.silent_iff] at *
  rw [BitVec.extractLsb'_or, ha, hb]
  rfl

theorem Fl.silent_when (c : Bool) : (Fl.when c Fl.satf).Silent := by
  cases c
  · exact Fl.silent_zero
  · exact Fl.silent_satf

theorem laneFlags_silent {m : Quad} {w : Nat} {op : Nat → Nat × Fl} (h : ∀ i, (op i).2.Silent) : (laneFlags m w op).Silent := by
  unfold laneFlags
  refine List.foldlRecOn _ _ Fl.silent_zero fun a ha r hr => ha.or ?_
  obtain ⟨i, -, rfl⟩ := List.mem_map.mp hr
  split_ifs
  · exact h i
  · exact Fl.silent_zero

theorem Env.fpCheck_silent {e : Env} {fl : Fl} (h : fl.Silent) : e.fpCheck fl = .ok () :=
  Env.fpCheck_none e fl (by rw [show bits fl.toNat 0 5 = 0 from h, Nat.zero_and])

/-! ### Vector results -/

section
variable (e : Env) (lat : Nat) (d : BitVec 9) (v : Row) (m : Quad) (fl : Fl) (w : Nat) (op : Nat → Nat × Fl)

/-- A vector result is in flight once its flags pass (R225). -/
theorem Env.retVm_checks : e.retVm lat d v m fl = (do e.fpCheck fl; pure (e.flyV lat d v m fl)) := by
  unfold Env.retVm Env.flyV
  split <;> rfl

theorem Env.retV_ok : e.retV lat d v = .ok (e.flyV lat d v allBytes 0) := by
  rw [Env.retV, Env.retVm_checks, Env.fpCheck_zero]
  rfl

theorem Env.retM_ok (v : Quad) : e.retM lat d v = .ok (e.flyM lat d v 0) := Env.retM_eq ..

theorem Env.lanes_checks : e.lanes d m lat w op = (do e.fpCheck (laneFlags m w op); pure (e.flyLanes lat d m w op)) :=
  Env.retVm_checks ..

variable {op}

theorem Env.lanes_ok {op' : Nat → Nat × Fl} (hop : ∀ i, op i = op' i) (hq : ∀ i, (op' i).2.Silent) :
    e.lanes d m lat w op = .ok (e.flyLanes lat d m w op') := by
  rw [Env.lanes_checks, funext hop, Env.fpCheck_silent (laneFlags_silent hq)]
  rfl

end

/-! ### Integer lanes -/

section
variable {n : Nat} (x y : BitVec n)

theorem laneVal_toNat (hn : 0 < n) (sg : Bool) : laneVal n sg x.toNat = if sg then x.toInt else x.toNat := by
  cases sg
  · rfl
  · exact toS_toNat hn x

theorem mulHigh_eq (hn : 0 < n) (sg : Bool) :
    BitVec.ofInt n (laneVal n sg x.toNat * laneVal n sg y.toNat / (2 ^ n : Nat)) =
      if sg then (x.signExtend (2 * n) * y.signExtend (2 * n)).extractLsb' n n
      else (x.setWidth (2 * n) * y.setWidth (2 * n)).extractLsb' n n := by
  cases sg
  · exact mulHigh_unsigned x y
  · exact laneVal_toNat x hn true ▸ laneVal_toNat y hn true ▸ mulHigh_signed x y

theorem laneMin_eq (hn : 0 < n) (sg : Bool) : BitVec.ofInt n (min (laneVal n sg x.toNat) (laneVal n sg y.toNat)) =
    if (if sg then x.sle y else x.ule y) then x else y := by
  cases sg
  · exact (congrArg (BitVec.ofInt n) (Nat.cast_min ..).symm).trans (opMinu_eq x y)
  · exact opMin_eq x y hn

theorem laneMax_eq (hn : 0 < n) (sg : Bool) : BitVec.ofInt n (max (laneVal n sg x.toNat) (laneVal n sg y.toNat)) =
    if (if sg then x.sle y else x.ule y) then y else x := by
  cases sg
  · exact (congrArg (BitVec.ofInt n) (Nat.cast_max ..).symm).trans (opMaxu_eq x y)
  · exact opMax_eq x y hn

theorem abs_eq (hn : 0 < n) : BitVec.ofInt n ((toS n x.toNat).natAbs : Nat) = if x.msb then -x else x := by
  rw [toS_toNat hn]
  cases hm : x.msb
  · have h0 : 0 ≤ x.toInt := by rw [BitVec.toInt_eq_msb_cond, hm]; simp
    rw [Int.natAbs_of_nonneg h0, BitVec.ofInt_toInt]
    rfl
  · have h0 : x.toInt < 0 := by
      rw [BitVec.toInt_eq_msb_cond, hm]
      have := x.isLt
      simp
      exact_mod_cast this
    rw [Int.ofNat_natAbs_of_nonpos h0.le, BitVec.ofInt_neg, BitVec.ofInt_toInt]
    rfl

theorem clz_eq : BitVec.ofInt n (opClz n x.toNat) = BitVec.ofNat n (n - if x = 0 then 0 else Nat.log2 x.toNat + 1) := by
  rw [opClz, BitVec.ofInt_natCast, leadZeros_eq]
  simp only [toNat_eq_zero]

theorem popc_eq : BitVec.ofInt n (opPopc n x.toNat) = BitVec.ofNat n ((List.range n).filter (fun i => x.getLsbD i)).length := by
  rw [opPopc, BitVec.ofInt_natCast, popCount_eq]
  rfl

end

theorem rangeOf_le (sg : Bool) (w : Nat) : (rangeOf sg w).1 ≤ (rangeOf sg w).2 := by
  have h1 : 0 < 2 ^ w := Nat.two_pow_pos w
  have h2 : 0 < 2 ^ (w - 1) := Nat.two_pow_pos (w - 1)
  cases sg
  · show (0 : Int) ≤ (2 ^ w : Nat) - 1
    omega
  · show -((2 ^ (w - 1) : Nat) : Int) ≤ (2 ^ (w - 1) : Nat) - 1
    omega

theorem sat_snd (lo hi i : Int) : (sat lo hi i).2 = decide (i < lo ∨ hi < i) := by
  unfold sat
  split_ifs with h1 h2
  · simp [h1]
  · simp [h2]
  · simp [h1, h2]

/-- A saturating lane operation clamps to the range of the element format (R364). -/
theorem laneSat_eq (op : Int → Int → Int) (w : Nat) (sg : Bool) (x y : Nat) {v : Int} (hv : op (laneVal w sg x) (laneVal w sg y) = v) :
    laneSat op w sg x y = (max (rangeOf sg w).1 (min (rangeOf sg w).2 v),
      if v < (rangeOf sg w).1 ∨ (rangeOf sg w).2 < v then Fl.satf else 0) := by
  subst hv
  refine Prod.ext (sat_fst _ _ _ (rangeOf_le ..)) ?_
  show Fl.when (sat _ _ _).2 Fl.satf = _
  simp only [sat_snd, Fl.when, decide_eq_true_eq]

theorem ofInt_toInt_narrow {w : Nat} (hw : w ≤ 64) (i : BitVec 29) : BitVec.ofInt w i.toInt = (i.signExtend 64).setWidth w := by
  have hdvd : ((2 ^ w : Nat) : Int) ∣ (2 ^ 64 : Nat) := Int.natCast_dvd_natCast.mpr (Nat.pow_dvd_pow 2 hw)
  have hpos : (0 : Int) < (2 ^ w : Nat) := by positivity
  have hnn := Int.emod_nonneg i.toInt (b := ((2 ^ 64 : Nat) : Int)) (by decide)
  apply BitVec.eq_of_toNat_eq
  rw [BitVec.toNat_setWidth, BitVec.signExtend, BitVec.toNat_ofInt, BitVec.toNat_ofInt, ← Int.emod_emod_of_dvd i.toInt hdvd]
  exact (Int.toNat_emod hnn hpos.le).trans (by rw [Int.toNat_natCast])

/-! ### Instructions on integer lanes -/

section
variable {u : VSlot} {h : Hd} {f : RFmt} {s : State} {o : Op} {a b : Row} (r : Ready o u.slot (mkR o.code h f) h s)
  (ha : (s.env u.slot h).srcV f.sa = .ok a)
include r ha

/-- Two sources: by what the operation makes of two numbers of the lane width. -/
theorem runR_vint2 (hb : (s.env u.slot h).srcV f.sb = .ok b) {lat : Nat} {op : Nat → Bool → Nat → Nat → Int × Fl}
    {g : (n : Nat) → Bool → BitVec n → BitVec n → BitVec n}
    (hop : ∀ (n : Nat) (sg : Bool) (x y : BitVec n), 0 < n →
      BitVec.ofInt n (op n sg x.toNat y.toNat).1 = g n sg x y ∧ (op n sg x.toNat y.toNat).2 = 0) :
    runR o u.slot h f s (fun e => e.vint2 f lat op) =
      .next (((s.env u.slot h).flyLanes lat f.dst ((s.env u.slot h).vmask f.imm) (laneW h.fmt.toNat) (fun i =>
        ((g (laneW h.fmt.toNat) (laneSigned h.fmt.toNat) (BitVec.ofNat _ (lane a (laneW h.fmt.toNat) i))
          (BitVec.ofNat _ (lane b (laneW h.fmt.toNat) i))).toNat, 0))).setVerdict .committed) := by
  refine runSlot_ready r ((bind_ok ha _).trans ((bind_ok hb _).trans
    (Env.lanes_ok _ _ _ _ _ (fun i => ?_) fun i => Fl.silent_zero)))
  obtain ⟨hval, hfl⟩ := hop (laneW h.fmt.toNat) (laneSigned h.fmt.toNat) (BitVec.ofNat _ (lane a (laneW h.fmt.toNat) i))
    (BitVec.ofNat _ (lane b (laneW h.fmt.toNat) i)) (laneW_pos _)
  rw [toNat_lane, toNat_lane] at hval hfl
  exact Prod.ext ((ofI_eq ..).trans (congrArg BitVec.toNat hval)) hfl

/-- One source. -/
theorem runR_vint1 {op : Nat → Nat → Int} {g : (n : Nat) → BitVec n → BitVec n}
    (hop : ∀ (n : Nat) (x : BitVec n), 0 < n → BitVec.ofInt n (op n x.toNat) = g n x) :
    runR o u.slot h f s (fun e => e.vint1 f op) =
      .next (((s.env u.slot h).flyLanes 2 f.dst ((s.env u.slot h).vmask f.imm) (laneW h.fmt.toNat) (fun i =>
        ((g (laneW h.fmt.toNat) (BitVec.ofNat _ (lane a (laneW h.fmt.toNat) i))).toNat, 0))).setVerdict .committed) := by
  refine runSlot_ready r ((bind_ok ha _).trans (Env.lanes_ok _ _ _ _ _ (fun i => ?_) fun i => Fl.silent_zero))
  have hval := hop (laneW h.fmt.toNat) (BitVec.ofNat _ (lane a (laneW h.fmt.toNat) i)) (laneW_pos _)
  rw [toNat_lane] at hval
  exact Prod.ext ((ofI_eq ..).trans (congrArg BitVec.toNat hval)) rfl

/-- A saturating operation, with SATF where it clamps (R364). -/
theorem runR_vsat (hb : (s.env u.slot h).srcV f.sb = .ok b) (op : Int → Int → Int) :
    let w := laneW h.fmt.toNat
    let sg := laneSigned h.fmt.toNat
    let v (i : Nat) : Int := op (laneVal w sg (lane a w i)) (laneVal w sg (lane b w i))
    runR o u.slot h f s (fun e => e.vint2 f 2 (laneSat op)) =
      .next (((s.env u.slot h).flyLanes 2 f.dst ((s.env u.slot h).vmask f.imm) w (fun i =>
        ((BitVec.ofInt w (max (rangeOf sg w).1 (min (rangeOf sg w).2 (v i)))).toNat,
          if v i < (rangeOf sg w).1 ∨ (rangeOf sg w).2 < v i then Fl.satf else 0))).setVerdict .committed) := by
  refine runSlot_ready r ((bind_ok ha _).trans ((bind_ok hb _).trans (Env.lanes_ok _ _ _ _ _ (fun i => ?_) fun i => ?_)))
  · have hsat := laneSat_eq op (laneW h.fmt.toNat) (laneSigned h.fmt.toNat) (lane a (laneW h.fmt.toNat) i) (lane b (laneW h.fmt.toNat) i) rfl
    exact (congrArg (fun p : Int × Fl => (ofI (laneW h.fmt.toNat) p.1, p.2)) hsat).trans (Prod.ext (ofI_eq ..) rfl)
  · dsimp only
    split_ifs
    · exact Fl.silent_satf
    · exact Fl.silent_zero

end

/-- Settles O23: each operation by what it makes of two numbers of the lane width. -/
theorem vectorInteger : Obligations.VectorInteger := by
  refine ⟨⟨?two, ?one, fun u h f s a r ha => ?addi, fun u h f s r => ?li⟩, ?saturating⟩
  case two =>
    simp only [List.forall_mem_cons, List.not_mem_nil, false_imp_iff, implies_true, and_true]
    exact ⟨
      fun u h f s a b r ha hb => runR_vint2 (op := laneOp (opAdd false)) (g := fun _ _ x y => x + y)
        r ha hb fun _ _ x y _ => ⟨opAdd_wraps x y, rfl⟩,
      fun u h f s a b r ha hb => runR_vint2 (op := laneOp (opSub false)) (g := fun _ _ x y => x - y)
        r ha hb fun _ _ x y _ => ⟨opSub_wraps x y, rfl⟩,
      fun u h f s a b r ha hb => runR_vint2 (op := laneOp opMul) (g := fun _ _ x y => x * y)
        r ha hb fun _ _ x y _ => ⟨opMul_wraps x y, rfl⟩,
      fun u h f s a b r ha hb => runR_vint2 (op := laneExact (fun w a b => a * b / (2 ^ w : Nat)))
        (g := fun n sg x y => if sg then (x.signExtend (2 * n) * y.signExtend (2 * n)).extractLsb' n n
          else (x.setWidth (2 * n) * y.setWidth (2 * n)).extractLsb' n n)
        r ha hb fun _ sg x y hn => ⟨mulHigh_eq x y hn sg, rfl⟩,
      fun u h f s a b r ha hb => runR_vint2 (op := laneExact (fun _ a b => min a b))
        (g := fun _ sg x y => if (if sg then x.sle y else x.ule y) then x else y)
        r ha hb fun _ sg x y hn => ⟨laneMin_eq x y hn sg, rfl⟩,
      fun u h f s a b r ha hb => runR_vint2 (op := laneExact (fun _ a b => max a b))
        (g := fun _ sg x y => if (if sg then x.sle y else x.ule y) then y else x)
        r ha hb fun _ sg x y hn => ⟨laneMax_eq x y hn sg, rfl⟩,
      fun u h f s a b r ha hb => runR_vint2 (op := laneOp opAnd) (g := fun _ _ x y => x &&& y)
        r ha hb fun _ _ x y _ => ⟨opAnd_eq x y, rfl⟩,
      fun u h f s a b r ha hb => runR_vint2 (op := laneOp opOr) (g := fun _ _ x y => x ||| y)
        r ha hb fun _ _ x y _ => ⟨opOr_eq x y, rfl⟩,
      fun u h f s a b r ha hb => runR_vint2 (op := laneOp opXor) (g := fun _ _ x y => x ^^^ y)
        r ha hb fun _ _ x y _ => ⟨opXor_eq x y, rfl⟩,
      fun u h f s a b r ha hb => runR_vint2 (op := laneOp opAndn) (g := fun _ _ x y => x &&& ~~~y)
        r ha hb fun _ _ x y _ => ⟨opAndn_eq x y, rfl⟩,
      fun u h f s a b r ha hb => runR_vint2 (op := laneOp opShl) (g := fun n _ x y => x <<< (y.toNat % n))
        r ha hb fun _ _ x y _ => ⟨opShl_eq x y.toNat, rfl⟩,
      fun u h f s a b r ha hb => runR_vint2 (op := laneOp opShr) (g := fun n _ x y => x >>> (y.toNat % n))
        r ha hb fun _ _ x y _ => ⟨opShr_eq x y.toNat, rfl⟩,
      fun u h f s a b r ha hb => runR_vint2 (op := laneOp opSra) (g := fun n _ x y => x.sshiftRight (y.toNat % n))
        r ha hb fun _ _ x y hn => ⟨opSra_eq x hn y.toNat, rfl⟩⟩
  case one =>
    simp only [List.forall_mem_cons, List.not_mem_nil, false_imp_iff, implies_true, and_true]
    exact ⟨
      fun u h f s a r ha => runR_vint1 (op := fun w a => ((toS w a).natAbs : Nat)) (g := fun _ x => if x.msb then -x else x)
        r ha fun _ x hn => abs_eq x hn,
      fun u h f s a r ha => runR_vint1 (op := fun w a => opShl w a (f.imm.toNat % 32)) (g := fun n x => x <<< (f.imm.toNat % 32 % n))
        r ha fun _ x _ => opShl_eq x _,
      fun u h f s a r ha => runR_vint1 (op := fun w a => opShr w a (f.imm.toNat % 32)) (g := fun n x => x >>> (f.imm.toNat % 32 % n))
        r ha fun _ x _ => opShr_eq x _,
      fun u h f s a r ha => runR_vint1 (op := fun w a => opSra w a (f.imm.toNat % 32)) (g := fun n x => x.sshiftRight (f.imm.toNat % 32 % n))
        r ha fun _ x hn => opSra_eq x hn _,
      fun u h f s a r ha => runR_vint1 (op := opClz) (g := fun n x => BitVec.ofNat n (n - if x = 0 then 0 else Nat.log2 x.toNat + 1))
        r ha fun _ x _ => clz_eq x,
      fun u h f s a r ha => runR_vint1 (op := opPopc) (g := fun n x => BitVec.ofNat n ((List.range n).filter (fun i => x.getLsbD i)).length)
        r ha fun _ x _ => popc_eq x⟩
  case addi =>
    refine runSlot_ready r ((bind_ok ha _).trans (Env.lanes_ok _ _ _ _ _ (fun i => Prod.ext ?_ rfl) fun i => Fl.silent_zero))
    refine (ofI_eq ..).trans (congrArg BitVec.toNat ?_)
    rw [BitVec.ofInt_add, BitVec.ofInt_natCast]
    exact congrArg _ (ofInt_toInt_narrow (laneW_le h.fmt.toNat) f.imm)
  case li =>
    exact runSlot_ready r (Env.lanes_ok _ _ _ _ _ (fun i => Prod.ext ((ofI_eq ..).trans (congrArg BitVec.toNat
      (ofInt_toInt_narrow (laneW_le h.fmt.toNat) f.imm))) rfl) fun i => Fl.silent_zero)
  case saturating =>
    simp only [List.forall_mem_cons, List.not_mem_nil, false_imp_iff, implies_true, and_true]
    exact ⟨fun u h f s a b r ha hb => runR_vsat r ha hb (fun x y => x + y), fun u h f s a b r ha hb => runR_vsat r ha hb (fun x y => x - y)⟩

end Sys2Proof.Machine
end

section
/-!
PROOFS. Floating-point vector instructions, conversions, quantisation, and deep-file access by row number (R364, R366, R367,
R369 to R372, R377, R379, R380).
-/

namespace Sys2Proof.Machine

/-! ### Lane-wise floating point -/

section
variable {u : VSlot} {h : Hd} {f : RFmt} {s : State} {o : Op} {a b c : Row} {v : Nat → Nat × Fl} {lat : Nat}
  (r : Ready o u.slot (mkR o.code h f) h s) (ha : (s.env u.slot h).srcV f.sa = .ok a)
include r ha

theorem runR_vfp1 {op : FFmt → Nat → Nat → Nat × Fl}
    (hv : v = fun i => op (vfmt h.fmt.toNat) ((s.env u.slot h).vmode f.imm) (lane a (vfmt h.fmt.toNat).w i)) :
    runR o u.slot h f s (fun e => e.vfp1 f lat op) =
      .next ((s.env u.slot h).fpEnds (laneFlags ((s.env u.slot h).vmask f.imm) (vfmt h.fmt.toNat).w v)
        ((s.env u.slot h).flyLanes lat f.dst ((s.env u.slot h).vmask f.imm) (vfmt h.fmt.toNat).w v)) := by
  subst hv
  exact runSlot_fp r ((bind_ok ha _).trans (Env.lanes_checks ..))

theorem runR_vfp2 (hb : (s.env u.slot h).srcV f.sb = .ok b) {op : FFmt → Nat → Nat → Nat → Nat × Fl}
    (hv : v = fun i => op (vfmt h.fmt.toNat) ((s.env u.slot h).vmode f.imm) (lane a (vfmt h.fmt.toNat).w i)
      (lane b (vfmt h.fmt.toNat).w i)) :
    runR o u.slot h f s (fun e => e.vfp2 f lat op) =
      .next ((s.env u.slot h).fpEnds (laneFlags ((s.env u.slot h).vmask f.imm) (vfmt h.fmt.toNat).w v)
        ((s.env u.slot h).flyLanes lat f.dst ((s.env u.slot h).vmask f.imm) (vfmt h.fmt.toNat).w v)) := by
  subst hv
  exact runSlot_fp r ((bind_ok ha _).trans ((bind_ok hb _).trans (Env.lanes_checks ..)))

theorem runR_vfp3 (hb : (s.env u.slot h).srcV f.sb = .ok b) (hc : (s.env u.slot h).srcV f.sc = .ok c) {negProd negC : Bool}
    (hv : v = fun i => fMulAdd (vfmt h.fmt.toNat) ((s.env u.slot h).vmode f.imm) negProd negC
      (unpack (vfmt h.fmt.toNat) (lane a (vfmt h.fmt.toNat).w i)) (unpack (vfmt h.fmt.toNat) (lane b (vfmt h.fmt.toNat).w i))
      (unpack (vfmt h.fmt.toNat) (lane c (vfmt h.fmt.toNat).w i))) :
    runR o u.slot h f s (fun e => e.vfp3 f negProd negC) =
      .next ((s.env u.slot h).fpEnds (laneFlags ((s.env u.slot h).vmask f.imm) (vfmt h.fmt.toNat).w v)
        ((s.env u.slot h).flyLanes 4 f.dst ((s.env u.slot h).vmask f.imm) (vfmt h.fmt.toNat).w v)) := by
  subst hv
  exact runSlot_fp r ((bind_ok ha _).trans ((bind_ok hb _).trans ((bind_ok hc _).trans (Env.lanes_checks ..))))

end

/-- Settles O24: every instruction by its lane operation. -/
theorem vectorFloatingPoint : Obligations.VectorFloatingPoint := by
  refine ⟨?two, ?one, ?three⟩
  case two =>
    simp only [List.forall_mem_cons, List.not_mem_nil, false_imp_iff, implies_true, and_true]
    exact ⟨fun u h f s a b v r ha hb hv => runR_vfp2 (op := onBits fAdd) r ha hb hv,
      fun u h f s a b v r ha hb hv => runR_vfp2 (op := onBits fSub) r ha hb hv,
      fun u h f s a b v r ha hb hv => runR_vfp2 (op := onBits fMul) r ha hb hv,
      fun u h f s a b v r ha hb hv => runR_vfp2 (op := onBits fDiv) r ha hb hv,
      fun u h f s a b v r ha hb hv => runR_vfp2 (op := fun g _ a b => fMinMax g false a b) r ha hb hv,
      fun u h f s a b v r ha hb hv => runR_vfp2 (op := fun g _ a b => fMinMax g true a b) r ha hb hv⟩
  case one =>
    simp only [List.forall_mem_cons, List.not_mem_nil, false_imp_iff, implies_true, and_true]
    exact ⟨fun u h f s a v r ha hv => runR_vfp1 (op := fun g _ a => (a % 2 ^ (g.w - 1), 0)) r ha hv,
      fun u h f s a v r ha hv => runR_vfp1 (op := fun g _ a => (a ^^^ 2 ^ (g.w - 1), 0)) r ha hv,
      fun u h f s a v r ha hv => runR_vfp1 (op := fun g m a => fSqrt g m (unpack g a)) r ha hv,
      fun u h f s a v r ha hv => runR_vfp1 (op := fun g m a => fDiv g m (.fin false 1 0) (unpack g a)) r ha hv,
      fun u h f s a v r ha hv => runR_vfp1 (op := fun g m a => trans .exp2 g m (unpack g a)) r ha hv,
      fun u h f s a v r ha hv => runR_vfp1 (op := fun g m a => trans .log2 g m (unpack g a)) r ha hv,
      fun u h f s a v r ha hv => runR_vfp1 (op := fun g m a => trans .sin g m (unpack g a)) r ha hv,
      fun u h f s a v r ha hv => runR_vfp1 (op := fun g m a => trans .cos g m (unpack g a)) r ha hv,
      fun u h f s a v r ha hv => runR_vfp1 (op := fun g m a => trans .tanh g m (unpack g a)) r ha hv,
      fun u h f s a v r ha hv => runR_vfp1 (op := fun g m a => trans .rsq g m (unpack g a)) r ha hv,
      fun u h f s a v r ha hv => runR_vfp1 (op := fun g m a => trans .sig g m (unpack g a)) r ha hv,
      fun u h f s a v r ha hv => runR_vfp1 (op := fun g m a => trans .erf g m (unpack g a)) r ha hv⟩
  case three =>
    simp only [List.forall_mem_cons, List.not_mem_nil, false_imp_iff, implies_true, and_true]
    exact ⟨fun u h f s a b c v r ha hb hc hv => runR_vfp3 r ha hb hc hv, fun u h f s a b c v r ha hb hc hv => runR_vfp3 r ha hb hc hv,
      fun u h f s a b c v r ha hb hc hv => runR_vfp3 r ha hb hc hv⟩

/-! ### Conversions and quantisation -/

theorem fld_setWidth (i : BitVec 11) (lo n : Nat) : fld (i.setWidth 64) lo n = bits i.toNat lo n := by
  rw [fld, BitVec.toNat_setWidth, Nat.mod_eq_of_lt (i.isLt.trans (by decide))]

/-- v(SB) of a conversion: read where it narrows (R369). -/
theorem Env.convert_checks {e : Env} {f : RFmt} {a b : Row} {ws wd : Nat} (ha : e.srcV f.sa = .ok a)
    (hb : if wd < ws then e.srcV f.sb = .ok b else b = 0) (op : Nat → Nat × Fl) :
    e.convert f ws wd op = (do
      e.fpCheck (convertRow ws wd (bits f.imm.toNat 4 2) a b op).2
      pure (e.flyV 3 f.dst (convertRow ws wd (bits f.imm.toNat 4 2) a b op).1 allBytes (convertRow ws wd (bits f.imm.toNat 4 2) a b op).2)) := by
  rw [Env.convert, bind_ok ha, fld_setWidth]
  dsimp only
  split_ifs at hb ⊢
  · exact (bind_ok hb _).trans (Env.retVm_checks ..)
  · exact hb ▸ Env.retVm_checks ..

section
variable {u : VSlot} {h : Hd} {f : RFmt} {s : State} {o : Op} {a b : Row} {p : Nat × Nat} {v : Row × Fl} {pairs : List (Nat × Nat)}
  (r : Ready o u.slot (mkR o.code h f) h s) (ha : (s.env u.slot h).srcV f.sa = .ok a)
include r ha

theorem runR_vconv (hp : p = pairs.getD h.fmt.toNat (1, 1))
    (hb : if 8 * elemSize p.2 < 8 * elemSize p.1 then (s.env u.slot h).srcV f.sb = .ok b else b = 0)
    (hv : v = convertRow (8 * elemSize p.1) (8 * elemSize p.2) (bits f.imm.toNat 4 2) a b
      (convertElem p.1 p.2 ((s.env u.slot h).mode (f.imm.toNat % 8)) (f.imm.getLsbD 3))) :
    runR o u.slot h f s (fun e => e.vconv f pairs) =
      .next ((s.env u.slot h).fpEnds v.2 ((s.env u.slot h).flyV 3 f.dst v.1 allBytes v.2)) := by
  subst hv hp
  exact runSlot_fp r (Env.convert_checks ha hb _)

theorem runR_vints (hp : p = pairs.getD h.fmt.toNat (12, 12))
    (hb : if 8 * elemSize p.2 < 8 * elemSize p.1 then (s.env u.slot h).srcV f.sb = .ok b else b = 0)
    (hv : v = convertRow (8 * elemSize p.1) (8 * elemSize p.2) (bits f.imm.toNat 4 2) a b (integerElem p.1 p.2)) :
    runR o u.slot h f s (fun e => e.vints f pairs) =
      .next ((s.env u.slot h).fpEnds v.2 ((s.env u.slot h).flyV 3 f.dst v.1 allBytes v.2)) := by
  subst hv hp
  exact runSlot_fp r (Env.convert_checks ha hb _)

/-- Blocks and scaled groups of two rows (R371, R372). -/
theorem runR_quant (hb : (s.env u.slot h).srcV f.sb = .ok b) {g : Env → Row → Row → Row × Fl} (hv : v = g (s.env u.slot h) a b) :
    runR o u.slot h f s (fun e => do
      let a ← e.srcV f.sa
      let b ← e.srcV f.sb
      e.retV 5 f.dst (g e a b).1 (g e a b).2) =
      .next ((s.env u.slot h).fpEnds v.2 ((s.env u.slot h).flyV 5 f.dst v.1 allBytes v.2)) := by
  subst hv
  exact runSlot_fp r ((bind_ok ha _).trans ((bind_ok hb _).trans (Env.retVm_checks ..)))

end

/-- Settles O26: every instruction by the row that it makes of its sources. -/
theorem vectorConversions : Obligations.VectorConversions := by
  refine ⟨?rounding, ?integers, ?blocks⟩
  case rounding =>
    simp only [List.forall_mem_cons, List.not_mem_nil, false_imp_iff, implies_true, and_true]
    exact ⟨fun u h f s a b p v r ha hp hb hv => runR_vconv r ha hp hb hv, fun u h f s a b p v r ha hp hb hv => runR_vconv r ha hp hb hv,
      fun u h f s a b p v r ha hp hb hv => runR_vconv r ha hp hb hv⟩
  case integers =>
    simp only [List.forall_mem_cons, List.not_mem_nil, false_imp_iff, implies_true, and_true]
    exact ⟨fun u h f s a b p v r ha hp hb hv => runR_vints r ha hp hb hv, fun u h f s a b p v r ha hp hb hv => runR_vints r ha hp hb hv⟩
  case blocks =>
    simp only [List.forall_mem_cons, List.not_mem_nil, false_imp_iff, implies_true, and_true]
    refine ⟨fun u h f s a b v r ha hb hv => ?_, fun u h f s a b v r ha hb hv => ?_, fun u h f s a b v r ha hb hv => ?_,
      fun u h f s a b v r ha hb hv => ?_⟩
    · exact runR_quant (g := fun e a b => vqbxRow e.h.fmt.toNat (toS 9 (f.imm.toNat % 512)) a b) r ha hb hv
    · rw [← fld_setWidth] at hv
      exact runR_quant (g := fun e a b => vdqbxRow e.h.fmt.toNat (f.imm.toNat % 128) (e.mode (fld (f.imm.setWidth 64) 7 3))
        (f.imm.getLsbD 10) a b) r ha hb hv
    · exact runR_quant (g := fun e a b => vqs8Row e.h.fmt.toNat (f.imm.toNat % 64) a b) r ha hb hv
    · rw [← fld_setWidth] at hv
      exact runR_quant (g := fun e a b => vdqs8Row e.h.fmt.toNat (f.imm.toNat % 4) (fld (f.imm.setWidth 64) 2 6) (f.imm.getLsbD 8) a b)
        r ha hb hv

/-! ### The deep file by row number -/

/-- Settles O28: each once its rows are free. -/
theorem deepFileInstructions : Obligations.DeepFileInstructions := by
  refine fun u h f s => ⟨fun a row ha hrow => ⟨fun r hfree => ?read, fun b hb r hfree => ?write⟩,
    fun a b ha hb => ⟨fun op hop r hfree => ?lookup, fun ps hps r hfree => ?bins⟩⟩
  case read =>
    subst hrow
    exact runSlot_ready r ((bind_ok ha _).trans ((bind_ok hfree _).trans (Env.retV_ok ..)))
  case write =>
    subst hrow
    exact runSlot_ready r ((bind_ok ha _).trans ((bind_ok hb _).trans (bind_ok hfree _)))
  case lookup =>
    subst hop
    exact runSlot_fp r ((bind_ok ha _).trans ((bind_ok hb _).trans ((bind_ok hfree _).trans (Env.lanes_checks ..))))
  case bins =>
    subst hps
    exact runSlot_fp r ((bind_ok ha _).trans ((bind_ok hb _).trans (bind_ok hfree _)))

end Sys2Proof.Machine
end

section
/-!
PROOFS. Masks, reductions, scans, dot products and permutes (R368, R373 to R376).
-/

namespace Sys2Proof.Machine

/-! ### Reading lanes and bits of what the model assembles from digits -/

theorem digits_field (w : Nat) (l : List Nat) (i : Nat) : digits w l / 2 ^ (w * i) % 2 ^ w = l.getD i 0 % 2 ^ w := by
  induction l generalizing i with
  | nil => simp [digits]
  | cons x t ih =>
    have hx : x % 2 ^ w < 2 ^ w := Nat.mod_lt _ (Nat.two_pow_pos w)
    cases i with
    | zero => simp [digits]
    | succ i =>
      rw [digits, Nat.mul_succ, Nat.add_comm (w * i) w, pow_add, ← Nat.div_div_eq_div_mul, Nat.add_mul_div_left _ _ (Nat.two_pow_pos w),
        Nat.div_eq_of_lt hx, Nat.zero_add, List.getD_cons_succ]
      exact ih i

/-- A field within the width survives the cut. -/
theorem bits_ofNat {n m lo w : Nat} (h : lo + w ≤ m) : bits (BitVec.ofNat m n).toNat lo w = bits n lo w := by
  refine Nat.eq_of_testBit_eq fun j => ?_
  simp only [bits, Nat.testBit_mod_two_pow, Nat.testBit_shiftRight, BitVec.toNat_ofNat]
  by_cases hj : j < w
  · simp [hj, show lo + j < m by omega]
  · simp [hj]

theorem lane_bound {w i : Nat} (hi : i < 1024 / w) : w * i + w ≤ 1024 :=
  (Nat.mul_succ w i).symm.le.trans ((Nat.mul_le_mul_left w hi).trans (Nat.mul_div_le 1024 w))

theorem lane_rowOf {w i : Nat} (l : List Nat) (hi : i < 1024 / w) : lane (rowOf w l) w i = l.getD i 0 % 2 ^ w := by
  rw [lane, rowOf, bits_ofNat (lane_bound hi), bits_eq_div, digits_field]

theorem lane_mapLanes {w i : Nat} (g : Nat → Nat) (hi : i < 1024 / w) : lane (mapLanes w g) w i = g i % 2 ^ w := by
  rw [mapLanes, lane_rowOf _ hi, List.getD_eq_getElem _ _ (by simpa using hi), List.getElem_map, List.getElem_range]

theorem lane_mod (v : Row) (w i : Nat) : lane v w i % 2 ^ w = lane v w i := Nat.mod_eq_of_lt (lane_lt ..)

theorem lane_testBit (v : Row) {w j : Nat} (i : Nat) (hj : j < w) : (lane v w i).testBit j = v.getLsbD (w * i + j) := by
  rw [lane, bits, Nat.testBit_mod_two_pow, decide_eq_true hj, Bool.true_and, Nat.testBit_shiftRight]
  rfl

/-- A bit of a mask made of digits. -/
theorem digits_mask {k n j : Nat} (g : Nat → Nat) (hj : j < 128) (hk : 0 < k) (hn : j / k < n) :
    (BitVec.ofNat 128 (digits k ((List.range n).map g))).getLsbD j = (g (j / k)).testBit (j % k) := by
  have hbit := digits_testBit (l := (List.range n).map g) (by simpa using hn) (Nat.mod_lt j hk)
  rw [Nat.div_add_mod] at hbit
  rw [BitVec.getLsbD_ofNat, decide_eq_true hj, Bool.true_and, hbit, List.getElem_map, List.getElem_range]

/-- A compare's mask: every subword bit of an active lane takes the outcome (R368). -/
theorem maskOf_getLsbD {w j : Nat} (hw : w = 32 ∨ w = 16 ∨ w = 8) (m : Quad) (p : Nat → Bool) (hj : j < 128) :
    (maskOf m w p).getLsbD j = (laneBit m w (j / (w / 8)) && p (j / (w / 8))) := by
  have hk : 0 < w / 8 := by rcases hw with rfl | rfl | rfl <;> decide
  have hn : j / (w / 8) < 1024 / w := by rcases hw with rfl | rfl | rfl <;> omega
  rw [maskOf, digits_mask _ hj hk hn]
  split_ifs with hp
  · rw [hp, Nat.testBit_two_pow_sub_one, decide_eq_true (Nat.mod_lt j hk)]
  · rw [Nat.zero_testBit, Bool.eq_false_iff.mpr hp]

theorem vfmt_cases (fmt : Nat) : (vfmt fmt).w = 32 ∨ (vfmt fmt).w = 16 ∨ (vfmt fmt).w = 8 := by
  unfold vfmt
  split_ifs
  · exact .inl rfl
  · exact .inr (.inl rfl)
  · exact .inr (.inl rfl)

/-! ### Reductions and dot products -/

section
variable {u : VSlot} {h : Hd} {f : RFmt} {s : State} {a : Row}

theorem Env.reduceFp_checks {e : Env} {isMax : Bool} {v : Nat × Fl} (ha : e.srcV f.sa = .ok a)
    (hv : v = (e.activeFps f a).foldl (fun (acc : Nat × Fl) n =>
      ((fMinMax (vfmt e.h.fmt.toNat) isMax acc.1 n).1, acc.2 ||| (fMinMax (vfmt e.h.fmt.toNat) isMax acc.1 n).2))
      ((vfmt e.h.fmt.toNat).infBits isMax, 0)) :
    e.reduceFp f isMax = (do
      e.fpCheck v.2
      pure (e.flyS 6 f.dst (BitVec.ofNat 64 (roundTo fp32 0 false (unpack (vfmt e.h.fmt.toNat) v.1)).1) v.2)) := by
  subst hv
  exact bind_ok ha _

end

/-- Settles O25: a bit of each mask by its lane; a reduction by the active lanes. -/
theorem maskInstructions : Obligations.MaskInstructions := by
  refine ⟨⟨fun u h f s a b ha hb => ⟨fun r => ?vcmp, fun r => ?vsel, fun cmp fl hcmp hfl r => ?vfcmp⟩,
    fun u h f s => ⟨fun r => ?vmlog, fun r => ?vmtv, fun a ha r => ?vvtm, fun r => ?viota⟩⟩,
    fun u h f s a ha => ⟨fun r => ?vradd, fun r => ?vrmax, fun r => ?vrmin, fun v hv r => ?vrfadd, ?fpEnds, fun r => ?vscan,
      fun op hop r => ?vfscan, fun b c hb hc => ⟨fun k sa sb hdot r => ?vdot, fun d op hd hop r => ?vfdot⟩⟩⟩
  case vcmp =>
    exact ⟨_, runSlot_ready r ((bind_ok ha _).trans ((bind_ok hb _).trans (Env.retM_ok ..))),
      fun j hj => maskOf_getLsbD (laneW_cases h.fmt.toNat) _ _ hj⟩
  case vsel => exact runSlot_ready r ((bind_ok ha _).trans ((bind_ok hb _).trans (Env.retV_ok ..)))
  case vfcmp =>
    subst hfl hcmp
    exact ⟨_, runSlot_fp r ((bind_ok ha _).trans (bind_ok hb _)), fun j hj => maskOf_getLsbD (vfmt_cases h.fmt.toNat) _ _ hj⟩
  case vmlog =>
    refine ⟨_, runSlot_ready r (Env.retM_ok ..), fun j hj => ?_⟩
    rw [digits_mask _ hj Nat.one_pos (by omega), Nat.div_one, Nat.mod_one, apply_ite (Nat.testBit · 0), Env.srcM, Env.srcM]
    cases ((s.env u.slot h).x.mReg f.sa.toNat).getLsbD j <;> cases ((s.env u.slot h).x.mReg f.sb.toNat).getLsbD j <;> simp
  case vmtv => exact runSlot_ready r (Env.retV_ok ..)
  case vvtm =>
    refine ⟨_, runSlot_ready r ((bind_ok ha _).trans (Env.retM_ok ..)), fun j hj => ?_⟩
    rw [digits_mask _ hj Nat.one_pos (by omega), Nat.div_one, Nat.mod_one, ← lane_testBit a j (by decide : 7 < 8),
      show 128 = 2 ^ 7 from rfl, Nat.testBit_div_two_pow]
  case viota =>
    refine ⟨_, runSlot_ready r (Env.retV_ok ..), fun i hi => (lane_mapLanes _ hi).trans (Nat.mod_eq_of_lt ?_)⟩
    refine ((List.length_filter_le ..).trans (List.length_range ..).le).trans_lt ?_
    rcases laneW_cases h.fmt.toNat with hw | hw | hw <;> rw [hw] at hi ⊢ <;> omega
  case vradd =>
    rw [List.sum_eq_foldl]
    exact runSlot_ready r ((bind_ok ha _).trans (Env.retS_ok ..))
  case vrmax => exact runSlot_ready r ((bind_ok ha _).trans (Env.retS_ok ..))
  case vrmin => exact runSlot_ready r ((bind_ok ha _).trans (Env.retS_ok ..))
  case vrfadd =>
    subst hv
    exact runSlot_fp r (bind_ok ha _)
  case fpEnds =>
    simp only [List.forall_mem_cons, List.not_mem_nil, false_imp_iff, implies_true, and_true]
    exact ⟨fun v hv r => runSlot_fp r (Env.reduceFp_checks ha hv), fun v hv r => runSlot_fp r (Env.reduceFp_checks ha hv)⟩
  case vscan =>
    simp only [List.sum_eq_foldl]
    exact runSlot_ready r ((bind_ok ha _).trans (Env.lanes_ok _ _ _ _ _ (fun i => rfl) fun i => Fl.silent_zero))
  case vfscan =>
    subst hop
    exact runSlot_fp r ((bind_ok ha _).trans (Env.lanes_checks ..))
  case vdot =>
    refine runSlot_ready r ((bind_ok ha _).trans ((bind_ok hb _).trans ((bind_ok hc _).trans ?_)))
    rw [show dotForm (s.env u.slot h).h.fmt.toNat = (k, sa, sb) from hdot]
    refine Env.lanes_ok _ _ _ _ _ (fun i => rfl) fun i => ?_
    dsimp only
    split_ifs
    · exact Fl.silent_when _
    · exact Fl.silent_zero
  case vfdot =>
    subst hd hop
    exact runSlot_fp r ((bind_ok ha _).trans ((bind_ok hb _).trans ((bind_ok hc _).trans (Env.lanes_checks ..))))

/-! ### Permutes -/

/-- A slot whose work is a permute leaves the row whose lanes that names. -/
theorem runSlot_permutes {o : Op} {k : Slot} {wd : Word} {h : Hd} {s : State} {body : Body} {d : BitVec 9} {op : Nat → Nat → Nat → Nat}
    (r : Ready o k wd h s) (hb : body (s.env k h) = (s.env k h).permute d op) {g : Nat → Nat}
    (hg : ∀ j, op (laneW h.fmt.toNat) (1024 / laneW h.fmt.toNat) j % 2 ^ laneW h.fmt.toNat = g j) :
    ∃ v, runSlot o k wd h s body = .next (((s.env k h).flyV 3 d v allBytes 0).setVerdict .committed) ∧
      ∀ j, j < 1024 / laneW h.fmt.toNat → lane v (laneW h.fmt.toNat) j = g j :=
  ⟨_, runSlot_ready r (hb.trans (Env.retV_ok ..)), fun j hj => (lane_mapLanes _ hj).trans (hg j)⟩

theorem lane2_mod (a b : Row) (w i : Nat) : lane2 a b w i % 2 ^ w = if i < 1024 / w then lane a w i else lane b w (i - 1024 / w) := by
  unfold lane2
  split_ifs <;> exact lane_mod ..

/-! ### Sorting stages (R374) -/

section
variable {fmt : Nat} {a : Row} {j k : Nat} {desc : Bool} {i : Nat} (hi : i.testBit j = false)
include hi

theorem cxsFrom_lower : cxsFrom fmt a j k desc i = if cxsSwaps fmt a j k desc i then i + 2 ^ j else i := by
  simp [cxsFrom, hi]

theorem cxsFrom_upper : cxsFrom fmt a j k desc (i + 2 ^ j) = if cxsSwaps fmt a j k desc i then i else i + 2 ^ j := by
  have hbit : (i + 2 ^ j).testBit j = true := by
    rw [Nat.add_comm, Nat.testBit_two_pow_add_eq, hi]
    rfl
  simp [cxsFrom, hbit]

end

/-- Whether two partners exchange: where the stage ascends the lower key is the greater, elsewhere the smaller. -/
theorem cxsSwaps_iff (fmt : Nat) (a : Row) (j k : Nat) (desc : Bool) (i : Nat) : cxsSwaps fmt a j k desc i = true ↔
    if (k = 7 ∨ i.testBit k = false) ↔ desc = false
    then cxsKey fmt (lane a (cxsWidth fmt) (i + 2 ^ j)) < cxsKey fmt (lane a (cxsWidth fmt) i)
    else cxsKey fmt (lane a (cxsWidth fmt) i) < cxsKey fmt (lane a (cxsWidth fmt) (i + 2 ^ j)) := by
  have hup : ((k = 7 || !i.testBit k) != desc) = true ↔ ((k = 7 ∨ i.testBit k = false) ↔ desc = false) := by
    cases desc <;> cases i.testBit k <;> simp
  unfold cxsSwaps
  by_cases h : (k = 7 ∨ i.testBit k = false) ↔ desc = false
  · rw [if_pos h]
    simp [hup.mpr h]
  · rw [if_neg h]
    simp [Bool.eq_false_iff.mpr fun hu => h (hup.mp hu)]

/-- Settles O27: the lanes of each permute; of a sorting stage, whether the partners exchange. -/
theorem vectorPermutes : Obligations.VectorPermutes := by
  refine ⟨fun u h f s => ⟨fun a ha => ⟨fun r => ?vpermi, fun r => ?vbcst, fun r => ?vshuf, fun r => ?vcompr, fun r => ?vexpd,
    fun r => ?vmov, fun b hb r => ?vins, fun b hb => ⟨fun r => ?vzip, fun r => ?vunzip, fun c hc r => ?vperm, fun c hc r => ?vrotm⟩⟩,
    fun a ha r => ?vsplat⟩, fun u h f s a b r ha hb => ?stage, fun fmt a j k desc i hi => ?order⟩
  case vpermi => exact runSlot_permutes r (bind_ok ha _) fun j => lane_mod ..
  case vbcst => exact runSlot_permutes r (bind_ok ha _) fun j => lane_mod ..
  case vshuf => exact runSlot_permutes r (bind_ok ha _) fun j => lane_mod ..
  case vcompr =>
    refine ⟨_, runSlot_ready r ((bind_ok ha _).trans (Env.retV_ok ..)), fun j hj => (lane_rowOf _ hj).trans ?_⟩
    rw [List.getD_eq_getElem?_getD]
    refine Nat.mod_eq_of_lt ?_
    rw [List.getElem?_map]
    cases (activeLanes ((s.env u.slot h).srcM f.sb) (laneW (s.env u.slot h).h.fmt.toNat))[j]? with
    | none => exact Nat.two_pow_pos _
    | some i => exact lane_lt ..
  case vexpd =>
    refine runSlot_permutes r (bind_ok ha _) fun j => ?_
    rw [apply_ite (· % 2 ^ laneW h.fmt.toNat), lane_mod, Nat.zero_mod]
    rfl
  case vmov => exact runSlot_ready r ((bind_ok ha _).trans (Env.lanes_ok _ _ _ _ _ (fun i => rfl) fun i => Fl.silent_zero))
  case vins =>
    refine runSlot_permutes r ((bind_ok ha _).trans (bind_ok hb _)) fun j => ?_
    rw [apply_ite (· % 2 ^ laneW h.fmt.toNat), lane_mod, Nat.mod_mod]
    rfl
  case vzip => exact runSlot_permutes r ((bind_ok ha _).trans (bind_ok hb _)) fun j => lane_mod ..
  case vunzip =>
    refine runSlot_permutes r ((bind_ok ha _).trans (bind_ok hb _)) fun j => ?_
    rw [apply_ite (· % 2 ^ laneW h.fmt.toNat), lane_mod, lane_mod]
  case vperm => exact runSlot_permutes r ((bind_ok ha _).trans ((bind_ok hb _).trans (bind_ok hc _))) fun j => lane2_mod ..
  case vrotm =>
    exact ⟨_, runSlot_ready r ((bind_ok ha _).trans ((bind_ok hb _).trans ((bind_ok hc _).trans (Env.retV_ok ..)))),
      fun j hj => (lane_mapLanes _ hj).trans (lane2_mod ..)⟩
  case vsplat => exact runSlot_permutes r (bind_ok ha _) fun j => Nat.mod_mod ..
  case stage =>
    exact ⟨_, _, runSlot_ready r ((bind_ok ha _).trans (bind_ok hb _)), fun i hi =>
      ⟨(lane_mapLanes _ hi).trans (lane_mod ..), (lane_mapLanes _ hi).trans (lane_mod ..)⟩⟩
  case order =>
    have hswap := cxsSwaps_iff fmt a j k desc i
    dsimp only
    rw [cxsFrom_lower hi, cxsFrom_upper hi]
    by_cases hs : cxsSwaps fmt a j k desc i = true
    · rw [if_pos hs, if_pos hs]
      have hlt := hswap.mp hs
      split_ifs at hlt ⊢
      · exact ⟨.inr ⟨rfl, rfl, hlt.ne'⟩, hlt.le⟩
      · exact ⟨.inr ⟨rfl, rfl, hlt.ne⟩, hlt.le⟩
    · rw [if_neg hs, if_neg hs]
      have hle := mt hswap.mpr hs
      split_ifs at hle ⊢
      · exact ⟨.inl ⟨rfl, rfl⟩, not_lt.mp hle⟩
      · exact ⟨.inl ⟨rfl, rfl⟩, not_lt.mp hle⟩

end Sys2Proof.Machine
end

section
/-!
PROOFS. Flags: waits, posts, expectations, reads and clears (R271 to R273, R442 to R445).
-/

namespace Sys2Proof.Machine

/-! ### A landing result leaves every flag alone -/

theorem Core.putBack_flags (l : List AcmCopy) (c : Core) : (c.putBack l).flags = c.flags := by
  unfold Core.putBack
  refine List.foldlRecOn (motive := fun d : Core => d.flags = c.flags) _ _ rfl fun d hd w _ => ?_
  dsimp only
  split
  · exact hd
  · exact hd

theorem Core.addBins_flags (x : Ctx) (row : Nat) (l : List (Nat × BitVec 32)) (c : Core) : (c.addBins x row l).1.flags = c.flags := by
  induction l generalizing c with
  | nil => rfl
  | cons p t ih => exact (ih _).trans rfl

theorem Core.landPay_flags (c : Core) (k : Nat) (p : Payload) : (c.landPay k p).1.flags = c.flags := by
  cases p with
  | acm ws => exact Core.putBack_flags ..
  | bins row ps => exact Core.addBins_flags ..
  | _ => rfl

/-- A slot sees the flags as its core has them. -/
theorem State.seen_flags (s : State) (ci k : Nat) (slot : Slot) : (s.seen ci k slot).flags = (s.core ci).flags := by
  unfold State.seen
  refine List.foldlRecOn (motive := fun d : Core => d.flags = (s.core ci).flags) _ _ rfl fun d hd p _ => ?_
  split_ifs
  · exact (d.landPay_flags k _).trans hd
  · exact hd

theorem State.env_flag (s : State) (slot : Slot) (h : Hd) (n : Nat) : (s.env slot h).core.flag n = (s.core s.iss.core).flag n :=
  congrArg (SMap.get Flag.init · n) (s.seen_flags ..)

theorem Core.flag_setFlag (c : Core) (n m : Nat) (g : Flag) : (c.setFlag n g).flag m = if m = n then g else c.flag m :=
  SMap.get_set ..

theorem Core.flag_consume (c : Core) (n k m : Nat) : (c.consume n k).flag m =
    if m = n then { c.flag n with cnt := (c.flag n).cnt - BitVec.ofNat 16 k } else c.flag m :=
  Core.flag_setFlag ..

/-- Each flag of a list without repetitions loses one post. -/
theorem Core.flag_consumeAll {l : List Nat} (hl : l.Nodup) (c : Core) (m : Nat) :
    (l.foldl (fun c i => c.consume i 1) c).flag m = if m ∈ l then { c.flag m with cnt := (c.flag m).cnt - 1 } else c.flag m := by
  induction l generalizing c with
  | nil => rfl
  | cons i t ih =>
    obtain ⟨hi, ht⟩ := List.nodup_cons.mp hl
    rw [List.foldl_cons, ih ht, Core.flag_consume]
    by_cases hm : m = i
    · subst hm
      simp [hi]
    · simp [hm]

/-! ### Waits -/

section
variable {e : Env} {n : Nat} {p : Flag → Bool}

theorem Env.syOrder_ok (h : e.x.port = []) : e.syOrder = .ok () := Env.blockIf_false (by simp [h])

theorem Env.syOrder_blocks (ha : e.s.iss.ask = .issue) (h : e.x.port ≠ []) : e.syOrder = .error (.block 0) :=
  Env.blockIf_true ha (decide_eq_true h)

theorem Env.waitFlag_behind (ha : e.s.iss.ask = .issue) (h : e.x.port ≠ []) : e.waitFlag n p = .error (.block 0) :=
  bind_error (Env.syOrder_blocks ha h) _

theorem Env.waitFlag_overflows (h : e.x.port = []) (ho : (e.core.flag n).ovf = true) : e.waitFlag n p = .error (.overflow n) :=
  (bind_ok (Env.syOrder_ok h) _).trans (bind_error (stopIf_true ho) _)

theorem Env.waitFlag_holds (h : e.x.port = []) (ho : (e.core.flag n).ovf = false) (hp : p (e.core.flag n) = true) :
    e.waitFlag n p = .ok () :=
  (bind_ok (Env.syOrder_ok h) _).trans ((bind_ok (stopIf_false ho) _).trans (Env.blockIf_false (by simp [hp])))

theorem Env.waitFlag_waits (ha : e.s.iss.ask = .issue) (h : e.x.port = []) (ho : (e.core.flag n).ovf = false)
    (hp : p (e.core.flag n) = false) : e.waitFlag n p = .error (.block 0) :=
  (bind_ok (Env.syOrder_ok h) _).trans ((bind_ok (stopIf_false ho) _).trans (Env.blockIf_true ha (by simp [hp])))

end

/-- The flags that a WAITM mask names (R443). -/
def maskFlags (a : Word) : List Nat := (List.range 32).filter (fun i => a.getLsbD i)

theorem mem_maskFlags {a : Word} {i : Nat} : i ∈ maskFlags a ↔ i < 32 ∧ a.getLsbD i = true := by
  simp [maskFlags]

theorem maskFlags_nodup (a : Word) : (maskFlags a).Nodup := List.Nodup.filter _ List.nodup_range

theorem maskFlags_eq_nil {a : Word} (h : ∀ i, i < 32 → a.getLsbD i = false) : maskFlags a = [] :=
  List.eq_nil_iff_forall_not_mem.mpr fun i hi => by
    obtain ⟨hlt, hbit⟩ := mem_maskFlags.mp hi
    exact Bool.false_ne_true ((h i hlt).symm.trans hbit)

/-- The lowest flag of a mask whose post was refused. -/
theorem find_overflow {e : Env} {a : Word} {i : Nat} (hi : i < 32) (hbit : a.getLsbD i = true) (ho : (e.core.flag i).ovf = true)
    (hmin : ∀ j, j < i → a.getLsbD j = true → (e.core.flag j).ovf = false) :
    (maskFlags a).find? (fun i => (e.core.flag i).ovf) = some i := by
  rw [maskFlags, List.find?_filter, List.find?_range_eq_some]
  refine ⟨by simp [hbit, ho], List.mem_range.mpr hi, fun j hj => ?_⟩
  cases hb : a.getLsbD j
  · rfl
  · simp [hmin j hj hb]

theorem find_overflow_none {e : Env} {a : Word} (h : ∀ i, i < 32 → a.getLsbD i = true → (e.core.flag i).ovf = false) :
    (maskFlags a).find? (fun i => (e.core.flag i).ovf) = none :=
  List.find?_eq_none.mpr fun i hi => by
    obtain ⟨hlt, hbit⟩ := mem_maskFlags.mp hi
    simp [h i hlt hbit]

/-- The work of WAITM after its mask is read (R443). -/
def Env.waitMask (e : Env) (f : EFmt) (fs : List Nat) : Except Stop State := do
  if fs ≠ [] then e.syOrder else .ok ()
  match fs.find? (fun i => (e.core.flag i).ovf) with
  | some i => .error (.overflow i)
  | none =>
    e.blockIf (fs.any (fun i => (e.core.flag i).cnt = 0)) 0
    let s := e.counted fs
    pure (if f.mod.getLsbD 0 then s.modCore e.ci (fun c => fs.foldl (fun c i => c.consume i 1) c) else s)

section
variable {e : Env} {f : EFmt} {fs : List Nat}

theorem Env.waitMask_behind (ha : e.s.iss.ask = .issue) (h : e.x.port ≠ []) (hfs : fs ≠ []) : e.waitMask f fs = .error (.block 0) := by
  unfold Env.waitMask
  rw [if_pos hfs, Env.syOrder_blocks ha h]
  rfl

theorem Env.waitMask_overflows {i : Nat} (h : e.x.port = []) (hi : fs.find? (fun i => (e.core.flag i).ovf) = some i) :
    e.waitMask f fs = .error (.overflow i) := by
  unfold Env.waitMask
  rw [Env.syOrder_ok h, ite_self, hi]
  rfl

theorem Env.waitMask_holds (h : fs ≠ [] → e.x.port = []) (ho : fs.find? (fun i => (e.core.flag i).ovf) = none)
    (hc : ∀ i ∈ fs, (e.core.flag i).cnt ≠ 0) : e.waitMask f fs = .ok (if f.mod.getLsbD 0
      then (e.counted fs).modCore e.ci (fun c => fs.foldl (fun c i => c.consume i 1) c) else e.counted fs) := by
  have hnone : fs.any (fun i => (e.core.flag i).cnt = 0) = false := List.any_eq_false.mpr fun i hi => by simpa using hc i hi
  have hlast := bind_ok (Env.blockIf_false (e := e) (r := 0) hnone)
    fun _ => (pure (if f.mod.getLsbD 0 then (e.counted fs).modCore e.ci (fun c => fs.foldl (fun c i => c.consume i 1) c)
      else e.counted fs) : Except Stop State)
  unfold Env.waitMask
  rw [ho]
  by_cases hfs : fs = []
  · exact (if_neg (not_not.mpr hfs)).trans hlast
  · exact (if_pos hfs).trans ((bind_ok (Env.syOrder_ok (h hfs)) _).trans hlast)

theorem Env.waitMask_waits (ha : e.s.iss.ask = .issue) (h : e.x.port = []) (ho : fs.find? (fun i => (e.core.flag i).ovf) = none)
    (hc : ∃ i ∈ fs, (e.core.flag i).cnt = 0) : e.waitMask f fs = .error (.block 0) := by
  unfold Env.waitMask
  rw [Env.syOrder_ok h, ite_self, ho]
  exact bind_error (Env.blockIf_true ha (List.any_eq_true.mpr (by simpa using hc))) _

end

/-- What a wait consumes, it consumes of the flags that it saw. -/
theorem State.flag_counted (s : State) (h : Hd) (fs : List Nat) (n : Nat) :
    (((s.env .sy h).counted fs).core s.iss.core).flag n = (s.env .sy h).core.flag n :=
  (congrArg (fun c : Core => c.flag n) (State.core_setCore_same ..)).trans (s.env_flag .sy h n).symm

theorem State.flag_waited (s : State) (h : Hd) (fs : List Nat) (g : Core → Core) (n : Nat) :
    ((((s.env .sy h).counted fs).modCore s.iss.core g).core s.iss.core).flag n =
      (g (((s.env .sy h).counted fs).core s.iss.core)).flag n :=
  congrArg (fun c : Core => c.flag n) (State.core_modCore_same ..)

theorem State.flags_waited_none (s : State) (h : Hd) (g : Core → Core) (hg : ∀ c, (g c).flags = c.flags) :
    ((((s.env .sy h).counted []).modCore s.iss.core g).core s.iss.core).flags = (s.core s.iss.core).flags :=
  (congrArg Core.flags (State.core_modCore_same ..)).trans ((hg _).trans ((congrArg Core.flags (State.core_setCore_same ..)).trans rfl))

/-- Settles O40: each wait by the port, the overflow bit and its condition. -/
theorem flagWaits : Obligations.FlagWaits := by
  refine fun h f s => ⟨?behind, fun a r ha hno => ?empty, fun hport => ⟨fun r ho => ⟨fun hc => ?waitHolds, fun hc => ?waitBlocks⟩,
    fun r ho => ?waitOverflows, ⟨fun r ho => ?waitsOverflows, fun a r ha ho => ?phaseOverflows,
      fun a i r ha hi hbit ho hmin => ?maskOverflows⟩,
    fun a r ha ho => ⟨fun hp => ?phaseHolds, fun hp => ?phaseBlocks⟩,
    fun r ho => ⟨fun hc => ?waitsHolds, fun hc => ?waitsBlocks⟩,
    fun a r ha ho => ⟨fun hc => ⟨fun hm => ?maskHolds, fun hm => ?maskConsumes⟩, fun hc => ?maskBlocks⟩⟩⟩
  case behind =>
    simp only [List.forall_mem_cons, List.not_mem_nil, false_imp_iff, implies_true, and_true]
    refine ⟨fun a hport _ r ha => ?_, fun a hport _ r ha => ?_, fun a hport _ r ha => ?_, fun a hport hmask r ha => ?_⟩
    · exact runSlot_blocks r (bind_error (Env.waitFlag_behind r.plain hport) _)
    · exact runSlot_blocks r ((bind_ok ha _).trans (bind_error (Env.waitFlag_behind r.plain hport) _))
    · exact runSlot_blocks r (bind_error (Env.waitFlag_behind r.plain hport) _)
    · obtain ⟨i, hi, hbit⟩ := hmask trivial
      exact runSlot_blocks r ((bind_ok ha _).trans (Env.waitMask_behind r.plain hport
        (List.ne_nil_of_mem (mem_maskFlags.mpr ⟨hi, hbit⟩))))
  case empty =>
    have hnil := maskFlags_eq_nil hno
    have hrun := Env.waitMask_holds (e := s.env .sy h) (f := f) (fs := maskFlags a) (fun hne => absurd hnil hne) (by rw [hnil]; rfl)
      (by rw [hnil]; simp)
    refine ⟨_, runSlot_ready r ((bind_ok ha _).trans hrun), ?_, ?_⟩
    · split_ifs <;> rfl
    · rw [hnil]
      split_ifs
      · exact s.flags_waited_none h _ fun c => rfl
      · exact (congrArg Core.flags (State.core_setCore_same ..)).trans rfl
  case waitHolds => exact runSlot_ready r (bind_ok (Env.waitFlag_holds hport ho (decide_eq_true hc)) _)
  case waitBlocks => exact runSlot_blocks r (bind_error (Env.waitFlag_waits r.plain hport ho (decide_eq_false (not_le.mpr hc))) _)
  case waitOverflows => exact runSlot_overflows r (bind_error (Env.waitFlag_overflows hport ho) _)
  case waitsOverflows => exact runSlot_overflows r (bind_error (Env.waitFlag_overflows hport ho) _)
  case phaseOverflows => exact runSlot_overflows r ((bind_ok ha _).trans (bind_error (Env.waitFlag_overflows hport ho) _))
  case maskOverflows =>
    exact runSlot_overflows r ((bind_ok ha _).trans (Env.waitMask_overflows hport (find_overflow hi hbit ho hmin)))
  case phaseHolds =>
    exact runSlot_ready r ((bind_ok ha _).trans
      (bind_ok (Env.waitFlag_holds (p := fun g => g.ph != a.extractLsb' 0 16) hport ho (bne_iff_ne.mpr hp)) _))
  case phaseBlocks =>
    exact runSlot_blocks r ((bind_ok ha _).trans (bind_error (Env.waitFlag_waits (p := fun g => g.ph != a.extractLsb' 0 16)
      r.plain hport ho (bne_eq_false_iff_eq.mpr hp)) _))
  case waitsHolds =>
    refine ⟨_, runSlot_ready r (bind_ok (Env.waitFlag_holds hport ho (decide_eq_true hc)) _), ?_, rfl, fun j => ?_, fun j hj => ?_⟩
    · refine (s.flag_waited h _ _ _).trans ((Core.flag_consume ..).trans ((if_pos rfl).trans ?_))
      rw [syFlag, State.flag_counted]
      rfl
    · exact (congrArg (fun c : Core => c.ctx j) (State.core_modCore_same ..)).trans rfl
    · exact (s.flag_waited h _ _ _).trans ((Core.flag_consume ..).trans ((if_neg hj).trans (s.flag_counted ..)))
  case waitsBlocks => exact runSlot_blocks r (bind_error (Env.waitFlag_waits r.plain hport ho (decide_eq_false (not_le.mpr hc))) _)
  case maskHolds =>
    refine runSlot_ready r ((bind_ok ha _).trans ((Env.waitMask_holds (fun _ => hport) (find_overflow_none ho) fun i hi => ?_).trans
      (congrArg Except.ok (if_neg (by rw [hm]; decide)))))
    obtain ⟨hlt, hbit⟩ := mem_maskFlags.mp hi
    exact hc i hlt hbit
  case maskConsumes =>
    refine ⟨_, runSlot_ready r ((bind_ok ha _).trans ((Env.waitMask_holds (fun _ => hport) (find_overflow_none ho) fun i hi => ?_).trans
      (congrArg Except.ok (if_pos hm)))), rfl, fun i hi => ?_⟩
    · obtain ⟨hlt, hbit⟩ := mem_maskFlags.mp hi
      exact hc i hlt hbit
    · refine (s.flag_waited h _ _ _).trans ((Core.flag_consumeAll (maskFlags_nodup a) _ _).trans ?_)
      rw [State.flag_counted]
      exact if_congr (by simp [mem_maskFlags, hi]) rfl rfl
  case maskBlocks =>
    obtain ⟨i, hi, hbit, h0⟩ := hc
    exact runSlot_blocks r ((bind_ok ha _).trans (Env.waitMask_waits r.plain hport (find_overflow_none ho)
      ⟨i, mem_maskFlags.mpr ⟨hi, hbit⟩, h0⟩))

/-! ### Reads and clears (R445) -/

theorem Flag.postBy_clear (p : BitVec 16) {m : Nat} (hm : m ≤ 65535) : ((⟨0, 0, p, false⟩ : Flag).postBy m).cnt = BitVec.ofNat 16 m := by
  have hroom : ¬ 65535 < (0 : BitVec 16).toNat + m := by simpa using hm
  unfold Flag.postBy Flag.post
  rw [if_neg hroom, Option.getD_some, Flag.settle]
  simp

/-- The fields of FRD's word (R445). -/
theorem frd_fields (z p e c : BitVec 16) : (z ++ p ++ e ++ c : Word).extractLsb' 48 16 = z ∧ (z ++ p ++ e ++ c : Word).extractLsb' 32 16 = p ∧
    (z ++ p ++ e ++ c : Word).extractLsb' 16 16 = e ∧ (z ++ p ++ e ++ c : Word).extractLsb' 0 16 = c := by
  refine ⟨?_, ?_, ?_, ?_⟩ <;> refine BitVec.eq_of_getLsbD_eq fun i hi => ?_ <;>
    simp only [BitVec.getLsbD_extractLsb', BitVec.getLsbD_append] <;> grind

/-- Settles O42: the word of FRD by its fields, and a flag after FCLR. -/
theorem flagReadAndClear : Obligations.FlagReadAndClear := by
  refine fun h f s => ⟨fun r => ?read, fun r => runSlot_ready r rfl, fun t ci k j => ?clear⟩
  case read =>
    obtain ⟨hz, hp, he, hc⟩ := frd_fields 0 ((s.env .sy h).flagView f.flag.toNat).ph ((s.env .sy h).flagView f.flag.toNat).exp
      ((s.env .sy h).flagView f.flag.toNat).cnt
    refine ⟨_, runSlot_ready r (Env.retS_ok ..), hz, hp, he, hc, fun hq => ?_⟩
    rw [Env.flagView, hq]
    rfl
  case clear =>
    have hflag : ∀ m, ((t.applySy ci k (.fclr f.flag.toNat)).core ci).flag m =
        if m = f.flag.toNat then ((t.core ci).flag f.flag.toNat).clear else (t.core ci).flag m := fun m =>
      (congrArg (fun c : Core => c.flag m) (State.core_modCore_same ..)).trans (Core.flag_setFlag ..)
    refine ⟨(hflag _).trans (if_pos rfl), fun hj => (hflag j).trans (if_neg hj), fun m hm => ?_⟩
    rw [hflag, if_pos rfl]
    exact Flag.postBy_clear _ hm

/-! ### Posts and expectations (R442, R444) -/

theorem Flag.settle_eq (g : Flag) : g.settle =
    if 0 < g.exp.toNat ∧ g.exp.toNat ≤ g.cnt.toNat then ⟨g.cnt - g.exp, 0, g.ph + 1, g.ovf⟩ else g := by
  refine if_congr ?_ rfl rfl
  simp [BitVec.lt_def, BitVec.le_def]

theorem Core.keeps_of_idle {c : Core} {n : Nat} {ks : List Nat} (h : ∀ k ∈ ks, (c.ctx k).dueOps = []) (g : Flag) :
    c.keeps n ks g = true := by
  suffices hfold : ks.foldl (fun g k => g.bind (Flag.after n (c.ctx k).dueOps)) (some g) = some g by
    rw [Core.keeps, hfold]
    rfl
  refine List.foldlRecOn (motive := fun o : Option Flag => o = some g) _ _ rfl fun o ho k hk => ?_
  rw [ho, Option.bind_some, h k hk]
  rfl

section
variable {e : Env} {n : Nat} {change : Flag → Option Flag} {op : SyOp}

theorem Env.ownChange_takes {u : Flag} (hu : change (e.flagView n) = some u) (hk : e.core.keeps n ([0, 1, 2, 3].filter (· ≠ e.k)) u = true) :
    e.ownChange n change op = .ok (e.syOp op) := by
  unfold Env.ownChange
  dsimp only
  rw [hu, Option.filter_some, if_pos hk]

theorem Env.ownChange_refuses (h : ∀ u, change (e.flagView n) = some u → e.core.keeps n ([0, 1, 2, 3].filter (· ≠ e.k)) u = false) :
    e.ownChange n change op = .error (.trap .flagOverflow (flagValue n (e.flagView n))) := by
  unfold Env.ownChange
  dsimp only
  rw [Option.filter_eq_none_iff.mpr fun u hu => by rw [h u hu]; exact Bool.false_ne_true]

end

/-- A slot whose work is a change of a flag: whether the flag, and what others have committed, take it (R442). -/
theorem runSlot_changes {o : Op} {w : Word} {h : Hd} {s : State} {body : Body} {n : Nat} {change : Flag → Option Flag} {op : SyOp}
    (r : Ready o .sy w h s) (hb : body (s.env .sy h) = (s.env .sy h).ownChange n change op) :
    let e := s.env .sy h
    let others := [0, 1, 2, 3].filter (· ≠ e.k)
    let v := flagValue n (e.flagView n)
    let taken := runSlot o .sy w h s body = .next ((e.syOp op).setVerdict .committed)
    let refused := runSlot o .sy w h s body =
      .next ((s.trapNow s.iss.core s.iss.ctx .flagOverflow v (slotMask [.sy])).setVerdict (.trapped .flagOverflow v))
    (∀ u, change (e.flagView n) = some u → (e.core.keeps n others u = true → taken) ∧ (e.core.keeps n others u = false → refused) ∧
      ((∀ k ∈ others, (e.core.ctx k).dueOps = []) → taken)) ∧ (change (e.flagView n) = none → refused) := by
  refine ⟨fun u hu => ⟨fun hk => ?_, fun hk => ?_, fun hd => ?_⟩, fun hnone => ?_⟩
  · exact runSlot_ready r (hb.trans (Env.ownChange_takes hu hk))
  · exact runSlot_traps r (hb.trans (Env.ownChange_refuses fun u' hu' => Option.some.inj (hu.symm.trans hu') ▸ hk))
  · exact runSlot_ready r (hb.trans (Env.ownChange_takes hu (Core.keeps_of_idle hd u)))
  · exact runSlot_traps r (hb.trans (Env.ownChange_refuses fun u hu => absurd (hnone.symm.trans hu) (Option.some_ne_none u).symm))

/-- Settles O41: the change that an operation makes, and whether it is taken. -/
theorem flagPosts : Obligations.FlagPosts := by
  refine fun h f s => ⟨fun m c k => ?applyPost, fun m c k => ?applyExpect, fun c k ts => ⟨fun u hu hk => ?posted, fun hno => ?refused⟩,
    fun g k => ?expect, fun g k => ?post,
    fun r => runSlot_changes (n := f.flag.toNat) (change := (·.post f.imm18.toNat)) (op := .post f.flag.toNat f.imm18.toNat) r rfl,
    fun a r ha => runSlot_changes (n := f.flag.toNat) (change := (·.post a.toNat)) (op := .post f.flag.toNat a.toNat) r (bind_ok ha _),
    fun a r ha => runSlot_ready r (bind_ok ha _),
    fun r => runSlot_changes (n := f.flag.toNat) (change := (·.expect f.imm18.toNat)) (op := .expt f.flag.toNat f.imm18.toNat) r rfl⟩
  case applyPost =>
    unfold State.applySy
    dsimp only
    cases hp : ((s.core m).flag f.flag.toNat).post k with
    | none => rfl
    | some g => rfl
  case applyExpect =>
    unfold State.applySy
    dsimp only
    cases hp : ((s.core m).flag f.flag.toNat).expect k with
    | none => rfl
    | some g => rfl
  case posted =>
    have hposted : c.posted f.flag.toNat k = some u := by
      rw [Core.posted, hu, Option.filter_some, if_pos hk]
    unfold Core.postFlag
    rw [hposted]
    exact ⟨(Core.flag_setFlag ..).trans (if_pos rfl), SMap.get_set_same .., fun j hj => (Core.flag_setFlag ..).trans (if_neg hj)⟩
  case refused =>
    have hnone : c.posted f.flag.toNat k = none := Option.filter_eq_none_iff.mpr fun u hu => by simp [hno u hu]
    unfold Core.postFlag
    rw [hnone]
  case expect =>
    unfold Flag.expect
    rw [Flag.settle_eq]
  case post =>
    unfold Flag.post
    rw [Flag.settle_eq]

end Sys2Proof.Machine
end

section
/-!
PROOFS. Tile registers and type checks (R209, R211 to R215, R382 to R391).
-/

namespace Sys2Proof.Machine

/-! ### Building and reading tile registers -/

section
variable {e : Env}

theorem Env.wellFormed_ok {tw : Quad} (h : twBad tw = none) : e.wellFormed tw = .ok () := by
  unfold Env.wellFormed
  rw [h]

theorem Env.wellFormed_traps {tw : Quad} {n : Nat} (h : twBad tw = some n) : e.wellFormed tw = .error (e.badTile 4 n) := by
  unfold Env.wellFormed
  rw [h]

theorem Env.descFormed_ok {d : Word} (hb : descBad d = none) (hl : descLeaves d e.x.dflen = none) : e.descFormed d = .ok () := by
  unfold Env.descFormed
  rw [hb, hl]

theorem Env.setExt_ok {d sa : BitVec 9} {i n : Nat} (hi : i < twRank (e.x.tReg sa.toNat).tw)
    (hb : twBad (twSetExt (e.x.tReg sa.toNat).tw i n) = none) :
    e.setExt d sa i n = .ok (e.retT e.s d (twSetExt (e.x.tReg sa.toNat).tw i n) (e.x.tReg sa.toNat).desc) :=
  (bind_ok (stopIf_false (decide_eq_false (not_le.mpr hi))) _).trans (bind_ok (Env.wellFormed_ok hb) _)

end

/-- A slot's offset of at most 48 bits is a window's (R387). -/
theorem tbind_ok {e : Env} {f : RFmt} {c : Word} (hc : e.srcS f.sc = .ok c) (hb : descBad (mkWindow 0 0 ||| (c &&& 0xFFFFFFFFFFFF)) = none)
    (hlt : c.toNat < 2 ^ 48) : (do
      let c ← e.srcS f.sc
      match descBad (mkWindow 0 0 ||| (c &&& 0xFFFFFFFFFFFF)), lowBit 16 (fld c 48 16) with
      | some b, _ => .error (e.badTile 2 (128 + b))
      | none, some b => .error (e.badTile 2 (128 + 48 + b))
      | none, none => pure (e.retT e.s f.dst (e.srcT f.sa).tw (mkWindow f.sb.toNat (c.toNat % 2 ^ 48)))) =
      (.ok (e.retT e.s f.dst (e.x.tReg f.sa.toNat).tw (mkWindow f.sb.toNat c.toNat)) : Except Stop State) := by
  have hhigh : fld c 48 16 = 0 := by
    rw [fld, bits, Nat.shiftRight_eq_div_pow, Nat.div_eq_of_lt hlt]
    rfl
  rw [bind_ok hc, hb, hhigh, Nat.mod_eq_of_lt hlt]
  rfl

/-- Settles O29: what each puts in flight, once its type word and descriptor pass. -/
theorem tileRegisterWrites : Obligations.TileRegisterWrites := by
  refine ⟨fun h s => ⟨fun f a b ha hb r => ⟨fun hg => ?set, fun n hn => ?malformed⟩, fun f r => runSlot_ready r rfl,
    fun f r => runSlot_ready r rfl, fun f a ha r hb hl => ?store, fun f r hb hl => ?storeI, fun f b hb r hi hg => ?ext,
    fun f r hi hg => ?extI, fun f c hc r hb hlt => ?bind⟩,
    fun h f s => ⟨fun r => runSlot_ready r (Env.retS_ok ..), fun r => runSlot_ready r (Env.retS_ok ..),
      fun r => runSlot_ready r (Env.retS_ok ..), fun r hd => ?extent, fun r hd => ?property⟩⟩
  case set => exact runSlot_ready r ((bind_ok ha _).trans ((bind_ok hb _).trans (bind_ok (Env.wellFormed_ok hg) _)))
  case malformed => exact ⟨_, runSlot_traps r ((bind_ok ha _).trans ((bind_ok hb _).trans (bind_error (Env.wellFormed_traps hn) _)))⟩
  case store => exact runSlot_ready r ((bind_ok ha _).trans (bind_ok (Env.descFormed_ok hb hl) _))
  case storeI => exact runSlot_ready r (bind_ok (Env.descFormed_ok hb hl) _)
  case ext => exact runSlot_ready r ((bind_ok hb _).trans (Env.setExt_ok hi hg))
  case extI => exact runSlot_ready r (Env.setExt_ok hi hg)
  case bind => exact runSlot_ready r (tbind_ok hc hb hlt)
  case extent =>
    refine runSlot_ready r ((bind_ok (Env.blockIf_false hd) _).trans ((Env.retS_ok ..).trans ?_))
    rw [apply_ite (BitVec.ofNat 64)]
    rfl
  case property => exact runSlot_ready r ((bind_ok (Env.blockIf_false hd) _).trans (Env.retS_ok ..))

/-! ### Unification (R211) -/

theorem assoc_cons (k v : Nat) (l : List (Nat × Nat)) (j : Nat) : assoc ((k, v) :: l) j = if k = j then some v else assoc l j := by
  unfold assoc
  rw [List.find?_cons]
  by_cases h : k = j <;> simp [h]

section
variable {e : Env}

theorem Env.resolve_const {n : Nat} (h : isVar n = false) (pend : List (Nat × Nat)) : e.resolve pend n = n := if_pos (by rw [h]; rfl)

theorem twVars_const {t : Quad} (h : ∀ n ∈ twExts t, isVar n = false) : twVars t = [] := by
  unfold twVars
  rw [List.filter_eq_nil_iff.mpr fun n hn => by rw [h n hn]; exact Bool.false_ne_true]
  rfl

theorem Env.dimPending_nil : e.dimPending [] = false := by
  simp [Env.dimPending]

theorem Env.uniExt_fresh {r : TRow} {i n k : Nat} {u : Uni} (hn : isVar n = false) (hk : assoc u.exts k = none) :
    e.uniExt r i n (.sym k) u = .ok { u with exts := (k, n) :: u.exts } := by
  unfold Env.uniExt
  simp only [hk, Env.resolve_const hn]

theorem Env.uniExt_same {r : TRow} {i n k : Nat} {u : Uni} (hn : isVar n = false) (hk : assoc u.exts k = some n) :
    e.uniExt r i n (.sym k) u = .ok u := by
  unfold Env.uniExt
  simp [hk, Env.resolve_const hn, hn]

/-- Constant extents under fresh symbols bind them, and meet them again. -/
theorem Env.uniExts_fresh {ns : List Nat} (hns : ∀ n ∈ ns, isVar n = false) (r : TRow) (m k i : Nat) {u : Uni}
    (hu : ∀ j, k ≤ j → assoc u.exts j = none) :
    ∃ u', e.uniExts r i ns ((List.range' k m).map .sym) u = .ok u' ∧ u'.fields = u.fields ∧ u'.pend = u.pend ∧
      (∀ j, j < k → assoc u'.exts j = assoc u.exts j) ∧ ∀ r' i', e.uniExts r' i' ns ((List.range' k m).map .sym) u' = .ok u' := by
  induction ns generalizing m k i u with
  | nil => exact ⟨u, rfl, rfl, rfl, fun _ _ => rfl, fun _ _ => rfl⟩
  | cons n ns ih =>
    obtain ⟨hn, hns⟩ := List.forall_mem_cons.mp hns
    cases m with
    | zero => exact ⟨u, rfl, rfl, rfl, fun _ _ => rfl, fun _ _ => rfl⟩
    | succ m =>
      obtain ⟨u', hrun, hf, hp, hlow, hagain⟩ := ih hns m (k + 1) (i + 1) (u := { u with exts := (k, n) :: u.exts }) fun j hj =>
        (assoc_cons ..).trans ((if_neg (by omega)).trans (hu j (by omega)))
      have hk : assoc u'.exts k = some n := (hlow k (Nat.lt_succ_self k)).trans ((assoc_cons ..).trans (if_pos rfl))
      refine ⟨u', (bind_ok (Env.uniExt_fresh hn (hu k le_rfl)) _).trans hrun, hf, hp, fun j hj => ?_, fun r' i' =>
        (bind_ok (Env.uniExt_same hn hk) _).trans (hagain r' (i' + 1))⟩
      exact (hlow j (by omega)).trans ((assoc_cons ..).trans (if_neg (by omega)))

/-- A row whose fields are the first of their symbols. -/
theorem Env.uniRow_first {a : Quad} (ha : ∀ n ∈ twExts a, isVar n = false) {c : Cell} (hc : c = .any ∨ c = .sym 0) (o : Nat) :
    ∃ u, e.uniRow ⟨o, a, .sym 0, c, c, c, sharedExts⟩ Uni.empty = .ok u ∧ u.pend = [] ∧ assoc u.fields 0 = some (twRank a) ∧
      (c = .sym 0 → assoc u.fields 1 = some (twFmt a)) ∧ ∀ o', e.uniRow ⟨o', a, .sym 0, c, c, c, sharedExts⟩ u = .ok u := by
  rcases hc with rfl | rfl
  · obtain ⟨u, hrun, hf, hp, -, hagain⟩ := e.uniExts_fresh ha ⟨o, a, .sym 0, .any, .any, .any, sharedExts⟩ 4 0 0
      (u := ⟨[(0, twRank a)], [], []⟩) fun j _ => rfl
    have hrank : assoc u.fields 0 = some (twRank a) := by rw [hf]; rfl
    refine ⟨u, hrun, hp, hrank, fun h => absurd h (by decide), fun o' => ?_⟩
    have hfield : e.uniField ⟨o', a, .sym 0, .any, .any, .any, sharedExts⟩ 0 (twRank a) (.sym 0) u = .ok u := by
      simp [Env.uniField, hrank]
    exact (bind_ok hfield _).trans (hagain _ 0)
  · obtain ⟨u, hrun, hf, hp, -, hagain⟩ := e.uniExts_fresh ha ⟨o, a, .sym 0, .sym 0, .sym 0, .sym 0, sharedExts⟩ 4 0 0
      (u := ⟨[(3, twScale a), (2, twLay a), (1, twFmt a), (0, twRank a)], [], []⟩) fun j _ => rfl
    refine ⟨u, hrun, hp, by rw [hf]; rfl, fun _ => by rw [hf]; rfl, fun o' => ?_⟩
    have hfield : ∀ field v, assoc u.fields field = some v →
        e.uniField ⟨o', a, .sym 0, .sym 0, .sym 0, .sym 0, sharedExts⟩ field v (.sym 0) u = .ok u := fun field v h => by
      simp [Env.uniField, h]
    exact (bind_ok (hfield 0 _ (by rw [hf]; rfl)) _).trans ((bind_ok (hfield 1 _ (by rw [hf]; rfl)) _).trans
      ((bind_ok (hfield 2 _ (by rw [hf]; rfl)) _).trans ((bind_ok (hfield 3 _ (by rw [hf]; rfl)) _).trans (hagain _ 0))))

theorem Env.uniForm_ok {rs : List TRow} (h : ∀ r ∈ rs, twBad r.tw = none) : e.uniForm rs = .ok () := by
  unfold Env.uniForm
  rw [List.findSome?_eq_none_iff.mpr fun r hr => by rw [h r hr]; rfl]

theorem Env.answer_ok (ha : e.s.iss.ask = .issue) (u : Uni) : e.answer u = .ok () := stopIf_false (by simp [ha])

theorem Env.dimPending_rows {rs : List TRow} (h : ∀ r ∈ rs, ∀ n ∈ twExts r.tw, isVar n = false) :
    e.dimPending (rs.flatMap fun r => twVars r.tw) = false := by
  rw [List.flatMap_eq_nil_iff.mpr fun r hr => twVars_const (h r hr), Env.dimPending_nil]

/-- Rows of constant extents wait for no variable. -/
theorem Env.unifyPart_const {rs : List TRow} (hform : e.uniForm rs = .ok ()) (hconst : ∀ r ∈ rs, ∀ n ∈ twExts r.tw, isVar n = false) :
    e.unifyPart rs = e.uniRows rs Uni.empty :=
  (bind_ok (Env.blockIf_false (Env.dimPending_rows hconst)) _).trans (bind_ok hform _)

theorem Env.bind_nil {u : Uni} (h : u.pend = []) : e.bind u e.s = e.s := by
  unfold Env.bind
  rw [h, List.append_nil]
  rfl

/-- What unification has found, its checks had found before the slot answers with it. -/
theorem Env.unifyPart_of_unify {rs : List TRow} {u : Uni} (h : e.unify rs = .ok u) : e.unifyPart rs = .ok u := by
  unfold Env.unify at h
  cases hp : e.unifyPart rs with
  | error p => rw [hp] at h; cases h
  | ok v =>
    rw [hp] at h
    change (e.answer v >>= fun _ => pure v) = _ at h
    cases ha : e.answer v with
    | error p => rw [ha] at h; cases h
    | ok w => rw [ha] at h; exact h

end

/-! ### The fields of a SHAPE_FAULT record (R214) -/

theorem shapeFault_fields {slot field opnd : Nat} (hs : slot < 16) (hf : field < 16) (ho : opnd < 8) (expected found : Nat) :
    ∃ v, shapeFault slot field opnd false expected found = .trap .shapeFault v ∧ fld v 0 4 = field ∧ fld v 4 4 = slot ∧ fld v 8 3 = opnd ∧
      fld v 12 24 = min expected 0xFFFFFF ∧ fld v 36 24 = min found 0xFFFFFF := by
  refine ⟨_, rfl, ?_⟩
  simp only [fld, bits, Nat.shiftRight_eq_div_pow, BitVec.toNat_ofNat, Bool.false_eq_true, if_false]
  omega

/-! ### Rearrangements that only rewrite the type word (R215) -/

section
variable {e : Env}

theorem Env.nonEmpty_ok {o : Nat} {t : Quad} (h : twRank t ≠ 0) : e.nonEmpty o t = .ok () := stopIf_false (decide_eq_false h)

/-- A command that goes through does so whatever it might have waited for. -/
theorem Env.copyWait_ok {b : Bool} {r : Except Stop State} {t : State} (h : r = .ok t) : e.copyWait b r = .ok t := by
  subst h
  rfl

theorem TRow.filled_of_rank {r : TRow} (h : twRank r.tw ≠ 0) : r.filled = r := if_neg h

variable {f : RFmt} {u v : Uni}

theorem Env.transpose_empty {ta td : TileReg} (hta : e.x.tReg f.sa.toNat = ta) (htd : e.x.tReg f.dst.toNat = td)
    (hd : twRank td.tw = 0)
    (hform : e.uniForm [⟨0, ta.tw, .any, .any, .any, .any, []⟩, ⟨4, td.tw, .any, .any, .any, .any, []⟩] = .ok ())
    (hu : e.unify [⟨0, ta.tw, .oneOf [2], .any, .oneOf [0, 1, 2, 3], .any, []⟩] = .ok u) :
    e.transpose f = .ok (e.retT (e.bind u e.s) f.dst (e.resolved u (mkTw 2 (twFmt ta.tw)
      (partner (twLay ta.tw)) (swapScale (twScale ta.tw))
      (swapLast (twExts ta.tw)))) ta.desc) := by
  subst hta htd
  exact (if_pos hd).trans ((bind_ok hform _).trans (bind_ok hu _))

theorem Env.transpose_partner {ta td : TileReg} (hta : e.x.tReg f.sa.toNat = ta) (htd : e.x.tReg f.dst.toNat = td)
    (hform : e.formAD ta.tw td.tw = .ok ()) (ha : twRank ta.tw = 2) (hd : twRank td.tw = 2)
    (hlay : twLay ta.tw ≤ 3) (hpart : twLay td.tw = partner (twLay ta.tw))
    (hu : e.unify [⟨0, ta.tw, .any, .sym 0, .oneOf [0, 1, 2, 3, 4, 5], .any, [.sym 0, .sym 1]⟩,
      ⟨4, td.tw, .oneOf [2], .sym 0, .oneOf [0, 1, 2, 3, 4, 5],
        .oneOf [swapScale (twScale ta.tw)], [.sym 1, .sym 0]⟩] = .ok u) :
    e.transpose f = .ok (e.retT (e.bind u e.s) f.dst (e.resolved u td.tw) ta.desc) := by
  have honly : transposeOnly ta.tw td.tw = true := by
    simp [transposeOnly, ha, hd, hlay, hpart]
  unfold Env.transpose Env.srcT
  dsimp only
  rw [hta, htd, if_neg (by rw [hd]; decide), bind_ok hform, ha]
  exact (bind_ok hu _).trans (if_pos honly)

theorem Env.reshape_only {ta td : TileReg} (hta : e.x.tReg f.sa.toNat = ta) (htd : e.x.tReg f.dst.toNat = td)
    (ha : e.s.iss.ask = .issue) (hform : e.formAD ta.tw td.tw = .ok ()) (hd : twRank td.tw ≠ 0)
    (hu : e.unify [⟨0, ta.tw, .any, .sym 0, .any, .sym 0, []⟩, ⟨4, td.tw, .any, .sym 0, .any, .sym 0, []⟩] = .ok u)
    (hconst : e.constant [(0, ta.tw)] u = .ok ()) (hbind : e.reshapeBind u (prod (e.extents ta.tw)) (e.extents td.tw) = .ok v)
    (hcount : prod (e.extents ta.tw) = prod ((twExts td.tw).map (e.resolve v.pend))) :
    e.reshape f = if reshapeOnly ta.tw td.tw (e.extents ta.tw)
        ((twExts td.tw).map (e.resolve v.pend)) = true
      then .ok (e.retT (e.bind v e.s) f.dst (e.resolved v td.tw) ta.desc)
      else (do
        e.plainScale ta.tw td.tw
        e.copyJob v (some (ta.tw, ta.desc))
          (td.tw, td.desc) f.dst (engFlag f.imm) (.rearrange .reshape)) := by
  subst hta htd
  have hpart := Env.unifyPart_of_unify hu
  unfold Env.reshape Env.srcT
  dsimp only
  rw [bind_ok hform, TRow.filled_of_rank hd, bind_ok hpart, bind_ok hconst, bind_ok hbind, bind_ok (Env.answer_ok ha v),
    bind_ok (stopIf_false (decide_eq_false (not_not.mpr hcount)))]
  rfl

theorem Env.cast_unified {ta td : TileReg} (hta : e.x.tReg f.sa.toNat = ta) (htd : e.x.tReg f.dst.toNat = td)
    (hform : e.formAD ta.tw td.tw = .ok ()) (hd : twRank td.tw ≠ 0)
    (hu : e.unify [⟨0, ta.tw, .sym 0, castCell (twFmt td.tw), .any, .oneOf [0], sharedExts⟩,
      ⟨4, td.tw, .sym 0, castCell (twFmt ta.tw), .any, .oneOf [0], sharedExts⟩] = .ok u) :
    e.cast f = if castOnly ta.tw td.tw = true
      then .ok (e.retT (e.bind u e.s) f.dst (e.resolved u td.tw) ta.desc)
      else e.copyJob u (some (ta.tw, ta.desc))
        (td.tw, td.desc) f.dst (engFlag f.imm)
        (.rearrange (.cast (BitVec.ofNat 2 (e.mode (bits f.imm.toNat 6 3))) (f.imm.getLsbD 9))) := by
  unfold Env.cast Env.srcT
  dsimp only
  rw [hta, htd, bind_ok hform, TRow.filled_of_rank hd, bind_ok hu]
  rfl

theorem Env.sliceBody_unified {dst sa : BitVec 9} {start count : Nat} {flag : Option (BitVec 5)} {ta : TileReg}
    (hta : e.x.tReg sa.toNat = ta) (hform : e.uniForm [⟨0, ta.tw, .any, .any, .any, .any, []⟩] = .ok ()) (hr : twRank ta.tw ≠ 0)
    (hu : e.unify [⟨0, ta.tw, .any, .any, .any, .any, []⟩] = .ok u)
    (hvar : isVar ((e.extents ta.tw).getD (slowAxis ta.tw) 0) = false) (h1 : 1 ≤ count)
    (hin : start + count ≤ (e.extents ta.tw).getD (slowAxis ta.tw) 0) :
    e.sliceBody dst sa start count flag =
      (e.sliceDesc ta.tw ta.desc start).elim (do
        e.plainScale ta.tw (twSetExt (e.resolved u ta.tw) (slowAxis ta.tw) count)
        e.copyJob u (some (ta.tw, ta.desc))
          (twSetExt (e.resolved u ta.tw) (slowAxis ta.tw) count, (e.x.tReg dst.toNat).desc)
          dst flag (.rearrange (.slice start)))
        (fun d => .ok (e.retT e.s dst (twSetExt (e.resolved u ta.tw) (slowAxis ta.tw) count) d)) := by
  unfold Env.sliceBody Env.srcT
  dsimp only
  rw [hta, bind_ok hform, bind_ok (Env.nonEmpty_ok hr), bind_ok hu, bind_ok (stopIf_false hvar),
    bind_ok (stopIf_false (Bool.or_eq_false_iff.mpr ⟨decide_eq_false (by omega), decide_eq_false (by omega)⟩))]
  cases e.sliceDesc ta.tw ta.desc start <;> rfl

end

theorem twFmt_le (t : Quad) : twFmt t ≤ 0xFFFFFF := (bits_lt ..).le.trans (by decide)

/-! ### The rows of TCHK (R386) -/

section
variable {e : Env} {a b : Quad}

theorem tchk_form {c : Cell} (ha : twBad a = none) (hb : twBad b = none) :
    e.uniForm [⟨0, a, .sym 0, c, c, c, sharedExts⟩, ⟨1, b, .sym 0, c, c, c, sharedExts⟩] = .ok () :=
  Env.uniForm_ok (List.forall_mem_cons.mpr ⟨ha, List.forall_mem_singleton.mpr hb⟩)

/-- Two rows of constant extents unify row by row. -/
theorem tchk_unifyPart {c : Cell} (ha : twBad a = none) (hb : twBad b = none) (hac : ∀ n ∈ twExts a, isVar n = false)
    (hbc : ∀ n ∈ twExts b, isVar n = false) {u : Uni} (hu : e.uniRow ⟨0, a, .sym 0, c, c, c, sharedExts⟩ Uni.empty = .ok u) :
    e.unifyPart [⟨0, a, .sym 0, c, c, c, sharedExts⟩, ⟨1, b, .sym 0, c, c, c, sharedExts⟩] =
      (e.uniRow ⟨1, b, .sym 0, c, c, c, sharedExts⟩ u >>= fun v => .ok v) :=
  (Env.unifyPart_const (tchk_form ha hb) (List.forall_mem_cons.mpr ⟨hac, List.forall_mem_singleton.mpr hbc⟩)).trans (bind_ok hu _)

theorem tchk_same (hask : e.s.iss.ask = .issue) (ha : twBad a = none) (hac : ∀ n ∈ twExts a, isVar n = false) {c : Cell}
    (hc : c = .any ∨ c = .sym 0) : ∃ u, u.pend = [] ∧
      e.unify [⟨0, a, .sym 0, c, c, c, sharedExts⟩, ⟨1, a, .sym 0, c, c, c, sharedExts⟩] = .ok u := by
  obtain ⟨u, hfirst, hpend, -, -, hagain⟩ := e.uniRow_first hac hc 0
  exact ⟨u, hpend, (bind_ok ((tchk_unifyPart ha ha hac hac hfirst).trans (bind_ok (hagain 1) _)) _).trans (bind_ok (Env.answer_ok hask u) _)⟩

/-- Formats that differ are the fault of the second operand (R214). -/
theorem tchk_differs {c : Cell} (hc : c = .sym 0) (ha : twBad a = none) (hb : twBad b = none) (hrank : twRank b = twRank a)
    (hfmt : twFmt a ≠ twFmt b) (hac : ∀ n ∈ twExts a, isVar n = false) (hbc : ∀ n ∈ twExts b, isVar n = false) :
    e.unify [⟨0, a, .sym 0, c, c, c, sharedExts⟩, ⟨1, b, .sym 0, c, c, c, sharedExts⟩] =
      .error (shapeFault e.slot.num 1 1 false (twFmt a) (twFmt b)) := by
  subst hc
  obtain ⟨u, hfirst, -, hr, hf, -⟩ := e.uniRow_first hac (.inr rfl) 0
  have hrankField : e.uniField ⟨1, b, .sym 0, .sym 0, .sym 0, .sym 0, sharedExts⟩ 0 (twRank b) (.sym 0) u = .ok u := by
    simp [Env.uniField, hr, hrank]
  have hfmtField : e.uniField ⟨1, b, .sym 0, .sym 0, .sym 0, .sym 0, sharedExts⟩ 1 (twFmt b) (.sym 0) u =
      .error (shapeFault e.slot.num 1 1 false (twFmt a) (twFmt b)) := by
    simp [Env.uniField, hf rfl, hfmt]
  exact bind_error ((tchk_unifyPart ha hb hac hbc hfirst).trans (bind_error ((bind_ok hrankField _).trans (bind_error hfmtField _)) _)) _

end

/-- Settles O30: unification of constant extents row by row; the type-only forms by their own conditions. -/
theorem typeCheck : Obligations.TypeCheck := by
  refine ⟨fun h f s r => ⟨fun hba hgood hrank hconst => ?same, fun hbit ha hb hra hrab hne hconst => ?differs,
      fun u hform hra hrb hu => ?unifies⟩,
    fun h s => ⟨fun f u r hd hform hu => ?trnEmpty, fun f u r hform ha hd hlay hpart hu => ?trnPartner,
      fun f u v r hform hd hu hconst hbind hcount honly => ?reshape, fun f u r hform hd hfmt hlay hu => ?cast,
      fun f b c r hb hc u desc hform hr hu hvar h1 hin hdesc => ?slice, fun f r u desc hform hr hu hvar h1 hin hdesc => ?sliceI⟩⟩
  case same =>
    obtain ⟨u, hpend, hunify⟩ := tchk_same (e := s.env .mt h) r.plain hgood hconst
      (c := if f.imm.getLsbD 0 then .any else .sym 0) (by split <;> simp)
    refine runSlot_ready r ((bind_ok (tchk_form hgood (hba.symm ▸ hgood)) _).trans ((bind_ok (Env.nonEmpty_ok hrank) _).trans
      ((bind_ok (Env.nonEmpty_ok (hba.symm ▸ hrank)) _).trans ((bind_ok (hba.symm ▸ hunify) _).trans
        (congrArg Except.ok (Env.bind_nil hpend))))))
  case differs =>
    obtain ⟨hac, hbc⟩ := List.forall_mem_append.mp hconst
    obtain ⟨v, hv, hfields⟩ := shapeFault_fields (slot := Slot.mt.num) (field := 1) (opnd := 1) (by decide) (by decide) (by decide)
      (twFmt ((s.env .mt h).x.tReg f.sa.toNat).tw) (twFmt ((s.env .mt h).x.tReg f.sb.toNat).tw)
    rw [min_eq_left (twFmt_le _), min_eq_left (twFmt_le _)] at hfields
    have hunify := (tchk_differs (e := s.env .mt h) (c := if f.imm.getLsbD 0 then .any else .sym 0)
      (if_neg (Bool.eq_false_iff.mp hbit)) ha hb hrab hne hac hbc).trans
      (congrArg Except.error hv)
    refine ⟨v, runSlot_traps r ((bind_ok (tchk_form ha hb) _).trans ((bind_ok (Env.nonEmpty_ok hra) _).trans
      ((bind_ok (Env.nonEmpty_ok (hrab.trans_ne hra)) _).trans (bind_error hunify _)))), hfields⟩
  case unifies =>
    exact runSlot_ready r ((bind_ok hform _).trans ((bind_ok (Env.nonEmpty_ok hra) _).trans ((bind_ok (Env.nonEmpty_ok hrb) _).trans
      (bind_ok hu _))))
  case trnEmpty => exact runSlot_ready r (Env.copyWait_ok (Env.transpose_empty rfl rfl hd hform hu))
  case trnPartner => exact runSlot_ready r (Env.copyWait_ok (Env.transpose_partner rfl rfl hform ha hd hlay hpart hu))
  case reshape => exact runSlot_ready r (Env.copyWait_ok ((Env.reshape_only rfl rfl r.plain hform hd hu hconst hbind hcount).trans (if_pos honly)))
  case cast =>
    have honly : castOnly ((s.env .mt h).x.tReg f.sa.toNat).tw ((s.env .mt h).x.tReg f.dst.toNat).tw = true := by
      simpa [castOnly, hlay] using hfmt
    exact runSlot_ready r (Env.copyWait_ok ((Env.cast_unified rfl rfl hform hd hu).trans (if_pos honly)))
  case slice =>
    exact runSlot_ready r ((bind_ok hb _).trans ((bind_ok hc _).trans (Env.copyWait_ok
      ((Env.sliceBody_unified rfl hform hr hu hvar h1 hin).trans (by rw [hdesc]; rfl)))))
  case sliceI => exact runSlot_ready r (Env.copyWait_ok ((Env.sliceBody_unified rfl hform hr hu hvar h1 hin).trans (by rw [hdesc]; rfl)))

end Sys2Proof.Machine
end

section
/-!
PROOFS. Copy commands of tiles (R215, R216, R253, R388 to R391).
-/

namespace Sys2Proof.Machine

section
variable {e : Env} {u : Uni} {d : Quad × Word} {out : TileOp} {dst : BitVec 9} {flag : Option (BitVec 5)} {kind : TileOp → TileOp → JobKind}

theorem Env.copyJob_ready {a : Quad × Word} {src : TileOp} (hc : e.CopyReady u (some a) d (some src) out) :
    e.copyJob u (some a) d dst flag kind = .ok (e.copyIssued u (some src) out d dst flag (kind src out)) := by
  obtain ⟨room, hconst, hsrc, hdst, hapart⟩ := hc
  exact (bind_ok (Env.blockIf_false room) _).trans ((bind_ok hconst _).trans ((bind_ok hsrc _).trans
    ((bind_ok hdst _).trans (bind_ok (stopIf_false (decide_eq_false (not_not.mpr hapart))) _))))

/-- A command without a source. -/
theorem Env.copyJob_fill (hc : e.CopyReady u none d none out) :
    e.copyJob u none d dst flag kind = .ok (e.copyIssued u none out d dst flag (kind out out)) := by
  obtain ⟨room, hconst, -, hdst, -⟩ := hc
  exact (bind_ok (Env.blockIf_false room) _).trans ((bind_ok hconst _).trans
    ((bind_ok hdst _).trans (bind_ok (stopIf_false rfl) _)))

theorem Env.plainScale_ok {a t : Quad} (ha : twScale a = 0) (ht : twScale t = 0) : e.plainScale a t = .ok () :=
  (bind_ok (stopIf_false (decide_eq_false (not_not.mpr ha))) _).trans (stopIf_false (decide_eq_false (not_not.mpr ht)))

variable {f : RFmt} {src : TileOp}

theorem Env.typedCopy_issued {ra rd : TRow} (hform : e.formAD ra.tw rd.tw = .ok ()) (hd : twRank rd.tw ≠ 0)
    (hu : e.unify [ra, rd] = .ok u)
    (hc : e.CopyReady u (some (ra.tw, (e.x.tReg f.sa.toNat).desc)) (rd.tw, (e.x.tReg f.dst.toNat).desc) (some src) out) :
    e.typedCopy f ra rd kind = .ok (e.copyIssued u (some src) out (rd.tw, (e.x.tReg f.dst.toNat).desc) f.dst (engFlag f.imm) (kind src out)) := by
  unfold Env.typedCopy
  rw [TRow.filled_of_rank hd]
  exact (bind_ok (Env.blockIf_false hc.room) _).trans ((bind_ok hform _).trans ((bind_ok hu _).trans (Env.copyJob_ready hc)))

theorem Env.transpose_copies {ta td : TileReg} (hta : e.x.tReg f.sa.toNat = ta) (htd : e.x.tReg f.dst.toNat = td)
    (hform : e.formAD ta.tw td.tw = .ok ()) (hd : twRank td.tw ≠ 0)
    (hflat : ¬ (twRank ta.tw = 2 ∧ twRank td.tw = 2 ∧ twLay ta.tw ≤ 3 ∧ twLay td.tw = partner (twLay ta.tw)))
    (hsa : twScale ta.tw = 0) (hsd : twScale td.tw = 0)
    (hu : e.unify [⟨0, ta.tw, .any, .sym 0, .oneOf [0, 1, 2, 3, 4, 5],
        if 2 < twRank ta.tw then .oneOf [0] else .any,
        ([.sym 0, .sym 1, .sym 2, .sym 3] : List ECell).take (twRank ta.tw)⟩,
      ⟨4, td.tw, .oneOf [twRank ta.tw], .sym 0, .oneOf [0, 1, 2, 3, 4, 5],
        if twRank ta.tw = 2 then .oneOf [swapScale (twScale ta.tw)] else .any,
        swapLast (([.sym 0, .sym 1, .sym 2, .sym 3] : List ECell).take (twRank ta.tw))⟩] = .ok u)
    (hc : e.CopyReady u (some (ta.tw, ta.desc)) (td.tw, td.desc) (some src) out) :
    e.transpose f = .ok (e.copyIssued u (some src) out (td.tw, td.desc) f.dst (engFlag f.imm)
      (.rearrange .transpose src out)) := by
  have honly : ¬ transposeOnly ta.tw td.tw = true := by
    simpa [transposeOnly, hd] using hflat
  unfold Env.transpose Env.srcT
  dsimp only
  rw [hta, htd, if_neg hd, bind_ok hform]
  exact (bind_ok hu _).trans ((if_neg honly).trans ((bind_ok (Env.plainScale_ok hsa hsd) _).trans (Env.copyJob_ready hc)))

theorem Env.windowExpand_issued {a : Quad × Word} {w : BitVec 16} {p : Nat} {v : Uni} (hform : e.formAD a.1 d.1 = .ok ())
    (hd : twRank d.1 ≠ 0)
    (hv : e.unify [⟨0, a.1, .oneOf [2], .sym 0, .oneOf [0], .any, []⟩, ⟨4, d.1, .oneOf [2], .sym 0, .oneOf [6], .any, []⟩] = .ok v)
    (hconst : e.constant [(0, a.1)] v = .ok ()) (hp : windowsOf w ((e.extents a.1).getD 0 0) = p) (h1 : 1 ≤ p)
    (hu : e.unify [⟨0, a.1, .oneOf [2], .sym 0, .oneOf [0], .any, []⟩, ⟨4, d.1, .oneOf [2], .sym 0, .oneOf [6], .any,
      [.lit p, .lit ((wparOf w).1 * (e.extents a.1).getD 1 0)]⟩] = .ok u)
    (hc : e.CopyReady u (some a) d (some src) out) :
    e.windowExpand a d (some dst) flag w = .ok (e.copyIssued u (some src) out d dst flag (.window src out w)) := by
  have hpart := Env.unifyPart_of_unify hv
  unfold Env.windowExpand
  dsimp only
  rw [TRow.filled_of_rank hd, bind_ok (Env.blockIf_false hc.room), bind_ok hform, bind_ok hpart, bind_ok hconst, hp,
    bind_ok (stopIf_false (decide_eq_false (by omega))), Int.toNat_natCast, bind_ok hu]
  exact Env.copyJob_ready hc

end

/-- Settles O31: each reaches one copy job, which `Env.copyJob_ready` issues. -/
theorem tileCopyCommands : Obligations.TileCopyCommands := by
  refine fun h f s => ⟨?typed, fun v u out r hv hb hd hu hc => ?fill, fun b p u v src out r hb hform hd hv hconst hp h1 hu hc => ?window,
    fun u src out r hform hd hne hu hc => ?cast, fun u v src out r hform hd hu hconst hbind hcount honly ha hs hc => ?reshape,
    fun u src out r hform hd hflat ha hs hu hc => ?transpose,
    fun b c r hb hc u src out hform hr hu hvar h1 hin hdesc ha ht hready => ?slice,
    fun f r u src out hform hr hu hvar h1 hin hdesc ha ht hready => ?sliceI⟩
  case typed =>
    simp only [List.forall_mem_cons, List.not_mem_nil, false_imp_iff, implies_true, and_true]
    and_intros <;> exact fun u src out r hform hd hu hc => runSlot_ready r (Env.typedCopy_issued hform hd hu hc)
  case fill =>
    exact runSlot_ready r ((bind_ok hv _).trans ((bind_ok (Env.blockIf_false hc.room) _).trans ((bind_ok (Env.wellFormed_ok hb) _).trans
      ((bind_ok (Env.nonEmpty_ok hd) _).trans ((bind_ok hu _).trans (Env.copyJob_fill hc))))))
  case window => exact runSlot_ready r ((bind_ok hb _).trans (Env.windowExpand_issued hform hd hv hconst hp h1 hu hc))
  case cast =>
    have honly : ¬ castOnly ((s.env .mt h).x.tReg f.sa.toNat).tw ((s.env .mt h).x.tReg f.dst.toNat).tw = true := by
      simpa [castOnly] using hne
    exact runSlot_ready r (Env.copyWait_ok ((Env.cast_unified rfl rfl hform hd hu).trans ((if_neg honly).trans (Env.copyJob_ready hc))))
  case reshape =>
    exact runSlot_ready r (Env.copyWait_ok ((Env.reshape_only rfl rfl r.plain hform hd hu hconst hbind hcount).trans
      ((if_neg (by rw [honly]; decide)).trans ((bind_ok (Env.plainScale_ok ha hs) _).trans (Env.copyJob_ready hc)))))
  case transpose => exact runSlot_ready r (Env.copyWait_ok (Env.transpose_copies rfl rfl hform hd hflat ha hs hu hc))
  case slice =>
    exact runSlot_ready r ((bind_ok hb _).trans ((bind_ok hc _).trans (Env.copyWait_ok ((Env.sliceBody_unified rfl hform hr hu hvar h1 hin).trans
      (by rw [hdesc]; exact (bind_ok (Env.plainScale_ok ha ht) _).trans (Env.copyJob_ready hready))))))
  case sliceI =>
    exact runSlot_ready r (Env.copyWait_ok ((Env.sliceBody_unified rfl hform hr hu hvar h1 hin).trans
      (by rw [hdesc]; exact (bind_ok (Env.plainScale_ok ha ht) _).trans (Env.copyJob_ready hready))))

end Sys2Proof.Machine
end

section
/-!
PROOFS. Loads, stores and atomics as they issue (R98, R103, R281, R403 to R415, R418).
-/

namespace Sys2Proof.Machine

/-- Checks that pass do so whatever the access might have waited for. -/
theorem orWait_ok {α : Type} {w : Except Stop Unit} {r : Except Stop α} {a : α} (h : r = .ok a) : orWait w r = .ok a := by
  subst h
  rfl

/-- A fault that nothing is waited for stands. -/
theorem orWait_trap {α : Type} {w : Except Stop Unit} {r : Except Stop α} {p : Stop} (hw : w = .ok ()) (h : r = .error p) :
    orWait w r = .error p := by
  subst hw h
  cases p <;> rfl

theorem ldUnits_places (n : Nat) (os : List Int) : (os.map fun o => ldUnit (o.toNat, n)).map (fun u => (u.off, u.len)) =
    (os.map fun o => (o, n)).map (fun u : Int × Nat => (u.1.toNat, u.2)) := by
  rw [List.map_map, List.map_map]
  rfl

/-- A unit for each lane of a scatter (R411). -/
theorem scatter_places (w : Nat) (d : Row) (ls : List Nat) (g : Nat → Int) :
    ((ls.zip (ls.map g)).map fun p => (⟨p.2.toNat, w / 8, bytesOf (w / 8) (lane d w p.1), allBytes, false⟩ : MUnit)).map
      (fun u => (u.off, u.len)) = ((ls.map g).map fun o => (o, w / 8)).map (fun u : Int × Nat => (u.1.toNat, u.2)) := by
  rw [← List.map_prod_left_eq_zip, List.map_map, List.map_map, List.map_map, List.map_map]
  rfl

/-- An operand that is read under a condition only. -/
theorem ite_bind_ok {α β : Type} {p : Prop} [Decidable p] {x : Except Stop α} {v d : α} {g : α → Except Stop β}
    (h : if p then x = .ok v else v = d) : (if p then x >>= g else (pure d : Except Stop α) >>= g) = g v := by
  split at h
  case isTrue hp => rw [if_pos hp, bind_ok h]
  case isFalse hp =>
    rw [if_neg hp, h]
    rfl

section
variable {e : Env} {c : Cap} {need : BitVec 8} {write : Bool} {areg acc n : Nat} {o : Int}

/-- The checks of one unit. -/
theorem Env.Reaches.unit (h : e.Reaches c need write [(o, n)]) :
    (capCheck areg acc c need o n >>= fun _ => e.objCheck areg acc c o n write) = .ok () :=
  (bind_ok (capCheck_ok (h.allows _ (.head _))) _).trans (objCheck_ok (fun w hw => h.inside w hw _ (.head _)) h.writable)

theorem Env.Reaches.units {os : List Int} (h : e.Reaches c need write (os.map (fun o => (o, n)))) :
    e.checkUnits areg acc c need write n os = .ok () :=
  checkUnits_ok h.allows h.inside h.writable

/-- An access whose units pass their checks enters the port. -/
theorem Env.Reaches.start {kind : AccKind} {l : List (Int × Nat)} {us : List MUnit} (h : e.Reaches c need kind.writes l)
    (hu : us.map (fun u => (u.off, u.len)) = l.map (fun u => (u.1.toNat, u.2))) {d : Option Dest} :
    e.start kind d areg c us = .ok (e.accessed kind d areg c us) := by
  refine start_ok fun w hw => ?_
  have hmap := congrArg (List.map fun p : Nat × Nat => (w.base + p.1, p.2)) hu
  rw [List.map_map, List.map_map] at hmap
  exact (congrArg (e.overlaps kind.writes) hmap).trans (h.alone w hw)

variable {sa : BitVec 9} {eo : Cap → Int}

theorem Env.load1_ok {cls : Cls} {dst : BitVec 9} {kind : AccKind} (hk : kind.writes = false) (ha : e.srcA sa = .ok c)
    (h : e.Reaches c rR false [(unitOf (eo c) n, n)]) : e.load1 cls dst sa eo n kind =
      .ok (e.accessed kind (some (e.dest cls dst)) (aIndex sa) c [ldUnit ((unitOf (eo c) n).toNat, n)]) :=
  (bind_ok ha _).trans ((bind_ok (orWait_ok h.unit) _).trans (Env.Reaches.start (hk.symm ▸ h) rfl))

theorem Env.store1_ok {d : Row} {en : Quad} (ha : e.srcA sa = .ok c) (h : e.Reaches c rW true [(unitOf (eo c) n, n)]) :
    e.store1 sa eo n d en = .ok (e.accessed .store none (aIndex sa) c [⟨(unitOf (eo c) n).toNat, n, (rowBytes d).take n, en, false⟩]) :=
  (bind_ok ha _).trans ((bind_ok (orWait_ok h.unit) _).trans (Env.Reaches.start (kind := .store) h rfl))

theorem Env.ldScale_ok {dst : BitVec 9} {old : Row} {os : Cap → List Int} (hv : e.srcV dst = .ok old) (ha : e.srcA sa = .ok c)
    (h : e.Reaches c rR false ((os c).map (fun o => (o, n)))) : e.ldScale dst sa n os =
      .ok (e.accessed (.ldScale (e.h.fmt.getLsbD 0) old) (some (e.dest .v dst)) (aIndex sa) c ((os c).map (fun o => ldUnit (o.toNat, n)))) :=
  (bind_ok hv _).trans ((bind_ok ha _).trans ((bind_ok (orWait_ok h.units) _).trans
    (Env.Reaches.start (kind := .ldScale _ _) h (ldUnits_places ..))))

/-- The operation's third operand is read by ACAS alone (R418). -/
theorem Env.atomic_ok {f : RFmt} {op : AtomOp} {b v : Word} (hb : e.srcS f.sb = .ok b)
    (hv : if op = .cas then e.srcS f.sc = .ok v else v = 0) (ha : e.srcA f.sa = .ok c)
    (h : e.Reaches c (rR ||| rW) true [(unitOf (c.off + f.imm.toInt) (if e.h.fmt = 0 then 4 else 8), if e.h.fmt = 0 then 4 else 8)]) :
    e.atomic f op = .ok (e.accessed (.atomic op (8 * if e.h.fmt = 0 then 4 else 8) b v) (some (e.dest .s f.dst)) (aIndex f.sa) c
      [ldUnit ((unitOf (c.off + f.imm.toInt) (if e.h.fmt = 0 then 4 else 8)).toNat, if e.h.fmt = 0 then 4 else 8)]) :=
  (bind_ok hb _).trans ((ite_bind_ok hv).trans ((bind_ok ha _).trans ((bind_ok (orWait_ok h.unit) _).trans
    (Env.Reaches.start (kind := .atomic _ _ _ _) h rfl))))

end

/-- Settles O33: the units' checks, then the port. -/
theorem loadsIssue : Obligations.LoadsIssue := by
  refine fun h s => ⟨?disp, ?index, fun f c idx r ha hi reach => ?gather, fun f c old r hv ha reach => ?scale,
    fun f c b t old r hv ha hb ht reach => ?strided⟩
  case disp =>
    simp only [List.forall_mem_cons, List.not_mem_nil, false_imp_iff, implies_true, and_true]
    and_intros <;> exact fun f c r ha reach => runSlot_ready r (Env.load1_ok (eo := eoDisp f) rfl ha reach)
  case index =>
    simp only [List.forall_mem_cons, List.not_mem_nil, false_imp_iff, implies_true, and_true]
    and_intros <;> exact fun f c i r ha hi reach =>
      runSlot_ready r ((bind_ok hi _).trans (Env.load1_ok (eo := eoIndex i (shOf f)) rfl ha reach))
  case gather =>
    exact runSlot_ready r ((bind_ok ha _).trans ((bind_ok hi _).trans ((bind_ok (orWait_ok reach.units) _).trans
      (Env.Reaches.start (kind := .gather _ _) reach (ldUnits_places ..)))))
  case scale => exact runSlot_ready r (Env.ldScale_ok (os := fun c => [unitOf (eoDisp f c) 64]) hv ha reach)
  case strided =>
    exact runSlot_ready r ((bind_ok hb _).trans ((bind_ok ht _).trans (Env.ldScale_ok
      (os := fun c => (List.range 64).map (fun i => c.off + b.toInt + (i * fld t 0 16 : Nat))) hv ha reach)))

/-- Settles O34: the units' checks, then the port with the data read at issue. -/
theorem storesIssue : Obligations.StoresIssue := by
  refine fun h s => ⟨?disp, ?index, fun f c d r hd ha reach => ?row, ?rowIndex, fun f c idx d r ha hi hd reach => ?scatter,
    fun f d c r hd ha hg reach => ?capability, ?atomics⟩
  case disp =>
    simp only [List.forall_mem_cons, List.not_mem_nil, false_imp_iff, implies_true, and_true]
    and_intros <;> exact fun f c d r hd ha reach => runSlot_ready r ((bind_ok hd _).trans (Env.store1_ok (eo := eoDisp f) ha reach))
  case index =>
    simp only [List.forall_mem_cons, List.not_mem_nil, false_imp_iff, implies_true, and_true]
    and_intros <;> exact fun f c i d r hi hd ha reach =>
      runSlot_ready r ((bind_ok hi _).trans ((bind_ok hd _).trans (Env.store1_ok (eo := eoIndex i (shOf f)) ha reach)))
  case row => exact runSlot_ready r ((bind_ok hd _).trans (Env.store1_ok (eo := eoDisp f) ha reach))
  case rowIndex =>
    simp only [List.forall_mem_cons, List.not_mem_nil, false_imp_iff, implies_true, and_true]
    and_intros <;> exact fun f c i d r hi hd ha reach =>
      runSlot_ready r ((bind_ok hi _).trans ((bind_ok hd _).trans (Env.store1_ok (eo := eoIndex i (shOf f)) ha reach)))
  case scatter =>
    exact runSlot_ready r ((bind_ok ha _).trans ((bind_ok hi _).trans ((bind_ok hd _).trans ((bind_ok (orWait_ok reach.units) _).trans
      (Env.Reaches.start (kind := .store) reach (scatter_places ..))))))
  case capability =>
    have hgrant : (d.valid && decide (d.rights &&& rG = 0)) = false :=
      Bool.and_eq_false_imp.mpr fun hv => decide_eq_false (hg hv)
    have hchecks : (do
        capCheck (aIndex f.ab) 4 c (if d.valid then rW ||| rScap else rW) (unitOf (eoDisp f c) 16) 16
        stopIf (d.valid && d.rights &&& rG = 0) (.trap .capRights (capValue (aIndex f.dt) 4 0x80 (unitOf (eoDisp f c) 16)))
        (s.env .st h).objCheck (aIndex f.ab) 4 c (unitOf (eoDisp f c) 16) 16 true) = .ok () :=
      (bind_ok (capCheck_ok (reach.allows _ (.head _))) _).trans ((bind_ok (stopIf_false hgrant) _).trans
        (objCheck_ok (fun w hw => reach.inside w hw _ (.head _)) reach.writable))
    exact runSlot_ready r ((bind_ok hd _).trans ((bind_ok ha _).trans ((bind_ok (orWait_ok hchecks) _).trans
      (Env.Reaches.start (kind := .stCap) reach rfl))))
  case atomics =>
    simp only [List.forall_mem_cons, List.not_mem_nil, false_imp_iff, implies_true, and_true]
    and_intros <;> exact fun f c b v r hb hv ha reach => runSlot_ready r (Env.atomic_ok hb hv ha reach)

/-! ### Accesses that trap (R98, R181, R281, R405) -/

/-- The right that one bit names is there or lacks. -/
theorem one_right {need : BitVec 8} (hneed : need = 1 ∨ need = 2) (rights : BitVec 8) :
    (rights &&& need = 0 → need &&& ~~~rights = need) ∧ (rights &&& need ≠ 0 → need &&& ~~~rights = 0) := by
  rcases hneed with rfl | rfl <;> revert rights <;> decide

/-- A unit that meets no live job is not waited for. -/
theorem Env.overlapWait_free {e : Env} {c : Cap} {store : Bool} {o : Int} {n : Nat}
    (h : c.valid = true → ∀ w, e.objOf c = some w → e.overlaps store [(((w.base : Int) + o).toNat, n)] = false) :
    e.overlapWait store c [(o, n)] = .ok () := by
  unfold Env.overlapWait
  split
  case h_1 w hw => exact Env.blockIf_false (Bool.and_eq_false_imp.mpr fun hv => h hv w hw)
  case h_2 => rfl

/-- Settles O56: the capability's checks in their order, once nothing is waited for. -/
theorem accessChecksTrap : Obligations.AccessChecksTrap := by
  intro h f s c d
  have load : ∀ {p : Stop}, (s.env .ld h).srcA f.ab = .ok c → (s.env .ld h).overlapWait false c [(unitOf (eoDisp f c) 8, 8)] = .ok () →
      capCheck (aIndex f.ab) 0 c rR (unitOf (eoDisp f c) 8) 8 = .error p → (s.env .ld h).ldDisp f 8 false = .error p :=
    fun ha hw hp => (bind_ok ha _).trans (bind_error (orWait_trap hw (bind_error hp _)) _)
  have store : ∀ {p : Stop}, (s.env .st h).srcS f.dt = .ok d → (s.env .st h).srcA f.ab = .ok c →
      (s.env .st h).overlapWait true c [(unitOf (eoDisp f c) 8, 8)] = .ok () →
      capCheck (aIndex f.ab) 1 c rW (unitOf (eoDisp f c) 8) 8 = .error p → (s.env .st h).stDisp f 8 = .error p :=
    fun hd ha hw hp => (bind_ok hd _).trans ((bind_ok ha _).trans (bind_error (orWait_trap hw (bind_error hp _)) _))
  have lacks {need : BitVec 8} (hn : need = 1 ∨ need = 2) (hv : c.valid = true) (hr : c.rights &&& need = 0) (acc : Nat) :
      capCheck (aIndex f.ab) acc c need (unitOf (eoDisp f c) 8) 8 =
        .error (.trap .capRights (capValue (aIndex f.ab) acc need.toNat (unitOf (eoDisp f c) 8))) := by
    have hmiss := (one_right hn c.rights).1 hr
    rw [capCheck_rights hv (by rw [hmiss]; rcases hn with rfl | rfl <;> decide), hmiss]
  simp only [List.forall_mem_cons, List.not_mem_nil, false_imp_iff, implies_true, and_true]
  refine ⟨fun r hd ha => ⟨fun hv => ?_, fun hv free hr => ?_, fun hv free hr ho => ?_⟩,
    fun r hd ha => ⟨fun hv => ?_, fun hv free hr => ?_, fun hv free hr ho => ?_⟩⟩
  · exact runSlot_traps r (load ha (Env.overlapWait_free fun h => absurd h (by rw [hv]; decide)) (capCheck_tag hv))
  · exact runSlot_traps r (load ha (Env.overlapWait_free fun _ => free) (lacks (.inl rfl) hv hr 0))
  · exact runSlot_traps r (load ha (Env.overlapWait_free fun _ => free)
      (capCheck_bounds hv ((one_right (.inl rfl) c.rights).2 hr) (by decide) ho))
  · exact runSlot_traps r (store hd ha (Env.overlapWait_free fun h => absurd h (by rw [hv]; decide)) (capCheck_tag hv))
  · exact runSlot_traps r (store hd ha (Env.overlapWait_free fun _ => free) (lacks (.inr rfl) hv hr 1))
  · exact runSlot_traps r (store hd ha (Env.overlapWait_free fun _ => free)
      (capCheck_bounds hv ((one_right (.inr rfl) c.rights).2 hr) (by decide) ho))

end Sys2Proof.Machine
end

section
/-!
PROOFS. Typed accesses, rinks and load blocks as they issue (R194 to R197, R413, R414, R416, R417).
-/

namespace Sys2Proof.Machine

section
variable {e : Env} {c : Cap} {dt sa : BitVec 9} {eo : Cap → Int}

theorem Env.asked_ok (ha : e.s.iss.ask = .issue) (u : Except Stop Uni) : e.asked u = .ok () := if_neg (by rw [ha]; decide)

/-- A typed load whose object has an entry: a unit for each row of the image. -/
theorem Env.loadTile_checked {t : TileReg} (ht : e.x.tReg dt.toNat = t)
    {w : ObjEntry} {u : Uni} {tw : Quad} (hask : e.s.iss.ask = .issue) (ha : e.srcA sa = .ok c)
    (hc : c.Allows (rR ||| rT) (unitOf (eo c) 128) 0) (hd : e.dimPending (twVars t.tw) = false)
    (hw : e.objOf c = some w) (hcheck : e.typedCheck 4 (aIndex sa) false c (unitOf (eo c) 128) t.tw t.desc w = .ok (u, tw))
    (hfree : e.overlaps false ((typedUnits tw w.pitch (unitOf (eo c) 128).toNat none).map (fun p => (w.base + p.1, p.2))) = false)
    (hrows : e.rowCheck [] (e.descRows t.desc (imageRows tw (twExts tw))) = .ok ()) :
    e.loadTile dt sa eo = .ok (e.putAccess (e.retT (e.bind u e.s) dt t.tw t.desc)
      (.ldTile tw t.desc (e.descRows t.desc (imageRows tw (twExts tw))))
      (some ⟨.t, dt.toNat, e.descRows t.desc (imageRows tw (twExts tw)), [], [], false⟩) (aIndex sa) c (unitOf (eo c) 128)
      ((typedUnits tw w.pitch (unitOf (eo c) 128).toNat none).map ldUnit) true) := by
  unfold Env.loadTile Env.srcT
  dsimp only
  rw [ht, bind_ok ha, bind_ok (Env.asked_ok hask _), bind_ok (orWait_ok (capCheck_ok hc)), bind_ok (Env.blockIf_false hd), hw]
  exact (bind_ok (orWait_ok hcheck) _).trans ((bind_ok (Env.blockIf_false hfree) _).trans (bind_ok hrows _))

/-- A typed load that waits for its object's entry holds what the checks to come may need. -/
theorem Env.loadTile_unknown {t : TileReg} (ht : e.x.tReg dt.toNat = t)
    (hask : e.s.iss.ask = .issue) (ha : e.srcA sa = .ok c)
    (hc : c.Allows (rR ||| rT) (unitOf (eo c) 128) 0) (hd : e.dimPending (twVars t.tw) = false) (hw : e.objOf c = none)
    (hrows : e.rowCheck [] (e.descRows t.desc (dCount t.desc)) = .ok ()) :
    e.loadTile dt sa eo = .ok (e.putAccess e.s (.ldTile t.tw t.desc
        (e.descRows t.desc (dCount t.desc)))
      (some ⟨.t, dt.toNat, e.descRows t.desc (dCount t.desc), [(.t, dt.toNat)],
        twVars t.tw, true⟩) (aIndex sa) c (unitOf (eo c) 128) [] false) := by
  unfold Env.loadTile Env.srcT
  dsimp only
  rw [ht, bind_ok ha, bind_ok (Env.asked_ok hask _), bind_ok (orWait_ok (capCheck_ok hc)), bind_ok (Env.blockIf_false hd), hw]
  exact bind_ok hrows _

theorem Env.storeTile_checked {t : TileReg} (ht : e.x.tReg dt.toNat = t)
    {w : ObjEntry} {u : Uni} {tw : Quad} (hask : e.s.iss.ask = .issue) (ha : e.srcA sa = .ok c)
    (hc : c.Allows (rW ||| rT) (unitOf (eo c) 128) 0) (hd : e.dimPending (twVars t.tw) = false)
    (hw : e.objOf c = some w) (hcheck : e.typedCheck 0 (aIndex sa) true c (unitOf (eo c) 128) t.tw t.desc w = .ok (u, tw))
    (hrows : e.rowCheck (e.descRows t.desc (imageRows tw (twExts tw))) [] = .ok ())
    (hfree : e.overlaps true ((typedStoreUnits tw w.pitch (unitOf (eo c) 128).toNat
      ((e.descRows t.desc (imageRows tw (twExts tw))).map e.core.row)).map (fun p => (w.base + p.off, p.len))) = false) :
    e.storeTile dt sa eo = .ok (e.putAccess (e.bind u e.s)
      (.stTile tw t.desc ((e.descRows t.desc (imageRows tw (twExts tw))).map e.core.row)) none (aIndex sa) c
      (unitOf (eo c) 128) (typedStoreUnits tw w.pitch (unitOf (eo c) 128).toNat
        ((e.descRows t.desc (imageRows tw (twExts tw))).map e.core.row)) true) := by
  unfold Env.storeTile Env.srcT
  dsimp only
  rw [ht, bind_ok ha, bind_ok (Env.asked_ok hask _), bind_ok (orWait_ok (capCheck_ok hc)), bind_ok (Env.blockIf_false hd), hw]
  exact (bind_ok (orWait_ok hcheck) _).trans ((bind_ok (orWait_ok hrows) _).trans (bind_ok (Env.blockIf_false hfree) _))

theorem Env.storeTile_unknown {t : TileReg} (ht : e.x.tReg dt.toNat = t)
    (hask : e.s.iss.ask = .issue) (ha : e.srcA sa = .ok c)
    (hc : c.Allows (rW ||| rT) (unitOf (eo c) 128) 0) (hd : e.dimPending (twVars t.tw) = false) (hw : e.objOf c = none)
    (hrows : e.rowCheck (e.descRows t.desc (dCount t.desc)) [] = .ok ()) :
    e.storeTile dt sa eo = .ok (e.putAccess e.s (.stTile t.tw t.desc
        ((e.descRows t.desc (dCount t.desc)).map e.core.row))
      (some ⟨.t, dt.toNat, [], [(.t, dt.toNat)], twVars t.tw, false⟩) (aIndex sa) c (unitOf (eo c) 128) [] false) := by
  unfold Env.storeTile Env.srcT
  dsimp only
  rw [ht, bind_ok ha, bind_ok (Env.asked_ok hask _), bind_ok (orWait_ok (capCheck_ok hc)), bind_ok (Env.blockIf_false hd), hw]
  exact bind_ok hrows _

end

/-! ### A landing result leaves the others in flight -/

theorem Ctx.setS_flight (x : Ctx) (n : Nat) (v : Word) : (x.setS n v).flight = x.flight := by
  unfold Ctx.setS
  split <;> rfl

theorem Ctx.setP_flight (x : Ctx) (n : Nat) (v : Bool) : (x.setP n v).flight = x.flight := by
  unfold Ctx.setP
  split <;> rfl

theorem Ctx.writeReg_flight (x : Ctx) (cls : Cls) (n : Nat) (v : Row) (m : Quad) : (x.writeReg cls n v m).flight = x.flight := by
  obtain ⟨e, he⟩ := x.written_eq n cls m
  unfold Ctx.writeReg
  rw [he]
  cases cls with
  | s => exact Ctx.setS_flight ..
  | p => exact Ctx.setP_flight ..
  | _ => rfl

theorem Ctx.pendCause_flight (x : Ctx) (c : Cause) (v : Word) : (x.pendCause c v).flight = x.flight := by
  unfold Ctx.pendCause
  split <;> rfl

theorem Core.setCtx_flight {c : Core} {k : Nat} {x : Ctx} (h : x.flight = (c.ctx k).flight) (j : Nat) :
    ((c.setCtx k x).ctx j).flight = (c.ctx j).flight := by
  by_cases hj : j = k
  · rw [hj, Core.ctx_setCtx_same, h]
  · rw [Core.ctx_setCtx_other _ _ hj]

theorem Core.putBack_flight (l : List AcmCopy) (c : Core) (j : Nat) : ((c.putBack l).ctx j).flight = (c.ctx j).flight := by
  unfold Core.putBack
  refine List.foldlRecOn (motive := fun d : Core => (d.ctx j).flight = (c.ctx j).flight) _ _ rfl fun d hd w _ => ?_
  dsimp only
  split
  · exact hd
  · exact (Core.setCtx_flight (Ctx.pendCause_flight ..) j).trans hd

theorem Core.addBins_flight (x : Ctx) (row : Nat) (l : List (Nat × BitVec 32)) (c : Core) (j : Nat) :
    ((c.addBins x row l).1.ctx j).flight = (c.ctx j).flight := by
  induction l generalizing c with
  | nil => rfl
  | cons p t ih => exact (ih _).trans rfl

theorem Core.landPay_flight (c : Core) (k : Nat) (p : Payload) (j : Nat) : ((c.landPay k p).1.ctx j).flight = (c.ctx j).flight := by
  cases p with
  | none => rfl
  | row => rfl
  | reg => exact Core.setCtx_flight (Ctx.writeReg_flight ..) j
  | sys => exact Core.setCtx_flight (by split <;> rfl) j
  | acm => exact Core.putBack_flight ..
  | bins => exact Core.addBins_flight ..
  | _ => exact Core.setCtx_flight (by rfl) j

theorem State.seen_flight (s : State) (ci k : Nat) (slot : Slot) (j : Nat) :
    ((s.seen ci k slot).ctx j).flight = ((s.core ci).ctx j).flight := by
  unfold State.seen
  refine List.foldlRecOn (motive := fun d : Core => (d.ctx j).flight = ((s.core ci).ctx j).flight) _ _ rfl fun d hd p _ => ?_
  split_ifs
  · exact (d.landPay_flight k _ j).trans hd
  · exact hd

/-! ### Rinks and load blocks -/

/-- A change of a context leaves its core's rinks. -/
theorem State.rinks_modCtx (s : State) (n k : Nat) (f : Ctx → Ctx) (m : Nat) : ((s.modCtx n k f).core m).rinks = (s.core m).rinks := by
  obtain ⟨ctxs, h⟩ := s.core_modCtx_eq n k f m
  rw [h]

theorem State.core_setVerdict (s : State) (v : Verdict) (n : Nat) : (s.setVerdict v).core n = s.core n := rfl

theorem State.core_iss (s : State) (i : Issue) (n : Nat) : ({ s with iss := i } : State).core n = s.core n := rfl

/-- A pop: the rink has moved on, and the row that stood at its head is in flight (R416). -/
theorem State.popped_rink (s : State) (ci k n : Nat) (r : Rink) (f g : Ctx → Ctx) (v : Verdict) :
    (((((s.modCore ci (fun c => c.setRink n r)).modCtx ci k f).modCtx ci k g).setVerdict v).core ci).rink n = r := by
  rw [State.core_setVerdict, Core.rink, State.rinks_modCtx, State.rinks_modCtx, State.core_modCore_same]
  exact SMap.get_set_same ..

@[inherit_doc State.popped_rink]
theorem State.popped_flight (s : State) (ci k n : Nat) (r : Rink) (p : Pending) (q : Result) (v : Verdict) :
    (((((s.modCore ci (fun c => c.setRink n r)).modCtx ci k (fun x => { x with pend := x.pend ++ [p] })).fly ci k q).setVerdict v).ctx
      ci k).flight = (s.ctx ci k).flight ++ [q] := by
  rw [State.ctx, State.core_setVerdict, ← State.ctx, State.fly, State.ctx_modCtx_same, State.ctx_modCtx_same, State.ctx,
    State.core_modCore_same]
  rfl

theorem mergeRow_allBytes (old new : Row) : mergeRow allBytes old new = new := by
  have hmask : byteMask allBytes = BitVec.allOnes 1024 := BitVec.eq_of_getLsbD_eq fun i hi => by
    rw [← Nat.div_add_mod i 8, byteMask_getLsbD allBytes (by omega) (Nat.mod_lt _ (by decide)), allBytes, BitVec.getLsbD_allOnes,
      BitVec.getLsbD_allOnes, decide_eq_true (by omega), decide_eq_true (by omega)]
  rw [mergeRow, hmask, BitVec.not_allOnes, BitVec.and_zero, BitVec.zero_or, BitVec.and_allOnes]

theorem Core.row_writeRow (c : Core) (n : Nat) (v : Row) : (c.writeRow n v allBytes).row n = v :=
  (SMap.get_set_same ..).trans (mergeRow_allBytes ..)

/-- A push: the row stands in the tail slot, which is filled (R416). -/
theorem Core.pushed (c : Core) (k n : Nat) (r : Rink) (v : Row) : ((c.writeRow n v allBytes).setRink k r).row n = v ∧
    ((c.writeRow n v allBytes).setRink k r).rink k = r :=
  ⟨Core.row_writeRow .., SMap.get_set_same ..⟩

/-- A declared load block (R417). -/
theorem State.declared (s : State) (ci id : Nat) (b : LoadBlock) (v : Verdict) :
    SMap.get LoadBlock.init (((s.modCore ci (fun c => { c with lbs := SMap.set LoadBlock.init c.lbs id b })).setVerdict v).core ci).lbs id = b := by
  rw [State.core_setVerdict, State.core_modCore_same]
  exact SMap.get_set_same ..

/-- Settles O35: the checks of each in their order, then its effect. -/
theorem typedAccessesIssue : Obligations.TypedAccessesIssue := by
  refine ⟨fun h s => ⟨fun f c ha r hc hd => ⟨fun w u tw hw hcheck hfree hrows => ?load, fun hw hrows => ?loadUnknown⟩,
      fun f c i ha hi r hc hd => ⟨fun w u tw hw hcheck hfree hrows => ?loadX, fun hw hrows => ?loadXUnknown⟩,
      fun f c ha r hc hd => ⟨fun w u tw hw hcheck hrows hfree => ?store, fun hw hrows => ?storeUnknown⟩,
      fun f c i ha hi r hc hd => ⟨fun w u tw hw hcheck hrows hfree => ?storeX, fun hw hrows => ?storeXUnknown⟩⟩,
    fun h s => ⟨fun f r => ⟨fun hdef => ?undefined, fun hdef hempty => ?empty, fun hdef hfull hrow => ?pop⟩,
      fun f v r hv => ⟨fun hdef hsrc hfull => ?full, fun hdef hsrc hroom hrow => ?push⟩,
      fun f r => ⟨fun hn => ?release, fun c o hn ha ho hc hw => ?declare⟩⟩⟩
  case load => exact runSlot_ready r (Env.loadTile_checked (eo := eoDisp f) rfl r.plain ha hc hd hw hcheck hfree hrows)
  case loadUnknown => exact runSlot_ready r (Env.loadTile_unknown (eo := eoDisp f) rfl r.plain ha hc hd hw hrows)
  case loadX =>
    exact runSlot_ready r ((bind_ok hi _).trans (Env.loadTile_checked (eo := eoIndex i (shOf f)) rfl r.plain ha hc hd hw hcheck hfree hrows))
  case loadXUnknown => exact runSlot_ready r ((bind_ok hi _).trans (Env.loadTile_unknown (eo := eoIndex i (shOf f)) rfl r.plain ha hc hd hw hrows))
  case store => exact runSlot_ready r (Env.storeTile_checked (eo := eoDisp f) rfl r.plain ha hc hd hw hcheck hrows hfree)
  case storeUnknown => exact runSlot_ready r (Env.storeTile_unknown (eo := eoDisp f) rfl r.plain ha hc hd hw hrows)
  case storeX =>
    exact runSlot_ready r ((bind_ok hi _).trans (Env.storeTile_checked (eo := eoIndex i (shOf f)) rfl r.plain ha hc hd hw hcheck hrows hfree))
  case storeXUnknown => exact runSlot_ready r ((bind_ok hi _).trans (Env.storeTile_unknown (eo := eoIndex i (shOf f)) rfl r.plain ha hc hd hw hrows))
  case undefined => exact runSlot_traps r (bind_error (stopIf_true (congrArg not hdef)) _)
  case empty =>
    exact runSlot_blocks r ((bind_ok (stopIf_false (congrArg not hdef)) _).trans (bind_error (Env.blockIf_true r.plain (decide_eq_true hempty)) _))
  case pop =>
    refine ⟨_, runSlot_ready r ((bind_ok (stopIf_false (congrArg not hdef)) _).trans
      ((bind_ok (Env.blockIf_false (decide_eq_false hfull)) _).trans (bind_ok hrow _))), ?_, rfl, ?_⟩
    · exact State.popped_rink ..
    · refine ⟨_, (State.popped_flight ..).trans (congrArg (· ++ [_]) ?_), ?_⟩
      · exact (s.seen_flight ..).symm
      · exact ⟨rfl, rfl, rfl⟩
  case full =>
    exact runSlot_blocks r ((bind_ok hv _).trans ((bind_ok (stopIf_false (congrArg not hdef)) _).trans
      (bind_error (Env.blockIf_true r.plain (decide_eq_true hfull)) _)))
  case push =>
    refine ⟨_, runSlot_ready r ((bind_ok hv _).trans ((bind_ok (stopIf_false (congrArg not hdef)) _).trans
      ((bind_ok (Env.blockIf_false (decide_eq_false hroom)) _).trans ((bind_ok hrow _).trans (bind_ok (stopIf_false hsrc) _))))), ?_, rfl, ?_⟩
    · rw [State.core_setVerdict, State.core_iss, show (s.env .st h).ci = s.iss.core from rfl, State.core_modCore_same]
      exact (Core.pushed ..).1
    · rw [State.core_setVerdict, State.core_iss, show (s.env .st h).ci = s.iss.core from rfl, State.core_modCore_same]
      exact (Core.pushed ..).2
  case release => exact runSlot_ready r (if_pos hn)
  case declare =>
    subst ho
    refine ⟨_, runSlot_ready r ((if_neg hn).trans ((bind_ok ha _).trans ((bind_ok (capCheck_ok hc) _).trans
      (bind_ok (objCheck_ok (w := false) hw nofun) _)))), rfl, ?_⟩
    exact State.declared ..

end Sys2Proof.Machine
end

section
/-!
PROOFS. Commands to the engines (R421 to R440).
-/

namespace Sys2Proof.Machine

section
variable {e : Env}

theorem Env.mergeRoom_ok (h : e.s.jobCount (e.s.coresWith (fun n => n / 16 = e.ci / 16)) JobKind.isMerge < 16) : e.mergeRoom = .ok () :=
  Env.blockIf_false (decide_eq_false (not_le.mpr h))

/-- A merge command needs the session to be the task's own, but for a status query of an idle one (R422). -/
theorem Env.mergeCheck_own {idle : Bool} (h : (e.s.merge e.ci).st ≠ .idle ∧ (e.s.merge e.ci).task = e.s.taskIdOf e.ci) :
    e.mergeCheck idle = .ok () :=
  stopIf_false (by rw [decide_eq_true h.1, decide_eq_true h.2]; rfl)

theorem Env.mergeCheck_idle (h : (e.s.merge e.ci).st = .idle) : e.mergeCheck true = .ok () :=
  stopIf_false (by rw [decide_eq_true h]; exact Bool.and_false _)

theorem Env.mergeCheck_other (h : ¬ ((e.s.merge e.ci).st ≠ .idle ∧ (e.s.merge e.ci).task = e.s.taskIdOf e.ci)) :
    e.mergeCheck false = .error (engineErr 8 0) :=
  stopIf_true (by rw [← Bool.decide_and, decide_eq_false h]; rfl)

theorem Env.wdRoom_ok (h : ((e.s.ctxJobs e.ci e.k).filter (fun j => JobKind.isWd j.kind)).length < 4) : e.wdRoom = .ok () :=
  Env.blockIf_false (decide_eq_false (not_le.mpr h))

theorem Env.ctxFull_false {n : Nat} {p : JobKind → Bool} (h : ((e.s.ctxJobs e.ci e.k).filter (fun j => p j.kind)).length < n) :
    e.ctxFull n p = false :=
  decide_eq_false (not_le.mpr h)

theorem Env.mpush_ok {f : EFmt} {ending : Bool} {v : Row} {b : Word} (hv : e.srcV f.sa = .ok v) (hb : e.srcS f.sb = .ok b)
    (hroom : e.mergeRoom = .ok ()) (hcheck : e.mergeCheck false = .ok ()) : e.mpush f ending =
      .ok (e.command e.s (.mpush (fld b 0 4) (pushRecs v (f.mod.toNat % 16)) ending) none [] (e.mergeRegions [Merge.spill, Merge.out])) :=
  (bind_ok hv _).trans ((bind_ok hb _).trans ((bind_ok hroom _).trans (bind_ok hcheck _)))

theorem Env.mpush_other {f : EFmt} {ending : Bool} {v : Row} {b : Word} {p : Stop} (hv : e.srcV f.sa = .ok v) (hb : e.srcS f.sb = .ok b)
    (hroom : e.mergeRoom = .ok ()) (hcheck : e.mergeCheck false = .error p) : e.mpush f ending = .error p :=
  (bind_ok hv _).trans ((bind_ok hb _).trans ((bind_ok hroom _).trans (bind_error hcheck _)))

theorem Env.pxCommand_ok {f : EFmt} {opc : Nat} {c : Cap} (hroom : e.s.pxHeld (e.ci / 256) < 64) (hc : e.srcA f.sa = .ok c)
    (ha : e.EngAllows c (rR ||| rW) (unitOf c.off 32) 32) : e.pxCommand f opc =
      .ok (e.command e.s (.px opc (c.withOff (unitOf c.off 32))) (some f.flag) (e.pxRegions opc c (unitOf c.off 32)).1
        (e.pxRegions opc c (unitOf c.off 32)).2) :=
  (bind_ok (Env.blockIf_false (decide_eq_false (not_le.mpr hroom))) _).trans ((bind_ok hc _).trans (bind_ok (engCap_ok ha) _))

/-- A rink definition that leaves the partition, or has no slot, or more than 256 (R426). -/
theorem rinkBad_iff (n row dflen : Nat) : (decide (n = 0) || decide (256 < n) || decide (dflen < row + n)) = true ↔
    n = 0 ∨ 256 < n ∨ dflen < row + n := by
  simp [or_assoc]

end

/-- Settles O38: each takes its operands, passes its checks and is handed over. -/
theorem serviceCommands : Obligations.ServiceCommands := by
  refine fun h f s => ⟨fun v r hv hidle => ⟨fun h1 h2 h3 => ?rink, fun hbad => ?rinkBad⟩, fun c r hroom hc ha => ?mopen, ?mpush,
    fun r hroom hown => ?mclose, ?other, fun r hroom hown => ?mstat, ?px, fun c t v r hroom hc ht hv ha => ?xroute, fun r hroom => ?take,
    fun c r hroom hc ha => ?launch, fun a b c r hroom ha hb hc hallow => ?sgrd, fun r => ?rplack⟩
  case rink =>
    have hgood := Bool.eq_false_iff.mpr fun hbad => absurd ((rinkBad_iff (fld v 16 9) (fld v 0 11) (s.env .eg h).x.dflen).mp hbad) (by omega)
    exact runSlot_ready r ((bind_ok hv _).trans ((bind_ok (Env.blockIf_false (decide_eq_false (not_not.mpr hidle))) _).trans
      (bind_ok (stopIf_false hgood) _)))
  case rinkBad =>
    exact runSlot_traps r ((bind_ok hv _).trans ((bind_ok (Env.blockIf_false (decide_eq_false (not_not.mpr hidle))) _).trans
      (bind_error (stopIf_true ((rinkBad_iff ..).mpr hbad)) _)))
  case mopen =>
    refine runSlot_ready r ((bind_ok (Env.mergeRoom_ok (e := s.env .eg h) hroom) _).trans ((bind_ok hc _).trans
      ((bind_ok (engCap_ok ha) _).trans ?_)))
    simp only [unitOf, Nat.cast_ofNat]
    generalize (s.env .eg h).peek c.obj (c.off / 16 * 16).toNat 80 = block
    cases block <;> rfl
  case mpush =>
    simp only [List.forall_mem_cons, List.not_mem_nil, false_imp_iff, implies_true, and_true]
    and_intros <;> exact fun v b r hv hb hroom hown =>
      runSlot_ready r (Env.mpush_ok hv hb (Env.mergeRoom_ok (e := s.env .eg h) hroom) (Env.mergeCheck_own (e := s.env .eg h) hown))
  case mclose =>
    exact runSlot_ready r ((bind_ok (Env.mergeRoom_ok (e := s.env .eg h) hroom) _).trans (bind_ok (Env.mergeCheck_own (e := s.env .eg h) hown) _))
  case other =>
    simp only [List.forall_mem_cons, List.not_mem_nil, false_imp_iff, implies_true, and_true]
    refine ⟨fun v b r hv hb hroom hown => ?_, fun v b r hv hb hroom hown => ?_, fun v b r hv hb hroom hown => ?_⟩
    all_goals
      have room := Env.mergeRoom_ok (e := s.env .eg h) hroom
      have other := Env.mergeCheck_other (e := s.env .eg h) hown
    · exact runSlot_traps r (Env.mpush_other hv hb room other)
    · exact runSlot_traps r (Env.mpush_other hv hb room other)
    · exact runSlot_traps r ((bind_ok room _).trans (bind_error other _))
  case mstat =>
    exact runSlot_ready r ((bind_ok (Env.mergeRoom_ok (e := s.env .eg h) hroom) _).trans
      (bind_ok (hown.elim (Env.mergeCheck_own (e := s.env .eg h)) (Env.mergeCheck_idle (e := s.env .eg h))) _))
  case px =>
    simp only [List.forall_mem_cons, List.not_mem_nil, false_imp_iff, implies_true, and_true]
    and_intros <;> exact fun c r hroom hc ha => runSlot_ready r (Env.pxCommand_ok hroom hc ha)
  case xroute =>
    exact runSlot_ready r ((bind_ok hc _).trans ((bind_ok ht _).trans ((bind_ok hv _).trans
      ((bind_ok (Env.wdRoom_ok (e := s.env .eg h) hroom) _).trans
      (bind_ok (engCap_ok ha) _)))))
  case take => exact runSlot_ready r (bind_ok (Env.wdRoom_ok (e := s.env .eg h) hroom) _)
  case launch => exact runSlot_ready r ((bind_ok hc _).trans ((bind_ok (Env.wdRoom_ok (e := s.env .eg h) hroom) _).trans (bind_ok (engCap_ok ha) _)))
  case sgrd =>
    exact runSlot_ready r ((bind_ok ha _).trans ((bind_ok hb _).trans ((bind_ok hc _).trans
      ((bind_ok (Env.blockIf_false (decide_eq_false (not_le.mpr hroom))) _).trans (bind_ok (engCap_ok hallow) _)))))
  case rplack => exact runSlot_ready r rfl

/-! ### Sends, receives, block transfers and collectives -/

theorem fld_dst_mkE (o : BitVec 8) (h : Hd) (f : EFmt) : fld (mkE o h f) 38 9 = f.dst.toNat :=
  congrArg (fun g : EFmt => g.dst.toNat) (Laws.eOf_mkE o h f)

section
variable {e : Env} {f : EFmt} {src : Option (BitVec 24)} {c : Word}

/-- A condition of R178 that lets a bundle issue does not hold. -/
theorem Env.blockIf_passed {b : Bool} {row : BitVec 4} (hask : e.s.iss.ask = .issue) (h : e.blockIf b row = .ok ()) : b = false :=
  Bool.eq_false_iff.mpr fun hb => nomatch h.symm.trans (Env.blockIf_true hask hb)

/-- The tile of a receive waits for the a-register of its window (R178). -/
theorem Env.window_ready {op : Op} {w : Word} {t : TileReg} (hask : e.s.iss.ask = .issue) (hop : op.tileRead = some .storage)
    (ht : t ∈ e.tilesOf op w) (hwait : e.tileWait op w = .ok ()) (hk : dKind t.desc = 2) : e.srcPending (.a, dAreg t.desc) = false := by
  unfold Env.tileWait at hwait
  rw [hop] at hwait
  have hfree : e.tilePending .storage t = false := by
    simpa using List.any_eq_false.mp (Env.blockIf_passed hask hwait) t ht
  have hlast := (Bool.or_eq_false_iff.mp hfree).2
  simpa [hk] using hlast

/-- A receive reads the tile that it names as its destination (R436). -/
theorem Env.receive_reads {op : Op} (hop : op.desc.dst = .readWrite .t) (h : Hd) :
    e.x.tReg f.dst.toNat ∈ e.tilesOf op (mkE op.code h f) := by
  refine List.mem_map.mpr ⟨(.t, f.dst.toNat), List.mem_filter.mpr ⟨List.mem_append_left _ ?_, rfl⟩, rfl⟩
  unfold Op.sources
  dsimp only
  rw [hop, fld_dst_mkE]
  simp

theorem Env.receive_rows {t : TileReg} (ht : e.x.tReg f.dst.toNat = t)
    (hc : e.srcS f.sc = .ok c) (hroom : ((e.s.ctxJobs e.ci e.k).filter (fun j => JobKind.isRecv j.kind)).length < 16)
    (hd : e.dimPending (twVars t.tw) = false) (hform : e.uniForm [⟨4, t.tw, .any, .any, .any, .any, []⟩] = .ok ()) (hk : dKind t.desc = 1)
    (hrows : e.rowsPending ((List.range (dCount t.desc)).map (e.x.dfbase + dRow t.desc + ·)) = false) :
    e.receive f src = .ok (e.query (.recv ⟨twWith t.tw (e.extents t.tw), t.desc,
      Cap.zero⟩ src (c.extractLsb' 0 16) f.dst.toNat) (fvFlag f) [(.t, f.dst.toNat)] []
      [.rows (e.x.dfbase + dRow t.desc)
        (e.x.dfbase + dRow t.desc + dCount t.desc)]) := by
  unfold Env.receive Env.srcT
  dsimp only
  rw [ht, bind_ok hc, bind_ok (Env.blockIf_false (Env.ctxFull_false hroom)), bind_ok (Env.blockIf_false hd), bind_ok hform, hk]
  exact bind_ok (Env.blockIf_false hrows) _

theorem Env.receive_window {t : TileReg} (ht : e.x.tReg f.dst.toNat = t)
    (hc : e.srcS f.sc = .ok c) (hroom : ((e.s.ctxJobs e.ci e.k).filter (fun j => JobKind.isRecv j.kind)).length < 16)
    (hd : e.dimPending (twVars t.tw) = false) (hform : e.uniForm [⟨4, t.tw, .any, .any, .any, .any, []⟩] = .ok ())
    (hk : dKind t.desc = 2) (hsrc : e.srcPending (.a, dAreg t.desc) = false)
    {a : Cap} (ha : e.x.aReg (dAreg t.desc) = a) {eo : Int} (ho : a.off + dOffset t.desc = eo)
    (hallow : e.EngAllows a (rW ||| rT) eo 0) :
    e.receive f src = .ok (e.query (.recv ⟨twWith t.tw (e.extents t.tw), t.desc,
      a.withOff eo⟩ src (c.extractLsb' 0 16) f.dst.toNat) (fvFlag f) [(.t, f.dst.toNat)] [] (match e.objOf a with
        | some o => e.memRegion a eo (min a.len o.len - eo.toNat)
        | none => e.memRegion a eo (a.len - eo.toNat))) := by
  subst ht
  unfold Env.receive Env.srcT
  dsimp only
  rw [ha, ho, bind_ok hc, bind_ok (Env.blockIf_false (Env.ctxFull_false hroom)), bind_ok (Env.blockIf_false hd), bind_ok hform, hk]
  exact (bind_ok (Env.blockIf_false hsrc) _).trans (bind_ok (engCap_ok hallow) _)

end

/-- Settles O39: each takes its operands, passes its checks and is handed over. -/
theorem fabricCommands : Obligations.FabricCommands := by
  refine fun h f s => ⟨fun b c u x r hb hc hroom hu hr hconst hx => ?send, ?receives, fun a b c r hroom ha hb hc hallow hdst => ?bxfer,
    fun a b c r hroom ha hb hc hallow => ?coll⟩
  case send =>
    exact runSlot_ready r ((bind_ok hb _).trans ((bind_ok hc _).trans ((bind_ok (Env.blockIf_false (decide_eq_false (not_le.mpr hroom))) _).trans
      ((bind_ok hu _).trans ((bind_ok (Env.nonEmpty_ok hr) _).trans ((bind_ok hconst _).trans (bind_ok hx _)))))))
  case receives =>
    simp only [List.forall_mem_cons, List.not_mem_nil, false_imp_iff, implies_true, and_true]
    refine ⟨fun b c r hb hc hroom hd hform => ⟨fun hk hrows => ?_, fun hk ha => ?_⟩,
      fun b c r hb hc hroom hd hform => ⟨fun hk hrows => ?_, fun hk ha => ?_⟩⟩
    · exact runSlot_ready r ((bind_ok hb _).trans (Env.receive_rows rfl hc hroom hd hform hk hrows))
    · have hready := Env.window_ready r.plain rfl (Env.receive_reads rfl h) r.tiles hk
      exact runSlot_ready r ((bind_ok hb _).trans (Env.receive_window rfl hc hroom hd hform hk hready rfl rfl ha))
    · exact runSlot_ready r (Env.receive_rows rfl hc hroom hd hform hk hrows)
    · have hready := Env.window_ready r.plain rfl (Env.receive_reads rfl h) r.tiles hk
      exact runSlot_ready r (Env.receive_window rfl hc hroom hd hform hk hready rfl rfl ha)
  case bxfer =>
    exact runSlot_ready r ((bind_ok ha _).trans ((bind_ok hb _).trans ((bind_ok hc _).trans
      ((bind_ok (Env.blockIf_false (decide_eq_false (not_le.mpr hroom))) _).trans ((bind_ok (engCap_ok hallow) _).trans
        (bind_ok (capCheck_ok hdst) _))))))
  case coll =>
    exact runSlot_ready r ((bind_ok ha _).trans ((bind_ok hb _).trans ((bind_ok hc _).trans
      ((bind_ok (Env.blockIf_false (decide_eq_false (not_le.mpr hroom))) _).trans (bind_ok (engCap_ok hallow) _)))))

end Sys2Proof.Machine
end

section
/-!
PROOFS. The matrix tables, accumulators, step mode and matrix commands (R261, R262, R392 to R402).
-/

namespace Sys2Proof.Machine

/-! ### Accumulator access (R398, R399) -/

section
variable {e : Env} {w : Word} {cnt : Nat} {es : List Nat}

theorem Env.acmFirst_ok (h : fld w 0 32 < cnt) : e.acmFirst w cnt = .ok (fld w 0 32) :=
  bind_ok (stopIf_false (decide_eq_false (not_le.mpr h))) _

theorem Env.acmFirst_beyond (h : cnt ≤ fld w 0 32) : e.acmFirst w cnt = .error (shapeFault e.slot.num 8 0 false cnt (fld w 0 32)) :=
  bind_error (stopIf_true (decide_eq_true h)) _

theorem Env.acmEcc_ok (h : ∀ n ∈ es, n ∉ e.core.eccAcm) : e.acmEcc es = .ok () := by
  unfold Env.acmEcc
  rw [List.find?_eq_none.mpr fun n hn => by simpa using h n hn]

theorem Env.acmEcc_traps {n : Nat} (h : es.find? (fun n => e.core.eccAcm.contains n) = some n) :
    e.acmEcc es = .error (.trap .eccUncorrectable (BitVec.ofNat 64 (2 * 2 ^ 60 + n))) := by
  unfold Env.acmEcc
  rw [h]

end

/-! ### Matrix commands (R396, R397) -/

theorem Env.noTemplate_traps {e : Env} {t : Template} (h : e.x.tmpl = some t) :
    e.noTemplate = .error (.trap .engineError (BitVec.ofNat 64 (0x07 * 8 + e.slot.num))) :=
  stopIf_true (by rw [h]; rfl)

/-- An epilogue whose operands type and store (R397); BE = 1 reads the bias. -/
theorem Env.epilogue_ok {e : Env} {f : RFmt} {quant : Bool} {al : Word} {u : Uni} {x z : TileOp} {y : Option TileOp} {ta tb td : TileReg}
    (hta : e.x.tReg f.sa.toNat = ta) (htb : e.x.tReg f.sc.toNat = tb) (htd : e.x.tReg f.dst.toNat = td)
    (hroom : e.matrixFull = false) (hal : e.srcS f.sb = .ok al)
    (hu : e.unify ([⟨0, ta.tw, .oneOf [2], .oneOf [1], .oneOf [0], .oneOf [0], [.sym 0, .sym 1]⟩] ++
      (if f.imm.getLsbD 10 then [⟨2, tb.tw, .oneOf [1], .oneOf [1], .oneOf [0], .oneOf [0], [.sym 1]⟩] else []) ++
      [⟨4, td.tw, .oneOf [2], if quant then .oneOf [6, 7, 8] else .oneOf [1, 2, 3, 4, 5],
        if quant then .oneOf [0, 1] else .oneOf [0, 1, 2, 3, 4, 5],
        if quant then .oneOf [if twLay td.tw = 1 then 6 else 5] else .oneOf [0], [.sym 0, .sym 1]⟩]) = .ok u)
    (hconst : e.constant ([(0, ta.tw)] ++ (if f.imm.getLsbD 10 then [(2, tb.tw)] else []) ++ [(4, td.tw)]) u = .ok ())
    (hx : e.acmTile 0 (e.resolved u ta.tw) ta.desc = .ok x)
    (hy : if f.imm.getLsbD 10 then ∃ o, y = some o ∧
        e.dataTile 2 .jobSrc (e.resolved u tb.tw) tb.desc = .ok o else y = none)
    (hz : e.storage 4 .jobDst (e.resolved u td.tw) td.desc = .ok z) :
    e.epilogue f quant = .ok (e.issue (e.retT (e.bind u e.s) f.dst z.tw td.desc)
      (e.job (.epilogue x z y (al.extractLsb' 0 32) (e.h.fmt.getLsbD 0) (e.h.fmt.getLsbD 1) (BitVec.ofNat 2 (e.mode (bits f.imm.toNat 6 3)))
        (f.imm.getLsbD 9) quant) (engFlag f.imm) none (e.tileRegion x ++ ((y.map e.tileRegion).getD []))
        (e.tileRegion z ++ (if e.h.fmt.getLsbD 1 then e.tileRegion x else [])))) := by
  have hbias : if f.imm.getLsbD 10 then (e.dataTile 2 .jobSrc (e.resolved u tb.tw) tb.desc).map some = .ok y
      else y = none := by
    split_ifs at hy ⊢
    · obtain ⟨o, rfl, ho⟩ := hy
      rw [ho]
      rfl
    · exact hy
  subst hta htb htd
  exact (bind_ok (Env.blockIf_false hroom) _).trans ((bind_ok hal _).trans ((bind_ok hu _).trans ((bind_ok hconst _).trans
    ((bind_ok hx _).trans ((ite_bind_ok hbias).trans (bind_ok hz _))))))

/-- Settles O32: the checks of each in their order, then its effect. -/
theorem matrixTables : Obligations.MatrixTables := by
  refine ⟨⟨fun h s => ⟨fun f a r ha => ?mtw, fun f r => ?mtwi, fun f r => ?mtr, fun f r => ?mstz, fun f u base ex hacm =>
      ⟨fun r => ⟨fun hfree => ?clear, fun hheld => ?clearHeld⟩,
        fun b r hb => ⟨fun hbeyond => ?readBeyond, fun hin hheld => ?readHeld, fun n hin hfree hecc => ?readEcc, fun hin hfree hecc => ?read⟩,
        fun v c r hv hc => ⟨fun hbeyond => ?writeBeyond, fun hin hheld => ?writeHeld, fun hin hfree => ?write⟩⟩⟩, ?step⟩, ?jobs⟩
  case mtw => exact runSlot_ready r (bind_ok ha _)
  case mtwi => exact runSlot_ready r rfl
  case mtr => exact runSlot_ready r (Env.retS_ok ..)
  case mstz => exact runSlot_ready r rfl
  case clear => exact runSlot_ready r ((bind_ok hacm _).trans (bind_ok (Env.blockIf_false hfree) _))
  case clearHeld => exact runSlot_blocks r ((bind_ok hacm _).trans (bind_error (Env.blockIf_true r.plain hheld) _))
  case readBeyond =>
    obtain ⟨v, hv, hfield, hslot, hopnd, hexp, hfound⟩ := shapeFault_fields (slot := Slot.mt.num) (field := 8) (opnd := 0) (by decide) (by decide)
      (by decide) (prod ex) (fld b 0 32)
    exact ⟨v, hfield, hslot, hopnd, hexp, hfound, runSlot_traps r ((bind_ok hb _).trans ((bind_ok hacm _).trans
      (bind_error ((Env.acmFirst_beyond hbeyond).trans (congrArg Except.error hv)) _)))⟩
  case readHeld =>
    exact runSlot_blocks r ((bind_ok hb _).trans ((bind_ok hacm _).trans ((bind_ok (Env.acmFirst_ok hin) _).trans
      (bind_error (Env.blockIf_true r.plain hheld) _))))
  case readEcc =>
    exact runSlot_traps r ((bind_ok hb _).trans ((bind_ok hacm _).trans ((bind_ok (Env.acmFirst_ok hin) _).trans
      ((bind_ok (Env.blockIf_false hfree) _).trans (bind_error (Env.acmEcc_traps hecc) _)))))
  case read =>
    exact runSlot_ready r ((bind_ok hb _).trans ((bind_ok hacm _).trans ((bind_ok (Env.acmFirst_ok hin) _).trans
      ((bind_ok (Env.blockIf_false hfree) _).trans ((bind_ok (Env.acmEcc_ok hecc) _).trans (Env.retV_ok ..))))))
  case writeBeyond =>
    obtain ⟨x, hx, hfield, hslot, hopnd, hexp, hfound⟩ := shapeFault_fields (slot := Slot.mt.num) (field := 8) (opnd := 0) (by decide) (by decide)
      (by decide) (prod ex) (fld c 0 32)
    exact ⟨x, hfield, hslot, hopnd, hexp, hfound, runSlot_traps r ((bind_ok hv _).trans ((bind_ok hc _).trans ((bind_ok hacm _).trans
      (bind_error ((Env.acmFirst_beyond hbeyond).trans (congrArg Except.error hx)) _))))⟩
  case writeHeld =>
    exact runSlot_blocks r ((bind_ok hv _).trans ((bind_ok hc _).trans ((bind_ok hacm _).trans ((bind_ok (Env.acmFirst_ok hin) _).trans
      (bind_error (Env.blockIf_true r.plain hheld) _)))))
  case write =>
    exact runSlot_ready r ((bind_ok hv _).trans ((bind_ok hc _).trans ((bind_ok hacm _).trans ((bind_ok (Env.acmFirst_ok hin) _).trans
      (bind_ok (Env.blockIf_false hfree) _)))))
  case step =>
    refine fun h f s => ⟨fun ix u a b r hix hu hc ha hb hrows => ?mstep, fun r howed => ?notOwed,
      fun rc u base ex v r howed hrec hv hacm => ⟨fun hheld => ?held, fun n hfree hecc => ?ecc, fun hfree hecc => ?scale⟩⟩
    case mstep =>
      exact runSlot_ready r ((bind_ok hix _).trans ((bind_ok hu _).trans ((bind_ok hc _).trans ((bind_ok ha _).trans ((bind_ok hb _).trans
        (bind_ok hrows _))))))
    case notOwed =>
      exact runSlot_traps r ((bind_ok (Env.asked_ok r.plain _) _).trans (bind_error (stopIf_true (congrArg not howed)) _))
    case held =>
      refine runSlot_traps r ((bind_ok (Env.asked_ok r.plain _) _).trans ((bind_ok (stopIf_false (congrArg not howed)) _).trans
        ((ite_bind_ok hv).trans ?_)))
      rw [hrec]
      exact (bind_ok hacm _).trans (bind_error (stopIf_true hheld) _)
    case ecc =>
      refine runSlot_traps r ((bind_ok (Env.asked_ok r.plain _) _).trans ((bind_ok (stopIf_false (congrArg not howed)) _).trans
        ((ite_bind_ok hv).trans ?_)))
      rw [hrec]
      exact (bind_ok hacm _).trans ((bind_ok (stopIf_false hfree) _).trans (bind_error (Env.acmEcc_traps hecc) _))
    case scale =>
      refine runSlot_ready r ((bind_ok (Env.asked_ok r.plain _) _).trans ((bind_ok (stopIf_false (congrArg not howed)) _).trans
        ((ite_bind_ok hv).trans ?_)))
      rw [hrec]
      exact (bind_ok hacm _).trans ((bind_ok (stopIf_false hfree) _).trans (bind_ok (Env.acmEcc_ok hecc) _))
  case jobs =>
    refine fun h f s => ⟨fun u x y z r hroom hu hst => ?mmul, fun u x y z sc rs r htmpl hroom hnest hu hst hsc => ?nest,
      fun t htmpl => ⟨fun r hroom => ?nestIn, fun r => ?templateIn⟩, fun r htmpl hnest => ?template, ?epilogues⟩
    case mmul => exact runSlot_ready r ((bind_ok (Env.blockIf_false hroom) _).trans ((bind_ok hu _).trans (bind_ok hst _)))
    case nest =>
      exact runSlot_ready r ((bind_ok (Env.asked_ok r.plain _) _).trans ((bind_ok (Env.blockIf_false hroom) _).trans
        ((bind_ok (Env.noTemplate_ok htmpl) _).trans ((bind_ok (stopIf_false hnest) _).trans ((bind_ok hu _).trans
          ((bind_ok hst _).trans (bind_ok hsc _)))))))
    case nestIn =>
      exact runSlot_traps r ((bind_ok (Env.asked_ok r.plain _) _).trans ((bind_ok (Env.blockIf_false hroom) _).trans
        (bind_error (Env.noTemplate_traps htmpl) _)))
    case templateIn => exact runSlot_traps r (bind_error (Env.noTemplate_traps htmpl) _)
    case template =>
      refine runSlot_ready r ((bind_ok (Env.noTemplate_ok htmpl) _).trans ((bind_ok (stopIf_false hnest) _).trans ?_))
      exact (apply_ite (Except.ok (ε := Stop)) ..).symm
    case epilogues =>
      simp only [List.forall_mem_cons, List.not_mem_nil, false_imp_iff, implies_true, and_true]
      and_intros <;> exact fun al u x z y r hroom hal hu hconst hx hy hz => runSlot_ready r (Env.epilogue_ok rfl rfl rfl hroom hal hu hconst hx hy hz)

end Sys2Proof.Machine
end
